-- ==== Sys2Proof/Word.lean ====
section
/-!
DEFINITION. The machine's plainest words: a byte, a 32-bit instruction word and a 64-bit register.
-/
namespace Sys2Proof

/-- A byte of memory or of a buffer. -/
abbrev Byte := BitVec 8

/-- A 32-bit word: an instruction word (R94), an `a`, `h` or `c` register (R23). -/
abbrev Word32 := BitVec 32

/-- A 64-bit SQ register (R23). -/
abbrev Word64 := BitVec 64

end Sys2Proof
end

