-- ==== Sys2Proof/Config.lean ====
section
/-!
DEFINITION. What the implementation fixes and the manual leaves open. Each constant is opaque: nothing in Lean can
evaluate it, so a claim proved of the model holds whatever its value is.
-/
namespace Sys2Proof.Config

/-- How many 1.1 GHz cycles the `n`-th step of the machine takes: results never depend on it (R1, R286; log 7: DESIGN CHOICE). -/
opaque cycles : Nat → Nat

/-- A value the manual does not state, drawn for the `n`-th time: a word of the stated width is its low bits (log 7: DESIGN CHOICE). -/
opaque freeNat : Nat → Nat

/-- Which set of a die's L2 a line belongs to: the remainder by 65,536 (R11; log 31: DESIGN CHOICE). -/
opaque l2Set : Nat → Nat

/-- The root and the seed of the Treluntos public key, 64 bytes each as numbers, least significant byte first (R422; log 4: DESIGN CHOICE). -/
opaque treluntosRoot : Nat
opaque treluntosSeed : Nat

/-- The device identity key: the secret of chain `j` of the one-time key `idx`, the secret of the randomisers and the public
seed, 64 bytes each as numbers (R423; log 4: DESIGN CHOICE). -/
opaque identityKey : Nat → Nat → Nat
opaque identityPrf : Nat
opaque identitySeed : Nat

/-- The package's serial number (R424; log 4: DESIGN CHOICE). -/
opaque serial : BitVec 64

/-- The fuse floor of firmware versions as the package was made (R422; log 4: DESIGN CHOICE). -/
opaque fuseFloor : Nat

end Sys2Proof.Config
end

