-- ==== Sys2Proof/Syntax.lean ====
section
/-!
DEFINITION. The instruction set as syntax: one constructor for each row of the opcode table, in the table's order.
The first 291 are the words of the five streams (SQ, VE, ME, XL and XS; the prefixes and the words of opcodes
0x20 to 0x36 of the transfer units are shared); the last 88 are the machine's and the host's events, which have no word.
Operand fields are natural numbers; `WellFormed` says which values a field may hold (R94 to R96).
-/
namespace Sys2Proof

/-- The five streams of a context (R13); `code` numbers them in the order SQ, VE, ME, XL, XS (R85). -/
inductive StreamId where
  | sq | ve | me | xl | xs
  deriving DecidableEq, Repr

/-- The codes of R85 for the streams. -/
def StreamId.code : StreamId → Nat
  | .sq => 0 | .ve => 1 | .me => 2 | .xl => 3 | .xs => 4

/-- The stream of a code of R85 (codes above 4 name none and read as XS). -/
def StreamId.ofCode : Nat → StreamId
  | 0 => .sq | 1 => .ve | 2 => .me | 3 => .xl | _ => .xs

/-- The cause codes of R396. -/
inductive Cause where
  | illWord | illOp | illRsv | illPfx | illGroup | veType
  | crValue | swTrap | arithInv | semOverflow | bufRange | bufPath
  | misalign | flatCarry | pcAlign | jtabFmt | loopLev | barAlign
  | cxRec | xfRec | xfBound | meCfg | meFmt | meShape
  | meTq | asgCol | asgRec | cbId | cbDesc | cbStale
  | cbPin | cbShape | atomicHost | scope | txDesc | txBound
  | txPerm | txWorld | txEntry | txFail | caseMiss | memUe
  | platenPar | casePar
  deriving DecidableEq, Repr

/-- The numbers R396 gives the causes. -/
def Cause.code : Cause → Nat
  | .illWord => 0x01
  | .illOp => 0x02
  | .illRsv => 0x03
  | .illPfx => 0x04
  | .illGroup => 0x05
  | .veType => 0x06
  | .crValue => 0x07
  | .swTrap => 0x08
  | .arithInv => 0x09
  | .semOverflow => 0x0A
  | .bufRange => 0x0B
  | .bufPath => 0x0C
  | .misalign => 0x0D
  | .flatCarry => 0x0E
  | .pcAlign => 0x0F
  | .jtabFmt => 0x10
  | .loopLev => 0x11
  | .barAlign => 0x12
  | .cxRec => 0x13
  | .xfRec => 0x14
  | .xfBound => 0x15
  | .meCfg => 0x16
  | .meFmt => 0x17
  | .meShape => 0x18
  | .meTq => 0x19
  | .asgCol => 0x1A
  | .asgRec => 0x1B
  | .cbId => 0x1C
  | .cbDesc => 0x1D
  | .cbStale => 0x1E
  | .cbPin => 0x1F
  | .cbShape => 0x20
  | .atomicHost => 0x21
  | .scope => 0x22
  | .txDesc => 0x30
  | .txBound => 0x31
  | .txPerm => 0x32
  | .txWorld => 0x33
  | .txEntry => 0x34
  | .txFail => 0x35
  | .caseMiss => 0x36
  | .memUe => 0x40
  | .platenPar => 0x41
  | .casePar => 0x42

/-- A request from another package that arrives at a fabric port (R436, R445). `op` is 0 for a read, 1 for a write and
2 for an atomic of kind `aop` (R120; 9 is `cas`) on `size` bytes at device physical address `addr`; `sync` says that it is
a sync access (R327) at scope code `scope` from core `core` of package `pkg`. -/
structure PeerReq where
  pkg : Nat
  core : Nat
  op : Nat
  aop : Nat
  addr : Nat
  size : Nat
  value : Nat
  compare : Nat
  poison : Nat
  sync : Bool
  scope : Nat
  deriving DecidableEq, Repr

/-- One context frame of a virtual device on its way from package A to package B (R429): the bytes that are not zero, at
their offset in the frame, its poisoned 64-bit words (R448), the launch instance and the WHO the context had at A, and its private
sections (R399). -/
structure VdContext where
  bytes : List (Nat × BitVec 8)
  linst : Nat
  who : Nat
  saveId : Nat
  poison : List Nat := []
  deriving DecidableEq, Repr

/-- The state of a virtual device as the migration agent at A sends it (R429). Tables are given by the bytes that are
not zero, at their offset; `descs` are the descriptors in index order and `tiles` their tile tables in that order. `poison` names the
poisoned 64-bit words by part and offset in it (R448): 1 the tensor table, 2 the tile tables as they lie in the region, 3 the codebook
table, 4 the launch pool, 5 the page-fault queue, 6 the interrupt log, 7 the firmware's state. -/
structure VdState where
  secure : Bool
  peer : Nat
  contexts : List VdContext
  descs : List (BitVec 512)
  tiles : List (List (BitVec 128))
  cbCount : Nat
  cbtab : List (Nat × BitVec 8)
  lrpool : List (Nat × BitVec 8)
  pfqK : Nat
  pfq : List (Nat × BitVec 8)
  pfqHead : Nat
  pfqTail : Nat
  ilogK : Nat
  ilog : List (Nat × BitVec 8)
  ilogHead : Nat
  ilogTail : Nat
  fw : List (Nat × BitVec 8)
  status : Nat
  poison : List (Nat × Nat) := []
  deriving DecidableEq, Repr

/-- The instructions and events of the machine, one constructor per row of the opcode table. -/
inductive Instr where
  /-- ADD (R111): Writes the 64-bit sum of two s registers, modulo 2^64. -/
  | add (sd sa sb : Nat)
  /-- SUB (R111): Writes the 64-bit difference of two s registers. -/
  | sub (sd sa sb : Nat)
  /-- AND (R111): Writes the bitwise AND of two s registers. -/
  | and (sd sa sb : Nat)
  /-- OR (R111): Writes the bitwise OR of two s registers. -/
  | or (sd sa sb : Nat)
  /-- XOR (R111): Writes the bitwise XOR of two s registers. -/
  | xor (sd sa sb : Nat)
  /-- SLL (R111): Shifts s[sa] left by s[sb][5:0]. -/
  | sll (sd sa sb : Nat)
  /-- SRL (R111): Shifts s[sa] right logically by s[sb][5:0]. -/
  | srl (sd sa sb : Nat)
  /-- SRA (R111): Shifts s[sa] right arithmetically by s[sb][5:0]. -/
  | sra (sd sa sb : Nat)
  /-- SLT (R111): Writes 1 if s[sa] is less than s[sb] as signed, else 0. -/
  | slt (sd sa sb : Nat)
  /-- SLTU (R111): Writes 1 if s[sa] is less than s[sb] as unsigned, else 0. -/
  | sltu (sd sa sb : Nat)
  /-- MIN (R111): Writes the signed minimum of two s registers. -/
  | min (sd sa sb : Nat)
  /-- MAX (R111): Writes the signed maximum of two s registers. -/
  | max (sd sa sb : Nat)
  /-- MINU (R111): Writes the unsigned minimum of two s registers. -/
  | minu (sd sa sb : Nat)
  /-- MAXU (R111): Writes the unsigned maximum of two s registers. -/
  | maxu (sd sa sb : Nat)
  /-- SEXT_I8 (R111): Sign-extends bits [7:0] of s[sa]. -/
  | sextI8 (sd sa : Nat)
  /-- SEXT_I16 (R111): Sign-extends bits [15:0] of s[sa]. -/
  | sextI16 (sd sa : Nat)
  /-- SEXT_I32 (R111): Sign-extends bits [31:0] of s[sa]. -/
  | sextI32 (sd sa : Nat)
  /-- ZEXT_N8 (R111): Zero-extends bits [7:0] of s[sa]. -/
  | zextN8 (sd sa : Nat)
  /-- ZEXT_N16 (R111): Zero-extends bits [15:0] of s[sa]. -/
  | zextN16 (sd sa : Nat)
  /-- ZEXT_N32 (R111): Zero-extends bits [31:0] of s[sa]. -/
  | zextN32 (sd sa : Nat)
  /-- CLZ (R111): Counts the leading zero bits of s[sa]. -/
  | clz (sd sa : Nat)
  /-- CTZ (R111): Counts the trailing zero bits of s[sa]. -/
  | ctz (sd sa : Nat)
  /-- POPC (R111): Counts the one bits of s[sa]. -/
  | popc (sd sa : Nat)
  /-- MUL (R112): Writes the low 64 bits of the product. -/
  | mul (sd sa sb : Nat)
  /-- MULH (R112): Writes the high 64 bits of the signed 128-bit product. -/
  | mulh (sd sa sb : Nat)
  /-- MULHU (R112): Writes the high 64 bits of the unsigned 128-bit product. -/
  | mulhu (sd sa sb : Nat)
  /-- DIV (R112): Writes the signed quotient truncated toward zero. -/
  | div (sd sa sb : Nat)
  /-- DIVU (R112): Writes the unsigned quotient. -/
  | divu (sd sa sb : Nat)
  /-- REM (R112): Writes the signed remainder, with the sign of s[sa]. -/
  | rem (sd sa sb : Nat)
  /-- REMU (R112): Writes the unsigned remainder. -/
  | remu (sd sa sb : Nat)
  /-- ADDI (R114): Adds a sign-extended, prefix-extensible immediate to s[sa]. -/
  | addi (sd sa imm : Nat)
  /-- ANDI (R114): Writes the bitwise AND of s[sa] with an immediate. -/
  | andi (sd sa imm : Nat)
  /-- ORI (R114): Writes the bitwise OR of s[sa] with an immediate. -/
  | ori (sd sa imm : Nat)
  /-- XORI (R114): Writes the bitwise XOR of s[sa] with an immediate. -/
  | xori (sd sa imm : Nat)
  /-- SLTI (R114): Writes 1 if s[sa] is less than the immediate as signed. -/
  | slti (sd sa imm : Nat)
  /-- SLTIU (R114): Writes 1 if s[sa] is less than the sign-extended immediate as unsigned. -/
  | sltiu (sd sa imm : Nat)
  /-- SLLI (R115): Shifts s[sa] left by an immediate count. -/
  | slli (sd sa sh : Nat)
  /-- SRLI (R115): Shifts s[sa] right logically by an immediate count. -/
  | srli (sd sa sh : Nat)
  /-- SRAI (R115): Shifts s[sa] right arithmetically by an immediate count. -/
  | srai (sd sa sh : Nat)
  /-- LUI (R114): Writes the immediate shifted left by 16 bits. -/
  | lui (sd imm : Nat)
  /-- ORHI (R114): Places the immediate in bits [63:32] above s[sa][31:0]. -/
  | orhi (sd sa imm : Nat)
  /-- LD (R118): Loads a value of the TY width from a flat address with a displacement and extends it. -/
  | ld (sd sa ty off : Nat)
  /-- ST (R118): Stores the low bytes of s[sv] to a flat address with a displacement. -/
  | st (sv sa ty off : Nat)
  /-- LDX (R118): Loads a value from a flat address with an indexed offset. -/
  | ldx (sd sa sb ty : Nat)
  /-- STX (R118): Stores a value to a flat address with an indexed offset. -/
  | stx (sv sa sb ty : Nat)
  /-- AMO_ADD (R121): Atomically adds s[sb] to memory at the scope's home and returns the old value. -/
  | amoAdd (sd sa sb w ord scope : Nat)
  /-- AMO_AND (R121): Atomically ANDs s[sb] into memory and returns the old value. -/
  | amoAnd (sd sa sb w ord scope : Nat)
  /-- AMO_OR (R121): Atomically ORs s[sb] into memory and returns the old value. -/
  | amoOr (sd sa sb w ord scope : Nat)
  /-- AMO_XOR (R121): Atomically XORs s[sb] into memory and returns the old value. -/
  | amoXor (sd sa sb w ord scope : Nat)
  /-- AMO_MIN (R121): Atomically keeps the signed minimum in memory and returns the old value. -/
  | amoMin (sd sa sb w ord scope : Nat)
  /-- AMO_MAX (R121): Atomically keeps the signed maximum in memory and returns the old value. -/
  | amoMax (sd sa sb w ord scope : Nat)
  /-- AMO_MINU (R121): Atomically keeps the unsigned minimum in memory and returns the old value. -/
  | amoMinu (sd sa sb w ord scope : Nat)
  /-- AMO_MAXU (R121): Atomically keeps the unsigned maximum in memory and returns the old value. -/
  | amoMaxu (sd sa sb w ord scope : Nat)
  /-- AMO_SWAP (R121): Atomically writes s[sb] to memory and returns the old value. -/
  | amoSwap (sd sa sb w ord scope : Nat)
  /-- AMO_CAS (R121): Atomically writes s[sb] when memory equals s[sd], and returns the old value. -/
  | amoCas (sd sa sb w ord scope : Nat)
  /-- FENCE_C (R124): Orders the stream's earlier and later accesses of the masked classes, with no cache action. -/
  | fenceC (mask : Nat)
  /-- FENCE_ACQ (R124): Performs an acquire fence at a scope for the masked classes. -/
  | fenceAcq (scope mask : Nat)
  /-- FENCE_REL (R124): Performs a release fence at a scope for the masked classes. -/
  | fenceRel (scope mask : Nat)
  /-- FENCE_ACQREL (R124): Performs an acquire-release fence at a scope for the masked classes. -/
  | fenceAcqrel (scope mask : Nat)
  /-- SQ_SEM_SIG (R126): Releases at the scope, then adds 1 to a semaphore of the context. -/
  | sqSemSig (scope sem : Nat)
  /-- SQ_SEM_WAIT (R126): Blocks until the semaphore count is at least 1, subtracts 1 and acquires. -/
  | sqSemWait (scope sem : Nat)
  /-- SEM_SIGR (R127): Releases at package scope and signals a semaphore of another context, writing a status. -/
  | semSigr (sa sd sem : Nat)
  /-- SQ_TL_WAIT (R129): Blocks until a timeline's completion value reaches s[sa], then acquires. -/
  | sqTlWait (tl sa : Nat)
  /-- TL_RD (R129): Returns a timeline's completion value. -/
  | tlRd (tl sd : Nat)
  /-- TL_RDI (R129): Returns a timeline's last issue number. -/
  | tlRdi (tl sd : Nat)
  /-- TL_ERR (R129): Returns and clears a timeline's error bit. -/
  | tlErr (tl sd : Nat)
  /-- SQ_BAR_INIT (R131): Sets a barrier object's EXPECTED, clears ARRIVED and advances PHASE. -/
  | sqBarInit (sa sb : Nat)
  /-- SQ_BAR_WAIT (R131): Blocks until ARRIVED reaches EXPECTED, acquires and returns PHASE. -/
  | sqBarWait (sa sd : Nat)
  /-- RINV (R132): Drops from L1D every line overlapping a flat range. -/
  | rinv (sa sb : Nat)
  /-- BEQ (R134): Branches when two s registers are equal. -/
  | beq (sa sb off : Nat)
  /-- BNE (R134): Branches when two s registers differ. -/
  | bne (sa sb off : Nat)
  /-- BLT (R134): Branches when s[sa] is less than s[sb] as signed. -/
  | blt (sa sb off : Nat)
  /-- BGE (R134): Branches when s[sa] is greater or equal as signed. -/
  | bge (sa sb off : Nat)
  /-- BLTU (R134): Branches when s[sa] is less than s[sb] as unsigned. -/
  | bltu (sa sb off : Nat)
  /-- BGEU (R134): Branches when s[sa] is greater or equal as unsigned. -/
  | bgeu (sa sb off : Nat)
  /-- JAL (R135): Jumps by a word offset and links the return address. -/
  | jal (sd off : Nat)
  /-- JALR (R135): Jumps to a register plus byte offset and links the return address. -/
  | jalr (sd sa off : Nat)
  /-- JTAB (R136): Selects a target from a bucket table by count, or falls through. -/
  | jtab (sd sa off : Nat)
  /-- SQ_LBR (R137): Closes one iteration of a loop level for SQ. -/
  | sqLbr (lev off : Nat)
  /-- CB_PUB (R69): Publishes a new codebook version after a package-scope release and writes a status. -/
  | cbPub (sd sa sb : Nat)
  /-- CB_PIN (R69): Adds one pin to a codebook version and writes a status. -/
  | cbPin (sd sa sb : Nat)
  /-- CB_UNPIN (R69): Removes one pin from a codebook version, freeing a draining one, and writes a status. -/
  | cbUnpin (sd sa sb : Nat)
  /-- LR_PATCH (R141): Writes one patchable field of a launch record and returns a status. -/
  | lrPatch (sd sa sb field : Nat)
  /-- LR_ARM (R142): Releases, selects a bucket and arms a launch record, posting it to its home MC. -/
  | lrArm (sd sa sb : Nat)
  /-- ASG_WR (R356): Writes an ASG register after earlier ASG commands complete. -/
  | asgWr (sa rsel : Nat)
  /-- ASG_RD (R356): Reads an ASG register after earlier ASG commands complete. -/
  | asgRd (sd rsel : Nat)
  /-- ASG_PGET (R356): Reads one column price register. -/
  | asgPget (sd sa : Nat)
  /-- ASG_PPUT (R356): Writes one column price register. -/
  | asgPput (sa sb : Nat)
  /-- ASG_PFILL (R356): Writes one value into all 256 price registers. -/
  | asgPfill (sa : Nat)
  /-- ASG_RUN (R357): Checks a run record and issues an auction run on TL6. -/
  | asgRun (sd sa : Nat)
  /-- ASG_PLD (R357): Issues a command that loads price registers from AB. -/
  | asgPld (sd sa sb : Nat)
  /-- ASG_PST (R357): Issues a command that stores price registers to AB. -/
  | asgPst (sd sa sb : Nat)
  /-- CX_COPY (R147): Reads and checks a copy record and enqueues a bulk copy on a copy context. -/
  | cxCopy (sd sa cx : Nat)
  /-- CX_PROG (R148): Returns the bytes written by the oldest incomplete copy on a copy context. -/
  | cxProg (sd cx : Nat)
  /-- SQ_CR_RD (R150): Reads an SQ-visible control register. -/
  | sqCrRd (sd csel : Nat)
  /-- SQ_CR_WR (R150): Writes an SQ-visible control register, with value checks. -/
  | sqCrWr (sa csel : Nat)
  /-- SQ_TRAP (R154): Raises a precise SW_TRAP with a code. -/
  | sqTrap (code : Nat)
  /-- SQ_END (R155): Waits for SQ's asynchronous commands, then retires SQ. -/
  | sqEnd
  /-- SQ_YIELD (R156): Gives up SQ's issue slot for the next cycle. -/
  | sqYield
  /-- LC_RD (R138): Returns a loop-level counter. -/
  | lcRd (sd lev : Nat)
  /-- LC_IT (R138): Returns SQ's iteration index of a level. -/
  | lcIt (sd lev : Nat)
  /-- PFX_IMM (R101): Extends the immediate of the following instruction by 20 high bits. -/
  | pfxImm (imm : Nat)
  /-- PFX_ORD (R103): Overrides the class and adds order and scope to the following instruction. -/
  | pfxOrd (cls ord scope : Nat)
  /-- VADD (R171): Adds two rows lane by lane under a guard. -/
  | vadd (stop vd va vb pg : Nat)
  /-- VSUB (R171): Subtracts two rows lane by lane. -/
  | vsub (stop vd va vb pg : Nat)
  /-- VMUL (R171): Multiplies two rows lane by lane. -/
  | vmul (stop vd va vb pg : Nat)
  /-- VFMA (R172): Accumulates va times vb into vd with one rounding. -/
  | vfma (stop vd va vb pg : Nat)
  /-- VFMA_R (R172): Fused multiply-add with the va operand-reuse hint. -/
  | vfmaR (stop vd va vb pg : Nat)
  /-- VFMS (R172): Subtracts va times vb from vd with one rounding. -/
  | vfms (stop vd va vb pg : Nat)
  /-- VFMS_R (R172): Fused multiply-subtract with the va operand-reuse hint. -/
  | vfmsR (stop vd va vb pg : Nat)
  /-- VMIN (R173): Selects the lane-wise minimum. -/
  | vmin (stop vd va vb pg : Nat)
  /-- VMAX (R173): Selects the lane-wise maximum. -/
  | vmax (stop vd va vb pg : Nat)
  /-- VAND (R171): Bitwise AND of two rows. -/
  | vand (stop vd va vb pg : Nat)
  /-- VOR (R171): Bitwise OR of two rows. -/
  | vor (stop vd va vb pg : Nat)
  /-- VXOR (R171): Bitwise XOR of two rows. -/
  | vxor (stop vd va vb pg : Nat)
  /-- VSHL (R174): Shifts integer lanes left by vb mod w. -/
  | vshl (stop vd va vb pg : Nat)
  /-- VSHR (R174): Shifts integer lanes right by vb mod w. -/
  | vshr (stop vd va vb pg : Nat)
  /-- VQADD (R174): Saturating integer add. -/
  | vqadd (stop vd va vb pg : Nat)
  /-- VQSUB (R174): Saturating integer subtract. -/
  | vqsub (stop vd va vb pg : Nat)
  /-- VSEL (R175): Selects va or vb per lane by a predicate. -/
  | vsel (stop vd va vb pg : Nat)
  /-- VCMP_EQ (R176): Sets predicate bits where lanes are equal. -/
  | vcmpEq (stop pd va vb pg : Nat)
  /-- VCMP_NE (R176): Sets predicate bits where lanes are not equal. -/
  | vcmpNe (stop pd va vb pg : Nat)
  /-- VCMP_LT (R176): Sets predicate bits where a is less than b. -/
  | vcmpLt (stop pd va vb pg : Nat)
  /-- VCMP_LE (R176): Sets predicate bits where a is at most b. -/
  | vcmpLe (stop pd va vb pg : Nat)
  /-- VCMP_GT (R176): Sets predicate bits where a is greater than b. -/
  | vcmpGt (stop pd va vb pg : Nat)
  /-- VCMP_GE (R176): Sets predicate bits where a is at least b. -/
  | vcmpGe (stop pd va vb pg : Nat)
  /-- VCMP_UNORD (R176): Sets predicate bits where either float lane is NaN. -/
  | vcmpUnord (stop pd va vb pg : Nat)
  /-- VADD_VS (R177): Adds a scalar from an a-register to each lane. -/
  | vaddVs (stop vd va ar pg : Nat)
  /-- VSUB_VS (R177): Subtracts a scalar from each lane. -/
  | vsubVs (stop vd va ar pg : Nat)
  /-- VMUL_VS (R177): Multiplies each lane by a scalar. -/
  | vmulVs (stop vd va ar pg : Nat)
  /-- VMIN_VS (R177): Lane-wise minimum with a scalar. -/
  | vminVs (stop vd va ar pg : Nat)
  /-- VMAX_VS (R177): Lane-wise maximum with a scalar. -/
  | vmaxVs (stop vd va ar pg : Nat)
  /-- VFMA_VS (R177): Accumulates va times a scalar into vd with one rounding. -/
  | vfmaVs (stop vd va ar pg : Nat)
  /-- VRSUB (R177): Writes the scalar minus each lane. -/
  | vrsub (stop vd va ar pg : Nat)
  /-- VBCAST (R177): Broadcasts a scalar to the guarded lanes. -/
  | vbcast (stop vd ar pg : Nat)
  /-- VMOV (R178): Copies lanes unchanged. -/
  | vmov (stop vd va pg : Nat)
  /-- VNEG (R178): Negates lanes. -/
  | vneg (stop vd va pg : Nat)
  /-- VABS (R178): Takes the absolute value of lanes. -/
  | vabs (stop vd va pg : Nat)
  /-- VNOT (R178): Complements lane bits. -/
  | vnot (stop vd va pg : Nat)
  /-- VCLZ (R178): Counts leading zeros of integer lanes. -/
  | vclz (stop vd va pg : Nat)
  /-- VPOPC (R178): Counts one bits of integer lanes. -/
  | vpopc (stop vd va pg : Nat)
  /-- VRND (R178): Rounds float lanes to integral values under RM. -/
  | vrnd (stop vd va pg : Nat)
  /-- VCVT (R179): Converts lanes between two element types, narrowing or widening by part. -/
  | vcvt (stop vd va sty dty part : Nat)
  /-- VRCP (R180): Correctly rounded reciprocal of float lanes. -/
  | vrcp (stop vd va pg : Nat)
  /-- VRSQRT (R180): Correctly rounded reciprocal square root. -/
  | vrsqrt (stop vd va pg : Nat)
  /-- VSQRT (R180): Correctly rounded square root. -/
  | vsqrt (stop vd va pg : Nat)
  /-- VEXP2 (R180): Correctly rounded 2 to the x. -/
  | vexp2 (stop vd va pg : Nat)
  /-- VLOG2 (R180): Correctly rounded base-2 logarithm. -/
  | vlog2 (stop vd va pg : Nat)
  /-- VEXP (R180): Correctly rounded e to the x. -/
  | vexp (stop vd va pg : Nat)
  /-- VTANH (R180): Correctly rounded hyperbolic tangent. -/
  | vtanh (stop vd va pg : Nat)
  /-- VSIGM (R180): Correctly rounded logistic sigmoid. -/
  | vsigm (stop vd va pg : Nat)
  /-- VDIV (R182): Divides lanes, correctly rounded for floats. -/
  | vdiv (stop vd va vb pg : Nat)
  /-- VRED_SUM (R183): Reduces lanes by sum in the NBL order into an a-register. -/
  | vredSum (stop ad va pg : Nat)
  /-- VRED_MIN (R183): Reduces lanes by minimum. -/
  | vredMin (stop ad va pg : Nat)
  /-- VRED_MAX (R183): Reduces lanes by maximum. -/
  | vredMax (stop ad va pg : Nat)
  /-- VRED_AND (R183): Reduces lanes by bitwise AND. -/
  | vredAnd (stop ad va pg : Nat)
  /-- VRED_OR (R183): Reduces lanes by bitwise OR. -/
  | vredOr (stop ad va pg : Nat)
  /-- VRED_XOR (R183): Reduces lanes by bitwise XOR. -/
  | vredXor (stop ad va pg : Nat)
  /-- VPERM (R184): Permutes lanes of va by indices in vb. -/
  | vperm (stop vd va vb pg : Nat)
  /-- VCOMPRESS (R185): Packs the masked lanes to the front and writes their count. -/
  | vcompress (stop vd va ad pg : Nat)
  /-- VEXPAND (R185): Spreads leading lanes into the masked lanes. -/
  | vexpand (stop vd va pg : Nat)
  /-- VSLUP (R186): Slides lanes up by a scalar count. -/
  | vslup (stop vd va ar pg : Nat)
  /-- VSLDN (R186): Slides lanes down by a scalar count. -/
  | vsldn (stop vd va ar pg : Nat)
  /-- VBCASTL (R186): Broadcasts one lane to the guarded lanes. -/
  | vbcastl (stop vd va ar pg : Nat)
  /-- VEXT (R186): Extracts one lane into an a-register. -/
  | vext (stop ad va ar : Nat)
  /-- VINS (R186): Inserts an a-register value into one lane. -/
  | vins (stop vd av ar : Nat)
  /-- VLD (R187): Loads a whole 256-byte row from AB. -/
  | vld (stop vd ab off : Nat)
  /-- VST (R187): Stores a whole 256-byte row to AB. -/
  | vst (stop va ab off : Nat)
  /-- VLDX (R188): Gathers elements from AB by lane indices. -/
  | vldx (stop vd ab vb pg : Nat)
  /-- VSTP (R188): Stores the active lanes to AB at their own positions. -/
  | vstp (stop va ab pg : Nat)
  /-- VSTX (R188): Scatters the active lanes to AB by lane indices. -/
  | vstx (stop va ab vb pg : Nat)
  /-- PAND (R190): Predicate AND. -/
  | pand (stop pd pa pb : Nat)
  /-- POR (R190): Predicate OR. -/
  | por (stop pd pa pb : Nat)
  /-- PXOR (R190): Predicate XOR. -/
  | pxor (stop pd pa pb : Nat)
  /-- PANDN (R190): Predicate AND NOT. -/
  | pandn (stop pd pa pb : Nat)
  /-- PNOT (R190): Predicate NOT. -/
  | pnot (stop pd pa : Nat)
  /-- PSET (R190): Sets all lanes of a predicate. -/
  | pset (stop pd : Nat)
  /-- PCLR (R190): Clears all lanes of a predicate. -/
  | pclr (stop pd : Nat)
  /-- PMOV (R190): Copies a predicate. -/
  | pmov (stop pd pa : Nat)
  /-- PCOUNT (R191): Counts the set bits of a predicate. -/
  | pcount (stop ad pa : Nat)
  /-- PFIRST (R191): Finds the lowest set lane of a predicate. -/
  | pfirst (stop ad pa : Nat)
  /-- PWHILE (R191): Sets the lanes below an a-register count. -/
  | pwhile (stop ad pa : Nat)
  /-- VE_CR_RD (R192): Reads bits [31:0] of a VE-visible control register. -/
  | veCrRd (stop ar csel : Nat)
  /-- VE_CR_RD_HI (R192): Reads bits [63:32] of a VE-visible control register. -/
  | veCrRdHi (stop ar csel : Nat)
  /-- VE_CR_WR (R192): Writes a VE-visible control register from the next group. -/
  | veCrWr (stop ar csel : Nat)
  /-- VE_LBR (R193): Closes a VE loop iteration, rotating registers and stage predicates. -/
  | veLbr (stop lev off : Nat)
  /-- VE_SEM_SIG (R196): After the group's writes, releases and adds 1 to a semaphore. -/
  | veSemSig (stop sem : Nat)
  /-- VE_SEM_WAIT (R196): Blocks the group until a semaphore count is at least 1, then acquires. -/
  | veSemWait (stop sem : Nat)
  /-- VE_TL_WAIT (R196): Blocks until a timeline reaches a[aa], then acquires. -/
  | veTlWait (stop tl aa : Nat)
  /-- VE_END (R197): Retires VE after the group's writes. -/
  | veEnd (stop : Nat)
  /-- VE_TRAP (R197): Raises SW_TRAP after the group. -/
  | veTrap (stop code : Nat)
  /-- VE_YIELD (R197): Gives up VE's issue slot for the next cycle. -/
  | veYield (stop : Nat)
  /-- BZ (R195): Branches when an a-register is zero. -/
  | bz (stop ar off : Nat)
  /-- BNZ (R195): Branches when an a-register is non-zero. -/
  | bnz (stop ar off : Nat)
  /-- A_ADD (R198): a-register sum. -/
  | aAdd (stop ad aa ab : Nat)
  /-- A_SUB (R198): a-register difference. -/
  | aSub (stop ad aa ab : Nat)
  /-- A_MUL (R198): Low 32 bits of an a-register product. -/
  | aMul (stop ad aa ab : Nat)
  /-- A_AND (R198): a-register bitwise AND. -/
  | aAnd (stop ad aa ab : Nat)
  /-- A_OR (R198): a-register bitwise OR. -/
  | aOr (stop ad aa ab : Nat)
  /-- A_XOR (R198): a-register bitwise XOR. -/
  | aXor (stop ad aa ab : Nat)
  /-- A_SLL (R198): a-register shift left. -/
  | aSll (stop ad aa ab : Nat)
  /-- A_SRL (R198): a-register logical shift right. -/
  | aSrl (stop ad aa ab : Nat)
  /-- A_SRA (R198): a-register arithmetic shift right. -/
  | aSra (stop ad aa ab : Nat)
  /-- A_MIN (R198): a-register signed minimum. -/
  | aMin (stop ad aa ab : Nat)
  /-- A_MAX (R198): a-register signed maximum. -/
  | aMax (stop ad aa ab : Nat)
  /-- A_MINU (R198): a-register unsigned minimum. -/
  | aMinu (stop ad aa ab : Nat)
  /-- A_MAXU (R198): a-register unsigned maximum. -/
  | aMaxu (stop ad aa ab : Nat)
  /-- A_SLT (R198): a-register signed less-than. -/
  | aSlt (stop ad aa ab : Nat)
  /-- A_SLTU (R198): a-register unsigned less-than. -/
  | aSltu (stop ad aa ab : Nat)
  /-- A_LC (R198): Reads a loop-level counter into an a-register. -/
  | aLc (stop ad lev : Nat)
  /-- A_IT (R198): Reads VE's iteration index of a level. -/
  | aIt (stop ad lev : Nat)
  /-- A_ADDI (R198): Adds a sign-extended immediate to an a-register. -/
  | aAddi (stop ad aa imm : Nat)
  /-- A_LUI (R198): Writes the immediate shifted left by 16. -/
  | aLui (stop ad imm : Nat)
  /-- M_PASS (R213): Presses A rows against the platens and accumulates block sums into FP32 accumulators. -/
  | mPass (afmt asrc aga agc rowsM1 z stg : Nat)
  /-- M_PASSI (R213): Integer pass accumulating exact products into INT32 accumulators. -/
  | mPassi (afmt asrc aga agc rowsM1 z stg : Nat)
  /-- M_GPASS (R218): Builds partial-product tables in the galley. -/
  | mGpass (afmt asrc aga agg rowsM1 stg : Nat)
  /-- G_SUM (R219): Gathers galley entries by index and accumulates one output per row. -/
  | gSum (agg agi agc z rowsM1 stg : Nat)
  /-- M_CONV (R217): Runs output pixels of one kernel tap as an implicit convolution pass. -/
  | mConv (afmt agp agc rowsM1 z stg tap : Nat)
  /-- M_SHAPE (R216): Loads and checks a convolution shape record. -/
  | mShape (off : Nat)
  /-- M_CLR (R220): Clears accumulator rows to zero. -/
  | mClr (agc rowsM1 stg : Nat)
  /-- M_TQ (R222): Pops a tile-queue entry, runs its command and loops until a LAST entry. -/
  | mTq (sel off : Nat)
  /-- M_CR_LD (R224): Loads an ME control register from AB. -/
  | mCrLd (csel off : Nat)
  /-- M_CR_ST (R224): Stores an ME control register to AB. -/
  | mCrSt (csel off : Nat)
  /-- M_CR_IMM (R224): Writes an ME control register from an immediate. -/
  | mCrImm (csel imm : Nat)
  /-- ME_SEM_SIG (R225): Waits for earlier steps' writes, releases and adds 1 to a semaphore. -/
  | meSemSig (sem : Nat)
  /-- ME_SEM_WAIT (R225): Blocks until a semaphore count is at least 1, then acquires. -/
  | meSemWait (sem : Nat)
  /-- ME_TL_WAIT (R225): Blocks until a timeline reaches TLX plus an increment, then advances TLX. -/
  | meTlWait (tl inc : Nat)
  /-- ME_LBR (R226): Closes an ME loop iteration. -/
  | meLbr (lev off : Nat)
  /-- ME_END (R227): Waits for earlier steps' writes and retires ME. -/
  | meEnd
  /-- ME_TRAP (R227): Raises SW_TRAP after earlier steps complete. -/
  | meTrap (code : Nat)
  /-- ME_YIELD (R227): Gives up ME's issue slot for the next cycle. -/
  | meYield
  /-- M_B (R227): Unconditional ME branch. -/
  | mB (off : Nat)
  /-- XL_LD (R243): Issues a copy of a tensor box into AB or CB, with optional follow-on and barrier. -/
  | xlLd (h cc cbf rec cb fo bar : Nat)
  /-- XL_GATHER (R245): Issues a row gather along dimension 1 by an index list. -/
  | xlGather (h cc cbf rec cb fo bar : Nat)
  /-- XL_GATHER8 (R245): Issues a gather of 8-byte elements of a rank-1 tensor by index. -/
  | xlGather8 (h cc cbf rec cb bar : Nat)
  /-- XL_FEED (R246): Issues a stream of box rows into a feed FIFO. -/
  | xlFeed (h cc rec ff fo : Nat)
  /-- XL_PLATEN_DENSE (R247): Issues a dense load of B elements into a platen. -/
  | xlPlatenDense (h cc cbf rec : Nat)
  /-- XL_PLATEN_CW (R247): Issues a load of codewords into platens for gather passes, sampling the binding. -/
  | xlPlatenCw (h cc cbf rec : Nat)
  /-- XL_PLATEN_IMAGE (R247): Issues a copy of a whole platen image and scale store from AB. -/
  | xlPlatenImage (h cc cbf rec : Nat)
  /-- XL_CASE (R248): Issues a fill of one family block's table into an explicit case slot. -/
  | xlCase (h cc cbf : Nat)
  /-- XL_CASE_AUTO (R303): Issues a case fill whose slot the allocator chooses, possibly a hit. -/
  | xlCaseAuto (h cc : Nat)
  /-- XL_EXPAND (R249): Issues an expansion of packed indices through an explicit case slot. -/
  | xlExpand (h cc cbf rec cb fo bar : Nat)
  /-- XL_EXPAND_AUTO (R304): Issues an expansion whose slots are found by tag. -/
  | xlExpandAuto (h cc cbf rec cb fo bar : Nat)
  /-- XL_ROUTE (R251): Issues routing of token rows into per-expert tiles through arrival counters. -/
  | xlRoute (h cc rec : Nat)
  /-- XL_ACFLUSH (R252): Issues a flush of partial tiles of named counters, optionally marking LAST. -/
  | xlAcflush (cc rec last : Nat)
  /-- XS_ST (R254): Issues a store of buffer rows into a tensor through the compositor. -/
  | xsSt (h cc cbf rec cb : Nat)
  /-- XS_STASH (R255): Issues a store written both plain and transposed. -/
  | xsStash (h cc cbf rec cb : Nat)
  /-- XS_TOPK (R256): Issues a top-k selection over logit rows, optionally merging stored pairs. -/
  | xsTopk (cc cbf rec merge : Nat)
  /-- XS_UPD (R257): Issues a fused optimizer update of weights, momentum and variance. -/
  | xsUpd (h cc cbf rec cbg : Nat)
  /-- XS_SCATTER (R259): Issues a row scatter by index list, optionally adding. -/
  | xsScatter (h cc cbf rec cb acc : Nat)
  /-- XS_REIDX (R260): Issues a re-index of a box under the newest codebook version. -/
  | xsReidx (h cc cbf rec : Nat)
  /-- XS_RINV (R261): Issues an invalidate of non-coherent copies of a box's lines in the partition. -/
  | xsRinv (h cc rec : Nat)
  /-- XLS_BAR_INIT (R262): Initialises a barrier object from c registers. -/
  | xlsBarInit (ca cb : Nat)
  /-- XLS_BAR_WAIT (R262): Blocks until a barrier completes, acquires and returns PHASE. -/
  | xlsBarWait (cd ca : Nat)
  /-- XS_COLL (R263): Posts a collective to the die's CLE on TL7. -/
  | xsColl (h rec : Nat)
  /-- C_ADD (R267): c-register sum. -/
  | cAdd (cd ca cb : Nat)
  /-- C_SUB (R267): c-register difference. -/
  | cSub (cd ca cb : Nat)
  /-- C_MUL (R267): c-register product. -/
  | cMul (cd ca cb : Nat)
  /-- C_AND (R267): c-register AND. -/
  | cAnd (cd ca cb : Nat)
  /-- C_OR (R267): c-register OR. -/
  | cOr (cd ca cb : Nat)
  /-- C_XOR (R267): c-register XOR. -/
  | cXor (cd ca cb : Nat)
  /-- C_SLL (R267): c-register shift left. -/
  | cSll (cd ca cb : Nat)
  /-- C_SRL (R267): c-register logical shift right. -/
  | cSrl (cd ca cb : Nat)
  /-- C_SRA (R267): c-register arithmetic shift right. -/
  | cSra (cd ca cb : Nat)
  /-- C_MIN (R267): c-register signed minimum. -/
  | cMin (cd ca cb : Nat)
  /-- C_MAX (R267): c-register signed maximum. -/
  | cMax (cd ca cb : Nat)
  /-- C_MINU (R267): c-register unsigned minimum. -/
  | cMinu (cd ca cb : Nat)
  /-- C_MAXU (R267): c-register unsigned maximum. -/
  | cMaxu (cd ca cb : Nat)
  /-- C_SLT (R267): c-register signed less-than. -/
  | cSlt (cd ca cb : Nat)
  /-- C_SLTU (R267): c-register unsigned less-than. -/
  | cSltu (cd ca cb : Nat)
  /-- C_LC (R267): Reads a loop-level counter into a c register. -/
  | cLc (cd lev : Nat)
  /-- C_IT (R267): Reads the stream's iteration index of a level. -/
  | cIt (cd lev : Nat)
  /-- H_MV (R267): Copies a c register into a tensor handle. -/
  | hMv (cd ca : Nat)
  /-- C_HMV (R267): Copies a tensor handle into a c register. -/
  | cHmv (cd ca : Nat)
  /-- C_ADDI (R267): Adds a sign-extended, prefix-extensible immediate to a c register. -/
  | cAddi (cd ca imm : Nat)
  /-- C_LUI (R267): Writes an immediate shifted left by 16 to a c register. -/
  | cLui (cd imm : Nat)
  /-- H_LI (R267): Loads an immediate into a tensor handle. -/
  | hLi (cd imm : Nat)
  /-- C_BEQ (R268): Branches when two c registers are equal. -/
  | cBeq (ca cb off : Nat)
  /-- C_BNE (R268): Branches when two c registers differ. -/
  | cBne (ca cb off : Nat)
  /-- C_BLTU (R268): Branches when c[ca] is less than c[cb] unsigned. -/
  | cBltu (ca cb off : Nat)
  /-- C_BGEU (R268): Branches when c[ca] is at least c[cb] unsigned. -/
  | cBgeu (ca cb off : Nat)
  /-- XLS_LBR (R268): Closes an XL or XS loop iteration. -/
  | xlsLbr (lev off : Nat)
  /-- XLS_SEM_SIG (R269): Waits for the stream's commands, releases their writes and adds 1 to a semaphore. -/
  | xlsSemSig (sem : Nat)
  /-- XLS_SEM_WAIT (R269): Blocks until a semaphore count is at least 1; later commands acquire. -/
  | xlsSemWait (sem : Nat)
  /-- XLS_TL_WAIT (R269): Blocks until a timeline reaches c[ca], then acquires. -/
  | xlsTlWait (tl ca : Nat)
  /-- XLS_CR_RD (R266): Reads bits [31:0] of a control register into a c register. -/
  | xlsCrRd (cr csel : Nat)
  /-- XLS_CR_RD_HI (R266): Reads bits [63:32] of a control register into a c register. -/
  | xlsCrRdHi (cr csel : Nat)
  /-- XLS_CR_WR (R266): Writes a control register from a c register. -/
  | xlsCrWr (cr csel : Nat)
  /-- XLS_END (R270): Waits for the stream's commands and pushes, then retires the stream. -/
  | xlsEnd
  /-- XLS_TRAP (R270): Raises SW_TRAP with a code. -/
  | xlsTrap (code : Nat)
  /-- XLS_YIELD (R270): Gives up the stream's issue slot for the next cycle. -/
  | xlsYield
  /-- SQ_LOAD_RETURN (R107): A load or record read that was in flight returns its value to SQ. -/
  | sqLoadReturn (core slot : Nat)
  /-- WAIT_SATISFIED (R24): A word blocked on a semaphore, timeline, barrier, FIFO or tile queue finds its condition met and proceeds. -/
  | waitSatisfied (core slot stream : Nat)
  /-- COMMAND_QUEUE_ROOM (R235): A command word that stalled on a full command queue issues once an entry frees. -/
  | commandQueueRoom (core slot stream : Nat)
  /-- XL_XS_COMMAND_COMPLETE (R242): An XL or XS command completes, sets its flags and advances its timeline. -/
  | xlXsCommandComplete (core slot unit num : Nat)
  /-- CX_COPY_COMPLETE (R147): A copy-context copy completes and advances its timeline. -/
  | cxCopyComplete (core slot cx num : Nat)
  /-- ASG_RUN_START (R351): An auction run begins executing and copies its scores and capacities. -/
  | asgRunStart (core slot : Nat)
  /-- ASG_ROUND (R352): One auction round collects bids and resolves columns. -/
  | asgRound (core slot : Nat)
  /-- ASG_FINISH (R354): A run ends, writes assignment, prices and status and completes on TL6. -/
  | asgFinish (core slot : Nat)
  /-- ASG_PRICE_COMMAND_COMPLETE (R357): An asg.pld or asg.pst completes on TL6. -/
  | asgPriceCommandComplete (core slot : Nat)
  /-- CLE_CHUNK_MESSAGE (R446): A member's part or reduced result of a chunk arrives at a CLE. -/
  | cleChunkMessage (core slot num chunk rank : Nat) (result : Bool) (bytes : List (BitVec 8)) (poison : List Nat)
  /-- CLE_MEMBER_TIMEOUT (R263): A collective's member timeout expires and incomplete chunks are marked. -/
  | cleMemberTimeout (core slot num : Nat)
  /-- CLE_COLLECTIVE_COMPLETE (R263): A collective ends, writes its status and completes on TL7. -/
  | cleCollectiveComplete (core slot num : Nat)
  /-- STREAM_RETIRE (R155): A stream whose end waited for its outstanding work retires. -/
  | streamRetire (core slot stream : Nat)
  /-- PLACEMENT_RETIRE (R378): All five streams have retired; the slot releases, frees and posts RETIRED. -/
  | placementRetire (core slot : Nat)
  /-- L2_EVICTION (R320): A die L2 evicts a line, cleaning its dirty words to the home. -/
  | l2Eviction (die line : Nat)
  /-- CASE_FILL_GRANT (R303): A case fill is granted its slot, choosing it by tag under auto, and the slot becomes PENDING. -/
  | caseFillGrant (core slot num : Nat)
  /-- CASE_FILL_LANDED (R301): A fill's last byte lands; the slot becomes READY and its pin is released. -/
  | caseFillLanded (core slot num : Nat)
  /-- CASE_SCRUB (R307): The background scrubber reads a case slot and evicts an auto slot on a parity error. -/
  | caseScrub (core cslot : Nat) (bad : Option Nat)
  /-- CASE_FILL_RECHOOSE (R308): A fill whose slot a scrub eviction took chooses a slot again in the next cycle. -/
  | caseFillRechoose (core slot num : Nat)
  /-- PREEMPT_REQUEST (R280): A pre-emption request reaches a context and the core decides between drain and hard stop. -/
  | preemptRequest (core slot : Nat)
  /-- DRAIN_END (R281): Every stream taking part has halted after its lbr and the drain's frame is saved. -/
  | drainEnd (core slot : Nat)
  /-- DRAIN_BUDGET_EXPIRED (R281): The cycle budget elapses before the drain ends and the core stops hard, keeping the cut. -/
  | drainBudgetExpired (core slot : Nat)
  /-- CONTEXT_HALTED (R395): A halting context's frame is written, the slot reaches FREE and posts FAULTED or HALTED. -/
  | contextHalted (core slot : Nat)
  /-- PAGE_FAULT (R390): An access meets an ABSENT tile, halts its unit and appends a page-fault record. -/
  | pageFault (core slot unit : Nat)
  /-- PFQ_ROOM_APPEND (R390): A unit waiting on a full page-fault queue appends its record once room appears. -/
  | pfqRoomAppend (core slot unit : Nat)
  /-- PFANS_OK (R392): A page-fault answer without FAIL makes halted units and chunks translate again. -/
  | pfansOk (part ftag : Nat)
  /-- PFANS_FAIL (R392): A failing page-fault answer stops the context with TX_FAIL and fails waiting chunks. -/
  | pfansFail (part ftag : Nat)
  /-- PRI_RESPONSE (R392): A PCI Express page-request-group response answers a PRI request. -/
  | priResponse (part ftag code : Nat)
  /-- TTCINV_TILES (R388): Starts invalidation of a range of tiles of one tensor. -/
  | ttcinvTiles (port part tensor first count : Nat)
  /-- TTCINV_TENSOR (R388): Starts invalidation of a whole tensor and its descriptor. -/
  | ttcinvTensor (port part tensor : Nat)
  /-- TTCINV_PARTITION (R388): Starts invalidation of every entry of a partition. -/
  | ttcinvPartition (port part : Nat)
  /-- TTCINV_DONE (R388): All named cache entries are dropped and their accesses performed; BUSY clears. -/
  | ttcinvDone (port part : Nat)
  /-- ATS_INVALIDATE (R389): An ATS invalidation request drops host page translations. -/
  | atsInvalidate (part iova pages : Nat)
  /-- ARMDB (R365): A host doorbell write arms a launch record and records a status. -/
  | armdb (vf value : Nat)
  /-- ARMQ_ENTRY_WRITE (R367): A held arm-queue entry is written once the queue has room. -/
  | armqEntryWrite (die part : Nat)
  /-- POST_SUB (R366): Firmware posts a SUB entry for a linear die coordinate to another die. -/
  | postSub (die part value : Nat)
  /-- POST_SUBDONE (R366): Firmware posts SUBDONE with a status to the home die. -/
  | postSubdone (die part value : Nat)
  /-- LDONE (R379): Firmware completes a launch: status, DONECTR add, DONESEM signal, interrupt, disarm. -/
  | ldone (die part value : Nat)
  /-- SCMD_VALIDATE (R371): Marks a pending bind entry VALID. -/
  | scmdValidate (core value : Nat)
  /-- SCMD_CANCEL (R371): Clears VALID of a pending entry not yet begun. -/
  | scmdCancel (core value : Nat)
  /-- SCMD_PREEMPT (R374): Puts a slot's context in HALTING and raises a pre-emption request. -/
  | scmdPreempt (core value : Nat)
  /-- SCMD_KILL (R374): Stops a slot's context hard without saving and discards its commands. -/
  | scmdKill (core value : Nat)
  /-- SCMD_START (R374): Moves a GATED slot to RUN. -/
  | scmdStart (core value : Nat)
  /-- BIND (R372): Dispatch binds a VALID pending entry into a FREE slot and starts its streams. -/
  | bind (core slot : Nat)
  /-- RESUME_BIND (R401): A RESUME bind checks the frame, restores the context and re-injects its replay queue. -/
  | resumeBind (core slot : Nat)
  /-- SLICE_EXPIRY (R375): A context's time slice count reaches SLICE and it is pre-empted or the count restarts. -/
  | sliceExpiry (core slot : Nat)
  /-- LAYOUT_CHECK (R412): Checks the shadow layout records and stages them when they pass. -/
  | layoutCheck (secure : Bool)
  /-- LAYOUT_COMMIT (R413): Begins the quiesce of every affected partition. -/
  | layoutCommit (secure : Bool)
  /-- LAYOUT_ABORT (R413): Abandons a staged or quiescing layout change. -/
  | layoutAbort
  /-- SHADOW_WRITE (R413): A write to a shadow layout or world record, with its state-dependent effects. -/
  | shadowWrite (secure : Bool) (addr value : Nat)
  /-- QUIESCE_DONE (R414): Every affected partition is quiet and the controller enters TICK. -/
  | quiesceDone
  /-- LAYOUT_TICK (R413): At the next cycle multiple of 16 every shadow record is copied to active. -/
  | layoutTick
  /-- RESIDENT_WRITE (R419): Switches interrupts of a VF between MSI-X and the interrupt log. -/
  | residentWrite (vf value : Nat)
  /-- ATTREQ (R424): Starts an attestation report for a nonce in a host buffer. -/
  | attreq (vf value : Nat)
  /-- ATTEST_DONE (R424): The signed report is written, ATTST set and vector 3 raised. -/
  | attestDone (vf : Nat)
  /-- POWER_ON_RESET (R451): Reset runs self-test, applies repairs and brings up the host link. -/
  | powerOnReset (failed chans : List Nat)
  /-- BOOTGO (R422): The ROM verifies the firmware image and starts the MCs. -/
  | bootgo (value : Nat)
  /-- MA_LISTEN (R427): Prepares a target migration record and marks free frames PENDING. -/
  | maListen (part : Nat)
  /-- MA_FREEZE (R427): Starts a source migration by freezing the partition. -/
  | maFreeze (part : Nat) (peerListens : Bool)
  /-- MA_RELEASE (R435): Clears the source's frame-map entries and hands its frames back. -/
  | maRelease (part : Nat)
  /-- MA_CANCEL (R427): Cancels a migration before pulling starts. -/
  | maCancel (part peerPhase : Nat)
  /-- FREEZE_CLE_GRACE_EXPIRY (R428): An unfinished collective is aborted with MIGRATED after MTMO. -/
  | freezeCleGraceExpiry (part : Nat)
  /-- FREEZE_DONE (R428): All contexts are halted and lines cleaned; the source enters SENDING. -/
  | freezeDone (part : Nat)
  /-- STATE_TRANSFER_DONE (R429): The VD's state is written at the target, which becomes STAGED. -/
  | stateTransferDone (part : Nat) (vd : VdState)
  /-- PULL_RECEIVED (R432): A PULL arrives at the source and the tile starts transit. -/
  | pullReceived (part tensor tile : Nat)
  /-- PUSH_SELECT (R434): The background push selects an OWNED tile to send. -/
  | pushSelect (part : Nat)
  /-- PUSH_FIRST_FLIT (R432): The first flit of a pushed tile arrives at the target. -/
  | pushFirstFlit (part tensor tile : Nat)
  /-- TILE_LANDED (R432): The last flit is written; the tile becomes PRESENT at the target and an ACK is sent. -/
  | tileLanded (part tensor tile : Nat) (data : List (Nat × BitVec 8)) (poison : List Nat)
  /-- MIGRATION_ACK (R432): The source receives an ACK and the tile becomes FORWARD. -/
  | migrationAck (part tensor tile frame : Nat)
  /-- TRANSFER_FAIL (R438): A tile transfer fails and the tile returns to OWNED. -/
  | transferFail (part tensor tile : Nat)
  /-- PULL_TIMEOUT (R432): No flit arrives for MTMO and the PULL is sent again. -/
  | pullTimeout (part tensor tile : Nat)
  /-- REDIRECT_RECEIVED (R437): A requester receives a redirect from the place, a package and a frame, that its access named; it updates
  its tile entry and retries at the new owner, at the place `new`. -/
  | redirectReceived (core slot unit : Nat) (old new : Nat × Nat)
  /-- HOST_DMA (R436): A host-link access to device memory arrives. -/
  | hostDma (write : Bool) (addr : Nat) (bytes : List (BitVec 8))
  /-- PEER_REQUEST (R445): A load-store request from another package arrives at a port. -/
  | peerRequest (req : PeerReq)
  /-- LANE_FAIL (R442): A fabric lane fails and its port retrains. -/
  | laneFail (port lane : Nat)
  /-- RETRAIN_DONE (R441): A port finishes retraining at its new width or goes down. -/
  | retrainDone (port lgood peerPkg peerPort : Nat)
  /-- FLIT_CRC_ERROR (R442): A flit fails its CRC and is sent again from the replay buffer. -/
  | flitCrcError (port : Nat)
  /-- PKGID_WRITE (R445): Writes the package number and retrains every enabled port. -/
  | pkgidWrite (value : Nat)
  /-- PATROL_SCRUB (R447): Patrol scrubbing reads and corrects a DRAM line. -/
  | patrolScrub (addr outcome : Nat)
  /-- L2_TAG_PARITY (R450): A die L2 tag parity error invalidates the entry and kills partitions holding the way. -/
  | l2TagParity (die way line : Nat)
  /-- POWER_WINDOW (R455): Each 1 ms window ends and the throttle level is adjusted. -/
  | powerWindow (watts : Nat)
  /-- REGISTER_WRITE (R408): A write to a device register that has no behaviour of its own. -/
  | registerWrite (secure : Bool) (addr value : Nat)
  /-- ILLEGAL_INSTRUCTION (R96): A stream fetches a word that is no legal instruction (zero word, all-ones word, unassigned opcode, reserved field, bad prefix unit or bad VE group, including fetch past the section end) and takes a precise illegal-instruction trap. -/
  | illegalInstruction (cause : Cause)
  /-- SQ_MEMORY_RESPONSE (R107): The response to an issued SQ atomic, fence, sem.sigr, cb.* or lr.* arrives, writing its old value or status and performing its L1D drop and acquire. -/
  | sqMemoryResponse (core slot : Nat)
  /-- ME_STEP_COMPLETE (R228): An ME step's CB and galley writes finish draining, which sets its flags, takes ARITH_INV if enabled, and releases range-checker waits, sem.sig and end. -/
  | meStepComplete (core slot : Nat)
  /-- ATS_TRANSLATION_COMPLETION (R389): A PCI Express ATS translation completion for a HOST tile arrives; when it lacks the needed permission, the device makes a PRI page request. -/
  | atsTranslationCompletion (part page hpa perms : Nat)
  /-- POWER_OFF (R423): The supply is removed; the unused one-time-signature indices of the current block and all volatile state are lost. -/
  | powerOff
  /-- PEER_PORT_RETRAIN (R445): The far end of a fabric link starts a retraining, for example after its own NUM write, and this port retrains and learns the peer's new number. -/
  | peerPortRetrain (port num : Nat)
  deriving DecidableEq, Repr

end Sys2Proof
end

