-- ==== Sys2Proof/Machine/State.lean ====
section
/-!
DEFINITION. The machine's state as plain data: memory, the dies, the cores, the context slots, the partitions and the
package, everything the spec gives the machine (INVENTORY.md, State), and the state right after reset. Registers with no
reset value in the spec hold 0 (log 1: DESIGN CHOICE). Structures hold one field per register; reads and writes go through Ops.
-/
namespace Sys2Proof.Machine
open Sys2Proof

/-- Why a step stops. -/
inductive Fault where
  /-- Raised by an access by device physical address at or above 576 GiB, which names no DRAM (R457), made through a
  register that is not translated (a table base, FRAME, a log base). Safe: the spec gives no effect for it. -/
  | noDram (addr : Nat)
  deriving DecidableEq, Repr

/-- Why an instruction has no meaning. -/
inductive Refusal where
  /-- Raised by the dispatcher for an instruction the model gives no meaning. Safe: nothing runs. -/
  | notModelled (mnemonic : String)
  deriving DecidableEq, Repr

/-! ### Memory -/

/-- Byte memory: the bytes that differ from what an unlisted address reads as (0, log 2: DESIGN CHOICE), by strictly rising address. -/
abbrev Memory := List Host.Cell

/-- A line of a die's L2 (R314): the line number (key / 128), its 128 bytes, the word-dirty bits, CMASK, the owner
partition and the way (R410), and one poison bit per 64-bit word (R448). -/
structure L2Line where
  line : Nat
  data : BitVec 1024
  dirty : BitVec 32
  cmask : BitVec 16
  owner : Nat
  way : Nat
  poison : BitVec 16
  deriving DecidableEq, Repr

/-- A line of a core's L1D (R108): the flat line (EA / 128) that a hit must name, the line number of its memory, the class
of the filling access, data and poison. -/
structure L1Line where
  flat : Nat
  line : Nat
  cls : Nat
  data : BitVec 1024
  poison : BitVec 16
  deriving DecidableEq, Repr

/-- An entry of a scope directory (R327): the line, the last synchroniser and its scope code, and the dies whose L2
directory registered the line (R329). -/
structure ScopeEntry where
  line : Nat
  pkg : Nat
  core : Nat
  scope : Nat
  dies : List Nat
  deriving DecidableEq, Repr

/-- A cached tile entry (R386). -/
structure TtcEntry where
  part : Nat
  desc : Nat
  tile : Nat
  entry : BitVec 128
  deriving DecidableEq, Repr

/-- A cached tensor descriptor (R386). -/
structure DescEntry where
  part : Nat
  desc : Nat
  bits : BitVec 512
  deriving DecidableEq, Repr

/-- A page translation of the host link's address-translation cache (R389): host frame and permissions (bit 0 read, bit 1 write). -/
structure AtsEntry where
  part : Nat
  page : Nat
  hpa : Nat
  perms : Nat
  deriving DecidableEq, Repr

/-! ### A context -/

/-- A timeline counter (R25): issue number, completion value, error bit, and the numbers above the completion value that
have completed already. -/
structure Timeline where
  issued : BitVec 64 := 0
  done : BitVec 64 := 0
  err : Bool := false
  ahead : List Nat := []
  deriving DecidableEq, Repr

/-- What a blocked word waits for (R15, R107, R235, R393). -/
inductive Wait where
  | sem (n : Nat)                 -- a semaphore count of at least 1
  | tl (k v : Nat)                -- a completion value of at least v
  | bar (off : Nat)               -- a barrier object at an AB offset
  | cxRoom (cx : Nat)             -- room in a copy context's queue
  | asgRoom                       -- room in the ASG queue
  | asgIdle                       -- every ASG command complete
  | cmdRoom                       -- room in the unit's command queue
  | fifo (k rows : Nat)           -- entries in a feed FIFO
  | tq (sel : Nat)                -- an entry in a tile queue
  | drained                       -- ME: every earlier step drained
  | order (ranges : List (Nat × Nat × Nat × Bool)) (acc : Option (Nat × Nat × Bool))
                                  -- ME: the earlier steps drained that a step with these ranges conflicts with (R283, R285)
  | row                           -- ME, a command: nothing: it has paused at a row and goes on
  | cmds                          -- XL, XS: every issued command complete
  | retire                        -- `end`: outstanding work complete
  | load                          -- SQ: a load in flight
  | resp                          -- SQ: the response of an issued memory instruction
  | armq (die part : Nat)         -- SQ: room in an arm queue (R367)
  | page                          -- a translation fault of this stream's unit
  | fifoRoom (k : Nat)            -- a command: room in a feed FIFO
  | tqRoom (q : Nat)              -- a command: room in a tile queue
  | half (a : Nat)                -- a command: ME has done the command last pushed from the tile half at an AB offset
  | slots (l : List Nat)          -- a command: the case slots it reads have landed
  deriving DecidableEq, Repr

/-- What all five streams have. -/
structure Stream where
  pc : Nat := 0
  code : List (BitVec 32) := []
  pfxImm : Option Nat := none
  pfxOrd : Option (Nat × Nat × Nat) := none
  pfxLen : Nat := 0
  retired : Bool := false
  wait : Option Wait := none
  iter : Vector (BitVec 32) 6 := Vector.replicate 6 0
  entry : Vector (BitVec 32) 6 := Vector.replicate 6 0
  inside : Vector Bool 6 := Vector.replicate 6 false
  head : Vector Nat 6 := Vector.replicate 6 4294967296  -- the loop head by level; 2^32 for none (R278)
  drained : Bool := false          -- halted after its `lbr` in a drain (R280)
  cls : BitVec 4 := 0
  rmode : BitVec 5 := 0x08#5
  flush : BitVec 6 := 0
  nbl : BitVec 2 := 0
  cause : Nat := 0                 -- SCAUSE of a halting context (R397)
  recorded : Option Nat := none    -- the address that the fault frame records for an ARITH_INV (R60, R231)
  skid : Nat := 0                  -- WAIT of R376
  yielded : Bool := false          -- it has given up its engine's next slot (R156, R197)
  deriving DecidableEq, Repr

/-- What a VE control word does after its group (R162). -/
inductive VeCtl where
  | none
  | semWait (n : Nat)
  | tlWait (k v : Nat)
  | semSig (n : Nat)
  | branch (target : Nat)
  | lbr (lev target : Nat)
  | finish
  | trap (code : Nat)
  | yield
  | crWr (csel : Nat) (v : BitVec 32)
  deriving DecidableEq, Repr

/-- One effect of a word of the running VE group (R162), in the slot order number of R163. -/
inductive VeEff where
  | row (phys : Nat) (data : BitVec 2048) (mask : BitVec 256)   -- byte lanes written where the mask is 1
  | pred (phys : Nat) (data : BitVec 256)
  | areg (r : Nat) (v : BitVec 32)
  | ab (bytes : List (Nat × BitVec 8))                          -- AB bytes by offset
  deriving DecidableEq, Repr

/-- The VE group being read: words so far, effects with their slot order, flags, the trap of the lowest rank,
the control word's action (R162, R163, R167), INVE as the group issued (R60), and the semaphore that its `sem.wait` has taken a count
of before its first read (R162, R196). -/
structure VeGroup where
  count : Nat := 0
  aslots : Nat := 0
  effs : List (Nat × VeEff) := []
  flags : BitVec 6 := 0
  trap : Option (Nat × Cause) := none
  ctl : VeCtl := .none
  inve : Bool := false
  held : Option Nat := none
  deriving DecidableEq, Repr

/-- VE's registers (R157). -/
structure VeRegs where
  p : Vector (BitVec 256) 16 := Vector.replicate 16 0
  a : Vector (BitVec 32) 16 := Vector.replicate 16 0
  vshape : BitVec 4 := 0
  vwin : BitVec 5 := 0
  rrb : BitVec 7 := 0
  group : VeGroup := {}
  deriving DecidableEq, Repr

/-- An ME step whose writes have not drained (R283): its address, its byte ranges (space 0 AB, 1 CB, 3 galley; low, high,
written), the bytes to write, by buffer key, and its flags; `acc` is what it accumulates into (from, to, and whether in
integers; R285). -/
structure MeDrain where
  pc : Nat
  acc : Option (Nat × Nat × Bool)
  ranges : List (Nat × Nat × Nat × Bool)
  cells : List (Nat × BitVec 8)
  flags : BitVec 6
  inve : Bool
  deriving DecidableEq, Repr

/-- ME's registers (R200). -/
structure MeRegs where
  pcfg : BitVec 64 := 0
  prio : BitVec 64 := 0
  gcfg : BitVec 64 := 0x10000000
  mectl : BitVec 64 := 6
  tlx : Vector (BitVec 64) 8 := Vector.replicate 8 0
  ag : Vector (BitVec 64) 8 := Vector.replicate 8 0xC000000000000000
  shape : Vector (BitVec 64) 4 := Vector.replicate 4 0
  skip : Nat := 0
  lastTq : Nat := 1
  rowdone : Nat := 0
  popped : Option (BitVec 160) := none
  badEntry : Option (BitVec 160) := none   -- the tile-queue entry that trapped ME_TQ (R222)
  stepFlags : BitVec 6 := 0
  inve : Option Bool := none               -- INVE_ME as a step that stands at a row sampled it at its issue (R60)
  drains : List MeDrain := []
  deriving DecidableEq, Repr

/-- A pin a command holds on a codebook version (R70). -/
structure Pin where
  cbid : Nat
  version : Nat
  cwptr : Nat
  lattice : Bool
  key : Nat := 0                   -- the key of its descriptor line
  deriving DecidableEq, Repr

/-- A unit halted on a translation fault (R390, R393): what its record says, and why it waits. `why`: 0 the driver
(ABSENT), 1 a tile on the move (R433), 2 an ATS translation, 3 a PRI answer, 4 no route (R444). `page` is the 4 KiB page of a
host tile; `since` is not 0 once it has found its queue full. `why` 5: held in a home slice while its tile is on the move (R436), no fault
of translation. -/
structure Halted where
  tensor : Nat
  access : Nat
  tile : Nat
  why : Nat
  posted : Bool
  page : Nat := 0
  since : Nat := 0
  deriving DecidableEq, Repr

/-- Kinds of XL and XS commands (R239). -/
inductive CmdOp where
  | ld | gather | gather8 | feed | dense | cw | image | case | expand | route | acflush
  | st | stash | topk | upd | scatter | reidx | rinv
  deriving DecidableEq, Repr

/-- An issued command of XL or XS (R235): everything it sampled at issue, and its progress (R394). `buf` is the buffer
operand, `space` its space (0 AB, 1 CB), `opt` its option bit or mode, `rcd` its record (little-endian), `heads` the codebook
headers of its tensors, `step` the phase of a case fill (0 waiting, 1 granted slot held in `slot`, 2 choose again) or 1 for a
route that has yet to emit, `pushed` the FIFO entries of the current row (or a flush's emits), `wait` what it waits for, and
`since` the cycle its index data arrived (R304) or a fill was granted its slot (R308), `dests` the AB and CB ranges it writes, its
barrier object among them (space, offset, length; R405), `entry` the route entry that it has read (R339), `data` the table that a
fill has read (R303). -/
structure Cmd where
  num : Nat
  op : CmdOp
  pc : Nat
  cls : Nat
  rmode : BitVec 5
  flush : BitVec 6
  nbl : BitVec 2
  inve : Bool
  h : Nat
  h1 : Nat
  h2 : Nat
  coord : List Nat
  space : Nat
  buf : Nat
  opt : Nat
  fo : Bool
  bar : Bool
  rcd : BitVec 512
  pins : List Pin := []
  descs : List (BitVec 512) := []
  heads : List (BitVec 64) := []
  prog : Nat := 0
  flags : BitVec 6 := 0
  err : Bool := false
  step : Nat := 0
  slot : Nat := 0
  excl : Option Nat := none
  halted : Option Halted := none
  pushed : Nat := 0
  wait : Option Wait := none
  since : Nat := 0
  dests : List (Nat × Nat × Nat) := []
  entry : Option (BitVec 128) := none
  data : Option (BitVec 16384) := none
  deriving DecidableEq, Repr

/-- An issued copy of a copy context (R147, R405). -/
structure CxCmd where
  num : Nat
  cls : Nat
  src : Nat
  dst : Nat
  len : Nat
  srcAb : Bool
  dstAb : Bool
  bar : Option Nat
  sdesc : BitVec 512
  ddesc : BitVec 512
  prog : Nat := 0
  halted : Option Halted := none
  deriving DecidableEq, Repr

/-- What is in flight of an SQ memory instruction (R107): a load or a copy-record read not yet answered; a copy (R147) or an ASG command
(R357), already checked, that waits for room in its queue; the register write, L1D drop and acquire of an instruction that has issued; or the precise trap that is its
response, at the unit at `pc`. -/
inductive Pend where
  | load (sd ea n ty cls ord scope : Nat)
  | record (sd ea cx cls : Nat)
  | copy (sd cx : Nat) (q : CxCmd)
  | asg (sd kind off n : Nat) (rcd : BitVec 256)
  | resp (wr : Bool) (sd : Nat) (v : BitVec 64) (line : Option Nat) (mask : BitVec 16) (scope : Option Nat)
  | fault (c : Cause) (faddr pc : Nat)
  deriving DecidableEq, Repr

/-- An ASG command (R357). `kind` 0 `asg.run`, 1 `asg.pld`, 2 `asg.pst`. -/
structure AsgCmd where
  num : Nat
  kind : Nat
  off : Nat
  n : Nat
  rcd : BitVec 256
  flush : BitVec 6
  dests : List (Nat × Nat × Nat) := []   -- the AB ranges it writes (R405)
  deriving DecidableEq, Repr

/-- A run that executes (R352): scores by rows, capacities, assignment, held bids, prices, rounds, flags; `status` is its
outcome once it has ended. -/
structure AsgRun where
  scores : List (List (BitVec 32))
  cap : List Nat
  a : List (Option Nat)
  hb : List (Option (BitVec 32))
  p : List (BitVec 32)
  rounds : Nat
  flags : BitVec 6
  status : Option Nat
  bad : Bool
  deriving DecidableEq, Repr

/-- The ASG register set of a context (R349). -/
structure AsgRegs where
  eps : BitVec 32 := 0
  reserve : BitVec 32 := 0xFF800000
  bidcap : BitVec 32 := 0x3F800000
  limit : BitVec 32 := 0x400
  rstat : BitVec 32 := 0
  rcount : BitVec 32 := 0
  price : Vector (BitVec 32) 256 := Vector.replicate 256 0
  queue : List AsgCmd := []
  run : Option AsgRun := none
  skid : Nat := 0                  -- WAIT of R376
  deriving DecidableEq, Repr

/-- A chunk of a collective at this member (R446): the parts received (rank, bytes, poisoned 64-bit words), the result
once known, and how it stands: `state` 0 running, 1 written, 2 incomplete, 3 its result known and not yet written. -/
structure Chunk where
  parts : List (Nat × List (BitVec 8) × List Nat) := []
  result : List (BitVec 8) := []
  rpoison : List Nat := []
  state : Nat := 0
  halted : Option Halted := none
  deriving DecidableEq, Repr

/-- A collective on a context's CLE slot (R263, R446): its operands and the two tensors as sampled, the members by rank
(package, partition, die), this member's rank, `status` (0 running or OK; the codes of R263), and the last XS command issued
before it. -/
structure Coll where
  num : Nat
  cls : Nat
  kind : Nat
  rop : Nat
  root : Nat
  count : Nat
  stat : Nat
  h : Nat
  h1 : Nat
  desc : BitVec 512
  desc1 : BitVec 512
  rmode : BitVec 5
  flush : BitVec 6
  rank : Nat
  members : List (Nat × Nat × Nat)
  status : Nat
  chunks : List Chunk
  flags : BitVec 6 := 0
  after : Nat := 0
  die : Nat := 0                     -- the die it was issued on, which counts it in COLL_PARTIAL (R446)
  counted : Bool := false            -- COLL_PARTIAL has counted it
  deriving DecidableEq, Repr

/-- The collectives that CLE keeps for a context that is saved (R400): the slot they were posted on, the save they belong to, the
context's partition and world. -/
structure CleHold where
  key : Nat
  save : Nat
  part : Nat
  secure : Bool
  coll : List Coll
  deriving DecidableEq, Repr

/-- One level of the loop table of the bound image (R273). -/
structure Level where
  kind : Nat
  drain : Bool
  bound : List Nat
  epi : List Nat
  live : List (Nat × Nat × Nat)     -- space, offset, length
  deriving DecidableEq, Repr

/-- A drain in progress, or the cut a hard stop keeps (R280, R281). -/
structure Cut where
  lev : Nat
  it : Nat
  saved : BitVec 32
  deadline : Nat
  deriving DecidableEq, Repr

/-- A bind record (R369). -/
structure BindRec where
  linst : BitVec 32 := 0
  ridx : Nat := 0
  slot : Nat := 0
  variant : Nat := 0
  resume : Bool := false
  gate : Bool := false
  secure : Bool := false
  bpri : Nat := 0
  coord : List Nat := []
  slice : Nat := 0
  ctxb : BitVec 64 := 0
  part : Nat := 0
  frame : Nat := 0
  kimg : Nat := 0
  argp : Nat := 0
  deriving DecidableEq, Repr

/-- A bind that has begun: the record, window and instance that the slot had before, which a bind that fails leaves there, and the
status of one that has failed and waits to post it (R367, R373). -/
structure Binding where
  bind : BindRec
  ctxbuf : BitVec 64
  linst : BitVec 32
  failed : Option Nat := none
  deriving DecidableEq, Repr

/-- The states of SSTAT (R370). -/
inductive SlotState where
  | free | binding | gated | run | halting | retiring
  deriving DecidableEq, Repr

/-- Why a context is halting: 0 a hard stop, 1 a drain that runs, 2 a fault, 3 a kill, 4 a drain that has ended (R374,
R280, R395). -/
structure Halt where
  kind : Nat
  cause : Nat := 0
  restart : Bool := true
  code : Nat := 0
  faddr : Nat := 0
  auxf : Nat := 0
  elog : Nat := 0
  deriving DecidableEq, Repr

/-- What a context frame's STREAMS and REPLAY sections save (R399, R400). -/
structure Regs where
  s : Vector (BitVec 64) 32 := Vector.replicate 32 0
  pend : Option Pend := none
  streams : Vector Stream 5 := Vector.replicate 5 {}
  ve : VeRegs := {}
  me : MeRegs := {}
  xlH : Vector (BitVec 32) 16 := Vector.replicate 16 0
  xlC : Vector (BitVec 32) 16 := Vector.replicate 16 0
  xsH : Vector (BitVec 32) 16 := Vector.replicate 16 0
  xsC : Vector (BitVec 32) 16 := Vector.replicate 16 0
  xlQ : List Cmd := []
  xsQ : List Cmd := []
  cxQ : Vector (List CxCmd) 4 := Vector.replicate 4 []
  asg : AsgRegs := {}
  coll : List Coll := []
  sem : Vector (BitVec 16) 64 := Vector.replicate 64 0
  tl : Vector Timeline 8 := Vector.replicate 8 {}
  flags : BitVec 6 := 0
  inve : BitVec 5 := 0
  budget : BitVec 11 := 1000
  lc : Vector (BitVec 32) 6 := Vector.replicate 6 0
  levels : List Level := []
  ff : Vector (List (BitVec 2048)) 2 := Vector.replicate 2 []
  tq : Vector (List (BitVec 160)) 2 := Vector.replicate 2 []  -- bits 159-128: 1 + the half that a route's Emit named (R341)
  filled : Vector Bool 16 := Vector.replicate 16 false  -- the case slots filled since the bind (R300)
  caseWait : BitVec 64 := 0
  caseRefill : BitVec 64 := 0
  boundMiss : BitVec 64 := 0
  cut : Option Cut := none
  deriving DecidableEq, Repr

/-- A context slot. -/
structure Ctx where
  r : Regs := {}
  st : SlotState := .free
  bind : BindRec := {}
  ctxbuf : BitVec 64 := 0
  linst : BitVec 32 := 0
  bseq : BitVec 21 := 0
  entry : Nat := 0                   -- the pending entry of the bind that runs
  binding : Option Binding := none
  sliceStart : BitVec 64 := 0        -- the cycle at which SLICE began to count (R375)
  sqHalt : Option Halted := none
  xlHalt : Option Halted := none     -- of an XL or XS word that is issuing: its access to the codebook table (R61)
  xsHalt : Option Halted := none
  halt : Option Halt := none
  preempt : Bool := false            -- a pre-emption request not yet decided (R280)
  preemptAt : Nat := 0               -- its cycle (R281)
  deriving DecidableEq, Repr

/-- The state record of a case slot (R300). `state` 0 EMPTY, 1 PENDING, 2 READY. -/
structure CaseState where
  version : BitVec 32 := 0
  block : BitVec 32 := 0
  cbid : BitVec 16 := 0
  rank : BitVec 4 := 0
  auto : Bool := false
  state : BitVec 2 := 0
  bad : List Nat := []               -- word offsets with a parity error (R307)
  landed : Nat := 0                  -- the cycle of the last landing (R304)
  deriving DecidableEq, Repr

/-- The caches of one layout unit (R386), most recently used first. -/
structure LayoutUnit where
  descs : List DescEntry := []
  ttc : List TtcEntry := []
  deriving DecidableEq, Repr

/-- A pending entry of a core (R369, R370). -/
structure PendingEntry where
  valid : Bool := false
  status : Nat := 0
  bits : BitVec 512 := 0
  cancelled : Nat := 0               -- 1 + the cycle of its last CANCEL (R371)
  deriving DecidableEq, Repr

/-- A Qorug core: its slots are in `State.ctxs`. -/
structure Core where
  l1 : List L1Line := []
  units : Vector LayoutUnit 4 := Vector.replicate 4 {}   -- SQ, XL, XS, CX
  cases : Vector CaseState 16 := Vector.replicate 16 {}
  pending : Vector PendingEntry 8 := Vector.replicate 8 {}
  draining : Option Nat := none
  deriving DecidableEq, Repr

/-! ### Dies, partitions, the package -/

/-- A partition's register set at a die's MC (R366), its held arm-queue entries, each with the VF whose doorbell waits for it
(R367), the LDONE values whose completion add waits, each with why as in `Halted` (R379), and the die's TTCINV pair (R388). -/
structure McSet where
  base : BitVec 64 := 0
  head : Nat := 0
  tail : Nat := 0
  cleBase : BitVec 52 := 0
  cleCount : BitVec 9 := 0
  held : List (BitVec 128 × Option Nat) := []
  ldones : List (Nat × Nat) := []
  inv : Option (Nat × Nat × Nat × Nat) := none   -- KIND, TENSOR, FIRST, COUNT in progress
  ttcA : BitVec 64 := 0
  deriving DecidableEq, Repr

/-- A per-die layout record (R407). -/
structure DieLayout where
  tdm : BitVec 256 := 0
  rsv : BitVec 40 := 0
  ways : BitVec 24 := 0
  rsv2 : BitVec 16 := 0
  cores : BitVec 48 := 0
  deriving DecidableEq, Repr

/-- A compute die. -/
structure Die where
  l2 : List L2Line := []
  scopes : List ScopeEntry := []
  unchecked : List Nat := []          -- lines whose entry fell off the L2's directory (R331, R454)
  mc : List (Nat × McSet) := []
  active : List (Nat × DieLayout) := []
  shadow : List (Nat × DieLayout) := []
  elBase : BitVec 64 := 0
  elHead : Nat := 0
  elTail : Nat := 0
  elSeq : Nat := 1
  counters : Vector (BitVec 64) 6 := Vector.replicate 6 0 -- SCOPE_UNCHK, CE, UE, ELDROP, TAGKILL, COLL_PARTIAL
  ncore : Nat := 48
  spared : Nat := 0
  failed : Nat := 0
  chok : BitVec 48 := 0xFFFFFFFFFFFF
  mcRunning : Bool := false
  ceLog : List (Nat × Nat) := []      -- lines with a KIND 4 entry, and the cycle of the last (R447)
  deriving DecidableEq, Repr

/-- A partition's package record (R408). -/
structure PkgRec where
  ilog : BitVec 64 := 0
  pfq : BitVec 64 := 0
  lrpool : BitVec 64 := 0
  cbtab : BitVec 64 := 0
  cbPhys : Option (BitVec 64) := none -- the CBTAB that a migration agent wrote: with it the base is a device physical address (R429)
  ttab : BitVec 64 := 0
  ctl : BitVec 64 := 0                -- VALID 63, SECURE 62, VF 6-0
  deriving DecidableEq, Repr

/-- Whether a record's CBTAB is the one that a migration agent wrote. -/
def PkgRec.cbMoved (r : PkgRec) : Bool := r.cbPhys == some r.cbtab

/-- Phases of an MA record (R427). -/
inductive Phase where
  | idle | freezing | sending | serving | drained | released | held | listen | receiving | staged | pulling | done
  deriving DecidableEq, Repr

/-- What the state transfer wrote over at the target, which a CANCEL puts back (R427, R429): the shadow record and, of a virtual
function, the heads and tails of its page-fault queue and interrupt log. -/
structure MaUndo where
  shadow : PkgRec
  vf : Nat
  pfqHead : BitVec 16
  pfqTail : BitVec 16
  ilogHead : BitVec 16
  ilogTail : BitVec 16
  deriving DecidableEq, Repr

/-- An MA record (R426), with the tiles it is pushing or pulling (R432, R434). -/
structure Ma where
  phase : Phase := .idle
  status : Nat := 0
  redir : BitVec 16 := 0
  left : Nat := 0
  ppkg : BitVec 8 := 0
  ppart : BitVec 8 := 0
  rbase : BitVec 64 := 0
  rsize : BitVec 16 := 0
  fbase : BitVec 64 := 0
  fcount : BitVec 32 := 0
  mbase : BitVec 64 := 0
  mtmo : BitVec 16 := 100
  push : BitVec 7 := 8
  source : Bool := false
  inFlight : List (Nat × Nat × Bool) := []   -- tensor, tile, by the background push
  contexts : List (Nat × Nat) := []           -- core, slot of the contexts frozen
  pulls : Bool := false                       -- a source's target has left STAGED (R427, R434)
  regs : List (Nat × Regs) := []              -- private frame sections that have come from the source, by its save number
  undo : Option MaUndo := none                -- a target's, from the state transfer on
  deriving DecidableEq, Repr

/-- A partition. -/
structure Part where
  active : PkgRec := {}
  shadow : PkgRec := {}
  nextInst : BitVec 32 := 1
  ma : Ma := {}
  undoing : Option MaUndo := none     -- what a CANCEL puts back once the layout controller is IDLE (R427, R429)
  deriving DecidableEq, Repr

/-- An entry of a function's MSI-X table (R416), masked at reset (log 34: PRESUMED). -/
structure MsixEntry where
  addr : BitVec 64 := 0
  data : BitVec 32 := 0
  masked : Bool := true
  deriving DecidableEq, Repr

/-- A virtual function's registers (R415), its MSI-X table and pending bits (R416), interrupt count (R417), attestation request
(R424) and PRI requests (R392). -/
structure Vf where
  msix : Vector MsixEntry 4 := Vector.replicate 4 {}
  pba : BitVec 4 := 0
  armSeq : BitVec 32 := 0
  armStatus : Nat := 0
  armBusy : Bool := false             -- an ARMDB write waits for room in an arm queue (R367)
  armWait : List Nat := []            -- the ARMDB writes behind it
  pfqHead : BitVec 16 := 0
  pfqTail : BitVec 16 := 0
  ilogHead : BitVec 16 := 0
  ilogTail : BitVec 16 := 0
  ilogOvf : BitVec 4 := 0
  resident : Bool := false
  irqSeq : BitVec 32 := 1
  attReq : Option Nat := none
  attStat : BitVec 5 := 0
  ttcA : BitVec 64 := 0
  inv : Option (Nat × Nat × Nat × Nat) := none
  pri : List Nat := []                -- FTAGs of the PRI requests outstanding
  deriving DecidableEq, Repr

/-- A fabric port (R440). `lanes` marks the physical lanes that are good; `retraining` while it retrains. -/
structure Port where
  wmin : BitVec 2 := 0
  en : Bool := true
  pkg : BitVec 8 := 0
  pport : BitVec 8 := 0
  retrains : BitVec 16 := 0
  lgood : BitVec 5 := 0
  width : BitVec 2 := 0
  up : Bool := false
  retraining : Bool := true           -- EN is 1 at reset: the port trains
  resent : Nat := 0
  deriving DecidableEq, Repr

/-- The layout controller's states (R411). -/
inductive LayoutState where
  | idle | staged | quiesce | tick
  deriving DecidableEq, Repr

/-- The world registers (R420); their reserved bits read 0 and are held for CHECK alone (R412). -/
structure World where
  rsv : BitVec 12 := 0
  mcw : BitVec 8 := 0xFF
  clew : BitVec 8 := 0
  portw : BitVec 36 := 0
  rng : Vector (BitVec 64) 16 := Vector.replicate 16 0
  deriving DecidableEq, Repr

/-- What leaves the package: messages to the host and to other packages, newest last. -/
inductive Msg where
  | msix (vf vector : Nat) (addr : BitVec 64) (data : BitVec 32)
  | pri (part ftag page : Nat)
  | dmaData (bytes : List (BitVec 8))
  | pull (pkg part tensor tile : Nat)
  | flits (pkg part tensor tile : Nat) (data : List (Nat × BitVec 8)) (poison : List Nat)
  | ack (pkg part tensor tile frame : Nat)
  | redirect (pkg core newPkg frame : Nat)
  | reply (pkg core : Nat) (value : Nat) (poison : Bool)
  | scopeTrap (pkg core : Nat)
  | chunk (pkg part die num chunk rank : Nat) (result : Bool) (bytes : List (BitVec 8)) (poison : List Nat)
  | maPhase (pkg part : Nat) (phase : Phase) (status : Nat)
  | vdSent (pkg part : Nat) (vd : VdState) (regs : List (Nat × Regs))
  | hostAtomic (hpa aop value : Nat)
  deriving DecidableEq, Repr

/-- An access held in a home slice of this package until the tile of its frame has moved (R436): from a peer, from the host
link (`dma`), or a die L2's own clean (`req.pkg` is then this package). -/
structure Held where
  frame : Nat
  dma : Bool
  req : PeerReq
  deriving DecidableEq, Repr

/-- The package's own registers. -/
structure Pkg where
  world : World := {}
  worldShadow : World := {}
  lver : BitVec 32 := 0
  lstatus : Nat := 0
  lstate : LayoutState := .idle
  affect : BitVec 64 := 0
  boot : Nat := 0                     -- BOOTSTAT
  svn : BitVec 32 := 0
  svnFloor : Nat := Config.fuseFloor
  fwmeas : Nat := 0
  fuses : Nat := 1                    -- one-time-signature fuse bits burnt (R423; log 4: DESIGN CHOICE)
  sigIndex : Nat := 0                 -- indices used of the current block
  ports : Vector Port 36 := Vector.replicate 36 {}
  route : Vector (BitVec 36) 256 := Vector.replicate 256 0
  num : BitVec 8 := 0
  dmemb : Vector (BitVec 64) 4 := Vector.replicate 4 0
  counters : Vector (BitVec 64) 7 := Vector.replicate 7 0 -- PFQ_FULL, PF_STALE, LAYOUT_WRLOCK, SECVIO, NOROUTE, THROTTLE, FOREIGN
  pwrlim : BitVec 12 := 2800
  level : BitVec 3 := 0
  watts : BitVec 16 := 0
  scopes : List ScopeEntry := []      -- the LLC slices' scope directories (R327)
  unchecked : List Nat := []          -- lines whose entry fell off a slice's directory (R331)
  attQueue : List Nat := []           -- VFs with an attestation request, in order of arrival
  held : List Held := []
  waiting : List (Nat × Msg) := []    -- messages to packages to which no port is up (R444)
  out : List Msg := []
  deriving DecidableEq, Repr

/-- A stream of a context, by package core number, slot and stream. -/
structure Agent where
  core : Nat
  slot : Nat
  stream : StreamId
  deriving DecidableEq, Repr

/-- What may happen next: an engine (core and stream) takes its next slot, with the memory responses of its word left in flight
when `slow`, with the platen that reports a parity error at a row, if one does, and with the rows that its ME step makes before it
pauses, if it does; or an event of the table, with the rows that a command of XL or XS, or the 128-byte pieces that a copy, makes before
it pauses. -/
inductive Act where
  | run (core : Nat) (stream : StreamId) (slow : Bool) (par : Option (Nat × Nat)) (rows : Option Nat)
  | ev (i : Instr) (rows : Option Nat)
  deriving DecidableEq, Repr

/-- What happens around the core that no instruction or event of the table stands for: a line leaves an L1D for want of room
(R12, R108); an access finds an ECC error in a buffer, in a die's L2 or in memory and the LLC (R447, R448); a parity bit of a case
slot's word fails (R307); the migration agent of a peer package says which phase its record of a partition has entered, with its STATUS
(R427, R434), or sends a context's private frame sections (R425); the host writes an entry of a function's MSI-X table (R416). -/
inductive Note where
  | l1Leaves (core flat : Nat)
  | bufError (key : Nat) (corrected : Bool)
  | l2Error (die line word : Nat) (corrected : Bool)
  | memError (addr : Nat) (corrected : Bool)
  | caseParity (core slot word : Nat)
  | peerMa (part : Nat) (phase : Phase) (status : Nat)
  | peerRegs (part id : Nat) (r : Regs)
  | msixWrite (vf vector : Nat) (e : MsixEntry)
  deriving DecidableEq, Repr

/-- How an act of a race finds a 4-byte word (space, index): as it stood before the last `back` acts; for the row reads of a VE group, or
the rows of an ME step, that `reads` numbers alone, where that is given (R21, R164, R229; log 32: DESIGN CHOICE). -/
structure View where
  word : Nat × Nat
  back : Nat
  reads : Option (List Nat) := none
  deriving DecidableEq, Repr

/-- An act of a race, with its views, and the words that it writes before the acts ahead of it do. -/
structure Racer where
  act : Act
  views : List View := []
  lost : List (Nat × Nat) := []
  deriving DecidableEq, Repr

/-- One entry of the schedule (log 5: DESIGN CHOICE): an act; an act within the unit in progress, whose next part sees some words as they
stood before it, and whose ME step makes some rows before it pauses again (R164, R229); acts of one cycle that race (R21, R404; log 32:
DESIGN CHOICE); or a note. -/
inductive Turn where
  | act (a : Act)
  | amid (a : Act) (views : List View) (rows : Option Nat)
  | race (l : List Racer)
  | note (n : Note)
  deriving DecidableEq, Repr

/-- A redirect that has come (R437): for a unit of a slot (11 a die's L2, R398), from the package and the frame there that its access named,
to the tile's new package and frame; `used` once a clean has followed it in the running step. -/
structure Redirect where
  ck : Nat
  unit : Nat
  source : Nat
  old : Nat
  pkg : Nat
  frame : Nat
  used : Bool := false
  deriving DecidableEq, Repr

/-- The machine. -/
structure State where
  mem : Memory := []
  poison : List Nat := []             -- poisoned 64-bit words of memory, by key / 8 (R448)
  buf : Memory := []
  bpoison : List Nat := []            -- poisoned 64-bit words of the buffers
  platenPar : List Nat := []          -- package core × 8 + physical platen that reported a parity error (R232)
  wbuf : List Host.Cell := []         -- memory writes of the running step, newest first (log 8: DESIGN CHOICE)
  bbuf : List Host.Cell := []         -- buffer writes of the running step, newest first (log 8: DESIGN CHOICE)
  ctxs : List (Nat × Ctx) := []       -- by package core × 4 + slot
  cores : List (Nat × Core) := []
  dies : List (Nat × Die) := []
  parts : List (Nat × Part) := []
  vfs : List (Nat × Vf) := []
  pkg : Pkg := {}
  ats : List AtsEntry := []
  saves : List (Nat × Regs) := []     -- private frame sections, by save number (log 12: DESIGN CHOICE)
  saveNext : Nat := 1
  cle : List CleHold := []
  cycle : BitVec 64 := 0
  ticks : Nat := 0
  fresh : Nat := 0
  redirects : List Redirect := []     -- what answers the next access of a unit at a peer's frame (R437)
  strays : List (Nat × Option Turn) := [] -- frames beyond every route, with the turn that each holds up; none is the machine's own (R444)
  who : Agent := ⟨0, 0, .sq⟩
  lock : Option Agent := none
  cur : Nat := 0
  slow : Bool := false
  par : Option (Nat × Nat) := none
  rows : Option Nat := none
  early : List (Nat × Host.Cell) := []   -- buffer bytes as a row read of the running VE group, or a row of the running ME step, finds them, by its number (R164, R229)
  awaits : Option Nat := none            -- the frame whose tile an access of the running step by physical address waits for (R436)
  tape : List Turn := []
  stuck : Option Fault := none
  deriving DecidableEq, Repr

/-- The machine right after reset (R451, R9): no memory byte listed, every slot FREE, every register at the value the
spec states for reset, or at the value log 1 to 4 names where it states none. -/
def State.reset : State := {}

end Sys2Proof.Machine
end

