-- ==== Sys2Proof/Machine/Mem.lean ====
section
/-!
DEFINITION. Memory: the association lists that hold the machine's parts, the canonical byte memory, and the home of a line
(DRAM with its LLC slice, a peer's memory, host memory).

A memory key names a byte: a device physical address of this package (R457), 2^56 × (1 + p) plus an address of package p,
or 2^72 plus a host physical address. A buffer key is core × 2^32 + space × 2^28 + offset; the spaces are 0 AB, 1 CB,
2 platen images, 3 scale stores, 4 case slots and 5 the galley.
-/
namespace Sys2Proof.Machine
open Sys2Proof

/-! ### Association lists -/

/-- The value at a key, or a default. -/
def getAt {α : Type} (d : α) (k : Nat) : List (Nat × α) → α
  | [] => d
  | (j, v) :: r => if j = k then v else getAt d k r

/-- The list with a value put at a key, in rising order of keys. -/
def setAt {α : Type} (k : Nat) (v : α) : List (Nat × α) → List (Nat × α)
  | [] => [(k, v)]
  | (j, w) :: r => if j = k then (k, v) :: r else if k < j then (k, v) :: (j, w) :: r else (j, w) :: setAt k v r

/-! ### Byte memory -/

/-- The byte a memory holds at a key; an unlisted one reads as 0 (log 2: DESIGN CHOICE). -/
def Memory.read (m : Memory) (a : Nat) : BitVec 8 := getAt 0#8 a m

/-- Writes one byte and keeps the canonical form. -/
def Memory.write : Memory → Nat → BitVec 8 → Memory
  | [], a, b => if b = 0#8 then [] else [(a, b)]
  | c :: r, a, b =>
    if a < c.1 then (if b = 0#8 then c :: r else (a, b) :: c :: r)
    else if a = c.1 then (if b = 0#8 then r else (a, b) :: r)
    else c :: Memory.write r a b

/-- The canonical form: addresses strictly rising, no byte 0 listed. -/
def Memory.wf : Memory → Bool
  | [] => true
  | [c] => decide (c.2 ≠ 0#8)
  | c :: d :: r => decide (c.1 < d.1) && decide (c.2 ≠ 0#8) && Memory.wf (d :: r)

/-- Applies the writes of a step, newest first in the list, to a memory. -/
def commit (m : Memory) (w : List Host.Cell) : Memory := w.foldr (fun c m => m.write c.1 c.2) m

/-- A little-endian number with byte `i` replaced. -/
def setByte (v i b : Nat) : Nat := v - (v / 2 ^ (8 * i) % 256) * 2 ^ (8 * i) + b * 2 ^ (8 * i)

/-- `n` bytes from key `a` as one little-endian number, of a memory under the writes of the running step. -/
def readRange (m : Memory) (w : List Host.Cell) (a n : Nat) : Nat :=
  let base := m.foldl (fun v c => if a ≤ c.1 ∧ c.1 < a + n then v + c.2.toNat * 2 ^ (8 * (c.1 - a)) else v) 0
  w.foldr (fun c v => if a ≤ c.1 ∧ c.1 < a + n then setByte v (c.1 - a) c.2.toNat else v) base

/-- The cells that write `n` bytes of the number `v` at key `a`, newest first. -/
def cellsOf (a : Nat) : Nat → Nat → List Host.Cell
  | 0, _ => []
  | n + 1, v => (a + n, BitVec.ofNat 8 (v / 2 ^ (8 * n))) :: cellsOf a n v

/-! ### The parts of the machine -/

def State.ctx (s : State) (k : Nat) : Ctx := getAt {} k s.ctxs
def State.setCtx (k : Nat) (c : Ctx) (s : State) : State := { s with ctxs := setAt k c s.ctxs }
def State.modCtx (k : Nat) (f : Ctx → Ctx) (s : State) : State := s.setCtx k (f (s.ctx k))
def State.modRegs (k : Nat) (f : Regs → Regs) (s : State) : State := s.modCtx k fun c => { c with r := f c.r }
def State.core (s : State) (n : Nat) : Core := getAt {} n s.cores
def State.modCore (n : Nat) (f : Core → Core) (s : State) : State :=
  { s with cores := setAt n (f (s.core n)) s.cores }
def State.die (s : State) (d : Nat) : Die := getAt {} d s.dies
def State.modDie (d : Nat) (f : Die → Die) (s : State) : State := { s with dies := setAt d (f (s.die d)) s.dies }
def State.part (s : State) (p : Nat) : Part := getAt {} p s.parts
def State.modPart (p : Nat) (f : Part → Part) (s : State) : State :=
  { s with parts := setAt p (f (s.part p)) s.parts }
def State.vf (s : State) (v : Nat) : Vf := getAt {} v s.vfs
def State.modVf (v : Nat) (f : Vf → Vf) (s : State) : State := { s with vfs := setAt v (f (s.vf v)) s.vfs }
def State.modPkg (f : Pkg → Pkg) (s : State) : State := { s with pkg := f s.pkg }

/-- The slot key of the running stream. -/
def State.ck (s : State) : Nat := s.who.core * 4 + s.who.slot

/-- The context of the running stream. -/
def State.c (s : State) : Ctx := s.ctx s.ck

/-- The core and die of a slot key. -/
def coreOf (ck : Nat) : Nat := ck / 4
def dieOf (ck : Nat) : Nat := ck / 4 / 48

/-- A stream of a context. -/
def Ctx.stream (c : Ctx) (u : StreamId) : Stream := c.r.streams[u.code]'(by cases u <;> decide)
def Regs.modStream (u : StreamId) (f : Stream → Stream) (r : Regs) : Regs :=
  { r with streams := r.streams.set u.code (f (r.streams[u.code]'(by cases u <;> decide))) (by cases u <;> decide) }
def State.modStream (k : Nat) (u : StreamId) (f : Stream → Stream) (s : State) : State :=
  s.modRegs k (Regs.modStream u f)

/-- A vector entry, or a default beyond its end. -/
def vget {α : Type} {n : Nat} (d : α) (v : Vector α n) (i : Nat) : α := v[i]?.getD d
/-- A vector with an entry set; beyond its end nothing changes. -/
def vset {α : Type} {n : Nat} (v : Vector α n) (i : Nat) (x : α) : Vector α n := v.setIfInBounds i x

/-- A 64-bit counter raised by `n`, saturating (R454). -/
def satAdd (b : BitVec 64) (n : Nat) : BitVec 64 := BitVec.ofNat 64 (min (b.toNat + n) (2 ^ 64 - 1))

/-- Adds to the package counter `i`: 0 PFQ_FULL, 1 PF_STALE, 2 LAYOUT_WRLOCK, 3 SECVIO, 4 NOROUTE, 5 THROTTLE, 6 FOREIGN. -/
def countPkg (i n : Nat) : State → State :=
  State.modPkg fun p => { p with counters := vset p.counters i (satAdd (vget 0 p.counters i) n) }

/-- Adds to the counter `i` of a die: 0 SCOPE_UNCHK, 1 CE, 2 UE, 3 ELDROP, 4 TAGKILL, 5 COLL_PARTIAL. -/
def countDie (d i n : Nat) : State → State :=
  State.modDie d fun x => { x with counters := vset x.counters i (satAdd (vget 0 x.counters i) n) }

/-- A value the manual leaves open, drawn afresh (log 7: DESIGN CHOICE). -/
def State.draw (s : State) : Nat × State := (Config.freeNat s.fresh, { s with fresh := s.fresh + 1 })

/-! ### Homes (R313, R457) -/

def dramEnd : Nat := 0x9000000000
def peerKey (pkg addr : Nat) : Nat := 2 ^ 56 * (1 + pkg) + addr
def hostKey (hpa : Nat) : Nat := 2 ^ 72 + hpa

/-- Where a key lies: 0 this package, 1 a peer, 2 host memory. -/
def homeKind (key : Nat) : Nat := if key < 2 ^ 56 then 0 else if key < 2 ^ 72 then 1 else 2

/-- The DRAM channel of a device physical address (R457). -/
def channelOf (a : Nat) : Nat := a / 0x60000000

/-- Whether the channel of a key is out of service (R453). -/
def State.channelOff (s : State) (key : Nat) : Bool :=
  decide (homeKind key = 0) && !(s.die (channelOf key / 48)).chok.getLsbD (channelOf key % 48)

/-- `n` bytes at the home, and whether one of their 64-bit words is poisoned (R448, R453). -/
def State.homeRead (s : State) (key n : Nat) : Nat × Bool :=
  (readRange s.mem s.wbuf key n,
    s.channelOff key || s.poison.any fun w => decide (key / 8 ≤ w ∧ w ≤ (key + n - 1) / 8 ∧ n ≠ 0))

/-- Writes `n` bytes at the home; a whole 64-bit word loses its poison (R448). -/
def State.homeWrite (key n v : Nat) (s : State) : State :=
  if s.channelOff key then s
  else { s with
    wbuf := cellsOf key n v ++ s.wbuf
    poison := s.poison.filter fun w => !decide (key ≤ 8 * w ∧ 8 * w + 8 ≤ key + n) }

/-- Poisons the 64-bit word of a key. -/
def State.homePoison (key : Nat) (s : State) : State :=
  { s with poison := if s.poison.contains (key / 8) then s.poison else key / 8 :: s.poison }

/-- Marks the running step stopped, once. -/
def State.stop (f : Fault) (s : State) : State :=
  { s with stuck := match s.stuck with | none => some f | some x => some x }

end Sys2Proof.Machine
end

