-- ==== Sys2Proof/Machine/Desc.lean ====
section
/-!
DEFINITION. The fields of a tensor descriptor (R381) and of a tile entry (R385), and the tensor tables read at home.
-/
namespace Sys2Proof.Machine
open Sys2Proof

/-! ### Descriptors (R381) -/

/-- `n` bytes at offset `o` of a record. -/
def fieldOf (d : Nat) (o n : Nat) : Nat := d / 2 ^ (8 * o) % 2 ^ (8 * n)

/-- A descriptor's fields (R381), with the element width of its binding (R66). -/
structure Desc where
  index : Nat
  ttbase : Nat
  bind : Nat
  dims : List Nat
  tsh : List Nat
  rank : Nat
  tiled : Bool
  acc : Nat
  ntiles : Nat
  scalet : Nat
  width : Nat
  deriving DecidableEq, Repr

/-- The format width of a lattice codebook (R40). -/
def latticeWidth (cb : Nat) : Nat := [32, 16, 16, 8, 8, 8, 6, 4, 8, 16, 32, 64, 8, 16, 32, 64][cb]?.getD 0

def bindCb (b : Nat) : Nat := b % 65536
def bindIxw (b : Nat) : Nat := b / 2 ^ 25 % 16
def bindFollow (b : Nat) : Bool := b / 2 ^ 29 % 2 = 1
def bindVer (b : Nat) : Nat := b / 2 ^ 32 % 2 ^ 32

/-- Whether a codebook is one of the MXINT lattices. -/
def isMx (cb : Nat) : Bool := decide (5 ≤ cb ∧ cb ≤ 7)

def descOf (i : Nat) (d : Nat) : Desc :=
  let b := fieldOf d 0x08 8
  { index := i, ttbase := fieldOf d 0 8, bind := b
    dims := fieldOf d 0x10 6 :: (List.range 4).map fun m => fieldOf d (0x18 + 4 * m) 4
    tsh := (List.range 5).map fun m => fieldOf d (0x28 + m) 1
    rank := fieldOf d 0x2D 1 % 8, tiled := fieldOf d 0x2E 1 % 2 = 1, acc := fieldOf d 0x2F 1
    ntiles := fieldOf d 0x30 4, scalet := fieldOf d 0x34 4
    width := if bindCb b < 16 then latticeWidth (bindCb b) else bindIxw b }

def Desc.tshSum (d : Desc) : Nat := d.tsh.foldr (· + ·) 0
def Desc.dim (d : Desc) (m : Nat) : Nat := d.dims[m]?.getD 1
def Desc.shift (d : Desc) (m : Nat) : Nat := d.tsh[m]?.getD 0

/-! ### Tile entries (R385) -/

/-- The fields of a tile entry. -/
def teState (e : Nat) : Nat := e / 2 ^ 13 % 8
def teLoc (e : Nat) : Nat := e / 2 ^ 11 % 4
def teR (e : Nat) : Bool := e / 2 ^ 10 % 2 = 1
def teW (e : Nat) : Bool := e / 2 ^ 9 % 2 = 1
def teA (e : Nat) : Bool := e / 2 ^ 8 % 2 = 1
def teSecure (e : Nat) : Bool := e / 2 ^ 7 % 2 = 1
def tePkg (e : Nat) : Nat := e / 2 ^ 64 % 65536
def teFrame (e : Nat) : Nat := e / 2 ^ 80 % 2 ^ 48
def teReserved (e : Nat) : Bool :=
  decide (4 < teState e) || decide (teLoc e = 3) || decide (e / 2 ^ 16 % 2 ^ 48 ≠ 0) || decide (e % 128 ≠ 0)

/-- A tile entry's state written back (R432). -/
def teSetState (e st : Nat) : Nat := e - teState e * 2 ^ 13 + st * 2 ^ 13

/-- An entry with state, location, package and frame replaced; R, W, A and SECURE stay (R429). -/
def teMove (e st loc pkg frame : Nat) : Nat :=
  e % 2 ^ 11 + loc * 2 ^ 11 + st * 2 ^ 13 + e / 2 ^ 16 % 2 ^ 48 * 2 ^ 16 + pkg * 2 ^ 64 + frame * 2 ^ 80

/-- Whether an entry is LOCAL and PRESENT. -/
def teOwned (e : Nat) : Bool := decide (teState e = 0 ∧ teLoc e = 0)

/-! ### Tensor tables at home (R380) -/

/-- The descriptors of a partition's tensor table that are VALID, read at home. -/
def State.partDescs (s : State) (p : Nat) : List Desc :=
  let tt := (s.part p).active.ttab.toNat
  ((List.range (tt % 65536 + 1)).map fun i => descOf i (s.homeRead (tt / 65536 * 65536 + 64 * i) 64).1).filter
    fun d => d.acc / 8 % 2 = 1

/-- Every tile of a partition: tensor, tile, entry, in ascending descriptor index and then tile number. -/
def State.tilesOf (s : State) (p : Nat) : List (Nat × Nat × Nat) :=
  (s.partDescs p).flatMap fun d => (List.range d.ntiles).map fun t => (d.index, t, (s.homeRead (d.ttbase + 16 * t) 16).1)

/-- The address of a tile's entry, through the partition's tensor table. -/
def State.tileAt (s : State) (p tensor tile : Nat) : Nat :=
  let tt := (s.part p).active.ttab.toNat / 65536 * 65536
  (descOf tensor (s.homeRead (tt + 64 * tensor) 64).1).ttbase + 16 * tile
def State.tileEntry (s : State) (p tensor tile : Nat) : Nat := (s.homeRead (s.tileAt p tensor tile) 16).1

/-! ### Secure frames and routes (R420, R443) -/

/-- Whether a frame of this package lies in a secure range (R420). -/
def State.secureFrame (s : State) (frame : Nat) : Bool :=
  s.pkg.world.rng.toList.any fun r =>
    r.getLsbD 0 && decide (r.toNat / 2 ^ 16 % 2 ^ 24 ≤ frame ∧ frame ≤ r.toNat / 2 ^ 40 % 2 ^ 24)

/-- The UP ports that may carry traffic to a package (R443). (log 24: DEDUCED) -/
def State.upPorts (s : State) (pkg : Nat) : List Nat :=
  (List.range 36).filter fun k => (vget 0 s.pkg.route pkg).getLsbD k && (vget {} s.pkg.ports k).up

end Sys2Proof.Machine
end

