-- ==== Sys2Proof/Machine/Cache.lean ====
section
/-!
DEFINITION. What stands between an access and its home: the frame map of a migration (R430, R436), accesses by physical
address, the die L2 (R11, R314, R410), the L1D (R12, R108), and the core's buffers (R16, R17).
-/
namespace Sys2Proof.Machine
open Sys2Proof

/-! ### The frame map (R430, R436) -/

/-- The base of the package's frame map while a migration is active. -/
def State.mapBase (s : State) : Option Nat :=
  (s.parts.find? fun p => p.2.ma.phase != .idle).map fun p => p.2.ma.mbase.toNat / 65536 * 65536

/-- The frame-map entry of a frame of this package: MST at [63:61], PKG at [55:48], FRAME at [47:0]; 0 with no migration. -/
def State.frameState (s : State) (frame : Nat) : Nat :=
  match s.mapBase with
  | none => 0
  | some mb => (s.homeRead (mb + 8 * frame) 8).1

def mapEntry (mst pkg frame : Nat) : Nat := mst * 2 ^ 61 + pkg % 256 * 2 ^ 48 + frame % 2 ^ 48

/-- The fields of a frame-map entry. -/
def mapMst (m : Nat) : Nat := m / 2 ^ 61
def mapPkg (m : Nat) : Nat := m / 2 ^ 48 % 256
def mapFrame (m : Nat) : Nat := m % 2 ^ 48

/-- The key of an address at a package, this one included. -/
def State.keyAt (s : State) (pkg a : Nat) : Nat := if pkg = s.pkg.num.toNat then a else peerKey pkg a

/-- Where an address of a FORWARD frame now lies. -/
def State.movedKey (s : State) (m a : Nat) : Nat := s.keyAt (mapPkg m) (mapFrame m * 65536 + a % 65536)

/-- Whether a partition's MA record serves a migration as target. -/
def Ma.target (m : Ma) : Bool := !m.source && (m.phase == .receiving || m.phase == .staged || m.phase == .pulling)

/-- R444: a message to a package leaves when a port toward it is up, else it waits for one. -/
def State.sendTo (pkg : Nat) (m : Msg) (s : State) : State :=
  if (s.upPorts pkg).isEmpty then s.modPkg fun k => { k with waiting := k.waiting ++ [(pkg, m)] }
  else s.modPkg fun k => { k with out := k.out ++ [m] }

/-- R432 to R434: an access that meets a REMOTE_OWNED tile while the target is PULLING: the entry becomes IN_TRANSIT and one
PULL is sent. `at0` is the entry's address. -/
def startPull (part tensor tile at0 : Nat) (s : State) : State :=
  let m := (s.part part).ma
  let e := (s.homeRead at0 16).1
  if m.phase = .pulling ∧ teState e = 2 then
    let s := s.homeWrite at0 16 (teSetState e 3)
    (s.modPart part fun p => { p with ma := { p.ma with inFlight := (tensor, tile, false) :: p.ma.inFlight } }).sendTo
      m.ppkg.toNat (.pull m.ppkg.toNat m.ppart.toNat tensor tile)
  else s

/-- The tile still to come of a migrating partition at this package whose entry names a frame: partition, descriptor, tile. -/
def State.findTile (s : State) (frame : Nat) : Option (Nat × Desc × Nat) :=
  (s.parts.filter fun p => p.2.ma.target).findSome? fun p =>
    (s.partDescs p.1).findSome? fun d =>
      ((List.range d.ntiles).find? fun t =>
        let e := (s.homeRead (d.ttbase + 16 * t) 16).1
        decide (teFrame e = frame ∧ teLoc e = 0 ∧ (teState e = 2 ∨ teState e = 3))).map fun t => (p.1, d, t)

/-- R436: an access that meets a PENDING frame pulls its tile where it is REMOTE_OWNED. -/
def pullFrame (frame : Nat) (s : State) : State :=
  match s.findTile frame with
  | some x => startPull x.1 x.2.1.index x.2.2 (x.2.1.ttbase + 16 * x.2.2) s
  | none => s

/-- Counts a redirect, for the migration whose tile has moved to a frame of package `pkg` (R426). -/
def countRedirect (pkg frame : Nat) (s : State) : State :=
  { s with parts := s.parts.map fun p =>
      if p.2.ma.source && p.2.ma.phase != .idle && (s.tilesOf p.1).any fun t =>
          decide (teState t.2.2 = 4 ∧ tePkg t.2.2 = pkg ∧ teFrame t.2.2 = frame) then
        (p.1, { p.2 with ma := { p.2.ma with redir := if p.2.ma.redir = 0xFFFF#16 then 0xFFFF#16 else p.2.ma.redir + 1 } })
      else p }

/-- Writes bytes at the home with their poison. -/
def State.homePut (key n v : Nat) (bad : Bool) (s : State) : State :=
  if bad then (s.homeWrite key n v).homePoison key else s.homeWrite key n v

/-- R444: whether a frame's tile has moved to a package toward which no port is up. -/
def State.beyond (s : State) (frame : Nat) : Bool :=
  let m := s.frameState frame
  decide (mapMst m = 3 ∧ mapPkg m ≠ s.pkg.num.toNat) && (s.upPorts (mapPkg m)).isEmpty

/-- R436: a write of this package itself, a clean of a die L2 among them, reaches its home: it performs, waits for the tile on
the move or for a route to it (R444), or follows it. -/
def State.cleanWrite (key n v : Nat) (bad : Bool) (s : State) : State :=
  let m := if homeKind key = 0 then s.frameState (key / 65536) else 0
  let hold (s : State) : State := s.modPkg fun p => { p with held := p.held ++ [{ frame := key / 65536, dma := false, req :=
      { pkg := p.num.toNat, core := 0, op := 1, aop := 0, addr := key, size := n, value := v, compare := 0
        poison := if bad then 1 else 0, sync := false, scope := 0 } }] }
  match mapMst m with
  | 3 =>
    if s.beyond (key / 65536) then hold s
    else countRedirect (mapPkg m) (mapFrame m) (s.homePut (s.movedKey m key) n v bad)
  | 2 => hold s
  | 4 => hold (pullFrame (key / 65536) s)
  | _ => s.homePut key n v bad

/-! ### Accesses by device physical address (R430, R457) -/

/-- A range cut at the ends of frames: offsets and lengths. -/
def framePieces (a : Nat) : Nat → Nat → Nat → List (Nat × Nat)
  | 0, _, _ => []
  | fuel + 1, o, n =>
    if n = 0 then []
    else
      let k := min n (65536 - (a + o) % 65536)
      (o, k) :: framePieces a fuel (o + k) (n - k)

/-- The pieces of a range of addresses: one while no migration is active. -/
def State.pieces (s : State) (a n : Nat) : List (Nat × Nat) :=
  if s.mapBase.isSome then framePieces a (n / 65536 + 2) 0 n else [(0, n)]

/-- Where an access by physical address performs: at the frame, or where its tile has moved (R436). -/
def State.physKey (s : State) (a : Nat) : Nat :=
  let m := s.frameState (a / 65536)
  if mapMst m = 3 then s.movedKey m a else a

/-- `n` bytes at a translated key, read at home: a frame whose tile has moved since is followed (R436). -/
def State.keyRead (s : State) (key n : Nat) : Nat × Bool := s.homeRead (if homeKind key = 0 then s.physKey key else key) n

/-- R436, R444: a read by physical address at a frame whose tile is on the move, or beyond every route, waits: the step that makes it does
not take place (log 29: DEDUCED). -/
def State.await (a : Nat) (s : State) : State :=
  let m := mapMst (s.frameState (a / 65536))
  if m = 2 ∨ m = 4 ∨ s.beyond (a / 65536) = true then { s with awaits := some (s.awaits.getD (a / 65536)) } else s

/-- The same for an action at a translated key. -/
def State.awaitKey (key : Nat) (s : State) : State := if homeKind key = 0 then s.await key else s

/-- A read by device physical address through an untranslated register: an address that names no DRAM stops (log 9: DESIGN CHOICE). It
lies in one frame. -/
def physRead (a n : Nat) (s : State) : Nat × Bool × State :=
  if a + n ≤ dramEnd then ((s.homeRead (s.physKey a) n).1, (s.homeRead (s.physKey a) n).2, s.await a) else (0, false, s.stop (.noDram a))

/-- A write by device physical address through an untranslated register. -/
def physWrite (a n v : Nat) (s : State) : State :=
  if a + n ≤ dramEnd then s.cleanWrite a n v false else s.stop (.noDram a)

/-! ### The die L2 (R11, R314, R410) -/

/-- The ways of a die's L2 that a partition owns (R407). -/
def State.l2Ways (s : State) (die part : Nat) : BitVec 24 := (getAt {} part (s.die die).active).ways

/-- The positions of the set bits of a mask below `n`, in ascending order. -/
def setBits (m n : Nat) : List Nat := (List.range n).filter fun i => m.testBit i

/-- The set of a line, of 65,536 (R11): which one is the implementation's (log 31: DESIGN CHOICE). -/
def l2Set (line : Nat) : Nat := Config.l2Set line % 65536

/-- The line of the L2 of a die that a partition may match: in its ways, and its own (R410). -/
def State.l2Find (s : State) (die part line : Nat) : Option L2Line :=
  (s.die die).l2.find? fun l => l.line = line ∧ l.owner = part ∧ (s.l2Ways die part).getLsbD l.way

/-- The class bit of CMASK. -/
def clsBit (cls : Nat) : BitVec 16 := 1#16 <<< cls

/-- The poison bits of the 16 words of a line at its home. -/
def State.linePoison (s : State) (line : Nat) : BitVec 16 :=
  if s.channelOff (line * 128) then 0xFFFF#16
  else s.poison.foldl (fun p w => if w / 16 = line then p ||| (1#16 <<< (w % 16)) else p) 0

/-- The bits of `n` bytes at byte offset `o` as a mask of units of `u` bytes. -/
def unitMask (o n u : Nat) : Nat := 2 ^ ((o + n - 1) / u + 1) - 2 ^ (o / u)

/-- Bytes of a 128-byte line. -/
def lineBytes (d : BitVec 1024) (o n : Nat) : Nat := d.toNat / 2 ^ (8 * o) % 2 ^ (8 * n)

/-- A 128-byte line with `n` bytes replaced. -/
def lineSet (d : BitVec 1024) (o n v : Nat) : BitVec 1024 :=
  BitVec.ofNat 1024 (d.toNat - lineBytes d o n * 2 ^ (8 * o) + v % 2 ^ (8 * n) * 2 ^ (8 * o))

/-- The poison of a line's words after a write of `n` bytes at offset `o`: a whole word loses it. -/
def poisonAfter (p : BitVec 16) (o n : Nat) : BitVec 16 :=
  if (o + 7) / 8 < (o + n) / 8 then
    p &&& ~~~(BitVec.ofNat 16 (2 ^ ((o + n) / 8) - 2 ^ ((o + 7) / 8)))
  else p

/-- The words of a line (index, two dirty bits, poison) cleaned to its home, up to word `i`. -/
def cleanWords (l : L2Line) : Nat → State → State
  | 0, s => s
  | i + 1, s =>
    let s := cleanWords l i s
    let a := l.line * 128 + 8 * i
    let lo := l.dirty.getLsbD (2 * i)
    let hi := l.dirty.getLsbD (2 * i + 1)
    let bad := l.poison.getLsbD i
    if lo && hi then s.cleanWrite a 8 (lineBytes l.data (8 * i) 8) bad
    else if lo then s.cleanWrite a 4 (lineBytes l.data (8 * i) 4) bad
    else if hi then s.cleanWrite (a + 4) 4 (lineBytes l.data (8 * i + 4) 4) bad
    else s

/-- Whether a redirect is for the L2 (R398's unit 11) and the frame of a line. -/
def Redirect.ofLine (r : Redirect) (line : Nat) : Bool := decide (r.unit = 11 ∧ peerKey r.source (r.old * 65536) / 65536 = line * 128 / 65536)

/-- R436: the line that a clean of another package's line goes to: a redirect that has come for the L2 and the line's frame answers it, and
the dirty words go again, to the new owner's frame. -/
def State.cleanAt (s : State) (line : Nat) : Nat :=
  match s.redirects.find? (·.ofLine line) with
  | some r => s.keyAt r.pkg (r.frame * 65536 + line * 128 % 65536) / 128
  | none => line

/-- The redirect that a clean has followed; it serves the frame's other lines in the same step. -/
def followRedirect (line : Nat) (s : State) : State :=
  { s with redirects := s.redirects.map fun r => if r.ofLine line then { r with used := true } else r }

/-- R314: writes a line's dirty words, and only those, to its home. -/
def cleanLine (l : L2Line) (s : State) : State :=
  if l.dirty = 0 then s else cleanWords { l with line := s.cleanAt l.line } 16 (followRedirect l.line s)

/-- R444: whether the place that a line is cleaned to can be reached: a peer's needs a port that is up. -/
def State.reaches (s : State) (line : Nat) : Bool :=
  let l := s.cleanAt line
  decide (homeKind (l * 128) ≠ 1) || !(s.upPorts (l * 128 / 2 ^ 56 - 1)).isEmpty

/-- Whether a line waits for a route before it can be cleaned. -/
def State.waitsRoute (s : State) (l : L2Line) : Bool := decide (l.dirty ≠ 0) && !s.reaches l.line

/-- Cleans every line of a die's L2 that `p` names, and keeps it; one without a route waits (R444). -/
def l2Clean (die : Nat) (p : L2Line → Bool) (s : State) : State :=
  let q (l : L2Line) : Bool := p l && !s.waitsRoute l
  let t := (s.die die).l2.foldl (fun s l => if q l then cleanLine l s else s) s
  t.modDie die fun d => { d with l2 := d.l2.map fun l => if q l then { l with dirty := 0 } else l }

/-- Drops every line of a die's L2 that `p` names, after cleaning it (R314); one without a route waits (R444). -/
def l2Drop (die : Nat) (p : L2Line → Bool) (s : State) : State :=
  let q (l : L2Line) : Bool := p l && !s.waitsRoute l
  let t := (s.die die).l2.foldl (fun s l => if q l then cleanLine l s else s) s
  t.modDie die fun d => { d with l2 := d.l2.filter fun l => !q l }

/-- R11, R410: the way that takes a line of a partition: a free one of its ways in the line's set, else one whose line is
evicted; which one the spec leaves open (log 31: DESIGN CHOICE). 24 when the partition has none. -/
def State.l2Room (die part line : Nat) (s : State) : Nat × State :=
  let ways := setBits (s.l2Ways die part).toNat 24
  let l2 := (s.die die).l2
  match ways.find? fun w => !(l2.any fun x => x.way = w) with
  | some w => (w, s)
  | none =>
    let here := l2.filter fun x => l2Set x.line = l2Set line
    match ways.find? fun w => !(here.any fun x => x.way = w) with
    | some w => (w, s)
    | none =>
      let out := ways.filter fun w => here.any fun x => x.way = w && !s.waitsRoute x
      let (n, s) := s.draw
      match out[n % out.length]? with
      | none => (24, s)
      | some w => (w, l2Drop die (fun x => decide (x.way = w ∧ l2Set x.line = l2Set line)) s)

/-- Puts a line in the L2 of a die, in place of the partition's copy; a line that no way holds goes home at once. -/
def State.l2Put (die : Nat) (l : L2Line) (s : State) : State :=
  if l.way < 24 then s.modDie die fun d =>
    if d.l2.any (fun x => x.line = l.line ∧ x.owner = l.owner) then
      { d with l2 := d.l2.map fun x => if x.line = l.line ∧ x.owner = l.owner then l else x }
    else { d with l2 := l :: d.l2 }
  else cleanLine l s

/-- The L2 copy of a line, filled from its home when absent. -/
def State.l2Get (die part line cls : Nat) (s : State) : L2Line × State :=
  match s.l2Find die part line with
  | some l => (l, s)
  | none =>
    let (w, s) := s.l2Room die part line
    let l : L2Line :=
      ⟨line, BitVec.ofNat 1024 (s.homeRead (line * 128) 128).1, 0, clsBit cls, part, w, s.linePoison line⟩
    (l, s.l2Put die l)

/-- Reads `n` bytes that lie in one line, through the die L2; those of a channel out of service are poison (R453). -/
def State.l2ReadIn (die part key n cls : Nat) (s : State) : Nat × Bool × State :=
  let (l, t) := s.l2Get die part (key / 128) cls
  (lineBytes l.data (key % 128) n,
    s.channelOff key || decide ((l.poison &&& BitVec.ofNat 16 (unitMask (key % 128) n 8)) ≠ 0), t)

/-- Writes `n` bytes that lie in one line, into the die L2; those of a channel out of service are dropped (R453). -/
def State.l2WriteIn (die part key n v cls : Nat) (s : State) : State :=
  if s.channelOff key then s
  else
    let (l, s) := s.l2Get die part (key / 128) cls
    s.l2Put die { l with
      data := lineSet l.data (key % 128) n v
      dirty := l.dirty ||| BitVec.ofNat 32 (unitMask (key % 128) n 4)
      cmask := l.cmask ||| clsBit cls
      poison := poisonAfter l.poison (key % 128) n }

/-! ### The L1D (R108) -/

/-- Drops every line of a core's L1D that `p` names. -/
def l1Drop (core : Nat) (p : L1Line → Bool) : State → State :=
  State.modCore core fun c => { c with l1 := c.l1.filter fun l => !p l }

/-- Updates in place the L1D lines that hold the `n` bytes at `key`. -/
def l1Update (core key n v : Nat) : State → State :=
  State.modCore core fun c => { c with l1 := c.l1.map fun l =>
    if l.line = key / 128 then
      { l with data := lineSet l.data (key % 128) n v, poison := poisonAfter l.poison (key % 128) n } else l }

/-- Fills an L1D line: no other copy of its memory line stays (R320; log 22: DEDUCED), and of the 256 lines that L1D holds (R12) one
leaves when there is no room; which one the spec leaves open (log 31: DESIGN CHOICE). -/
def l1Fill (core : Nat) (l : L1Line) (s : State) : State :=
  let rest := (s.core core).l1.filter fun x => x.flat ≠ l.flat ∧ x.line ≠ l.line
  if rest.length < 256 then s.modCore core fun c => { c with l1 := l :: rest }
  else
    let (n, s) := s.draw
    s.modCore core fun c => { c with l1 := l :: rest.eraseIdx (n % rest.length) }

/-- A line leaves a core's L1D for want of room: L1D holds no dirty data, so nothing is lost (R108; log 31: DESIGN CHOICE). -/
def l1Leaves (core flat : Nat) : State → State := l1Drop core fun l => decide (l.flat = flat)

/-! ### Buffers (R16, R17) -/

def bufKey (core space off : Nat) : Nat := core * 2 ^ 32 + space * 2 ^ 28 + off

/-- `n` bytes of a buffer, and whether one of their words is poisoned (R448). -/
def State.bufRead (s : State) (key n : Nat) : Nat × Bool :=
  (readRange s.buf s.bbuf key n,
    s.bpoison.any fun w => decide (key / 8 ≤ w ∧ w ≤ (key + n - 1) / 8 ∧ n ≠ 0))

/-- Writes `n` bytes of a buffer. -/
def State.bufWrite (key n v : Nat) (s : State) : State :=
  { s with
    bbuf := cellsOf key n v ++ s.bbuf
    bpoison := s.bpoison.filter fun w => !decide (key ≤ 8 * w ∧ 8 * w + 8 ≤ key + n) }

/-- Writes bytes of buffers, by key; of two for one key the later remains. A 64-bit word that is written whole loses its
poison (R448). -/
def State.bufBytes (l : List (Nat × BitVec 8)) (s : State) : State :=
  { s with
    bbuf := l.reverse ++ s.bbuf
    bpoison := s.bpoison.filter fun w => !((List.range 8).all fun i => l.any fun c => c.1 = 8 * w + i) }

/-- Poisons the 64-bit word of a buffer key. -/
def State.bufPoison (key : Nat) (s : State) : State :=
  { s with bpoison := if s.bpoison.contains (key / 8) then s.bpoison else key / 8 :: s.bpoison }

/-- The fields of CTXBUF (R17). -/
def abBase (b : BitVec 64) : Nat := b.toNat / 2 ^ 58 % 64
def abSize (b : BitVec 64) : Nat := b.toNat / 2 ^ 52 % 64
def ctBase (b : BitVec 64) : Nat := b.toNat / 2 ^ 47 % 32
def ctCount (b : BitVec 64) : Nat := b.toNat / 2 ^ 41 % 64
def plmOf (b : BitVec 64) : Nat := b.toNat / 2 ^ 33 % 256
def csmOf (b : BitVec 64) : Nat := b.toNat / 2 ^ 17 % 65536
def gqOf (b : BitVec 64) : Nat := b.toNat / 2 ^ 13 % 16

/-- The physical platen, case slot or galley quarter of a context's number (R17). -/
def Ctx.platens (c : Ctx) : List Nat := setBits (plmOf c.ctxbuf) 8
def Ctx.caseSlots (c : Ctx) : List Nat := setBits (csmOf c.ctxbuf) 16
def Ctx.quarters (c : Ctx) : List Nat := setBits (gqOf c.ctxbuf) 4

/-- The bytes of the AB and CB windows. -/
def Ctx.abBytes (c : Ctx) : Nat := abSize c.ctxbuf * 65536
def Ctx.cbBytes (c : Ctx) : Nat := ctCount c.ctxbuf * 32768

/-- The buffer key of an offset in a context's window of AB (space 0) or CB (space 1). -/
def winKey (ck : Nat) (c : Ctx) (space off : Nat) : Nat :=
  if space = 0 then bufKey (coreOf ck) 0 (65536 * abBase c.ctxbuf + off)
  else bufKey (coreOf ck) 1 (32768 * ctBase c.ctxbuf + off)

/-- R18: whether a range lies in the context's window of AB or CB. -/
def inWindow (c : Ctx) (space off n : Nat) : Bool :=
  decide (off + n ≤ (if space = 0 then c.abBytes else c.cbBytes) ∧ off < (if space = 0 then c.abBytes else c.cbBytes))

/-- Reads and writes in a context's window. -/
def winRead (ck space off n : Nat) (s : State) : Nat × Bool := s.bufRead (winKey ck (s.ctx ck) space off) n
def winWrite (ck space off n v : Nat) (s : State) : State := s.bufWrite (winKey ck (s.ctx ck) space off) n v

/-- The buffers as the read numbered `n` of the running unit finds them, in a race (R21, R164, R229; log 32: DESIGN CHOICE). -/
def State.atNumber (s : State) (n : Nat) : State := { s with bbuf := (s.early.filter fun e => e.1 = n).map (·.2) ++ s.bbuf }

/-- The buffer key of a galley entry of a context (R17). -/
def galleyKey (ck : Nat) (c : Ctx) (e : Nat) : Nat :=
  bufKey (coreOf ck) 5 (4 * (4096 * (c.quarters[e / 4096]?.getD 0) + e % 4096))

def Ctx.galleyEntries (c : Ctx) : Nat := 4096 * c.quarters.length

/-- The buffer keys of a physical platen's image and scale store, and of a physical case slot. -/
def platenKey (core p : Nat) : Nat := bufKey core 2 (p * 12288)
def scaleKey (core p : Nat) : Nat := bufKey core 3 (p * 768)
def caseKey (core k : Nat) : Nat := bufKey core 4 (k * 2048)

end Sys2Proof.Machine
end

