-- ==== Sys2Proof/Machine/Num.lean ====
section
/-!
DEFINITION. Number formats, rounding, conversion and block sums (spec 02, R29 to R58). A value is exact: a sign, a
natural significand and a power of two; every operation forms its exact result and rounds once.
-/
namespace Sys2Proof.Machine
open Sys2Proof

/-! ### Flags (R58) -/

/-- The sticky flags, bit 0 INV to bit 5 SRCH. -/
abbrev Flags := BitVec 6

def fINV : Flags := 1#6
def fDZ : Flags := 2#6
def fOF : Flags := 4#6
def fUF : Flags := 8#6
def fNX : Flags := 16#6
def fSRCH : Flags := 32#6

/-- The flag `f` when `b` holds. -/
def flagIf (b : Bool) (f : Flags) : Flags := if b then f else 0

/-! ### Values and float formats -/

/-- A value: a NaN (signalling or quiet), an infinity, or the finite value (-1)^neg × m × 2^e. -/
inductive FVal where
  | nan (sig : Bool)
  | inf (neg : Bool)
  | fin (neg : Bool) (m : Nat) (e : Int)
  deriving DecidableEq, Repr

/-- Zero of a sign. -/
def FVal.zero (neg : Bool) : FVal := .fin neg 0 0

/-- The value of an integer. -/
def FVal.ofInt (i : Int) : FVal := .fin (decide (i < 0)) i.natAbs 0

/-- The float formats of R30, R32 and R33. -/
inductive FFmt where
  | f32 | f16 | bf16 | e4m3 | e5m2
  deriving DecidableEq, Repr

def FFmt.width : FFmt → Nat
  | .f32 => 32 | .f16 | .bf16 => 16 | .e4m3 | .e5m2 => 8

def FFmt.fracBits : FFmt → Nat
  | .f32 => 23 | .f16 => 10 | .bf16 => 7 | .e4m3 => 3 | .e5m2 => 2

def FFmt.bias : FFmt → Nat
  | .f32 => 127 | .f16 => 15 | .bf16 => 127 | .e4m3 => 7 | .e5m2 => 15

/-- The largest finite magnitude's bits (R30, R32, R33). -/
def FFmt.maxMag : FFmt → Nat
  | .f32 => 0x7F7FFFFF | .f16 => 0x7BFF | .bf16 => 0x7F7F | .e4m3 => 0x7E | .e5m2 => 0x7B

/-- The canonical NaN (R31). -/
def FFmt.nanBits : FFmt → Nat
  | .f32 => 0x7FC00000 | .f16 => 0x7E00 | .bf16 => 0x7FC0 | .e4m3 => 0x7F | .e5m2 => 0x7E

/-- The bits of +∞ (none in e4m3, whose code there is its NaN). -/
def FFmt.infBits (f : FFmt) : Nat := f.maxMag + 1

/-- The format class of R47: 0 the 32-bit, 1 the 16-bit, 2 the 8-bit formats. -/
def FFmt.cls : FFmt → Nat
  | .f32 => 0 | .f16 | .bf16 => 1 | .e4m3 | .e5m2 => 2

/-- The input-flush bit of a format's class (R47). -/
def flushIn (fl : BitVec 6) (f : FFmt) : Bool := fl.getLsbD (2 * f.cls)

/-- The result-flush bit of a format's class (R47). -/
def flushRes (fl : BitVec 6) (f : FFmt) : Bool := fl.getLsbD (2 * f.cls + 1)

/-- The value of an encoding (R30 to R33), with no flush. -/
def FFmt.decode (f : FFmt) (b : Nat) : FVal :=
  let mag := b % 2 ^ (f.width - 1)
  let neg := b / 2 ^ (f.width - 1) % 2 = 1
  if mag > f.maxMag then
    if f = .e4m3 then .nan false
    else if mag = f.infBits then .inf neg
    else .nan (decide (mag / 2 ^ (f.fracBits - 1) % 2 = 0))
  else
    let ex := mag / 2 ^ f.fracBits
    let fr := mag % 2 ^ f.fracBits
    if ex = 0 then .fin neg fr (1 - f.bias - f.fracBits)
    else .fin neg (2 ^ f.fracBits + fr) ((ex : Int) - f.bias - f.fracBits)

/-- Whether an encoding is a subnormal. -/
def FFmt.isSubnormal (f : FFmt) (b : Nat) : Bool :=
  let mag := b % 2 ^ (f.width - 1)
  decide (0 < mag ∧ mag < 2 ^ f.fracBits)

/-- Reading an operand: the value of an encoding after input flush (R48). -/
def FFmt.read (f : FFmt) (fl : BitVec 6) (b : Nat) : FVal :=
  if flushIn fl f && f.isSubnormal b then .zero (decide (b / 2 ^ (f.width - 1) % 2 = 1)) else f.decode b

/-! ### Rounding (R42 to R46) -/

/-- The sampled numeric state of an operation (R49). -/
structure NumMode where
  rmode : BitVec 5
  flush : BitVec 6
  nbl : BitVec 2
  deriving DecidableEq, Repr

def NumMode.rm (n : NumMode) : Nat := n.rmode.toNat % 8
def NumMode.e4sat (n : NumMode) : Bool := n.rmode.getLsbD 3
def NumMode.e5sat (n : NumMode) : Bool := n.rmode.getLsbD 4

/-- The same state with RM = RNE (R50). -/
def NumMode.rne (n : NumMode) : NumMode := { n with rmode := n.rmode &&& 0x18#5 }

/-- R42: rounding m / 2^k, of a sign, to a natural number, and whether it was inexact. -/
def roundShift (rm : Nat) (neg : Bool) (m k : Nat) : Nat × Bool :=
  let q := m / 2 ^ k
  let r := m % 2 ^ k
  let inexact := decide (r ≠ 0)
  let up := match rm with
    | 0 => decide (2 * r > 2 ^ k ∨ (2 * r = 2 ^ k ∧ q % 2 = 1 ∧ r ≠ 0))
    | 1 => false
    | 2 => inexact && neg
    | 3 => inexact && !neg
    | _ => inexact && decide (q % 2 = 0)
  (if up then q + 1 else q, inexact)

/-- Rounding of m × 2^e to an integer multiple of 2^t, in units of 2^t. -/
def roundTo (rm : Nat) (neg : Bool) (m : Nat) (e t : Int) : Nat × Bool :=
  if e ≥ t then (m * 2 ^ (e - t).toNat, false) else roundShift rm neg m (t - e).toNat

/-- The sign bit of a format. -/
def FFmt.signBit (f : FFmt) (neg : Bool) : Nat := if neg then 2 ^ (f.width - 1) else 0

/-- The encoding of "∞" of a sign (R43). -/
def FFmt.infinity (f : FFmt) (n : NumMode) (neg : Bool) : Nat :=
  match f with
  | .e4m3 => if n.e4sat then f.signBit neg + f.maxMag else f.nanBits
  | .e5m2 => f.signBit neg + (if n.e5sat then f.maxMag else f.infBits)
  | _ => f.signBit neg + f.infBits

/-- R43: the result of an overflow. -/
def FFmt.overflow (f : FFmt) (n : NumMode) (neg : Bool) : Nat :=
  let toInf := match n.rm with
    | 0 => true | 2 => neg | 3 => !neg | _ => false
  if toInf then f.infinity n neg else f.signBit neg + f.maxMag

/-- R44 for a finite value: rounding with subnormals, result flush and overflow. -/
def FFmt.roundFin (f : FFmt) (n : NumMode) (neg : Bool) (m : Nat) (e : Int) : Nat × Flags :=
  if m = 0 then (f.signBit neg, 0)
  else
    let ex : Int := (Nat.log2 m : Int) + e
    let emin : Int := 1 - (f.bias : Int)
    let tiny := decide (ex < emin)
    if tiny && flushRes n.flush f then (f.signBit neg, fUF ||| fNX)
    else
      let eq := max ex emin
      let (q, inexact) := roundTo n.rm neg m e (eq - f.fracBits)
      let mag := (eq - emin).toNat * 2 ^ f.fracBits + q
      if mag > f.maxMag then (f.overflow n neg, fOF ||| fNX)
      else (f.signBit neg + mag, flagIf inexact fNX ||| flagIf (tiny && inexact) fUF)

/-- R44: conversion of a value to a float format. -/
def FFmt.encode (f : FFmt) (n : NumMode) (v : FVal) : Nat × Flags :=
  match v with
  | .nan sig => (f.nanBits, flagIf sig fINV)
  | .inf neg =>
    (f.infinity n neg,
      match f with
      | .e4m3 => if n.e4sat then fOF ||| fNX else fINV
      | .e5m2 => if n.e5sat then fOF ||| fNX else 0
      | _ => 0)
  | .fin neg m e => f.roundFin n neg m e

/-- The smallest and largest value of an integer format (R37). -/
def intMin (w : Nat) (signed : Bool) : Int := if signed then -(2 ^ (w - 1) : Nat) else 0
def intMax (w : Nat) (signed : Bool) : Int := if signed then (2 ^ (w - 1) : Nat) - 1 else (2 ^ w : Nat) - 1

/-- Clamps an integer to a format, with whether it was outside. -/
def clampInt (w : Nat) (signed : Bool) (i : Int) : Int × Bool :=
  if i > intMax w signed then (intMax w signed, true)
  else if i < intMin w signed then (intMin w signed, true) else (i, false)

/-- The low `w` bits of an integer. -/
def wrapInt (w : Nat) (i : Int) : Nat := (i % (2 ^ w : Nat)).toNat

/-- The value of `w` bits as an integer. -/
def readInt (w : Nat) (signed : Bool) (b : Nat) : Int :=
  let u := b % 2 ^ w
  if signed ∧ u ≥ 2 ^ (w - 1) then (u : Int) - (2 ^ w : Nat) else u

/-- R42: a value rounded to an integer, signed, and whether it was inexact. -/
def roundInt (rm : Nat) (neg : Bool) (m : Nat) (e : Int) : Int × Bool :=
  let (q, x) := roundTo rm neg m e 0
  (if neg then -(q : Int) else q, x)

/-- R45: conversion of a value to an integer format. -/
def toIntFmt (w : Nat) (signed : Bool) (n : NumMode) (v : FVal) : Nat × Flags :=
  match v with
  | .nan _ => (0, fINV)
  | .inf neg => (wrapInt w (if neg then intMin w signed else intMax w signed), fINV)
  | .fin neg m e =>
    let (i, x) := roundInt n.rm neg m e
    let (c, out) := clampInt w signed i
    (wrapInt w c, if out then fINV else flagIf x fNX)

/-! ### Exact arithmetic -/

/-- The signed significand of a finite value at exponent `t ≤ e`. -/
def alignTo (neg : Bool) (m : Nat) (e t : Int) : Int :=
  let k : Int := (m * 2 ^ (e - t).toNat : Nat)
  if neg then -k else k

/-- A finite value from a signed significand; a zero takes the sign `z`. -/
def finOfInt (z : Bool) (i : Int) (e : Int) : FVal :=
  if i = 0 then .fin z 0 0 else .fin (decide (i < 0)) i.natAbs e

/-- Whether a value is a signalling NaN (R31). -/
def FVal.isSig : FVal → Bool
  | .nan s => s | _ => false

def FVal.isNan : FVal → Bool
  | .nan _ => true | _ => false

def FVal.neg : FVal → FVal
  | .nan s => .nan s | .inf s => .inf (!s) | .fin s m e => .fin (!s) m e

/-- The exact sum with the zero sign of R458 under rounding mode `rm`. -/
def fAdd (rm : Nat) (a b : FVal) : FVal × Flags :=
  match a, b with
  | .nan s, .nan t => (.nan false, flagIf (s || t) fINV)
  | .nan s, _ => (.nan false, flagIf s fINV)
  | _, .nan t => (.nan false, flagIf t fINV)
  | .inf s, .inf t => if s = t then (.inf s, 0) else (.nan false, fINV)
  | .inf s, _ => (.inf s, 0)
  | _, .inf t => (.inf t, 0)
  | .fin s m e, .fin t n f =>
    if m = 0 ∧ n = 0 then (.zero (if s = t then s else decide (rm = 2)), 0)
    else if m = 0 then (.fin t n f, 0)
    else if n = 0 then (.fin s m e, 0)
    else
      let g := min e f
      (finOfInt (decide (rm = 2)) (alignTo s m e g + alignTo t n f g) g, 0)

/-- The exact product. -/
def fMul (a b : FVal) : FVal × Flags :=
  match a, b with
  | .nan s, .nan t => (.nan false, flagIf (s || t) fINV)
  | .nan s, _ => (.nan false, flagIf s fINV)
  | _, .nan t => (.nan false, flagIf t fINV)
  | .inf s, .inf t => (.inf (s != t), 0)
  | .inf s, .fin t n _ => if n = 0 then (.nan false, fINV) else (.inf (s != t), 0)
  | .fin s m _, .inf t => if m = 0 then (.nan false, fINV) else (.inf (s != t), 0)
  | .fin s m e, .fin t n f => (.fin (s != t) (m * n) (e + f), 0)

/-- The exact value of a × b + c, formed before its one rounding (R458). -/
def fFma (rm : Nat) (a b c : FVal) : FVal × Flags :=
  let (p, f) := fMul a b
  let (s, g) := fAdd rm p c
  (s, f ||| g)

/-- The comparison of two values that are no NaN. -/
def fCmp (a b : FVal) : Ordering :=
  match a, b with
  | .inf s, .inf t => if s = t then .eq else if s then .lt else .gt
  | .inf s, _ => if s then .lt else .gt
  | _, .inf t => if t then .gt else .lt
  | .fin s m e, .fin t n f =>
    let g := min e f
    compare (alignTo s m e g) (alignTo t n f g)
  | _, _ => .eq

/-- A quotient of finite values with n ≠ 0, exact or with its last bit standing for the digits beyond (at least 80 bits kept). -/
def fQuot (s : Bool) (m : Nat) (e : Int) (n : Nat) (f : Int) : FVal :=
  let k := Nat.log2 n + 80
  let q := m * 2 ^ k / n
  if m * 2 ^ k % n = 0 then .fin s q (e - f - k) else .fin s (2 * q + 1) (e - f - k - 1)

/-- A square root of a finite positive value, exact or with its last bit standing for the digits beyond. -/
def fRoot (m : Nat) (e : Int) : FVal :=
  let odd := decide (e % 2 ≠ 0)
  let x := (if odd then 2 * m else m) * 2 ^ 200
  let y := ((if odd then e - 1 else e) - 200) / 2
  let r := Nat.sqrt x
  if r * r = x then .fin false r y else .fin false (2 * r + 1) (y - 1)

/-! ### Block sums (R51 to R55) -/

/-- floor(log2 |v|) of a non-zero finite value. -/
def fExp (m : Nat) (e : Int) : Int := (Nat.log2 m : Int) + e

/-- The largest exponent of the non-zero terms. -/
def maxExp : List FVal → Option Int
  | [] => none
  | .fin _ m e :: r =>
    if m = 0 then maxExp r else
    match maxExp r with
    | none => some (fExp m e)
    | some x => some (max x (fExp m e))
  | _ :: r => maxExp r

/-- The sum of the terms, each truncated toward zero to a multiple of 2^u. -/
def truncSum (u : Int) : List FVal → Int
  | [] => 0
  | .fin s m e :: r =>
    let q : Nat := if e ≥ u then m * 2 ^ (e - u).toNat else m / 2 ^ (u - e).toNat
    (if s then -(q : Int) else q) + truncSum u r
  | _ :: r => truncSum u r

/-- R51, with W the window width. -/
def blockSum (w : Nat) (p : List FVal) : FVal × Flags :=
  if p.any FVal.isNan then (.nan false, 0)
  else
    let pos := p.any (· == .inf false)
    let ngt := p.any (· == .inf true)
    if pos && ngt then (.nan false, fINV)
    else if pos then (.inf false, 0)
    else if ngt then (.inf true, 0)
    else match maxExp p with
      | none => (.zero (p.all fun v => match v with | .fin s _ _ => s | _ => false), 0)
      | some x =>
        let u := x - w + 1
        (finOfInt false (truncSum u p) u, 0)

/-- W of R51 by the NBL level (R57). -/
def sumWindow (nbl : BitVec 2) : Nat := if nbl = 1#2 then 30 else 48

/-- An exact product of a block sum, with INV for 0 × ∞ and signalling operands (R51, R52). -/
def fProds : List (FVal × FVal) → List FVal × Flags
  | [] => ([], 0)
  | (a, b) :: r =>
    let (p, f) := fMul a b
    let (ps, g) := fProds r
    (p :: ps, f ||| g)

/-- R54, FP32 accumulator: RNE(acc + S, f32), with flush. -/
def accumF32 (n : NumMode) (acc : Nat) (s : FVal) : Nat × Flags :=
  let (v, f) := fAdd 0 (FFmt.f32.read n.flush acc) s
  let (b, g) := FFmt.f32.encode n.rne v
  (b, f ||| g)

/-- R54, INT32 accumulator: saturated, OF. -/
def accumI32 (acc : Nat) (s : Int) : Nat × Flags :=
  let (c, out) := clampInt 32 true (readInt 32 true acc + s)
  (wrapInt 32 c, flagIf out fOF)

/-! ### MXINT (R34, R35, R46) -/

/-- The implied exponent of an MXINT width (R35). -/
def mxImplied (w : Nat) : Nat := w - 2

/-- The value of an MXINT element (R35), with the 8-bit class's input flush. -/
def mxDecode (fl : BitVec 6) (w : Nat) (scale q : Nat) : FVal :=
  if scale = 0xFF then .nan false
  else if scale = 0 ∧ fl.getLsbD 4 then .zero false
  else
    let i := readInt w true q
    .fin (decide (i < 0)) i.natAbs ((scale : Int) - 127 - mxImplied w)

/-- The largest magnitude of finite values, as a value. -/
def maxAbs : List FVal → FVal
  | [] => .zero false
  | .fin _ m e :: r =>
    let b := maxAbs r
    if fCmp (.fin false m e) b = .gt then .fin false m e else b
  | _ :: r => maxAbs r

/-- R46: encoding a block to MXINT of width `w`; answers the scale, the elements and the flags. -/
def encodeMX (n : NumMode) (w : Nat) (xs : List FVal) : Nat × List Nat × Flags :=
  if xs.any fun v => match v with | .fin _ _ _ => false | _ => true then
    (0xFF, xs.map fun _ => 0,
      flagIf (xs.any fun v => match v with | .inf _ => true | .nan s => s | _ => false) fINV)
  else match maxAbs xs with
    | .fin _ m e =>
      if m = 0 then (0, xs.map fun _ => 0, 0)
      else if fExp m e < -127 ∧ n.flush.getLsbD 5 then (0, xs.map fun _ => 0, fUF ||| fNX)
      else
        let ex := max (fExp m e) (-127)
        let u := ex - mxImplied w
        let qs := xs.map fun v => match v with
          | .fin s m e =>
            let (q, x) := roundTo n.rm s m e u
            let t : Int := if s then -(q : Int) else q
            let (c, out) := clampInt w true t
            (wrapInt w c, x || out)
          | _ => (0, false)
        ((ex + 127).toNat, qs.map (·.1), flagIf (qs.any (·.2)) fNX)
    | _ => (0, xs.map fun _ => 0, 0)

end Sys2Proof.Machine
end

