-- ==== Sys2Proof/Machine/Ops.lean ====
section
/-!
DEFINITION. The shared operations of every meaning: how a word runs and ends, taking an exception and the stop of a
context (R395 to R404), the saving and the return of a context (R399 to R401), the error log, interrupts and arm queues,
releases and acquires (R315, R316), the scope checker (R327 to R329), semaphores and timelines (R24, R25).
-/
namespace Sys2Proof.Machine
open Sys2Proof

/-! ### Running a word -/

/-- Why a word does not complete: a trap, a translation fault of its unit, or a wait (R395, R393, R15). -/
inductive Stop where
  | trap (c : Cause) (code faddr auxf elog : Nat)
  | halt (h : Halted)
  | wait (w : Wait)
  deriving DecidableEq, Repr

/-- A part of a meaning: it may stop, and it changes the state. -/
abbrev Op (α : Type) := ExceptT Stop (StateM State) α

/-- Runs a part on a state. -/
def runOp {α : Type} (o : Op α) (s : State) : Except Stop α × State := o.run.run s

def getS : Op State := get
def upd (f : State → State) : Op Unit := modify f
def trapWith {α : Type} (c : Cause) : Op α := throw (.trap c 0 0 0 0)
def trapAt {α : Type} (c : Cause) (faddr : Nat) : Op α := throw (.trap c 0 faddr 0 0)
def waitFor {α : Type} (w : Wait) : Op α := throw (.wait w)

/-- R397: an access by a flat address, or to a tile, names `a` in FADDR of whatever stop it takes. (log 21: DEDUCED) -/
def atFaddr {α : Type} (a : Nat) (o : Op α) : Op α :=
  tryCatch o fun x => match x with
    | .trap c code _ auxf elog => throw (.trap c code a auxf elog)
    | x => throw x

/-- What an operation answers; one that stops leaves no trace and answers nothing. -/
def attempt {α : Type} (o : Op α) : Op (Option α) := do
  let s ← getS
  match runOp o s with
  | (.ok x, t) => do
    upd fun _ => t
    pure (some x)
  | (.error _, _) => pure none

/-- A precise trap when a check fails. -/
def failIf (b : Bool) (c : Cause) : Op Unit := if b then trapWith c else pure ()

/-- Applies an operation of a list, in order. -/
def opEach {α : Type} (f : α → Op Unit) : List α → Op Unit
  | [] => pure ()
  | a :: r => do f a; opEach f r

/-- The results of an operation over a list, in order. -/
def opMap {α β : Type} (f : α → Op β) : List α → Op (List β)
  | [] => pure []
  | a :: r => do
    let b ← f a
    let l ← opMap f r
    pure (b :: l)

/-- The state `t` at the end of a step that began in `s`: the writes of the step have reached memory and buffers (log 8: DESIGN CHOICE). -/
def settle (s t : State) : State :=
  { t with mem := commit s.mem t.wbuf, wbuf := [], buf := commit s.buf t.bbuf, bbuf := [] }

/-- Ends a step: its writes take place, or the step stops with a fault (log 8: DESIGN CHOICE, log 9: DESIGN CHOICE). -/
def run (f : State → State) (s : State) : Host.Outcome State Fault Refusal :=
  match (f s).stuck with
  | some x => .fault x
  | none => .next (settle s (f s))

/-! ### The error log (R398, R449) -/

/-- The WHO field of a log or queue entry. -/
def whoOf (core slot : Nat) : Nat := core % 512 + slot * 512

/-- Appends an entry to a die's error log; answers its sequence number, 0 when it is dropped. (log 21: DEDUCED) -/
def errorLog (die kind unit who linst line : Nat) (s : State) : Nat × State :=
  let d := s.die die
  let k := d.elBase.toNat % 16
  let base := d.elBase.toNat / 4096 * 4096
  let next := (d.elHead + 1) % 2 ^ k
  if base = 0 ∨ k < 6 ∨ 15 < k ∨ next = d.elTail then (0, countDie die 3 1 s)
  else
    let s := physWrite (base + 32 * d.elHead) 32
      (d.elSeq + line * 2 ^ 64 + kind * 2 ^ 128 + unit * 2 ^ 136 + who * 2 ^ 144 + linst * 2 ^ 160) s
    (d.elSeq, s.modDie die fun d => { d with elHead := next, elSeq := d.elSeq + 1 })

/-- A stop with MEM_UE or a parity cause: it writes a log entry and names it in ELOG (R398). -/
def trapLogged {α : Type} (ck : Nat) (c : Cause) (kind unit line auxf : Nat) : Op α := do
  let s ← getS
  let (q, s') := errorLog (dieOf ck) kind unit (whoOf (coreOf ck) (ck % 4)) (s.ctx ck).linst.toNat line s
  upd fun _ => s'
  throw (.trap c 0 0 auxf q)

/-- Stops with MEM_UE when a word that was read is poisoned (R448). -/
def memUeIf (ck unit key : Nat) (p : Bool) : Op Unit :=
  if p then trapLogged ck .memUe 0 unit (if homeKind key = 0 then key / 128 * 128 else 0) 0 else pure ()

/-! ### Interrupts and the MC's registers (R366, R416 to R418) -/

/-- R416: an MSI-X message of vector `v` of function `f`, or its pending bit while the vector is masked. -/
def sendMsix (f v : Nat) (s : State) : State :=
  let e := vget {} (s.vf f).msix v
  if e.masked then s.modVf f fun x => { x with pba := x.pba ||| (1#4 <<< v) }
  else s.modPkg fun k => { k with out := k.out ++ [.msix f v e.addr e.data] }

/-- R416: the host writes an entry of the MSI-X table: a vector that is unmasked while pending sends its message. -/
def msixWrite (f v : Nat) (e : MsixEntry) (s : State) : State :=
  let t := s.modVf f fun x => { x with msix := vset x.msix v e }
  if !e.masked && (s.vf f).pba.getLsbD v && decide (v < 4) then
    sendMsix f v (t.modVf f fun x => { x with pba := x.pba &&& ~~~(1#4 <<< v) })
  else t

/-- Raises vector `v` of the virtual function that serves partition `p`. -/
def raiseIrq (p v linst : Nat) (s : State) : State :=
  let r := (s.part p).active
  let f := r.ctl.toNat % 128
  if f = 0 then s
  else if (s.vf f).resident then sendMsix f v s
  else
    let x := s.vf f
    let k := r.ilog.toNat % 32
    let next := (x.ilogHead.toNat + 1) % 2 ^ k
    if next = x.ilogTail.toNat % 2 ^ k then s.modVf f fun x => { x with ilogOvf := x.ilogOvf ||| (1#4 <<< v) }
    else
      let s := physWrite (r.ilog.toNat / 4096 * 4096 + 16 * x.ilogHead.toNat) 16
        (v + x.irqSeq.toNat * 2 ^ 32 + linst * 2 ^ 64) s
      s.modVf f fun x => { x with ilogHead := BitVec.ofNat 16 next, irqSeq := x.irqSeq + 1 }

/-- A partition's register set at a die's MC (R366). -/
def State.mcSet (s : State) (die p : Nat) : McSet := getAt {} p (s.die die).mc
def State.modMc (die p : Nat) (f : McSet → McSet) (s : State) : State :=
  s.modDie die fun d => { d with mc := setAt p (f (getAt {} p d.mc)) d.mc }

/-! ### Releases and acquires (R313 to R316) -/

/-- Whether a scope of at least `pkg` covers the home of a line (R313). -/
def covers (scope : Nat) (line : Nat) : Bool := decide (homeKind (line * 128) + 2 ≤ scope)

/-- R444: whether a release or an acquire at a scope has a line to clean whose home no port reaches. -/
def State.noRoute (s : State) (ck scope : Nat) (m : BitVec 16) : Bool :=
  decide (3 ≤ scope) && (s.die (dieOf ck)).l2.any fun l => decide ((l.cmask &&& m) ≠ 0) && covers scope l.line && s.waitsRoute l

/-- A word that must clean lines waits for their routes, halted as on a translation fault (R444). -/
def needRoute (ck scope : Nat) (m : BitVec 16) : Op Unit := do
  let s ← getS
  if s.noRoute ck scope m then
    throw (.halt { tensor := 0, access := 2, tile := 0, why := 4, posted := false })

/-- R315: the cache action of a release at a scope for a class set. -/
def release (ck scope : Nat) (m : BitVec 16) (s : State) : State :=
  if scope < 2 then s
  else l2Clean (dieOf ck) (fun l => decide ((l.cmask &&& m) ≠ 0) && covers scope l.line) s

/-- R316: the cache action of an acquire at a scope for a class set. -/
def acquire (ck scope : Nat) (m : BitVec 16) (s : State) : State :=
  if scope = 0 then s
  else
    let s := l1Drop (coreOf ck) (fun l => m.getLsbD l.cls) s
    if scope < 2 then s
    else l2Drop (dieOf ck) (fun l => decide ((l.cmask &&& m) ≠ 0) && covers scope l.line) s

def allClasses : BitVec 16 := 0xFFFF#16

/-! ### The scope checker (R327 to R331) -/

/-- Whether a package is a member of this package's domain (R445). -/
def State.isMember (s : State) (p : Nat) : Bool :=
  decide (p < 256) && (vget 0 s.pkg.dmemb (p / 64)).getLsbD (p % 64)

/-- R328: whether location (q package, core) is within a scope of location p. -/
def State.within (s : State) (scope ppkg pcore qpkg qcore : Nat) : Bool :=
  match scope with
  | 0 => decide (ppkg = qpkg ∧ pcore = qcore)
  | 1 => decide (ppkg = qpkg ∧ pcore / 48 = qcore / 48)
  | 2 => decide (ppkg = qpkg)
  | 3 => decide (ppkg = qpkg) || (s.isMember ppkg && s.isMember qpkg)
  | _ => true

/-- R328: whether a sync access from (pkg, core) at a scope raises SCOPE against an entry. -/
def State.scopeBad (s : State) (pkg core scope : Nat) (e : ScopeEntry) : Bool :=
  !(s.within scope pkg core e.pkg e.core) || !(s.within e.scope e.pkg e.core pkg core)

/-- The scope directory that a line's home has: the package and its LLC slice, one to a DRAM channel (R314, R457). -/
def sliceOf (line : Nat) : Nat × Nat := (line * 128 / 2 ^ 56, channelOf (line * 128 % 2 ^ 56))

/-- A directory with the entry of a line put in. Of the entries that one directory holds (`same`), the line that synchronised
longest ago falls off when there are more than 65,536 (R327; log 3: DESIGN CHOICE): it is answered too. -/
def scopePut (same : Nat → Bool) (e : ScopeEntry) (l : List ScopeEntry) : List ScopeEntry × Option Nat :=
  let l := e :: l.filter fun x => x.line ≠ e.line
  let mine := l.filter fun x => same x.line
  match mine.getLast? with
  | some x => if mine.length ≤ 65536 then (l, none) else (l.filter fun y => y.line ≠ x.line, some x.line)
  | none => (l, none)

/-- A die L2's directory takes an entry; a line that falls off it is noted. -/
def scopePutDie (die : Nat) (e : ScopeEntry) : State → State :=
  State.modDie die fun d =>
    let x := scopePut (fun _ => true) e d.scopes
    { d with scopes := x.1, unchecked := x.2.toList ++ d.unchecked.filter (· ≠ e.line) }

/-- R331, R454: a sync access that meets no entry at the die's L2 because it fell off the directory is counted there. -/
def scopeMissDie (die line : Nat) (s : State) : State :=
  if (s.die die).unchecked.contains line then countDie die 0 1 s else s

/-- A line's LLC slice takes an entry. A line of this package whose entry had fallen off was checked against nothing: R331
counts it; a peer counts its own. -/
def scopePutHome (e : ScopeEntry) (s : State) : State :=
  let s := if s.pkg.unchecked.contains e.line then
      (if homeKind (e.line * 128) = 0 then countDie (channelOf (e.line * 128) / 48) 0 1 s else s).modPkg fun k =>
        { k with unchecked := k.unchecked.filter (· ≠ e.line) }
    else s
  let x := scopePut (fun l => decide (sliceOf l = sliceOf e.line)) e s.pkg.scopes
  s.modPkg fun k => { k with scopes := x.1, unchecked := x.2.toList ++ k.unchecked }

/-- The directories of the dies lose their entries for some lines; every die that holds one has registered the line (R329). -/
def scopeForget (p : Nat → Bool) (s : State) : State :=
  { s with dies := s.dies.map fun d => (d.1, { d.2 with
      scopes := d.2.scopes.filter fun e => !p e.line, unchecked := d.2.unchecked.filter fun l => !p l }) }

/-- The directories of the dies and of the slices hold nothing of a frame's lines (R438). -/
def frameForget (frame : Nat) (s : State) : State :=
  let mine (l : Nat) : Bool := decide (l / 512 = frame)
  (scopeForget mine s).modPkg fun k => { k with
    scopes := k.scopes.filter fun e => !mine e.line, unchecked := k.unchecked.filter fun l => !mine l }

/-- The LLC slice's part of R328 and R329 for a sync access at a scope: `reg` is the die that registers the line (none at
package scope or wider, whose access removes the dies' entries). Answers whether it traps. -/
def scopeHome (pkg core scope line : Nat) (reg : Option Nat) (s : State) : Bool × State :=
  let old := s.pkg.scopes.find? fun e => e.line = line
  let bad := match old with | none => false | some e => s.scopeBad pkg core scope e
  if bad then (true, s)
  else
    let dies := (old.map (·.dies)).getD []
    match reg with
    | some d => (false, scopePutHome ⟨line, pkg, core, scope, if dies.contains d then dies else d :: dies⟩ s)
    | none => (false, scopePutHome ⟨line, pkg, core, scope, []⟩ (scopeForget (fun l => decide (l = line)) s))

/-- R327 to R329: the check of a sync access of this package's core to a line at a scope. -/
def scopeCheck (core scope key : Nat) (s : State) : Bool × State :=
  let line := key / 128
  let me := s.pkg.num.toNat
  if homeKind key = 2 then (false, s)
  else if scope < 2 then
    match (s.die (core / 48)).scopes.find? fun e => e.line = line with
    | some e =>
      if s.scopeBad me core scope e then (true, s)
      else (false, scopePutDie (core / 48) ⟨line, me, core, scope, []⟩ s)
    | none =>
      let (bad, s) := scopeHome me core scope line (some (core / 48)) (scopeMissDie (core / 48) line s)
      if bad then (true, s)
      else (false, scopePutDie (core / 48) ⟨line, me, core, scope, []⟩ s)
  else scopeHome me core scope line none s

/-! ### Semaphores and timelines (R24, R25) -/

/-- R24: adds 1 to a semaphore; answers whether the signal was lost at 65,535. -/
def semSignal (ck n : Nat) (s : State) : Bool × State :=
  let c := vget 0 (s.ctx ck).r.sem n
  if c = 0xFFFF#16 then (true, s)
  else (false, s.modRegs ck fun r => { r with sem := vset r.sem n (c + 1) })

def State.semCount (s : State) (ck n : Nat) : Nat := (vget 0 (s.ctx ck).r.sem n).toNat

/-- The streams before `u` in the service order SQ, VE, ME, XL, XS that are blocked on a semaphore (R24). -/
def State.semAhead (s : State) (ck : Nat) (u : StreamId) (n : Nat) : Nat :=
  (([.sq, .ve, .me, .xl, .xs] : List StreamId).filter fun v =>
    decide (v.code < u.code) && decide (((s.ctx ck).stream v).wait = some (.sem n))).length

/-- R24: whether a stream's wait takes a count now: those served before it have theirs. -/
def State.semFree (s : State) (ck : Nat) (u : StreamId) (n : Nat) : Bool := decide (s.semAhead ck u n < s.semCount ck n)

/-- R24: takes 1 from a semaphore whose count is at least 1. -/
def semTake (ck n : Nat) (s : State) : State :=
  s.modRegs ck fun r => { r with sem := vset r.sem n (vget 0 r.sem n - 1) }

def State.timeline (s : State) (ck k : Nat) : Timeline := vget {} (s.ctx ck).r.tl k
def modTl (ck k : Nat) (f : Timeline → Timeline) : State → State :=
  State.modRegs ck fun r => { r with tl := vset r.tl k (f (vget {} r.tl k)) }

/-- R25: the next issue number of a timeline. -/
def tlIssue (ck k : Nat) (s : State) : Nat × State :=
  ((s.timeline ck k).issued.toNat + 1, modTl ck k (fun t => { t with issued := t.issued + 1 }) s)

/-- Moves a completion value over the numbers that completed ahead of it. -/
def tlAdvance : Nat → Timeline → Timeline
  | 0, t => t
  | n + 1, t =>
    if t.ahead.contains (t.done.toNat + 1) then
      tlAdvance n { t with done := t.done + 1, ahead := t.ahead.filter (· ≠ t.done.toNat + 1) }
    else t

/-- R25: a command's completion, with its error. -/
def tlComplete (ck k n : Nat) (err : Bool) : State → State :=
  modTl ck k fun t =>
    let t := { t with ahead := n :: t.ahead, err := t.err || err }
    tlAdvance t.ahead.length t

/-! ### Ends of words -/

/-- The address after the running unit (R104). -/
def Stream.next (st : Stream) : Nat := (st.pc + 4 * (st.pfxLen + 1)) % 2 ^ 32

/-- The address of the running word itself. -/
def Stream.at (st : Stream) : Nat := (st.pc + 4 * st.pfxLen) % 2 ^ 32

/-- Clears the prefix latch of a stream. -/
def Stream.noPfx (st : Stream) : Stream := { st with pfxImm := none, pfxOrd := none, pfxLen := 0 }

/-- A unit has completed: the stream goes on at `pc`, after the response of an issued SQ memory instruction (R107). -/
def endUnit (ck : Nat) (u : StreamId) (pc : Nat) (s : State) : State :=
  let w := if u = .sq ∧ (s.ctx ck).r.pend.isSome then some Wait.resp else none
  { s.modStream ck u fun st => { st.noPfx with pc := pc, wait := w } with lock := none }

/-- A word that blocks: it executes again from its first prefix, unless a response of its own is awaited (R107). -/
def blockOn (ck : Nat) (u : StreamId) (w : Wait) (s : State) : State :=
  { s.modStream ck u fun st => if w = .load then { st with wait := some w } else { st.noPfx with wait := some w }
    with lock := none }

/-! ### Stopping a context (R395, R403) -/

/-- Every stream halted at its word boundary: a blocked word or an abandoned load executes again (R107, R403). -/
def haltStream (st : Stream) : Stream := { st.noPfx with wait := none, yielded := false }

/-- A stream's own cause, the first to come, and the address that the fault frame records for it (R397, R404). -/
def noteCause (ck : Nat) (u : StreamId) (c : Cause) (at_ : Option Nat) : State → State :=
  State.modStream ck u fun st => if st.cause = 0 then { st with cause := c.code, recorded := at_ } else st

/-- R403: the hard stop of a context's streams; an issued memory instruction's effects are collected, and SQ stands at one whose response
is a trap (R107). -/
def collectPend (ck : Nat) (s : State) : State :=
  match (s.ctx ck).r.pend with
  | some (.resp wr sd v line mask scope) =>
    let s := s.modRegs ck fun r => { r with
      s := if wr ∧ sd ≠ 0 then vset r.s sd v else r.s
      pend := none }
    let s := match line with | some l => l1Drop (coreOf ck) (fun x => x.line = l) s | none => s
    match scope with | some sc => acquire ck sc mask s | none => s
  | some (.fault c _ pc) =>
    noteCause ck .sq c none ((s.modRegs ck fun r => { r with pend := none }).modStream ck .sq fun st => { st with pc := pc })
  | _ => s.modRegs ck fun r => { r with pend := none }

/-- Applies an ME step's drained writes: its bytes, then its flags (R59, R283). -/
def applyDrain (ck : Nat) (d : MeDrain) (s : State) : State :=
  (s.bufBytes d.cells).modRegs ck fun r => { r with flags := r.flags ||| d.flags }

/-- Every started ME step runs to its end (R403). -/
def flushDrains (ck : Nat) (s : State) : State :=
  let s := (s.ctx ck).r.me.drains.foldl (fun s d => applyDrain ck d s) s
  s.modRegs ck fun r => { r with me := { r.me with drains := [] } }

/-- R107: the halt of a context in which an issued instruction of SQ is found to trap: that trap, as though SQ had halted on it. -/
def haltOf (pend : Option Pend) (h : Halt) : Halt :=
  match pend with
  | some (.fault c faddr _) => if h.kind = 2 ∨ h.kind = 3 then h else { kind := 2, cause := c.code, faddr := faddr }
  | _ => h

/-- R403: a context's engines halt. An ME step that ends in it with an enabled INV leaves its cause (R60, R404). -/
def hardStop (ck : Nat) (s : State) : State :=
  let inv := (s.ctx ck).r.me.drains.find? (·.inve)
  let s := flushDrains ck (collectPend ck s)
  let s := s.modRegs ck fun r => { r with
    streams := r.streams.map haltStream
    ve := { r.ve with group := {} } }
  let s := match inv with
    | some d => noteCause ck .me .arithInv (some d.pc) s
    | none => s
  let s := s.modCore (coreOf ck) fun c => { c with draining := if c.draining = some (ck % 4) then none else c.draining }
  { s with lock := match s.lock with
      | some a => if a.core * 4 + a.slot = ck then none else some a
      | none => none }

/-- R395, R397: taking an exception. The slot enters HALTING with the cause recorded, for stream `u` when a stream or one of
its commands raised it, at its address as it stands, and every other engine halts. A context that is halting already keeps
its first fault, and a kill stays a kill (R404). -/
def stopContext (ck : Nat) (u : Option StreamId) (c : Cause) (code faddr auxf elog : Nat) (restart : Bool) (s : State) :
    State :=
  let h : Halt := ⟨2, c.code, restart, code, faddr, auxf, elog⟩
  let s := match u with
    | some u => noteCause ck u c none s
    | none => s
  let s := hardStop ck s
  s.modCtx ck fun x => { x with
    st := .halting
    preempt := false
    halt := match x.halt with
      | some y => if y.kind = 2 ∨ y.kind = 3 then some y else some h
      | none => some h }

/-- The trap of a stream's word. -/
def takeTrap (ck : Nat) (u : StreamId) (c : Cause) (code faddr auxf elog : Nat) (restart : Bool) (s : State) : State :=
  stopContext ck (some u) c code faddr auxf elog restart s

/-- A word of stream `u` is halted on a translation. -/
def Ctx.putHalt (u : StreamId) (h : Halted) (c : Ctx) : Ctx :=
  match u with
  | .xl => { c with xlHalt := some h }
  | .xs => { c with xsHalt := some h }
  | _ => { c with sqHalt := some h }

/-- How a stopped word of stream `u` leaves the machine. -/
def stopWord (ck : Nat) (u : StreamId) (x : Stop) (s : State) : State :=
  match x with
  | .trap c code faddr auxf elog => takeTrap ck u c code faddr auxf elog true s
  | .wait w => blockOn ck u w s
  | .halt h => (blockOn ck u .page s).modCtx ck (Ctx.putHalt u h)

/-- Runs a word of stream `u` that answers its next address; prefixes it does not take trap with ILL_PFX (R105). `imm` says
whether it has an extensible field; `ord` which orders it takes (0 none, 1 class only, 2 full for a read, 3 full for a
write). -/
def Stream.unfit (st : Stream) (imm : Bool) (ord : Nat) : Bool :=
  (st.pfxImm.isSome && !imm) ||
  match st.pfxOrd with
  | none => false
  | some (_, o, _) => decide (ord = 0) || (decide (ord = 1) && decide (o ≠ 0)) ||
      (decide (o = 1) && decide (ord ≠ 2)) || (decide (o = 2) && decide (ord ≠ 3)) || decide (o = 3)

/-- See `Stream.unfit`: the running unit of stream `u`. -/
def unitStep (u : StreamId) (imm : Bool) (ord : Nat) (o : Op Nat) (s : State) : State :=
  if (s.c.stream u).unfit imm ord then takeTrap s.ck u .illPfx 0 0 0 0 true s
  else match runOp o s with
    | (.ok pc, t) => endUnit s.ck u pc t
    | (.error x, t) => stopWord s.ck u x t

/-- A unit that goes on at the next address. -/
def unitNext (u : StreamId) (imm : Bool) (ord : Nat) (o : Op Unit) (s : State) : State :=
  unitStep u imm ord (do o; pure (s.c.stream u).next) s

/-- A trap taken after its word (SW_TRAP, SEM_OVERFLOW): the stream resumes at the next address. -/
def trapAfter (ck : Nat) (u : StreamId) (c : Cause) (code : Nat) (s : State) : State :=
  takeTrap ck u c code 0 0 0 true s

/-- R60, R231: the ARITH_INV of the word or step at `at_`, which has completed: the fault frame records that address, and the
stream resumes where it stands. -/
def trapInv (ck : Nat) (u : StreamId) (at_ : Nat) (s : State) : State :=
  takeTrap ck u .arithInv 0 0 0 0 true (noteCause ck u .arithInv (some at_) s)

/-! ### Loops (R137, R226, R268, R278, R280, R401) -/

/-- Whether a stream takes part in a level: its BOUND there is not 0 (R278). -/
def Regs.takesPart (r : Regs) (lev : Nat) (u : Nat) : Bool :=
  match r.levels[lev]? with
  | some l => decide (l.bound[u]?.getD 0 ≠ 0)
  | none => false

/-- The epilogue count of a stream at a level. -/
def Regs.epi (r : Regs) (lev u : Nat) : Nat := match r.levels[lev]? with
  | some l => l.epi[u]?.getD 0
  | none => 0

/-- The lanes of VSHAPE (R158). -/
def laneCount (v : BitVec 4) : Nat := if v.toNat < 3 then 64 else if v.toNat < 7 then 128 else 256

/-- R282, R401: the loop set-up at the resume of a cut level: ITER and ENTRY of every stream that takes part become I,
lc returns to its saved count, p8 follows R194 and p9 to p15 clear, and those streams start at their loop heads. -/
def loopSetUp (lev it : Nat) (saved : BitVec 32) (r : Regs) : Regs :=
  let one (u : Nat) (st : Stream) : Stream :=
    if r.takesPart lev u ∧ st.retired = false then
      { st with
        iter := vset st.iter lev (BitVec.ofNat 32 it)
        entry := vset st.entry lev (BitVec.ofNat 32 it)
        inside := vset st.inside lev true
        pc := if vget 4294967296 st.head lev < 4294967296 then vget 0 st.head lev else st.pc
        drained := false }
    else st
  let veIn := r.takesPart lev 1
  { r with
    streams := r.streams.mapFinIdx fun i st _ => one i st
    lc := vset r.lc lev saved
    ve := if veIn then { r.ve with p := (r.ve.p.mapFinIdx fun i p _ =>
      if i < 8 then p
      else if i = 8 + r.ve.rrb.toNat % 8 ∧ it < saved.toNat then BitVec.ofNat 256 (2 ^ laneCount r.ve.vshape - 1)
      else 0) } else r.ve
    cut := none }

/-- Whether every stream that takes part in a level has halted after its `lbr` (R280, R281); one that has retired inside the level has not. -/
def Regs.allDrained (r : Regs) (lev : Nat) : Bool :=
  (List.range 5).all fun u => match r.streams.toList[u]? with
    | some st => !(r.takesPart lev u) || st.drained
    | none => true

/-- The end of an `lbr` that fell through: the stream has left the level, and under a cut it halts there (R280); a resumed
cut whose streams have all halted sets its loop up again (R401). -/
def leaveLevel (ck : Nat) (u : StreamId) (lev : Nat) (s : State) : State :=
  let s := s.modStream ck u fun st => { st with inside := vset st.inside lev false }
  match (s.ctx ck).r.cut with
  | some cut =>
    if cut.lev = lev ∧ (s.ctx ck).r.takesPart lev u.code then
      let s := s.modStream ck u fun st => { st with drained := true }
      if (s.ctx ck).st = .run ∧ (s.ctx ck).r.allDrained lev then
        s.modRegs ck (loopSetUp lev cut.it cut.saved)
      else s
    else s
  | none => s

/-- R137: one `lbr`: whether it is taken. A taken `lbr` names the loop head. -/
def loopClose (ck : Nat) (u : StreamId) (lev target : Nat) (s : State) : Bool × State :=
  let r := (s.ctx ck).r
  let st := (s.ctx ck).stream u
  let it := (vget 0 st.iter lev).toNat + 1
  if it < (vget 0 r.lc lev).toNat + r.epi lev u.code then
    (true, s.modStream ck u fun st =>
      { st with iter := vset st.iter lev (BitVec.ofNat 32 it), head := vset st.head lev target })
  else
    (false, s.modStream ck u fun st => { st with iter := vset st.iter lev 0 })

/-- Whether the bound image defines a level. -/
def Regs.hasLevel (r : Regs) (lev : Nat) : Bool := decide (lev < r.levels.length)

/-! ### Frames (R397, R399, R400) -/

/-- The cells of a buffer range (from, length) as memory cells at `dst`, zeroes included for what memory holds there. -/
def moveCells (src : Memory) (ov : List Host.Cell) (a n dst : Nat) (old : Memory) : List Host.Cell :=
  let now := commit (src.filter fun c => a ≤ c.1 ∧ c.1 < a + n) (ov.filter fun c => a ≤ c.1 ∧ c.1 < a + n)
  (now.map fun c => (c.1 - a + dst, c.2)) ++ ((old.filter fun c => dst ≤ c.1 ∧ c.1 < dst + n).map fun c => (c.1, 0#8))

/-- Moves poison marks of a range of 64-bit words. -/
def movePoison (src : List Nat) (a n dst : Nat) (old : List Nat) : List Nat :=
  ((src.filter fun w => a ≤ 8 * w ∧ 8 * w < a + n).map fun w => (8 * w - a + dst) / 8)
    ++ old.filter fun w => !decide (dst ≤ 8 * w ∧ 8 * w < dst + n)

/-- Saves `n` buffer bytes at a memory key. -/
def saveBufAt (key n at_ : Nat) (s : State) : State :=
  { s with
    wbuf := moveCells s.buf s.bbuf key n at_ (commit s.mem s.wbuf) ++ s.wbuf
    poison := movePoison s.bpoison key n at_ s.poison }

/-- Saves `n` buffer bytes at a memory address (a frame section), frame by frame while a migration is active (R430). -/
def saveBuf (key n addr : Nat) (s : State) : State :=
  if addr + n ≤ dramEnd then
    (s.pieces addr n).foldl (fun s p => saveBufAt (key + p.1) p.2 (s.physKey (addr + p.1)) (s.await (addr + p.1))) s
  else s.stop (.noDram addr)

/-- Restores `n` buffer bytes from a memory key. -/
def loadBufAt (key n at_ : Nat) (s : State) : State :=
  { s with
    bbuf := moveCells s.mem s.wbuf at_ n key (commit s.buf s.bbuf) ++ s.bbuf
    bpoison := movePoison s.poison at_ n key s.bpoison }

/-- Restores `n` buffer bytes from a memory address. -/
def loadBuf (key n addr : Nat) (s : State) : State :=
  if addr + n ≤ dramEnd then
    (s.pieces addr n).foldl (fun s p => loadBufAt (key + p.1) p.2 (s.physKey (addr + p.1)) (s.await (addr + p.1))) s
  else s.stop (.noDram addr)

/-- Writes `n` zero bytes of a buffer (a zero fill). -/
def zeroBuf (key n : Nat) (s : State) : State :=
  { s with
    bbuf := moveCells [] [] key n key (commit s.buf s.bbuf) ++ s.bbuf
    bpoison := s.bpoison.filter fun w => !decide (key ≤ 8 * w ∧ 8 * w < key + n) }

/-- R300: a case slot's state record as 16 bytes. -/
def caseBits (c : CaseState) : Nat :=
  c.state.toNat + (if c.auto then 4 else 0) + c.rank.toNat * 2 ^ 44 + c.cbid.toNat * 2 ^ 48 + c.block.toNat * 2 ^ 64
    + c.version.toNat * 2 ^ 96

/-- The record of R300 read back from a frame. -/
def caseOfBits (v : Nat) : CaseState :=
  { state := BitVec.ofNat 2 v, auto := v / 4 % 2 = 1, rank := BitVec.ofNat 4 (v / 2 ^ 44),
    cbid := BitVec.ofNat 16 (v / 2 ^ 48), block := BitVec.ofNat 32 (v / 2 ^ 64), version := BitVec.ofNat 32 (v / 2 ^ 96) }

/-- R397: the fault frame as a number of 256 bytes. The PC of a stream that took ARITH_INV is that of its word or step (R60, R231);
every other one is where the stream resumes. -/
def faultFrame (c : Ctx) : Nat :=
  let h := c.halt.getD { kind := 0 }
  let hkind := if h.kind = 4 then 0 else if h.kind = 2 then 2 else 1
  let pcs := c.r.streams.toList.map fun st => st.recorded.getD (if st.retired then 0xFFFFFFFF else st.pc)
  let causes := c.r.streams.toList.map (·.cause)
  let fold (w : Nat) (l : List Nat) : Nat := l.foldr (fun x a => x % 2 ^ w + a * 2 ^ w) 0
  let cut := c.r.cut
  0x4D524643 + hkind * 2 ^ 32 + (if h.kind = 2 then h.cause else 0) * 2 ^ 40 + (if h.restart then 2 ^ 48 else 0)
    + fold 32 pcs * 2 ^ 64 + fold 8 causes * 2 ^ 224 + h.code * 2 ^ 288 + h.faddr * 2 ^ 320 + h.auxf * 2 ^ 384
    + c.r.me.rowdone * 2 ^ 416 + c.linst.toNat * 2 ^ 448
    + (match cut with | some x => x.lev | none => 0xFF) * 2 ^ 480
    + (match cut with | some x => x.it | none => 0) * 2 ^ 512
    + (match cut with | some x => x.saved.toNat | none => 0) * 2 ^ 544
    + c.ctxbuf.toNat * 2 ^ 576 + h.elog * 2 ^ 640

/-- Offsets of the frame's sections (R399). -/
def frStreams : Nat := 0x1000
def frFifo : Nat := 0x8000
def frGalley : Nat := 0x18000
def frPlaten : Nat := 0x28000
def frCase : Nat := 0x41800
def frCb : Nat := 0x50000
def frAb : Nat := 0x150000

/-- An index paired with each element. -/
def enum {α : Type} (l : List α) : List (Nat × α) := (List.range l.length).zip l

/-- The sections for the galley, the platens and the case slots of a context (`load` restores them). -/
def frameStores (load : Bool) (ck : Nat) (c : Ctx) (frame : Nat) (s : State) : State :=
  let core := coreOf ck
  let mv (key n off : Nat) (s : State) : State := if load then loadBuf key n (frame + off) s else saveBuf key n (frame + off) s
  let s := (enum c.quarters).foldl (fun s q => mv (bufKey core 5 (16384 * q.2)) 16384 (frGalley + 16384 * q.1) s) s
  let s := (enum c.platens).foldl (fun s p =>
    mv (scaleKey core p.2) 768 (frPlaten + 13056 * p.1 + 12288)
      (mv (platenKey core p.2) 12288 (frPlaten + 13056 * p.1) s)) s
  (enum c.caseSlots).foldl (fun s k =>
    let at_ := frCase + 2064 * k.1
    let s := mv (caseKey core k.2) 2048 at_ s
    if load then
      let (v, _, s) := physRead (frame + at_ + 2048) 16 s
      s.modCore core fun x => { x with cases := vset x.cases k.2 (caseOfBits v) }
    else physWrite (frame + at_ + 2048) 16 (caseBits (vget {} (s.core core).cases k.2)) s) s

/-- The live sets of a level and of every enclosing temporal level, as (space, offset, length) (R282). -/
def Regs.liveSets (r : Regs) (lev : Nat) : List (Nat × Nat × Nat) :=
  ((r.levels.take (lev + 1)).filter fun l => l.kind = 0).flatMap (·.live)

/-- The destination ranges in AB and CB and the barrier objects of incomplete commands, which a drain saves beside the live
sets (R405). -/
def Regs.replayRanges (r : Regs) : List (Nat × Nat × Nat) :=
  ((r.cxQ.toList.flatten).flatMap fun q =>
    (if q.dstAb then [(0, q.dst, q.len)] else []) ++ (match q.bar with | some b => [(0, b, 16)] | none => []))
  ++ (r.xlQ ++ r.xsQ).flatMap (·.dests) ++ r.asg.queue.flatMap (·.dests)

/-- R399: writes the frame of a halted context: header, private sections (log 12: DESIGN CHOICE), FIFO entries and buffers; after a drain
the live sets only, else the whole windows. Collectives are not saved: CLE keeps them (R400). -/
def writeFrame (ck : Nat) (s : State) : State :=
  let c := s.ctx ck
  let f := c.bind.frame
  let core := coreOf ck
  let s := physWrite f 256 (faultFrame c) s
  let id := s.saveNext
  let s := { s with
    saves := setAt id { c.r with coll := [] } s.saves
    saveNext := id + 1
    cle := if c.r.coll = [] then s.cle else ⟨ck, id, c.bind.part, c.bind.secure, c.r.coll⟩ :: s.cle }
  let s := physWrite (f + frStreams) 8 id s
  let s := (enum (vget [] c.r.ff 0)).foldl (fun s e => physWrite (f + frFifo + 256 * e.1) 256 e.2.toNat s) s
  let s := (enum (vget [] c.r.ff 1)).foldl (fun s e => physWrite (f + frFifo + 32768 + 256 * e.1) 256 e.2.toNat s) s
  let s := frameStores false ck c f s
  if (c.halt.map (·.kind)) = some 4 then
    match c.r.cut with
    | some cut => (c.r.liveSets cut.lev ++ c.r.replayRanges).foldl (fun s l =>
        saveBuf (winKey ck c l.1 l.2.1) l.2.2 (f + (if l.1 = 0 then frAb else frCb) + l.2.1) s) s
    | none => s
  else
    let s := saveBuf (bufKey core 1 (32768 * ctBase c.ctxbuf)) c.cbBytes (f + frCb) s
    saveBuf (bufKey core 0 (65536 * abBase c.ctxbuf)) c.abBytes (f + frAb) s

/-- Every unit or word halted on a translation fault translates again when it restarts (R401), and what a command had requested at its
progress point it requests again (R403): an expansion's index data arrives anew (R304), while what has arrived stays (R339). A yield of
the slot was the last one's (R156). -/
def rearm (r : Regs) : Regs :=
  let cmd (q : Cmd) : Cmd := { q with halted := none, data := none, since := if q.op = .expand then 0 else q.since }
  { r with
    xlQ := r.xlQ.map cmd
    xsQ := r.xsQ.map cmd
    cxQ := r.cxQ.map fun l => l.map fun q => { q with halted := none }
    streams := r.streams.map fun st => { st with cause := 0, recorded := none, yielded := false } }

/-- R401: the return of a saved context into a slot from its frame, for the context already loaded with its new bind
record: the sections saved, a drain's zero fill and loop set-up, the replay queue and the streams at their addresses. -/
def resumeContext (ck frame : Nat) (s : State) : State :=
  let c := s.ctx ck
  let core := coreOf ck
  let (hdr, _, s) := physRead frame 256 s
  let (id, _, s) := physRead (frame + frStreams) 8 s
  let kept := (s.cle.filter fun h => h.save = id).flatMap (·.coll)
  let r := { rearm (getAt {} id s.saves) with coll := kept }
  let s := { s with cle := s.cle.filter fun h => h.save ≠ id }
  let s := frameStores true ck c frame s
  let drain := hdr / 2 ^ 32 % 256 = 0
  let s := zeroBuf (bufKey core 1 (32768 * ctBase c.ctxbuf)) c.cbBytes s
  let s := zeroBuf (bufKey core 0 (65536 * abBase c.ctxbuf)) c.abBytes s
  let r' := match r.cut with
    | some cut => if drain ∨ r.allDrained cut.lev then loopSetUp cut.lev cut.it cut.saved r else r
    | none => r
  let s := if drain then
      (match r.cut with
       | some cut => (r.liveSets cut.lev ++ r.replayRanges).foldl (fun s l =>
          loadBuf (winKey ck c l.1 l.2.1) l.2.2 (frame + (if l.1 = 0 then frAb else frCb) + l.2.1) s) s
       | none => s)
    else
      let s := loadBuf (bufKey core 1 (32768 * ctBase c.ctxbuf)) c.cbBytes (frame + frCb) s
      loadBuf (bufKey core 0 (65536 * abBase c.ctxbuf)) c.abBytes (frame + frAb) s
  let s := { s with platenPar := s.platenPar.filter fun x => !(c.platens.any fun p => x = core * 8 + p) }
  let s := s.modCtx ck fun c => { c with r := r', st := if c.bind.gate then .gated else .run, sliceStart := s.cycle }
  s

end Sys2Proof.Machine
end

