-- ==== Sys2Proof/Machine/Flags.lean ====
section
/-!
DEFINITION. The FLAGS register (R58 to R60): sticky flags of the context, the INV trap enables of its streams, and the end
of an instruction that raised flags.
-/
namespace Sys2Proof.Machine
open Sys2Proof

/-- FLAGS as a register: INVE at [15:11], SRCH, NX, UF, OF, DZ, INV at [5:0] (R58). -/
def flagsReg (r : Regs) : BitVec 64 := BitVec.ofNat 64 (r.inve.toNat * 2 ^ 11 + r.flags.toNat)

/-- R59: ORs flags into the context's FLAGS. -/
def addFlags (ck : Nat) (f : Flags) : State → State :=
  State.modRegs ck fun r => { r with flags := r.flags ||| f }

/-- R58: a write of FLAGS, for a value whose reserved bits are 0. -/
def writeFlags (ck : Nat) (v : Nat) : State → State :=
  State.modRegs ck fun r => { r with flags := BitVec.ofNat 6 v, inve := BitVec.ofNat 5 (v / 2 ^ 11) }

/-- R58: whether a value has a bit outside the fields of FLAGS. -/
def flagsReserved (v : Nat) : Bool := decide (v / 2 ^ 16 ≠ 0) || decide (v / 2 ^ 6 % 2 ^ 5 ≠ 0)

/-- Whether the INV trap of a stream is enabled (R58). -/
def Regs.invTrap (r : Regs) (u : StreamId) : Bool := r.inve.getLsbD u.code

/-- The numeric state a stream samples at issue (R49). -/
def Stream.num (st : Stream) : NumMode := ⟨st.rmode, st.flush, st.nbl⟩

/-- R49: a value written to RMODE, FLUSH or NBL is refused with CR_VALUE when it sets a reserved code or bit. -/
def rmodeBad (v : Nat) : Bool := decide (v ≥ 32 ∨ v % 8 > 4)
def flushBad (v : Nat) : Bool := decide (v ≥ 64)
def nblBad (v : Nat) : Bool := decide (v ≥ 2)

end Sys2Proof.Machine
end

