-- ==== Sys2Proof/Machine/Translate.lean ====
section
/-!
DEFINITION. Tensor descriptors, placement of elements in tiles, tile tables and the translation of an access (R380 to
R389), flat addresses (R116, R384), and reads and writes of memory by a unit through the die L2.
-/
namespace Sys2Proof.Machine
open Sys2Proof

/-- Who makes an access: its die, the layout unit whose caches it uses (0 SQ, 1 XL, 2 XS, 3 CX; 4 none), its partition and
world, its context slot and its unit code (R390, R398); the command of XS whose end an uncorrectable error in a line that it reads marks
(R80, R258), if there is one. -/
structure Requester where
  ck : Nat
  ui : Nat
  unit : Nat
  part : Nat
  secure : Bool
  mark : Option Nat := none
  deriving DecidableEq, Repr

/-- The requester for a context's unit. -/
def State.requester (s : State) (ck ui unit : Nat) : Requester :=
  { ck := ck, ui := ui, unit := unit, part := (s.ctx ck).bind.part, secure := (s.ctx ck).bind.secure }

/-! ### Descriptors (R381, R382) -/

/-- Elements per tile of a LINEAR tensor (R383). -/
def Desc.perTile (d : Desc) : Nat := 2 ^ 19 / max d.width 1

/-- The tiles of the grid in a dimension (R383). -/
def Desc.grid (d : Desc) (m : Nat) : Nat := (d.dim m + 2 ^ d.shift m - 1) / 2 ^ d.shift m

/-- The tiles that the elements need (R383). -/
def Desc.elemTiles (d : Desc) : Nat :=
  if d.tiled then (List.range 5).foldl (fun a m => a * d.grid m) 1
  else (d.dims.foldl (· * ·) 1 + d.perTile - 1) / d.perTile

/-- The MX blocks of a tensor (R383). -/
def Desc.blocks (d : Desc) : Nat :=
  if d.tiled then d.elemTiles * 2 ^ d.tshSum / 32 else (d.dims.foldl (· * ·) 1 + 31) / 32

/-- R382, first rows: whether a descriptor breaks a rule that traps TX_DESC. `raw` is its 64 bytes. -/
def Desc.malformed (d : Desc) (raw : Nat) : Bool :=
  decide (d.acc / 8 % 2 = 0) || decide (d.acc / 16 ≠ 0) || decide (fieldOf raw 0x16 2 ≠ 0)
  || decide (fieldOf raw 0x2D 1 / 8 ≠ 0) || decide (fieldOf raw 0x2E 1 / 2 ≠ 0) || decide (fieldOf raw 0x38 8 ≠ 0)
  || decide (d.rank = 0 ∨ 5 < d.rank)
  || decide (d.dim 0 = 0 ∨ 2 ^ 44 < d.dim 0)
  || (List.range 5).any (fun m => decide (d.dim m = 0 ∨ (d.rank ≤ m ∧ d.dim m ≠ 1) ∨ 19 < d.shift m
      ∨ (d.rank ≤ m ∧ d.shift m ≠ 0)))
  || (!d.tiled && decide (d.tshSum ≠ 0))
  || decide (d.ttbase % 64 ≠ 0)
  || (!(isMx (bindCb d.bind)) && decide (d.scalet ≠ 0))
  || (d.tiled && decide (2 ^ 19 < 2 ^ d.tshSum * d.width))
  || (d.tiled && isMx (bindCb d.bind) && decide (d.tshSum < 5))
  || decide (d.ntiles < (if isMx (bindCb d.bind) then max d.elemTiles (d.scalet + (d.blocks + 65535) / 65536)
      else d.elemTiles))

/-- Puts an entry first in a cache of `n` entries (least recently used entries fall off). -/
def lruPut {α : Type} (n : Nat) (same : α → Bool) (e : α) (l : List α) : List α := (e :: l.filter fun x => !same x).take n

/-- Changes a layout unit of a core. -/
def modUnit (core ui : Nat) (f : LayoutUnit → LayoutUnit) : State → State :=
  State.modCore core fun c => { c with units := vset c.units ui (f (vget {} c.units ui)) }

/-- R444: a unit that must read at a frame beyond every route halts as on a translation fault. -/
def failBeyond (i t acc a : Nat) : Op Unit := do
  let s ← getS
  if s.beyond (a / 65536) then throw (.halt { tensor := i, access := acc, tile := t, why := 4, posted := false })

/-- R386: the 64 bytes of a descriptor, from the unit's cache or its line's LLC slice. -/
def readDesc (q : Requester) (i acc : Nat) : Op Nat := do
  let s ← getS
  let u := vget {} (s.core (coreOf q.ck)).units q.ui
  match u.descs.find? fun e => e.part = q.part ∧ e.desc = i with
  | some e =>
    upd (modUnit (coreOf q.ck) q.ui fun u => { u with descs := lruPut 64 (fun x => x.part = q.part ∧ x.desc = i) e u.descs })
    pure e.bits.toNat
  | none =>
    let a := (s.part q.part).active.ttab.toNat / 65536 * 65536 + 64 * i
    failBeyond i 0 acc a
    let (v, p, s') := physRead a 64 s
    upd fun _ => s'
    memUeIf q.ck q.unit a p
    if q.ui < 4 then
      upd (modUnit (coreOf q.ck) q.ui fun u =>
        { u with descs := lruPut 64 (fun x => x.part = q.part ∧ x.desc = i) ⟨q.part, i, BitVec.ofNat 512 v⟩ u.descs })
    pure v

/-- R382 up to the permission row, for a handle and an access (1 read, 2 write, 4 atomic). -/
def lookupDesc (q : Requester) (h acc : Nat) : Op Desc := do
  let s ← getS
  failIf (decide (h / 65536 ≠ 0) || decide ((s.part q.part).active.ttab.toNat % 65536 < h % 65536)) .txDesc
  let raw ← readDesc q (h % 65536) acc
  let d := descOf (h % 65536) raw
  failIf (d.malformed raw) .txDesc
  failIf (!q.secure && decide (d.acc / 4 % 2 = 1)) .txWorld
  failIf ((decide (acc % 2 = 1) && decide (d.acc % 2 = 0)) || (decide (acc / 2 ≠ 0) && decide (d.acc / 2 % 2 = 0))) .txPerm
  pure d

/-- R71, the rows on BIND itself. -/
def bindBad (b : Nat) : Bool :=
  decide (b / 2 ^ 30 % 4 ≠ 0) || decide (b / 2 ^ 16 % 512 ≠ 0)
  || (if bindCb b < 16 then decide (bindIxw b ≠ 0) || decide (bindVer b ≠ 0)
      else decide (bindIxw b = 0 ∨ 8 < bindIxw b))

/-! ### Placement (R383) -/

/-- A linear number from coordinates and extents, dimension 0 fastest. -/
def linearOf : List Nat → List Nat → Nat
  | k :: ks, n :: ns => k + n * linearOf ks ns
  | _, _ => 0

/-- R383: the in-order number of an element: n for LINEAR, t × 2^(sum) + e for TILED. -/
def Desc.number (d : Desc) (k : List Nat) : Nat :=
  if d.tiled then
    let t := linearOf ((enum k).map fun x => x.2 / 2 ^ d.shift x.1) ((List.range 5).map d.grid)
    let e := linearOf ((enum k).map fun x => x.2 % 2 ^ d.shift x.1) ((List.range 5).map fun m => 2 ^ d.shift m)
    t * 2 ^ d.tshSum + e
  else linearOf k d.dims

/-- R383: the tile and the bit of an element. -/
def Desc.place (d : Desc) (k : List Nat) : Nat × Nat :=
  let n := d.number k
  if d.tiled then (n / 2 ^ d.tshSum, n % 2 ^ d.tshSum * d.width) else (n / d.perTile, n % d.perTile * d.width)

/-! ### Tile entries (R385, R387) -/

/-- R386: the 16 bytes of a tile entry: a TTC hit, or one read at the line's LLC slice; only PRESENT entries are cached. -/
def readEntry (q : Requester) (d : Desc) (t acc : Nat) : Op Nat := do
  let s ← getS
  let u := vget {} (s.core (coreOf q.ck)).units q.ui
  let same (x : TtcEntry) : Bool := decide (x.part = q.part ∧ x.desc = d.index ∧ x.tile = t)
  match u.ttc.find? same with
  | some e =>
    upd (modUnit (coreOf q.ck) q.ui fun u => { u with ttc := lruPut 4096 same e u.ttc })
    pure e.entry.toNat
  | none =>
    let a := d.ttbase + 16 * t
    failBeyond d.index t acc a
    let (v, p, s') := physRead a 16 s
    upd fun _ => s'
    memUeIf q.ck q.unit a p
    if q.ui < 4 ∧ teState v = 0 then
      upd (modUnit (coreOf q.ck) q.ui fun u =>
        { u with ttc := lruPut 4096 same ⟨q.part, d.index, t, BitVec.ofNat 128 v⟩ u.ttc })
    pure v

/-- A translation fault of an access; `page` is that of a host tile. -/
def haltOn {α : Type} (d : Desc) (t acc why page : Nat) : Op α :=
  throw (.halt { tensor := d.index, access := acc, tile := t, why := why, posted := false, page := page })

/-- A stop of R387, with the descriptor index and the tile in FADDR (R397). -/
def stopAt {α : Type} (c : Cause) (d : Desc) (t : Nat) : Op α := trapAt c (d.index * 2 ^ 48 + t)

/-- R437: a redirect (package and frame) updates the entry that still names the old frame here as PEER and PRESENT, and drops
the unit's own TTC entry. -/
def redirectEntry (q : Requester) (d : Desc) (t from_ old pkg frame : Nat) (s : State) : State :=
  let at0 := d.ttbase + 16 * t
  let (e, _, s) := physRead at0 16 s
  let s := if teState e = 0 ∧ teLoc e = 1 ∧ tePkg e = from_ ∧ teFrame e = old then
      let keep := e - teLoc e * 2 ^ 11 - tePkg e * 2 ^ 64 - teFrame e * 2 ^ 80
      physWrite at0 16 (keep + frame * 2 ^ 80 + if pkg = s.pkg.num.toNat then 0 else 2 ^ 11 + pkg * 2 ^ 64) s
    else s
  modUnit (coreOf q.ck) q.ui
    (fun u => { u with ttc := u.ttc.filter fun x => !decide (x.part = q.part ∧ x.desc = d.index ∧ x.tile = t) }) s

/-- The key of an address at another package, over a fabric port (R443, R444), or at this one. -/
def fabricKey (q : Requester) (d : Desc) (t acc pkg a : Nat) : Op Nat := do
  let s ← getS
  if pkg = s.pkg.num.toNat then pure a
  else
    let ports := s.upPorts pkg
    match ports[a / 128 % max ports.length 1]? with
    | none => haltOn d t acc 4 0
    | some k =>
      if q.secure ∧ !s.pkg.world.portw.getLsbD k then stopAt .txWorld d t
      else pure (peerKey pkg a)

/-- R436: an access of this package at a frame of its own DRAM while a migration is active: it performs, waits in the home slice (`why` 5),
or is redirected. -/
def atSlice (q : Requester) (d : Desc) (t acc a : Nat) : Op Nat := do
  let s ← getS
  let m := s.frameState (a / 65536)
  match mapMst m with
  | 2 => haltOn d t acc 5 0
  | 3 =>
    upd fun s => countRedirect (mapPkg m) (mapFrame m)
      (redirectEntry q d t s.pkg.num.toNat (a / 65536) (mapPkg m) (mapFrame m) s)
    fabricKey q d t acc (mapPkg m) (mapFrame m * 65536 + a % 65536)
  | 4 =>
    upd (pullFrame (a / 65536))
    haltOn d t acc 5 0
  | _ => pure a

/-- R437, R438: an access at a peer's tile. A redirect that answers it, one for its unit and the frame there, moves the entry, drops the
unit's own TTC entry, and the access goes again to the new owner, where it performs. -/
def peerAccess (q : Requester) (d : Desc) (t acc pkg a : Nat) : Op Nat := do
  let s ← getS
  match s.redirects.find? fun r => r.ck = q.ck ∧ r.unit = q.unit ∧ r.source = pkg ∧ r.old = a / 65536 with
  | some r =>
    upd fun s => { redirectEntry q d t pkg (a / 65536) r.pkg r.frame s with redirects := s.redirects.filter fun x => x ≠ r }
    if r.pkg = s.pkg.num.toNat then atSlice q d t acc (r.frame * 65536 + a % 65536)
    else fabricKey q d t acc r.pkg (r.frame * 65536 + a % 65536)
  | none => fabricKey q d t acc pkg a

/-- R387: the memory key of byte `off` of tile `t`, for an access (1 read, 2 write, 4 atomic, or 0 for a line that is only dropped,
which needs no permission). -/
def translate (q : Requester) (d : Desc) (t off acc : Nat) : Op Nat := do
  let e ← readEntry q d t acc
  let s ← getS
  if teReserved e then stopAt .txEntry d t
  if teLoc e ≠ 2 ∧ dramEnd ≤ teFrame e * 65536 then stopAt .txEntry d t
  if (teSecure e || (decide (teLoc e = 0 ∨ teLoc e = 1 ∧ tePkg e = s.pkg.num.toNat) && s.secureFrame (teFrame e))) && !q.secure then stopAt .txWorld d t
  if teState e = 1 then haltOn d t acc 0 0
  if teState e = 2 ∨ teState e = 3 then
    let m := (s.part q.part).ma
    if m.target && decide (m.ppkg.toNat = tePkg e) then
      upd (startPull q.part d.index t (d.ttbase + 16 * t))
      haltOn d t acc 1 0
    else stopAt .txEntry d t
  if (decide (acc = 1) && !teR e) || (decide (acc = 2) && !teW e) || (decide (acc = 4) && !teA e) then stopAt .txPerm d t
  let a := teFrame e * 65536 + off
  if teState e = 0 ∧ teLoc e = 0 then atSlice q d t acc a
  else if teState e = 4 ∨ teLoc e = 1 then
    if !(s.isMember (tePkg e)) then stopAt .txEntry d t
    else if tePkg e = s.pkg.num.toNat then atSlice q d t acc a
    else peerAccess q d t acc (tePkg e) a
  else
    match s.ats.find? fun x => x.part = q.part ∧ x.page = a / 4096 with
    | some x =>
      if (decide (acc = 1 ∨ acc = 4) && decide (x.perms % 2 = 0)) || (decide (acc = 2 ∨ acc = 4) && decide (x.perms / 2 = 0)) then
        haltOn d t acc 3 (a / 4096)
      else pure (hostKey (x.hpa + a % 4096))
    | none => haltOn d t acc 2 (a / 4096)

/-! ### Flat addresses (R116, R384) -/

/-- R116: the flat address of a base and a displacement. -/
def flatAddr (base disp size : Nat) : Op Nat := do
  let ea := (base + disp) % 2 ^ 64
  if ea / 2 ^ 44 ≠ base / 2 ^ 44 then trapAt .flatCarry ea
  else if ea % size ≠ 0 then trapAt .misalign ea
  else pure ea

/-- R384: the descriptor of a flat access of `size` bytes. -/
def flatDesc (q : Requester) (ea size acc : Nat) : Op Desc := do
  failIf (decide (ea / 2 ^ 60 ≠ 0)) .txDesc
  let d ← lookupDesc q (ea / 2 ^ 44) acc
  failIf (bindBad d.bind) .cbDesc
  failIf (decide (d.rank ≠ 1) || d.tiled || !(decide (bindCb d.bind = 8) || decide (bindCb d.bind = 12))) .txDesc
  failIf (decide (d.dim 0 ≤ ea % 2 ^ 44 + size - 1)) .txBound
  pure d

/-- The key of a flat byte (R384, R387); a stop names the flat address (R397). -/
def flatKey (q : Requester) (ea size acc : Nat) : Op Nat :=
  atFaddr ea do
    let d ← flatDesc q ea size acc
    translate q d (ea % 2 ^ 44 / 65536) (ea % 65536) acc

/-! ### Command accesses, through the die L2 of the issuing core (R322) -/

/-- Whether every line of a run of bytes translates for an access; it changes caches only. -/
def tileProbe (q : Requester) (d : Desc) (t acc : Nat) : Nat → Nat → Nat → Op Unit
  | 0, _, _ => pure ()
  | fuel + 1, off, n => do
    if n = 0 then pure ()
    else
      let k := min n (128 - off % 128)
      let _ ← translate q d t off acc
      tileProbe q d t acc fuel (off + k) (n - k)

/-- The lines of a tensor's bytes from `b` on leave the die L2 of the requester, cleaned first (R314): its next reads find what is at
home. -/
def spanRefresh (q : Requester) (d : Desc) : Nat → Nat → Nat → Op Unit
  | 0, _, _ => pure ()
  | fuel + 1, b, n => do
    if n = 0 then pure ()
    else
      let k := min n (128 - b % 128)
      let key ← translate q d (b / 65536) (b % 65536) 1
      upd (l2Drop (dieOf q.ck) fun l => decide (l.line = key / 128 ∧ l.owner = q.part))
      spanRefresh q d fuel (b + k) (n - k)

/-- Poisons the 64-bit word of a key in the die L2 (R448). -/
def l2Poison (q : Requester) (key cls : Nat) (s : State) : State :=
  let (l, s) := s.l2Get (dieOf q.ck) q.part (key / 128) cls
  s.l2Put (dieOf q.ck) { l with
    poison := l.poison ||| (1#16 <<< (key % 128 / 8)), dirty := l.dirty ||| (3#32 <<< (key % 128 / 8 * 2)) }

end Sys2Proof.Machine
end

