-- ==== Sys2Proof/Machine/Operands.lean ====
section
/-!
DEFINITION. Operand forms: the registers of SQ, the immediates with their prefix (R101), the class, order and scope of an
access (R103, R309), the address forms of SQ, and the shared forms of the c and a registers.
-/
namespace Sys2Proof.Machine
open Sys2Proof

/-! ### SQ registers (R23, R106) -/

/-- s[n]; s0 reads 0. -/
def sGet (s : State) (n : Nat) : BitVec 64 := if n = 0 then 0 else vget 0 s.c.r.s n

/-- Writes s[n] of a context; a write to s0 is discarded. -/
def sPut (ck n : Nat) (v : BitVec 64) (s : State) : State :=
  if n = 0 then s else s.modRegs ck fun r => { r with s := vset r.s n v }

/-- Writes s[n] of the running context. -/
def sSet (n : Nat) (v : BitVec 64) (s : State) : State := sPut s.ck n v s

/-! ### Immediates (R101) -/

/-- An unsigned number of `n` bits read as two's complement. -/
def signedOf (n v : Nat) : Int := if v % 2 ^ n ≥ 2 ^ (n - 1) then (v % 2 ^ n : Nat) - (2 ^ n : Nat) else (v % 2 ^ n : Nat)

/-- R101: the immediate of an `n`-bit field under the stream's latched prefix. -/
def Stream.imm (st : Stream) (n f : Nat) (signed : Bool) : Int :=
  match st.pfxImm with
  | none => if signed then signedOf n f else (f % 2 ^ n : Nat)
  | some x =>
    let v := x * 2 ^ n + f % 2 ^ n
    if signed then signedOf (n + 20) v else v

/-- An SQ immediate as 64 bits. -/
def sqImm (s : State) (n f : Nat) (signed : Bool) : BitVec 64 := BitVec.ofInt 64 ((s.c.stream .sq).imm n f signed)

/-- An address plus a signed count of words, modulo 2^32 (R109, R139). -/
def wordTarget (pc n off : Nat) : Nat := (((pc : Int) + 4 * signedOf n off) % (2 ^ 32 : Nat)).toNat

/-! ### Class, order and scope (R103, R309) -/

/-- The class of an access of the stream's running unit. -/
def Stream.accCls (st : Stream) : Nat := match st.pfxOrd with
  | some (c, _, _) => c
  | none => st.cls.toNat

def Stream.accOrd (st : Stream) : Nat := match st.pfxOrd with
  | some (_, o, _) => o
  | none => 0

def Stream.accScope (st : Stream) : Nat := match st.pfxOrd with
  | some (_, _, sc) => sc
  | none => 0

/-! ### SQ widths (R117) -/

/-- The bytes of a TY code. -/
def tyBytes (ty : Nat) : Nat := 2 ^ (ty % 4)

/-- R117: the register value of a load. -/
def tyExtend (ty v : Nat) : BitVec 64 :=
  if ty < 4 then BitVec.ofInt 64 (signedOf (8 * tyBytes ty) v) else BitVec.ofNat 64 v

/-! ### c, h and a registers (R23) -/

/-- The transfer stream that runs: XS, or else XL. -/
def State.xu (s : State) : StreamId := if s.who.stream = .xs then .xs else .xl

def cGet (s : State) (n : Nat) : BitVec 32 := vget 0 (if s.xu = .xs then s.c.r.xsC else s.c.r.xlC) n
def hGet (s : State) (n : Nat) : BitVec 32 := vget 0 (if s.xu = .xs then s.c.r.xsH else s.c.r.xlH) n

def cSet (n : Nat) (v : BitVec 32) (s : State) : State :=
  if s.xu = .xs then s.modRegs s.ck fun r => { r with xsC := vset r.xsC n v }
  else s.modRegs s.ck fun r => { r with xlC := vset r.xlC n v }

def hSet (n : Nat) (v : BitVec 32) (s : State) : State :=
  if s.xu = .xs then s.modRegs s.ck fun r => { r with xsH := vset r.xsH n v }
  else s.modRegs s.ck fun r => { r with xlH := vset r.xlH n v }

/-! ### Integer operations that the scalar units share -/

/-- 1 when a comparison holds, else 0. -/
def bit {w : Nat} (b : Bool) : BitVec w := if b then 1 else 0

def bvClz {w : Nat} (x : BitVec w) : Nat := if x.toNat = 0 then w else w - 1 - Nat.log2 x.toNat

/-- The trailing zero bits of a number below 2^n. -/
def ctzNat : Nat → Nat → Nat
  | 0, _ => 0
  | n + 1, v => if v % 2 = 1 then 0 else 1 + ctzNat n (v / 2)

/-- The one bits of a number below 2^n. -/
def popNat : Nat → Nat → Nat
  | 0, _ => 0
  | n + 1, v => v % 2 + popNat n (v / 2)

def bvMin {w : Nat} (a b : BitVec w) : BitVec w := if a.slt b then a else b
def bvMax {w : Nat} (a b : BitVec w) : BitVec w := if a.slt b then b else a
def bvMinu {w : Nat} (a b : BitVec w) : BitVec w := if a.ult b then a else b
def bvMaxu {w : Nat} (a b : BitVec w) : BitVec w := if a.ult b then b else a

end Sys2Proof.Machine
end

