-- ==== Sys2Proof/Machine/SqMem.lean ====
section
/-!
DEFINITION. SQ's memory accesses: loads, stores and atomics at their homes (R108, R116 to R123, R317), and the responses
that a slow turn leaves in flight (R107; log 6: DESIGN CHOICE).
-/
namespace Sys2Proof.Machine
open Sys2Proof

/-! ### The access itself -/

/-- Whether a scope acts at package level or wider on a line (R313): else the access acts as at `die`. -/
def wide (scope key : Nat) : Bool := decide (2 ≤ scope) && covers scope (key / 128)

/-- A sync access checks the scope directories; a mismatch traps with SCOPE (R327, R328). -/
def syncCheck (ck scope key : Nat) : Op Unit := do
  let s ← getS
  let (bad, s') := scopeCheck (coreOf ck) scope key s
  if bad then trapWith .scope else upd fun _ => s'

/-- R108, R317: the value of a load of `n` bytes at flat address `ea`, whose memory key is `key`. (log 10: DESIGN CHOICE) -/
def loadAt (ck ea key n cls ord scope : Nat) : Op Nat := do
  let s ← getS
  let part := (s.ctx ck).bind.part
  let m := clsBit cls
  if ord = 1 ∧ 1 ≤ scope then
    needRoute ck scope m
    syncCheck ck scope key
    if wide scope key then
      upd (l2Drop (dieOf ck) fun l => decide (l.line = key / 128 ∧ l.owner = part))
    upd (acquire ck scope m)
  let s ← getS
  let hit := if ord = 1 ∧ 1 ≤ scope then none
    else (s.core (coreOf ck)).l1.find? fun l => l.flat = ea / 128 ∧ l.line = key / 128
  match hit with
  | some l =>
    memUeIf ck 0 key (s.channelOff key || decide ((l.poison &&& BitVec.ofNat 16 (unitMask (key % 128) n 8)) ≠ 0))
    pure (lineBytes l.data (key % 128) n)
  | none =>
    let (l, s') := s.l2Get (dieOf ck) part (key / 128) cls
    upd fun _ => l1Fill (coreOf ck) ⟨ea / 128, key / 128, cls, l.data, l.poison⟩ s'
    memUeIf ck 0 key (s'.channelOff key || decide ((l.poison &&& BitVec.ofNat 16 (unitMask (key % 128) n 8)) ≠ 0))
    pure (lineBytes l.data (key % 128) n)

/-- R314, R317: a write through the die L2 to the home: the L2 copy is updated in place, with its class, and the bytes reach the
home; of a channel out of service, they reach nothing (R453). -/
def storeThrough (die part key n v cls : Nat) (s : State) : State :=
  let s := s.homeWrite key n v
  match (if s.channelOff key then none else s.l2Find die part (key / 128)) with
  | none => s
  | some l => s.l2Put die { l with
      data := lineSet l.data (key % 128) n v
      dirty := if n % 4 = 0 then l.dirty &&& ~~~(BitVec.ofNat 32 (unitMask (key % 128) n 4)) else l.dirty
      cmask := l.cmask ||| clsBit cls
      poison := poisonAfter l.poison (key % 128) n }

/-- R108, R315, R317: a store of `n` bytes at memory key `key`. -/
def storeAt (ck key n v cls ord scope : Nat) : Op Unit := do
  let s ← getS
  let part := (s.ctx ck).bind.part
  if ord = 2 ∧ 1 ≤ scope then
    needRoute ck scope (clsBit cls)
    syncCheck ck scope key
    upd (release ck scope (clsBit cls))
  if ord = 2 ∧ wide scope key then upd (storeThrough (dieOf ck) part key n v cls)
  else upd fun s => s.l2WriteIn (dieOf ck) part key n v cls
  if s.channelOff key then pure () else upd (l1Update (coreOf ck) key n v)

/-! ### Loads and stores (R118, R119) -/

/-- The end of a load: its value reaches sd. -/
def loadFinish (ck sd ea key n ty cls ord scope : Nat) : Op Unit := do
  let v ← atFaddr ea (loadAt ck ea key n cls ord scope)
  upd (sPut ck sd (tyExtend ty v))

/-- R118: a load; in a slow turn its response stays in flight and nothing of it has happened (R107). -/
def sqLoad (sd : Nat) (base disp : BitVec 64) (ty : Nat) : Op Unit := do
  let s ← getS
  let st := s.c.stream .sq
  let n := tyBytes ty
  let ea ← flatAddr base.toNat disp.toNat n
  let key ← flatKey (s.requester s.ck 0 0) ea n 1
  if s.slow then
    upd fun s => s.modRegs s.ck fun r => { r with pend := some (.load sd ea n ty st.accCls st.accOrd st.accScope) }
    waitFor .load
  else loadFinish s.ck sd ea key n ty st.accCls st.accOrd st.accScope

/-- R107: in a slow turn the SCOPE or ATOMIC_HOST trap of an instruction that has issued is its response. -/
def lateTrap {α : Type} (o : Op α) : Op (Option α) := do
  let s ← getS
  tryCatch (do let a ← o; pure (some a)) fun x => match x with
    | .trap c _ faddr _ _ =>
      if s.slow ∧ (c = .scope ∨ c = .atomicHost) then do
        upd fun t => t.modRegs s.ck fun r => { r with pend := some (.fault c faddr (s.c.stream .sq).pc) }
        pure none
      else throw x
    | x => throw x

/-- R118: a store; the SCOPE trap of one with release may be its response (R107). -/
def sqStore (sv : Nat) (base disp : BitVec 64) (ty : Nat) : Op Unit := do
  let s ← getS
  let st := s.c.stream .sq
  let n := tyBytes ty
  let ea ← flatAddr base.toNat disp.toNat n
  let key ← flatKey (s.requester s.ck 0 0) ea n 2
  let _ ← lateTrap (atFaddr ea (storeAt s.ck key n ((sGet s sv).toNat % 2 ^ (8 * n)) st.accCls st.accOrd st.accScope))

/-- R118: s[sd] := the value at s[sa] + X. -/
def execLd (sd sa ty off : Nat) : State → Host.Outcome State Fault Refusal :=
  run fun s => unitNext .sq true 2 (sqLoad sd (sGet s sa) (sqImm s 13 off true) ty) s

/-- R118: the value at s[sa] + X := s[sv]. -/
def execSt (sv sa ty off : Nat) : State → Host.Outcome State Fault Refusal :=
  run fun s => unitNext .sq true 3 (sqStore sv (sGet s sa) (sqImm s 13 off true) ty) s

/-- R118: the indexed load. -/
def execLdx (sd sa sb ty : Nat) : State → Host.Outcome State Fault Refusal :=
  run fun s => unitNext .sq false 2 (sqLoad sd (sGet s sa) (sGet s sb * BitVec.ofNat 64 (tyBytes ty)) ty) s

/-- R118: the indexed store. -/
def execStx (sv sa sb ty : Nat) : State → Host.Outcome State Fault Refusal :=
  run fun s => unitNext .sq false 3 (sqStore sv (sGet s sa) (sGet s sb * BitVec.ofNat 64 (tyBytes ty)) ty) s

/-! ### Atomics (R120 to R123) -/

/-- R120: the new memory value of an operation on `w` bits; 9 is compare-and-swap with the expected value `x`. -/
def amoValue (op w old b x : Nat) : Nat :=
  let o := BitVec.ofNat w old
  let v := BitVec.ofNat w b
  match op with
  | 0 => (o + v).toNat
  | 1 => (o &&& v).toNat
  | 2 => (o ||| v).toNat
  | 3 => (o ^^^ v).toNat
  | 4 => (bvMin o v).toNat
  | 5 => (bvMax o v).toNat
  | 6 => (bvMinu o v).toNat
  | 7 => (bvMaxu o v).toNat
  | 8 => v.toNat
  | _ => if old = x % 2 ^ w then v.toNat else old

/-- R121, R122: one atomic at its home, for a core's die and partition; answers the old value. -/
def amoAt (ck part key n op b x cls scope : Nat) : Op Nat := do
  let s ← getS
  let die := dieOf ck
  if wide scope key then
    upd (l2Drop die fun l => decide (l.line = key / 128 ∧ l.owner = part))
    let s ← getS
    let (old, p) := s.homeRead key n
    memUeIf ck 0 key p
    syncCheck ck scope key
    let new := amoValue op (8 * n) old b x
    if op = 9 ∧ old ≠ x % 2 ^ (8 * n) then pure () else upd (State.homeWrite key n new)
    pure old
  else
    let (old, p, s') := s.l2ReadIn die part key n cls
    upd fun _ => s'
    memUeIf ck 0 key p
    syncCheck ck scope key
    let new := amoValue op (8 * n) old b x
    if op = 9 ∧ old ≠ x % 2 ^ (8 * n) then pure () else upd fun s => s.l2WriteIn die part key n new cls
    pure old

/-- The effects of an SQ memory instruction that has issued: a register write, an L1D drop and an acquire; in a slow turn
they stay in flight until its response (R107). -/
def respond (wr : Bool) (sd : Nat) (v : BitVec 64) (line : Option Nat) (mask : BitVec 16) (scope : Option Nat) :
    Op Unit := do
  upd fun s => s.modRegs s.ck fun r => { r with pend := some (.resp wr sd v line mask scope) }
  let s ← getS
  if s.slow then pure () else upd (collectPend s.ck)

/-- R121: an atomic. -/
def sqAmo (op sd sa sb w ord scope : Nat) : Op Unit := do
  let s ← getS
  let n := if w = 1 then 8 else 4
  let st := s.c.stream .sq
  let ea ← flatAddr (sGet s sa).toNat 0 n
  let key ← flatKey (s.requester s.ck 0 0) ea n 4
  let host := homeKind key = 2 ∧ (scope ≠ 4 ∨ (op ≠ 0 ∧ op ≠ 8 ∧ op ≠ 9))
  if host ∧ ¬ s.slow then trapAt .atomicHost ea
  if 1 ≤ ord then needRoute s.ck scope allClasses
  if 2 ≤ ord then upd (release s.ck scope allClasses)
  let r ← lateTrap (do
    if host then trapAt .atomicHost ea
    atFaddr ea (amoAt s.ck s.c.bind.part key n op (sGet s sb).toNat (sGet s sd).toNat st.accCls scope))
  match r with
  | none => pure ()
  | some old =>
    let v := if w = 1 then BitVec.ofNat 64 old else BitVec.ofInt 64 (signedOf 32 old)
    respond true sd v (some (key / 128)) allClasses (if ord = 1 ∨ ord = 3 then some scope else none)

def execAmoAdd (sd sa sb w ord scope : Nat) : State → Host.Outcome State Fault Refusal :=
  run (unitNext .sq false 1 (sqAmo 0 sd sa sb w ord scope))
def execAmoAnd (sd sa sb w ord scope : Nat) : State → Host.Outcome State Fault Refusal :=
  run (unitNext .sq false 1 (sqAmo 1 sd sa sb w ord scope))
def execAmoOr (sd sa sb w ord scope : Nat) : State → Host.Outcome State Fault Refusal :=
  run (unitNext .sq false 1 (sqAmo 2 sd sa sb w ord scope))
def execAmoXor (sd sa sb w ord scope : Nat) : State → Host.Outcome State Fault Refusal :=
  run (unitNext .sq false 1 (sqAmo 3 sd sa sb w ord scope))
def execAmoMin (sd sa sb w ord scope : Nat) : State → Host.Outcome State Fault Refusal :=
  run (unitNext .sq false 1 (sqAmo 4 sd sa sb w ord scope))
def execAmoMax (sd sa sb w ord scope : Nat) : State → Host.Outcome State Fault Refusal :=
  run (unitNext .sq false 1 (sqAmo 5 sd sa sb w ord scope))
def execAmoMinu (sd sa sb w ord scope : Nat) : State → Host.Outcome State Fault Refusal :=
  run (unitNext .sq false 1 (sqAmo 6 sd sa sb w ord scope))
def execAmoMaxu (sd sa sb w ord scope : Nat) : State → Host.Outcome State Fault Refusal :=
  run (unitNext .sq false 1 (sqAmo 7 sd sa sb w ord scope))
def execAmoSwap (sd sa sb w ord scope : Nat) : State → Host.Outcome State Fault Refusal :=
  run (unitNext .sq false 1 (sqAmo 8 sd sa sb w ord scope))
def execAmoCas (sd sa sb w ord scope : Nat) : State → Host.Outcome State Fault Refusal :=
  run (unitNext .sq false 1 (sqAmo 9 sd sa sb w ord scope))

end Sys2Proof.Machine
end

