-- ==== Sys2Proof/Machine/SqSync.lean ====
section
/-!
DEFINITION. SQ's fences, semaphores, timelines, barrier objects and `rinv` (R124 to R133).
-/
namespace Sys2Proof.Machine
open Sys2Proof

/-! ### Fences (R124) -/

/-- R312: `fence.c` has no cache action; one step at a time keeps the order it asks for (log 10: DESIGN CHOICE). -/
def execFenceC (mask : Nat) : State → Host.Outcome State Fault Refusal :=
  let _ := mask
  run (unitNext .sq false 0 (pure ()))

def execFenceAcq (scope mask : Nat) : State → Host.Outcome State Fault Refusal :=
  run fun s => unitNext .sq false 0 (do
    needRoute s.ck scope (BitVec.ofNat 16 mask)
    respond false 0 0 none (BitVec.ofNat 16 mask) (some scope)) s

def execFenceRel (scope mask : Nat) : State → Host.Outcome State Fault Refusal :=
  run fun s => unitNext .sq false 0 (do
    needRoute s.ck scope (BitVec.ofNat 16 mask)
    upd (release s.ck scope (BitVec.ofNat 16 mask))) s

def execFenceAcqrel (scope mask : Nat) : State → Host.Outcome State Fault Refusal :=
  run fun s => unitNext .sq false 0 (do
    needRoute s.ck scope (BitVec.ofNat 16 mask)
    upd (release s.ck scope (BitVec.ofNat 16 mask))
    respond false 0 0 none (BitVec.ofNat 16 mask) (some scope)) s

/-! ### Semaphores (R126 to R128) -/

/-- A `sem.sig` of stream `u` after its release: the word completes, and a count of 65,535 traps after it (R24). -/
def signalWord (u : StreamId) (n : Nat) (s : State) : State :=
  let (lost, t) := semSignal s.ck n s
  let t := endUnit s.ck u (s.c.stream u).next t
  if lost then trapAfter s.ck u .semOverflow 0 t else t

/-- R126: a release of every class at the scope, then the signal. -/
def execSqSemSig (scope sem : Nat) : State → Host.Outcome State Fault Refusal :=
  run fun s =>
    if (s.c.stream .sq).unfit false 0 then takeTrap s.ck .sq .illPfx 0 0 0 0 true s
    else signalWord .sq sem (release s.ck scope allClasses s)

/-- R126: blocks until the count is at least 1, takes 1, then acquires every class at the scope. -/
def execSqSemWait (scope sem : Nat) : State → Host.Outcome State Fault Refusal :=
  run (unitNext .sq false 0 (do
    let s ← getS
    if !s.semFree s.ck .sq sem then waitFor (.sem sem)
    upd fun s => acquire s.ck scope allClasses (semTake s.ck sem s)))

/-- Whether a slot holds a bound context: in every state but FREE and BINDING, a gated, halting or retiring one too
(log 33: DESIGN CHOICE). -/
def Ctx.bound (c : Ctx) : Bool := c.st != .free && c.st != .binding

/-- R127: delivers a signal to semaphore `n` of the context that `v` names; `part` and `secure` are the sender's. Answers
the status; a target that is none is found before a difference of worlds (log 33: DESIGN CHOICE). -/
def deliverSignal (part : Nat) (secure : Bool) (v n : Nat) (s : State) : Nat × State :=
  let core := v % 512
  let ck := core * 4 + v / 512 % 4
  let c := s.ctx ck
  if v / 2 ^ 32 ≠ 0 ∨ v / 2 ^ 11 % 32 ≠ 0 ∨ core > 383 ∨ c.bound = false ∨ c.linst.toNat % 65536 ≠ v / 65536 % 65536
      ∨ c.bind.part ≠ part then (1, s)
  else if ¬ secure ∧ c.bind.secure then (3, s)
  else
    let (lost, s) := semSignal ck n s
    (if lost then 2 else 0, s)

/-- R127: a release of every class at package scope, the signal, then the status in sd. -/
def execSemSigr (sa sd sem : Nat) : State → Host.Outcome State Fault Refusal :=
  run (unitNext .sq false 0 (do
    let s ← getS
    upd (release s.ck 2 allClasses)
    let s ← getS
    let (st, s') := deliverSignal s.c.bind.part s.c.bind.secure (sGet s sa).toNat sem s
    upd fun _ => s'
    respond true sd (BitVec.ofNat 64 st) none 0 none))

/-! ### Timelines (R129) -/

/-- R129: blocks until the completion value is at least s[sa]; its acquire has no cache action (R108, R323). -/
def execSqTlWait (tl sa : Nat) : State → Host.Outcome State Fault Refusal :=
  run (unitNext .sq false 0 (do
    let s ← getS
    if (s.timeline s.ck tl).done.toNat < (sGet s sa).toNat then waitFor (.tl tl (sGet s sa).toNat)))

def execTlRd (tl sd : Nat) : State → Host.Outcome State Fault Refusal :=
  run (unitNext .sq false 0 (upd fun s => sSet sd (s.timeline s.ck tl).done s))

def execTlRdi (tl sd : Nat) : State → Host.Outcome State Fault Refusal :=
  run (unitNext .sq false 0 (upd fun s => sSet sd (s.timeline s.ck tl).issued s))

def execTlErr (tl sd : Nat) : State → Host.Outcome State Fault Refusal :=
  run (unitNext .sq false 0 (upd fun s =>
    modTl s.ck tl (fun t => { t with err := false }) (sSet sd (bit (s.timeline s.ck tl).err) s)))

/-! ### Barrier objects (R130, R131, R133, R262) -/

/-- R133: the checks of a barrier offset. One that is misaligned and outside the window traps BAR_ALIGN (log 33: DESIGN CHOICE). -/
def barCheck (ck off : Nat) : Op Unit := do
  let s ← getS
  failIf (decide (off % 16 ≠ 0)) .barAlign
  failIf (!inWindow (s.ctx ck) 0 off 16) .bufRange

/-- R130: the object's 16 bytes; a poisoned word stops the context (R448). -/
def barRead (ck unit off : Nat) : Op Nat := do
  let s ← getS
  let (v, p) := winRead ck 0 off 16 s
  if p then trapLogged ck .memUe 0 unit 0 0
  pure v

/-- R131: EXPECTED := `n`, ARRIVED := 0, PHASE := PHASE + 1. -/
def barInit (ck unit off n : Nat) : Op Unit := do
  barCheck ck off
  let v ← barRead ck unit off
  upd (winWrite ck 0 off 12 (n % 2 ^ 32 + (v / 2 ^ 64 + 1) % 2 ^ 32 * 2 ^ 64))

/-- R131: blocks until ARRIVED ≥ EXPECTED; answers PHASE. -/
def barWait (ck unit off : Nat) : Op Nat := do
  barCheck ck off
  let v ← barRead ck unit off
  if v / 2 ^ 32 % 2 ^ 32 < v % 2 ^ 32 then waitFor (.bar off)
  pure (v / 2 ^ 64 % 2 ^ 32)

/-- R130: `n` bytes arrive at an object, saturating. -/
def barArrive (ck off n : Nat) (s : State) : State :=
  let v := (winRead ck 0 (off + 4) 4 s).1
  winWrite ck 0 (off + 4) 4 (min (v + n) (2 ^ 32 - 1)) s

def execSqBarInit (sa sb : Nat) : State → Host.Outcome State Fault Refusal :=
  run fun s => unitNext .sq false 0 (barInit s.ck 0 (sGet s sa).toNat ((sGet s sb).toNat % 2 ^ 32)) s

/-- R131: the wait acquires at core scope, which has no cache action (R316). -/
def execSqBarWait (sa sd : Nat) : State → Host.Outcome State Fault Refusal :=
  run fun s => unitNext .sq false 0 (do
    let p ← barWait s.ck 0 (sGet s sa).toNat
    upd (sSet sd (BitVec.ofNat 64 p))) s

/-! ### `rinv` (R132) -/

/-- R132: drops from L1D every line that overlaps the flat range. -/
def execRinv (sa sb : Nat) : State → Host.Outcome State Fault Refusal :=
  run fun s => unitNext .sq false 0 (do
    let a := (sGet s sa).toNat
    let n := (sGet s sb).toNat
    if n = 0 then pure ()
    else
      failIf (decide ((a + n - 1) / 2 ^ 44 ≠ a / 2 ^ 44)) .flatCarry
      upd (l1Drop (coreOf s.ck) fun l => decide (a / 128 ≤ l.flat ∧ l.flat ≤ (a + n - 1) / 128))) s

end Sys2Proof.Machine
end

