-- ==== Sys2Proof/Machine/SqFlow.lean ====
section
/-!
DEFINITION. SQ's branches, jumps, loops, control registers and system words (R134 to R139, R150 to R156), the prefixes (R99,
R105) and the illegal-instruction trap (R96).
-/
namespace Sys2Proof.Machine
open Sys2Proof

/-! ### Branches and jumps (R134, R135) -/

/-- R134: PC + 4 × OFF16 when the condition holds, else PC + 4. -/
def sqBranch (cond : BitVec 64 → BitVec 64 → Bool) (sa sb off : Nat) (s : State) : State :=
  unitStep .sq false 0 (pure (if cond (sGet s sa) (sGet s sb) then wordTarget (s.c.stream .sq).at 16 off
    else (s.c.stream .sq).next)) s

def execBeq (sa sb off : Nat) : State → Host.Outcome State Fault Refusal := run (sqBranch (fun a b => decide (a = b)) sa sb off)
def execBne (sa sb off : Nat) : State → Host.Outcome State Fault Refusal := run (sqBranch (fun a b => decide (a ≠ b)) sa sb off)
def execBlt (sa sb off : Nat) : State → Host.Outcome State Fault Refusal := run (sqBranch (fun a b => a.slt b) sa sb off)
def execBge (sa sb off : Nat) : State → Host.Outcome State Fault Refusal := run (sqBranch (fun a b => !a.slt b) sa sb off)
def execBltu (sa sb off : Nat) : State → Host.Outcome State Fault Refusal := run (sqBranch (fun a b => a.ult b) sa sb off)
def execBgeu (sa sb off : Nat) : State → Host.Outcome State Fault Refusal := run (sqBranch (fun a b => !a.ult b) sa sb off)

/-- R135: s[sd] := PC + 4; PC := PC + 4 × OFF19. -/
def execJal (sd off : Nat) : State → Host.Outcome State Fault Refusal :=
  run fun s => unitStep .sq false 0 (do
    upd (sSet sd (BitVec.ofNat 64 ((s.c.stream .sq).at + 4)))
    pure (wordTarget (s.c.stream .sq).at 19 off)) s

/-- R135: the target is s[sa] + OFF14 bytes; PC_ALIGN when it is no word address. -/
def execJalr (sd sa off : Nat) : State → Host.Outcome State Fault Refusal :=
  run fun s => unitStep .sq false 0 (do
    let t := (sGet s sa + BitVec.ofInt 64 (signedOf 14 off)).toNat
    failIf (decide (t % 4 ≠ 0) || decide (2 ^ 32 ≤ t)) .pcAlign
    upd (sSet sd (BitVec.ofNat 64 ((s.c.stream .sq).at + 4)))
    pure t) s

/-- The word a stream fetches at a byte offset of its section: 0 at or beyond its length (R86). -/
def Stream.fetch (st : Stream) (a : Nat) : Nat := if a % 4 = 0 then (st.code[a / 4]?.getD 0).toNat else 0

/-- Whether a list is strictly ascending. -/
def ascending : List Nat → Bool
  | a :: b :: r => decide (a < b) && ascending (b :: r)
  | _ => true

/-- R136: the first bucket that covers a count. -/
def firstBucket (count : Nat) : Nat → List Nat → Option Nat
  | _, [] => none
  | j, b :: r => if count ≤ b then some j else firstBucket count (j + 1) r

/-- R136: selects a target by count. -/
def execJtab (sd sa off : Nat) : State → Host.Outcome State Fault Refusal :=
  run fun s => unitStep .sq false 0 (do
    let st := s.c.stream .sq
    let t := wordTarget st.at 14 off
    let h := st.fetch t
    let n := h % 16
    let b := (List.range n).map fun j => st.fetch (t + 4 + 4 * j)
    let g := (List.range n).map fun j => st.fetch (t + 4 * n + 4 + 4 * j)
    failIf (decide (n = 0 ∨ 8 < n) || decide (h / 16 ≠ 0) || !ascending b || g.any (fun x => decide (x % 4 ≠ 0))
      || decide (4 * st.code.length < t + 8 * n + 4)) .jtabFmt
    match firstBucket (sGet s sa).toNat 0 b with
    | some j =>
      upd (sSet sd (BitVec.ofNat 64 j))
      pure (g[j]?.getD 0)
    | none =>
      upd (sSet sd (BitVec.allOnes 64))
      pure st.next) s

/-! ### Loops (R137, R138) -/

/-- R137, R268: an `lbr` of SQ, XL or XS (and ME, R226): a level the loop table does not define traps with LOOP_LEV. -/
def lbrWord (u : StreamId) (lev off : Nat) (s : State) : State :=
  if (s.c.stream u).unfit false 0 then takeTrap s.ck u .illPfx 0 0 0 0 true s
  else if s.c.r.hasLevel lev = false then takeTrap s.ck u .loopLev 0 0 0 0 true s
  else
    let st := s.c.stream u
    let target := wordTarget st.at 16 off
    let x := loopClose s.ck u lev target s
    if x.1 then endUnit s.ck u target x.2 else leaveLevel s.ck u lev (endUnit s.ck u st.next x.2)

def execSqLbr (lev off : Nat) : State → Host.Outcome State Fault Refusal := run (lbrWord .sq lev off)

def execLcRd (sd lev : Nat) : State → Host.Outcome State Fault Refusal :=
  run fun s => unitNext .sq false 0 (do
    failIf (!s.c.r.hasLevel lev) .loopLev
    upd (sSet sd ((vget 0 s.c.r.lc lev).setWidth 64))) s

def execLcIt (sd lev : Nat) : State → Host.Outcome State Fault Refusal :=
  run fun s => unitNext .sq false 0 (do
    failIf (!s.c.r.hasLevel lev) .loopLev
    upd (sSet sd ((vget 0 (s.c.stream .sq).iter lev).setWidth 64))) s

/-! ### Control registers (R150 to R153) -/

/-- CTXID (R152). -/
def ctxId (s : State) : Nat := s.c.linst.toNat * 2 ^ 32 + s.who.slot % 4 * 512 + s.who.core % 512

/-- The registers of CSEL 0x01 to 0x0A as stream `u` reads them (R150, R192, R266). -/
def crRead (s : State) (u : StreamId) (csel : Nat) : BitVec 64 :=
  let st := s.c.stream u
  match csel with
  | 1 => st.cls.setWidth 64
  | 2 => st.rmode.setWidth 64
  | 3 => st.flush.setWidth 64
  | 4 => st.nbl.setWidth 64
  | 5 => flagsReg s.c.r
  | 6 => s.c.r.budget.setWidth 64
  | 7 => s.c.ctxbuf
  | 8 => (s.part s.c.bind.part).active.cbtab
  | 9 => BitVec.ofNat 64 (ctxId s)
  | _ => s.cycle

/-- R49, R58, R151, R402: whether a value may not be written to a register of CSEL 0x01 to 0x06. -/
def crBad (csel v : Nat) : Bool :=
  match csel with
  | 1 => decide (16 ≤ v)
  | 2 => rmodeBad v
  | 3 => flushBad v
  | 4 => nblBad v
  | 5 => flagsReserved v
  | _ => decide (1000 < v)

/-- The write of a register of CSEL 0x01 to 0x06 by stream `u`. -/
def crWrite (ck : Nat) (u : StreamId) (csel v : Nat) (s : State) : State :=
  match csel with
  | 1 => s.modStream ck u fun st => { st with cls := BitVec.ofNat 4 v }
  | 2 => s.modStream ck u fun st => { st with rmode := BitVec.ofNat 5 v }
  | 3 => s.modStream ck u fun st => { st with flush := BitVec.ofNat 6 v }
  | 4 => s.modStream ck u fun st => { st with nbl := BitVec.ofNat 2 v }
  | 5 => writeFlags ck v s
  | _ => s.modRegs ck fun r => { r with budget := BitVec.ofNat 11 v }

def execSqCrRd (sd csel : Nat) : State → Host.Outcome State Fault Refusal :=
  run (unitNext .sq false 0 (upd fun s => sSet sd (crRead s .sq csel) s))

def execSqCrWr (sa csel : Nat) : State → Host.Outcome State Fault Refusal :=
  run fun s => unitNext .sq false 0 (do
    failIf (crBad csel (sGet s sa).toNat) .crValue
    upd (crWrite s.ck .sq csel (sGet s sa).toNat)) s

/-! ### System words (R154 to R156) -/

/-- R154: SW_TRAP of stream `u` with its code, taken after the word: the stream resumes at the next one. -/
def trapWord (u : StreamId) (code : Nat) (s : State) : State :=
  if (s.c.stream u).unfit false 0 then takeTrap s.ck u .illPfx 0 0 0 0 true s
  else trapAfter s.ck u .swTrap code (endUnit s.ck u (s.c.stream u).next s)

def execSqTrap (code : Nat) : State → Host.Outcome State Fault Refusal := run (trapWord .sq code)

/-- A stream retires (R155): it fetches nothing more. -/
def retire (ck : Nat) (u : StreamId) (s : State) : State :=
  { s.modStream ck u fun st => { st.noPfx with retired := true, wait := none } with lock := none }

/-- Whether the outstanding work that a stream's `end` waits for is complete: SQ its copies and ASG commands (R155), ME
its drains (R227), XL and XS their commands (R270), XS also its collectives; a stream never ends while it awaits a
response. -/
def Regs.workDone (r : Regs) (u : StreamId) : Bool :=
  match u with
  | .sq => r.cxQ.toList.all List.isEmpty && r.asg.queue.isEmpty && r.asg.run.isNone
  | .ve => true
  | .me => r.me.drains.isEmpty
  | .xl => r.xlQ.isEmpty
  | .xs => r.xsQ.isEmpty && r.coll.isEmpty

/-- R155, R227, R270: `end` waits for the stream's outstanding work, then retires the stream. -/
def endWord (u : StreamId) (s : State) : State :=
  if (s.c.stream u).unfit false 0 then takeTrap s.ck u .illPfx 0 0 0 0 true s
  else if s.c.r.workDone u then retire s.ck u s
  else blockOn s.ck u .retire s

def execSqEnd : State → Host.Outcome State Fault Refusal := run (endWord .sq)

/-- Marks a stream whose next issue slot goes to another ready context, if one is ready (R156, R197). -/
def yieldSlot (u : StreamId) (s : State) : State := s.modStream s.ck u fun st => { st with yielded := true }

/-- R156: gives up the issue slot of the next cycle; no architectural state but the PC changes. -/
def execSqYield : State → Host.Outcome State Fault Refusal := run (unitNext .sq false 0 (upd (yieldSlot .sq)))

/-! ### Prefixes (R99, R105) -/

/-- R105: a prefix is latched and its unit goes on with the next word; the stream stays scheduled until the unit ends
(R104). -/
def latchPfx (f : Stream → Option Stream) (s : State) : State :=
  let u := s.who.stream
  match f (s.c.stream u) with
  | none => takeTrap s.ck u .illPfx 0 0 0 0 true s
  | some st => { s.modStream s.ck u fun _ => { st with pfxLen := st.pfxLen + 1 } with lock := some s.who }

def execPfxImm (imm : Nat) : State → Host.Outcome State Fault Refusal :=
  run (latchPfx fun st => if st.pfxImm.isSome then none else some { st with pfxImm := some imm })

def execPfxOrd (cls ord scope : Nat) : State → Host.Outcome State Fault Refusal :=
  run (latchPfx fun st => if st.pfxOrd.isSome then none else some { st with pfxOrd := some (cls, ord, scope) })

/-! ### Illegal words (R96) -/

/-- R96: a word that is no legal instruction traps at its address, or at its first prefix; nothing of it executes. -/
def execIllegalInstruction (c : Cause) : State → Host.Outcome State Fault Refusal :=
  run fun s => takeTrap s.ck s.who.stream c 0 0 0 0 true s

end Sys2Proof.Machine
end

