-- ==== Sys2Proof/Machine/Codebook.lean ====
section
/-!
DEFINITION. Codebook descriptors, versions, sampling and pins (R61 to R73), and SQ's codebook words (R140). CBTAB.BASE is a flat
pointer, translated for the unit that samples; every action is at the descriptor line's home (R68).
-/
namespace Sys2Proof.Machine
open Sys2Proof

/-! ### Descriptors (R62 to R65) -/

def cbVer (d i : Nat) : Nat := d / 2 ^ (128 * i + 160) % 2 ^ 32
def cbPtr (d i : Nat) : Nat := d / 2 ^ (128 * i + 192) % 2 ^ 64
def cbPins (d i : Nat) : Nat := d / 2 ^ (128 * i + 136) % 2 ^ 24
def cbState (d i : Nat) : Nat := d / 2 ^ (128 * i + 128) % 4
def cbNewver (d : Nat) : Nat := d / 2 ^ 96 % 2 ^ 32

/-- The header fields that no publish changes (R69, R304). -/
structure CbHead where
  family : Bool
  blk : Nat          -- elements of a family block
  special : Nat
  count : Nat
  dlen : Nat
  fmt : FFmt
  deriving DecidableEq, Repr

/-- FMT codes of R62. -/
def cbFmt (n : Nat) : FFmt := match n with
  | 0 => .f32 | 1 => .f16 | 2 => .bf16 | 3 => .e4m3 | _ => .e5m2

def cbHead (d : Nat) : CbHead :=
  ⟨d / 2 ^ 63 % 2 = 1, 32 * 2 ^ (d / 2 ^ 61 % 4), d / 2 ^ 40 % 256, d / 2 ^ 32 % 256 + 1, 2 ^ (d / 2 ^ 30 % 4),
    cbFmt (d / 2 ^ 27 % 8)⟩

/-- The bytes of one table: the array of a single codebook, or S of a family block (R64). -/
def CbHead.bytes (h : CbHead) : Nat := h.count * h.dlen * (h.fmt.width / 8)
def CbHead.stride (h : CbHead) : Nat := (h.bytes + 127) / 128 * 128

/-- R65: whether a descriptor read at identifier `id` is valid. CWPTR bits [6:0], 0 by R63, are held to 0 in a FREE record too
(log 33: DESIGN CHOICE). -/
def cbValid (id d : Nat) : Bool :=
  let live := (List.range 7).filter fun i => cbState d i ≠ 0
  let newest := (List.range 7).filter fun i => cbState d i = 1
  decide (d / 2 ^ 16 % 2 = 1) && decide (d % 65536 = id)
  && decide (d / 2 ^ 17 % 2 ^ 10 = 0) && decide (d / 2 ^ 48 % 2 ^ 13 = 0) && decide (d / 2 ^ 64 % 2 ^ 32 = 0)
  && decide (d / 2 ^ 61 % 4 ≠ 3) && (decide (d / 2 ^ 63 % 2 = 1) || decide (d / 2 ^ 61 % 4 = 0))
  && decide (d / 2 ^ 27 % 8 ≤ 4) && decide (1 ≤ d / 2 ^ 32 % 256) && decide ((cbHead d).special < (cbHead d).count)
  && ((cbHead d).family == false || decide ((cbHead d).stride ≤ 2048))
  && (List.range 7).all (fun i => decide (cbState d i ≠ 3) && decide (d / 2 ^ (128 * i + 130) % 64 = 0)
      && decide (cbPtr d i % 128 = 0))
  && (match newest with | [i] => decide (cbVer d i = cbNewver d) | _ => false)
  && decide ((live.map (cbVer d)).Nodup)

/-- A version record put into a descriptor (R63). -/
def cbSetRec (d i ptr ver pins st : Nat) : Nat :=
  d - (d / 2 ^ (128 * i + 128) % 2 ^ 128) * 2 ^ (128 * i + 128)
    + (st + pins * 2 ^ 8 + ver * 2 ^ 32 + ptr * 2 ^ 64) * 2 ^ (128 * i + 128)

/-- The live record of a version. -/
def cbFind (d ver : Nat) : Option Nat := (List.range 7).find? fun i => cbState d i ≠ 0 ∧ cbVer d i = ver

/-- The NEWEST record. -/
def cbNewest (d : Nat) : Option Nat := (List.range 7).find? fun i => cbState d i = 1

/-- One pin taken from a record; a DRAINING record without pins becomes FREE (R69, R70). -/
def cbUnpinRec (d i : Nat) : Nat :=
  let p := cbPins d i - 1
  cbSetRec d i (cbPtr d i) (cbVer d i) p (if p = 0 ∧ cbState d i = 2 then 0 else cbState d i)

def cbPinRec (d i : Nat) : Nat := cbSetRec d i (cbPtr d i) (cbVer d i) (cbPins d i + 1) (cbState d i)

/-- The address of descriptor `id` in a table that the migration agent placed (R429). -/
def cbPlaced (r : PkgRec) (id : Nat) : Nat := r.cbtab.toNat / 65536 * 65536 + 128 * id
def cbCount (s : State) (part : Nat) : Nat := (s.part part).active.cbtab.toNat % 65536

/-- The requester of a context's unit, by its code in R390. -/
def State.unitReq (s : State) (ck unit part : Nat) : Requester :=
  { ck := ck, ui := if unit = 0 then 0 else if unit = 3 then 1 else if unit = 4 then 2 else 3, unit := unit, part := part
    secure := (s.ctx ck).bind.secure }

/-- R61: the key of a descriptor line, through the flat pointer of CBTAB. Every action on the table, one that changes a record too, asks
its tile for the permission of a read (log 33: DESIGN CHOICE). -/
def cbKey (ck unit part id : Nat) : Op Nat := do
  let s ← getS
  let r := (s.part part).active
  if r.cbMoved then pure (cbPlaced r id)
  else
    let ea ← flatAddr (r.cbtab.toNat / 65536 * 65536) (128 * id) 128
    flatKey (s.unitReq ck unit part) ea 128 1

/-- R71: the descriptor of an identifier at or above 16: the cause of CB_ID or CB_DESC, or the key of its line and its 1,024
bits. A poisoned word of the line stops the context. -/
def cbLookup (ck unit part id : Nat) : Op (Except Cause (Nat × Nat)) := do
  let s ← getS
  if cbCount s part ≤ id then pure (.error .cbId)
  else
    let key ← cbKey ck unit part id
    upd (State.awaitKey key)
    let s ← getS
    let (d, p) := s.keyRead key 128
    memUeIf ck unit key p
    if cbValid id d then pure (.ok (key, d)) else pure (.error .cbDesc)

/-- An action on a descriptor line at its home: the 4-byte words of it that change are written, so that a poisoned word keeps its poison
unless the whole of it is (R448). -/
def cbStore (key d : Nat) (s : State) : State :=
  let old := (s.keyRead key 128).1
  (List.range 16).foldl (fun s i =>
    let a := key + 8 * i
    let lo := decide (fieldOf old (8 * i) 4 ≠ fieldOf d (8 * i) 4)
    let hi := decide (fieldOf old (8 * i + 4) 4 ≠ fieldOf d (8 * i + 4) 4)
    if lo && hi then s.cleanWrite a 8 (fieldOf d (8 * i) 8) false
    else if lo then s.cleanWrite a 4 (fieldOf d (8 * i) 4) false
    else if hi then s.cleanWrite (a + 4) 4 (fieldOf d (8 * i + 4) 4) false
    else s) s

/-! ### Sampling (R70) -/

/-- A sampled binding: the pin it holds, or a lattice codebook. -/
def samplePin (b : Nat) (key d : Nat) (i : Nat) : Pin := ⟨bindCb b, cbVer d i, cbPtr d i, false, key⟩

/-- R70, R71: the record that a binding samples, with its checks and no pin taken. -/
def sampleCheck (q : Requester) (b : Nat) : Op Pin := do
  if bindBad b then trapWith .cbDesc
  if bindCb b < 16 then pure ⟨bindCb b, 0, 0, true, 0⟩
  else
    match ← cbLookup q.ck q.unit q.part (bindCb b) with
    | .error c => trapWith c
    | .ok (key, d) =>
      match (if bindFollow b then cbNewest d else cbFind d (bindVer b)) with
      | none => trapWith .cbStale
      | some i =>
        failIf (decide (cbPins d i = 2 ^ 24 - 1)) .cbPin
        pure (samplePin b key d i)

/-- The key of a pin's descriptor line: as sampled, or where the migration agent placed the table since (R429). -/
def pinKey (part : Nat) (p : Pin) (s : State) : Nat :=
  if (s.part part).active.cbMoved then cbPlaced (s.part part).active p.cbid else p.key

/-- Takes the pin of a sampled binding. -/
def pinTake (part : Nat) (p : Pin) (s : State) : State :=
  if p.lattice then s
  else
    let key := pinKey part p s
    let s := s.awaitKey key
    let d := (s.keyRead key 128).1
    match cbFind d p.version with
    | some i => cbStore key (cbPinRec d i) s
    | none => s

/-- R70, R73: releases a pin. A line that has become poisoned stops nothing here (log 33: DESIGN CHOICE), and the word written in part
keeps its poison (R448). -/
def pinRelease (part : Nat) (p : Pin) (s : State) : State :=
  if p.lattice then s
  else
    let key := pinKey part p s
    let s := s.awaitKey key
    let d := (s.keyRead key 128).1
    match cbFind d p.version with
    | some i => if cbPins d i = 0 then s else cbStore key (cbUnpinRec d i) s
    | none => s

/-- The pin count of a sampled record. -/
def pinCount (part : Nat) (p : Pin) (s : State) : Nat :=
  let d := (s.keyRead (pinKey part p s) 128).1
  match cbFind d p.version with
  | some i => cbPins d i
  | none => 0

/-- R70: a command samples its bindings; when one traps it takes no pin at all. -/
def sampleAll (q : Requester) (bs : List Nat) : Op (List Pin) := do
  let ps ← opMap (sampleCheck q) bs
  let s ← getS
  failIf (ps.any fun p => !p.lattice && decide (2 ^ 24 - 1 < pinCount q.part p s + ps.count p)) .cbPin
  upd fun s => ps.foldl (fun s p => pinTake q.part p s) s
  pure ps

/-- Releases every pin of a command. -/
def releasePins (part : Nat) (ps : List Pin) (s : State) : State := ps.foldl (fun s p => pinRelease part p s) s

/-! ### `cb.pub`, `cb.pin`, `cb.unpin` (R69, R140) -/

/-- R69: Publish, after the checks of R140; answers the status. -/
def cbPublish (ck part id ptr : Nat) : Op Nat := do
  if id < 16 then pure 1
  else
    match ← cbLookup ck 0 part id with
    | .error c => pure (if c = .cbId then 6 else 7)
    | .ok (key, d) =>
      if cbNewver d = 0xFFFFFFFF then pure 2
      else match (List.range 7).find? fun i => cbState d i = 0 with
        | none => pure 3
        | some f =>
          let d' := match cbNewest d with
            | some o => cbSetRec d o (cbPtr d o) (cbVer d o) (cbPins d o) (if cbPins d o = 0 then 0 else 2)
            | none => d
          let v := cbNewver d + 1
          let d' := cbSetRec d' f ptr v 0 1
          let d' := d' - cbNewver d' * 2 ^ 96 + v * 2 ^ 96
          upd (cbStore key d')
          pure 0

/-- R69: Pin (`add`) and Unpin. -/
def cbPinWord (ck part : Nat) (add : Bool) (id ver : Nat) : Op Nat := do
  match ← cbLookup ck 0 part id with
  | .error c => pure (if c = .cbId then 6 else 7)
  | .ok (key, d) =>
    match cbFind d ver with
    | none => pure 4
    | some i =>
      if add then
        if cbPins d i = 2 ^ 24 - 1 then pure 5
        else do
          upd (cbStore key (cbPinRec d i))
          pure 0
      else if cbPins d i = 0 then pure 4
      else do
        upd (cbStore key (cbUnpinRec d i))
        pure 0

/-- The status of a codebook word reaches sd. -/
def statusTo (sd : Nat) (n : Nat) : Op Unit := respond true sd (BitVec.ofNat 64 n) none 0 none

/-- R69, R140. An identifier of 2^16 or more answers CB_ID before the release: of the statuses before it R140 places CB_ALIGN alone
(log 33: DESIGN CHOICE). -/
def execCbPub (sd sa sb : Nat) : State → Host.Outcome State Fault Refusal :=
  run fun s => unitNext .sq false 0 (do
    let id := (sGet s sa).toNat
    let ptr := (sGet s sb).toNat
    if 65536 ≤ id then statusTo sd 6
    else if ptr % 128 ≠ 0 then statusTo sd 8
    else
      upd (release s.ck 2 allClasses)
      let n ← cbPublish s.ck s.c.bind.part id ptr
      statusTo sd n) s

/-- R140: the checks of `cb.pin` and `cb.unpin` before R69. An identifier below 16 answers IMMUTABLE whatever s[sb] holds
(log 33: DESIGN CHOICE). -/
def cbPinChecked (add : Bool) (sd sa sb : Nat) (s : State) : Op Unit := do
  let id := (sGet s sa).toNat
  let ver := (sGet s sb).toNat
  if 65536 ≤ id then statusTo sd 6
  else if id < 16 then statusTo sd 1
  else if 2 ^ 32 ≤ ver then statusTo sd 4
  else
    let n ← cbPinWord s.ck s.c.bind.part add id ver
    statusTo sd n

def execCbPin (sd sa sb : Nat) : State → Host.Outcome State Fault Refusal :=
  run fun s => unitNext .sq false 0 (cbPinChecked true sd sa sb s) s

def execCbUnpin (sd sa sb : Nat) : State → Host.Outcome State Fault Refusal :=
  run fun s => unitNext .sq false 0 (cbPinChecked false sd sa sb s) s

end Sys2Proof.Machine
end

