-- ==== Sys2Proof/Machine/Launch.lean ====
section
/-!
DEFINITION. Launch records: `lr.patch` and `lr.arm` (R141 to R144, R363 to R365), the host's arm doorbell (R365, R415), the
posts of the firmware and the arm queues (R366, R367) and the completion of a launch (R379).
-/
namespace Sys2Proof.Machine
open Sys2Proof

/-! ### What the management core and its hardware access (R421, R459) -/

/-- A requester that is no context: dispatch, an arm queue or the completion of a launch, on a die, for a partition and a
world; it has no layout unit and never halts (R459). -/
def agentOf (die part : Nat) (secure : Bool) : Requester := { ck := die * 192, ui := 9, unit := 10, part := part, secure := secure }

/-- R421: whether an access of a die's MC at an address is a non-secure one to a secure frame. -/
def State.mcBlocked (s : State) (die a : Nat) : Bool := !s.pkg.world.mcw.getLsbD die && s.secureFrame (a / 65536)

/-- A read by the MC of a die: R421 gives 0 and counts it where the world forbids it. -/
def mcRead (die a n : Nat) (s : State) : Nat × State :=
  if s.mcBlocked die a then (0, countPkg 3 1 s) else ((physRead a n s).1, (physRead a n s).2.2)

/-- A write by the MC of a die. -/
def mcWrite (die a n v : Nat) (s : State) : State := if s.mcBlocked die a then countPkg 3 1 s else physWrite a n v s

/-! ### The arm queues (R366, R367) -/

/-- The key of the next entry of an arm queue, through the flat pointer ARMQ_BASE; none where it does not translate, and the
entry is held (log 33: DESIGN CHOICE). -/
def armqKey (die p : Nat) (s : State) : Option Nat × State :=
  let m := s.mcSet die p
  match runOp (flatKey (agentOf die p ((s.part p).active.ctl.getLsbD 62)) (m.base.toNat + 16 * m.head) 16 2) s with
  | (.ok key, t) => (some key, t)
  | (.error (.halt _), t) => (none, t)
  | (.error _, _) => (none, s)

/-- R444: whether an arm queue's next entry has no route to its place. -/
def armqBeyond (die p : Nat) (s : State) : Bool :=
  let m := s.mcSet die p
  decide (m.base ≠ 0 ∧ (m.head + 1) % 12288 ≠ m.tail) &&
  match runOp (flatKey (agentOf die p ((s.part p).active.ctl.getLsbD 62)) (m.base.toNat + 16 * m.head) 16 2) s with
  | (.error (.halt h), _) => decide (h.why = 4)
  | _ => false

/-- Whether a queue's next entry has a place: HEAD would not reach TAIL, and the entry's address translates. -/
def armqFree (die p : Nat) (s : State) : Bool :=
  let m := s.mcSet die p
  decide ((m.head + 1) % 12288 ≠ m.tail) && (armqKey die p s).1.isSome

/-- Whether an event that posts to a queue may happen: the queue takes its entry, or the die has none (R366). -/
def armqRoom (die p : Nat) (s : State) : Bool :=
  let m := s.mcSet die p
  decide (m.base = 0) || (m.held.isEmpty && armqFree die p s)

/-- An entry that waits at its place in the queue: its access to a tile on the move pulls it (R432, R436). -/
def armqPull (die p : Nat) (s : State) : State :=
  let m := s.mcSet die p
  if m.base = 0 ∨ (m.head + 1) % 12288 = m.tail then s else (armqKey die p s).2

/-- Whether a waiting entry's tile is still to be pulled. -/
def armqPulls (die p : Nat) (s : State) : Bool := decide ((armqPull die p s).parts ≠ s.parts)

/-- Writes an arm-queue entry at HEAD (R367). -/
def armqWrite (die p : Nat) (e : BitVec 128) (s : State) : State :=
  match armqKey die p s with
  | (none, t) => t
  | (some key, t) =>
    let t := if homeKind key = 0 ∧ t.mcBlocked die key then countPkg 3 1 t else t.cleanWrite key 16 e.toNat false
    t.modMc die p fun m => { m with head := (m.head + 1) % 12288 }

/-- Posts an arm-queue entry: held while the queue is full, with the VF whose doorbell then waits; a die without a queue takes
none (R366, R367). -/
def postArmq (die p : Nat) (e : BitVec 128) (who : Option Nat) (s : State) : State :=
  if (s.mcSet die p).base = 0 then s
  else if armqRoom die p s then armqWrite die p e s
  else
    let s := (armqPull die p s).modMc die p fun m => { m with held := m.held ++ [(e, who)] }
    match who with
    | some v => s.modVf v fun x => { x with armBusy := true }
    | none => s

/-- An arm-queue entry (R367). -/
def armqEntry (kind status who linst count variant dcoord src : Nat) : BitVec 128 :=
  BitVec.ofNat 128 (kind + status * 2 ^ 8 + who % 65536 * 2 ^ 16 + linst % 2 ^ 32 * 2 ^ 32 + count % 2 ^ 32 * 2 ^ 64
    + variant * 2 ^ 96 + dcoord % 256 * 2 ^ 104 + src * 2 ^ 112)

/-- Posts an outcome of a context (RETIRED, HALTED, BINDFAIL, FAULTED) to its die's queue. -/
def postSlot (core slot kind status count part linst : Nat) (s : State) : State :=
  postArmq (core / 48) part (armqEntry kind status (whoOf (core % 48) slot) linst count 0 0 (core / 48)) none s

/-! ### Launch records (R363) -/

/-- The address of a record of a partition's pool (R408). (log 13: DEDUCED) -/
def lrAddr (s : State) (part i : Nat) : Nat := (s.part part).active.lrpool.toNat / 2 ^ 20 * 2 ^ 20 + 256 * i

def lrCtl (r : Nat) : Nat := fieldOf r 0x20 4
def lrBuilt (r : Nat) : Bool := lrCtl r % 2 = 1
def lrSecure (r : Nat) : Bool := lrCtl r / 4 % 2 = 1
def lrIntr (r : Nat) : Bool := lrCtl r / 8 % 2 = 1
def lrPatchBit (r f : Nat) : Bool := lrCtl r / 2 ^ (4 + f) % 2 = 1
def lrHome (r : Nat) : Nat := lrCtl r / 2 ^ 11 % 8
def lrDscope (r : Nat) : Nat := lrCtl r / 2 ^ 16 % 4 + 2
def lrArmed (r : Nat) : Bool := fieldOf r 0x88 1 % 2 = 1
def lrLinst (r : Nat) : Nat := fieldOf r 0x80 4
def lrCountOf (r : Nat) : Nat := fieldOf r 0x84 4
def lrVariant (r : Nat) : Nat := fieldOf r 0x88 1 / 2 % 8
def lrBuckets (r : Nat) : List Nat := ((List.range 8).map fun i => fieldOf r (0x30 + 4 * i) 4).takeWhile (· ≠ 0)

/-- R364, R143: `lr.patch` on a record that was read; answers the status and what to write (offset, bytes, value). -/
def lrPatchStatus (secure : Bool) (r f v : Nat) : Nat × Option (Nat × Nat × Nat) :=
  if ¬ lrBuilt r then (2, none)
  else if lrSecure r ∧ ¬ secure then (7, none)
  else if lrArmed r then (5, none)
  else if ¬ lrPatchBit r f ∨ (f ≠ 0 ∧ fieldOf r (0x68 + 4 * (f - 1)) 4 = 0) then (3, none)
  else if f = 0 then (if v % 64 ≠ 0 then (4, none) else (0, some (0x08, 8, v)))
  else if v = 0 ∨ fieldOf r (0x68 + 4 * (f - 1)) 4 < v then (4, none)
  else (0, some (0x50 + 4 * (f - 1), 4, v))

/-- R365: arming record `i` of a partition with a bucket count, as one action at the record's home, for the VF whose doorbell
asks, if one does; answers the status. -/
def armRecord (part : Nat) (secure : Bool) (src i count : Nat) (who : Option Nat) (s : State) : Nat × State :=
  if 4096 ≤ i then (1, s)
  else
    let a := lrAddr s part i
    let (r, _, s) := physRead a 256 s
    if ¬ lrBuilt r then (2, s)
    else if lrSecure r ∧ ¬ secure then (7, s)
    else if lrArmed r then (5, s)
    else match firstBucket count 0 (lrBuckets r) with
      | none => (6, s)
      | some v =>
        let inst := (s.part part).nextInst
        let s := s.modPart part fun p => { p with nextInst := if inst + 1 = 0 then 1 else inst + 1 }
        let s := physWrite (a + 0x80) 4 inst.toNat s
        let s := physWrite (a + 0x84) 4 (count % 2 ^ 32) s
        let s := physWrite (a + 0x88) 1 (1 + 2 * v + fieldOf r 0x88 1 / 16 * 16) s
        (0, postArmq (lrHome r) part (armqEntry 0 0 i inst.toNat count v 0 src) who s)

/-- Reads a record for a stream; a poisoned word stops the context (R448). -/
def lrGuard (ck part i : Nat) : Op Nat := do
  let s ← getS
  let a := lrAddr s part i
  let (r, p, s') := physRead a 256 s
  upd fun _ => s'
  memUeIf ck 0 a p
  pure r

/-- R141, R143. -/
def execLrPatch (sd sa sb field : Nat) : State → Host.Outcome State Fault Refusal :=
  run fun s => unitNext .sq false 0 (do
    let i := (sGet s sa).toNat
    if 4096 ≤ i then statusTo sd 1
    else
      let r ← lrGuard s.ck s.c.bind.part i
      let (st, w) := lrPatchStatus s.c.bind.secure r field (sGet s sb).toNat
      match w with
      | some (o, n, v) => upd (physWrite (lrAddr s s.c.bind.part i + o) n v)
      | none => pure ()
      statusTo sd st) s

/-- Whether a partition is frozen for migration (R428). -/
def State.frozen (s : State) (p : Nat) : Bool :=
  let m := (s.part p).ma
  m.source && (m.phase == .freezing || m.phase == .sending || m.phase == .serving || m.phase == .drained
    || m.phase == .released || m.phase == .held)

/-- R142: a release of every class at package scope, then the arm, which waits for room in the queue it posts to (R367). In a frozen
partition nothing is armed (R428), and no status of R143 says so: the word waits, to execute again at the resume (log 29: DEDUCED). -/
def execLrArm (sd sa sb : Nat) : State → Host.Outcome State Fault Refusal :=
  run fun s => unitNext .sq false 0 (do
    upd (release s.ck 2 allClasses)
    let i := (sGet s sa).toNat
    let r ← if i < 4096 then lrGuard s.ck s.c.bind.part i else pure 0
    let t ← getS
    let (st, t') := armRecord s.c.bind.part s.c.bind.secure (dieOf s.ck) i (sGet s sb).toNat none t
    if st = 0 ∧ (¬ armqRoom (lrHome r) s.c.bind.part t ∨ s.frozen s.c.bind.part) then
      upd (armqPull (lrHome r) s.c.bind.part)
      waitFor (.armq (lrHome r) s.c.bind.part)
    upd fun _ => t'
    statusTo sd st) s

/-! ### The host's doorbell and the firmware's posts -/

/-- The valid partition that a virtual function serves (R408). -/
def State.partOfVf (s : State) (v : Nat) : Option Nat :=
  (List.range 64).find? fun p => (s.part p).active.ctl.getLsbD 63 ∧ (s.part p).active.ctl.toNat % 128 = v ∧ v ≠ 0

/-- R415: one ARMDB write processed: counted in ARMST, unless its entry is held, when ARMST waits for it (R367). The host is a
non-secure armer (R420). (log 24: DEDUCED) -/
def armdbOne (vf p value : Nat) (s : State) : State :=
  let (st, s) := if s.frozen p then (8, s) else armRecord p false 0 (value % 4096) (value / 2 ^ 32) (some vf) s
  if (s.vf vf).armBusy then s else s.modVf vf fun v => { v with armSeq := v.armSeq + 1, armStatus := st }

/-- An ARMDB write; those behind one that waits keep their order. -/
def execArmdb (vf value : Nat) : State → Host.Outcome State Fault Refusal :=
  run fun s =>
    match s.partOfVf vf with
    | none => s
    | some p =>
      if value / 2 ^ 12 % 2 ^ 20 ≠ 0 then s
      else if (s.vf vf).armBusy then s.modVf vf fun v => { v with armWait := v.armWait ++ [value] }
      else armdbOne vf p value s

/-- The ARMDB writes that waited behind one whose entry has been written. -/
def armdbRest (vf p : Nat) : Nat → State → State
  | 0, s => s
  | n + 1, s =>
    match (s.vf vf).armWait with
    | [] => s
    | v :: r =>
      if (s.vf vf).armBusy then s
      else armdbRest vf p n (armdbOne vf p v (s.modVf vf fun x => { x with armWait := r }))

/-- R367: a held arm-queue entry is written once there is room, and a doorbell that waited for it is counted. -/
def execArmqEntryWrite (die part : Nat) : State → Host.Outcome State Fault Refusal :=
  run fun s =>
    match (s.mcSet die part).held with
    | [] => s
    | (e, who) :: r =>
      if armqFree die part s then
        let s := armqWrite die part e (s.modMc die part fun m => { m with held := r })
        match who with
        | none => s
        | some v =>
          armdbRest v part ((s.vf v).armWait.length + 1)
            (s.modVf v fun x => { x with armBusy := false, armSeq := x.armSeq + 1, armStatus := 0 })
      else armqPull die part s

/-- R366, R367: a POST of kind SUB (1) or SUBDONE (2) by the firmware of a die. -/
def post (die part value kind : Nat) (s : State) : State :=
  let i := value / 2 ^ 16 % 4096
  let (r, s) := mcRead die (lrAddr s part i) 256 s
  let dst := value / 16 % 8
  let inst := value / 2 ^ 32 % 2 ^ 32
  if kind = 1 then
    postArmq dst part (armqEntry 1 0 i inst (lrCountOf r) (lrVariant r) (value / 256 % 256) die) none s
  else postArmq dst part (armqEntry 2 (value / 2 ^ 28 % 16) i inst 0 0 0 die) none s

def execPostSub (die part value : Nat) : State → Host.Outcome State Fault Refusal := run (post die part value 1)
def execPostSubdone (die part value : Nat) : State → Host.Outcome State Fault Refusal := run (post die part value 2)

/-! ### Completion (R379) -/

/-- R379 step 2: the add to DONECTR, an atomic at DSCOPE of the home die: whether it failed, or why it waits (a tile on the
move, its ATS translation, a route). Its scope is checked as that of the die's first core (log 33: DESIGN CHOICE). -/
def doneAdd (die part : Nat) (secure : Bool) (ptr scope : Nat) (s : State) : Except Nat Bool × State :=
  let op : Op Unit := do
    let key ← flatKey (agentOf die part secure) ptr 8 4
    failIf (!covers scope (key / 128)) .scope
    let _ ← amoAt (die * 192) part key 8 0 1 0 0 scope
  match runOp op s with
  | (.ok _, t) => (.ok false, t)
  | (.error (.halt h), t) => if h.why = 0 ∨ h.why = 3 then (.ok true, s) else (.error h.why, t)
  | (.error _, _) => (.ok true, s)

/-- The value that an LDONE write has for a record (R366). -/
def ldoneValue (i lstatus linst : Nat) : Nat := i + lstatus * 4096 + linst * 2 ^ 32

/-- A pending LDONE of a die's set: `why` it waits, or nothing once it does not. -/
def putLdone (die part value : Nat) (why : Option Nat) : State → State :=
  State.modMc die part fun m => { m with
    ldones := (m.ldones.filter fun x => x.1 ≠ value) ++ (why.toList.map fun w => (value, w)) }

/-- R379: the completion of a launch: status, completion add, semaphore, interrupt, then ARMED := 0. While the add waits, the
steps after it wait too. -/
def completeLaunch (die part i lstatus : Nat) (s : State) : State :=
  let a := lrAddr s part i
  let (r, s) := mcRead die a 256 s
  let st := fieldOf r 0x88 1
  let value := ldoneValue i lstatus (lrLinst r)
  let s := mcWrite die (a + 0x88) 1 (st % 16 + lstatus * 16) s
  let ctr := fieldOf r 0x10 8
  match (if ctr = 0 then (.ok false, s) else doneAdd die part (lrSecure r) ctr (lrDscope r) s) with
  | (.error why, s) => putLdone die part value (some why) s
  | (.ok fail, s) =>
    let s := putLdone die part value none s
    let sem := fieldOf r 0x18 8
    let (ds, s) := if sem / 2 ^ 63 = 1 then
        deliverSignal part (lrSecure r) (sem % 2 ^ 32) (sem / 2 ^ 32 % 64) s
      else (fieldOf r 0x89 1 % 16, s)
    let s := mcWrite die (a + 0x89) 1 (ds + if fail then 16 else 0) s
    let s := if lrIntr r then raiseIrq part 0 (lrLinst r) s else s
    mcWrite die (a + 0x88) 1 (st / 2 % 8 * 2 + lstatus * 16) s

/-- R366, R379: a write whose instance is not the record's is ignored. -/
def execLdone (die part value : Nat) : State → Host.Outcome State Fault Refusal :=
  run fun s =>
    let i := value % 4096
    let (r, s) := mcRead die (lrAddr s part i) 256 s
    if lrLinst r ≠ value / 2 ^ 32 % 2 ^ 32 then putLdone die part value none s
    else completeLaunch die part i (value / 4096 % 16) s

/-- Whether a pending LDONE goes on: its add no longer waits, or its record has another instance. -/
def ldoneReady (die part value : Nat) (s : State) : Bool :=
  let (r, s) := mcRead die (lrAddr s part (value % 4096)) 256 s
  decide (lrLinst r ≠ value / 2 ^ 32 % 2 ^ 32) || decide (fieldOf r 0x10 8 = 0)
    || match (doneAdd die part (lrSecure r) (fieldOf r 0x10 8) (lrDscope r) s).1 with
      | .ok _ => true
      | .error _ => false

/-- R434: whether a pending LDONE's add meets a tile that it has still to pull. -/
def ldonePulls (die part value : Nat) (s : State) : Bool :=
  let (r, s) := mcRead die (lrAddr s part (value % 4096)) 256 s
  decide ((doneAdd die part (lrSecure r) (fieldOf r 0x10 8) (lrDscope r) s).2.parts ≠ s.parts)

end Sys2Proof.Machine
end

