-- ==== Sys2Proof/WellFormed.lean ====
section
/-!
DEFINITION. Which instructions are legal: every field holds a value of its width, and no field holds a reserved code
(R94, R96 and the rules of each format). A word decodes exactly to the well-formed instructions of its stream.
-/
namespace Sys2Proof

/-- Bytes of an element of type code `t` of R158. -/
def etypeBytes (t : Nat) : Nat := if t ≤ 2 then 4 else if t ≤ 6 then 2 else 1

/-- The legal type and part codes of `vcvt` (R179). -/
def cvtOk (st dt part : Nat) : Bool :=
  decide (st ≤ 10) && decide (dt ≤ 10) &&
    decide (part < max (etypeBytes st) (etypeBytes dt) / min (etypeBytes st) (etypeBytes dt))

/-- The control registers ME can name (R201). -/
def meCsel (c : Nat) : Bool :=
  decide (c ∈ [2, 3, 4, 5, 7, 9, 10]) || decide (0x20 ≤ c ∧ c ≤ 0x23) || decide (0x28 ≤ c ∧ c ≤ 0x37) ||
    decide (0x38 ≤ c ∧ c ≤ 0x3B)

/-- The control registers ME can write (R201, R224). -/
def meCselW (c : Nat) : Bool :=
  decide (c ∈ [2, 3, 4, 5]) || decide (0x20 ≤ c ∧ c ≤ 0x23) || decide (0x28 ≤ c ∧ c ≤ 0x37)

/-- The legal instructions (R96). -/
def Instr.WellFormed : Instr → Prop
  | .add sd sa sb => sd < 32 ∧ sa < 32 ∧ sb < 32
  | .sub sd sa sb => sd < 32 ∧ sa < 32 ∧ sb < 32
  | .and sd sa sb => sd < 32 ∧ sa < 32 ∧ sb < 32
  | .or sd sa sb => sd < 32 ∧ sa < 32 ∧ sb < 32
  | .xor sd sa sb => sd < 32 ∧ sa < 32 ∧ sb < 32
  | .sll sd sa sb => sd < 32 ∧ sa < 32 ∧ sb < 32
  | .srl sd sa sb => sd < 32 ∧ sa < 32 ∧ sb < 32
  | .sra sd sa sb => sd < 32 ∧ sa < 32 ∧ sb < 32
  | .slt sd sa sb => sd < 32 ∧ sa < 32 ∧ sb < 32
  | .sltu sd sa sb => sd < 32 ∧ sa < 32 ∧ sb < 32
  | .min sd sa sb => sd < 32 ∧ sa < 32 ∧ sb < 32
  | .max sd sa sb => sd < 32 ∧ sa < 32 ∧ sb < 32
  | .minu sd sa sb => sd < 32 ∧ sa < 32 ∧ sb < 32
  | .maxu sd sa sb => sd < 32 ∧ sa < 32 ∧ sb < 32
  | .sextI8 sd sa => sd < 32 ∧ sa < 32
  | .sextI16 sd sa => sd < 32 ∧ sa < 32
  | .sextI32 sd sa => sd < 32 ∧ sa < 32
  | .zextN8 sd sa => sd < 32 ∧ sa < 32
  | .zextN16 sd sa => sd < 32 ∧ sa < 32
  | .zextN32 sd sa => sd < 32 ∧ sa < 32
  | .clz sd sa => sd < 32 ∧ sa < 32
  | .ctz sd sa => sd < 32 ∧ sa < 32
  | .popc sd sa => sd < 32 ∧ sa < 32
  | .mul sd sa sb => sd < 32 ∧ sa < 32 ∧ sb < 32
  | .mulh sd sa sb => sd < 32 ∧ sa < 32 ∧ sb < 32
  | .mulhu sd sa sb => sd < 32 ∧ sa < 32 ∧ sb < 32
  | .div sd sa sb => sd < 32 ∧ sa < 32 ∧ sb < 32
  | .divu sd sa sb => sd < 32 ∧ sa < 32 ∧ sb < 32
  | .rem sd sa sb => sd < 32 ∧ sa < 32 ∧ sb < 32
  | .remu sd sa sb => sd < 32 ∧ sa < 32 ∧ sb < 32
  | .addi sd sa imm => sd < 32 ∧ sa < 32 ∧ imm < 65536
  | .andi sd sa imm => sd < 32 ∧ sa < 32 ∧ imm < 65536
  | .ori sd sa imm => sd < 32 ∧ sa < 32 ∧ imm < 65536
  | .xori sd sa imm => sd < 32 ∧ sa < 32 ∧ imm < 65536
  | .slti sd sa imm => sd < 32 ∧ sa < 32 ∧ imm < 65536
  | .sltiu sd sa imm => sd < 32 ∧ sa < 32 ∧ imm < 65536
  | .slli sd sa sh => sd < 32 ∧ sa < 32 ∧ sh < 64
  | .srli sd sa sh => sd < 32 ∧ sa < 32 ∧ sh < 64
  | .srai sd sa sh => sd < 32 ∧ sa < 32 ∧ sh < 64
  | .lui sd imm => sd < 32 ∧ imm < 65536
  | .orhi sd sa imm => sd < 32 ∧ sa < 32 ∧ imm < 65536
  | .ld sd sa ty off => sd < 32 ∧ sa < 32 ∧ ty < 8 ∧ off < 8192
  | .st sv sa ty off => sv < 32 ∧ sa < 32 ∧ ty < 4 ∧ off < 8192
  | .ldx sd sa sb ty => sd < 32 ∧ sa < 32 ∧ sb < 32 ∧ ty < 8
  | .stx sv sa sb ty => sv < 32 ∧ sa < 32 ∧ sb < 32 ∧ ty < 4
  | .amoAdd sd sa sb w ord scope => sd < 32 ∧ sa < 32 ∧ sb < 32 ∧ w < 2 ∧ ord < 4 ∧ scope < 8 ∧ scope ≤ 4
  | .amoAnd sd sa sb w ord scope => sd < 32 ∧ sa < 32 ∧ sb < 32 ∧ w < 2 ∧ ord < 4 ∧ scope < 8 ∧ scope ≤ 4
  | .amoOr sd sa sb w ord scope => sd < 32 ∧ sa < 32 ∧ sb < 32 ∧ w < 2 ∧ ord < 4 ∧ scope < 8 ∧ scope ≤ 4
  | .amoXor sd sa sb w ord scope => sd < 32 ∧ sa < 32 ∧ sb < 32 ∧ w < 2 ∧ ord < 4 ∧ scope < 8 ∧ scope ≤ 4
  | .amoMin sd sa sb w ord scope => sd < 32 ∧ sa < 32 ∧ sb < 32 ∧ w < 2 ∧ ord < 4 ∧ scope < 8 ∧ scope ≤ 4
  | .amoMax sd sa sb w ord scope => sd < 32 ∧ sa < 32 ∧ sb < 32 ∧ w < 2 ∧ ord < 4 ∧ scope < 8 ∧ scope ≤ 4
  | .amoMinu sd sa sb w ord scope => sd < 32 ∧ sa < 32 ∧ sb < 32 ∧ w < 2 ∧ ord < 4 ∧ scope < 8 ∧ scope ≤ 4
  | .amoMaxu sd sa sb w ord scope => sd < 32 ∧ sa < 32 ∧ sb < 32 ∧ w < 2 ∧ ord < 4 ∧ scope < 8 ∧ scope ≤ 4
  | .amoSwap sd sa sb w ord scope => sd < 32 ∧ sa < 32 ∧ sb < 32 ∧ w < 2 ∧ ord < 4 ∧ scope < 8 ∧ scope ≤ 4
  | .amoCas sd sa sb w ord scope => sd < 32 ∧ sa < 32 ∧ sb < 32 ∧ w < 2 ∧ ord < 4 ∧ scope < 8 ∧ scope ≤ 4
  | .fenceC mask => mask < 65536
  | .fenceAcq scope mask => scope < 8 ∧ mask < 65536 ∧ scope ≤ 4
  | .fenceRel scope mask => scope < 8 ∧ mask < 65536 ∧ scope ≤ 4
  | .fenceAcqrel scope mask => scope < 8 ∧ mask < 65536 ∧ scope ≤ 4
  | .sqSemSig scope sem => scope < 8 ∧ sem < 64 ∧ scope ≤ 2
  | .sqSemWait scope sem => scope < 8 ∧ sem < 64 ∧ scope ≤ 2
  | .semSigr sa sd sem => sa < 32 ∧ sd < 32 ∧ sem < 64
  | .sqTlWait tl sa => tl < 8 ∧ sa < 32
  | .tlRd tl sd => tl < 8 ∧ sd < 32
  | .tlRdi tl sd => tl < 8 ∧ sd < 32
  | .tlErr tl sd => tl < 8 ∧ sd < 32
  | .sqBarInit sa sb => sa < 32 ∧ sb < 32
  | .sqBarWait sa sd => sa < 32 ∧ sd < 32
  | .rinv sa sb => sa < 32 ∧ sb < 32
  | .beq sa sb off => sa < 32 ∧ sb < 32 ∧ off < 65536
  | .bne sa sb off => sa < 32 ∧ sb < 32 ∧ off < 65536
  | .blt sa sb off => sa < 32 ∧ sb < 32 ∧ off < 65536
  | .bge sa sb off => sa < 32 ∧ sb < 32 ∧ off < 65536
  | .bltu sa sb off => sa < 32 ∧ sb < 32 ∧ off < 65536
  | .bgeu sa sb off => sa < 32 ∧ sb < 32 ∧ off < 65536
  | .jal sd off => sd < 32 ∧ off < 524288
  | .jalr sd sa off => sd < 32 ∧ sa < 32 ∧ off < 16384
  | .jtab sd sa off => sd < 32 ∧ sa < 32 ∧ off < 16384
  | .sqLbr lev off => lev < 8 ∧ off < 65536 ∧ lev ≤ 5
  | .cbPub sd sa sb => sd < 32 ∧ sa < 32 ∧ sb < 32
  | .cbPin sd sa sb => sd < 32 ∧ sa < 32 ∧ sb < 32
  | .cbUnpin sd sa sb => sd < 32 ∧ sa < 32 ∧ sb < 32
  | .lrPatch sd sa sb field => sd < 32 ∧ sa < 32 ∧ sb < 32 ∧ field < 64 ∧ field ≤ 6
  | .lrArm sd sa sb => sd < 32 ∧ sa < 32 ∧ sb < 32
  | .asgWr sa rsel => sa < 32 ∧ rsel < 16 ∧ rsel ≤ 3
  | .asgRd sd rsel => sd < 32 ∧ rsel < 16 ∧ rsel ≤ 5
  | .asgPget sd sa => sd < 32 ∧ sa < 32
  | .asgPput sa sb => sa < 32 ∧ sb < 32
  | .asgPfill sa => sa < 32
  | .asgRun sd sa => sd < 32 ∧ sa < 32
  | .asgPld sd sa sb => sd < 32 ∧ sa < 32 ∧ sb < 32
  | .asgPst sd sa sb => sd < 32 ∧ sa < 32 ∧ sb < 32
  | .cxCopy sd sa cx => sd < 32 ∧ sa < 32 ∧ cx < 4
  | .cxProg sd cx => sd < 32 ∧ cx < 4
  | .sqCrRd sd csel => sd < 32 ∧ csel < 256 ∧ csel ∈ [1, 2, 3, 4, 5, 6, 7, 8, 9, 10]
  | .sqCrWr sa csel => sa < 32 ∧ csel < 256 ∧ csel ∈ [1, 2, 3, 4, 5, 6]
  | .sqTrap code => code < 65536
  | .sqEnd => True
  | .sqYield => True
  | .lcRd sd lev => sd < 32 ∧ lev < 8 ∧ lev ≤ 5
  | .lcIt sd lev => sd < 32 ∧ lev < 8 ∧ lev ≤ 5
  | .pfxImm imm => imm < 1048576
  | .pfxOrd cls ord scope => cls < 16 ∧ ord < 8 ∧ scope < 8 ∧ ord ≤ 3 ∧ scope ≤ 4 ∧ (ord ≠ 0 ∨ scope = 0)
  | .vadd stop vd va vb pg => stop < 2 ∧ vd < 128 ∧ va < 128 ∧ vb < 128 ∧ pg < 16
  | .vsub stop vd va vb pg => stop < 2 ∧ vd < 128 ∧ va < 128 ∧ vb < 128 ∧ pg < 16
  | .vmul stop vd va vb pg => stop < 2 ∧ vd < 128 ∧ va < 128 ∧ vb < 128 ∧ pg < 16
  | .vfma stop vd va vb pg => stop < 2 ∧ vd < 128 ∧ va < 128 ∧ vb < 128 ∧ pg < 16
  | .vfmaR stop vd va vb pg => stop < 2 ∧ vd < 128 ∧ va < 128 ∧ vb < 128 ∧ pg < 16
  | .vfms stop vd va vb pg => stop < 2 ∧ vd < 128 ∧ va < 128 ∧ vb < 128 ∧ pg < 16
  | .vfmsR stop vd va vb pg => stop < 2 ∧ vd < 128 ∧ va < 128 ∧ vb < 128 ∧ pg < 16
  | .vmin stop vd va vb pg => stop < 2 ∧ vd < 128 ∧ va < 128 ∧ vb < 128 ∧ pg < 16
  | .vmax stop vd va vb pg => stop < 2 ∧ vd < 128 ∧ va < 128 ∧ vb < 128 ∧ pg < 16
  | .vand stop vd va vb pg => stop < 2 ∧ vd < 128 ∧ va < 128 ∧ vb < 128 ∧ pg < 16
  | .vor stop vd va vb pg => stop < 2 ∧ vd < 128 ∧ va < 128 ∧ vb < 128 ∧ pg < 16
  | .vxor stop vd va vb pg => stop < 2 ∧ vd < 128 ∧ va < 128 ∧ vb < 128 ∧ pg < 16
  | .vshl stop vd va vb pg => stop < 2 ∧ vd < 128 ∧ va < 128 ∧ vb < 128 ∧ pg < 16
  | .vshr stop vd va vb pg => stop < 2 ∧ vd < 128 ∧ va < 128 ∧ vb < 128 ∧ pg < 16
  | .vqadd stop vd va vb pg => stop < 2 ∧ vd < 128 ∧ va < 128 ∧ vb < 128 ∧ pg < 16
  | .vqsub stop vd va vb pg => stop < 2 ∧ vd < 128 ∧ va < 128 ∧ vb < 128 ∧ pg < 16
  | .vsel stop vd va vb pg => stop < 2 ∧ vd < 128 ∧ va < 128 ∧ vb < 128 ∧ pg < 16
  | .vcmpEq stop pd va vb pg => stop < 2 ∧ pd < 16 ∧ va < 128 ∧ vb < 128 ∧ pg < 16
  | .vcmpNe stop pd va vb pg => stop < 2 ∧ pd < 16 ∧ va < 128 ∧ vb < 128 ∧ pg < 16
  | .vcmpLt stop pd va vb pg => stop < 2 ∧ pd < 16 ∧ va < 128 ∧ vb < 128 ∧ pg < 16
  | .vcmpLe stop pd va vb pg => stop < 2 ∧ pd < 16 ∧ va < 128 ∧ vb < 128 ∧ pg < 16
  | .vcmpGt stop pd va vb pg => stop < 2 ∧ pd < 16 ∧ va < 128 ∧ vb < 128 ∧ pg < 16
  | .vcmpGe stop pd va vb pg => stop < 2 ∧ pd < 16 ∧ va < 128 ∧ vb < 128 ∧ pg < 16
  | .vcmpUnord stop pd va vb pg => stop < 2 ∧ pd < 16 ∧ va < 128 ∧ vb < 128 ∧ pg < 16
  | .vaddVs stop vd va ar pg => stop < 2 ∧ vd < 128 ∧ va < 128 ∧ ar < 16 ∧ pg < 16
  | .vsubVs stop vd va ar pg => stop < 2 ∧ vd < 128 ∧ va < 128 ∧ ar < 16 ∧ pg < 16
  | .vmulVs stop vd va ar pg => stop < 2 ∧ vd < 128 ∧ va < 128 ∧ ar < 16 ∧ pg < 16
  | .vminVs stop vd va ar pg => stop < 2 ∧ vd < 128 ∧ va < 128 ∧ ar < 16 ∧ pg < 16
  | .vmaxVs stop vd va ar pg => stop < 2 ∧ vd < 128 ∧ va < 128 ∧ ar < 16 ∧ pg < 16
  | .vfmaVs stop vd va ar pg => stop < 2 ∧ vd < 128 ∧ va < 128 ∧ ar < 16 ∧ pg < 16
  | .vrsub stop vd va ar pg => stop < 2 ∧ vd < 128 ∧ va < 128 ∧ ar < 16 ∧ pg < 16
  | .vbcast stop vd ar pg => stop < 2 ∧ vd < 128 ∧ ar < 16 ∧ pg < 16
  | .vmov stop vd va pg => stop < 2 ∧ vd < 128 ∧ va < 128 ∧ pg < 16
  | .vneg stop vd va pg => stop < 2 ∧ vd < 128 ∧ va < 128 ∧ pg < 16
  | .vabs stop vd va pg => stop < 2 ∧ vd < 128 ∧ va < 128 ∧ pg < 16
  | .vnot stop vd va pg => stop < 2 ∧ vd < 128 ∧ va < 128 ∧ pg < 16
  | .vclz stop vd va pg => stop < 2 ∧ vd < 128 ∧ va < 128 ∧ pg < 16
  | .vpopc stop vd va pg => stop < 2 ∧ vd < 128 ∧ va < 128 ∧ pg < 16
  | .vrnd stop vd va pg => stop < 2 ∧ vd < 128 ∧ va < 128 ∧ pg < 16
  | .vcvt stop vd va sty dty part => stop < 2 ∧ vd < 128 ∧ va < 128 ∧ sty < 16 ∧ dty < 16 ∧ part < 4 ∧ cvtOk sty dty part = true
  | .vrcp stop vd va pg => stop < 2 ∧ vd < 128 ∧ va < 128 ∧ pg < 16
  | .vrsqrt stop vd va pg => stop < 2 ∧ vd < 128 ∧ va < 128 ∧ pg < 16
  | .vsqrt stop vd va pg => stop < 2 ∧ vd < 128 ∧ va < 128 ∧ pg < 16
  | .vexp2 stop vd va pg => stop < 2 ∧ vd < 128 ∧ va < 128 ∧ pg < 16
  | .vlog2 stop vd va pg => stop < 2 ∧ vd < 128 ∧ va < 128 ∧ pg < 16
  | .vexp stop vd va pg => stop < 2 ∧ vd < 128 ∧ va < 128 ∧ pg < 16
  | .vtanh stop vd va pg => stop < 2 ∧ vd < 128 ∧ va < 128 ∧ pg < 16
  | .vsigm stop vd va pg => stop < 2 ∧ vd < 128 ∧ va < 128 ∧ pg < 16
  | .vdiv stop vd va vb pg => stop < 2 ∧ vd < 128 ∧ va < 128 ∧ vb < 128 ∧ pg < 16
  | .vredSum stop ad va pg => stop < 2 ∧ ad < 16 ∧ va < 128 ∧ pg < 16
  | .vredMin stop ad va pg => stop < 2 ∧ ad < 16 ∧ va < 128 ∧ pg < 16
  | .vredMax stop ad va pg => stop < 2 ∧ ad < 16 ∧ va < 128 ∧ pg < 16
  | .vredAnd stop ad va pg => stop < 2 ∧ ad < 16 ∧ va < 128 ∧ pg < 16
  | .vredOr stop ad va pg => stop < 2 ∧ ad < 16 ∧ va < 128 ∧ pg < 16
  | .vredXor stop ad va pg => stop < 2 ∧ ad < 16 ∧ va < 128 ∧ pg < 16
  | .vperm stop vd va vb pg => stop < 2 ∧ vd < 128 ∧ va < 128 ∧ vb < 128 ∧ pg < 16
  | .vcompress stop vd va ad pg => stop < 2 ∧ vd < 128 ∧ va < 128 ∧ ad < 16 ∧ pg < 16
  | .vexpand stop vd va pg => stop < 2 ∧ vd < 128 ∧ va < 128 ∧ pg < 16
  | .vslup stop vd va ar pg => stop < 2 ∧ vd < 128 ∧ va < 128 ∧ ar < 16 ∧ pg < 16
  | .vsldn stop vd va ar pg => stop < 2 ∧ vd < 128 ∧ va < 128 ∧ ar < 16 ∧ pg < 16
  | .vbcastl stop vd va ar pg => stop < 2 ∧ vd < 128 ∧ va < 128 ∧ ar < 16 ∧ pg < 16
  | .vext stop ad va ar => stop < 2 ∧ ad < 16 ∧ va < 128 ∧ ar < 16
  | .vins stop vd av ar => stop < 2 ∧ vd < 128 ∧ av < 16 ∧ ar < 16
  | .vld stop vd ab off => stop < 2 ∧ vd < 128 ∧ ab < 16 ∧ off < 16384
  | .vst stop va ab off => stop < 2 ∧ va < 128 ∧ ab < 16 ∧ off < 16384
  | .vldx stop vd ab vb pg => stop < 2 ∧ vd < 128 ∧ ab < 16 ∧ vb < 128 ∧ pg < 16
  | .vstp stop va ab pg => stop < 2 ∧ va < 128 ∧ ab < 16 ∧ pg < 16
  | .vstx stop va ab vb pg => stop < 2 ∧ va < 128 ∧ ab < 16 ∧ vb < 128 ∧ pg < 16
  | .pand stop pd pa pb => stop < 2 ∧ pd < 16 ∧ pa < 16 ∧ pb < 16
  | .por stop pd pa pb => stop < 2 ∧ pd < 16 ∧ pa < 16 ∧ pb < 16
  | .pxor stop pd pa pb => stop < 2 ∧ pd < 16 ∧ pa < 16 ∧ pb < 16
  | .pandn stop pd pa pb => stop < 2 ∧ pd < 16 ∧ pa < 16 ∧ pb < 16
  | .pnot stop pd pa => stop < 2 ∧ pd < 16 ∧ pa < 16
  | .pset stop pd => stop < 2 ∧ pd < 16
  | .pclr stop pd => stop < 2 ∧ pd < 16
  | .pmov stop pd pa => stop < 2 ∧ pd < 16 ∧ pa < 16
  | .pcount stop ad pa => stop < 2 ∧ ad < 16 ∧ pa < 16
  | .pfirst stop ad pa => stop < 2 ∧ ad < 16 ∧ pa < 16
  | .pwhile stop ad pa => stop < 2 ∧ ad < 16 ∧ pa < 16
  | .veCrRd stop ar csel => stop < 2 ∧ ar < 16 ∧ csel < 256 ∧ csel ∈ [2, 3, 4, 5, 7, 9, 10, 16, 17, 18]
  | .veCrRdHi stop ar csel => stop < 2 ∧ ar < 16 ∧ csel < 256 ∧ csel ∈ [2, 3, 4, 5, 7, 9, 10, 16, 17, 18]
  | .veCrWr stop ar csel => stop < 2 ∧ ar < 16 ∧ csel < 256 ∧ csel ∈ [2, 3, 4, 5, 16, 17, 18]
  | .veLbr stop lev off => stop < 2 ∧ lev < 8 ∧ off < 65536 ∧ lev ≤ 5
  | .veSemSig stop sem => stop < 2 ∧ sem < 64
  | .veSemWait stop sem => stop < 2 ∧ sem < 64
  | .veTlWait stop tl aa => stop < 2 ∧ tl < 8 ∧ aa < 16
  | .veEnd stop => stop < 2
  | .veTrap stop code => stop < 2 ∧ code < 65536
  | .veYield stop => stop < 2
  | .bz stop ar off => stop < 2 ∧ ar < 16 ∧ off < 65536
  | .bnz stop ar off => stop < 2 ∧ ar < 16 ∧ off < 65536
  | .aAdd stop ad aa ab => stop < 2 ∧ ad < 16 ∧ aa < 16 ∧ ab < 16
  | .aSub stop ad aa ab => stop < 2 ∧ ad < 16 ∧ aa < 16 ∧ ab < 16
  | .aMul stop ad aa ab => stop < 2 ∧ ad < 16 ∧ aa < 16 ∧ ab < 16
  | .aAnd stop ad aa ab => stop < 2 ∧ ad < 16 ∧ aa < 16 ∧ ab < 16
  | .aOr stop ad aa ab => stop < 2 ∧ ad < 16 ∧ aa < 16 ∧ ab < 16
  | .aXor stop ad aa ab => stop < 2 ∧ ad < 16 ∧ aa < 16 ∧ ab < 16
  | .aSll stop ad aa ab => stop < 2 ∧ ad < 16 ∧ aa < 16 ∧ ab < 16
  | .aSrl stop ad aa ab => stop < 2 ∧ ad < 16 ∧ aa < 16 ∧ ab < 16
  | .aSra stop ad aa ab => stop < 2 ∧ ad < 16 ∧ aa < 16 ∧ ab < 16
  | .aMin stop ad aa ab => stop < 2 ∧ ad < 16 ∧ aa < 16 ∧ ab < 16
  | .aMax stop ad aa ab => stop < 2 ∧ ad < 16 ∧ aa < 16 ∧ ab < 16
  | .aMinu stop ad aa ab => stop < 2 ∧ ad < 16 ∧ aa < 16 ∧ ab < 16
  | .aMaxu stop ad aa ab => stop < 2 ∧ ad < 16 ∧ aa < 16 ∧ ab < 16
  | .aSlt stop ad aa ab => stop < 2 ∧ ad < 16 ∧ aa < 16 ∧ ab < 16
  | .aSltu stop ad aa ab => stop < 2 ∧ ad < 16 ∧ aa < 16 ∧ ab < 16
  | .aLc stop ad lev => stop < 2 ∧ ad < 16 ∧ lev < 16 ∧ lev ≤ 5
  | .aIt stop ad lev => stop < 2 ∧ ad < 16 ∧ lev < 16 ∧ lev ≤ 5
  | .aAddi stop ad aa imm => stop < 2 ∧ ad < 16 ∧ aa < 16 ∧ imm < 65536
  | .aLui stop ad imm => stop < 2 ∧ ad < 16 ∧ imm < 65536
  | .mPass afmt asrc aga agc rowsM1 z stg => afmt < 8 ∧ asrc < 4 ∧ aga < 8 ∧ agc < 8 ∧ rowsM1 < 128 ∧ z < 2 ∧ stg < 4 ∧ afmt ≤ 6 ∧ asrc ≤ 2 ∧ (asrc = 0 ∨ aga = 0)
  | .mPassi afmt asrc aga agc rowsM1 z stg => afmt < 8 ∧ asrc < 4 ∧ aga < 8 ∧ agc < 8 ∧ rowsM1 < 128 ∧ z < 2 ∧ stg < 4 ∧ afmt ≤ 6 ∧ asrc ≤ 2 ∧ (asrc = 0 ∨ aga = 0)
  | .mGpass afmt asrc aga agg rowsM1 stg => afmt < 8 ∧ asrc < 4 ∧ aga < 8 ∧ agg < 8 ∧ rowsM1 < 128 ∧ stg < 4 ∧ afmt ≤ 6 ∧ asrc ≤ 2 ∧ (asrc = 0 ∨ aga = 0)
  | .gSum agg agi agc z rowsM1 stg => agg < 8 ∧ agi < 8 ∧ agc < 8 ∧ z < 2 ∧ rowsM1 < 256 ∧ stg < 4
  | .mConv afmt agp agc rowsM1 z stg tap => afmt < 8 ∧ agp < 8 ∧ agc < 8 ∧ rowsM1 < 64 ∧ z < 2 ∧ stg < 4 ∧ tap < 256 ∧ afmt ≤ 6
  | .mShape off => off < 65536
  | .mClr agc rowsM1 stg => agc < 8 ∧ rowsM1 < 128 ∧ stg < 4
  | .mTq sel off => sel < 4 ∧ off < 65536 ∧ sel ≤ 2
  | .mCrLd csel off => csel < 256 ∧ off < 65536 ∧ meCselW csel = true
  | .mCrSt csel off => csel < 256 ∧ off < 65536 ∧ meCsel csel = true
  | .mCrImm csel imm => csel < 256 ∧ imm < 65536 ∧ meCselW csel = true
  | .meSemSig sem => sem < 64
  | .meSemWait sem => sem < 64
  | .meTlWait tl inc => tl < 8 ∧ inc < 65536
  | .meLbr lev off => lev < 8 ∧ off < 65536 ∧ lev ≤ 5
  | .meEnd => True
  | .meTrap code => code < 65536
  | .meYield => True
  | .mB off => off < 65536
  | .xlLd h cc cbf rec cb fo bar => h < 16 ∧ cc < 16 ∧ cbf < 16 ∧ rec < 1024 ∧ cb < 2 ∧ fo < 2 ∧ bar < 2
  | .xlGather h cc cbf rec cb fo bar => h < 16 ∧ cc < 16 ∧ cbf < 16 ∧ rec < 1024 ∧ cb < 2 ∧ fo < 2 ∧ bar < 2
  | .xlGather8 h cc cbf rec cb bar => h < 16 ∧ cc < 16 ∧ cbf < 16 ∧ rec < 1024 ∧ cb < 2 ∧ bar < 2
  | .xlFeed h cc rec ff fo => h < 16 ∧ cc < 16 ∧ rec < 1024 ∧ ff < 2 ∧ fo < 2
  | .xlPlatenDense h cc cbf rec => h < 16 ∧ cc < 16 ∧ cbf < 16 ∧ rec < 1024
  | .xlPlatenCw h cc cbf rec => h < 16 ∧ cc < 16 ∧ cbf < 16 ∧ rec < 1024
  | .xlPlatenImage h cc cbf rec => h < 16 ∧ cc < 16 ∧ cbf < 16 ∧ rec < 1024
  | .xlCase h cc cbf => h < 16 ∧ cc < 16 ∧ cbf < 16
  | .xlCaseAuto h cc => h < 16 ∧ cc < 16
  | .xlExpand h cc cbf rec cb fo bar => h < 16 ∧ cc < 16 ∧ cbf < 16 ∧ rec < 1024 ∧ cb < 2 ∧ fo < 2 ∧ bar < 2
  | .xlExpandAuto h cc cbf rec cb fo bar => h < 16 ∧ cc < 16 ∧ cbf < 16 ∧ rec < 1024 ∧ cb < 2 ∧ fo < 2 ∧ bar < 2
  | .xlRoute h cc rec => h < 16 ∧ cc < 16 ∧ rec < 1024
  | .xlAcflush cc rec last => cc < 16 ∧ rec < 1024 ∧ last < 2
  | .xsSt h cc cbf rec cb => h < 16 ∧ cc < 16 ∧ cbf < 16 ∧ rec < 1024 ∧ cb < 2
  | .xsStash h cc cbf rec cb => h < 16 ∧ cc < 16 ∧ cbf < 16 ∧ rec < 1024 ∧ cb < 2
  | .xsTopk cc cbf rec merge => cc < 16 ∧ cbf < 16 ∧ rec < 1024 ∧ merge < 2
  | .xsUpd h cc cbf rec cbg => h < 16 ∧ cc < 16 ∧ cbf < 16 ∧ rec < 1024 ∧ cbg < 2
  | .xsScatter h cc cbf rec cb acc => h < 16 ∧ cc < 16 ∧ cbf < 16 ∧ rec < 1024 ∧ cb < 2 ∧ acc < 2
  | .xsReidx h cc cbf rec => h < 16 ∧ cc < 16 ∧ cbf < 16 ∧ rec < 1024
  | .xsRinv h cc rec => h < 16 ∧ cc < 16 ∧ rec < 1024
  | .xlsBarInit ca cb => ca < 16 ∧ cb < 16
  | .xlsBarWait cd ca => cd < 16 ∧ ca < 16
  | .xsColl h rec => h < 16 ∧ rec < 1024
  | .cAdd cd ca cb => cd < 16 ∧ ca < 16 ∧ cb < 16
  | .cSub cd ca cb => cd < 16 ∧ ca < 16 ∧ cb < 16
  | .cMul cd ca cb => cd < 16 ∧ ca < 16 ∧ cb < 16
  | .cAnd cd ca cb => cd < 16 ∧ ca < 16 ∧ cb < 16
  | .cOr cd ca cb => cd < 16 ∧ ca < 16 ∧ cb < 16
  | .cXor cd ca cb => cd < 16 ∧ ca < 16 ∧ cb < 16
  | .cSll cd ca cb => cd < 16 ∧ ca < 16 ∧ cb < 16
  | .cSrl cd ca cb => cd < 16 ∧ ca < 16 ∧ cb < 16
  | .cSra cd ca cb => cd < 16 ∧ ca < 16 ∧ cb < 16
  | .cMin cd ca cb => cd < 16 ∧ ca < 16 ∧ cb < 16
  | .cMax cd ca cb => cd < 16 ∧ ca < 16 ∧ cb < 16
  | .cMinu cd ca cb => cd < 16 ∧ ca < 16 ∧ cb < 16
  | .cMaxu cd ca cb => cd < 16 ∧ ca < 16 ∧ cb < 16
  | .cSlt cd ca cb => cd < 16 ∧ ca < 16 ∧ cb < 16
  | .cSltu cd ca cb => cd < 16 ∧ ca < 16 ∧ cb < 16
  | .cLc cd lev => cd < 16 ∧ lev < 16 ∧ lev ≤ 5
  | .cIt cd lev => cd < 16 ∧ lev < 16 ∧ lev ≤ 5
  | .hMv cd ca => cd < 16 ∧ ca < 16
  | .cHmv cd ca => cd < 16 ∧ ca < 16
  | .cAddi cd ca imm => cd < 16 ∧ ca < 16 ∧ imm < 65536
  | .cLui cd imm => cd < 16 ∧ imm < 65536
  | .hLi cd imm => cd < 16 ∧ imm < 65536
  | .cBeq ca cb off => ca < 16 ∧ cb < 16 ∧ off < 65536
  | .cBne ca cb off => ca < 16 ∧ cb < 16 ∧ off < 65536
  | .cBltu ca cb off => ca < 16 ∧ cb < 16 ∧ off < 65536
  | .cBgeu ca cb off => ca < 16 ∧ cb < 16 ∧ off < 65536
  | .xlsLbr lev off => lev < 8 ∧ off < 65536 ∧ lev ≤ 5
  | .xlsSemSig sem => sem < 64
  | .xlsSemWait sem => sem < 64
  | .xlsTlWait tl ca => tl < 8 ∧ ca < 16
  | .xlsCrRd cr csel => cr < 16 ∧ csel < 256 ∧ csel ∈ [1, 2, 3, 4, 5, 7, 9, 10]
  | .xlsCrRdHi cr csel => cr < 16 ∧ csel < 256 ∧ csel ∈ [1, 2, 3, 4, 5, 7, 9, 10]
  | .xlsCrWr cr csel => cr < 16 ∧ csel < 256 ∧ csel ∈ [1, 2, 3, 4, 5]
  | .xlsEnd => True
  | .xlsTrap code => code < 65536
  | .xlsYield => True
  | .sqLoadReturn core slot => core < 384 ∧ slot < 4
  | .waitSatisfied core slot stream => core < 384 ∧ slot < 4 ∧ stream < 5
  | .commandQueueRoom core slot stream => core < 384 ∧ slot < 4 ∧ stream < 5
  | .xlXsCommandComplete core slot _ _ => core < 384 ∧ slot < 4
  | .cxCopyComplete core slot _ _ => core < 384 ∧ slot < 4
  | .asgRunStart core slot => core < 384 ∧ slot < 4
  | .asgRound core slot => core < 384 ∧ slot < 4
  | .asgFinish core slot => core < 384 ∧ slot < 4
  | .asgPriceCommandComplete core slot => core < 384 ∧ slot < 4
  | .cleChunkMessage core slot _ _ _ _ _ _ => core < 384 ∧ slot < 4
  | .cleMemberTimeout core slot _ => core < 384 ∧ slot < 4
  | .cleCollectiveComplete core slot _ => core < 384 ∧ slot < 4
  | .streamRetire core slot stream => core < 384 ∧ slot < 4 ∧ stream < 5
  | .placementRetire core slot => core < 384 ∧ slot < 4
  | .l2Eviction die _ => die < 8
  | .caseFillGrant core slot _ => core < 384 ∧ slot < 4
  | .caseFillLanded core slot _ => core < 384 ∧ slot < 4
  | .caseScrub core _ _ => core < 384
  | .caseFillRechoose core slot _ => core < 384 ∧ slot < 4
  | .preemptRequest core slot => core < 384 ∧ slot < 4
  | .drainEnd core slot => core < 384 ∧ slot < 4
  | .drainBudgetExpired core slot => core < 384 ∧ slot < 4
  | .contextHalted core slot => core < 384 ∧ slot < 4
  | .pageFault core slot _ => core < 384 ∧ slot < 4
  | .pfqRoomAppend core slot _ => core < 384 ∧ slot < 4
  | .pfansOk part _ => part < 64
  | .pfansFail part _ => part < 64
  | .priResponse part _ _ => part < 64
  | .ttcinvTiles _ part _ _ _ => part < 64
  | .ttcinvTensor _ part _ => part < 64
  | .ttcinvPartition _ part => part < 64
  | .ttcinvDone _ part => part < 64
  | .atsInvalidate part _ _ => part < 64
  | .armdb vf _ => 0 < vf ∧ vf ≤ 64
  | .armqEntryWrite die part => die < 8 ∧ part < 64
  | .postSub die part _ => die < 8 ∧ part < 64
  | .postSubdone die part _ => die < 8 ∧ part < 64
  | .ldone die part _ => die < 8 ∧ part < 64
  | .scmdValidate core _ => core < 384
  | .scmdCancel core _ => core < 384
  | .scmdPreempt core _ => core < 384
  | .scmdKill core _ => core < 384
  | .scmdStart core _ => core < 384
  | .bind core slot => core < 384 ∧ slot < 4
  | .resumeBind core slot => core < 384 ∧ slot < 4
  | .sliceExpiry core slot => core < 384 ∧ slot < 4
  | .layoutCheck _ => True
  | .layoutCommit _ => True
  | .layoutAbort => True
  | .shadowWrite _ _ _ => True
  | .quiesceDone => True
  | .layoutTick => True
  | .residentWrite vf _ => 0 < vf ∧ vf ≤ 64
  | .attreq vf _ => 0 < vf ∧ vf ≤ 64
  | .attestDone vf => 0 < vf ∧ vf ≤ 64
  | .powerOnReset _ _ => True
  | .bootgo _ => True
  | .maListen part => part < 64
  | .maFreeze part _ => part < 64
  | .maRelease part => part < 64
  | .maCancel part _ => part < 64
  | .freezeCleGraceExpiry part => part < 64
  | .freezeDone part => part < 64
  | .stateTransferDone part _ => part < 64
  | .pullReceived part _ _ => part < 64
  | .pushSelect part => part < 64
  | .pushFirstFlit part _ _ => part < 64
  | .tileLanded part _ _ _ _ => part < 64
  | .migrationAck part _ _ _ => part < 64
  | .transferFail part _ _ => part < 64
  | .pullTimeout part _ _ => part < 64
  | .redirectReceived core slot _ _ _ => core < 384 ∧ slot < 4
  | .hostDma _ _ _ => True
  | .peerRequest _ => True
  | .laneFail port _ => port < 36
  | .retrainDone port _ _ _ => port < 36
  | .flitCrcError port => port < 36
  | .pkgidWrite _ => True
  | .patrolScrub _ _ => True
  | .l2TagParity die _ _ => die < 8
  | .powerWindow _ => True
  | .registerWrite _ _ _ => True
  | .illegalInstruction _ => True
  | .sqMemoryResponse core slot => core < 384 ∧ slot < 4
  | .meStepComplete core slot => core < 384 ∧ slot < 4
  | .atsTranslationCompletion part _ _ _ => part < 64
  | .powerOff => True
  | .peerPortRetrain port _ => port < 36

/-- Legality is decidable, field by field. -/
def Instr.wf : Instr → Bool
  | .add sd sa sb => decide (sd < 32 ∧ sa < 32 ∧ sb < 32)
  | .sub sd sa sb => decide (sd < 32 ∧ sa < 32 ∧ sb < 32)
  | .and sd sa sb => decide (sd < 32 ∧ sa < 32 ∧ sb < 32)
  | .or sd sa sb => decide (sd < 32 ∧ sa < 32 ∧ sb < 32)
  | .xor sd sa sb => decide (sd < 32 ∧ sa < 32 ∧ sb < 32)
  | .sll sd sa sb => decide (sd < 32 ∧ sa < 32 ∧ sb < 32)
  | .srl sd sa sb => decide (sd < 32 ∧ sa < 32 ∧ sb < 32)
  | .sra sd sa sb => decide (sd < 32 ∧ sa < 32 ∧ sb < 32)
  | .slt sd sa sb => decide (sd < 32 ∧ sa < 32 ∧ sb < 32)
  | .sltu sd sa sb => decide (sd < 32 ∧ sa < 32 ∧ sb < 32)
  | .min sd sa sb => decide (sd < 32 ∧ sa < 32 ∧ sb < 32)
  | .max sd sa sb => decide (sd < 32 ∧ sa < 32 ∧ sb < 32)
  | .minu sd sa sb => decide (sd < 32 ∧ sa < 32 ∧ sb < 32)
  | .maxu sd sa sb => decide (sd < 32 ∧ sa < 32 ∧ sb < 32)
  | .sextI8 sd sa => decide (sd < 32 ∧ sa < 32)
  | .sextI16 sd sa => decide (sd < 32 ∧ sa < 32)
  | .sextI32 sd sa => decide (sd < 32 ∧ sa < 32)
  | .zextN8 sd sa => decide (sd < 32 ∧ sa < 32)
  | .zextN16 sd sa => decide (sd < 32 ∧ sa < 32)
  | .zextN32 sd sa => decide (sd < 32 ∧ sa < 32)
  | .clz sd sa => decide (sd < 32 ∧ sa < 32)
  | .ctz sd sa => decide (sd < 32 ∧ sa < 32)
  | .popc sd sa => decide (sd < 32 ∧ sa < 32)
  | .mul sd sa sb => decide (sd < 32 ∧ sa < 32 ∧ sb < 32)
  | .mulh sd sa sb => decide (sd < 32 ∧ sa < 32 ∧ sb < 32)
  | .mulhu sd sa sb => decide (sd < 32 ∧ sa < 32 ∧ sb < 32)
  | .div sd sa sb => decide (sd < 32 ∧ sa < 32 ∧ sb < 32)
  | .divu sd sa sb => decide (sd < 32 ∧ sa < 32 ∧ sb < 32)
  | .rem sd sa sb => decide (sd < 32 ∧ sa < 32 ∧ sb < 32)
  | .remu sd sa sb => decide (sd < 32 ∧ sa < 32 ∧ sb < 32)
  | .addi sd sa imm => decide (sd < 32 ∧ sa < 32 ∧ imm < 65536)
  | .andi sd sa imm => decide (sd < 32 ∧ sa < 32 ∧ imm < 65536)
  | .ori sd sa imm => decide (sd < 32 ∧ sa < 32 ∧ imm < 65536)
  | .xori sd sa imm => decide (sd < 32 ∧ sa < 32 ∧ imm < 65536)
  | .slti sd sa imm => decide (sd < 32 ∧ sa < 32 ∧ imm < 65536)
  | .sltiu sd sa imm => decide (sd < 32 ∧ sa < 32 ∧ imm < 65536)
  | .slli sd sa sh => decide (sd < 32 ∧ sa < 32 ∧ sh < 64)
  | .srli sd sa sh => decide (sd < 32 ∧ sa < 32 ∧ sh < 64)
  | .srai sd sa sh => decide (sd < 32 ∧ sa < 32 ∧ sh < 64)
  | .lui sd imm => decide (sd < 32 ∧ imm < 65536)
  | .orhi sd sa imm => decide (sd < 32 ∧ sa < 32 ∧ imm < 65536)
  | .ld sd sa ty off => decide (sd < 32 ∧ sa < 32 ∧ ty < 8 ∧ off < 8192)
  | .st sv sa ty off => decide (sv < 32 ∧ sa < 32 ∧ ty < 4 ∧ off < 8192)
  | .ldx sd sa sb ty => decide (sd < 32 ∧ sa < 32 ∧ sb < 32 ∧ ty < 8)
  | .stx sv sa sb ty => decide (sv < 32 ∧ sa < 32 ∧ sb < 32 ∧ ty < 4)
  | .amoAdd sd sa sb w ord scope => decide (sd < 32 ∧ sa < 32 ∧ sb < 32 ∧ w < 2 ∧ ord < 4 ∧ scope < 8 ∧ scope ≤ 4)
  | .amoAnd sd sa sb w ord scope => decide (sd < 32 ∧ sa < 32 ∧ sb < 32 ∧ w < 2 ∧ ord < 4 ∧ scope < 8 ∧ scope ≤ 4)
  | .amoOr sd sa sb w ord scope => decide (sd < 32 ∧ sa < 32 ∧ sb < 32 ∧ w < 2 ∧ ord < 4 ∧ scope < 8 ∧ scope ≤ 4)
  | .amoXor sd sa sb w ord scope => decide (sd < 32 ∧ sa < 32 ∧ sb < 32 ∧ w < 2 ∧ ord < 4 ∧ scope < 8 ∧ scope ≤ 4)
  | .amoMin sd sa sb w ord scope => decide (sd < 32 ∧ sa < 32 ∧ sb < 32 ∧ w < 2 ∧ ord < 4 ∧ scope < 8 ∧ scope ≤ 4)
  | .amoMax sd sa sb w ord scope => decide (sd < 32 ∧ sa < 32 ∧ sb < 32 ∧ w < 2 ∧ ord < 4 ∧ scope < 8 ∧ scope ≤ 4)
  | .amoMinu sd sa sb w ord scope => decide (sd < 32 ∧ sa < 32 ∧ sb < 32 ∧ w < 2 ∧ ord < 4 ∧ scope < 8 ∧ scope ≤ 4)
  | .amoMaxu sd sa sb w ord scope => decide (sd < 32 ∧ sa < 32 ∧ sb < 32 ∧ w < 2 ∧ ord < 4 ∧ scope < 8 ∧ scope ≤ 4)
  | .amoSwap sd sa sb w ord scope => decide (sd < 32 ∧ sa < 32 ∧ sb < 32 ∧ w < 2 ∧ ord < 4 ∧ scope < 8 ∧ scope ≤ 4)
  | .amoCas sd sa sb w ord scope => decide (sd < 32 ∧ sa < 32 ∧ sb < 32 ∧ w < 2 ∧ ord < 4 ∧ scope < 8 ∧ scope ≤ 4)
  | .fenceC mask => decide (mask < 65536)
  | .fenceAcq scope mask => decide (scope < 8 ∧ mask < 65536 ∧ scope ≤ 4)
  | .fenceRel scope mask => decide (scope < 8 ∧ mask < 65536 ∧ scope ≤ 4)
  | .fenceAcqrel scope mask => decide (scope < 8 ∧ mask < 65536 ∧ scope ≤ 4)
  | .sqSemSig scope sem => decide (scope < 8 ∧ sem < 64 ∧ scope ≤ 2)
  | .sqSemWait scope sem => decide (scope < 8 ∧ sem < 64 ∧ scope ≤ 2)
  | .semSigr sa sd sem => decide (sa < 32 ∧ sd < 32 ∧ sem < 64)
  | .sqTlWait tl sa => decide (tl < 8 ∧ sa < 32)
  | .tlRd tl sd => decide (tl < 8 ∧ sd < 32)
  | .tlRdi tl sd => decide (tl < 8 ∧ sd < 32)
  | .tlErr tl sd => decide (tl < 8 ∧ sd < 32)
  | .sqBarInit sa sb => decide (sa < 32 ∧ sb < 32)
  | .sqBarWait sa sd => decide (sa < 32 ∧ sd < 32)
  | .rinv sa sb => decide (sa < 32 ∧ sb < 32)
  | .beq sa sb off => decide (sa < 32 ∧ sb < 32 ∧ off < 65536)
  | .bne sa sb off => decide (sa < 32 ∧ sb < 32 ∧ off < 65536)
  | .blt sa sb off => decide (sa < 32 ∧ sb < 32 ∧ off < 65536)
  | .bge sa sb off => decide (sa < 32 ∧ sb < 32 ∧ off < 65536)
  | .bltu sa sb off => decide (sa < 32 ∧ sb < 32 ∧ off < 65536)
  | .bgeu sa sb off => decide (sa < 32 ∧ sb < 32 ∧ off < 65536)
  | .jal sd off => decide (sd < 32 ∧ off < 524288)
  | .jalr sd sa off => decide (sd < 32 ∧ sa < 32 ∧ off < 16384)
  | .jtab sd sa off => decide (sd < 32 ∧ sa < 32 ∧ off < 16384)
  | .sqLbr lev off => decide (lev < 8 ∧ off < 65536 ∧ lev ≤ 5)
  | .cbPub sd sa sb => decide (sd < 32 ∧ sa < 32 ∧ sb < 32)
  | .cbPin sd sa sb => decide (sd < 32 ∧ sa < 32 ∧ sb < 32)
  | .cbUnpin sd sa sb => decide (sd < 32 ∧ sa < 32 ∧ sb < 32)
  | .lrPatch sd sa sb field => decide (sd < 32 ∧ sa < 32 ∧ sb < 32 ∧ field < 64 ∧ field ≤ 6)
  | .lrArm sd sa sb => decide (sd < 32 ∧ sa < 32 ∧ sb < 32)
  | .asgWr sa rsel => decide (sa < 32 ∧ rsel < 16 ∧ rsel ≤ 3)
  | .asgRd sd rsel => decide (sd < 32 ∧ rsel < 16 ∧ rsel ≤ 5)
  | .asgPget sd sa => decide (sd < 32 ∧ sa < 32)
  | .asgPput sa sb => decide (sa < 32 ∧ sb < 32)
  | .asgPfill sa => decide (sa < 32)
  | .asgRun sd sa => decide (sd < 32 ∧ sa < 32)
  | .asgPld sd sa sb => decide (sd < 32 ∧ sa < 32 ∧ sb < 32)
  | .asgPst sd sa sb => decide (sd < 32 ∧ sa < 32 ∧ sb < 32)
  | .cxCopy sd sa cx => decide (sd < 32 ∧ sa < 32 ∧ cx < 4)
  | .cxProg sd cx => decide (sd < 32 ∧ cx < 4)
  | .sqCrRd sd csel => decide (sd < 32 ∧ csel < 256 ∧ csel ∈ [1, 2, 3, 4, 5, 6, 7, 8, 9, 10])
  | .sqCrWr sa csel => decide (sa < 32 ∧ csel < 256 ∧ csel ∈ [1, 2, 3, 4, 5, 6])
  | .sqTrap code => decide (code < 65536)
  | .sqEnd => true
  | .sqYield => true
  | .lcRd sd lev => decide (sd < 32 ∧ lev < 8 ∧ lev ≤ 5)
  | .lcIt sd lev => decide (sd < 32 ∧ lev < 8 ∧ lev ≤ 5)
  | .pfxImm imm => decide (imm < 1048576)
  | .pfxOrd cls ord scope => decide (cls < 16 ∧ ord < 8 ∧ scope < 8 ∧ ord ≤ 3 ∧ scope ≤ 4 ∧ (ord ≠ 0 ∨ scope = 0))
  | .vadd stop vd va vb pg => decide (stop < 2 ∧ vd < 128 ∧ va < 128 ∧ vb < 128 ∧ pg < 16)
  | .vsub stop vd va vb pg => decide (stop < 2 ∧ vd < 128 ∧ va < 128 ∧ vb < 128 ∧ pg < 16)
  | .vmul stop vd va vb pg => decide (stop < 2 ∧ vd < 128 ∧ va < 128 ∧ vb < 128 ∧ pg < 16)
  | .vfma stop vd va vb pg => decide (stop < 2 ∧ vd < 128 ∧ va < 128 ∧ vb < 128 ∧ pg < 16)
  | .vfmaR stop vd va vb pg => decide (stop < 2 ∧ vd < 128 ∧ va < 128 ∧ vb < 128 ∧ pg < 16)
  | .vfms stop vd va vb pg => decide (stop < 2 ∧ vd < 128 ∧ va < 128 ∧ vb < 128 ∧ pg < 16)
  | .vfmsR stop vd va vb pg => decide (stop < 2 ∧ vd < 128 ∧ va < 128 ∧ vb < 128 ∧ pg < 16)
  | .vmin stop vd va vb pg => decide (stop < 2 ∧ vd < 128 ∧ va < 128 ∧ vb < 128 ∧ pg < 16)
  | .vmax stop vd va vb pg => decide (stop < 2 ∧ vd < 128 ∧ va < 128 ∧ vb < 128 ∧ pg < 16)
  | .vand stop vd va vb pg => decide (stop < 2 ∧ vd < 128 ∧ va < 128 ∧ vb < 128 ∧ pg < 16)
  | .vor stop vd va vb pg => decide (stop < 2 ∧ vd < 128 ∧ va < 128 ∧ vb < 128 ∧ pg < 16)
  | .vxor stop vd va vb pg => decide (stop < 2 ∧ vd < 128 ∧ va < 128 ∧ vb < 128 ∧ pg < 16)
  | .vshl stop vd va vb pg => decide (stop < 2 ∧ vd < 128 ∧ va < 128 ∧ vb < 128 ∧ pg < 16)
  | .vshr stop vd va vb pg => decide (stop < 2 ∧ vd < 128 ∧ va < 128 ∧ vb < 128 ∧ pg < 16)
  | .vqadd stop vd va vb pg => decide (stop < 2 ∧ vd < 128 ∧ va < 128 ∧ vb < 128 ∧ pg < 16)
  | .vqsub stop vd va vb pg => decide (stop < 2 ∧ vd < 128 ∧ va < 128 ∧ vb < 128 ∧ pg < 16)
  | .vsel stop vd va vb pg => decide (stop < 2 ∧ vd < 128 ∧ va < 128 ∧ vb < 128 ∧ pg < 16)
  | .vcmpEq stop pd va vb pg => decide (stop < 2 ∧ pd < 16 ∧ va < 128 ∧ vb < 128 ∧ pg < 16)
  | .vcmpNe stop pd va vb pg => decide (stop < 2 ∧ pd < 16 ∧ va < 128 ∧ vb < 128 ∧ pg < 16)
  | .vcmpLt stop pd va vb pg => decide (stop < 2 ∧ pd < 16 ∧ va < 128 ∧ vb < 128 ∧ pg < 16)
  | .vcmpLe stop pd va vb pg => decide (stop < 2 ∧ pd < 16 ∧ va < 128 ∧ vb < 128 ∧ pg < 16)
  | .vcmpGt stop pd va vb pg => decide (stop < 2 ∧ pd < 16 ∧ va < 128 ∧ vb < 128 ∧ pg < 16)
  | .vcmpGe stop pd va vb pg => decide (stop < 2 ∧ pd < 16 ∧ va < 128 ∧ vb < 128 ∧ pg < 16)
  | .vcmpUnord stop pd va vb pg => decide (stop < 2 ∧ pd < 16 ∧ va < 128 ∧ vb < 128 ∧ pg < 16)
  | .vaddVs stop vd va ar pg => decide (stop < 2 ∧ vd < 128 ∧ va < 128 ∧ ar < 16 ∧ pg < 16)
  | .vsubVs stop vd va ar pg => decide (stop < 2 ∧ vd < 128 ∧ va < 128 ∧ ar < 16 ∧ pg < 16)
  | .vmulVs stop vd va ar pg => decide (stop < 2 ∧ vd < 128 ∧ va < 128 ∧ ar < 16 ∧ pg < 16)
  | .vminVs stop vd va ar pg => decide (stop < 2 ∧ vd < 128 ∧ va < 128 ∧ ar < 16 ∧ pg < 16)
  | .vmaxVs stop vd va ar pg => decide (stop < 2 ∧ vd < 128 ∧ va < 128 ∧ ar < 16 ∧ pg < 16)
  | .vfmaVs stop vd va ar pg => decide (stop < 2 ∧ vd < 128 ∧ va < 128 ∧ ar < 16 ∧ pg < 16)
  | .vrsub stop vd va ar pg => decide (stop < 2 ∧ vd < 128 ∧ va < 128 ∧ ar < 16 ∧ pg < 16)
  | .vbcast stop vd ar pg => decide (stop < 2 ∧ vd < 128 ∧ ar < 16 ∧ pg < 16)
  | .vmov stop vd va pg => decide (stop < 2 ∧ vd < 128 ∧ va < 128 ∧ pg < 16)
  | .vneg stop vd va pg => decide (stop < 2 ∧ vd < 128 ∧ va < 128 ∧ pg < 16)
  | .vabs stop vd va pg => decide (stop < 2 ∧ vd < 128 ∧ va < 128 ∧ pg < 16)
  | .vnot stop vd va pg => decide (stop < 2 ∧ vd < 128 ∧ va < 128 ∧ pg < 16)
  | .vclz stop vd va pg => decide (stop < 2 ∧ vd < 128 ∧ va < 128 ∧ pg < 16)
  | .vpopc stop vd va pg => decide (stop < 2 ∧ vd < 128 ∧ va < 128 ∧ pg < 16)
  | .vrnd stop vd va pg => decide (stop < 2 ∧ vd < 128 ∧ va < 128 ∧ pg < 16)
  | .vcvt stop vd va sty dty part => decide (stop < 2 ∧ vd < 128 ∧ va < 128 ∧ sty < 16 ∧ dty < 16 ∧ part < 4 ∧ cvtOk sty dty part = true)
  | .vrcp stop vd va pg => decide (stop < 2 ∧ vd < 128 ∧ va < 128 ∧ pg < 16)
  | .vrsqrt stop vd va pg => decide (stop < 2 ∧ vd < 128 ∧ va < 128 ∧ pg < 16)
  | .vsqrt stop vd va pg => decide (stop < 2 ∧ vd < 128 ∧ va < 128 ∧ pg < 16)
  | .vexp2 stop vd va pg => decide (stop < 2 ∧ vd < 128 ∧ va < 128 ∧ pg < 16)
  | .vlog2 stop vd va pg => decide (stop < 2 ∧ vd < 128 ∧ va < 128 ∧ pg < 16)
  | .vexp stop vd va pg => decide (stop < 2 ∧ vd < 128 ∧ va < 128 ∧ pg < 16)
  | .vtanh stop vd va pg => decide (stop < 2 ∧ vd < 128 ∧ va < 128 ∧ pg < 16)
  | .vsigm stop vd va pg => decide (stop < 2 ∧ vd < 128 ∧ va < 128 ∧ pg < 16)
  | .vdiv stop vd va vb pg => decide (stop < 2 ∧ vd < 128 ∧ va < 128 ∧ vb < 128 ∧ pg < 16)
  | .vredSum stop ad va pg => decide (stop < 2 ∧ ad < 16 ∧ va < 128 ∧ pg < 16)
  | .vredMin stop ad va pg => decide (stop < 2 ∧ ad < 16 ∧ va < 128 ∧ pg < 16)
  | .vredMax stop ad va pg => decide (stop < 2 ∧ ad < 16 ∧ va < 128 ∧ pg < 16)
  | .vredAnd stop ad va pg => decide (stop < 2 ∧ ad < 16 ∧ va < 128 ∧ pg < 16)
  | .vredOr stop ad va pg => decide (stop < 2 ∧ ad < 16 ∧ va < 128 ∧ pg < 16)
  | .vredXor stop ad va pg => decide (stop < 2 ∧ ad < 16 ∧ va < 128 ∧ pg < 16)
  | .vperm stop vd va vb pg => decide (stop < 2 ∧ vd < 128 ∧ va < 128 ∧ vb < 128 ∧ pg < 16)
  | .vcompress stop vd va ad pg => decide (stop < 2 ∧ vd < 128 ∧ va < 128 ∧ ad < 16 ∧ pg < 16)
  | .vexpand stop vd va pg => decide (stop < 2 ∧ vd < 128 ∧ va < 128 ∧ pg < 16)
  | .vslup stop vd va ar pg => decide (stop < 2 ∧ vd < 128 ∧ va < 128 ∧ ar < 16 ∧ pg < 16)
  | .vsldn stop vd va ar pg => decide (stop < 2 ∧ vd < 128 ∧ va < 128 ∧ ar < 16 ∧ pg < 16)
  | .vbcastl stop vd va ar pg => decide (stop < 2 ∧ vd < 128 ∧ va < 128 ∧ ar < 16 ∧ pg < 16)
  | .vext stop ad va ar => decide (stop < 2 ∧ ad < 16 ∧ va < 128 ∧ ar < 16)
  | .vins stop vd av ar => decide (stop < 2 ∧ vd < 128 ∧ av < 16 ∧ ar < 16)
  | .vld stop vd ab off => decide (stop < 2 ∧ vd < 128 ∧ ab < 16 ∧ off < 16384)
  | .vst stop va ab off => decide (stop < 2 ∧ va < 128 ∧ ab < 16 ∧ off < 16384)
  | .vldx stop vd ab vb pg => decide (stop < 2 ∧ vd < 128 ∧ ab < 16 ∧ vb < 128 ∧ pg < 16)
  | .vstp stop va ab pg => decide (stop < 2 ∧ va < 128 ∧ ab < 16 ∧ pg < 16)
  | .vstx stop va ab vb pg => decide (stop < 2 ∧ va < 128 ∧ ab < 16 ∧ vb < 128 ∧ pg < 16)
  | .pand stop pd pa pb => decide (stop < 2 ∧ pd < 16 ∧ pa < 16 ∧ pb < 16)
  | .por stop pd pa pb => decide (stop < 2 ∧ pd < 16 ∧ pa < 16 ∧ pb < 16)
  | .pxor stop pd pa pb => decide (stop < 2 ∧ pd < 16 ∧ pa < 16 ∧ pb < 16)
  | .pandn stop pd pa pb => decide (stop < 2 ∧ pd < 16 ∧ pa < 16 ∧ pb < 16)
  | .pnot stop pd pa => decide (stop < 2 ∧ pd < 16 ∧ pa < 16)
  | .pset stop pd => decide (stop < 2 ∧ pd < 16)
  | .pclr stop pd => decide (stop < 2 ∧ pd < 16)
  | .pmov stop pd pa => decide (stop < 2 ∧ pd < 16 ∧ pa < 16)
  | .pcount stop ad pa => decide (stop < 2 ∧ ad < 16 ∧ pa < 16)
  | .pfirst stop ad pa => decide (stop < 2 ∧ ad < 16 ∧ pa < 16)
  | .pwhile stop ad pa => decide (stop < 2 ∧ ad < 16 ∧ pa < 16)
  | .veCrRd stop ar csel => decide (stop < 2 ∧ ar < 16 ∧ csel < 256 ∧ csel ∈ [2, 3, 4, 5, 7, 9, 10, 16, 17, 18])
  | .veCrRdHi stop ar csel => decide (stop < 2 ∧ ar < 16 ∧ csel < 256 ∧ csel ∈ [2, 3, 4, 5, 7, 9, 10, 16, 17, 18])
  | .veCrWr stop ar csel => decide (stop < 2 ∧ ar < 16 ∧ csel < 256 ∧ csel ∈ [2, 3, 4, 5, 16, 17, 18])
  | .veLbr stop lev off => decide (stop < 2 ∧ lev < 8 ∧ off < 65536 ∧ lev ≤ 5)
  | .veSemSig stop sem => decide (stop < 2 ∧ sem < 64)
  | .veSemWait stop sem => decide (stop < 2 ∧ sem < 64)
  | .veTlWait stop tl aa => decide (stop < 2 ∧ tl < 8 ∧ aa < 16)
  | .veEnd stop => decide (stop < 2)
  | .veTrap stop code => decide (stop < 2 ∧ code < 65536)
  | .veYield stop => decide (stop < 2)
  | .bz stop ar off => decide (stop < 2 ∧ ar < 16 ∧ off < 65536)
  | .bnz stop ar off => decide (stop < 2 ∧ ar < 16 ∧ off < 65536)
  | .aAdd stop ad aa ab => decide (stop < 2 ∧ ad < 16 ∧ aa < 16 ∧ ab < 16)
  | .aSub stop ad aa ab => decide (stop < 2 ∧ ad < 16 ∧ aa < 16 ∧ ab < 16)
  | .aMul stop ad aa ab => decide (stop < 2 ∧ ad < 16 ∧ aa < 16 ∧ ab < 16)
  | .aAnd stop ad aa ab => decide (stop < 2 ∧ ad < 16 ∧ aa < 16 ∧ ab < 16)
  | .aOr stop ad aa ab => decide (stop < 2 ∧ ad < 16 ∧ aa < 16 ∧ ab < 16)
  | .aXor stop ad aa ab => decide (stop < 2 ∧ ad < 16 ∧ aa < 16 ∧ ab < 16)
  | .aSll stop ad aa ab => decide (stop < 2 ∧ ad < 16 ∧ aa < 16 ∧ ab < 16)
  | .aSrl stop ad aa ab => decide (stop < 2 ∧ ad < 16 ∧ aa < 16 ∧ ab < 16)
  | .aSra stop ad aa ab => decide (stop < 2 ∧ ad < 16 ∧ aa < 16 ∧ ab < 16)
  | .aMin stop ad aa ab => decide (stop < 2 ∧ ad < 16 ∧ aa < 16 ∧ ab < 16)
  | .aMax stop ad aa ab => decide (stop < 2 ∧ ad < 16 ∧ aa < 16 ∧ ab < 16)
  | .aMinu stop ad aa ab => decide (stop < 2 ∧ ad < 16 ∧ aa < 16 ∧ ab < 16)
  | .aMaxu stop ad aa ab => decide (stop < 2 ∧ ad < 16 ∧ aa < 16 ∧ ab < 16)
  | .aSlt stop ad aa ab => decide (stop < 2 ∧ ad < 16 ∧ aa < 16 ∧ ab < 16)
  | .aSltu stop ad aa ab => decide (stop < 2 ∧ ad < 16 ∧ aa < 16 ∧ ab < 16)
  | .aLc stop ad lev => decide (stop < 2 ∧ ad < 16 ∧ lev < 16 ∧ lev ≤ 5)
  | .aIt stop ad lev => decide (stop < 2 ∧ ad < 16 ∧ lev < 16 ∧ lev ≤ 5)
  | .aAddi stop ad aa imm => decide (stop < 2 ∧ ad < 16 ∧ aa < 16 ∧ imm < 65536)
  | .aLui stop ad imm => decide (stop < 2 ∧ ad < 16 ∧ imm < 65536)
  | .mPass afmt asrc aga agc rowsM1 z stg => decide (afmt < 8 ∧ asrc < 4 ∧ aga < 8 ∧ agc < 8 ∧ rowsM1 < 128 ∧ z < 2 ∧ stg < 4 ∧ afmt ≤ 6 ∧ asrc ≤ 2 ∧ (asrc = 0 ∨ aga = 0))
  | .mPassi afmt asrc aga agc rowsM1 z stg => decide (afmt < 8 ∧ asrc < 4 ∧ aga < 8 ∧ agc < 8 ∧ rowsM1 < 128 ∧ z < 2 ∧ stg < 4 ∧ afmt ≤ 6 ∧ asrc ≤ 2 ∧ (asrc = 0 ∨ aga = 0))
  | .mGpass afmt asrc aga agg rowsM1 stg => decide (afmt < 8 ∧ asrc < 4 ∧ aga < 8 ∧ agg < 8 ∧ rowsM1 < 128 ∧ stg < 4 ∧ afmt ≤ 6 ∧ asrc ≤ 2 ∧ (asrc = 0 ∨ aga = 0))
  | .gSum agg agi agc z rowsM1 stg => decide (agg < 8 ∧ agi < 8 ∧ agc < 8 ∧ z < 2 ∧ rowsM1 < 256 ∧ stg < 4)
  | .mConv afmt agp agc rowsM1 z stg tap => decide (afmt < 8 ∧ agp < 8 ∧ agc < 8 ∧ rowsM1 < 64 ∧ z < 2 ∧ stg < 4 ∧ tap < 256 ∧ afmt ≤ 6)
  | .mShape off => decide (off < 65536)
  | .mClr agc rowsM1 stg => decide (agc < 8 ∧ rowsM1 < 128 ∧ stg < 4)
  | .mTq sel off => decide (sel < 4 ∧ off < 65536 ∧ sel ≤ 2)
  | .mCrLd csel off => decide (csel < 256 ∧ off < 65536 ∧ meCselW csel = true)
  | .mCrSt csel off => decide (csel < 256 ∧ off < 65536 ∧ meCsel csel = true)
  | .mCrImm csel imm => decide (csel < 256 ∧ imm < 65536 ∧ meCselW csel = true)
  | .meSemSig sem => decide (sem < 64)
  | .meSemWait sem => decide (sem < 64)
  | .meTlWait tl inc => decide (tl < 8 ∧ inc < 65536)
  | .meLbr lev off => decide (lev < 8 ∧ off < 65536 ∧ lev ≤ 5)
  | .meEnd => true
  | .meTrap code => decide (code < 65536)
  | .meYield => true
  | .mB off => decide (off < 65536)
  | .xlLd h cc cbf rec cb fo bar => decide (h < 16 ∧ cc < 16 ∧ cbf < 16 ∧ rec < 1024 ∧ cb < 2 ∧ fo < 2 ∧ bar < 2)
  | .xlGather h cc cbf rec cb fo bar => decide (h < 16 ∧ cc < 16 ∧ cbf < 16 ∧ rec < 1024 ∧ cb < 2 ∧ fo < 2 ∧ bar < 2)
  | .xlGather8 h cc cbf rec cb bar => decide (h < 16 ∧ cc < 16 ∧ cbf < 16 ∧ rec < 1024 ∧ cb < 2 ∧ bar < 2)
  | .xlFeed h cc rec ff fo => decide (h < 16 ∧ cc < 16 ∧ rec < 1024 ∧ ff < 2 ∧ fo < 2)
  | .xlPlatenDense h cc cbf rec => decide (h < 16 ∧ cc < 16 ∧ cbf < 16 ∧ rec < 1024)
  | .xlPlatenCw h cc cbf rec => decide (h < 16 ∧ cc < 16 ∧ cbf < 16 ∧ rec < 1024)
  | .xlPlatenImage h cc cbf rec => decide (h < 16 ∧ cc < 16 ∧ cbf < 16 ∧ rec < 1024)
  | .xlCase h cc cbf => decide (h < 16 ∧ cc < 16 ∧ cbf < 16)
  | .xlCaseAuto h cc => decide (h < 16 ∧ cc < 16)
  | .xlExpand h cc cbf rec cb fo bar => decide (h < 16 ∧ cc < 16 ∧ cbf < 16 ∧ rec < 1024 ∧ cb < 2 ∧ fo < 2 ∧ bar < 2)
  | .xlExpandAuto h cc cbf rec cb fo bar => decide (h < 16 ∧ cc < 16 ∧ cbf < 16 ∧ rec < 1024 ∧ cb < 2 ∧ fo < 2 ∧ bar < 2)
  | .xlRoute h cc rec => decide (h < 16 ∧ cc < 16 ∧ rec < 1024)
  | .xlAcflush cc rec last => decide (cc < 16 ∧ rec < 1024 ∧ last < 2)
  | .xsSt h cc cbf rec cb => decide (h < 16 ∧ cc < 16 ∧ cbf < 16 ∧ rec < 1024 ∧ cb < 2)
  | .xsStash h cc cbf rec cb => decide (h < 16 ∧ cc < 16 ∧ cbf < 16 ∧ rec < 1024 ∧ cb < 2)
  | .xsTopk cc cbf rec merge => decide (cc < 16 ∧ cbf < 16 ∧ rec < 1024 ∧ merge < 2)
  | .xsUpd h cc cbf rec cbg => decide (h < 16 ∧ cc < 16 ∧ cbf < 16 ∧ rec < 1024 ∧ cbg < 2)
  | .xsScatter h cc cbf rec cb acc => decide (h < 16 ∧ cc < 16 ∧ cbf < 16 ∧ rec < 1024 ∧ cb < 2 ∧ acc < 2)
  | .xsReidx h cc cbf rec => decide (h < 16 ∧ cc < 16 ∧ cbf < 16 ∧ rec < 1024)
  | .xsRinv h cc rec => decide (h < 16 ∧ cc < 16 ∧ rec < 1024)
  | .xlsBarInit ca cb => decide (ca < 16 ∧ cb < 16)
  | .xlsBarWait cd ca => decide (cd < 16 ∧ ca < 16)
  | .xsColl h rec => decide (h < 16 ∧ rec < 1024)
  | .cAdd cd ca cb => decide (cd < 16 ∧ ca < 16 ∧ cb < 16)
  | .cSub cd ca cb => decide (cd < 16 ∧ ca < 16 ∧ cb < 16)
  | .cMul cd ca cb => decide (cd < 16 ∧ ca < 16 ∧ cb < 16)
  | .cAnd cd ca cb => decide (cd < 16 ∧ ca < 16 ∧ cb < 16)
  | .cOr cd ca cb => decide (cd < 16 ∧ ca < 16 ∧ cb < 16)
  | .cXor cd ca cb => decide (cd < 16 ∧ ca < 16 ∧ cb < 16)
  | .cSll cd ca cb => decide (cd < 16 ∧ ca < 16 ∧ cb < 16)
  | .cSrl cd ca cb => decide (cd < 16 ∧ ca < 16 ∧ cb < 16)
  | .cSra cd ca cb => decide (cd < 16 ∧ ca < 16 ∧ cb < 16)
  | .cMin cd ca cb => decide (cd < 16 ∧ ca < 16 ∧ cb < 16)
  | .cMax cd ca cb => decide (cd < 16 ∧ ca < 16 ∧ cb < 16)
  | .cMinu cd ca cb => decide (cd < 16 ∧ ca < 16 ∧ cb < 16)
  | .cMaxu cd ca cb => decide (cd < 16 ∧ ca < 16 ∧ cb < 16)
  | .cSlt cd ca cb => decide (cd < 16 ∧ ca < 16 ∧ cb < 16)
  | .cSltu cd ca cb => decide (cd < 16 ∧ ca < 16 ∧ cb < 16)
  | .cLc cd lev => decide (cd < 16 ∧ lev < 16 ∧ lev ≤ 5)
  | .cIt cd lev => decide (cd < 16 ∧ lev < 16 ∧ lev ≤ 5)
  | .hMv cd ca => decide (cd < 16 ∧ ca < 16)
  | .cHmv cd ca => decide (cd < 16 ∧ ca < 16)
  | .cAddi cd ca imm => decide (cd < 16 ∧ ca < 16 ∧ imm < 65536)
  | .cLui cd imm => decide (cd < 16 ∧ imm < 65536)
  | .hLi cd imm => decide (cd < 16 ∧ imm < 65536)
  | .cBeq ca cb off => decide (ca < 16 ∧ cb < 16 ∧ off < 65536)
  | .cBne ca cb off => decide (ca < 16 ∧ cb < 16 ∧ off < 65536)
  | .cBltu ca cb off => decide (ca < 16 ∧ cb < 16 ∧ off < 65536)
  | .cBgeu ca cb off => decide (ca < 16 ∧ cb < 16 ∧ off < 65536)
  | .xlsLbr lev off => decide (lev < 8 ∧ off < 65536 ∧ lev ≤ 5)
  | .xlsSemSig sem => decide (sem < 64)
  | .xlsSemWait sem => decide (sem < 64)
  | .xlsTlWait tl ca => decide (tl < 8 ∧ ca < 16)
  | .xlsCrRd cr csel => decide (cr < 16 ∧ csel < 256 ∧ csel ∈ [1, 2, 3, 4, 5, 7, 9, 10])
  | .xlsCrRdHi cr csel => decide (cr < 16 ∧ csel < 256 ∧ csel ∈ [1, 2, 3, 4, 5, 7, 9, 10])
  | .xlsCrWr cr csel => decide (cr < 16 ∧ csel < 256 ∧ csel ∈ [1, 2, 3, 4, 5])
  | .xlsEnd => true
  | .xlsTrap code => decide (code < 65536)
  | .xlsYield => true
  | .sqLoadReturn core slot => decide (core < 384 ∧ slot < 4)
  | .waitSatisfied core slot stream => decide (core < 384 ∧ slot < 4 ∧ stream < 5)
  | .commandQueueRoom core slot stream => decide (core < 384 ∧ slot < 4 ∧ stream < 5)
  | .xlXsCommandComplete core slot _ _ => decide (core < 384 ∧ slot < 4)
  | .cxCopyComplete core slot _ _ => decide (core < 384 ∧ slot < 4)
  | .asgRunStart core slot => decide (core < 384 ∧ slot < 4)
  | .asgRound core slot => decide (core < 384 ∧ slot < 4)
  | .asgFinish core slot => decide (core < 384 ∧ slot < 4)
  | .asgPriceCommandComplete core slot => decide (core < 384 ∧ slot < 4)
  | .cleChunkMessage core slot _ _ _ _ _ _ => decide (core < 384 ∧ slot < 4)
  | .cleMemberTimeout core slot _ => decide (core < 384 ∧ slot < 4)
  | .cleCollectiveComplete core slot _ => decide (core < 384 ∧ slot < 4)
  | .streamRetire core slot stream => decide (core < 384 ∧ slot < 4 ∧ stream < 5)
  | .placementRetire core slot => decide (core < 384 ∧ slot < 4)
  | .l2Eviction die _ => decide (die < 8)
  | .caseFillGrant core slot _ => decide (core < 384 ∧ slot < 4)
  | .caseFillLanded core slot _ => decide (core < 384 ∧ slot < 4)
  | .caseScrub core _ _ => decide (core < 384)
  | .caseFillRechoose core slot _ => decide (core < 384 ∧ slot < 4)
  | .preemptRequest core slot => decide (core < 384 ∧ slot < 4)
  | .drainEnd core slot => decide (core < 384 ∧ slot < 4)
  | .drainBudgetExpired core slot => decide (core < 384 ∧ slot < 4)
  | .contextHalted core slot => decide (core < 384 ∧ slot < 4)
  | .pageFault core slot _ => decide (core < 384 ∧ slot < 4)
  | .pfqRoomAppend core slot _ => decide (core < 384 ∧ slot < 4)
  | .pfansOk part _ => decide (part < 64)
  | .pfansFail part _ => decide (part < 64)
  | .priResponse part _ _ => decide (part < 64)
  | .ttcinvTiles _ part _ _ _ => decide (part < 64)
  | .ttcinvTensor _ part _ => decide (part < 64)
  | .ttcinvPartition _ part => decide (part < 64)
  | .ttcinvDone _ part => decide (part < 64)
  | .atsInvalidate part _ _ => decide (part < 64)
  | .armdb vf _ => decide (0 < vf ∧ vf ≤ 64)
  | .armqEntryWrite die part => decide (die < 8 ∧ part < 64)
  | .postSub die part _ => decide (die < 8 ∧ part < 64)
  | .postSubdone die part _ => decide (die < 8 ∧ part < 64)
  | .ldone die part _ => decide (die < 8 ∧ part < 64)
  | .scmdValidate core _ => decide (core < 384)
  | .scmdCancel core _ => decide (core < 384)
  | .scmdPreempt core _ => decide (core < 384)
  | .scmdKill core _ => decide (core < 384)
  | .scmdStart core _ => decide (core < 384)
  | .bind core slot => decide (core < 384 ∧ slot < 4)
  | .resumeBind core slot => decide (core < 384 ∧ slot < 4)
  | .sliceExpiry core slot => decide (core < 384 ∧ slot < 4)
  | .layoutCheck _ => true
  | .layoutCommit _ => true
  | .layoutAbort => true
  | .shadowWrite _ _ _ => true
  | .quiesceDone => true
  | .layoutTick => true
  | .residentWrite vf _ => decide (0 < vf ∧ vf ≤ 64)
  | .attreq vf _ => decide (0 < vf ∧ vf ≤ 64)
  | .attestDone vf => decide (0 < vf ∧ vf ≤ 64)
  | .powerOnReset _ _ => true
  | .bootgo _ => true
  | .maListen part => decide (part < 64)
  | .maFreeze part _ => decide (part < 64)
  | .maRelease part => decide (part < 64)
  | .maCancel part _ => decide (part < 64)
  | .freezeCleGraceExpiry part => decide (part < 64)
  | .freezeDone part => decide (part < 64)
  | .stateTransferDone part _ => decide (part < 64)
  | .pullReceived part _ _ => decide (part < 64)
  | .pushSelect part => decide (part < 64)
  | .pushFirstFlit part _ _ => decide (part < 64)
  | .tileLanded part _ _ _ _ => decide (part < 64)
  | .migrationAck part _ _ _ => decide (part < 64)
  | .transferFail part _ _ => decide (part < 64)
  | .pullTimeout part _ _ => decide (part < 64)
  | .redirectReceived core slot _ _ _ => decide (core < 384 ∧ slot < 4)
  | .hostDma _ _ _ => true
  | .peerRequest _ => true
  | .laneFail port _ => decide (port < 36)
  | .retrainDone port _ _ _ => decide (port < 36)
  | .flitCrcError port => decide (port < 36)
  | .pkgidWrite _ => true
  | .patrolScrub _ _ => true
  | .l2TagParity die _ _ => decide (die < 8)
  | .powerWindow _ => true
  | .registerWrite _ _ _ => true
  | .illegalInstruction _ => true
  | .sqMemoryResponse core slot => decide (core < 384 ∧ slot < 4)
  | .meStepComplete core slot => decide (core < 384 ∧ slot < 4)
  | .atsTranslationCompletion part _ _ _ => decide (part < 64)
  | .powerOff => true
  | .peerPortRetrain port _ => decide (port < 36)

end Sys2Proof
end

