-- ==== Sys2Proof/Decode.lean ====
section
/-!
DEFINITION. The decoders of the five streams, total on every word, and the encoder. A stream decodes only its own map
(R95). The causes come in the order of R96: ILL_WORD, then ILL_OP (unassigned major or minor code), then ILL_RSV
(a reserved bit or a reserved code). Fields are read by division and remainder: bit 0 is the least significant (R4).
The decoders that build constructors numbered above 244 are marked noncomputable, because Lean's runtime gives a
constructor with fields no larger tag; the kernel evaluates them, and Machine/Fast.lean gives the compiled form.
-/
namespace Sys2Proof

/-- Major opcode 0x01: the minor code selects ADD, SUB, AND and others. -/
def decodeSq01 (w : Nat) : Except Cause Instr :=
  match w / 64 % 32 with
  | 0 => if w % 64 = 0 then .ok (.add (w / 2097152 % 32) (w / 65536 % 32) (w / 2048 % 32)) else .error .illRsv
  | 1 => if w % 64 = 0 then .ok (.sub (w / 2097152 % 32) (w / 65536 % 32) (w / 2048 % 32)) else .error .illRsv
  | 2 => if w % 64 = 0 then .ok (.and (w / 2097152 % 32) (w / 65536 % 32) (w / 2048 % 32)) else .error .illRsv
  | 3 => if w % 64 = 0 then .ok (.or (w / 2097152 % 32) (w / 65536 % 32) (w / 2048 % 32)) else .error .illRsv
  | 4 => if w % 64 = 0 then .ok (.xor (w / 2097152 % 32) (w / 65536 % 32) (w / 2048 % 32)) else .error .illRsv
  | 5 => if w % 64 = 0 then .ok (.sll (w / 2097152 % 32) (w / 65536 % 32) (w / 2048 % 32)) else .error .illRsv
  | 6 => if w % 64 = 0 then .ok (.srl (w / 2097152 % 32) (w / 65536 % 32) (w / 2048 % 32)) else .error .illRsv
  | 7 => if w % 64 = 0 then .ok (.sra (w / 2097152 % 32) (w / 65536 % 32) (w / 2048 % 32)) else .error .illRsv
  | 8 => if w % 64 = 0 then .ok (.slt (w / 2097152 % 32) (w / 65536 % 32) (w / 2048 % 32)) else .error .illRsv
  | 9 => if w % 64 = 0 then .ok (.sltu (w / 2097152 % 32) (w / 65536 % 32) (w / 2048 % 32)) else .error .illRsv
  | 10 => if w % 64 = 0 then .ok (.min (w / 2097152 % 32) (w / 65536 % 32) (w / 2048 % 32)) else .error .illRsv
  | 11 => if w % 64 = 0 then .ok (.max (w / 2097152 % 32) (w / 65536 % 32) (w / 2048 % 32)) else .error .illRsv
  | 12 => if w % 64 = 0 then .ok (.minu (w / 2097152 % 32) (w / 65536 % 32) (w / 2048 % 32)) else .error .illRsv
  | 13 => if w % 64 = 0 then .ok (.maxu (w / 2097152 % 32) (w / 65536 % 32) (w / 2048 % 32)) else .error .illRsv
  | 14 => if w / 2048 % 32 = 0 ∧ w % 64 = 0 then .ok (.sextI8 (w / 2097152 % 32) (w / 65536 % 32)) else .error .illRsv
  | 15 => if w / 2048 % 32 = 0 ∧ w % 64 = 0 then .ok (.sextI16 (w / 2097152 % 32) (w / 65536 % 32)) else .error .illRsv
  | 16 => if w / 2048 % 32 = 0 ∧ w % 64 = 0 then .ok (.sextI32 (w / 2097152 % 32) (w / 65536 % 32)) else .error .illRsv
  | 17 => if w / 2048 % 32 = 0 ∧ w % 64 = 0 then .ok (.zextN8 (w / 2097152 % 32) (w / 65536 % 32)) else .error .illRsv
  | 18 => if w / 2048 % 32 = 0 ∧ w % 64 = 0 then .ok (.zextN16 (w / 2097152 % 32) (w / 65536 % 32)) else .error .illRsv
  | 19 => if w / 2048 % 32 = 0 ∧ w % 64 = 0 then .ok (.zextN32 (w / 2097152 % 32) (w / 65536 % 32)) else .error .illRsv
  | 20 => if w / 2048 % 32 = 0 ∧ w % 64 = 0 then .ok (.clz (w / 2097152 % 32) (w / 65536 % 32)) else .error .illRsv
  | 21 => if w / 2048 % 32 = 0 ∧ w % 64 = 0 then .ok (.ctz (w / 2097152 % 32) (w / 65536 % 32)) else .error .illRsv
  | 22 => if w / 2048 % 32 = 0 ∧ w % 64 = 0 then .ok (.popc (w / 2097152 % 32) (w / 65536 % 32)) else .error .illRsv
  | _ => .error .illOp

/-- Major opcode 0x02: the minor code selects MUL, MULH, MULHU and others. -/
def decodeSq02 (w : Nat) : Except Cause Instr :=
  match w / 64 % 32 with
  | 0 => if w % 64 = 0 then .ok (.mul (w / 2097152 % 32) (w / 65536 % 32) (w / 2048 % 32)) else .error .illRsv
  | 1 => if w % 64 = 0 then .ok (.mulh (w / 2097152 % 32) (w / 65536 % 32) (w / 2048 % 32)) else .error .illRsv
  | 2 => if w % 64 = 0 then .ok (.mulhu (w / 2097152 % 32) (w / 65536 % 32) (w / 2048 % 32)) else .error .illRsv
  | 3 => if w % 64 = 0 then .ok (.div (w / 2097152 % 32) (w / 65536 % 32) (w / 2048 % 32)) else .error .illRsv
  | 4 => if w % 64 = 0 then .ok (.divu (w / 2097152 % 32) (w / 65536 % 32) (w / 2048 % 32)) else .error .illRsv
  | 5 => if w % 64 = 0 then .ok (.rem (w / 2097152 % 32) (w / 65536 % 32) (w / 2048 % 32)) else .error .illRsv
  | 6 => if w % 64 = 0 then .ok (.remu (w / 2097152 % 32) (w / 65536 % 32) (w / 2048 % 32)) else .error .illRsv
  | _ => .error .illOp

/-- Major opcode 0x09: the minor code selects SLLI, SRLI, SRAI. -/
def decodeSq09 (w : Nat) : Except Cause Instr :=
  match w / 16384 % 4 with
  | 0 => if w / 64 % 256 = 0 then .ok (.slli (w / 2097152 % 32) (w / 65536 % 32) (w % 64)) else .error .illRsv
  | 1 => if w / 64 % 256 = 0 then .ok (.srli (w / 2097152 % 32) (w / 65536 % 32) (w % 64)) else .error .illRsv
  | 2 => if w / 64 % 256 = 0 then .ok (.srai (w / 2097152 % 32) (w / 65536 % 32) (w % 64)) else .error .illRsv
  | _ => .error .illRsv

/-- Major opcode 0x18: the minor code selects AMO_ADD, AMO_AND, AMO_OR and others. -/
def decodeSq18 (w : Nat) : Except Cause Instr :=
  match w / 128 % 16 with
  | 0 => if w % 2 = 0 ∧ (w / 2 % 8) ≤ 4 then .ok (.amoAdd (w / 2097152 % 32) (w / 65536 % 32) (w / 2048 % 32) (w / 64 % 2) (w / 16 % 4) (w / 2 % 8)) else .error .illRsv
  | 1 => if w % 2 = 0 ∧ (w / 2 % 8) ≤ 4 then .ok (.amoAnd (w / 2097152 % 32) (w / 65536 % 32) (w / 2048 % 32) (w / 64 % 2) (w / 16 % 4) (w / 2 % 8)) else .error .illRsv
  | 2 => if w % 2 = 0 ∧ (w / 2 % 8) ≤ 4 then .ok (.amoOr (w / 2097152 % 32) (w / 65536 % 32) (w / 2048 % 32) (w / 64 % 2) (w / 16 % 4) (w / 2 % 8)) else .error .illRsv
  | 3 => if w % 2 = 0 ∧ (w / 2 % 8) ≤ 4 then .ok (.amoXor (w / 2097152 % 32) (w / 65536 % 32) (w / 2048 % 32) (w / 64 % 2) (w / 16 % 4) (w / 2 % 8)) else .error .illRsv
  | 4 => if w % 2 = 0 ∧ (w / 2 % 8) ≤ 4 then .ok (.amoMin (w / 2097152 % 32) (w / 65536 % 32) (w / 2048 % 32) (w / 64 % 2) (w / 16 % 4) (w / 2 % 8)) else .error .illRsv
  | 5 => if w % 2 = 0 ∧ (w / 2 % 8) ≤ 4 then .ok (.amoMax (w / 2097152 % 32) (w / 65536 % 32) (w / 2048 % 32) (w / 64 % 2) (w / 16 % 4) (w / 2 % 8)) else .error .illRsv
  | 6 => if w % 2 = 0 ∧ (w / 2 % 8) ≤ 4 then .ok (.amoMinu (w / 2097152 % 32) (w / 65536 % 32) (w / 2048 % 32) (w / 64 % 2) (w / 16 % 4) (w / 2 % 8)) else .error .illRsv
  | 7 => if w % 2 = 0 ∧ (w / 2 % 8) ≤ 4 then .ok (.amoMaxu (w / 2097152 % 32) (w / 65536 % 32) (w / 2048 % 32) (w / 64 % 2) (w / 16 % 4) (w / 2 % 8)) else .error .illRsv
  | 8 => if w % 2 = 0 ∧ (w / 2 % 8) ≤ 4 then .ok (.amoSwap (w / 2097152 % 32) (w / 65536 % 32) (w / 2048 % 32) (w / 64 % 2) (w / 16 % 4) (w / 2 % 8)) else .error .illRsv
  | _ => .error .illOp

/-- Major opcode 0x1C: the minor code selects FENCE_C, FENCE_ACQ, FENCE_REL and others. -/
def decodeSq1C (w : Nat) : Except Cause Instr :=
  match w / 1048576 % 4 with
  | 0 => if w / 4194304 % 16 = 0 ∧ w / 65536 % 16 = 0 then .ok (.fenceC (w % 65536)) else .error .illRsv
  | 1 => if w / 4194304 % 16 = 0 ∧ w / 65536 % 2 = 0 ∧ (w / 131072 % 8) ≤ 4 then .ok (.fenceAcq (w / 131072 % 8) (w % 65536)) else .error .illRsv
  | 2 => if w / 4194304 % 16 = 0 ∧ w / 65536 % 2 = 0 ∧ (w / 131072 % 8) ≤ 4 then .ok (.fenceRel (w / 131072 % 8) (w % 65536)) else .error .illRsv
  | 3 => if w / 4194304 % 16 = 0 ∧ w / 65536 % 2 = 0 ∧ (w / 131072 % 8) ≤ 4 then .ok (.fenceAcqrel (w / 131072 % 8) (w % 65536)) else .error .illRsv
  | _ => .error .illRsv

/-- Major opcode 0x1D: the minor code selects SQ_SEM_SIG, SQ_SEM_WAIT, SEM_SIGR. -/
def decodeSq1D (w : Nat) : Except Cause Instr :=
  match w / 16777216 % 4 with
  | 0 => if w / 64 % 32768 = 0 ∧ (w / 2097152 % 8) ≤ 2 then .ok (.sqSemSig (w / 2097152 % 8) (w % 64)) else .error .illRsv
  | 1 => if w / 64 % 32768 = 0 ∧ (w / 2097152 % 8) ≤ 2 then .ok (.sqSemWait (w / 2097152 % 8) (w % 64)) else .error .illRsv
  | 2 => if w / 2097152 % 8 = 0 ∧ w / 64 % 32 = 0 then .ok (.semSigr (w / 65536 % 32) (w / 2048 % 32) (w % 64)) else .error .illRsv
  | _ => .error .illRsv

/-- Major opcode 0x1E: the minor code selects SQ_TL_WAIT, TL_RD, TL_RDI and others. -/
def decodeSq1E (w : Nat) : Except Cause Instr :=
  match w / 16777216 % 4 with
  | 0 => if w % 65536 = 0 then .ok (.sqTlWait (w / 2097152 % 8) (w / 65536 % 32)) else .error .illRsv
  | 1 => if w / 65536 % 32 = 0 ∧ w % 2048 = 0 then .ok (.tlRd (w / 2097152 % 8) (w / 2048 % 32)) else .error .illRsv
  | 2 => if w / 65536 % 32 = 0 ∧ w % 2048 = 0 then .ok (.tlRdi (w / 2097152 % 8) (w / 2048 % 32)) else .error .illRsv
  | 3 => if w / 65536 % 32 = 0 ∧ w % 2048 = 0 then .ok (.tlErr (w / 2097152 % 8) (w / 2048 % 32)) else .error .illRsv
  | _ => .error .illRsv

/-- Major opcode 0x1F: the minor code selects SQ_BAR_INIT, SQ_BAR_WAIT, RINV. -/
def decodeSq1F (w : Nat) : Except Cause Instr :=
  match w / 16777216 % 4 with
  | 0 => if w / 2097152 % 8 = 0 ∧ w % 2048 = 0 then .ok (.sqBarInit (w / 65536 % 32) (w / 2048 % 32)) else .error .illRsv
  | 1 => if w / 2097152 % 8 = 0 ∧ w / 2048 % 32 = 0 ∧ w % 64 = 0 then .ok (.sqBarWait (w / 65536 % 32) (w / 64 % 32)) else .error .illRsv
  | 2 => if w / 2097152 % 8 = 0 ∧ w % 2048 = 0 then .ok (.rinv (w / 65536 % 32) (w / 2048 % 32)) else .error .illRsv
  | _ => .error .illRsv

/-- Major opcode 0x26: the minor code selects JAL, JALR, JTAB. -/
def decodeSq26 (w : Nat) : Except Cause Instr :=
  match w / 16777216 % 4 with
  | 0 => .ok (.jal (w / 524288 % 32) (w % 524288))
  | 1 => .ok (.jalr (w / 524288 % 32) (w / 16384 % 32) (w % 16384))
  | 2 => .ok (.jtab (w / 524288 % 32) (w / 16384 % 32) (w % 16384))
  | _ => .error .illRsv

/-- Major opcode 0x28: the minor code selects CB_PUB, CB_PIN, CB_UNPIN. -/
def decodeSq28 (w : Nat) : Except Cause Instr :=
  match w / 16777216 % 4 with
  | 0 => if w % 512 = 0 then .ok (.cbPub (w / 524288 % 32) (w / 16384 % 32) (w / 512 % 32)) else .error .illRsv
  | 1 => if w % 512 = 0 then .ok (.cbPin (w / 524288 % 32) (w / 16384 % 32) (w / 512 % 32)) else .error .illRsv
  | 2 => if w % 512 = 0 then .ok (.cbUnpin (w / 524288 % 32) (w / 16384 % 32) (w / 512 % 32)) else .error .illRsv
  | _ => .error .illRsv

/-- Major opcode 0x29: the minor code selects LR_PATCH, LR_ARM. -/
def decodeSq29 (w : Nat) : Except Cause Instr :=
  match w / 16777216 % 4 with
  | 0 => if w / 64 % 8 = 0 ∧ (w % 64) ≤ 6 then .ok (.lrPatch (w / 524288 % 32) (w / 16384 % 32) (w / 512 % 32) (w % 64)) else .error .illRsv
  | 1 => if w % 512 = 0 then .ok (.lrArm (w / 524288 % 32) (w / 16384 % 32) (w / 512 % 32)) else .error .illRsv
  | _ => .error .illRsv

/-- Major opcode 0x2C: the minor code selects ASG_WR, ASG_RD, ASG_PGET and others. -/
def decodeSq2C (w : Nat) : Except Cause Instr :=
  match w / 256 % 8 with
  | 0 => if w / 2097152 % 32 = 0 ∧ w / 2048 % 32 = 0 ∧ w % 16 = 0 ∧ (w / 16 % 16) ≤ 3 then .ok (.asgWr (w / 65536 % 32) (w / 16 % 16)) else .error .illRsv
  | 1 => if w / 2048 % 1024 = 0 ∧ w % 16 = 0 ∧ (w / 16 % 16) ≤ 5 then .ok (.asgRd (w / 2097152 % 32) (w / 16 % 16)) else .error .illRsv
  | 2 => if w / 2048 % 32 = 0 ∧ w % 256 = 0 then .ok (.asgPget (w / 2097152 % 32) (w / 65536 % 32)) else .error .illRsv
  | 3 => if w / 2097152 % 32 = 0 ∧ w % 256 = 0 then .ok (.asgPput (w / 65536 % 32) (w / 2048 % 32)) else .error .illRsv
  | 4 => if w / 2097152 % 32 = 0 ∧ w / 2048 % 32 = 0 ∧ w % 256 = 0 then .ok (.asgPfill (w / 65536 % 32)) else .error .illRsv
  | _ => .error .illOp

/-- Major opcode 0x2D: the minor code selects ASG_RUN, ASG_PLD, ASG_PST. -/
def decodeSq2D (w : Nat) : Except Cause Instr :=
  match w / 256 % 8 with
  | 0 => if w / 2048 % 32 = 0 ∧ w % 256 = 0 then .ok (.asgRun (w / 2097152 % 32) (w / 65536 % 32)) else .error .illRsv
  | 1 => if w % 256 = 0 then .ok (.asgPld (w / 2097152 % 32) (w / 65536 % 32) (w / 2048 % 32)) else .error .illRsv
  | 2 => if w % 256 = 0 then .ok (.asgPst (w / 2097152 % 32) (w / 65536 % 32) (w / 2048 % 32)) else .error .illRsv
  | _ => .error .illOp

/-- Major opcode 0x30: the minor code selects SQ_CR_RD, SQ_CR_WR. -/
def decodeSq30 (w : Nat) : Except Cause Instr :=
  match w / 33554432 % 2 with
  | 0 => if w % 4096 = 0 ∧ (w / 4096 % 256) ∈ [1, 2, 3, 4, 5, 6, 7, 8, 9, 10] then .ok (.sqCrRd (w / 1048576 % 32) (w / 4096 % 256)) else .error .illRsv
  | 1 => if w % 4096 = 0 ∧ (w / 4096 % 256) ∈ [1, 2, 3, 4, 5, 6] then .ok (.sqCrWr (w / 1048576 % 32) (w / 4096 % 256)) else .error .illRsv
  | _ => .error .illRsv

/-- Major opcode 0x34: the minor code selects LC_RD, LC_IT. -/
def decodeSq34 (w : Nat) : Except Cause Instr :=
  match w / 131072 % 2 with
  | 0 => if w % 131072 = 0 ∧ (w / 262144 % 8) ≤ 5 then .ok (.lcRd (w / 2097152 % 32) (w / 262144 % 8)) else .error .illRsv
  | 1 => if w % 131072 = 0 ∧ (w / 262144 % 8) ≤ 5 then .ok (.lcIt (w / 2097152 % 32) (w / 262144 % 8)) else .error .illRsv
  | _ => .error .illRsv

/-- Major opcode 0x3E: the minor code selects PFX_IMM, PFX_ORD. -/
def decodeSq3E (w : Nat) : Except Cause Instr :=
  match w / 16777216 % 4 with
  | 0 => if w / 1048576 % 16 = 0 then .ok (.pfxImm (w % 1048576)) else .error .illRsv
  | 1 => if w / 4096 % 4096 = 0 ∧ w % 4 = 0 ∧ (w / 32 % 8) ≤ 3 ∧ (w / 4 % 8) ≤ 4 ∧ ((w / 32 % 8) ≠ 0 ∨ (w / 4 % 8) = 0) then .ok (.pfxOrd (w / 256 % 16) (w / 32 % 8) (w / 4 % 8)) else .error .illRsv
  | _ => .error .illRsv

/-- The scalar sequencer (R109, R110). -/
def decodeSq (w : Nat) : Except Cause Instr :=
  if w = 0 ∨ w = 0xFFFFFFFF then .error .illWord else
  match w / 67108864 % 64 with
  | 0x01 => decodeSq01 w
  | 0x02 => decodeSq02 w
  | 0x03 => .ok (.addi (w / 2097152 % 32) (w / 65536 % 32) (w % 65536))
  | 0x04 => .ok (.andi (w / 2097152 % 32) (w / 65536 % 32) (w % 65536))
  | 0x05 => .ok (.ori (w / 2097152 % 32) (w / 65536 % 32) (w % 65536))
  | 0x06 => .ok (.xori (w / 2097152 % 32) (w / 65536 % 32) (w % 65536))
  | 0x07 => .ok (.slti (w / 2097152 % 32) (w / 65536 % 32) (w % 65536))
  | 0x08 => .ok (.sltiu (w / 2097152 % 32) (w / 65536 % 32) (w % 65536))
  | 0x09 => decodeSq09 w
  | 0x0A => if w / 65536 % 32 = 0 then .ok (.lui (w / 2097152 % 32) (w % 65536)) else .error .illRsv
  | 0x0B => .ok (.orhi (w / 2097152 % 32) (w / 65536 % 32) (w % 65536))
  | 0x10 => .ok (.ld (w / 2097152 % 32) (w / 65536 % 32) (w / 8192 % 8) (w % 8192))
  | 0x11 => if w / 32768 % 2 = 0 then .ok (.st (w / 2097152 % 32) (w / 65536 % 32) (w / 8192 % 4) (w % 8192)) else .error .illRsv
  | 0x12 => if w % 256 = 0 then .ok (.ldx (w / 2097152 % 32) (w / 65536 % 32) (w / 2048 % 32) (w / 256 % 8)) else .error .illRsv
  | 0x13 => if w / 1024 % 2 = 0 ∧ w % 256 = 0 then .ok (.stx (w / 2097152 % 32) (w / 65536 % 32) (w / 2048 % 32) (w / 256 % 4)) else .error .illRsv
  | 0x18 => decodeSq18 w
  | 0x19 => if w / 128 % 16 = 0 ∧ w % 2 = 0 ∧ (w / 2 % 8) ≤ 4 then .ok (.amoCas (w / 2097152 % 32) (w / 65536 % 32) (w / 2048 % 32) (w / 64 % 2) (w / 16 % 4) (w / 2 % 8)) else .error .illRsv
  | 0x1C => decodeSq1C w
  | 0x1D => decodeSq1D w
  | 0x1E => decodeSq1E w
  | 0x1F => decodeSq1F w
  | 0x20 => .ok (.beq (w / 2097152 % 32) (w / 65536 % 32) (w % 65536))
  | 0x21 => .ok (.bne (w / 2097152 % 32) (w / 65536 % 32) (w % 65536))
  | 0x22 => .ok (.blt (w / 2097152 % 32) (w / 65536 % 32) (w % 65536))
  | 0x23 => .ok (.bge (w / 2097152 % 32) (w / 65536 % 32) (w % 65536))
  | 0x24 => .ok (.bltu (w / 2097152 % 32) (w / 65536 % 32) (w % 65536))
  | 0x25 => .ok (.bgeu (w / 2097152 % 32) (w / 65536 % 32) (w % 65536))
  | 0x26 => decodeSq26 w
  | 0x27 => if w / 65536 % 128 = 0 ∧ (w / 8388608 % 8) ≤ 5 then .ok (.sqLbr (w / 8388608 % 8) (w % 65536)) else .error .illRsv
  | 0x28 => decodeSq28 w
  | 0x29 => decodeSq29 w
  | 0x2C => decodeSq2C w
  | 0x2D => decodeSq2D w
  | 0x2E => if w % 16384 = 0 then .ok (.cxCopy (w / 2097152 % 32) (w / 65536 % 32) (w / 16384 % 4)) else .error .illRsv
  | 0x2F => if w / 65536 % 32 = 0 ∧ w % 16384 = 0 then .ok (.cxProg (w / 2097152 % 32) (w / 16384 % 4)) else .error .illRsv
  | 0x30 => decodeSq30 w
  | 0x31 => if w / 65536 % 1024 = 0 then .ok (.sqTrap (w % 65536)) else .error .illRsv
  | 0x32 => if w % 67108864 = 0 then .ok (.sqEnd) else .error .illRsv
  | 0x33 => if w % 67108864 = 0 then .ok (.sqYield) else .error .illRsv
  | 0x34 => decodeSq34 w
  | 0x3E => decodeSq3E w
  | _ => .error .illOp

/-- Major opcode 0x12: the minor code selects VCMP_EQ, VCMP_NE, VCMP_LT and others. -/
def decodeVe12 (w : Nat) : Except Cause Instr :=
  match w / 262144 % 8 with
  | 0 => .ok (.vcmpEq (w / 2147483648 % 2) (w / 2097152 % 16) (w / 2048 % 128) (w / 16 % 128) (w % 16))
  | 1 => .ok (.vcmpNe (w / 2147483648 % 2) (w / 2097152 % 16) (w / 2048 % 128) (w / 16 % 128) (w % 16))
  | 2 => .ok (.vcmpLt (w / 2147483648 % 2) (w / 2097152 % 16) (w / 2048 % 128) (w / 16 % 128) (w % 16))
  | 3 => .ok (.vcmpLe (w / 2147483648 % 2) (w / 2097152 % 16) (w / 2048 % 128) (w / 16 % 128) (w % 16))
  | 4 => .ok (.vcmpGt (w / 2147483648 % 2) (w / 2097152 % 16) (w / 2048 % 128) (w / 16 % 128) (w % 16))
  | 5 => .ok (.vcmpGe (w / 2147483648 % 2) (w / 2097152 % 16) (w / 2048 % 128) (w / 16 % 128) (w % 16))
  | 6 => .ok (.vcmpUnord (w / 2147483648 % 2) (w / 2097152 % 16) (w / 2048 % 128) (w / 16 % 128) (w % 16))
  | _ => .error .illRsv

/-- Major opcode 0x13: the minor code selects VADD_VS, VSUB_VS, VMUL_VS and others. -/
def decodeVe13 (w : Nat) : Except Cause Instr :=
  match w / 16 % 8 with
  | 0 => .ok (.vaddVs (w / 2147483648 % 2) (w / 262144 % 128) (w / 2048 % 128) (w / 128 % 16) (w % 16))
  | 1 => .ok (.vsubVs (w / 2147483648 % 2) (w / 262144 % 128) (w / 2048 % 128) (w / 128 % 16) (w % 16))
  | 2 => .ok (.vmulVs (w / 2147483648 % 2) (w / 262144 % 128) (w / 2048 % 128) (w / 128 % 16) (w % 16))
  | 3 => .ok (.vminVs (w / 2147483648 % 2) (w / 262144 % 128) (w / 2048 % 128) (w / 128 % 16) (w % 16))
  | 4 => .ok (.vmaxVs (w / 2147483648 % 2) (w / 262144 % 128) (w / 2048 % 128) (w / 128 % 16) (w % 16))
  | 5 => .ok (.vfmaVs (w / 2147483648 % 2) (w / 262144 % 128) (w / 2048 % 128) (w / 128 % 16) (w % 16))
  | 6 => .ok (.vrsub (w / 2147483648 % 2) (w / 262144 % 128) (w / 2048 % 128) (w / 128 % 16) (w % 16))
  | 7 => if w / 2048 % 128 = 0 then .ok (.vbcast (w / 2147483648 % 2) (w / 262144 % 128) (w / 128 % 16) (w % 16)) else .error .illRsv
  | _ => .error .illOp

/-- Major opcode 0x14: the minor code selects VMOV, VNEG, VABS and others. -/
def decodeVe14 (w : Nat) : Except Cause Instr :=
  match w / 64 % 32 with
  | 0 => if w / 16 % 4 = 0 then .ok (.vmov (w / 2147483648 % 2) (w / 262144 % 128) (w / 2048 % 128) (w % 16)) else .error .illRsv
  | 1 => if w / 16 % 4 = 0 then .ok (.vneg (w / 2147483648 % 2) (w / 262144 % 128) (w / 2048 % 128) (w % 16)) else .error .illRsv
  | 2 => if w / 16 % 4 = 0 then .ok (.vabs (w / 2147483648 % 2) (w / 262144 % 128) (w / 2048 % 128) (w % 16)) else .error .illRsv
  | 3 => if w / 16 % 4 = 0 then .ok (.vnot (w / 2147483648 % 2) (w / 262144 % 128) (w / 2048 % 128) (w % 16)) else .error .illRsv
  | 4 => if w / 16 % 4 = 0 then .ok (.vclz (w / 2147483648 % 2) (w / 262144 % 128) (w / 2048 % 128) (w % 16)) else .error .illRsv
  | 5 => if w / 16 % 4 = 0 then .ok (.vpopc (w / 2147483648 % 2) (w / 262144 % 128) (w / 2048 % 128) (w % 16)) else .error .illRsv
  | 6 => if w / 16 % 4 = 0 then .ok (.vrnd (w / 2147483648 % 2) (w / 262144 % 128) (w / 2048 % 128) (w % 16)) else .error .illRsv
  | _ => .error .illOp

/-- Major opcode 0x20: the minor code selects VRCP, VRSQRT, VSQRT and others. -/
def decodeVe20 (w : Nat) : Except Cause Instr :=
  match w / 64 % 32 with
  | 0 => if w / 16 % 4 = 0 then .ok (.vrcp (w / 2147483648 % 2) (w / 262144 % 128) (w / 2048 % 128) (w % 16)) else .error .illRsv
  | 1 => if w / 16 % 4 = 0 then .ok (.vrsqrt (w / 2147483648 % 2) (w / 262144 % 128) (w / 2048 % 128) (w % 16)) else .error .illRsv
  | 2 => if w / 16 % 4 = 0 then .ok (.vsqrt (w / 2147483648 % 2) (w / 262144 % 128) (w / 2048 % 128) (w % 16)) else .error .illRsv
  | 3 => if w / 16 % 4 = 0 then .ok (.vexp2 (w / 2147483648 % 2) (w / 262144 % 128) (w / 2048 % 128) (w % 16)) else .error .illRsv
  | 4 => if w / 16 % 4 = 0 then .ok (.vlog2 (w / 2147483648 % 2) (w / 262144 % 128) (w / 2048 % 128) (w % 16)) else .error .illRsv
  | 5 => if w / 16 % 4 = 0 then .ok (.vexp (w / 2147483648 % 2) (w / 262144 % 128) (w / 2048 % 128) (w % 16)) else .error .illRsv
  | 6 => if w / 16 % 4 = 0 then .ok (.vtanh (w / 2147483648 % 2) (w / 262144 % 128) (w / 2048 % 128) (w % 16)) else .error .illRsv
  | 7 => if w / 16 % 4 = 0 then .ok (.vsigm (w / 2147483648 % 2) (w / 262144 % 128) (w / 2048 % 128) (w % 16)) else .error .illRsv
  | _ => .error .illOp

/-- Major opcode 0x22: the minor code selects VRED_SUM, VRED_MIN, VRED_MAX and others. -/
def decodeVe22 (w : Nat) : Except Cause Instr :=
  match w / 128 % 8 with
  | 0 => if w / 1024 % 16 = 0 ∧ w / 16 % 8 = 0 then .ok (.vredSum (w / 2147483648 % 2) (w / 2097152 % 16) (w / 16384 % 128) (w % 16)) else .error .illRsv
  | 1 => if w / 1024 % 16 = 0 ∧ w / 16 % 8 = 0 then .ok (.vredMin (w / 2147483648 % 2) (w / 2097152 % 16) (w / 16384 % 128) (w % 16)) else .error .illRsv
  | 2 => if w / 1024 % 16 = 0 ∧ w / 16 % 8 = 0 then .ok (.vredMax (w / 2147483648 % 2) (w / 2097152 % 16) (w / 16384 % 128) (w % 16)) else .error .illRsv
  | 3 => if w / 1024 % 16 = 0 ∧ w / 16 % 8 = 0 then .ok (.vredAnd (w / 2147483648 % 2) (w / 2097152 % 16) (w / 16384 % 128) (w % 16)) else .error .illRsv
  | 4 => if w / 1024 % 16 = 0 ∧ w / 16 % 8 = 0 then .ok (.vredOr (w / 2147483648 % 2) (w / 2097152 % 16) (w / 16384 % 128) (w % 16)) else .error .illRsv
  | 5 => if w / 1024 % 16 = 0 ∧ w / 16 % 8 = 0 then .ok (.vredXor (w / 2147483648 % 2) (w / 2097152 % 16) (w / 16384 % 128) (w % 16)) else .error .illRsv
  | _ => .error .illOp

/-- Major opcode 0x26: the minor code selects VSLUP, VSLDN, VBCASTL and others. -/
def decodeVe26 (w : Nat) : Except Cause Instr :=
  match w / 16 % 8 with
  | 0 => .ok (.vslup (w / 2147483648 % 2) (w / 262144 % 128) (w / 2048 % 128) (w / 128 % 16) (w % 16))
  | 1 => .ok (.vsldn (w / 2147483648 % 2) (w / 262144 % 128) (w / 2048 % 128) (w / 128 % 16) (w % 16))
  | 2 => .ok (.vbcastl (w / 2147483648 % 2) (w / 262144 % 128) (w / 2048 % 128) (w / 128 % 16) (w % 16))
  | 3 => if w / 4194304 % 8 = 0 ∧ w % 16 = 0 then .ok (.vext (w / 2147483648 % 2) (w / 262144 % 16) (w / 2048 % 128) (w / 128 % 16)) else .error .illRsv
  | 4 => if w / 2048 % 8 = 0 ∧ w % 16 = 0 then .ok (.vins (w / 2147483648 % 2) (w / 262144 % 128) (w / 16384 % 16) (w / 128 % 16)) else .error .illRsv
  | _ => .error .illOp

/-- Major opcode 0x34: the minor code selects PAND, POR, PXOR and others. -/
def decodeVe34 (w : Nat) : Except Cause Instr :=
  match w / 1024 % 8 with
  | 0 => if w % 1024 = 0 then .ok (.pand (w / 2147483648 % 2) (w / 2097152 % 16) (w / 131072 % 16) (w / 8192 % 16)) else .error .illRsv
  | 1 => if w % 1024 = 0 then .ok (.por (w / 2147483648 % 2) (w / 2097152 % 16) (w / 131072 % 16) (w / 8192 % 16)) else .error .illRsv
  | 2 => if w % 1024 = 0 then .ok (.pxor (w / 2147483648 % 2) (w / 2097152 % 16) (w / 131072 % 16) (w / 8192 % 16)) else .error .illRsv
  | 3 => if w % 1024 = 0 then .ok (.pandn (w / 2147483648 % 2) (w / 2097152 % 16) (w / 131072 % 16) (w / 8192 % 16)) else .error .illRsv
  | 4 => if w / 8192 % 16 = 0 ∧ w % 1024 = 0 then .ok (.pnot (w / 2147483648 % 2) (w / 2097152 % 16) (w / 131072 % 16)) else .error .illRsv
  | 5 => if w / 8192 % 256 = 0 ∧ w % 1024 = 0 then .ok (.pset (w / 2147483648 % 2) (w / 2097152 % 16)) else .error .illRsv
  | 6 => if w / 8192 % 256 = 0 ∧ w % 1024 = 0 then .ok (.pclr (w / 2147483648 % 2) (w / 2097152 % 16)) else .error .illRsv
  | 7 => if w / 8192 % 16 = 0 ∧ w % 1024 = 0 then .ok (.pmov (w / 2147483648 % 2) (w / 2097152 % 16) (w / 131072 % 16)) else .error .illRsv
  | _ => .error .illOp

/-- Major opcode 0x35: the minor code selects PCOUNT, PFIRST, PWHILE. -/
def decodeVe35 (w : Nat) : Except Cause Instr :=
  match w / 16384 % 8 with
  | 0 => if w % 16384 = 0 then .ok (.pcount (w / 2147483648 % 2) (w / 2097152 % 16) (w / 131072 % 16)) else .error .illRsv
  | 1 => if w % 16384 = 0 then .ok (.pfirst (w / 2147483648 % 2) (w / 2097152 % 16) (w / 131072 % 16)) else .error .illRsv
  | 2 => if w % 16384 = 0 then .ok (.pwhile (w / 2147483648 % 2) (w / 2097152 % 16) (w / 131072 % 16)) else .error .illRsv
  | _ => .error .illOp

/-- Major opcode 0x37: the minor code selects VE_CR_RD, VE_CR_RD_HI, VE_CR_WR. -/
def decodeVe37 (w : Nat) : Except Cause Instr :=
  match w / 8388608 % 4 with
  | 0 => if w % 2048 = 0 ∧ (w / 2048 % 256) ∈ [2, 3, 4, 5, 7, 9, 10, 16, 17, 18] then .ok (.veCrRd (w / 2147483648 % 2) (w / 524288 % 16) (w / 2048 % 256)) else .error .illRsv
  | 1 => if w % 2048 = 0 ∧ (w / 2048 % 256) ∈ [2, 3, 4, 5, 7, 9, 10, 16, 17, 18] then .ok (.veCrRdHi (w / 2147483648 % 2) (w / 524288 % 16) (w / 2048 % 256)) else .error .illRsv
  | 2 => if w % 2048 = 0 ∧ (w / 2048 % 256) ∈ [2, 3, 4, 5, 16, 17, 18] then .ok (.veCrWr (w / 2147483648 % 2) (w / 524288 % 16) (w / 2048 % 256)) else .error .illRsv
  | _ => .error .illRsv

/-- Major opcode 0x39: the minor code selects VE_SEM_SIG, VE_SEM_WAIT, VE_TL_WAIT. -/
def decodeVe39 (w : Nat) : Except Cause Instr :=
  match w / 8388608 % 4 with
  | 0 => if w / 64 % 131072 = 0 then .ok (.veSemSig (w / 2147483648 % 2) (w % 64)) else .error .illRsv
  | 1 => if w / 64 % 131072 = 0 then .ok (.veSemWait (w / 2147483648 % 2) (w % 64)) else .error .illRsv
  | 2 => if w % 65536 = 0 then .ok (.veTlWait (w / 2147483648 % 2) (w / 1048576 % 8) (w / 65536 % 16)) else .error .illRsv
  | _ => .error .illRsv

/-- Major opcode 0x3A: the minor code selects VE_END, VE_TRAP, VE_YIELD. -/
def decodeVe3A (w : Nat) : Except Cause Instr :=
  match w / 8388608 % 4 with
  | 0 => if w % 8388608 = 0 then .ok (.veEnd (w / 2147483648 % 2)) else .error .illRsv
  | 1 => if w / 65536 % 128 = 0 then .ok (.veTrap (w / 2147483648 % 2) (w % 65536)) else .error .illRsv
  | 2 => if w % 8388608 = 0 then .ok (.veYield (w / 2147483648 % 2)) else .error .illRsv
  | _ => .error .illRsv

/-- Major opcode 0x3B: the minor code selects BZ, BNZ. -/
def decodeVe3B (w : Nat) : Except Cause Instr :=
  match w / 16777216 % 2 with
  | 0 => if w / 65536 % 16 = 0 then .ok (.bz (w / 2147483648 % 2) (w / 1048576 % 16) (w % 65536)) else .error .illRsv
  | 1 => if w / 65536 % 16 = 0 then .ok (.bnz (w / 2147483648 % 2) (w / 1048576 % 16) (w % 65536)) else .error .illRsv
  | _ => .error .illRsv

/-- Major opcode 0x3C: the minor code selects A_ADD, A_SUB, A_MUL and others. -/
def decodeVe3C (w : Nat) : Except Cause Instr :=
  match w / 256 % 32 with
  | 0 => if w % 256 = 0 then .ok (.aAdd (w / 2147483648 % 2) (w / 2097152 % 16) (w / 131072 % 16) (w / 8192 % 16)) else .error .illRsv
  | 1 => if w % 256 = 0 then .ok (.aSub (w / 2147483648 % 2) (w / 2097152 % 16) (w / 131072 % 16) (w / 8192 % 16)) else .error .illRsv
  | 2 => if w % 256 = 0 then .ok (.aMul (w / 2147483648 % 2) (w / 2097152 % 16) (w / 131072 % 16) (w / 8192 % 16)) else .error .illRsv
  | 3 => if w % 256 = 0 then .ok (.aAnd (w / 2147483648 % 2) (w / 2097152 % 16) (w / 131072 % 16) (w / 8192 % 16)) else .error .illRsv
  | 4 => if w % 256 = 0 then .ok (.aOr (w / 2147483648 % 2) (w / 2097152 % 16) (w / 131072 % 16) (w / 8192 % 16)) else .error .illRsv
  | 5 => if w % 256 = 0 then .ok (.aXor (w / 2147483648 % 2) (w / 2097152 % 16) (w / 131072 % 16) (w / 8192 % 16)) else .error .illRsv
  | 6 => if w % 256 = 0 then .ok (.aSll (w / 2147483648 % 2) (w / 2097152 % 16) (w / 131072 % 16) (w / 8192 % 16)) else .error .illRsv
  | 7 => if w % 256 = 0 then .ok (.aSrl (w / 2147483648 % 2) (w / 2097152 % 16) (w / 131072 % 16) (w / 8192 % 16)) else .error .illRsv
  | 8 => if w % 256 = 0 then .ok (.aSra (w / 2147483648 % 2) (w / 2097152 % 16) (w / 131072 % 16) (w / 8192 % 16)) else .error .illRsv
  | 9 => if w % 256 = 0 then .ok (.aMin (w / 2147483648 % 2) (w / 2097152 % 16) (w / 131072 % 16) (w / 8192 % 16)) else .error .illRsv
  | 10 => if w % 256 = 0 then .ok (.aMax (w / 2147483648 % 2) (w / 2097152 % 16) (w / 131072 % 16) (w / 8192 % 16)) else .error .illRsv
  | 11 => if w % 256 = 0 then .ok (.aMinu (w / 2147483648 % 2) (w / 2097152 % 16) (w / 131072 % 16) (w / 8192 % 16)) else .error .illRsv
  | 12 => if w % 256 = 0 then .ok (.aMaxu (w / 2147483648 % 2) (w / 2097152 % 16) (w / 131072 % 16) (w / 8192 % 16)) else .error .illRsv
  | 13 => if w % 256 = 0 then .ok (.aSlt (w / 2147483648 % 2) (w / 2097152 % 16) (w / 131072 % 16) (w / 8192 % 16)) else .error .illRsv
  | 14 => if w % 256 = 0 then .ok (.aSltu (w / 2147483648 % 2) (w / 2097152 % 16) (w / 131072 % 16) (w / 8192 % 16)) else .error .illRsv
  | 15 => if w / 131072 % 16 = 0 ∧ w % 256 = 0 ∧ (w / 8192 % 16) ≤ 5 then .ok (.aLc (w / 2147483648 % 2) (w / 2097152 % 16) (w / 8192 % 16)) else .error .illRsv
  | 16 => if w / 131072 % 16 = 0 ∧ w % 256 = 0 ∧ (w / 8192 % 16) ≤ 5 then .ok (.aIt (w / 2147483648 % 2) (w / 2097152 % 16) (w / 8192 % 16)) else .error .illRsv
  | _ => .error .illOp

/-- Major opcode 0x3D: the minor code selects A_ADDI, A_LUI. -/
def decodeVe3D (w : Nat) : Except Cause Instr :=
  match w / 65536 % 2 with
  | 0 => .ok (.aAddi (w / 2147483648 % 2) (w / 2097152 % 16) (w / 131072 % 16) (w % 65536))
  | 1 => if w / 131072 % 16 = 0 then .ok (.aLui (w / 2147483648 % 2) (w / 2097152 % 16) (w % 65536)) else .error .illRsv
  | _ => .error .illRsv

/-- The vector engine (R168, R169); bit 31 is the group stop bit (R94). A MIN of `vcompress` or `vexpand` that is not 0 (R185) is a
reserved field that is not 0, ILL_RSV (log 33: DESIGN CHOICE). -/
def decodeVe (w : Nat) : Except Cause Instr :=
  if w = 0 ∨ w = 0xFFFFFFFF then .error .illWord else
  match w / 33554432 % 64 with
  | 0x01 => .ok (.vadd (w / 2147483648 % 2) (w / 262144 % 128) (w / 2048 % 128) (w / 16 % 128) (w % 16))
  | 0x02 => .ok (.vsub (w / 2147483648 % 2) (w / 262144 % 128) (w / 2048 % 128) (w / 16 % 128) (w % 16))
  | 0x03 => .ok (.vmul (w / 2147483648 % 2) (w / 262144 % 128) (w / 2048 % 128) (w / 16 % 128) (w % 16))
  | 0x04 => .ok (.vfma (w / 2147483648 % 2) (w / 262144 % 128) (w / 2048 % 128) (w / 16 % 128) (w % 16))
  | 0x05 => .ok (.vfmaR (w / 2147483648 % 2) (w / 262144 % 128) (w / 2048 % 128) (w / 16 % 128) (w % 16))
  | 0x06 => .ok (.vfms (w / 2147483648 % 2) (w / 262144 % 128) (w / 2048 % 128) (w / 16 % 128) (w % 16))
  | 0x07 => .ok (.vfmsR (w / 2147483648 % 2) (w / 262144 % 128) (w / 2048 % 128) (w / 16 % 128) (w % 16))
  | 0x08 => .ok (.vmin (w / 2147483648 % 2) (w / 262144 % 128) (w / 2048 % 128) (w / 16 % 128) (w % 16))
  | 0x09 => .ok (.vmax (w / 2147483648 % 2) (w / 262144 % 128) (w / 2048 % 128) (w / 16 % 128) (w % 16))
  | 0x0A => .ok (.vand (w / 2147483648 % 2) (w / 262144 % 128) (w / 2048 % 128) (w / 16 % 128) (w % 16))
  | 0x0B => .ok (.vor (w / 2147483648 % 2) (w / 262144 % 128) (w / 2048 % 128) (w / 16 % 128) (w % 16))
  | 0x0C => .ok (.vxor (w / 2147483648 % 2) (w / 262144 % 128) (w / 2048 % 128) (w / 16 % 128) (w % 16))
  | 0x0D => .ok (.vshl (w / 2147483648 % 2) (w / 262144 % 128) (w / 2048 % 128) (w / 16 % 128) (w % 16))
  | 0x0E => .ok (.vshr (w / 2147483648 % 2) (w / 262144 % 128) (w / 2048 % 128) (w / 16 % 128) (w % 16))
  | 0x0F => .ok (.vqadd (w / 2147483648 % 2) (w / 262144 % 128) (w / 2048 % 128) (w / 16 % 128) (w % 16))
  | 0x10 => .ok (.vqsub (w / 2147483648 % 2) (w / 262144 % 128) (w / 2048 % 128) (w / 16 % 128) (w % 16))
  | 0x11 => .ok (.vsel (w / 2147483648 % 2) (w / 262144 % 128) (w / 2048 % 128) (w / 16 % 128) (w % 16))
  | 0x12 => decodeVe12 w
  | 0x13 => decodeVe13 w
  | 0x14 => decodeVe14 w
  | 0x15 => if w % 2 = 0 ∧ cvtOk (w / 128 % 16) (w / 8 % 16) (w / 2 % 4) = true then .ok (.vcvt (w / 2147483648 % 2) (w / 262144 % 128) (w / 2048 % 128) (w / 128 % 16) (w / 8 % 16) (w / 2 % 4)) else .error .illRsv
  | 0x20 => decodeVe20 w
  | 0x21 => .ok (.vdiv (w / 2147483648 % 2) (w / 262144 % 128) (w / 2048 % 128) (w / 16 % 128) (w % 16))
  | 0x22 => decodeVe22 w
  | 0x23 => .ok (.vperm (w / 2147483648 % 2) (w / 262144 % 128) (w / 2048 % 128) (w / 16 % 128) (w % 16))
  | 0x24 => if w / 16 % 8 = 0 then .ok (.vcompress (w / 2147483648 % 2) (w / 262144 % 128) (w / 2048 % 128) (w / 128 % 16) (w % 16)) else .error .illRsv
  | 0x25 => if w / 16 % 128 = 0 then .ok (.vexpand (w / 2147483648 % 2) (w / 262144 % 128) (w / 2048 % 128) (w % 16)) else .error .illRsv
  | 0x26 => decodeVe26 w
  | 0x2C => .ok (.vld (w / 2147483648 % 2) (w / 262144 % 128) (w / 16384 % 16) (w % 16384))
  | 0x2D => .ok (.vst (w / 2147483648 % 2) (w / 262144 % 128) (w / 16384 % 16) (w % 16384))
  | 0x2E => if w / 16 % 8 = 0 then .ok (.vldx (w / 2147483648 % 2) (w / 262144 % 128) (w / 16384 % 16) (w / 128 % 128) (w % 16)) else .error .illRsv
  | 0x2F => if w / 16 % 1024 = 0 then .ok (.vstp (w / 2147483648 % 2) (w / 262144 % 128) (w / 16384 % 16) (w % 16)) else .error .illRsv
  | 0x30 => if w / 16 % 8 = 0 then .ok (.vstx (w / 2147483648 % 2) (w / 262144 % 128) (w / 16384 % 16) (w / 128 % 128) (w % 16)) else .error .illRsv
  | 0x34 => decodeVe34 w
  | 0x35 => decodeVe35 w
  | 0x37 => decodeVe37 w
  | 0x38 => if w / 65536 % 64 = 0 ∧ (w / 4194304 % 8) ≤ 5 then .ok (.veLbr (w / 2147483648 % 2) (w / 4194304 % 8) (w % 65536)) else .error .illRsv
  | 0x39 => decodeVe39 w
  | 0x3A => decodeVe3A w
  | 0x3B => decodeVe3B w
  | 0x3C => decodeVe3C w
  | 0x3D => decodeVe3D w
  | _ => .error .illOp

/-- Major opcode 0x28: the minor code selects M_CR_LD, M_CR_ST, M_CR_IMM. -/
def decodeMe28 (w : Nat) : Except Cause Instr :=
  match w / 16777216 % 4 with
  | 0 => if meCselW (w / 65536 % 256) = true then .ok (.mCrLd (w / 65536 % 256) (w % 65536)) else .error .illRsv
  | 1 => if meCsel (w / 65536 % 256) = true then .ok (.mCrSt (w / 65536 % 256) (w % 65536)) else .error .illRsv
  | 2 => if meCselW (w / 65536 % 256) = true then .ok (.mCrImm (w / 65536 % 256) (w % 65536)) else .error .illRsv
  | _ => .error .illRsv

/-- Major opcode 0x29: the minor code selects ME_SEM_SIG, ME_SEM_WAIT, ME_TL_WAIT. -/
def decodeMe29 (w : Nat) : Except Cause Instr :=
  match w / 16777216 % 4 with
  | 0 => if w / 64 % 262144 = 0 then .ok (.meSemSig (w % 64)) else .error .illRsv
  | 1 => if w / 64 % 262144 = 0 then .ok (.meSemWait (w % 64)) else .error .illRsv
  | 2 => if w / 65536 % 32 = 0 then .ok (.meTlWait (w / 2097152 % 8) (w % 65536)) else .error .illRsv
  | _ => .error .illRsv

/-- Major opcode 0x2B: the minor code selects ME_END, ME_TRAP, ME_YIELD. -/
def decodeMe2B (w : Nat) : Except Cause Instr :=
  match w / 16777216 % 4 with
  | 0 => if w % 16777216 = 0 then .ok (.meEnd) else .error .illRsv
  | 1 => if w / 65536 % 256 = 0 then .ok (.meTrap (w % 65536)) else .error .illRsv
  | 2 => if w % 16777216 = 0 then .ok (.meYield) else .error .illRsv
  | _ => .error .illRsv

/-- The matrix engine (R207, R208); it has no prefixes (R95). -/
def decodeMe (w : Nat) : Except Cause Instr :=
  if w = 0 ∨ w = 0xFFFFFFFF then .error .illWord else
  match w / 67108864 % 64 with
  | 0x01 => if w % 32 = 0 ∧ (w / 8388608 % 8) ≤ 6 ∧ (w / 2097152 % 4) ≤ 2 ∧ ((w / 2097152 % 4) = 0 ∨ (w / 262144 % 8) = 0) then .ok (.mPass (w / 8388608 % 8) (w / 2097152 % 4) (w / 262144 % 8) (w / 32768 % 8) (w / 256 % 128) (w / 128 % 2) (w / 32 % 4)) else .error .illRsv
  | 0x02 => if w % 32 = 0 ∧ (w / 8388608 % 8) ≤ 6 ∧ (w / 2097152 % 4) ≤ 2 ∧ ((w / 2097152 % 4) = 0 ∨ (w / 262144 % 8) = 0) then .ok (.mPassi (w / 8388608 % 8) (w / 2097152 % 4) (w / 262144 % 8) (w / 32768 % 8) (w / 256 % 128) (w / 128 % 2) (w / 32 % 4)) else .error .illRsv
  | 0x10 => if w / 128 % 2 = 0 ∧ w % 32 = 0 ∧ (w / 8388608 % 8) ≤ 6 ∧ (w / 2097152 % 4) ≤ 2 ∧ ((w / 2097152 % 4) = 0 ∨ (w / 262144 % 8) = 0) then .ok (.mGpass (w / 8388608 % 8) (w / 2097152 % 4) (w / 262144 % 8) (w / 32768 % 8) (w / 256 % 128) (w / 32 % 4)) else .error .illRsv
  | 0x11 => if w % 64 = 0 then .ok (.gSum (w / 8388608 % 8) (w / 1048576 % 8) (w / 131072 % 8) (w / 65536 % 2) (w / 256 % 256) (w / 64 % 4)) else .error .illRsv
  | 0x18 => if (w / 8388608 % 8) ≤ 6 then .ok (.mConv (w / 8388608 % 8) (w / 1048576 % 8) (w / 131072 % 8) (w / 2048 % 64) (w / 1024 % 2) (w / 256 % 4) (w % 256)) else .error .illRsv
  | 0x19 => if w / 65536 % 1024 = 0 then .ok (.mShape (w % 65536)) else .error .illRsv
  | 0x1A => if w / 262144 % 256 = 0 ∧ w / 128 % 2 = 0 ∧ w % 32 = 0 then .ok (.mClr (w / 32768 % 8) (w / 256 % 128) (w / 32 % 4)) else .error .illRsv
  | 0x20 => if w / 65536 % 256 = 0 ∧ (w / 16777216 % 4) ≤ 2 then .ok (.mTq (w / 16777216 % 4) (w % 65536)) else .error .illRsv
  | 0x28 => decodeMe28 w
  | 0x29 => decodeMe29 w
  | 0x2A => if w / 65536 % 128 = 0 ∧ (w / 8388608 % 8) ≤ 5 then .ok (.meLbr (w / 8388608 % 8) (w % 65536)) else .error .illRsv
  | 0x2B => decodeMe2B w
  | 0x2C => if w / 65536 % 1024 = 0 then .ok (.mB (w % 65536)) else .error .illRsv
  | _ => .error .illOp

/-- Major opcode 0x05: the minor code selects XL_PLATEN_DENSE, XL_PLATEN_CW, XL_PLATEN_IMAGE. -/
noncomputable def decodeXf05 (w : Nat) : Except Cause Instr :=
  match w / 4 % 4 with
  | 0 => if w % 4 = 0 then .ok (.xlPlatenDense (w / 4194304 % 16) (w / 262144 % 16) (w / 16384 % 16) (w / 16 % 1024)) else .error .illRsv
  | 1 => if w % 4 = 0 then .ok (.xlPlatenCw (w / 4194304 % 16) (w / 262144 % 16) (w / 16384 % 16) (w / 16 % 1024)) else .error .illRsv
  | 2 => if w % 4 = 0 then .ok (.xlPlatenImage (w / 4194304 % 16) (w / 262144 % 16) (w / 16384 % 16) (w / 16 % 1024)) else .error .illRsv
  | _ => .error .illRsv

/-- Major opcode 0x06: the minor code selects XL_CASE, XL_CASE_AUTO. -/
noncomputable def decodeXf06 (w : Nat) : Except Cause Instr :=
  match w / 4 % 2 with
  | 0 => if w / 8 % 2048 = 0 ∧ w % 4 = 0 then .ok (.xlCase (w / 4194304 % 16) (w / 262144 % 16) (w / 16384 % 16)) else .error .illRsv
  | 1 => if w / 8 % 32768 = 0 ∧ w % 4 = 0 then .ok (.xlCaseAuto (w / 4194304 % 16) (w / 262144 % 16)) else .error .illRsv
  | _ => .error .illRsv

/-- Major opcode 0x07: the minor code selects XL_EXPAND, XL_EXPAND_AUTO. -/
noncomputable def decodeXf07 (w : Nat) : Except Cause Instr :=
  match w / 4 % 2 with
  | 0 => .ok (.xlExpand (w / 4194304 % 16) (w / 262144 % 16) (w / 16384 % 16) (w / 16 % 1024) (w / 8 % 2) (w / 2 % 2) (w % 2))
  | 1 => .ok (.xlExpandAuto (w / 4194304 % 16) (w / 262144 % 16) (w / 16384 % 16) (w / 16 % 1024) (w / 8 % 2) (w / 2 % 2) (w % 2))
  | _ => .error .illRsv

/-- Major opcode 0x30: the minor code selects C_ADD, C_SUB, C_MUL and others. -/
noncomputable def decodeXf30 (w : Nat) : Except Cause Instr :=
  match w / 512 % 32 with
  | 0 => if w % 512 = 0 then .ok (.cAdd (w / 4194304 % 16) (w / 262144 % 16) (w / 16384 % 16)) else .error .illRsv
  | 1 => if w % 512 = 0 then .ok (.cSub (w / 4194304 % 16) (w / 262144 % 16) (w / 16384 % 16)) else .error .illRsv
  | 2 => if w % 512 = 0 then .ok (.cMul (w / 4194304 % 16) (w / 262144 % 16) (w / 16384 % 16)) else .error .illRsv
  | 3 => if w % 512 = 0 then .ok (.cAnd (w / 4194304 % 16) (w / 262144 % 16) (w / 16384 % 16)) else .error .illRsv
  | 4 => if w % 512 = 0 then .ok (.cOr (w / 4194304 % 16) (w / 262144 % 16) (w / 16384 % 16)) else .error .illRsv
  | 5 => if w % 512 = 0 then .ok (.cXor (w / 4194304 % 16) (w / 262144 % 16) (w / 16384 % 16)) else .error .illRsv
  | 6 => if w % 512 = 0 then .ok (.cSll (w / 4194304 % 16) (w / 262144 % 16) (w / 16384 % 16)) else .error .illRsv
  | 7 => if w % 512 = 0 then .ok (.cSrl (w / 4194304 % 16) (w / 262144 % 16) (w / 16384 % 16)) else .error .illRsv
  | 8 => if w % 512 = 0 then .ok (.cSra (w / 4194304 % 16) (w / 262144 % 16) (w / 16384 % 16)) else .error .illRsv
  | 9 => if w % 512 = 0 then .ok (.cMin (w / 4194304 % 16) (w / 262144 % 16) (w / 16384 % 16)) else .error .illRsv
  | 10 => if w % 512 = 0 then .ok (.cMax (w / 4194304 % 16) (w / 262144 % 16) (w / 16384 % 16)) else .error .illRsv
  | 11 => if w % 512 = 0 then .ok (.cMinu (w / 4194304 % 16) (w / 262144 % 16) (w / 16384 % 16)) else .error .illRsv
  | 12 => if w % 512 = 0 then .ok (.cMaxu (w / 4194304 % 16) (w / 262144 % 16) (w / 16384 % 16)) else .error .illRsv
  | 13 => if w % 512 = 0 then .ok (.cSlt (w / 4194304 % 16) (w / 262144 % 16) (w / 16384 % 16)) else .error .illRsv
  | 14 => if w % 512 = 0 then .ok (.cSltu (w / 4194304 % 16) (w / 262144 % 16) (w / 16384 % 16)) else .error .illRsv
  | 15 => if w / 262144 % 16 = 0 ∧ w % 512 = 0 ∧ (w / 16384 % 16) ≤ 5 then .ok (.cLc (w / 4194304 % 16) (w / 16384 % 16)) else .error .illRsv
  | 16 => if w / 262144 % 16 = 0 ∧ w % 512 = 0 ∧ (w / 16384 % 16) ≤ 5 then .ok (.cIt (w / 4194304 % 16) (w / 16384 % 16)) else .error .illRsv
  | 17 => if w / 16384 % 16 = 0 ∧ w % 512 = 0 then .ok (.hMv (w / 4194304 % 16) (w / 262144 % 16)) else .error .illRsv
  | 18 => if w / 16384 % 16 = 0 ∧ w % 512 = 0 then .ok (.cHmv (w / 4194304 % 16) (w / 262144 % 16)) else .error .illRsv
  | _ => .error .illOp

/-- Major opcode 0x31: the minor code selects C_ADDI, C_LUI, H_LI. -/
noncomputable def decodeXf31 (w : Nat) : Except Cause Instr :=
  match w / 65536 % 4 with
  | 0 => .ok (.cAddi (w / 4194304 % 16) (w / 262144 % 16) (w % 65536))
  | 1 => if w / 262144 % 16 = 0 then .ok (.cLui (w / 4194304 % 16) (w % 65536)) else .error .illRsv
  | 2 => if w / 262144 % 16 = 0 then .ok (.hLi (w / 4194304 % 16) (w % 65536)) else .error .illRsv
  | _ => .error .illRsv

/-- Major opcode 0x32: the minor code selects C_BEQ, C_BNE, C_BLTU and others. -/
noncomputable def decodeXf32 (w : Nat) : Except Cause Instr :=
  match w / 16777216 % 4 with
  | 0 => .ok (.cBeq (w / 1048576 % 16) (w / 65536 % 16) (w % 65536))
  | 1 => .ok (.cBne (w / 1048576 % 16) (w / 65536 % 16) (w % 65536))
  | 2 => .ok (.cBltu (w / 1048576 % 16) (w / 65536 % 16) (w % 65536))
  | 3 => .ok (.cBgeu (w / 1048576 % 16) (w / 65536 % 16) (w % 65536))
  | _ => .error .illRsv

/-- Major opcode 0x34: the minor code selects XLS_SEM_SIG, XLS_SEM_WAIT, XLS_TL_WAIT. The SEM field of a `tl.wait` must be 0 (log 33:
DESIGN CHOICE). -/
noncomputable def decodeXf34 (w : Nat) : Except Cause Instr :=
  match w / 16777216 % 4 with
  | 0 => if w / 64 % 262144 = 0 then .ok (.xlsSemSig (w % 64)) else .error .illRsv
  | 1 => if w / 64 % 262144 = 0 then .ok (.xlsSemWait (w % 64)) else .error .illRsv
  | 2 => if w % 131072 = 0 then .ok (.xlsTlWait (w / 2097152 % 8) (w / 131072 % 16)) else .error .illRsv
  | _ => .error .illRsv

/-- Major opcode 0x35: the minor code selects XLS_CR_RD, XLS_CR_RD_HI, XLS_CR_WR. -/
noncomputable def decodeXf35 (w : Nat) : Except Cause Instr :=
  match w / 16777216 % 4 with
  | 0 => if w % 4096 = 0 ∧ (w / 4096 % 256) ∈ [1, 2, 3, 4, 5, 7, 9, 10] then .ok (.xlsCrRd (w / 1048576 % 16) (w / 4096 % 256)) else .error .illRsv
  | 1 => if w % 4096 = 0 ∧ (w / 4096 % 256) ∈ [1, 2, 3, 4, 5, 7, 9, 10] then .ok (.xlsCrRdHi (w / 1048576 % 16) (w / 4096 % 256)) else .error .illRsv
  | 2 => if w % 4096 = 0 ∧ (w / 4096 % 256) ∈ [1, 2, 3, 4, 5] then .ok (.xlsCrWr (w / 1048576 % 16) (w / 4096 % 256)) else .error .illRsv
  | _ => .error .illRsv

/-- Major opcode 0x36: the minor code selects XLS_END, XLS_TRAP, XLS_YIELD. -/
noncomputable def decodeXf36 (w : Nat) : Except Cause Instr :=
  match w / 16777216 % 4 with
  | 0 => if w % 16777216 = 0 then .ok (.xlsEnd) else .error .illRsv
  | 1 => if w / 65536 % 256 = 0 then .ok (.xlsTrap (w % 65536)) else .error .illRsv
  | 2 => if w % 16777216 = 0 then .ok (.xlsYield) else .error .illRsv
  | _ => .error .illRsv

/-- Major opcode 0x3E: the minor code selects PFX_IMM, PFX_ORD. -/
noncomputable def decodeXf3E (w : Nat) : Except Cause Instr :=
  match w / 16777216 % 4 with
  | 0 => if w / 1048576 % 16 = 0 then .ok (.pfxImm (w % 1048576)) else .error .illRsv
  | 1 => if w / 4096 % 4096 = 0 ∧ w % 4 = 0 ∧ (w / 32 % 8) ≤ 3 ∧ (w / 4 % 8) ≤ 4 ∧ ((w / 32 % 8) ≠ 0 ∨ (w / 4 % 8) = 0) then .ok (.pfxOrd (w / 256 % 16) (w / 32 % 8) (w / 4 % 8)) else .error .illRsv
  | _ => .error .illRsv

/-- The words the two transfer units share a map for (R238, R239), before the side is checked. -/
noncomputable def decodeXf (w : Nat) : Except Cause Instr :=
  if w = 0 ∨ w = 0xFFFFFFFF then .error .illWord else
  match w / 67108864 % 64 with
  | 0x01 => if w / 8 % 2 = 0 then .ok (.xlLd (w / 4194304 % 16) (w / 262144 % 16) (w / 16384 % 16) (w / 16 % 1024) (w / 4 % 2) (w / 2 % 2) (w % 2)) else .error .illRsv
  | 0x02 => if w / 8 % 2 = 0 then .ok (.xlGather (w / 4194304 % 16) (w / 262144 % 16) (w / 16384 % 16) (w / 16 % 1024) (w / 4 % 2) (w / 2 % 2) (w % 2)) else .error .illRsv
  | 0x03 => if w / 8 % 2 = 0 ∧ w / 2 % 2 = 0 then .ok (.xlGather8 (w / 4194304 % 16) (w / 262144 % 16) (w / 16384 % 16) (w / 16 % 1024) (w / 4 % 2) (w % 2)) else .error .illRsv
  | 0x04 => if w / 16384 % 16 = 0 ∧ w / 8 % 2 = 0 ∧ w % 2 = 0 then .ok (.xlFeed (w / 4194304 % 16) (w / 262144 % 16) (w / 16 % 1024) (w / 4 % 2) (w / 2 % 2)) else .error .illRsv
  | 0x05 => decodeXf05 w
  | 0x06 => decodeXf06 w
  | 0x07 => decodeXf07 w
  | 0x08 => if w / 16384 % 16 = 0 ∧ w % 16 = 0 then .ok (.xlRoute (w / 4194304 % 16) (w / 262144 % 16) (w / 16 % 1024)) else .error .illRsv
  | 0x09 => if w / 4194304 % 16 = 0 ∧ w / 16384 % 16 = 0 ∧ w / 8 % 2 = 0 ∧ w % 4 = 0 then .ok (.xlAcflush (w / 262144 % 16) (w / 16 % 1024) (w / 4 % 2)) else .error .illRsv
  | 0x0A => if w / 8 % 2 = 0 ∧ w % 4 = 0 then .ok (.xsSt (w / 4194304 % 16) (w / 262144 % 16) (w / 16384 % 16) (w / 16 % 1024) (w / 4 % 2)) else .error .illRsv
  | 0x0B => if w / 8 % 2 = 0 ∧ w % 4 = 0 then .ok (.xsStash (w / 4194304 % 16) (w / 262144 % 16) (w / 16384 % 16) (w / 16 % 1024) (w / 4 % 2)) else .error .illRsv
  | 0x0C => if w / 4194304 % 16 = 0 ∧ w / 8 % 2 = 0 ∧ w % 4 = 0 then .ok (.xsTopk (w / 262144 % 16) (w / 16384 % 16) (w / 16 % 1024) (w / 4 % 2)) else .error .illRsv
  | 0x0D => if w / 8 % 2 = 0 ∧ w % 4 = 0 then .ok (.xsUpd (w / 4194304 % 16) (w / 262144 % 16) (w / 16384 % 16) (w / 16 % 1024) (w / 4 % 2)) else .error .illRsv
  | 0x0E => if w % 4 = 0 then .ok (.xsScatter (w / 4194304 % 16) (w / 262144 % 16) (w / 16384 % 16) (w / 16 % 1024) (w / 8 % 2) (w / 4 % 2)) else .error .illRsv
  | 0x0F => if w % 16 = 0 then .ok (.xsReidx (w / 4194304 % 16) (w / 262144 % 16) (w / 16384 % 16) (w / 16 % 1024)) else .error .illRsv
  | 0x20 => if w / 16384 % 16 = 0 ∧ w % 16 = 0 then .ok (.xsRinv (w / 4194304 % 16) (w / 262144 % 16) (w / 16 % 1024)) else .error .illRsv
  | 0x21 => if w / 4194304 % 16 = 0 ∧ w % 16384 = 0 then .ok (.xlsBarInit (w / 262144 % 16) (w / 16384 % 16)) else .error .illRsv
  | 0x22 => if w % 262144 = 0 then .ok (.xlsBarWait (w / 4194304 % 16) (w / 262144 % 16)) else .error .illRsv
  | 0x24 => if w / 16384 % 256 = 0 ∧ w % 16 = 0 then .ok (.xsColl (w / 4194304 % 16) (w / 16 % 1024)) else .error .illRsv
  | 0x30 => decodeXf30 w
  | 0x31 => decodeXf31 w
  | 0x32 => decodeXf32 w
  | 0x33 => if w / 65536 % 128 = 0 ∧ (w / 8388608 % 8) ≤ 5 then .ok (.xlsLbr (w / 8388608 % 8) (w % 65536)) else .error .illRsv
  | 0x34 => decodeXf34 w
  | 0x35 => decodeXf35 w
  | 0x36 => decodeXf36 w
  | 0x3E => decodeXf3E w
  | _ => .error .illOp

/-- The major opcodes of XL alone (R239). -/
def xlOnly (op : Nat) : Bool := decide (1 ≤ op ∧ op ≤ 9)

/-- The major opcodes of XS alone (R239). -/
def xsOnly (op : Nat) : Bool := decide ((0x0A ≤ op ∧ op ≤ 0x0F) ∨ op = 0x20 ∨ op = 0x24)

/-- The load transfer unit: a step of the other side traps with ILL_OP (R239). -/
noncomputable def decodeXl (w : Nat) : Except Cause Instr :=
  if xsOnly (w / 67108864 % 64) then .error .illOp else decodeXf w

/-- The store transfer unit: a step of the other side traps with ILL_OP (R239). -/
noncomputable def decodeXs (w : Nat) : Except Cause Instr :=
  if xlOnly (w / 67108864 % 64) then .error .illOp else decodeXf w

/-- Each section decodes only its own map (R95). -/
noncomputable def decode : StreamId → Nat → Except Cause Instr
  | .sq, w => decodeSq w
  | .ve, w => decodeVe w
  | .me, w => decodeMe w
  | .xl, w => decodeXl w
  | .xs, w => decodeXs w

/-- The encoder, from the same formats: the 32-bit word of an instruction; an event has none. -/
def encode : Instr → Option Nat
  | .add sd sa sb => some (0x04000000 + sd * 2097152 + sa * 65536 + sb * 2048)
  | .sub sd sa sb => some (0x04000040 + sd * 2097152 + sa * 65536 + sb * 2048)
  | .and sd sa sb => some (0x04000080 + sd * 2097152 + sa * 65536 + sb * 2048)
  | .or sd sa sb => some (0x040000C0 + sd * 2097152 + sa * 65536 + sb * 2048)
  | .xor sd sa sb => some (0x04000100 + sd * 2097152 + sa * 65536 + sb * 2048)
  | .sll sd sa sb => some (0x04000140 + sd * 2097152 + sa * 65536 + sb * 2048)
  | .srl sd sa sb => some (0x04000180 + sd * 2097152 + sa * 65536 + sb * 2048)
  | .sra sd sa sb => some (0x040001C0 + sd * 2097152 + sa * 65536 + sb * 2048)
  | .slt sd sa sb => some (0x04000200 + sd * 2097152 + sa * 65536 + sb * 2048)
  | .sltu sd sa sb => some (0x04000240 + sd * 2097152 + sa * 65536 + sb * 2048)
  | .min sd sa sb => some (0x04000280 + sd * 2097152 + sa * 65536 + sb * 2048)
  | .max sd sa sb => some (0x040002C0 + sd * 2097152 + sa * 65536 + sb * 2048)
  | .minu sd sa sb => some (0x04000300 + sd * 2097152 + sa * 65536 + sb * 2048)
  | .maxu sd sa sb => some (0x04000340 + sd * 2097152 + sa * 65536 + sb * 2048)
  | .sextI8 sd sa => some (0x04000380 + sd * 2097152 + sa * 65536)
  | .sextI16 sd sa => some (0x040003C0 + sd * 2097152 + sa * 65536)
  | .sextI32 sd sa => some (0x04000400 + sd * 2097152 + sa * 65536)
  | .zextN8 sd sa => some (0x04000440 + sd * 2097152 + sa * 65536)
  | .zextN16 sd sa => some (0x04000480 + sd * 2097152 + sa * 65536)
  | .zextN32 sd sa => some (0x040004C0 + sd * 2097152 + sa * 65536)
  | .clz sd sa => some (0x04000500 + sd * 2097152 + sa * 65536)
  | .ctz sd sa => some (0x04000540 + sd * 2097152 + sa * 65536)
  | .popc sd sa => some (0x04000580 + sd * 2097152 + sa * 65536)
  | .mul sd sa sb => some (0x08000000 + sd * 2097152 + sa * 65536 + sb * 2048)
  | .mulh sd sa sb => some (0x08000040 + sd * 2097152 + sa * 65536 + sb * 2048)
  | .mulhu sd sa sb => some (0x08000080 + sd * 2097152 + sa * 65536 + sb * 2048)
  | .div sd sa sb => some (0x080000C0 + sd * 2097152 + sa * 65536 + sb * 2048)
  | .divu sd sa sb => some (0x08000100 + sd * 2097152 + sa * 65536 + sb * 2048)
  | .rem sd sa sb => some (0x08000140 + sd * 2097152 + sa * 65536 + sb * 2048)
  | .remu sd sa sb => some (0x08000180 + sd * 2097152 + sa * 65536 + sb * 2048)
  | .addi sd sa imm => some (0x0C000000 + sd * 2097152 + sa * 65536 + imm)
  | .andi sd sa imm => some (0x10000000 + sd * 2097152 + sa * 65536 + imm)
  | .ori sd sa imm => some (0x14000000 + sd * 2097152 + sa * 65536 + imm)
  | .xori sd sa imm => some (0x18000000 + sd * 2097152 + sa * 65536 + imm)
  | .slti sd sa imm => some (0x1C000000 + sd * 2097152 + sa * 65536 + imm)
  | .sltiu sd sa imm => some (0x20000000 + sd * 2097152 + sa * 65536 + imm)
  | .slli sd sa sh => some (0x24000000 + sd * 2097152 + sa * 65536 + sh)
  | .srli sd sa sh => some (0x24004000 + sd * 2097152 + sa * 65536 + sh)
  | .srai sd sa sh => some (0x24008000 + sd * 2097152 + sa * 65536 + sh)
  | .lui sd imm => some (0x28000000 + sd * 2097152 + imm)
  | .orhi sd sa imm => some (0x2C000000 + sd * 2097152 + sa * 65536 + imm)
  | .ld sd sa ty off => some (0x40000000 + sd * 2097152 + sa * 65536 + ty * 8192 + off)
  | .st sv sa ty off => some (0x44000000 + sv * 2097152 + sa * 65536 + ty * 8192 + off)
  | .ldx sd sa sb ty => some (0x48000000 + sd * 2097152 + sa * 65536 + sb * 2048 + ty * 256)
  | .stx sv sa sb ty => some (0x4C000000 + sv * 2097152 + sa * 65536 + sb * 2048 + ty * 256)
  | .amoAdd sd sa sb w ord scope => some (0x60000000 + sd * 2097152 + sa * 65536 + sb * 2048 + w * 64 + ord * 16 + scope * 2)
  | .amoAnd sd sa sb w ord scope => some (0x60000080 + sd * 2097152 + sa * 65536 + sb * 2048 + w * 64 + ord * 16 + scope * 2)
  | .amoOr sd sa sb w ord scope => some (0x60000100 + sd * 2097152 + sa * 65536 + sb * 2048 + w * 64 + ord * 16 + scope * 2)
  | .amoXor sd sa sb w ord scope => some (0x60000180 + sd * 2097152 + sa * 65536 + sb * 2048 + w * 64 + ord * 16 + scope * 2)
  | .amoMin sd sa sb w ord scope => some (0x60000200 + sd * 2097152 + sa * 65536 + sb * 2048 + w * 64 + ord * 16 + scope * 2)
  | .amoMax sd sa sb w ord scope => some (0x60000280 + sd * 2097152 + sa * 65536 + sb * 2048 + w * 64 + ord * 16 + scope * 2)
  | .amoMinu sd sa sb w ord scope => some (0x60000300 + sd * 2097152 + sa * 65536 + sb * 2048 + w * 64 + ord * 16 + scope * 2)
  | .amoMaxu sd sa sb w ord scope => some (0x60000380 + sd * 2097152 + sa * 65536 + sb * 2048 + w * 64 + ord * 16 + scope * 2)
  | .amoSwap sd sa sb w ord scope => some (0x60000400 + sd * 2097152 + sa * 65536 + sb * 2048 + w * 64 + ord * 16 + scope * 2)
  | .amoCas sd sa sb w ord scope => some (0x64000000 + sd * 2097152 + sa * 65536 + sb * 2048 + w * 64 + ord * 16 + scope * 2)
  | .fenceC mask => some (0x70000000 + mask)
  | .fenceAcq scope mask => some (0x70100000 + scope * 131072 + mask)
  | .fenceRel scope mask => some (0x70200000 + scope * 131072 + mask)
  | .fenceAcqrel scope mask => some (0x70300000 + scope * 131072 + mask)
  | .sqSemSig scope sem => some (0x74000000 + scope * 2097152 + sem)
  | .sqSemWait scope sem => some (0x75000000 + scope * 2097152 + sem)
  | .semSigr sa sd sem => some (0x76000000 + sa * 65536 + sd * 2048 + sem)
  | .sqTlWait tl sa => some (0x78000000 + tl * 2097152 + sa * 65536)
  | .tlRd tl sd => some (0x79000000 + tl * 2097152 + sd * 2048)
  | .tlRdi tl sd => some (0x7A000000 + tl * 2097152 + sd * 2048)
  | .tlErr tl sd => some (0x7B000000 + tl * 2097152 + sd * 2048)
  | .sqBarInit sa sb => some (0x7C000000 + sa * 65536 + sb * 2048)
  | .sqBarWait sa sd => some (0x7D000000 + sa * 65536 + sd * 64)
  | .rinv sa sb => some (0x7E000000 + sa * 65536 + sb * 2048)
  | .beq sa sb off => some (0x80000000 + sa * 2097152 + sb * 65536 + off)
  | .bne sa sb off => some (0x84000000 + sa * 2097152 + sb * 65536 + off)
  | .blt sa sb off => some (0x88000000 + sa * 2097152 + sb * 65536 + off)
  | .bge sa sb off => some (0x8C000000 + sa * 2097152 + sb * 65536 + off)
  | .bltu sa sb off => some (0x90000000 + sa * 2097152 + sb * 65536 + off)
  | .bgeu sa sb off => some (0x94000000 + sa * 2097152 + sb * 65536 + off)
  | .jal sd off => some (0x98000000 + sd * 524288 + off)
  | .jalr sd sa off => some (0x99000000 + sd * 524288 + sa * 16384 + off)
  | .jtab sd sa off => some (0x9A000000 + sd * 524288 + sa * 16384 + off)
  | .sqLbr lev off => some (0x9C000000 + lev * 8388608 + off)
  | .cbPub sd sa sb => some (0xA0000000 + sd * 524288 + sa * 16384 + sb * 512)
  | .cbPin sd sa sb => some (0xA1000000 + sd * 524288 + sa * 16384 + sb * 512)
  | .cbUnpin sd sa sb => some (0xA2000000 + sd * 524288 + sa * 16384 + sb * 512)
  | .lrPatch sd sa sb field => some (0xA4000000 + sd * 524288 + sa * 16384 + sb * 512 + field)
  | .lrArm sd sa sb => some (0xA5000000 + sd * 524288 + sa * 16384 + sb * 512)
  | .asgWr sa rsel => some (0xB0000000 + sa * 65536 + rsel * 16)
  | .asgRd sd rsel => some (0xB0000100 + sd * 2097152 + rsel * 16)
  | .asgPget sd sa => some (0xB0000200 + sd * 2097152 + sa * 65536)
  | .asgPput sa sb => some (0xB0000300 + sa * 65536 + sb * 2048)
  | .asgPfill sa => some (0xB0000400 + sa * 65536)
  | .asgRun sd sa => some (0xB4000000 + sd * 2097152 + sa * 65536)
  | .asgPld sd sa sb => some (0xB4000100 + sd * 2097152 + sa * 65536 + sb * 2048)
  | .asgPst sd sa sb => some (0xB4000200 + sd * 2097152 + sa * 65536 + sb * 2048)
  | .cxCopy sd sa cx => some (0xB8000000 + sd * 2097152 + sa * 65536 + cx * 16384)
  | .cxProg sd cx => some (0xBC000000 + sd * 2097152 + cx * 16384)
  | .sqCrRd sd csel => some (0xC0000000 + sd * 1048576 + csel * 4096)
  | .sqCrWr sa csel => some (0xC2000000 + sa * 1048576 + csel * 4096)
  | .sqTrap code => some (0xC4000000 + code)
  | .sqEnd => some (0xC8000000)
  | .sqYield => some (0xCC000000)
  | .lcRd sd lev => some (0xD0000000 + sd * 2097152 + lev * 262144)
  | .lcIt sd lev => some (0xD0020000 + sd * 2097152 + lev * 262144)
  | .pfxImm imm => some (0xF8000000 + imm)
  | .pfxOrd cls ord scope => some (0xF9000000 + cls * 256 + ord * 32 + scope * 4)
  | .vadd stop vd va vb pg => some (0x02000000 + stop * 2147483648 + vd * 262144 + va * 2048 + vb * 16 + pg)
  | .vsub stop vd va vb pg => some (0x04000000 + stop * 2147483648 + vd * 262144 + va * 2048 + vb * 16 + pg)
  | .vmul stop vd va vb pg => some (0x06000000 + stop * 2147483648 + vd * 262144 + va * 2048 + vb * 16 + pg)
  | .vfma stop vd va vb pg => some (0x08000000 + stop * 2147483648 + vd * 262144 + va * 2048 + vb * 16 + pg)
  | .vfmaR stop vd va vb pg => some (0x0A000000 + stop * 2147483648 + vd * 262144 + va * 2048 + vb * 16 + pg)
  | .vfms stop vd va vb pg => some (0x0C000000 + stop * 2147483648 + vd * 262144 + va * 2048 + vb * 16 + pg)
  | .vfmsR stop vd va vb pg => some (0x0E000000 + stop * 2147483648 + vd * 262144 + va * 2048 + vb * 16 + pg)
  | .vmin stop vd va vb pg => some (0x10000000 + stop * 2147483648 + vd * 262144 + va * 2048 + vb * 16 + pg)
  | .vmax stop vd va vb pg => some (0x12000000 + stop * 2147483648 + vd * 262144 + va * 2048 + vb * 16 + pg)
  | .vand stop vd va vb pg => some (0x14000000 + stop * 2147483648 + vd * 262144 + va * 2048 + vb * 16 + pg)
  | .vor stop vd va vb pg => some (0x16000000 + stop * 2147483648 + vd * 262144 + va * 2048 + vb * 16 + pg)
  | .vxor stop vd va vb pg => some (0x18000000 + stop * 2147483648 + vd * 262144 + va * 2048 + vb * 16 + pg)
  | .vshl stop vd va vb pg => some (0x1A000000 + stop * 2147483648 + vd * 262144 + va * 2048 + vb * 16 + pg)
  | .vshr stop vd va vb pg => some (0x1C000000 + stop * 2147483648 + vd * 262144 + va * 2048 + vb * 16 + pg)
  | .vqadd stop vd va vb pg => some (0x1E000000 + stop * 2147483648 + vd * 262144 + va * 2048 + vb * 16 + pg)
  | .vqsub stop vd va vb pg => some (0x20000000 + stop * 2147483648 + vd * 262144 + va * 2048 + vb * 16 + pg)
  | .vsel stop vd va vb pg => some (0x22000000 + stop * 2147483648 + vd * 262144 + va * 2048 + vb * 16 + pg)
  | .vcmpEq stop pd va vb pg => some (0x24000000 + stop * 2147483648 + pd * 2097152 + va * 2048 + vb * 16 + pg)
  | .vcmpNe stop pd va vb pg => some (0x24040000 + stop * 2147483648 + pd * 2097152 + va * 2048 + vb * 16 + pg)
  | .vcmpLt stop pd va vb pg => some (0x24080000 + stop * 2147483648 + pd * 2097152 + va * 2048 + vb * 16 + pg)
  | .vcmpLe stop pd va vb pg => some (0x240C0000 + stop * 2147483648 + pd * 2097152 + va * 2048 + vb * 16 + pg)
  | .vcmpGt stop pd va vb pg => some (0x24100000 + stop * 2147483648 + pd * 2097152 + va * 2048 + vb * 16 + pg)
  | .vcmpGe stop pd va vb pg => some (0x24140000 + stop * 2147483648 + pd * 2097152 + va * 2048 + vb * 16 + pg)
  | .vcmpUnord stop pd va vb pg => some (0x24180000 + stop * 2147483648 + pd * 2097152 + va * 2048 + vb * 16 + pg)
  | .vaddVs stop vd va ar pg => some (0x26000000 + stop * 2147483648 + vd * 262144 + va * 2048 + ar * 128 + pg)
  | .vsubVs stop vd va ar pg => some (0x26000010 + stop * 2147483648 + vd * 262144 + va * 2048 + ar * 128 + pg)
  | .vmulVs stop vd va ar pg => some (0x26000020 + stop * 2147483648 + vd * 262144 + va * 2048 + ar * 128 + pg)
  | .vminVs stop vd va ar pg => some (0x26000030 + stop * 2147483648 + vd * 262144 + va * 2048 + ar * 128 + pg)
  | .vmaxVs stop vd va ar pg => some (0x26000040 + stop * 2147483648 + vd * 262144 + va * 2048 + ar * 128 + pg)
  | .vfmaVs stop vd va ar pg => some (0x26000050 + stop * 2147483648 + vd * 262144 + va * 2048 + ar * 128 + pg)
  | .vrsub stop vd va ar pg => some (0x26000060 + stop * 2147483648 + vd * 262144 + va * 2048 + ar * 128 + pg)
  | .vbcast stop vd ar pg => some (0x26000070 + stop * 2147483648 + vd * 262144 + ar * 128 + pg)
  | .vmov stop vd va pg => some (0x28000000 + stop * 2147483648 + vd * 262144 + va * 2048 + pg)
  | .vneg stop vd va pg => some (0x28000040 + stop * 2147483648 + vd * 262144 + va * 2048 + pg)
  | .vabs stop vd va pg => some (0x28000080 + stop * 2147483648 + vd * 262144 + va * 2048 + pg)
  | .vnot stop vd va pg => some (0x280000C0 + stop * 2147483648 + vd * 262144 + va * 2048 + pg)
  | .vclz stop vd va pg => some (0x28000100 + stop * 2147483648 + vd * 262144 + va * 2048 + pg)
  | .vpopc stop vd va pg => some (0x28000140 + stop * 2147483648 + vd * 262144 + va * 2048 + pg)
  | .vrnd stop vd va pg => some (0x28000180 + stop * 2147483648 + vd * 262144 + va * 2048 + pg)
  | .vcvt stop vd va sty dty part => some (0x2A000000 + stop * 2147483648 + vd * 262144 + va * 2048 + sty * 128 + dty * 8 + part * 2)
  | .vrcp stop vd va pg => some (0x40000000 + stop * 2147483648 + vd * 262144 + va * 2048 + pg)
  | .vrsqrt stop vd va pg => some (0x40000040 + stop * 2147483648 + vd * 262144 + va * 2048 + pg)
  | .vsqrt stop vd va pg => some (0x40000080 + stop * 2147483648 + vd * 262144 + va * 2048 + pg)
  | .vexp2 stop vd va pg => some (0x400000C0 + stop * 2147483648 + vd * 262144 + va * 2048 + pg)
  | .vlog2 stop vd va pg => some (0x40000100 + stop * 2147483648 + vd * 262144 + va * 2048 + pg)
  | .vexp stop vd va pg => some (0x40000140 + stop * 2147483648 + vd * 262144 + va * 2048 + pg)
  | .vtanh stop vd va pg => some (0x40000180 + stop * 2147483648 + vd * 262144 + va * 2048 + pg)
  | .vsigm stop vd va pg => some (0x400001C0 + stop * 2147483648 + vd * 262144 + va * 2048 + pg)
  | .vdiv stop vd va vb pg => some (0x42000000 + stop * 2147483648 + vd * 262144 + va * 2048 + vb * 16 + pg)
  | .vredSum stop ad va pg => some (0x44000000 + stop * 2147483648 + ad * 2097152 + va * 16384 + pg)
  | .vredMin stop ad va pg => some (0x44000080 + stop * 2147483648 + ad * 2097152 + va * 16384 + pg)
  | .vredMax stop ad va pg => some (0x44000100 + stop * 2147483648 + ad * 2097152 + va * 16384 + pg)
  | .vredAnd stop ad va pg => some (0x44000180 + stop * 2147483648 + ad * 2097152 + va * 16384 + pg)
  | .vredOr stop ad va pg => some (0x44000200 + stop * 2147483648 + ad * 2097152 + va * 16384 + pg)
  | .vredXor stop ad va pg => some (0x44000280 + stop * 2147483648 + ad * 2097152 + va * 16384 + pg)
  | .vperm stop vd va vb pg => some (0x46000000 + stop * 2147483648 + vd * 262144 + va * 2048 + vb * 16 + pg)
  | .vcompress stop vd va ad pg => some (0x48000000 + stop * 2147483648 + vd * 262144 + va * 2048 + ad * 128 + pg)
  | .vexpand stop vd va pg => some (0x4A000000 + stop * 2147483648 + vd * 262144 + va * 2048 + pg)
  | .vslup stop vd va ar pg => some (0x4C000000 + stop * 2147483648 + vd * 262144 + va * 2048 + ar * 128 + pg)
  | .vsldn stop vd va ar pg => some (0x4C000010 + stop * 2147483648 + vd * 262144 + va * 2048 + ar * 128 + pg)
  | .vbcastl stop vd va ar pg => some (0x4C000020 + stop * 2147483648 + vd * 262144 + va * 2048 + ar * 128 + pg)
  | .vext stop ad va ar => some (0x4C000030 + stop * 2147483648 + ad * 262144 + va * 2048 + ar * 128)
  | .vins stop vd av ar => some (0x4C000040 + stop * 2147483648 + vd * 262144 + av * 16384 + ar * 128)
  | .vld stop vd ab off => some (0x58000000 + stop * 2147483648 + vd * 262144 + ab * 16384 + off)
  | .vst stop va ab off => some (0x5A000000 + stop * 2147483648 + va * 262144 + ab * 16384 + off)
  | .vldx stop vd ab vb pg => some (0x5C000000 + stop * 2147483648 + vd * 262144 + ab * 16384 + vb * 128 + pg)
  | .vstp stop va ab pg => some (0x5E000000 + stop * 2147483648 + va * 262144 + ab * 16384 + pg)
  | .vstx stop va ab vb pg => some (0x60000000 + stop * 2147483648 + va * 262144 + ab * 16384 + vb * 128 + pg)
  | .pand stop pd pa pb => some (0x68000000 + stop * 2147483648 + pd * 2097152 + pa * 131072 + pb * 8192)
  | .por stop pd pa pb => some (0x68000400 + stop * 2147483648 + pd * 2097152 + pa * 131072 + pb * 8192)
  | .pxor stop pd pa pb => some (0x68000800 + stop * 2147483648 + pd * 2097152 + pa * 131072 + pb * 8192)
  | .pandn stop pd pa pb => some (0x68000C00 + stop * 2147483648 + pd * 2097152 + pa * 131072 + pb * 8192)
  | .pnot stop pd pa => some (0x68001000 + stop * 2147483648 + pd * 2097152 + pa * 131072)
  | .pset stop pd => some (0x68001400 + stop * 2147483648 + pd * 2097152)
  | .pclr stop pd => some (0x68001800 + stop * 2147483648 + pd * 2097152)
  | .pmov stop pd pa => some (0x68001C00 + stop * 2147483648 + pd * 2097152 + pa * 131072)
  | .pcount stop ad pa => some (0x6A000000 + stop * 2147483648 + ad * 2097152 + pa * 131072)
  | .pfirst stop ad pa => some (0x6A004000 + stop * 2147483648 + ad * 2097152 + pa * 131072)
  | .pwhile stop ad pa => some (0x6A008000 + stop * 2147483648 + ad * 2097152 + pa * 131072)
  | .veCrRd stop ar csel => some (0x6E000000 + stop * 2147483648 + ar * 524288 + csel * 2048)
  | .veCrRdHi stop ar csel => some (0x6E800000 + stop * 2147483648 + ar * 524288 + csel * 2048)
  | .veCrWr stop ar csel => some (0x6F000000 + stop * 2147483648 + ar * 524288 + csel * 2048)
  | .veLbr stop lev off => some (0x70000000 + stop * 2147483648 + lev * 4194304 + off)
  | .veSemSig stop sem => some (0x72000000 + stop * 2147483648 + sem)
  | .veSemWait stop sem => some (0x72800000 + stop * 2147483648 + sem)
  | .veTlWait stop tl aa => some (0x73000000 + stop * 2147483648 + tl * 1048576 + aa * 65536)
  | .veEnd stop => some (0x74000000 + stop * 2147483648)
  | .veTrap stop code => some (0x74800000 + stop * 2147483648 + code)
  | .veYield stop => some (0x75000000 + stop * 2147483648)
  | .bz stop ar off => some (0x76000000 + stop * 2147483648 + ar * 1048576 + off)
  | .bnz stop ar off => some (0x77000000 + stop * 2147483648 + ar * 1048576 + off)
  | .aAdd stop ad aa ab => some (0x78000000 + stop * 2147483648 + ad * 2097152 + aa * 131072 + ab * 8192)
  | .aSub stop ad aa ab => some (0x78000100 + stop * 2147483648 + ad * 2097152 + aa * 131072 + ab * 8192)
  | .aMul stop ad aa ab => some (0x78000200 + stop * 2147483648 + ad * 2097152 + aa * 131072 + ab * 8192)
  | .aAnd stop ad aa ab => some (0x78000300 + stop * 2147483648 + ad * 2097152 + aa * 131072 + ab * 8192)
  | .aOr stop ad aa ab => some (0x78000400 + stop * 2147483648 + ad * 2097152 + aa * 131072 + ab * 8192)
  | .aXor stop ad aa ab => some (0x78000500 + stop * 2147483648 + ad * 2097152 + aa * 131072 + ab * 8192)
  | .aSll stop ad aa ab => some (0x78000600 + stop * 2147483648 + ad * 2097152 + aa * 131072 + ab * 8192)
  | .aSrl stop ad aa ab => some (0x78000700 + stop * 2147483648 + ad * 2097152 + aa * 131072 + ab * 8192)
  | .aSra stop ad aa ab => some (0x78000800 + stop * 2147483648 + ad * 2097152 + aa * 131072 + ab * 8192)
  | .aMin stop ad aa ab => some (0x78000900 + stop * 2147483648 + ad * 2097152 + aa * 131072 + ab * 8192)
  | .aMax stop ad aa ab => some (0x78000A00 + stop * 2147483648 + ad * 2097152 + aa * 131072 + ab * 8192)
  | .aMinu stop ad aa ab => some (0x78000B00 + stop * 2147483648 + ad * 2097152 + aa * 131072 + ab * 8192)
  | .aMaxu stop ad aa ab => some (0x78000C00 + stop * 2147483648 + ad * 2097152 + aa * 131072 + ab * 8192)
  | .aSlt stop ad aa ab => some (0x78000D00 + stop * 2147483648 + ad * 2097152 + aa * 131072 + ab * 8192)
  | .aSltu stop ad aa ab => some (0x78000E00 + stop * 2147483648 + ad * 2097152 + aa * 131072 + ab * 8192)
  | .aLc stop ad lev => some (0x78000F00 + stop * 2147483648 + ad * 2097152 + lev * 8192)
  | .aIt stop ad lev => some (0x78001000 + stop * 2147483648 + ad * 2097152 + lev * 8192)
  | .aAddi stop ad aa imm => some (0x7A000000 + stop * 2147483648 + ad * 2097152 + aa * 131072 + imm)
  | .aLui stop ad imm => some (0x7A010000 + stop * 2147483648 + ad * 2097152 + imm)
  | .mPass afmt asrc aga agc rowsM1 z stg => some (0x04000000 + afmt * 8388608 + asrc * 2097152 + aga * 262144 + agc * 32768 + rowsM1 * 256 + z * 128 + stg * 32)
  | .mPassi afmt asrc aga agc rowsM1 z stg => some (0x08000000 + afmt * 8388608 + asrc * 2097152 + aga * 262144 + agc * 32768 + rowsM1 * 256 + z * 128 + stg * 32)
  | .mGpass afmt asrc aga agg rowsM1 stg => some (0x40000000 + afmt * 8388608 + asrc * 2097152 + aga * 262144 + agg * 32768 + rowsM1 * 256 + stg * 32)
  | .gSum agg agi agc z rowsM1 stg => some (0x44000000 + agg * 8388608 + agi * 1048576 + agc * 131072 + z * 65536 + rowsM1 * 256 + stg * 64)
  | .mConv afmt agp agc rowsM1 z stg tap => some (0x60000000 + afmt * 8388608 + agp * 1048576 + agc * 131072 + rowsM1 * 2048 + z * 1024 + stg * 256 + tap)
  | .mShape off => some (0x64000000 + off)
  | .mClr agc rowsM1 stg => some (0x68000000 + agc * 32768 + rowsM1 * 256 + stg * 32)
  | .mTq sel off => some (0x80000000 + sel * 16777216 + off)
  | .mCrLd csel off => some (0xA0000000 + csel * 65536 + off)
  | .mCrSt csel off => some (0xA1000000 + csel * 65536 + off)
  | .mCrImm csel imm => some (0xA2000000 + csel * 65536 + imm)
  | .meSemSig sem => some (0xA4000000 + sem)
  | .meSemWait sem => some (0xA5000000 + sem)
  | .meTlWait tl inc => some (0xA6000000 + tl * 2097152 + inc)
  | .meLbr lev off => some (0xA8000000 + lev * 8388608 + off)
  | .meEnd => some (0xAC000000)
  | .meTrap code => some (0xAD000000 + code)
  | .meYield => some (0xAE000000)
  | .mB off => some (0xB0000000 + off)
  | .xlLd h cc cbf rec cb fo bar => some (0x04000000 + h * 4194304 + cc * 262144 + cbf * 16384 + rec * 16 + cb * 4 + fo * 2 + bar)
  | .xlGather h cc cbf rec cb fo bar => some (0x08000000 + h * 4194304 + cc * 262144 + cbf * 16384 + rec * 16 + cb * 4 + fo * 2 + bar)
  | .xlGather8 h cc cbf rec cb bar => some (0x0C000000 + h * 4194304 + cc * 262144 + cbf * 16384 + rec * 16 + cb * 4 + bar)
  | .xlFeed h cc rec ff fo => some (0x10000000 + h * 4194304 + cc * 262144 + rec * 16 + ff * 4 + fo * 2)
  | .xlPlatenDense h cc cbf rec => some (0x14000000 + h * 4194304 + cc * 262144 + cbf * 16384 + rec * 16)
  | .xlPlatenCw h cc cbf rec => some (0x14000004 + h * 4194304 + cc * 262144 + cbf * 16384 + rec * 16)
  | .xlPlatenImage h cc cbf rec => some (0x14000008 + h * 4194304 + cc * 262144 + cbf * 16384 + rec * 16)
  | .xlCase h cc cbf => some (0x18000000 + h * 4194304 + cc * 262144 + cbf * 16384)
  | .xlCaseAuto h cc => some (0x18000004 + h * 4194304 + cc * 262144)
  | .xlExpand h cc cbf rec cb fo bar => some (0x1C000000 + h * 4194304 + cc * 262144 + cbf * 16384 + rec * 16 + cb * 8 + fo * 2 + bar)
  | .xlExpandAuto h cc cbf rec cb fo bar => some (0x1C000004 + h * 4194304 + cc * 262144 + cbf * 16384 + rec * 16 + cb * 8 + fo * 2 + bar)
  | .xlRoute h cc rec => some (0x20000000 + h * 4194304 + cc * 262144 + rec * 16)
  | .xlAcflush cc rec last => some (0x24000000 + cc * 262144 + rec * 16 + last * 4)
  | .xsSt h cc cbf rec cb => some (0x28000000 + h * 4194304 + cc * 262144 + cbf * 16384 + rec * 16 + cb * 4)
  | .xsStash h cc cbf rec cb => some (0x2C000000 + h * 4194304 + cc * 262144 + cbf * 16384 + rec * 16 + cb * 4)
  | .xsTopk cc cbf rec merge => some (0x30000000 + cc * 262144 + cbf * 16384 + rec * 16 + merge * 4)
  | .xsUpd h cc cbf rec cbg => some (0x34000000 + h * 4194304 + cc * 262144 + cbf * 16384 + rec * 16 + cbg * 4)
  | .xsScatter h cc cbf rec cb acc => some (0x38000000 + h * 4194304 + cc * 262144 + cbf * 16384 + rec * 16 + cb * 8 + acc * 4)
  | .xsReidx h cc cbf rec => some (0x3C000000 + h * 4194304 + cc * 262144 + cbf * 16384 + rec * 16)
  | .xsRinv h cc rec => some (0x80000000 + h * 4194304 + cc * 262144 + rec * 16)
  | .xlsBarInit ca cb => some (0x84000000 + ca * 262144 + cb * 16384)
  | .xlsBarWait cd ca => some (0x88000000 + cd * 4194304 + ca * 262144)
  | .xsColl h rec => some (0x90000000 + h * 4194304 + rec * 16)
  | .cAdd cd ca cb => some (0xC0000000 + cd * 4194304 + ca * 262144 + cb * 16384)
  | .cSub cd ca cb => some (0xC0000200 + cd * 4194304 + ca * 262144 + cb * 16384)
  | .cMul cd ca cb => some (0xC0000400 + cd * 4194304 + ca * 262144 + cb * 16384)
  | .cAnd cd ca cb => some (0xC0000600 + cd * 4194304 + ca * 262144 + cb * 16384)
  | .cOr cd ca cb => some (0xC0000800 + cd * 4194304 + ca * 262144 + cb * 16384)
  | .cXor cd ca cb => some (0xC0000A00 + cd * 4194304 + ca * 262144 + cb * 16384)
  | .cSll cd ca cb => some (0xC0000C00 + cd * 4194304 + ca * 262144 + cb * 16384)
  | .cSrl cd ca cb => some (0xC0000E00 + cd * 4194304 + ca * 262144 + cb * 16384)
  | .cSra cd ca cb => some (0xC0001000 + cd * 4194304 + ca * 262144 + cb * 16384)
  | .cMin cd ca cb => some (0xC0001200 + cd * 4194304 + ca * 262144 + cb * 16384)
  | .cMax cd ca cb => some (0xC0001400 + cd * 4194304 + ca * 262144 + cb * 16384)
  | .cMinu cd ca cb => some (0xC0001600 + cd * 4194304 + ca * 262144 + cb * 16384)
  | .cMaxu cd ca cb => some (0xC0001800 + cd * 4194304 + ca * 262144 + cb * 16384)
  | .cSlt cd ca cb => some (0xC0001A00 + cd * 4194304 + ca * 262144 + cb * 16384)
  | .cSltu cd ca cb => some (0xC0001C00 + cd * 4194304 + ca * 262144 + cb * 16384)
  | .cLc cd lev => some (0xC0001E00 + cd * 4194304 + lev * 16384)
  | .cIt cd lev => some (0xC0002000 + cd * 4194304 + lev * 16384)
  | .hMv cd ca => some (0xC0002200 + cd * 4194304 + ca * 262144)
  | .cHmv cd ca => some (0xC0002400 + cd * 4194304 + ca * 262144)
  | .cAddi cd ca imm => some (0xC4000000 + cd * 4194304 + ca * 262144 + imm)
  | .cLui cd imm => some (0xC4010000 + cd * 4194304 + imm)
  | .hLi cd imm => some (0xC4020000 + cd * 4194304 + imm)
  | .cBeq ca cb off => some (0xC8000000 + ca * 1048576 + cb * 65536 + off)
  | .cBne ca cb off => some (0xC9000000 + ca * 1048576 + cb * 65536 + off)
  | .cBltu ca cb off => some (0xCA000000 + ca * 1048576 + cb * 65536 + off)
  | .cBgeu ca cb off => some (0xCB000000 + ca * 1048576 + cb * 65536 + off)
  | .xlsLbr lev off => some (0xCC000000 + lev * 8388608 + off)
  | .xlsSemSig sem => some (0xD0000000 + sem)
  | .xlsSemWait sem => some (0xD1000000 + sem)
  | .xlsTlWait tl ca => some (0xD2000000 + tl * 2097152 + ca * 131072)
  | .xlsCrRd cr csel => some (0xD4000000 + cr * 1048576 + csel * 4096)
  | .xlsCrRdHi cr csel => some (0xD5000000 + cr * 1048576 + csel * 4096)
  | .xlsCrWr cr csel => some (0xD6000000 + cr * 1048576 + csel * 4096)
  | .xlsEnd => some (0xD8000000)
  | .xlsTrap code => some (0xD9000000 + code)
  | .xlsYield => some (0xDA000000)
  | .sqLoadReturn _ _ => none
  | .waitSatisfied _ _ _ => none
  | .commandQueueRoom _ _ _ => none
  | .xlXsCommandComplete _ _ _ _ => none
  | .cxCopyComplete _ _ _ _ => none
  | .asgRunStart _ _ => none
  | .asgRound _ _ => none
  | .asgFinish _ _ => none
  | .asgPriceCommandComplete _ _ => none
  | .cleChunkMessage _ _ _ _ _ _ _ _ => none
  | .cleMemberTimeout _ _ _ => none
  | .cleCollectiveComplete _ _ _ => none
  | .streamRetire _ _ _ => none
  | .placementRetire _ _ => none
  | .l2Eviction _ _ => none
  | .caseFillGrant _ _ _ => none
  | .caseFillLanded _ _ _ => none
  | .caseScrub _ _ _ => none
  | .caseFillRechoose _ _ _ => none
  | .preemptRequest _ _ => none
  | .drainEnd _ _ => none
  | .drainBudgetExpired _ _ => none
  | .contextHalted _ _ => none
  | .pageFault _ _ _ => none
  | .pfqRoomAppend _ _ _ => none
  | .pfansOk _ _ => none
  | .pfansFail _ _ => none
  | .priResponse _ _ _ => none
  | .ttcinvTiles _ _ _ _ _ => none
  | .ttcinvTensor _ _ _ => none
  | .ttcinvPartition _ _ => none
  | .ttcinvDone _ _ => none
  | .atsInvalidate _ _ _ => none
  | .armdb _ _ => none
  | .armqEntryWrite _ _ => none
  | .postSub _ _ _ => none
  | .postSubdone _ _ _ => none
  | .ldone _ _ _ => none
  | .scmdValidate _ _ => none
  | .scmdCancel _ _ => none
  | .scmdPreempt _ _ => none
  | .scmdKill _ _ => none
  | .scmdStart _ _ => none
  | .bind _ _ => none
  | .resumeBind _ _ => none
  | .sliceExpiry _ _ => none
  | .layoutCheck _ => none
  | .layoutCommit _ => none
  | .layoutAbort => none
  | .shadowWrite _ _ _ => none
  | .quiesceDone => none
  | .layoutTick => none
  | .residentWrite _ _ => none
  | .attreq _ _ => none
  | .attestDone _ => none
  | .powerOnReset _ _ => none
  | .bootgo _ => none
  | .maListen _ => none
  | .maFreeze _ _ => none
  | .maRelease _ => none
  | .maCancel _ _ => none
  | .freezeCleGraceExpiry _ => none
  | .freezeDone _ => none
  | .stateTransferDone _ _ => none
  | .pullReceived _ _ _ => none
  | .pushSelect _ => none
  | .pushFirstFlit _ _ _ => none
  | .tileLanded _ _ _ _ _ => none
  | .migrationAck _ _ _ _ => none
  | .transferFail _ _ _ => none
  | .pullTimeout _ _ _ => none
  | .redirectReceived _ _ _ _ _ => none
  | .hostDma _ _ _ => none
  | .peerRequest _ => none
  | .laneFail _ _ => none
  | .retrainDone _ _ _ _ => none
  | .flitCrcError _ => none
  | .pkgidWrite _ => none
  | .patrolScrub _ _ => none
  | .l2TagParity _ _ _ => none
  | .powerWindow _ => none
  | .registerWrite _ _ _ => none
  | .illegalInstruction _ => none
  | .sqMemoryResponse _ _ => none
  | .meStepComplete _ _ => none
  | .atsTranslationCompletion _ _ _ _ => none
  | .powerOff => none
  | .peerPortRetrain _ _ => none

/-- The stream whose map holds an instruction's word (a word of both transfer units is given to XL); none for an event. -/
def streamOf : Instr → Option StreamId
  | .add _ _ _ => some .sq
  | .sub _ _ _ => some .sq
  | .and _ _ _ => some .sq
  | .or _ _ _ => some .sq
  | .xor _ _ _ => some .sq
  | .sll _ _ _ => some .sq
  | .srl _ _ _ => some .sq
  | .sra _ _ _ => some .sq
  | .slt _ _ _ => some .sq
  | .sltu _ _ _ => some .sq
  | .min _ _ _ => some .sq
  | .max _ _ _ => some .sq
  | .minu _ _ _ => some .sq
  | .maxu _ _ _ => some .sq
  | .sextI8 _ _ => some .sq
  | .sextI16 _ _ => some .sq
  | .sextI32 _ _ => some .sq
  | .zextN8 _ _ => some .sq
  | .zextN16 _ _ => some .sq
  | .zextN32 _ _ => some .sq
  | .clz _ _ => some .sq
  | .ctz _ _ => some .sq
  | .popc _ _ => some .sq
  | .mul _ _ _ => some .sq
  | .mulh _ _ _ => some .sq
  | .mulhu _ _ _ => some .sq
  | .div _ _ _ => some .sq
  | .divu _ _ _ => some .sq
  | .rem _ _ _ => some .sq
  | .remu _ _ _ => some .sq
  | .addi _ _ _ => some .sq
  | .andi _ _ _ => some .sq
  | .ori _ _ _ => some .sq
  | .xori _ _ _ => some .sq
  | .slti _ _ _ => some .sq
  | .sltiu _ _ _ => some .sq
  | .slli _ _ _ => some .sq
  | .srli _ _ _ => some .sq
  | .srai _ _ _ => some .sq
  | .lui _ _ => some .sq
  | .orhi _ _ _ => some .sq
  | .ld _ _ _ _ => some .sq
  | .st _ _ _ _ => some .sq
  | .ldx _ _ _ _ => some .sq
  | .stx _ _ _ _ => some .sq
  | .amoAdd _ _ _ _ _ _ => some .sq
  | .amoAnd _ _ _ _ _ _ => some .sq
  | .amoOr _ _ _ _ _ _ => some .sq
  | .amoXor _ _ _ _ _ _ => some .sq
  | .amoMin _ _ _ _ _ _ => some .sq
  | .amoMax _ _ _ _ _ _ => some .sq
  | .amoMinu _ _ _ _ _ _ => some .sq
  | .amoMaxu _ _ _ _ _ _ => some .sq
  | .amoSwap _ _ _ _ _ _ => some .sq
  | .amoCas _ _ _ _ _ _ => some .sq
  | .fenceC _ => some .sq
  | .fenceAcq _ _ => some .sq
  | .fenceRel _ _ => some .sq
  | .fenceAcqrel _ _ => some .sq
  | .sqSemSig _ _ => some .sq
  | .sqSemWait _ _ => some .sq
  | .semSigr _ _ _ => some .sq
  | .sqTlWait _ _ => some .sq
  | .tlRd _ _ => some .sq
  | .tlRdi _ _ => some .sq
  | .tlErr _ _ => some .sq
  | .sqBarInit _ _ => some .sq
  | .sqBarWait _ _ => some .sq
  | .rinv _ _ => some .sq
  | .beq _ _ _ => some .sq
  | .bne _ _ _ => some .sq
  | .blt _ _ _ => some .sq
  | .bge _ _ _ => some .sq
  | .bltu _ _ _ => some .sq
  | .bgeu _ _ _ => some .sq
  | .jal _ _ => some .sq
  | .jalr _ _ _ => some .sq
  | .jtab _ _ _ => some .sq
  | .sqLbr _ _ => some .sq
  | .cbPub _ _ _ => some .sq
  | .cbPin _ _ _ => some .sq
  | .cbUnpin _ _ _ => some .sq
  | .lrPatch _ _ _ _ => some .sq
  | .lrArm _ _ _ => some .sq
  | .asgWr _ _ => some .sq
  | .asgRd _ _ => some .sq
  | .asgPget _ _ => some .sq
  | .asgPput _ _ => some .sq
  | .asgPfill _ => some .sq
  | .asgRun _ _ => some .sq
  | .asgPld _ _ _ => some .sq
  | .asgPst _ _ _ => some .sq
  | .cxCopy _ _ _ => some .sq
  | .cxProg _ _ => some .sq
  | .sqCrRd _ _ => some .sq
  | .sqCrWr _ _ => some .sq
  | .sqTrap _ => some .sq
  | .sqEnd => some .sq
  | .sqYield => some .sq
  | .lcRd _ _ => some .sq
  | .lcIt _ _ => some .sq
  | .pfxImm _ => some .sq
  | .pfxOrd _ _ _ => some .sq
  | .vadd _ _ _ _ _ => some .ve
  | .vsub _ _ _ _ _ => some .ve
  | .vmul _ _ _ _ _ => some .ve
  | .vfma _ _ _ _ _ => some .ve
  | .vfmaR _ _ _ _ _ => some .ve
  | .vfms _ _ _ _ _ => some .ve
  | .vfmsR _ _ _ _ _ => some .ve
  | .vmin _ _ _ _ _ => some .ve
  | .vmax _ _ _ _ _ => some .ve
  | .vand _ _ _ _ _ => some .ve
  | .vor _ _ _ _ _ => some .ve
  | .vxor _ _ _ _ _ => some .ve
  | .vshl _ _ _ _ _ => some .ve
  | .vshr _ _ _ _ _ => some .ve
  | .vqadd _ _ _ _ _ => some .ve
  | .vqsub _ _ _ _ _ => some .ve
  | .vsel _ _ _ _ _ => some .ve
  | .vcmpEq _ _ _ _ _ => some .ve
  | .vcmpNe _ _ _ _ _ => some .ve
  | .vcmpLt _ _ _ _ _ => some .ve
  | .vcmpLe _ _ _ _ _ => some .ve
  | .vcmpGt _ _ _ _ _ => some .ve
  | .vcmpGe _ _ _ _ _ => some .ve
  | .vcmpUnord _ _ _ _ _ => some .ve
  | .vaddVs _ _ _ _ _ => some .ve
  | .vsubVs _ _ _ _ _ => some .ve
  | .vmulVs _ _ _ _ _ => some .ve
  | .vminVs _ _ _ _ _ => some .ve
  | .vmaxVs _ _ _ _ _ => some .ve
  | .vfmaVs _ _ _ _ _ => some .ve
  | .vrsub _ _ _ _ _ => some .ve
  | .vbcast _ _ _ _ => some .ve
  | .vmov _ _ _ _ => some .ve
  | .vneg _ _ _ _ => some .ve
  | .vabs _ _ _ _ => some .ve
  | .vnot _ _ _ _ => some .ve
  | .vclz _ _ _ _ => some .ve
  | .vpopc _ _ _ _ => some .ve
  | .vrnd _ _ _ _ => some .ve
  | .vcvt _ _ _ _ _ _ => some .ve
  | .vrcp _ _ _ _ => some .ve
  | .vrsqrt _ _ _ _ => some .ve
  | .vsqrt _ _ _ _ => some .ve
  | .vexp2 _ _ _ _ => some .ve
  | .vlog2 _ _ _ _ => some .ve
  | .vexp _ _ _ _ => some .ve
  | .vtanh _ _ _ _ => some .ve
  | .vsigm _ _ _ _ => some .ve
  | .vdiv _ _ _ _ _ => some .ve
  | .vredSum _ _ _ _ => some .ve
  | .vredMin _ _ _ _ => some .ve
  | .vredMax _ _ _ _ => some .ve
  | .vredAnd _ _ _ _ => some .ve
  | .vredOr _ _ _ _ => some .ve
  | .vredXor _ _ _ _ => some .ve
  | .vperm _ _ _ _ _ => some .ve
  | .vcompress _ _ _ _ _ => some .ve
  | .vexpand _ _ _ _ => some .ve
  | .vslup _ _ _ _ _ => some .ve
  | .vsldn _ _ _ _ _ => some .ve
  | .vbcastl _ _ _ _ _ => some .ve
  | .vext _ _ _ _ => some .ve
  | .vins _ _ _ _ => some .ve
  | .vld _ _ _ _ => some .ve
  | .vst _ _ _ _ => some .ve
  | .vldx _ _ _ _ _ => some .ve
  | .vstp _ _ _ _ => some .ve
  | .vstx _ _ _ _ _ => some .ve
  | .pand _ _ _ _ => some .ve
  | .por _ _ _ _ => some .ve
  | .pxor _ _ _ _ => some .ve
  | .pandn _ _ _ _ => some .ve
  | .pnot _ _ _ => some .ve
  | .pset _ _ => some .ve
  | .pclr _ _ => some .ve
  | .pmov _ _ _ => some .ve
  | .pcount _ _ _ => some .ve
  | .pfirst _ _ _ => some .ve
  | .pwhile _ _ _ => some .ve
  | .veCrRd _ _ _ => some .ve
  | .veCrRdHi _ _ _ => some .ve
  | .veCrWr _ _ _ => some .ve
  | .veLbr _ _ _ => some .ve
  | .veSemSig _ _ => some .ve
  | .veSemWait _ _ => some .ve
  | .veTlWait _ _ _ => some .ve
  | .veEnd _ => some .ve
  | .veTrap _ _ => some .ve
  | .veYield _ => some .ve
  | .bz _ _ _ => some .ve
  | .bnz _ _ _ => some .ve
  | .aAdd _ _ _ _ => some .ve
  | .aSub _ _ _ _ => some .ve
  | .aMul _ _ _ _ => some .ve
  | .aAnd _ _ _ _ => some .ve
  | .aOr _ _ _ _ => some .ve
  | .aXor _ _ _ _ => some .ve
  | .aSll _ _ _ _ => some .ve
  | .aSrl _ _ _ _ => some .ve
  | .aSra _ _ _ _ => some .ve
  | .aMin _ _ _ _ => some .ve
  | .aMax _ _ _ _ => some .ve
  | .aMinu _ _ _ _ => some .ve
  | .aMaxu _ _ _ _ => some .ve
  | .aSlt _ _ _ _ => some .ve
  | .aSltu _ _ _ _ => some .ve
  | .aLc _ _ _ => some .ve
  | .aIt _ _ _ => some .ve
  | .aAddi _ _ _ _ => some .ve
  | .aLui _ _ _ => some .ve
  | .mPass _ _ _ _ _ _ _ => some .me
  | .mPassi _ _ _ _ _ _ _ => some .me
  | .mGpass _ _ _ _ _ _ => some .me
  | .gSum _ _ _ _ _ _ => some .me
  | .mConv _ _ _ _ _ _ _ => some .me
  | .mShape _ => some .me
  | .mClr _ _ _ => some .me
  | .mTq _ _ => some .me
  | .mCrLd _ _ => some .me
  | .mCrSt _ _ => some .me
  | .mCrImm _ _ => some .me
  | .meSemSig _ => some .me
  | .meSemWait _ => some .me
  | .meTlWait _ _ => some .me
  | .meLbr _ _ => some .me
  | .meEnd => some .me
  | .meTrap _ => some .me
  | .meYield => some .me
  | .mB _ => some .me
  | .xlLd _ _ _ _ _ _ _ => some .xl
  | .xlGather _ _ _ _ _ _ _ => some .xl
  | .xlGather8 _ _ _ _ _ _ => some .xl
  | .xlFeed _ _ _ _ _ => some .xl
  | .xlPlatenDense _ _ _ _ => some .xl
  | .xlPlatenCw _ _ _ _ => some .xl
  | .xlPlatenImage _ _ _ _ => some .xl
  | .xlCase _ _ _ => some .xl
  | .xlCaseAuto _ _ => some .xl
  | .xlExpand _ _ _ _ _ _ _ => some .xl
  | .xlExpandAuto _ _ _ _ _ _ _ => some .xl
  | .xlRoute _ _ _ => some .xl
  | .xlAcflush _ _ _ => some .xl
  | .xsSt _ _ _ _ _ => some .xs
  | .xsStash _ _ _ _ _ => some .xs
  | .xsTopk _ _ _ _ => some .xs
  | .xsUpd _ _ _ _ _ => some .xs
  | .xsScatter _ _ _ _ _ _ => some .xs
  | .xsReidx _ _ _ _ => some .xs
  | .xsRinv _ _ _ => some .xs
  | .xlsBarInit _ _ => some .xl
  | .xlsBarWait _ _ => some .xl
  | .xsColl _ _ => some .xs
  | .cAdd _ _ _ => some .xl
  | .cSub _ _ _ => some .xl
  | .cMul _ _ _ => some .xl
  | .cAnd _ _ _ => some .xl
  | .cOr _ _ _ => some .xl
  | .cXor _ _ _ => some .xl
  | .cSll _ _ _ => some .xl
  | .cSrl _ _ _ => some .xl
  | .cSra _ _ _ => some .xl
  | .cMin _ _ _ => some .xl
  | .cMax _ _ _ => some .xl
  | .cMinu _ _ _ => some .xl
  | .cMaxu _ _ _ => some .xl
  | .cSlt _ _ _ => some .xl
  | .cSltu _ _ _ => some .xl
  | .cLc _ _ => some .xl
  | .cIt _ _ => some .xl
  | .hMv _ _ => some .xl
  | .cHmv _ _ => some .xl
  | .cAddi _ _ _ => some .xl
  | .cLui _ _ => some .xl
  | .hLi _ _ => some .xl
  | .cBeq _ _ _ => some .xl
  | .cBne _ _ _ => some .xl
  | .cBltu _ _ _ => some .xl
  | .cBgeu _ _ _ => some .xl
  | .xlsLbr _ _ => some .xl
  | .xlsSemSig _ => some .xl
  | .xlsSemWait _ => some .xl
  | .xlsTlWait _ _ => some .xl
  | .xlsCrRd _ _ => some .xl
  | .xlsCrRdHi _ _ => some .xl
  | .xlsCrWr _ _ => some .xl
  | .xlsEnd => some .xl
  | .xlsTrap _ => some .xl
  | .xlsYield => some .xl
  | .sqLoadReturn _ _ => none
  | .waitSatisfied _ _ _ => none
  | .commandQueueRoom _ _ _ => none
  | .xlXsCommandComplete _ _ _ _ => none
  | .cxCopyComplete _ _ _ _ => none
  | .asgRunStart _ _ => none
  | .asgRound _ _ => none
  | .asgFinish _ _ => none
  | .asgPriceCommandComplete _ _ => none
  | .cleChunkMessage _ _ _ _ _ _ _ _ => none
  | .cleMemberTimeout _ _ _ => none
  | .cleCollectiveComplete _ _ _ => none
  | .streamRetire _ _ _ => none
  | .placementRetire _ _ => none
  | .l2Eviction _ _ => none
  | .caseFillGrant _ _ _ => none
  | .caseFillLanded _ _ _ => none
  | .caseScrub _ _ _ => none
  | .caseFillRechoose _ _ _ => none
  | .preemptRequest _ _ => none
  | .drainEnd _ _ => none
  | .drainBudgetExpired _ _ => none
  | .contextHalted _ _ => none
  | .pageFault _ _ _ => none
  | .pfqRoomAppend _ _ _ => none
  | .pfansOk _ _ => none
  | .pfansFail _ _ => none
  | .priResponse _ _ _ => none
  | .ttcinvTiles _ _ _ _ _ => none
  | .ttcinvTensor _ _ _ => none
  | .ttcinvPartition _ _ => none
  | .ttcinvDone _ _ => none
  | .atsInvalidate _ _ _ => none
  | .armdb _ _ => none
  | .armqEntryWrite _ _ => none
  | .postSub _ _ _ => none
  | .postSubdone _ _ _ => none
  | .ldone _ _ _ => none
  | .scmdValidate _ _ => none
  | .scmdCancel _ _ => none
  | .scmdPreempt _ _ => none
  | .scmdKill _ _ => none
  | .scmdStart _ _ => none
  | .bind _ _ => none
  | .resumeBind _ _ => none
  | .sliceExpiry _ _ => none
  | .layoutCheck _ => none
  | .layoutCommit _ => none
  | .layoutAbort => none
  | .shadowWrite _ _ _ => none
  | .quiesceDone => none
  | .layoutTick => none
  | .residentWrite _ _ => none
  | .attreq _ _ => none
  | .attestDone _ => none
  | .powerOnReset _ _ => none
  | .bootgo _ => none
  | .maListen _ => none
  | .maFreeze _ _ => none
  | .maRelease _ => none
  | .maCancel _ _ => none
  | .freezeCleGraceExpiry _ => none
  | .freezeDone _ => none
  | .stateTransferDone _ _ => none
  | .pullReceived _ _ _ => none
  | .pushSelect _ => none
  | .pushFirstFlit _ _ _ => none
  | .tileLanded _ _ _ _ _ => none
  | .migrationAck _ _ _ _ => none
  | .transferFail _ _ _ => none
  | .pullTimeout _ _ _ => none
  | .redirectReceived _ _ _ _ _ => none
  | .hostDma _ _ _ => none
  | .peerRequest _ => none
  | .laneFail _ _ => none
  | .retrainDone _ _ _ _ => none
  | .flitCrcError _ => none
  | .pkgidWrite _ => none
  | .patrolScrub _ _ => none
  | .l2TagParity _ _ _ => none
  | .powerWindow _ => none
  | .registerWrite _ _ _ => none
  | .illegalInstruction _ => none
  | .sqMemoryResponse _ _ => none
  | .meStepComplete _ _ => none
  | .atsTranslationCompletion _ _ _ _ => none
  | .powerOff => none
  | .peerPortRetrain _ _ => none

/-- The first decoder, in the order SQ, VE, ME, XL, XS, that reads word `w`, with its stream. The table's words are not
told apart by their bits (each section decodes its own map, R95), so one order is fixed for a word without its section. -/
noncomputable def decodeAny (w : Nat) : Option (StreamId × Instr) :=
  match decodeSq w with
  | .ok i => some (.sq, i)
  | .error _ => match decodeVe w with
    | .ok i => some (.ve, i)
    | .error _ => match decodeMe w with
      | .ok i => some (.me, i)
      | .error _ => match decodeXl w with
        | .ok i => some (.xl, i)
        | .error _ => match decodeXs w with
          | .ok i => some (.xs, i)
          | .error _ => none

/-- The instruction the decoder reads from a table word of `nbits` bits: every word is 32 bits, one word long (R94). -/
noncomputable def decodeTableWord (nbits w : Nat) : Option Instr :=
  if nbits = 32 then (decodeAny (w % 4294967296)).map (·.2) else none

end Sys2Proof
end

