-- ==== Sys2Proof/Machine/Func.lean ====
section
/-!
DEFINITION. VE's special functions and division (R180 to R182). A transcendental result is formed as a 640-bit approximation
from below whose last bit stands for the digits beyond, then rounded once; no result of the formats lies close enough to a
rounding boundary for the approximation to matter (log 14: DEDUCED).
-/
namespace Sys2Proof.Machine
open Sys2Proof

/-- The fraction bits of an approximation. -/
def fxBits : Nat := 640

/-- ln 2 × 2^640, rounded down. -/
def fxLn2 : Nat :=
  0xb17217f7d1cf79abc9e3b39803f2f6af40f343267298b62d8a0d175b8baafa2be7b876206debac98559552fb4afa1b10ed2eae35c138214427573b291169b8253e96ca16224ae8c51acbda11317c387e

/-- The power series of e^t for t × 2^640 below 1: the term `x` = t^n / n!. -/
def fxExpSum (t : Nat) : Nat → Nat → Nat → Nat
  | 0, _, _ => 0
  | fuel + 1, n, x => if x = 0 then 0 else x + fxExpSum t fuel (n + 1) (x * t / (2 ^ fxBits * n))

/-- e^t × 2^640 for t × 2^640 below ln 2. -/
def fxExp (t : Nat) : Nat := fxExpSum t 200 1 (2 ^ fxBits)

/-- The odd power series of atanh z: the power `x` = z^n. -/
def fxAtanhSum (z2 : Nat) : Nat → Nat → Nat → Nat
  | 0, _, _ => 0
  | fuel + 1, n, x => if x = 0 then 0 else x / n + fxAtanhSum z2 fuel (n + 2) (x * z2 / 2 ^ fxBits)

/-- ln f × 2^640 for f × 2^640 in [1, 2). -/
def fxLn (f : Nat) : Nat :=
  let z := (f - 2 ^ fxBits) * 2 ^ fxBits / (f + 2 ^ fxBits)
  2 * fxAtanhSum (z * z / 2 ^ fxBits) 320 1 z

/-- A finite value as an integer at 2^-640, rounded down. (log 14: DEDUCED) -/
def fxOf (neg : Bool) (m : Nat) (e : Int) : Int :=
  let k : Int := e + fxBits
  let q : Nat := if k ≥ 0 then m * 2 ^ k.toNat else m / 2 ^ (-k).toNat
  if neg then -(q : Int) else q

/-- e^x as q × 2^(k - 640) for an x × 2^640. -/
def fxExpPair (x : Int) : Nat × Int :=
  let k := x / (fxLn2 : Int)
  (fxExp (x - k * fxLn2).toNat, k)

/-- An approximation q × 2^e that is not exact. -/
def inexactFin (neg : Bool) (q : Nat) (e : Int) : FVal := .fin neg (2 * q + 1) (e - 1)

/-- Whether |x| ≥ 2^11, where e^x and 2^x lie beyond every format. -/
def beyond (m : Nat) (e : Int) : Bool := m ≠ 0 && decide (fExp m e ≥ 11)

/-- A value beyond every format: 2^2000 or 2^-2000. -/
def hugeOr (neg : Bool) : FVal := .fin false 1 (if neg then -2000 else 2000)

/-- 2^x of a finite value. -/
def fExp2 (neg : Bool) (m : Nat) (e : Int) : FVal :=
  if beyond m e then hugeOr neg
  else
    let x := fxOf neg m e
    let k := x / (2 ^ fxBits : Nat)
    let f := (x - k * (2 ^ fxBits : Nat)).toNat
    if f = 0 then .fin false 1 k
    else inexactFin false (fxExp (f * fxLn2 / 2 ^ fxBits)) (k - fxBits)

/-- e^x of a finite value. -/
def fExpE (neg : Bool) (m : Nat) (e : Int) : FVal :=
  if m = 0 then .fin false 1 0
  else if beyond m e then hugeOr neg
  else
    let (q, k) := fxExpPair (fxOf neg m e)
    inexactFin false q (k - fxBits)

/-- log₂ x of a finite positive value. -/
def fLog2 (m : Nat) (e : Int) : FVal :=
  let k := fExp m e
  let f := m * 2 ^ (fxBits - Nat.log2 m)
  if f = 2 ^ fxBits then .ofInt k
  else
    let v : Int := k * (2 ^ fxBits : Nat) + (fxLn f * 2 ^ fxBits / fxLn2 : Nat)
    finOfInt false (2 * v + 1) (-(fxBits : Int) - 1)

/-- A number q × 2^k as a natural at 2^-1280, for k of at least -1280. -/
def fxScaled (q : Nat) (k : Int) : Nat := q * 2 ^ (k + 1280).toNat

/-- tanh x of a finite value. -/
def fTanh (neg : Bool) (m : Nat) (e : Int) : FVal :=
  if m = 0 then .zero neg
  else if beyond m (e + 2) then .fin neg (2 ^ 1000 - 1) (-1000)
  else
    let (q, k) := fxExpPair (2 * fxOf false m e)
    let a := fxScaled q k
    let one := fxScaled (2 ^ fxBits) 0
    fQuot neg (a - one) 0 (a + one) 0

/-- 1 / (1 + e^-x) of a finite value. -/
def fSigm (neg : Bool) (m : Nat) (e : Int) : FVal :=
  if m = 0 then .fin false 1 (-1)
  else if beyond m (e + 1) then (if neg then hugeOr true else .fin false (2 ^ 1000 - 1) (-1000))
  else
    let (q, k) := fxExpPair (fxOf false m e)
    let a := fxScaled q k
    let one := fxScaled (2 ^ fxBits) 0
    fQuot false (if neg then one else a) 0 (a + one) 0

/-- The special functions of R180, by MIN. -/
inductive SFun where
  | rcp | rsqrt | sqrt | exp2 | log2 | exp | tanh | sigm
  deriving DecidableEq, Repr

/-- R180 and R181: the value of a function at an operand, with the flags of the special cases. -/
def SFun.value (k : SFun) (v : FVal) : FVal × Flags :=
  match v with
  | .nan s => (.nan false, flagIf s fINV)
  | .inf neg =>
    match k with
    | .rcp => (.zero neg, 0)
    | .rsqrt => if neg then (.nan false, fINV) else (.zero false, 0)
    | .sqrt | .log2 => if neg then (.nan false, fINV) else (.inf false, 0)
    | .exp2 | .exp => if neg then (.zero false, 0) else (.inf false, 0)
    | .tanh => (.fin neg 1 0, 0)
    | .sigm => if neg then (.zero false, 0) else (.fin false 1 0, 0)
  | .fin neg m e =>
    if m = 0 then
      match k with
      | .rcp | .rsqrt => (.inf neg, fDZ)
      | .sqrt | .tanh => (.zero neg, 0)
      | .exp2 | .exp => (.fin false 1 0, 0)
      | .log2 => (.inf true, fDZ)
      | .sigm => (.fin false 1 (-1), 0)
    else
      match k with
      | .rcp => (fQuot neg 1 0 m e, 0)
      | .rsqrt => if neg then (.nan false, fINV) else
        match fRoot m e with
        | .fin _ r f => (fQuot false r f m e, 0)
        | x => (x, 0)
      | .sqrt => if neg then (.nan false, fINV) else (fRoot m e, 0)
      | .exp2 => (fExp2 neg m e, 0)
      | .log2 => if neg then (.nan false, fINV) else (fLog2 m e, 0)
      | .exp => (fExpE neg m e, 0)
      | .tanh => (fTanh neg m e, 0)
      | .sigm => (fSigm neg m e, 0)

/-- R182: the quotient of floats, with INV and DZ. -/
def fDiv (a b : FVal) : FVal × Flags :=
  match a, b with
  | .nan s, .nan t => (.nan false, flagIf (s || t) fINV)
  | .nan s, _ => (.nan false, flagIf s fINV)
  | _, .nan t => (.nan false, flagIf t fINV)
  | .inf _, .inf _ => (.nan false, fINV)
  | .inf s, .fin t _ _ => (.inf (s != t), 0)
  | .fin s _ _, .inf t => (.zero (s != t), 0)
  | .fin s m e, .fin t n f =>
    if n = 0 then (if m = 0 then (.nan false, fINV) else (.inf (s != t), fDZ))
    else if m = 0 then (.zero (s != t), 0)
    else (fQuot (s != t) m e n f, 0)

end Sys2Proof.Machine
end

