-- ==== Sys2Proof/Machine/Lanes.lean ====
section
/-!
DEFINITION. The lanes of VE: element types (R158), the operation of one lane (R171 to R182), and reductions (R56, R183).
-/
namespace Sys2Proof.Machine
open Sys2Proof

/-- An element type of R158. -/
inductive ETy where
  | flt (f : FFmt)
  | int (w : Nat) (signed : Bool)
  deriving DecidableEq, Repr

/-- The type of an ETYPE code; VSHAPE never holds a reserved one (R192). -/
def etyOf (c : Nat) : ETy :=
  match c with
  | 0 => .flt .f32 | 1 => .int 32 true | 2 => .int 32 false | 3 => .flt .f16 | 4 => .flt .bf16
  | 5 => .int 16 true | 6 => .int 16 false | 7 => .flt .e4m3 | 8 => .flt .e5m2 | 9 => .int 8 true | _ => .int 8 false

def ETy.width : ETy → Nat
  | .flt f => f.width
  | .int w _ => w

def ETy.bytes (t : ETy) : Nat := t.width / 8

/-- L, the lanes of a row. -/
def ETy.lanes (t : ETy) : Nat := 2048 / t.width

def ETy.isFlt : ETy → Bool
  | .flt _ => true
  | .int _ _ => false

def ETy.isInt (t : ETy) : Bool := !t.isFlt

/-- R171: an exact result rounded once to a float type, with the flags of forming it. -/
def fltOut (n : NumMode) (f : FFmt) (x : FVal × Flags) : Nat × Flags :=
  ((f.encode n x.1).1, x.2 ||| (f.encode n x.1).2)

/-- An integer result modulo 2^w. -/
def intOut (w : Nat) (i : Int) : Nat × Flags := (wrapInt w i, 0)

/-- The operation of a lane on one, two or three operands. -/
abbrev Lane1 := NumMode → ETy → Nat → Nat × Flags
abbrev Lane2 := NumMode → ETy → Nat → Nat → Nat × Flags
abbrev Lane3 := NumMode → ETy → Nat → Nat → Nat → Nat × Flags

/-- A lane operation from its float and its integer meaning. -/
def laneArith (ff : Nat → FVal → FVal → FVal × Flags) (ii : Int → Int → Int) : Lane2 := fun n t a b =>
  match t with
  | .flt f => fltOut n f (ff n.rm (f.read n.flush a) (f.read n.flush b))
  | .int w sg => intOut w (ii (readInt w sg a) (readInt w sg b))

def laneAdd : Lane2 := laneArith fAdd (· + ·)
def laneSub : Lane2 := laneArith (fun rm a b => fAdd rm a b.neg) (· - ·)
def laneRsub : Lane2 := laneArith (fun rm a b => fAdd rm b a.neg) (fun a b => b - a)
def laneMul : Lane2 := laneArith (fun _ a b => fMul a b) (· * ·)

/-- Whether `a` lies below `b`, with −0 below +0 (R173). -/
def fBelow (a b : FVal) : Bool :=
  match fCmp a b with
  | .lt => true
  | .gt => false
  | .eq => match a, b with
    | .fin true 0 _, .fin false 0 _ => true
    | _, _ => false

/-- R173: the smaller (or larger) of two floats. -/
def fPick (big : Bool) (a b : FVal) : FVal × Flags :=
  if a.isNan || b.isNan then (.nan false, flagIf (a.isSig || b.isSig) fINV)
  else (if fBelow b a != big then b else a, 0)

def laneMin : Lane2 := laneArith (fun _ => fPick false) (fun a b => min a b)
def laneMax : Lane2 := laneArith (fun _ => fPick true) (fun a b => max a b)

/-- R172: c + a × b, or c − a × b. -/
def laneFma (sub : Bool) : Lane3 := fun n t a b c =>
  match t with
  | .flt f =>
    let x := f.read n.flush a
    fltOut n f (fFma n.rm (if sub then x.neg else x) (f.read n.flush b) (f.read n.flush c))
  | .int w sg =>
    let p := readInt w sg a * readInt w sg b
    intOut w (readInt w sg c + if sub then -p else p)

def laneBits (op : Nat → Nat → Nat) : Lane2 := fun _ t a b => (op a b % 2 ^ t.width, 0)

/-- R174: shifts of an integer lane by vb mod w. -/
def laneShl : Lane2 := fun _ t a b => (a * 2 ^ (b % t.width) % 2 ^ t.width, 0)
def laneShr : Lane2 := fun _ t a b =>
  match t with
  | .int w sg => intOut w (readInt w sg a / (2 ^ (b % w) : Nat))
  | .flt f => (a / 2 ^ (b % f.width), 0)

/-- R174: the saturated exact sum or difference. -/
def laneSat (op : Int → Int → Int) : Lane2 := fun _ t a b =>
  match t with
  | .int w sg =>
    let (c, out) := clampInt w sg (op (readInt w sg a) (readInt w sg b))
    (wrapInt w c, flagIf out fOF)
  | .flt _ => (a, 0)

/-- R182: division. -/
def laneDiv : Lane2 := fun n t a b =>
  match t with
  | .flt f => fltOut n f (fDiv (f.read n.flush a) (f.read n.flush b))
  | .int w sg =>
    if readInt w sg b = 0 then (2 ^ w - 1, 0) else intOut w ((readInt w sg a).tdiv (readInt w sg b))

/-- The conditions of R176. -/
inductive Cond where
  | eq | ne | lt | le | gt | ge | unord
  deriving DecidableEq, Repr

def Cond.ordered (c : Cond) : Ordering → Bool
  | .lt => c = .lt || c = .le || c = .ne
  | .eq => c = .eq || c = .le || c = .ge
  | .gt => c = .gt || c = .ge || c = .ne

/-- R176: one comparison. -/
def laneCmp (c : Cond) (n : NumMode) (t : ETy) (a b : Nat) : Bool × Flags :=
  match t with
  | .flt f =>
    let x := f.read n.flush a
    let y := f.read n.flush b
    if x.isNan || y.isNan then
      (c = .ne || c = .unord,
        flagIf (x.isSig || y.isSig || !(c = .eq || c = .ne || c = .unord)) fINV)
    else (c.ordered (fCmp x y), 0)
  | .int w sg => (c.ordered (compare (readInt w sg a) (readInt w sg b)), 0)

/-- R178: a float's sign changed, or its NaN made canonical. The result is converted by R44 as that of every operation of R171: an e5m2
infinity saturates under E5SAT, a subnormal is flushed (log 23: DEDUCED). -/
def fSign (n : NumMode) (f : FFmt) (g : Bool → Bool) (a : Nat) : Nat × Flags :=
  fltOut n f (match f.read n.flush a with
    | .nan s => (.nan false, flagIf s fINV)
    | .inf s => (.inf (g s), 0)
    | .fin s m e => (.fin (g s) m e, 0))

def laneNeg : Lane1 := fun n t a =>
  match t with
  | .flt f => fSign n f (!·) a
  | .int w sg => intOut w (-readInt w sg a)

def laneAbs : Lane1 := fun n t a =>
  match t with
  | .flt f => fSign n f (fun _ => false) a
  | .int w sg => intOut w (readInt w sg a).natAbs

def laneNot : Lane1 := fun _ t a => (2 ^ t.width - 1 - a % 2 ^ t.width, 0)
def laneClz : Lane1 := fun _ t a => (if a = 0 then t.width else t.width - 1 - Nat.log2 a, 0)
def lanePopc : Lane1 := fun _ t a => (popNat t.width a, 0)

/-- R178: `vrnd`; ±∞ and ±0 are unchanged, and a value that rounds to zero keeps its sign. (log 23: DEDUCED) -/
def laneRnd : Lane1 := fun n t a =>
  match t with
  | .flt f => match f.read n.flush a with
    | .nan s => (f.nanBits, flagIf s fINV)
    | .inf _ => (a, 0)
    | .fin s m e =>
      if m = 0 then (f.signBit s, 0)
      else
        let (q, x) := roundTo n.rm s m e 0
        fltOut n f (.fin s q 0, flagIf x fNX)
  | .int _ _ => (a, 0)

def laneFun (k : SFun) : Lane1 := fun n t a =>
  match t with
  | .flt f => fltOut n f (k.value (f.read n.flush a))
  | .int _ _ => (a, 0)

/-- R179: conversion between two types (R44, R45). -/
def laneCvt (st dt : ETy) (n : NumMode) (a : Nat) : Nat × Flags :=
  let v := match st with
    | .flt f => f.read n.flush a
    | .int w sg => .ofInt (readInt w sg a)
  match dt with
  | .flt f => f.encode n v
  | .int w sg => toIntFmt w sg n v

/-! ### Rows as lists of lanes -/

/-- The first `n` fields of `w` bits of a number. -/
def splitBits (w : Nat) : Nat → Nat → List Nat
  | 0, _ => []
  | n + 1, v => v % 2 ^ w :: splitBits w n (v / 2 ^ w)

/-- The number of fields of `w` bits. -/
def joinBits (w : Nat) : List Nat → Nat
  | [] => 0
  | x :: l => x % 2 ^ w + joinBits w l * 2 ^ w

/-- The results of lanes with their flags, for the lanes that `act` names; other lanes give 0 and raise nothing (R159). -/
def laneMap {α : Type} (act : Nat → Bool) (f : α → Nat × Flags) : Nat → List α → List Nat × Flags
  | _, [] => ([], 0)
  | i, a :: l =>
    let (r, g) := if act i then f a else (0, 0)
    let (rs, gs) := laneMap act f (i + 1) l
    (r :: rs, g ||| gs)

/-- The byte lanes of `b` bytes a lane. -/
def byteMask (n b : Nat) (act : Nat → Bool) : Nat :=
  joinBits (b) ((List.range n).map fun i => if act i then 2 ^ b - 1 else 0)

/-! ### Reductions (R56, R183) -/

/-- One combination: a lane that only inactive lanes make up raises nothing (R159, R183). -/
def redStep (op : Nat → Nat → Nat × Flags) (ident : Nat) (a b : Option Nat) : Option Nat × Flags :=
  match a, b with
  | none, none => (none, 0)
  | _, _ =>
    let (r, f) := op (a.getD ident) (b.getD ident)
    (some r, f)

/-- Combines a list with a list of the same length. -/
def redZip (op : Nat → Nat → Nat × Flags) (ident : Nat) : List (Option Nat) → List (Option Nat) → List (Option Nat) × Flags
  | a :: l, b :: m =>
    let (r, f) := redStep op ident a b
    let (rs, g) := redZip op ident l m
    (r :: rs, f ||| g)
  | _, _ => ([], 0)

/-- Level 0: halves. -/
def redHalves (op : Nat → Nat → Nat × Flags) (ident : Nat) : Nat → List (Option Nat) → Option Nat × Flags
  | 0, l => (l.headD none, 0)
  | fuel + 1, l =>
    if l.length ≤ 1 then (l.headD none, 0)
    else
      let (r, f) := redZip op ident (l.take (l.length / 2)) (l.drop (l.length / 2))
      let (v, g) := redHalves op ident fuel r
      (v, f ||| g)

/-- Level 1: adjacent pairs. -/
def redPairs (op : Nat → Nat → Nat × Flags) (ident : Nat) : List (Option Nat) → List (Option Nat) × Flags
  | a :: b :: l =>
    let (r, f) := redStep op ident a b
    let (rs, g) := redPairs op ident l
    (r :: rs, f ||| g)
  | l => (l, 0)

/-- Level 1: the pair results in ascending order. -/
def redFold (op : Nat → Nat → Nat × Flags) (ident : Nat) : Option Nat → List (Option Nat) → Option Nat × Flags
  | a, [] => (a, 0)
  | a, b :: l =>
    let (r, f) := redStep op ident a b
    let (v, g) := redFold op ident r l
    (v, f ||| g)

/-- R56: the reduction of the lanes under an NBL level; none where every lane is inactive. -/
def reduceLanes (nbl : BitVec 2) (op : Nat → Nat → Nat × Flags) (ident : Nat) (l : List (Option Nat)) :
    Option Nat × Flags :=
  if nbl = 1#2 then
    match redPairs op ident l with
    | (y :: ys, f) =>
      let (v, g) := redFold op ident y ys
      (v, f ||| g)
    | ([], f) => (none, f)
  else redHalves op ident 9 l

/-- The combinations of `vred` (R183). -/
inductive Red where
  | sum | min | max | and | or | xor
  deriving DecidableEq, Repr

def Red.op (k : Red) : Lane2 :=
  match k with
  | .sum => laneAdd | .min => laneMin | .max => laneMax
  | .and => laneBits (· &&& ·) | .or => laneBits (· ||| ·) | .xor => laneBits (· ^^^ ·)

/-- The identity of a combination. -/
def Red.ident (k : Red) (t : ETy) : Nat :=
  match k, t with
  | .sum, .flt f => f.signBit true
  | .sum, .int _ _ => 0
  | .min, .flt f => if f = .e4m3 then f.maxMag else f.infBits
  | .max, .flt f => f.signBit true + if f = .e4m3 then f.maxMag else f.infBits
  | .min, .int w sg => wrapInt w (intMax w sg)
  | .max, .int w sg => wrapInt w (intMin w sg)
  | .and, t => 2 ^ t.width - 1
  | _, _ => 0

end Sys2Proof.Machine
end

