-- ==== Sys2Proof/Machine/Me.lean ====
section
/-!
DEFINITION. ME: its control registers, address generators and stages (R200 to R206), passes, convolutions, gather passes
and `g.sum` (R209 to R220), tile queues (R221, R222), and its control and synchronisation words (R224 to R227). A step reads
buffers and forms its writes; they reach the buffers at once, or drain later when the step's turn is slow (R228, R283).
-/
namespace Sys2Proof.Machine
open Sys2Proof

/-! ### Registers -/

def Ctx.me (c : Ctx) : MeRegs := c.r.me
def modMe (ck : Nat) (f : MeRegs → MeRegs) : State → State := State.modRegs ck fun r => { r with me := f r.me }

/-- A field of a register. -/
def bitsAt (v : BitVec 64) (lo n : Nat) : Nat := v.toNat / 2 ^ lo % 2 ^ n

/-- The registers of R201. -/
def meCrRead (s : State) (csel : Nat) : BitVec 64 :=
  let m := s.c.me
  if csel = 0x20 then m.pcfg else if csel = 0x21 then m.prio else if csel = 0x22 then m.gcfg else if csel = 0x23 then m.mectl
  else if 0x28 ≤ csel ∧ csel < 0x30 then vget 0 m.tlx (csel - 0x28)
  else if 0x30 ≤ csel ∧ csel < 0x38 then vget 0 m.ag (csel - 0x30)
  else if 0x38 ≤ csel ∧ csel < 0x3C then vget 0 m.shape (csel - 0x38)
  else crRead s .me csel

/-- R201, R206: whether a value may not be written. -/
def meCrBad (csel : Nat) (v : BitVec 64) : Bool :=
  if csel = 0x20 then
    decide (v &&& ~~~0x0000FFFF00FF0307#64 ≠ 0) || decide (2 ≤ bitsAt v 8 2) || decide (bitsAt v 0 3 = 7)
  else if csel = 0x21 then decide (v &&& ~~~0xFF03#64 ≠ 0) || decide (bitsAt v 0 2 = 3)
  else if csel = 0x22 then
    decide (v &&& ~~~0xFFFC0FFFFF#64 ≠ 0) || decide (bitsAt v 28 4 = 0) || decide (8 < bitsAt v 28 4)
      || decide (bitsAt v 0 8 < bitsAt v 32 8)
  else if csel = 0x23 then decide (7 ≤ v.toNat)
  else if 0x28 ≤ csel ∧ csel < 0x30 then false
  else if 0x30 ≤ csel ∧ csel < 0x38 then decide (v &&& ~~~0xFFFFFF00003FFFFF#64 ≠ 0) || decide (bitsAt v 61 3 = 7)
  else crBad csel v.toNat

/-- The write of a register of R201. -/
def meCrWrite (ck csel : Nat) (v : BitVec 64) (s : State) : State :=
  if csel = 0x20 then modMe ck (fun m => { m with pcfg := v }) s
  else if csel = 0x21 then modMe ck (fun m => { m with prio := v }) s
  else if csel = 0x22 then modMe ck (fun m => { m with gcfg := v }) s
  else if csel = 0x23 then modMe ck (fun m => { m with mectl := v }) s
  else if 0x28 ≤ csel ∧ csel < 0x30 then modMe ck (fun m => { m with tlx := vset m.tlx (csel - 0x28) v }) s
  else if 0x30 ≤ csel ∧ csel < 0x38 then modMe ck (fun m => { m with ag := vset m.ag (csel - 0x30) v }) s
  else crWrite ck .me csel v.toNat s

/-! ### Generators and stages (R203, R204) -/

/-- R203: a generator's output before its sign is checked; none where it names an undefined level. -/
def meGen (s : State) (n stg : Nat) : Option Int :=
  let g := vget 0 s.c.me.ag n
  let lev := bitsAt g 61 3
  let idx : Option Int :=
    if lev = 6 then some 0
    else match s.c.r.levels[lev]? with
      | none => none
      | some l =>
        if l.kind ≠ 0 then some ((vget 0 s.c.r.lc lev).toNat : Int)
        else
          let it : Int := (vget 0 (s.c.stream .me).iter lev).toNat
          some (if lev = bitsAt s.c.me.mectl 0 3 then it - stg else it)
  idx.map fun i => (bitsAt g 0 22 : Int) + signedOf 21 (bitsAt g 40 21) * i

/-- R203: a generator's output, with its traps. -/
def meGenTrap (s : State) (n stg : Nat) : Op Nat :=
  match meGen s n stg with
  | none => trapWith .loopLev
  | some a => if a < 0 then trapWith .bufRange else pure a.toNat

/-- R204: whether a step of a stage executes. -/
def meActive (s : State) (stg : Nat) : Op Bool :=
  let l := bitsAt s.c.me.mectl 0 3
  if l = 6 then (if stg ≠ 0 then trapWith .meCfg else pure true)
  else if !s.c.r.hasLevel l then trapWith .loopLev
  else
    let it : Int := (vget 0 (s.c.stream .me).iter l).toNat
    let en : Int := (vget 0 (s.c.stream .me).entry l).toNat
    pure (decide ((stg : Int) ≤ it - en ∧ it - stg < ((vget 0 s.c.r.lc l).toNat : Int)))

/-! ### Formats, rows and columns (R209 to R212) -/

/-- A format of R209. -/
inductive MFmt where
  | flt (f : FFmt)
  | mx (w : Nat)
  deriving DecidableEq, Repr

def mfmtOf (c : Nat) : MFmt :=
  match c with
  | 0 => .flt .e4m3 | 1 => .flt .e5m2 | 2 => .flt .bf16 | 3 => .flt .f16 | 4 => .mx 8 | 5 => .mx 6 | _ => .mx 4

def MFmt.width : MFmt → Nat
  | .flt f => f.width
  | .mx w => w

def MFmt.isMx : MFmt → Bool
  | .mx _ => true
  | .flt _ => false

/-- The depth of one platen. -/
def MFmt.depth (t : MFmt) : Nat := 1536 / t.width

/-- Elements of a row or a column: their bits, and the scale of each block of 32. -/
structure Elems where
  bits : List Nat
  scales : List Nat

/-- R212: the bytes of an A row. -/
def rowBytes (t : MFmt) (kt : Nat) : Nat := (kt * t.width + 7) / 8 + if t.isMx then kt / 32 else 0

/-- R212: a row of `kt` elements. -/
def rowElems (t : MFmt) (kt v : Nat) : Elems :=
  ⟨splitBits t.width kt v,
    if t.isMx then splitBits 8 (kt / 32) (v / 2 ^ (8 * ((kt * t.width + 7) / 8))) else []⟩

/-- Joins the slices of elements of `h` slices each. -/
def joinSlices (h : Nat) : Nat → List Nat → List Nat
  | 0, _ => []
  | n + 1, l => joinBits 2 (l.take h) :: joinSlices h n (l.drop h)

/-- R210: a column of a platen from its slice-rows and scale store. -/
def colElems (t : MFmt) (rows : List Nat) (scale c : Nat) : Elems :=
  ⟨joinSlices (t.width / 2) t.depth (rows.map fun r => r / 4 ^ c % 4),
    if t.isMx then (List.range (t.depth / 32)).map fun b => scale / 2 ^ (8 * (64 * b + c)) % 256 else []⟩

/-- The 64 columns of a physical platen. -/
def platenCols (s : State) (t : MFmt) (p : Nat) : List Elems :=
  let rows := splitBits 128 768 (s.bufRead (platenKey (coreOf s.ck) p) 12288).1
  let scale := (s.bufRead (scaleKey (coreOf s.ck) p) 768).1
  (List.range 64).map (colElems t rows scale)

/-- Columns of the same number of several platens, one below the other (R211, GANG = K). -/
def stackCols : List (List Elems) → List Elems
  | [] => []
  | [l] => l
  | l :: r => (l.zip (stackCols r)).map fun p => ⟨p.1.bits ++ p.2.bits, p.1.scales ++ p.2.scales⟩

/-! ### Block sums of a column (R51 to R54) -/

/-- The integer dot product of two lists of elements. -/
def dotInt (wa wb : Nat) : List Nat → List Nat → Int
  | a :: l, b :: m => readInt wa true a * readInt wb true b + dotInt wa wb l m
  | _, _ => 0

/-- R53: the terms of the MX blocks. A scale of 0xFF gives NaN before a scale of 0 under IN8 gives +0 (log 33: DESIGN CHOICE). -/
def mxTerms (n : NumMode) (wa wb : Nat) : List Nat → List Nat → List Nat → List Nat → List FVal
  | sa :: la, sb :: lb, a, b =>
    (if sa = 0xFF ∨ sb = 0xFF then .nan false
     else if n.flush.getLsbD 4 ∧ (sa = 0 ∨ sb = 0) then .zero false
     else finOfInt false (dotInt wa wb (a.take 32) (b.take 32))
      ((sa : Int) + sb - 254 - mxImplied wa - mxImplied wb))
      :: mxTerms n wa wb la lb (a.drop 32) (b.drop 32)
  | _, _, _, _ => []

/-- The values of float elements, input-flushed. -/
def fltVals (n : NumMode) (f : FFmt) (l : List Nat) : List FVal := l.map (f.read n.flush)

/-- R215: whether every element of a row is +0, as its input flush leaves it. -/
def zeroRow (n : NumMode) (t : MFmt) (a : Elems) : Bool :=
  match t with
  | .flt f => (fltVals n f a.bits).all fun v => match v with | .fin false 0 _ => true | _ => false
  | _ => a.bits.all (· == 0) && !a.scales.contains 0xFF

/-- R51, R53: the block sum of a row against a column in the FP32 mode; a row of all +0 gives +0 against any column (R215), and raises no
flag (log 23: DEDUCED). -/
def colSum (n : NumMode) (ta tb : MFmt) (a b : Elems) : FVal × Flags :=
  if zeroRow n ta a then (.zero false, 0)
  else match ta, tb with
  | .flt f, .flt g =>
    let (p, fl) := fProds ((fltVals n f a.bits).zip (fltVals n g b.bits))
    let (v, fl') := blockSum (sumWindow n.nbl) p
    (v, fl ||| fl')
  | _, _ => blockSum (sumWindow n.nbl) (mxTerms n ta.width tb.width a.scales b.scales a.bits b.bits)

/-- R54: the new bits of an accumulator element. -/
def accumulate (n : NumMode) (int : Bool) (ta tb : MFmt) (a b : Elems) (acc : Nat) : Nat × Flags :=
  if int then accumI32 acc (dotInt ta.width tb.width a.bits b.bits)
  else
    let (s, f) := colSum n ta tb a b
    let (v, g) := accumF32 n acc s
    (v, f ||| g)

/-! ### The frame of a step (R228, R230 to R232, R283) -/

/-- Whether two range lists of ME steps conflict. -/
def meConflict (a b : List (Nat × Nat × Nat × Bool)) : Bool :=
  a.any fun x => b.any fun y => decide (x.1 = y.1 ∧ x.2.1 < y.2.2.1 ∧ y.2.1 < x.2.2.1) && (x.2.2.2 || y.2.2.2)

/-- R283, R285: whether a step must wait for an earlier one: one with a conflicting range, other than the accumulating steps
just before it on the same rows with the same accumulator type; or because eight drain. -/
def meWaits (d : List MeDrain) (ranges : List (Nat × Nat × Nat × Bool)) (acc : Option (Nat × Nat × Bool)) : Bool :=
  decide (8 ≤ d.length) || (d.reverse.dropWhile fun x => acc.isSome && decide (x.acc = acc)).any fun x => meConflict x.ranges ranges

/-- R228: a step waits while an earlier step that it conflicts with drains. -/
def meOrder (ck : Nat) (ranges : List (Nat × Nat × Nat × Bool)) (acc : Option (Nat × Nat × Bool)) : Op Unit := do
  let s ← getS
  if meWaits (s.ctx ck).me.drains ranges acc then waitFor (.order ranges acc)

/-- Buffer bytes that row `i` of a step reads (0 where it has no rows); a poisoned word stops the context (R448). Each row meets another
agent's writes by itself (R229). -/
def meRead (ck i key n : Nat) : Op Nat := do
  let s ← getS
  let (v, p) := (s.atNumber i).bufRead key n
  if p then trapLogged ck .memUe 0 2 0 0
  pure v

/-- The INV enable of the running step, as it was at its issue (R60). -/
def meInve (ck : Nat) (s : State) : Bool := (s.ctx ck).me.inve.getD ((s.ctx ck).r.invTrap .me)

/-- R59, R231: a step's writes and flags: at once; when they drain, in a slow turn or after a step whose sums it carries on
(R285); or with the trap that follows. -/
def meDeliver (ck : Nat) (ranges : List (Nat × Nat × Nat × Bool)) (acc : Option (Nat × Nat × Bool)) (cells : List (Nat × BitVec 8))
    (f : Flags) : Op Unit := do
  let s ← getS
  let d : MeDrain := ⟨((s.ctx ck).stream .me).pc, acc, ranges, cells, f, meInve ck s && f.getLsbD 0⟩
  upd fun s =>
    let late := s.slow || d.inve || (s.ctx ck).me.drains.any fun x => meConflict x.ranges ranges
    let s := if late then modMe ck (fun m => { m with drains := m.drains ++ [d] }) s else applyDrain ck d s
    modMe ck (fun m => { m with inve := none }) s

/-- The end of a step that runs `o` and goes on at what it answers: a trap clears a popped entry and partial rows, but for a
parity stop (R232); ME_TQ keeps the entry in the private record of the frame, R397 having no field for it (R222; log 23: DEDUCED). A step
that raised INV under INVE_ME takes ARITH_INV once its writes are done, before the next step (R231). -/
def meWord (o : Op Nat) (s : State) : State :=
  let ck := s.ck
  match runOp o s with
  | (.ok pc, t) =>
    let t := endUnit ck .me pc t
    match (t.ctx ck).me.drains.find? (·.inve) with
    | some d =>
      if s.slow then t.modStream ck .me fun st => { st with wait := some .drained }
      else trapInv ck .me d.pc (flushDrains ck t)
    | none => t
  | (.error (.wait .row), t) => { t with lock := some s.who }
  | (.error x, t) =>
    let t := match x with
      | .trap c _ _ _ _ => if c = .platenPar then t
          else modMe ck (fun m => { m with
            badEntry := if c = .meTq then m.popped else m.badEntry
            popped := none, rowdone := 0, stepFlags := 0, inve := none }) t
      | _ => t
    stopWord ck .me x t

/-- A step that goes on at the next word. -/
def meNext (o : Op Unit) (s : State) : State := meWord (do o; pure (s.c.stream .me).next) s

/-- R203 to R205, R222: what a tile-queue entry overrides; `skip` is set for a command of one. -/
structure MeOver where
  a : Option Nat := none
  c : Option Nat := none
  rows : Option Nat := none
  pset : Option Nat := none
  skip : Bool := false

/-- R204: runs a step where its stage is active. -/
def meStage (s : State) (ov : MeOver) (stg : Nat) (o : Op Unit) : Op Unit := do
  if ov.skip then o else if ← meActive s stg then o else pure ()

/-- R230, R232: runs the rows of a step from ROWDONE on: `avail` rows can run now; a platen of the set with a parity error
stops the step at its row. `row` gives a row's writes; a row that is complete leaves its feed-FIFO entries. A turn may pause
the step after some rows (R229). -/
def meRows (ck rows avail : Nat) (phys : List Nat) (par : Option (Nat × Nat)) (need : Nat) (ff : Option Nat)
    (ranges : List (Nat × Nat × Nat × Bool)) (acc : Option (Nat × Nat × Bool))
    (row : Nat → Op (List (Nat × BitVec 8) × Flags)) : Op Unit := do
  let s ← getS
  let m := (s.ctx ck).me
  let start := m.rowdone
  let avail := match s.rows with | some n => min avail (start + n) | none => avail
  let core := coreOf ck
  let bad : Option (Nat × Nat) :=
    match phys.find? fun p => s.platenPar.contains (core * 8 + p) with
    | some p => some (p, start)
    | none => match par with
      | some (k, r) => if k < 8 ∧ phys.contains k ∧ start ≤ r ∧ r < avail then some (k, r) else none
      | none => none
  let stop := match bad with | some (_, r) => r | none => avail
  let out ← opMap row ((List.range rows).filter fun i => start ≤ i ∧ i < stop)
  let cells := out.flatMap (·.1)
  let f := out.foldl (fun f x => f ||| x.2) m.stepFlags
  match ff with
  | some k => upd (State.modRegs ck fun r => { r with ff := vset r.ff k ((vget [] r.ff k).drop ((stop - start) * need)) })
  | none => pure ()
  if rows ≤ stop then
    upd (modMe ck fun m => { m with rowdone := 0, stepFlags := 0 })
    meDeliver ck ranges acc cells f
  else
    upd fun s => modMe ck (fun m => { m with rowdone := stop, stepFlags := f, inve := some (meInve ck s) })
      ((flushDrains ck s).bufBytes cells)
    match bad with
    | some (p, _) =>
      upd fun s => { s with platenPar := if s.platenPar.contains (core * 8 + p) then s.platenPar
                                         else (core * 8 + p) :: s.platenPar }
      trapLogged ck .platenPar 2 2 0 (((s.ctx ck).platens.findIdx? (· = p)).getD 0)
    | none =>
      upd fun s => { s with rows := none }
      waitFor (if s.rows.isSome then .row else .fifo (ff.getD 0) need)

/-! ### Passes (R211 to R217) -/

/-- The set of a pass: formats, platens and geometry by R211. -/
structure MeSet where
  ta : MFmt
  tb : MFmt
  phys : List Nat
  gangK : Bool
  kt : Nat
  nout : Nat

/-- The rows of R215 about formats and platens, and the geometry. -/
def meSet (s : State) (ov : MeOver) (afmt : Nat) (int : Bool) : Op MeSet := do
  let cfg := s.c.me.pcfg
  let ta := mfmtOf afmt
  let tb := mfmtOf (bitsAt cfg 0 3)
  failIf (ta.isMx != tb.isMx || (int && !ta.isMx)) .meFmt
  let pset := ov.pset.getD (bitsAt cfg 16 8)
  failIf (decide (pset = 0)) .meCfg
  let nums := setBits pset 8
  failIf (nums.any fun k => decide (s.c.platens.length ≤ k)) .bufRange
  let phys := nums.map fun k => s.c.platens[k]?.getD 0
  let gangK := decide (bitsAt cfg 8 2 = 1)
  pure ⟨ta, tb, phys, gangK, if gangK then phys.length * tb.depth else tb.depth, if gangK then 64 else 64 * phys.length⟩

/-- The columns of a set. -/
def MeSet.cols (s : State) (g : MeSet) : List Elems :=
  let per := g.phys.map (platenCols s g.tb)
  if g.gangK then stackCols per else per.flatten

/-- The columns as row `i` finds them (R229); `cols` are those that stand in the platens. -/
def MeSet.colsAt (s : State) (g : MeSet) (cols : List Elems) (i : Nat) : List Elems :=
  if s.early.isEmpty then cols else g.cols (s.atNumber i)

/-- An address that a generator or an override gives; none where a level is undefined. -/
def meAddr (s : State) (o : Option Nat) (n stg : Nat) : Option Int :=
  match o with
  | some a => some (a : Int)
  | none => meGen s n stg

/-- MISALIGN of an address; one below 0 or of an undefined level has its own row of R215. -/
def offAlign (a : Option Int) (n : Nat) : Bool :=
  match a with
  | some i => decide (0 ≤ i) && decide (i.toNat % n ≠ 0)
  | none => false

/-- BUF_RANGE of a range from an address. -/
def offWindow (a : Option Int) (inside : Nat → Bool) : Bool :=
  match a with
  | some i => decide (i < 0) || !inside i.toNat
  | none => false

/-- The cells of a 4-byte element. -/
def cell4 (key v : Nat) : List (Nat × BitVec 8) := cellsOf key 4 v |>.reverse

/-- What `n` bytes at a key will be when the steps that drain have landed (R285). -/
def drainOver (d : List MeDrain) (key n v : Nat) : Nat :=
  d.foldl (fun v x => x.cells.foldl (fun v c => if key ≤ c.1 ∧ c.1 < key + n then setByte v (c.1 - key) c.2.toNat else v) v) v

/-- A row, number `i`, accumulated into the elements at an offset of CB (R213). -/
def passRow (s : State) (i : Nat) (n : NumMode) (int : Bool) (g : MeSet) (cols : List Elems) (z : Bool) (c0 : Nat) (a : Elems) :
    Op (List (Nat × BitVec 8) × Flags) := do
  let base := winKey s.ck s.c 1 c0
  let accs ← if z then pure 0 else do
    let v ← meRead s.ck i base (4 * g.nout)
    pure (drainOver s.c.me.drains base (4 * g.nout) v)
  let out := (enum (g.colsAt s cols i)).map fun p =>
    let acc := accs / 2 ^ (32 * p.1) % 2 ^ 32
    let (v, f) := accumulate n int g.ta g.tb a p.2 acc
    (cell4 (base + 4 * p.1) v, f)
  pure (out.flatMap (·.1), out.foldl (fun f x => f ||| x.2) 0)

/-- The bytes of the FIFO entries of row `i` of those that stand in a FIFO. (log 25: DEDUCED) -/
def fifoRow (l : List (BitVec 2048)) (i need : Nat) : Nat :=
  ((l.drop (i * need)).take need).foldr (fun e v => e.toNat + v * 2 ^ 2048) 0

/-- R213: `m.pass` and `m.passi`. -/
def mePass (int : Bool) (afmt asrc aga agc rowsM1 z stg : Nat) (ov : MeOver) : Op Unit := do
  let s ← getS
  meStage s ov stg (do
    let n := (s.c.stream .me).num
    let g ← meSet s ov afmt int
    let rows := ov.rows.getD (rowsM1 + 1)
    let a0 := if asrc = 0 then meAddr s ov.a aga stg else some 0
    let c0 := meAddr s ov.c agc stg
    let rb := rowBytes g.ta g.kt
    let astride := bitsAt s.c.me.pcfg 32 16
    let astr := if astride = 0 then (rb + 3) / 4 * 4 else astride
    let cstr := 4 * g.nout
    let alen := (rows - 1) * astr + rb
    failIf (offAlign a0 4 || decide (astride % 4 ≠ 0) || offAlign c0 256) .misalign
    failIf ((decide (asrc = 0) && offWindow a0 (fun a => inWindow s.c 0 a alen))
      || offWindow c0 (fun c => inWindow s.c 1 c (rows * cstr))) .bufRange
    match a0, c0 with
    | some a0, some c0 =>
      let a := a0.toNat
      let c := c0.toNat
      let ranges := (if asrc = 0 then [(0, a, a + alen, false)] else []) ++ [(1, c, c + rows * cstr, true)]
      let acc := if z = 1 then none else some (c, c + rows * cstr, int)
      meOrder s.ck ranges acc
      let need := (rb + 255) / 256
      let l := vget [] s.c.r.ff (asrc - 1)
      let start := s.c.me.rowdone
      let avail := if asrc = 0 then rows else min rows (start + l.length / need)
      let cols := g.cols s
      meRows s.ck rows avail g.phys s.par need (if asrc = 0 then none else some (asrc - 1)) ranges acc fun i => do
        let v ← if asrc = 0 then meRead s.ck i (winKey s.ck s.c 0 (a + i * astr)) rb
                else pure (fifoRow l (i - start) need)
        passRow s i n int g cols (z = 1) (c + i * cstr) (rowElems g.ta g.kt v)
    | _, _ => trapWith .loopLev)

def execMPass (afmt asrc aga agc rowsM1 z stg : Nat) : State → Host.Outcome State Fault Refusal :=
  run (meNext (mePass false afmt asrc aga agc rowsM1 z stg {}))
def execMPassi (afmt asrc aga agc rowsM1 z stg : Nat) : State → Host.Outcome State Fault Refusal :=
  run (meNext (mePass true afmt asrc aga agc rowsM1 z stg {}))

/-- The fields of the shape record (R216). -/
structure Shape where
  base : Nat
  n : Nat
  h : Nat
  w : Nat
  c : Nat
  kh : Nat
  kw : Nat
  sh : Nat
  sw : Nat
  dh : Nat
  dw : Nat
  pt : Nat
  pb : Nat
  pl : Nat
  pr : Nat
  padv : Nat

def shapeOf (v : Nat) : Shape :=
  let f := fieldOf v
  ⟨f 0 4, f 4 2, f 6 2, f 8 2, f 10 2, f 12 1, f 13 1, f 14 1, f 15 1, f 16 1, f 17 1, f 18 1, f 19 1, f 20 1, f 21 1, f 24 4⟩

/-- R216: an output size, at least 1 where the record is legal. -/
def outSize (n p q d k st : Nat) : Int := ((n : Int) + p + q - d * ((k : Int) - 1) - 1) / (st : Int) + 1
def Shape.oh (x : Shape) : Int := outSize x.h x.pt x.pb x.dh x.kh x.sh
def Shape.ow (x : Shape) : Int := outSize x.w x.pl x.pr x.dw x.kw x.sw

/-- R216: the limits of a record; PADV is checked against the format of the step that uses it (log 15: DEDUCED). -/
def shapeBad (v : Nat) : Bool :=
  let x := shapeOf v
  decide (x.base % 4 ≠ 0) || decide (x.n = 0 ∨ x.h = 0 ∨ x.w = 0 ∨ x.c = 0)
    || decide (x.kh = 0 ∨ 16 < x.kh ∨ x.kw = 0 ∨ 16 < x.kw ∨ 256 < x.kh * x.kw)
    || [x.sh, x.sw, x.dh, x.dw].any (fun k => decide (k = 0 ∨ 8 < k))
    || [x.pt, x.pb, x.pl, x.pr].any (fun k => decide (15 < k))
    || decide (fieldOf v 22 2 ≠ 0) || decide (fieldOf v 28 4 ≠ 0) || decide (2 ^ 16 ≤ x.padv)
    || decide (x.oh < 1) || decide (x.ow < 1)

/-- R216: `m.shape`. -/
def execMShape (off : Nat) : State → Host.Outcome State Fault Refusal :=
  run fun s => meNext (do
    let a := 32 * off
    failIf (!inWindow s.c 0 a 32) .bufRange
    meOrder s.ck [(0, a, a + 32, false)] none
    let v ← meRead s.ck 0 (winKey s.ck s.c 0 a) 32
    failIf (shapeBad v) .meShape
    upd (modMe s.ck fun m => { m with shape := Vector.ofFn fun i : Fin 4 => BitVec.ofNat 64 (v / 2 ^ (64 * i.val)) })) s

/-- The shape as one number. -/
def shapeBits (m : MeRegs) : Nat := joinBits 64 (m.shape.toList.map (·.toNat))

/-- R217: the AB offset of the input pixel of an output pixel under a tap, or nothing where it is padding. -/
def convPixel (x : Shape) (w tap p : Nat) : Option Nat :=
  let oh := x.oh.toNat
  let ow := x.ow.toNat
  let iy : Int := (p % (oh * ow) / ow * x.sh : Nat) + (tap / x.kw * x.dh : Nat) - (x.pt : Int)
  let ix : Int := (p % ow * x.sw : Nat) + (tap % x.kw * x.dw : Nat) - (x.pl : Int)
  if 0 ≤ iy ∧ iy < x.h ∧ 0 ≤ ix ∧ ix < x.w then
    some (x.base + ((p / (oh * ow) * x.h + iy.toNat) * x.w + ix.toNat) * x.c * w / 8)
  else none

/-- R217: `m.conv`. -/
def meConv (afmt agp agc rowsM1 z stg tap : Nat) (ov : MeOver) : Op Unit := do
  let s ← getS
  meStage s ov stg (do
    let n := (s.c.stream .me).num
    let g ← meSet s ov afmt false
    let rows := ov.rows.getD (rowsM1 + 1)
    let p0 := meAddr s ov.a agp stg
    let c0 := meAddr s ov.c agc stg
    let cstr := 4 * g.nout
    failIf (decide (bitsAt s.c.me.pcfg 32 16 % 4 ≠ 0) || offAlign c0 256) .misalign
    failIf (offWindow p0 (fun _ => true) || offWindow c0 (fun c => inWindow s.c 1 c (rows * cstr))) .bufRange
    failIf (p0.isNone || c0.isNone) .loopLev
    let p := (p0.getD 0).toNat
    let c := (c0.getD 0).toNat
    failIf g.ta.isMx .meFmt
    let x := shapeOf (shapeBits s.c.me)
    failIf (decide (x.kh * x.kw ≤ tap) || decide (g.kt < x.c)) .meShape
    failIf (decide ((x.n : Int) * x.oh * x.ow < (p + rows : Nat))) .meShape
    let w := g.ta.width
    failIf (decide (x.c * w / 8 % 4 ≠ 0)) .misalign
    let pix := (List.range rows).map fun i => convPixel x w tap (p + i)
    let len := x.c * w / 8
    failIf (pix.any fun a => match a with | some a => !inWindow s.c 0 a len | none => false) .bufRange
    let reads := pix.filterMap id
    let ranges := (match reads with
      | [] => []
      | a :: r => [(0, r.foldl min a, r.foldl max a + len, false)]) ++ [(1, c, c + rows * cstr, true)]
    let acc := if z = 1 then none else some (c, c + rows * cstr, false)
    meOrder s.ck ranges acc
    let cols := g.cols s
    let zeros := List.replicate (g.kt - x.c) 0
    meRows s.ck rows rows g.phys s.par 1 none ranges acc fun i => do
      let el ← match pix[i]?.getD none with
        | some a => do
          let v ← meRead s.ck i (winKey s.ck s.c 0 a) len
          pure (splitBits w x.c v)
        | none => pure (List.replicate x.c (x.padv % 2 ^ w))
      passRow s i n false g cols (z = 1) (c + i * cstr) ⟨el ++ zeros, []⟩)

def execMConv (afmt agp agc rowsM1 z stg tap : Nat) : State → Host.Outcome State Fault Refusal :=
  run (meNext (meConv afmt agp agc rowsM1 z stg tap {}))

/-! ### Gather passes, `g.sum` and `m.clr` (R218 to R220) -/

/-- GCFG's fields: codewords, segment length, segments per output, index width, special index. -/
def gNcw (m : MeRegs) : Nat := bitsAt m.gcfg 0 8 + 1
def gDlen (m : MeRegs) : Nat := 2 ^ bitsAt m.gcfg 26 2
def gJ (m : MeRegs) : Nat := bitsAt m.gcfg 8 12 + 1
def gIxw (m : MeRegs) : Nat := bitsAt m.gcfg 28 4
def gSpec (m : MeRegs) : Nat := bitsAt m.gcfg 32 8

/-- Cuts a list into `n` pieces of `d`. -/
def pieces (d : Nat) : Nat → List Nat → List (List Nat)
  | 0, _ => []
  | n + 1, l => l.take d :: pieces d n (l.drop d)

/-- R55: one galley entry. -/
def gEntry (n : NumMode) (f g : FFmt) (x b : List Nat) : Nat × Flags :=
  let (p, fl) := fProds ((fltVals n g b).zip (fltVals n f x))
  let (v, fl') := blockSum (sumWindow n.nbl) p
  let (r, fl'') := FFmt.f32.encode n.rne v
  (r, fl ||| fl' ||| fl'')

/-- R218: `m.gpass`. -/
def meGpass (afmt asrc aga agg rowsM1 stg : Nat) (ov : MeOver) : Op Unit := do
  let s ← getS
  meStage s ov stg (do
    let n := (s.c.stream .me).num
    let m := s.c.me
    let g ← meSet s ov afmt false
    let rows := ov.rows.getD (rowsM1 + 1)
    let a0 := if asrc = 0 then meAddr s ov.a aga stg else some 0
    let g0 := meAddr s ov.c agg stg
    let rb := rowBytes g.ta g.kt
    let astride := bitsAt m.pcfg 32 16
    let astr := if astride = 0 then (rb + 3) / 4 * 4 else astride
    let alen := (rows - 1) * astr + rb
    failIf (offAlign a0 4 || decide (astride % 4 ≠ 0)) .misalign
    failIf (decide (asrc = 0) && offWindow a0 (fun a => inWindow s.c 0 a alen)) .bufRange
    failIf (a0.isNone || g0.isNone) .loopLev
    match g.ta, g.tb with
    | .flt fa, .flt fb =>
      let ncw := gNcw m
      let d := gDlen m
      failIf (g.gangK || decide (64 * g.phys.length < ncw)) .meCfg
      let jp := g.tb.depth / d
      let a := (a0.getD 0).toNat
      let e := (g0.getD 0).toNat
      failIf (decide (g0.getD 0 < 0) || decide (s.c.galleyEntries < e + rows * ncw * jp)) .bufRange
      let ranges := (if asrc = 0 then [(0, a, a + alen, false)] else []) ++ [(3, e, e + rows * ncw * jp, true)]
      meOrder s.ck ranges none
      let need := (rb + 255) / 256
      let l := vget [] s.c.r.ff (asrc - 1)
      let start := m.rowdone
      let avail := if asrc = 0 then rows else min rows (start + l.length / need)
      let cols := g.cols s
      meRows s.ck rows avail g.phys s.par need (if asrc = 0 then none else some (asrc - 1)) ranges none fun i => do
        let v ← if asrc = 0 then meRead s.ck i (winKey s.ck s.c 0 (a + i * astr)) rb
                else pure (fifoRow l (i - start) need)
        let cols := ((g.colsAt s cols i).take ncw).map fun c => pieces d jp c.bits
        let x := pieces d jp (rowElems g.ta g.kt v).bits
        let out := (enum cols).flatMap fun p => (enum (x.zip p.2)).map fun q =>
          let (r, f) := gEntry n fa fb q.2.1 q.2.2
          (cell4 (galleyKey s.ck s.c (e + i * ncw * jp + q.1 * ncw + p.1)) r, f)
        pure (out.flatMap (·.1), out.foldl (fun f y => f ||| y.2) 0)
    | _, _ => trapWith .meFmt)

def execMGpass (afmt asrc aga agg rowsM1 stg : Nat) : State → Host.Outcome State Fault Refusal :=
  run (meNext (meGpass afmt asrc aga agg rowsM1 stg {}))

/-- R219: `g.sum`. -/
def meGsum (agg agi agc z rowsM1 stg : Nat) (ov : MeOver) : Op Unit := do
  let s ← getS
  meStage s ov stg (do
    let n := (s.c.stream .me).num
    let m := s.c.me
    let g0 ← meGenTrap s agg stg
    let i0 ← match ov.a with | some a => pure a | none => meGenTrap s agi stg
    let c0 ← match ov.c with | some c => pure c | none => meGenTrap s agc stg
    let rows := ov.rows.getD (rowsM1 + 1)
    let j := gJ m
    let ncw := gNcw m
    let ixw := gIxw m
    let rw := 4 * ((j * ixw + 31) / 32)
    failIf (decide (i0 % 4 ≠ 0) || decide (c0 % 4 ≠ 0)) .misalign
    failIf (!inWindow s.c 0 i0 (rows * rw) || !inWindow s.c 1 c0 (4 * rows)
      || decide (s.c.galleyEntries < g0 + j * ncw)) .bufRange
    let ranges := [(0, i0, i0 + rows * rw, false), (1, c0, c0 + 4 * rows, true), (3, g0, g0 + j * ncw, false)]
    meOrder s.ck ranges none
    let out ← opMap (fun i => do
      let v ← meRead s.ck i (winKey s.ck s.c 0 (i0 + i * rw)) rw
      let qs := splitBits ixw j v
      let ts ← opMap (fun (p : Nat × Nat) =>
        meRead s.ck i (galleyKey s.ck s.c (g0 + p.1 * ncw + if ncw ≤ p.2 then gSpec m else p.2)) 4) (enum qs)
      let vals := ts.map (FFmt.f32.read n.flush)
      let (b, f) := blockSum (sumWindow n.nbl) vals
      let key := winKey s.ck s.c 1 (c0 + 4 * i)
      let acc ← if z = 1 then pure 0 else meRead s.ck i key 4
      let (r, f') := accumF32 n acc b
      pure (cell4 key r, f ||| f' ||| flagIf (qs.any fun q => decide (ncw ≤ q)) fINV
        ||| flagIf (vals.any FVal.isSig) fINV)) (List.range rows)
    meDeliver s.ck ranges none (out.flatMap (·.1)) (out.foldl (fun f x => f ||| x.2) 0))

def execGSum (agg agi agc z rowsM1 stg : Nat) : State → Host.Outcome State Fault Refusal :=
  run (meNext (meGsum agg agi agc z rowsM1 stg {}))

/-- R220: `m.clr`. -/
def execMClr (agc rowsM1 stg : Nat) : State → Host.Outcome State Fault Refusal :=
  run fun s => meNext (meStage s {} stg (do
    let c0 ← meGenTrap s agc stg
    let n := 256 * (rowsM1 + 1)
    failIf (decide (c0 % 256 ≠ 0)) .misalign
    failIf (!inWindow s.c 1 c0 n) .bufRange
    meOrder s.ck [(1, c0, c0 + n, true)] none
    meDeliver s.ck [(1, c0, c0 + n, true)] none ((List.range n).map fun i => (winKey s.ck s.c 1 c0 + i, 0#8)) 0)) s

/-! ### Tile queues (R205, R221, R222) -/

/-- R222: Select(): the queue that SEL = 2 takes, and SKIP after it. -/
def tqSelect (m : MeRegs) (e0 e1 : Bool) : Nat × Nat :=
  if e0 != e1 then (if e0 then 0 else 1, 0)
  else
    let mode := bitsAt m.prio 0 2
    let age := bitsAt m.prio 8 8
    let pref := if mode < 2 then mode else 1 - m.lastTq
    if age ≠ 0 ∧ age ≤ m.skip then (1 - pref, 0) else (pref, m.skip + 1)

/-- R222: takes an entry of a queue, or of the one that Select() names; the entry that a halt kept comes first (R230). (log 23: DEDUCED) -/
def tqPop (ck sel : Nat) : Op (BitVec 160) := do
  let s ← getS
  let r := (s.ctx ck).r
  match r.me.popped with
  | some e => pure e
  | none =>
    let l0 := vget [] r.tq 0
    let l1 := vget [] r.tq 1
    if sel = 2 then
      if l0.isEmpty && l1.isEmpty then waitFor (.tq 2)
    else if (vget [] r.tq sel).isEmpty then waitFor (.tq sel)
    let (q, skip) := if sel = 2 then tqSelect r.me (!l0.isEmpty) (!l1.isEmpty) else (sel, r.me.skip)
    let l := vget [] r.tq q
    let e := l.headD 0
    upd (State.modRegs ck fun r => { r with
      tq := vset r.tq q l.tail
      me := { r.me with popped := some e, skip := skip, lastTq := if sel = 2 then q else r.me.lastTq } })
    pure e

/-- R221: a field of an entry. -/
def tqField (e : BitVec 160) (lo n : Nat) : Nat := e.toNat / 2 ^ lo % 2 ^ n

/-- R221, R222: runs the command of an entry by its word's meaning. A CMD of an allowed op whose fields are reserved is no step word
either: ME_TQ (log 33: DESIGN CHOICE). -/
def tqRun (e : BitVec 160) : Op Unit := do
  let w := tqField e 0 32
  let ctl := tqField e 96 32
  let rows := ctl % 256
  let ov : MeOver := {
    a := if ctl / 2 ^ 17 % 2 = 1 then some (tqField e 32 22) else none
    c := if ctl / 2 ^ 18 % 2 = 1 then some (tqField e 64 22) else none
    rows := if rows = 0 then none else some rows
    pset := if ctl / 2 ^ 8 % 256 = 0 then none else some (ctl / 2 ^ 8 % 256)
    skip := true }
  failIf (decide (tqField e 54 10 ≠ 0) || decide (tqField e 86 10 ≠ 0) || decide (ctl / 2 ^ 19 ≠ 0)) .meTq
  match decodeMe w with
  | .ok (.mPass afmt asrc aga agc rowsM1 z stg) => do
    failIf (decide (stg ≠ 0) || decide (128 < rows)) .meTq
    mePass false afmt asrc aga agc rowsM1 z 0 ov
  | .ok (.mPassi afmt asrc aga agc rowsM1 z stg) => do
    failIf (decide (stg ≠ 0) || decide (128 < rows)) .meTq
    mePass true afmt asrc aga agc rowsM1 z 0 ov
  | .ok (.mGpass afmt asrc aga agg rowsM1 stg) => do
    failIf (decide (stg ≠ 0) || decide (128 < rows)) .meTq
    meGpass afmt asrc aga agg rowsM1 0 ov
  | .ok (.gSum agg agi agc z rowsM1 stg) => do
    failIf (decide (stg ≠ 0)) .meTq
    meGsum agg agi agc z rowsM1 0 ov
  | .ok (.mConv afmt agp agc rowsM1 z stg tap) => do
    failIf (decide (stg ≠ 0) || decide (64 < rows)) .meTq
    meConv afmt agp agc rowsM1 z 0 tap ov
  | _ => trapWith .meTq

/-- R222: `m.tq`. -/
def execMTq (sel off : Nat) : State → Host.Outcome State Fault Refusal :=
  run fun s => meWord (do
    let e ← tqPop s.ck sel
    if tqField e 0 32 ≠ 0 then tqRun e
    upd (modMe s.ck fun m => { m with popped := none })
    pure (if tqField e 112 1 = 0 then wordTarget (s.c.stream .me).at 16 off else (s.c.stream .me).next)) s

/-! ### Control, synchronisation and loops (R224 to R227) -/

/-- R59: a read of FLAGS waits until every earlier step has set its flags. -/
def meDrained (ck : Nat) : Op Unit := do
  let s ← getS
  if (s.ctx ck).me.drains ≠ [] then waitFor .drained

def execMCrLd (csel off : Nat) : State → Host.Outcome State Fault Refusal :=
  run fun s => meNext (do
    let a := 8 * off
    failIf (!inWindow s.c 0 a 8) .bufRange
    meOrder s.ck [(0, a, a + 8, false)] none
    let v ← meRead s.ck 0 (winKey s.ck s.c 0 a) 8
    failIf (meCrBad csel (BitVec.ofNat 64 v)) .crValue
    upd (meCrWrite s.ck csel (BitVec.ofNat 64 v))) s

def execMCrSt (csel off : Nat) : State → Host.Outcome State Fault Refusal :=
  run fun s => meNext (do
    let a := 8 * off
    failIf (!inWindow s.c 0 a 8) .bufRange
    if csel = 5 then meDrained s.ck
    meOrder s.ck [(0, a, a + 8, true)] none
    meDeliver s.ck [(0, a, a + 8, true)] none (cellsOf (winKey s.ck s.c 0 a) 8 (meCrRead s csel).toNat).reverse 0) s

def execMCrImm (csel imm : Nat) : State → Host.Outcome State Fault Refusal :=
  run fun s => meNext (do
    failIf (meCrBad csel (BitVec.ofNat 64 imm)) .crValue
    upd (meCrWrite s.ck csel (BitVec.ofNat 64 imm))) s

/-- R225: a release at core scope has no cache action (R315). -/
def execMeSemSig (sem : Nat) : State → Host.Outcome State Fault Refusal :=
  run fun s => if s.c.me.drains ≠ [] then blockOn s.ck .me .drained s else signalWord .me sem s

def execMeSemWait (sem : Nat) : State → Host.Outcome State Fault Refusal :=
  run fun s => meNext (do
    if !s.semFree s.ck .me sem then waitFor (.sem sem)
    upd (semTake s.ck sem)) s

def execMeTlWait (tl inc : Nat) : State → Host.Outcome State Fault Refusal :=
  run fun s => meNext (do
    let t := (vget 0 s.c.me.tlx tl + BitVec.ofNat 64 inc)
    if (s.timeline s.ck tl).done.toNat < t.toNat then waitFor (.tl tl t.toNat)
    upd (modMe s.ck fun m => { m with tlx := vset m.tlx tl t })) s

/-- R226: as R137, and ENTRY becomes 0 with ITER. -/
def execMeLbr (lev off : Nat) : State → Host.Outcome State Fault Refusal :=
  run fun s =>
    let t := lbrWord .me lev off s
    if (vget 0 ((t.ctx s.ck).stream .me).iter lev).toNat = 0 ∧ (t.ctx s.ck).st = s.c.st then
      t.modStream s.ck .me fun st => { st with entry := vset st.entry lev 0 }
    else t

def execMeEnd : State → Host.Outcome State Fault Refusal := run (endWord .me)

/-- R227: the trap waits for the steps before it. -/
def execMeTrap (code : Nat) : State → Host.Outcome State Fault Refusal :=
  run fun s => if s.c.me.drains ≠ [] then blockOn s.ck .me .drained s else trapWord .me code s

/-- R227: the next issue slot goes to another ready context. -/
def execMeYield : State → Host.Outcome State Fault Refusal := run (meNext (upd (yieldSlot .me)))

def execMB (off : Nat) : State → Host.Outcome State Fault Refusal :=
  run fun s => meWord (pure (wordTarget (s.c.stream .me).at 16 off)) s

/-- R228: the oldest step finishes draining; ARITH_INV follows where it is due, with ME at the next step. -/
def execMeStepComplete (core slot : Nat) : State → Host.Outcome State Fault Refusal :=
  run fun s =>
    let ck := core * 4 + slot
    match (s.ctx ck).me.drains with
    | [] => s
    | d :: l =>
      let s := applyDrain ck d (modMe ck (fun m => { m with drains := l }) s)
      if d.inve then trapInv ck .me d.pc s else s

end Sys2Proof.Machine
end

