-- ==== Sys2Proof/Machine/Cx.lean ====
section
/-!
DEFINITION. The copy contexts (R146 to R149, R405) and the moves of bytes that every copying command shares (R322, R448), the
responses of SQ's memory instructions (R107) and what every wait waits for (R15, R24).
-/
namespace Sys2Proof.Machine
open Sys2Proof

/-- Whether a context's streams and commands run: RUN, or a drain that runs (R280, R374). -/
def Ctx.active (c : Ctx) : Bool :=
  c.st == .run || (c.st == .halting && decide ((c.halt.map (·.kind)) = some 1))

/-! ### Halted accesses (R390, R393) -/

/-- Whether a halted access is a translation fault, or counts as one (R393, R433, R444): one that awaits its address translation (R389), or
is held in a home slice (R436), is none. -/
def Halted.faulted (h : Halted) : Bool := decide (h.why ≠ 2 ∧ h.why ≠ 5)

/-- Whether a halted access waits for a tile on the move (R433, R436). -/
def Halted.onMove (h : Halted) : Bool := decide (h.why = 1 ∨ h.why = 5)

/-! ### The commands of XL and XS (R234) -/

/-- The command queue of a transfer stream. -/
def Regs.xq (r : Regs) (u : StreamId) : List Cmd := if u = .xs then r.xsQ else r.xlQ

def modXq (ck : Nat) (u : StreamId) (f : List Cmd → List Cmd) : State → State :=
  State.modRegs ck fun r => if u = .xs then { r with xsQ := f r.xsQ } else { r with xlQ := f r.xlQ }

/-- Changes one command. -/
def modCmd (ck : Nat) (u : StreamId) (num : Nat) (f : Cmd → Cmd) : State → State :=
  modXq ck u fun l => l.map fun q => if q.num = num then f q else q

/-! ### Moving bytes -/

/-- A place that a copying command reads or writes: a byte of a tile run of a tensor, or a buffer key. -/
inductive Loc where
  | mem (d : Desc) (byte : Nat)
  | buf (key : Nat)
  deriving DecidableEq, Repr

def Loc.add : Loc → Nat → Loc
  | .mem d b, n => .mem d (b + n)
  | .buf k, n => .buf (k + n)

/-- The flat address of a place of a flat tensor (R397 FADDR). -/
def Loc.flat : Loc → Nat
  | .mem d b => d.index * 2 ^ 44 + b
  | .buf _ => 0

/-- The bytes from a place to the end of its 128-byte line. -/
def Loc.room : Loc → Nat
  | .mem _ b => 128 - b % 128
  | .buf k => 128 - k % 128

/-- The bytes from the start of its line to the byte before a place. -/
def Loc.back : Loc → Nat
  | .mem _ b => (b - 1) % 128 + 1
  | .buf k => (k - 1) % 128 + 1

/-- The mask of the bytes `o … o + n - 1` whose 8-byte word a test marks. -/
def poisonBytes (marked : Nat → Bool) (o n : Nat) : Nat :=
  (List.range n).foldl (fun m i => if marked ((o + i) / 8) then m + 2 ^ i else m) 0

/-- The words (by index) that a byte mask from offset `o` touches. -/
def maskWords (o n mask : Nat) : List Nat :=
  (((List.range n).filter fun i => mask.testBit i).map fun i => (o + i) / 8).dedup

/-- Reads `n` bytes of one line at a place, by an access that translates as `acc`; answers the value and the mask of bytes in
poisoned words. A consumer (`eat`) stops on poison (R448); one of XS that says so marks its command (R80, R258). -/
def lineRead (q : Requester) (cls acc : Nat) (eat : Bool) (l : Loc) (n : Nat) : Op (Nat × Nat) := do
  let markErr : State → State := match q.mark with
    | some num => modCmd q.ck .xs num fun x => { x with err := true }
    | none => id
  match l with
  | .mem d b =>
    let key ← translate q d (b / 65536) (b % 65536) acc
    let s ← getS
    let (x, s') := s.l2Get (dieOf q.ck) q.part (key / 128) cls
    upd fun _ => s'
    let m := if x.poison = 0 then 0 else poisonBytes (fun w => x.poison.getLsbD w) (key % 128) n
    if eat && decide (m ≠ 0) then upd markErr
    atFaddr (d.index * 2 ^ 48 + b / 65536) (memUeIf q.ck q.unit key (eat && decide (m ≠ 0)))
    pure (lineBytes x.data (key % 128) n, m)
  | .buf k =>
    let s ← getS
    let (v, p) := s.bufRead k n
    if eat && p then
      upd markErr
      trapLogged q.ck .memUe 0 q.unit 0 0
    pure (v, if p then poisonBytes (fun w => s.bpoison.contains w) k n else 0)

/-- A read that moves bytes unread. -/
def locRead (q : Requester) (cls : Nat) (l : Loc) (n : Nat) : Op (Nat × Nat) := lineRead q cls 1 false l n

/-- Reads `n` bytes across lines. -/
def spanRead (q : Requester) (cls acc : Nat) (eat : Bool) : Nat → Loc → Nat → Op (Nat × Nat)
  | 0, _, _ => pure (0, 0)
  | fuel + 1, l, n => do
    if n = 0 then pure (0, 0)
    else
      let k := min n l.room
      let (v, m) ← lineRead q cls acc eat l k
      let (v', m') ← spanRead q cls acc eat fuel (l.add k) (n - k)
      pure (v + v' * 2 ^ (8 * k), m + m' * 2 ^ k)

/-- Writes `n` bytes of one line at a place; words that a poisoned byte reaches are poisoned (R448). -/
def locWrite (q : Requester) (cls : Nat) (l : Loc) (n v mask : Nat) : Op Unit := do
  match l with
  | .mem d b =>
    let key ← translate q d (b / 65536) (b % 65536) 2
    upd fun s =>
      let s := s.l2WriteIn (dieOf q.ck) q.part key n v cls
      (maskWords key n mask).foldl (fun s w => l2Poison q (8 * w) cls s) s
  | .buf k =>
    upd fun s => (maskWords k n mask).foldl (fun s w => s.bufPoison (8 * w)) (s.bufWrite k n v)

/-- Writes `n` bytes across lines. -/
def spanWrite (q : Requester) (cls : Nat) : Nat → Loc → Nat → Nat → Nat → Op Unit
  | 0, _, _, _, _ => pure ()
  | fuel + 1, l, n, v, mask => do
    if n = 0 then pure ()
    else
      let k := min n l.room
      locWrite q cls l k (v % 2 ^ (8 * k)) (mask % 2 ^ k)
      spanWrite q cls fuel (l.add k) (n - k) (v / 2 ^ (8 * k)) (mask / 2 ^ k)

/-! ### `cx.copy` and `cx.prog` (R146 to R149) -/

/-- R149: whether a copy record breaks a rule that traps CX_REC. The offset of a barrier is held to 16 bytes only where bit 31
names one (log 33: DESIGN CHOICE). -/
def cxBad (r : Nat) : Bool :=
  let src := fieldOf r 0 8
  let dst := fieldOf r 8 8
  let len := fieldOf r 16 8
  let ssp := fieldOf r 24 1
  let dsp := fieldOf r 25 1
  let bar := fieldOf r 28 4
  decide (1 < ssp ∨ 1 < dsp) || decide (fieldOf r 26 2 ≠ 0) || decide (2 ^ 40 < len) || decide (bar / 2 ^ 22 % 512 ≠ 0)
  || (decide (bar / 2 ^ 31 = 1) && decide (bar % 2 ^ 22 % 16 ≠ 0))
  || (if ssp = 1 then decide (src / 2 ^ 22 ≠ 0) else decide (2 ^ 44 < src % 2 ^ 44 + len))
  || (if dsp = 1 then decide (dst / 2 ^ 22 ≠ 0) else decide (2 ^ 44 < dst % 2 ^ 44 + len))

/-- The descriptor bytes of a flat operand of a copy, checked as R384 at issue. -/
def cxDesc (q : Requester) (isAb : Bool) (ptr len acc : Nat) : Op (BitVec 512) := do
  if isAb ∨ len = 0 then pure 0
  else
    let _ ← atFaddr ptr (flatDesc q ptr len acc)
    let raw ← readDesc q (ptr / 2 ^ 44) acc
    pure (BitVec.ofNat 512 raw)

/-- R147: a checked copy takes its place: its wait for room, its issue number in sd and its queue entry. The eight that a context may have
queued are its incomplete ones, those that move bytes among them (log 33: DESIGN CHOICE). -/
def cxEnqueue (ck sd cx : Nat) (q : CxCmd) : Op Unit := do
  let s ← getS
  if 8 ≤ (vget [] (s.ctx ck).r.cxQ cx).length then
    upd (State.modRegs ck fun r => { r with pend := some (.copy sd cx q) })
    waitFor (.cxRoom cx)
  let (n, s') := tlIssue ck (2 + cx) s
  upd fun _ => sPut ck sd (BitVec.ofNat 64 n) s'
  upd (State.modRegs ck fun r => { r with
    pend := none
    cxQ := vset r.cxQ cx (vget [] r.cxQ cx ++ [{ q with num := n }]) })

/-- R147: a copy whose record has been read: its checks, then its place in the queue. The spec gives no order for the rows of R149 and
does not place the descriptors' checks (R382) against the wait for room: CX_REC comes before BUF_RANGE, then SOURCE's descriptor, then
DEST's, all before the wait; with LEN 0 no operand is looked at, and CX_REC alone can come (log 33: DESIGN CHOICE). -/
def cxIssue (ck sd cx cls r : Nat) : Op Unit := do
  let src := fieldOf r 0 8
  let dst := fieldOf r 8 8
  let len := fieldOf r 16 8
  let sAb := fieldOf r 24 1 = 1
  let dAb := fieldOf r 25 1 = 1
  let bar := fieldOf r 28 4
  failIf (cxBad r) .cxRec
  let s ← getS
  let c := s.ctx ck
  failIf ((decide (sAb ∧ len ≠ 0) && !inWindow c 0 src len) || (decide (dAb ∧ len ≠ 0) && !inWindow c 0 dst len)
    || (decide (bar / 2 ^ 31 = 1) && !inWindow c 0 (bar % 2 ^ 22) 16)) .bufRange
  let q := s.requester ck 3 (5 + cx)
  let ds ← cxDesc q sAb src len 1
  let dd ← cxDesc q dAb dst len 2
  cxEnqueue ck sd cx { num := 0, cls := cls, src := src, dst := dst, len := len, srcAb := sAb, dstAb := dAb, bar :=
    if bar / 2 ^ 31 = 1 then some (bar % 2 ^ 22) else none, sdesc := ds, ddesc := dd }

/-- R146, R147: reads the record, once, as one SQ load, then issues the copy; a copy that waited for room goes on. -/
def cxCopyIssue (sd sa cx : Nat) (s : State) : Op Unit := do
  match s.c.r.pend with
  | some (.copy sd cx q) => cxEnqueue s.ck sd cx q
  | _ =>
    let cls := (s.c.stream .sq).accCls
    let ea ← flatAddr (sGet s sa).toNat 0 32
    let key ← flatKey (s.requester s.ck 0 0) ea 32 1
    if s.slow then
      upd fun s => s.modRegs s.ck fun r => { r with pend := some (.record sd ea cx cls) }
      waitFor .load
    else
      let r ← atFaddr ea (loadAt s.ck ea key 32 cls 0 0)
      cxIssue s.ck sd cx cls r

def execCxCopy (sd sa cx : Nat) : State → Host.Outcome State Fault Refusal :=
  run fun s => unitNext .sq false 1 (cxCopyIssue sd sa cx s) s

/-- R148: the bytes written by the oldest incomplete copy. -/
def execCxProg (sd cx : Nat) : State → Host.Outcome State Fault Refusal :=
  run (unitNext .sq false 0 (upd fun s =>
    sSet sd (BitVec.ofNat 64 (match vget [] s.c.r.cxQ cx with | q :: _ => q.prog | [] => 0)) s))

/-! ### The copy itself -/

/-- The byte ranges of a copy: space (0 AB, 2 memory), first, last, written (R284). -/
def CxCmd.ranges (q : CxCmd) : List (Nat × Nat × Nat × Bool) :=
  if q.len = 0 then []
  else [(if q.srcAb then 0 else 2, q.src, q.src + q.len - 1, false), (if q.dstAb then 0 else 2, q.dst, q.dst + q.len - 1, true)]

/-- R283: two range lists conflict when ranges of one space overlap and one of them is written. -/
def conflict (a b : List (Nat × Nat × Nat × Bool)) : Bool :=
  a.any fun x => b.any fun y =>
    decide (x.1 = y.1 ∧ x.2.1 ≤ y.2.2.1 ∧ y.2.1 ≤ x.2.2.1) && (x.2.2.2 || y.2.2.2)

def modCx (ck cx num : Nat) (f : CxCmd → CxCmd) : State → State :=
  State.modRegs ck fun r => { r with cxQ := vset r.cxQ cx ((vget [] r.cxQ cx).map fun q => if q.num = num then f q else q) }

/-- The places of a copy's source and destination. -/
def CxCmd.srcLoc (ck : Nat) (c : Ctx) (q : CxCmd) : Loc :=
  if q.srcAb then .buf (winKey ck c 0 q.src) else .mem (descOf (q.src / 2 ^ 44) q.sdesc.toNat) (q.src % 2 ^ 44)
def CxCmd.dstLoc (ck : Nat) (c : Ctx) (q : CxCmd) : Loc :=
  if q.dstAb then .buf (winKey ck c 0 q.dst) else .mem (descOf (q.dst / 2 ^ 44) q.ddesc.toNat) (q.dst % 2 ^ 44)

/-- R147, R405: the copy from its progress on, a piece of one line at a time, ascending when DEST ≤ SOURCE; each byte is
counted once in its barrier object after it has performed. -/
def cxMove (ck cx num : Nat) (q : Requester) : Nat → Op Unit
  | 0 => pure ()
  | fuel + 1 => do
    let s ← getS
    let c := s.ctx ck
    match (vget [] c.r.cxQ cx).find? fun x => x.num = num with
    | none => pure ()
    | some x =>
      if x.len ≤ x.prog then pure ()
      else
        let left := x.len - x.prog
        let (src, dst, k) :=
          if x.dst ≤ x.src then
            let a := (x.srcLoc ck c).add x.prog
            let b := (x.dstLoc ck c).add x.prog
            (a, b, min left (min a.room b.room))
          else
            let a := (x.srcLoc ck c).add left
            let b := (x.dstLoc ck c).add left
            let k := min left (min a.back b.back)
            ((x.srcLoc ck c).add (left - k), (x.dstLoc ck c).add (left - k), k)
        let (v, m) ← atFaddr src.flat (locRead q x.cls src k)
        atFaddr dst.flat (locWrite q x.cls dst k v m)
        upd (modCx ck cx num fun x => { x with prog := x.prog + k })
        match x.bar with
        | some b => upd (barArrive ck b k)
        | none => pure ()
        cxMove ck cx num q fuel

/-- Whether a copy has bytes left to move. -/
def cxLeft (ck cx num : Nat) (s : State) : Bool :=
  (vget [] (s.ctx ck).r.cxQ cx).any fun x => decide (x.num = num ∧ x.prog < x.len)

/-- R147: a copy of a copy context, one of its first four commands with no earlier conflicting one, moves its bytes, all of them unless
the schedule lets it pause after some pieces (R133), and completes with the last. A translation fault leaves it at its progress point
(R393, R405). -/
def execCxCopyComplete (core slot cx num : Nat) : State → Host.Outcome State Fault Refusal :=
  run fun s =>
    let ck := core * 4 + slot
    let c := s.ctx ck
    let l := vget [] c.r.cxQ cx
    match (l.take 4).find? fun x => x.num = num with
    | none => s
    | some x =>
      let before := l.takeWhile fun y => y.num ≠ num
      if ¬ c.active ∨ x.halted.isSome ∨ before.any (fun y => conflict y.ranges x.ranges) then s
      else
        match runOp (cxMove ck cx num (s.requester ck 3 (5 + cx)) (s.rows.getD (x.len + 1))) s with
        | (.ok _, t) =>
          if s.rows.isSome && cxLeft ck cx num t then t else tlComplete ck (2 + cx) num false
            (t.modRegs ck fun r => { r with cxQ := vset r.cxQ cx ((vget [] r.cxQ cx).filter fun y => y.num ≠ num) })
        | (.error (.halt h), t) => modCx ck cx num (fun y => { y with halted := some h }) t
        | (.error (.trap z code fa au el), t) => stopContext ck none z code fa au el true t
        | (.error (.wait _), t) => t

/-! ### SQ responses (R107) -/

/-- R107: the value of a load, or the record of a copy, returns to SQ. -/
def execSqLoadReturn (core slot : Nat) : State → Host.Outcome State Fault Refusal :=
  run fun s =>
    let ck := core * 4 + slot
    let c := s.ctx ck
    if ¬ c.active ∨ (c.stream .sq).wait ≠ some .load then s
    else
      let done (o : Op Unit) : State :=
        match runOp o (s.modRegs ck fun r => { r with pend := none }) with
        | (.ok _, t) => endUnit ck .sq (c.stream .sq).next t
        | (.error x, t) => stopWord ck .sq x t
      match c.r.pend with
      | some (.load sd ea n ty cls ord scope) => done (do
          let key ← flatKey (s.requester ck 0 0) ea n 1
          loadFinish ck sd ea key n ty cls ord scope)
      | some (.record sd ea cx cls) => done (do
          let key ← flatKey (s.requester ck 0 0) ea 32 1
          let r ← atFaddr ea (loadAt ck ea key 32 cls 0 0)
          cxIssue ck sd cx cls r)
      | _ => s

/-- Whether an issued instruction's acquire can be made now: every line it must clean has a route (R444). -/
def respReady (ck : Nat) (s : State) : Bool :=
  match (s.ctx ck).r.pend with
  | some (.resp _ _ _ _ mask (some sc)) => !s.noRoute ck sc mask
  | _ => true

/-- R107: the response to an issued SQ memory instruction: its register write, its L1D drop and its acquire; or its precise trap, SQ
standing at it. -/
def execSqMemoryResponse (core slot : Nat) : State → Host.Outcome State Fault Refusal :=
  run fun s =>
    let ck := core * 4 + slot
    if (s.ctx ck).active ∧ ((s.ctx ck).stream .sq).wait = some .resp ∧ respReady ck s then
      match (s.ctx ck).r.pend with
      | some (.fault c faddr _) => takeTrap ck .sq c 0 faddr 0 0 true s
      | _ => (collectPend ck s).modStream ck .sq fun st => { st with wait := none }
    else s

/-! ### Waits (R15, R24, R107, R235) -/

/-- Whether what a blocked word waits for is there. -/
def waitMet (ck : Nat) (u : StreamId) (w : Wait) (s : State) : Bool :=
  let r := (s.ctx ck).r
  match w with
  | .sem n => s.semFree ck u n
  | .tl k v => decide (v ≤ (s.timeline ck k).done.toNat)
  | .bar off => let v := (winRead ck 0 off 16 s).1; decide (v % 2 ^ 32 ≤ v / 2 ^ 32 % 2 ^ 32)
  | .cxRoom cx => decide ((vget [] r.cxQ cx).length < 8)
  | .asgRoom => decide (r.asg.queue.length < 4)
  | .asgIdle => r.asg.queue.isEmpty && r.asg.run.isNone
  | .cmdRoom => if u = .xs then decide (r.xsQ.length < 16) else decide (r.xlQ.length < 16)
  | .fifo k n => decide (n ≤ (vget [] r.ff k).length)
  | .tq sel => if sel = 2 then !(vget [] r.tq 0).isEmpty || !(vget [] r.tq 1).isEmpty else !(vget [] r.tq sel).isEmpty
  | .drained => r.me.drains.isEmpty
  | .order ranges acc => !meWaits r.me.drains ranges acc
  | .row => true
  | .cmds => r.workDone u
  | .retire => r.workDone u
  | .load => false
  | .armq die part => armqRoom die part s && !s.frozen part
  | .resp => false
  | .page => false
  | .fifoRoom k => decide ((vget [] r.ff k).length < 128)
  | .tqRoom k => decide ((vget [] r.tq k).length < 16)
  | .half a =>
    !((vget [] r.tq 0 ++ vget [] r.tq 1 ++ r.me.popped.toList).any fun e => decide (e.toNat / 2 ^ 128 = a + 1))
  | .slots l => l.all fun k =>
    decide ((vget {} (s.core (coreOf ck)).cases ((s.ctx ck).caseSlots[k]?.getD 16)).state ≠ 1#2)

end Sys2Proof.Machine
end

