-- ==== Sys2Proof/Machine/Grant.lean ====
section
/-!
DEFINITION. Whose turn it is: the streams that may run and the grant of an engine's issue slot (R15, R280, R376), the blocked
words that go on (R24, R107, R235), and the choice of ASG among contexts (R359).
-/
namespace Sys2Proof.Machine
open Sys2Proof

/-! ### Ready streams (R15, R280) -/

/-- R280: whether a core's issue slots are open to a slot: no other context of the core drains. -/
def slotOpen (core slot : Nat) (s : State) : Bool :=
  match (s.core core).draining with
  | some k => decide (k = slot)
  | none => true

/-- Whether a stream's wait, if it has one, is met, so that its word may execute (R15). A stream that waits to retire fetches
nothing more. -/
def waitOver (ck : Nat) (u : StreamId) (s : State) : Bool :=
  match ((s.ctx ck).stream u).wait with
  | none => true
  | some w => decide (w ≠ .retire) && waitMet ck u w s

/-- R26: whether a command stalls its unit at a full FIFO or tile queue. -/
def Cmd.stalls (q : Cmd) : Bool := match q.wait with
  | some (.fifoRoom _) | some (.tqRoom _) => true
  | _ => false

/-- Whether a stream of XL or XS stays at its word boundary because of a command: one that is halted on a translation (R393), or one
that stalls its unit (R26). -/
def Ctx.cmdHalted (c : Ctx) (u : StreamId) : Bool :=
  match u with
  | .xl => c.r.xlQ.any fun q => q.halted.any Halted.faulted || q.stalls
  | .xs => c.r.xsQ.any fun q => q.halted.any Halted.faulted || q.stalls
  | _ => false

/-- Whether a stream may be granted its engine: its context runs, no other context of the core drains, and the stream has
neither retired nor halted under a cut or behind a halted command, nor is it blocked (R376). A word blocks when it has been granted its
slot, which its stream then gives up from the next cycle (R15; log 23: DEDUCED). -/
def ready (a : Agent) (s : State) : Bool :=
  let c := s.ctx (a.core * 4 + a.slot)
  let st := c.stream a.stream
  c.active && !st.retired && !st.drained && !c.cmdHalted a.stream && slotOpen a.core a.slot s && waitOver (a.core * 4 + a.slot) a.stream s

/-! ### The grant (R376) -/

/-- The best of a list by a strict order, the earlier one on ties. -/
def best (better : Nat → Nat → Bool) : List Nat → Option Nat
  | [] => none
  | k :: r => match best better r with
    | none => some k
    | some j => if better j k then some j else some k

/-- R376: the slot that is granted: the longest WAIT of those at 60 or more, else the highest BPRI, then the longest WAIT, then
the lower slot. -/
def grantSlotOf (wait pri : Nat → Nat) (ks : List Nat) : Option Nat :=
  let old := ks.filter fun k => 60 ≤ wait k
  if old.isEmpty then
    best (fun j k => decide (pri k < pri j) || (decide (pri k = pri j) && decide (wait k < wait j))) ks
  else best (fun j k => decide (wait k < wait j)) old

/-- The slots of a core with a stream that may run on an engine. -/
def readySlots (core : Nat) (u : StreamId) (s : State) : List Nat := (List.range 4).filter fun k => ready ⟨core, k, u⟩ s

/-- R376: the grant of an engine's slot, with WAIT of the ready contexts kept. A stream that has yielded gives way in this cycle where
another one is ready, and in no later one (R156, R197). -/
def grantAt (core : Nat) (u : StreamId) (s : State) : Option (Nat × State) :=
  let ks := readySlots core u s
  let st (k : Nat) : Stream := (s.ctx (core * 4 + k)).stream u
  let fresh := ks.filter fun k => !(st k).yielded
  (grantSlotOf (fun k => (st k).skid) (fun k => (s.ctx (core * 4 + k)).bind.bpri) (if fresh.isEmpty then ks else fresh)).map fun k =>
    (k, (List.range 4).foldl (fun s j => if ks.contains j ∨ (st j).yielded then s.modStream (core * 4 + j) u fun st =>
      { st with skid := if ks.contains j then (if j = k then 0 else st.skid + 1) else st.skid, yielded := false } else s) s)

/-- R156, R197: what a stream has given up is its engine's next slot: one that goes to no stream is gone too. -/
def passYields (s : State) : State :=
  if !s.ctxs.any fun x => x.2.r.streams.any (·.yielded) then s
  else { s with ctxs := s.ctxs.map fun x => (x.1, { x.2 with r := { x.2.r with streams := x.2.r.streams.mapFinIdx fun i st _ =>
      if st.yielded && (readySlots (coreOf x.1) (StreamId.ofCode i) s).isEmpty then { st with yielded := false } else st } }) }

/-- The engines (core × 5 + stream) with a ready stream. -/
def readyEngines (s : State) : List Nat :=
  (s.ctxs.map fun x => coreOf x.1).dedup.flatMap fun core => ([.sq, .ve, .me, .xl, .xs] : List StreamId).filterMap fun u =>
    if (readySlots core u s).isEmpty then none else some (core * 5 + u.code)

/-- The engine whose turn it is: the first at or after `cur` with a ready stream, round and round. -/
def pickEngine (cur : Nat) (l : List Nat) : Option Nat :=
  let least (l : List Nat) : Option Nat := l.foldl (fun b x => match b with | none => some x | some y => some (min x y)) none
  match least (l.filter fun e => cur ≤ e) with
  | some e => some e
  | none => least l

/-- The stream that runs next, when the schedule says nothing. -/
def grant (s : State) : Option (Agent × State) :=
  match pickEngine s.cur (readyEngines s) with
  | none => none
  | some e =>
    let u := StreamId.ofCode (e % 5)
    (grantAt (e / 5) u s).map fun x => (⟨e / 5, x.1, u⟩, { x.2 with cur := e + 1 })

/-! ### Blocked words that go on (R24, R107, R235) -/

/-- A blocked word goes on with its engine's slot: it executes next, from its first prefix (R107). -/
def unblock (core slot : Nat) (u : StreamId) (s : State) : State :=
  match grantAt core u s with
  | some (k, t) =>
    if k = slot then { t.modStream (core * 4 + slot) u fun st => { st with wait := none } with lock := some ⟨core, slot, u⟩ } else s
  | none => s

/-- R24: a blocked word finds its condition met and proceeds, when its context is granted the engine's slot. -/
def execWaitSatisfied (core slot stream : Nat) : State → Host.Outcome State Fault Refusal :=
  run fun s =>
    let u := StreamId.ofCode stream
    match ((s.ctx (core * 4 + slot)).stream u).wait with
    | none => s
    | some w => if w ≠ .cmdRoom ∧ w ≠ .retire ∧ s.lock = none then unblock core slot u s else s

/-- R235: a command word that stalled on a full command queue goes on. -/
def execCommandQueueRoom (core slot stream : Nat) : State → Host.Outcome State Fault Refusal :=
  run fun s =>
    let u := StreamId.ofCode stream
    if ((s.ctx (core * 4 + slot)).stream u).wait = some .cmdRoom ∧ s.lock = none then unblock core slot u s else s

/-- R155, R227, R270: a stream whose `end` waited for its outstanding work retires. -/
def execStreamRetire (core slot stream : Nat) : State → Host.Outcome State Fault Refusal :=
  run fun s =>
    let ck := core * 4 + slot
    let u := StreamId.ofCode stream
    if ((s.ctx ck).stream u).wait = some .retire ∧ (s.ctx ck).active ∧ waitMet ck u .retire s then retire ck u s else s

/-! ### ASG (R359, R376) -/

/-- Whether ASG has work of a context at a round or command boundary. -/
def asgReady (core slot : Nat) (s : State) : Bool :=
  let c := s.ctx (core * 4 + slot)
  c.active && slotOpen core slot s && !c.r.asg.queue.isEmpty && match c.r.asg.run with
    | none => true
    | some r => !r.bad && r.status.isNone

/-- R359: the context that ASG serves next, with WAIT of the others kept. -/
def asgGrant (core : Nat) (s : State) : Option (Nat × State) :=
  let ks := (List.range 4).filter fun k => asgReady core k s
  (grantSlotOf (fun k => (s.ctx (core * 4 + k)).r.asg.skid) (fun k => (s.ctx (core * 4 + k)).bind.bpri) ks).map fun k =>
    (k, ks.foldl (fun s j => s.modRegs (core * 4 + j) fun r =>
      { r with asg := { r.asg with skid := if j = k then 0 else r.asg.skid + 1 } }) s)

/-- What ASG does for a context, if it serves it now. -/
def asgServe (core slot : Nat) (f : State → State) (s : State) : State :=
  match asgGrant core s with
  | some (k, t) => if k = slot then f t else s
  | none => s

end Sys2Proof.Machine
end

