-- ==== Sys2Proof/Machine/Asg.lean ====
section
/-!
DEFINITION. The assignment engine (R349 to R361): its registers, its words and commands, and the auction run round by round.
-/
namespace Sys2Proof.Machine
open Sys2Proof

/-! ### f32 arithmetic of ASG (R351, R352: RNE, with flush) -/

/-- The f32 value of a word under input flush. -/
def f32In (fl : BitVec 6) (b : BitVec 32) : FVal := FFmt.f32.read fl b.toNat

/-- RNE(a + b, f32) and RNE(a − b, f32) on f32 words. -/
def f32Add (fl : BitVec 6) (a b : BitVec 32) (neg : Bool) : BitVec 32 × Flags :=
  let y := f32In fl b
  let (v, f) := fAdd 0 (f32In fl a) (if neg then y.neg else y)
  let (r, g) := FFmt.f32.encode ⟨0, fl, 0⟩ v
  (BitVec.ofNat 32 r, f ||| g)

def f32Cmp (fl : BitVec 6) (a b : BitVec 32) : Ordering := fCmp (f32In fl a) (f32In fl b)

/-- Whether a word is NaN or ±∞. -/
def f32Special (b : BitVec 32) : Bool := decide (b.toNat / 2 ^ 23 % 256 = 255)

def negInf : BitVec 32 := 0xFF800000#32

/-- R352: the least f32 above a finite word. -/
def nextUp (b : BitVec 32) : BitVec 32 :=
  if b.toNat % 2 ^ 31 = 0 then 1 else if b.getLsbD 31 then b - 1 else b + 1

/-! ### A round (R352) -/

/-- What a run works with: registers and sampled flush. -/
structure AsgEnv where
  eps : BitVec 32
  reserve : BitVec 32
  bidcap : BitVec 32
  flush : BitVec 6
  deriving DecidableEq, Repr

/-- The columns of non-zero capacity. -/
def asgCols (cap : List Nat) : List Nat := (List.range cap.length).filter fun j => cap[j]?.getD 0 ≠ 0

/-- val[j] for each column of `cols`, with flags. -/
def asgVals (e : AsgEnv) (row p : List (BitVec 32)) : List Nat → List (Nat × BitVec 32) × Flags
  | [] => ([], 0)
  | j :: r =>
    let (v, f) := f32Add e.flush (row[j]?.getD 0) (p[j]?.getD 0) true
    let (l, g) := asgVals e row p r
    ((j, v) :: l, f ||| g)

/-- The lowest column with the largest value. -/
def asgBest (fl : BitVec 6) : List (Nat × BitVec 32) → Option (Nat × BitVec 32)
  | [] => none
  | x :: r => match asgBest fl r with
    | none => some x
    | some y => if f32Cmp fl x.2 y.2 = .lt then some y else some x

/-- The bid of an unassigned row: column and bid, with flags; none when it does not bid. -/
def asgBid (e : AsgEnv) (row p : List (BitVec 32)) (cols : List Nat) : Option (Nat × BitVec 32) × Flags :=
  let (vals, f) := asgVals e row p cols
  match asgBest e.flush vals with
  | none => (none, f)
  | some (j1, v1) =>
    if v1 = negInf ∨ f32Cmp e.flush v1 e.reserve = .lt then (none, f)
    else
      let (v2, f2) := match asgBest e.flush (vals.filter fun x => x.1 ≠ j1 ∧ x.2 ≠ negInf) with
        | some y => (y.2, (0 : Flags))
        | none => f32Add e.flush v1 e.bidcap true
      let (m, f3) := if f32Cmp e.flush v1 v2 = .eq then (0, (0 : Flags)) else f32Add e.flush v1 v2 true
      let (me, f4) := f32Add e.flush m e.eps false
      let pj := p[j1]?.getD 0
      let (b, f5) := f32Add e.flush pj me false
      let b := if f32Cmp e.flush e.eps 0 = .gt ∧ f32Cmp e.flush b pj = .eq then nextUp pj else b
      (some (j1, b), f ||| f2 ||| f3 ||| f4 ||| f5)

/-- The bids of a round, by row, with flags. -/
def asgBids (e : AsgEnv) (r : AsgRun) (cols : List Nat) : List Nat → List (Nat × Nat × BitVec 32) × Flags
  | [] => ([], 0)
  | i :: rest =>
    let (l, g) := asgBids e r cols rest
    if (r.a[i]?.getD none).isSome then (l, g)
    else
      let (b, f) := asgBid e (r.scores[i]?.getD []) r.p cols
      match b with
      | some (j, v) => ((i, j, v) :: l, f ||| g)
      | none => (l, f ||| g)

/-- Puts a holder in order: bid descending, then row ascending. -/
def asgInsert (fl : BitVec 6) (x : Nat × BitVec 32) : List (Nat × BitVec 32) → List (Nat × BitVec 32)
  | [] => [x]
  | y :: r =>
    match f32Cmp fl x.2 y.2 with
    | .gt => x :: y :: r
    | .eq => if x.1 < y.1 then x :: y :: r else y :: asgInsert fl x r
    | .lt => y :: asgInsert fl x r

/-- R352: one column resolves. -/
def asgResolve (fl : BitVec 6) (bids : List (Nat × Nat × BitVec 32)) (r : AsgRun) (j : Nat) : AsgRun :=
  let held := (List.range r.a.length).filterMap fun i =>
    if r.a[i]?.getD none = some j then some (i, (r.hb[i]?.getD none).getD 0) else none
  let k := (held ++ bids.filterMap fun b => if b.2.1 = j then some (b.1, b.2.2) else none).foldr (asgInsert fl) []
  let cap := r.cap[j]?.getD 0
  let kept := k.take cap
  let r := kept.foldl (fun r x => { r with a := r.a.set x.1 (some j), hb := r.hb.set x.1 (some x.2) }) r
  let r := (k.drop cap).foldl (fun r x => { r with a := r.a.set x.1 none, hb := r.hb.set x.1 none }) r
  if kept.length = cap then
    match kept.getLast? with
    | some x => { r with p := r.p.set j x.2 }
    | none => r
  else r

/-- R352: one round, or the end of the run. -/
def asgStep (e : AsgEnv) (limit : Nat) (r : AsgRun) : AsgRun :=
  let cols := asgCols r.cap
  let (bids, f) := if cols = [] then ([], 0) else asgBids e r cols (List.range r.a.length)
  let r := { r with flags := r.flags ||| f }
  if bids = [] then { r with status := some 0 }
  else if r.rounds = limit then { r with status := some 1 }
  else
    let n := cols.foldl (asgResolve e.flush bids) r
    let n := { n with rounds := r.rounds + 1 }
    let same := decide (n.a = r.a) && (n.p.zip r.p).all fun x => x.1 = x.2 || f32Cmp 0 x.1 x.2 == .eq
    if n.p.any (· = 0x7F800000#32) then { n with status := some 3 }
    else if same then { n with status := some 2 }
    else n

/-! ### Words (R355, R356) -/

def modAsg (ck : Nat) (f : AsgRegs → AsgRegs) : State → State := State.modRegs ck fun r => { r with asg := f r.asg }

/-- R356: a stream word blocks until every ASG command of the context has completed. -/
def asgIdle : Op AsgRegs := do
  let s ← getS
  if !s.c.r.asg.queue.isEmpty || s.c.r.asg.run.isSome then waitFor .asgIdle
  pure s.c.r.asg

/-- R349: whether a value breaks the rule of register RSEL. -/
def asgBad (rsel : Nat) (v : BitVec 32) : Bool :=
  match rsel with
  | 0 | 2 => f32Special v || v.getLsbD 31
  | 1 => decide (0x7F800000 < v.toNat % 2 ^ 31)
  | _ => decide (v = 0)

def execAsgWr (sa rsel : Nat) : State → Host.Outcome State Fault Refusal :=
  run fun s => unitNext .sq false 0 (do
    let _ ← asgIdle
    let v := sGet s sa
    failIf (decide (2 ^ 32 ≤ v.toNat) || asgBad rsel (v.setWidth 32)) .crValue
    upd (modAsg s.ck fun a => match rsel with
      | 0 => { a with eps := v.setWidth 32 }
      | 1 => { a with reserve := v.setWidth 32 }
      | 2 => { a with bidcap := v.setWidth 32 }
      | _ => { a with limit := v.setWidth 32 })) s

def execAsgRd (sd rsel : Nat) : State → Host.Outcome State Fault Refusal :=
  run (unitNext .sq false 0 (do
    let a ← asgIdle
    let v := match rsel with
      | 0 => a.eps | 1 => a.reserve | 2 => a.bidcap | 3 => a.limit | 4 => a.rstat | _ => a.rcount
    upd (sSet sd (v.setWidth 64))))

def execAsgPget (sd sa : Nat) : State → Host.Outcome State Fault Refusal :=
  run fun s => unitNext .sq false 0 (do
    let a ← asgIdle
    failIf (decide (256 ≤ (sGet s sa).toNat)) .asgCol
    upd (sSet sd ((vget 0 a.price (sGet s sa).toNat).setWidth 64))) s

def execAsgPput (sa sb : Nat) : State → Host.Outcome State Fault Refusal :=
  run fun s => unitNext .sq false 0 (do
    let _ ← asgIdle
    let v := sGet s sb
    failIf (decide (256 ≤ (sGet s sa).toNat)) .asgCol
    failIf (decide (2 ^ 32 ≤ v.toNat) || f32Special (v.setWidth 32)) .crValue
    upd (modAsg s.ck fun a => { a with price := vset a.price (sGet s sa).toNat (v.setWidth 32) })) s

def execAsgPfill (sa : Nat) : State → Host.Outcome State Fault Refusal :=
  run fun s => unitNext .sq false 0 (do
    let _ ← asgIdle
    let v := sGet s sa
    failIf (decide (2 ^ 32 ≤ v.toNat) || f32Special (v.setWidth 32)) .crValue
    upd (modAsg s.ck fun a => { a with price := Vector.replicate 256 (v.setWidth 32) })) s

/-! ### Commands at issue (R357, R358) -/

/-- R358: whether a run record breaks a rule that traps ASG_REC. -/
def asgRecBad (r : Nat) : Bool :=
  let rows := fieldOf r 0 2
  let cols := fieldOf r 2 2
  decide (rows = 0 ∨ 128 < rows) || decide (cols = 0 ∨ 256 < cols) || decide (fieldOf r 4 1 / 32 ≠ 0)
  || decide (fieldOf r 5 3 ≠ 0) || decide (fieldOf r 24 8 ≠ 0) || decide (fieldOf r 8 4 % 4 ≠ 0)
  || decide (fieldOf r 12 4 % 4 ≠ 0) || decide (fieldOf r 16 4 ≠ 0xFFFFFFFF ∧ fieldOf r 16 4 % 4 ≠ 0)
  || decide (fieldOf r 20 4 % 8 ≠ 0)

/-- R358: whether a run's buffers leave the context's windows. -/
def asgRangeBad (c : Ctx) (r : Nat) : Bool :=
  let rows := fieldOf r 0 2
  let cols := fieldOf r 2 2
  decide (ctCount c.ctxbuf ≤ fieldOf r 4 1 % 32 + (cols + 63) / 64 - 1)
  || !inWindow c 0 (fieldOf r 8 4) (2 * cols) || !inWindow c 0 (fieldOf r 12 4) (2 * rows)
  || (decide (fieldOf r 16 4 ≠ 0xFFFFFFFF) && !inWindow c 0 (fieldOf r 16 4) (4 * cols))
  || !inWindow c 0 (fieldOf r 20 4) 8

/-- The AB ranges that a command writes (R405). -/
def asgDests (kind off n r : Nat) : List (Nat × Nat × Nat) :=
  match kind with
  | 0 => [(0, fieldOf r 12 4, 2 * fieldOf r 0 2), (0, fieldOf r 20 4, 8)]
      ++ if fieldOf r 16 4 = 0xFFFFFFFF then [] else [(0, fieldOf r 16 4, 4 * fieldOf r 2 2)]
  | 2 => [(0, off, 4 * n)]
  | _ => []

/-- R357: the issue of a checked command: its wait for room, its number on TL6 in sd, its queue entry. -/
def asgIssue (sd kind off n : Nat) (rcd : BitVec 256) : Op Unit := do
  let s ← getS
  if 4 ≤ s.c.r.asg.queue.length then
    upd (State.modRegs s.ck fun r => { r with pend := some (.asg sd kind off n rcd) })
    waitFor .asgRoom
  let (num, s') := tlIssue s.ck 6 s
  upd fun _ => (sSet sd (BitVec.ofNat 64 num) s').modRegs s.ck fun r => { r with pend := none }
  upd (modAsg s.ck fun a => { a with queue := a.queue ++
    [{ num := num, kind := kind, off := off, n := n, rcd := rcd, flush := (s.c.stream .sq).flush
       dests := asgDests kind off n rcd.toNat }] })

/-- R357: a command word; one that has been checked and waits for room goes on from there. -/
def asgWord (first : Op Unit) (s : State) : Op Unit :=
  match s.c.r.pend with
  | some (.asg sd kind off n rcd) => asgIssue sd kind off n rcd
  | _ => first

/-- R358: the checks of `asg.run`, with its record read. -/
def asgRunIssue (sd sa : Nat) (s : State) : Op Unit := do
  let off := (sGet s sa).toNat
  failIf (decide (off % 32 ≠ 0)) .misalign
  failIf (decide (off / 2 ^ 22 ≠ 0) || !inWindow s.c 0 off 32) .bufRange
  let (r, p) := winRead s.ck 0 off 32 s
  if p then trapLogged s.ck .memUe 0 9 0 0
  failIf (asgRecBad r) .asgRec
  failIf (asgRangeBad s.c r) .bufRange
  asgIssue sd 0 off 0 (BitVec.ofNat 256 r)

def execAsgRun (sd sa : Nat) : State → Host.Outcome State Fault Refusal :=
  run fun s => unitNext .sq false 0 (asgWord (asgRunIssue sd sa s) s) s

/-- R358: the checks of `asg.pld` and `asg.pst`. -/
def asgPrices (sd sa sb kind : Nat) (s : State) : Op Unit := do
  let off := (sGet s sa).toNat
  let n := (sGet s sb).toNat
  failIf (decide (off % 4 ≠ 0)) .misalign
  failIf (decide (off / 2 ^ 22 ≠ 0) || !inWindow s.c 0 off (4 * n)) .bufRange
  failIf (decide (n = 0 ∨ 256 < n)) .asgCol
  asgIssue sd kind off n 0

def execAsgPld (sd sa sb : Nat) : State → Host.Outcome State Fault Refusal :=
  run fun s => unitNext .sq false 0 (asgWord (asgPrices sd sa sb 1 s) s) s

def execAsgPst (sd sa sb : Nat) : State → Host.Outcome State Fault Refusal :=
  run fun s => unitNext .sq false 0 (asgWord (asgPrices sd sa sb 2 s) s) s

/-! ### Execution (R351 to R354, R359, R361) -/

/-- Score S[i][j] (R351): lane j mod 64 of row i of tile SCT + j / 64, a NaN read as −∞ with INV. -/
def asgScore (ck sct i j : Nat) (s : State) : BitVec 32 × Bool × Flags :=
  let (v, p) := winRead ck 1 (32768 * (sct + j / 64) + 256 * i + 4 * (j % 64)) 4 s
  if 0x7F800000 < v % 2 ^ 31 then (negInf, p, fINV) else (BitVec.ofNat 32 v, p, 0)

/-- R351, R352: the first command of the queue, a run, begins and copies its scores and capacities. -/
def execAsgRunStart (core slot : Nat) : State → Host.Outcome State Fault Refusal :=
  run (asgServe core slot fun s =>
    let ck := core * 4 + slot
    let c := s.ctx ck
    match c.r.asg.queue, c.r.asg.run with
    | q :: _, none =>
      if q.kind ≠ 0 then s
      else
        let r := q.rcd.toNat
        let rows := fieldOf r 0 2
        let cols := fieldOf r 2 2
        let tab := (List.range rows).map fun i => (List.range cols).map fun j => asgScore ck (fieldOf r 4 1 % 32) i j s
        let caps := (List.range cols).map fun j => winRead ck 0 (fieldOf r 8 4 + 2 * j) 2 s
        let run : AsgRun :=
          { scores := tab.map fun l => l.map (·.1), cap := caps.map (·.1), a := List.replicate rows none,
            hb := List.replicate rows none, p := c.r.asg.price.toList.take cols, rounds := 0,
            flags := tab.foldl (fun f l => l.foldl (fun f x => f ||| x.2.2) f) 0, status := none,
            bad := tab.any (fun l => l.any fun x => x.2.1) || caps.any (·.2) }
        modAsg ck (fun a => { a with run := some run }) s
    | _, _ => s)

def AsgRegs.env (a : AsgRegs) (q : AsgCmd) : AsgEnv := ⟨a.eps, a.reserve, a.bidcap, q.flush⟩

/-- R352: one round of the run that executes. -/
def execAsgRound (core slot : Nat) : State → Host.Outcome State Fault Refusal :=
  run (asgServe core slot fun s =>
    let ck := core * 4 + slot
    let c := s.ctx ck
    match c.r.asg.queue, c.r.asg.run with
    | q :: _, some r => modAsg ck (fun a => { a with run := some (asgStep (a.env q) a.limit.toNat r) }) s
    | _, _ => s)

/-- Writes a list of `w`-byte values from an AB offset; a 64-bit word that they fill loses its poison (R448). -/
def abList (ck w off : Nat) (l : List Nat) (s : State) : State :=
  s.bufBytes ((enum l).flatMap fun x => (cellsOf (winKey ck (s.ctx ck) 0 (off + w * x.1)) w x.2).reverse)

/-- R354: Finish; an uncorrectable error in an input ends the command with the error bit and no output (R361). -/
def execAsgFinish (core slot : Nat) : State → Host.Outcome State Fault Refusal :=
  run fun s =>
    let ck := core * 4 + slot
    let c := s.ctx ck
    match c.r.asg.queue, c.r.asg.run with
    | q :: rest, some r =>
      if ¬ c.active then s
      else if r.bad then
        let (_, s) := errorLog (core / 48) 0 9 (whoOf core slot) c.linst.toNat 0 s
        tlComplete ck 6 q.num true (modAsg ck (fun a => { a with queue := rest, run := none }) s)
      else match r.status with
        | none => s
        | some st =>
          let rc := q.rcd.toNat
          let s := abList ck 2 (fieldOf rc 12 4) (r.a.map fun x => x.getD 0xFFFF) s
          let s := if fieldOf rc 16 4 = 0xFFFFFFFF then s else abList ck 4 (fieldOf rc 16 4) (r.p.map (·.toNat)) s
          let s := abList ck 4 (fieldOf rc 20 4) [st, r.rounds] s
          let s := modAsg ck (fun a => { a with
            price := a.price.mapFinIdx fun j v _ => r.p[j]?.getD v
            rstat := BitVec.ofNat 32 st, rcount := BitVec.ofNat 32 r.rounds, queue := rest, run := none }) s
          tlComplete ck 6 q.num false (addFlags ck r.flags s)
    | _, _ => s

/-- R357: `asg.pld` or `asg.pst` completes. -/
def execAsgPriceCommandComplete (core slot : Nat) : State → Host.Outcome State Fault Refusal :=
  run (asgServe core slot fun s =>
    let ck := core * 4 + slot
    let c := s.ctx ck
    match c.r.asg.queue with
    | [] => s
    | q :: rest =>
      if q.kind = 0 then s
      else if q.kind = 1 then
        let l := (List.range q.n).map fun j => winRead ck 0 (q.off + 4 * j) 4 s
        if l.any (·.2) then
          let (_, s) := errorLog (core / 48) 0 9 (whoOf core slot) c.linst.toNat 0 s
          tlComplete ck 6 q.num true (modAsg ck (fun a => { a with queue := rest }) s)
        else if l.any fun x => f32Special (BitVec.ofNat 32 x.1) then
          tlComplete ck 6 q.num true (modAsg ck (fun a => { a with queue := rest }) s)
        else
          tlComplete ck 6 q.num false (modAsg ck (fun a => { a with
            price := a.price.mapFinIdx fun j v _ => match l[j]? with | some x => BitVec.ofNat 32 x.1 | none => v
            queue := rest }) s)
      else
        let s := abList ck 4 q.off ((c.r.asg.price.toList.take q.n).map (·.toNat)) s
        tlComplete ck 6 q.num false (modAsg ck (fun a => { a with queue := rest }) s))

end Sys2Proof.Machine
end

