-- ==== Sys2Proof/Machine/Xfer.lean ====
section
/-!
DEFINITION. What every transfer step of XL and XS shares: the record and its checks in the order of R241, boxes (R240, R241),
elements of a tensor (R38, R39, R383), decoding and conversion (R67, R244), the nearest-codeword search (R75, R76), the
command queues with the range checker (R235, R283, R284), and how a command runs, halts and completes (R242, R394).
-/
namespace Sys2Proof.Machine
open Sys2Proof

/-! ### Value formats (R240) -/

/-- A value format of R240. -/
inductive VFmt where
  | raw
  | flt (f : FFmt)
  | mx (w : Nat)
  deriving DecidableEq, Repr

def vfmtOf (n : Nat) : VFmt := match n with
  | 0 => .raw | 1 => .flt .f32 | 2 => .flt .f16 | 3 => .flt .bf16 | 4 => .flt .e4m3 | 5 => .flt .e5m2
  | 6 => .mx 8 | 7 => .mx 6 | _ => .mx 4

/-- The width of a buffer element. -/
def VFmt.width (v : VFmt) (d : Desc) : Nat := match v with
  | .raw => d.width | .flt f => f.width | .mx w => w

/-- Whether a buffer row ends in scale bytes (R241). -/
def VFmt.scaled (v : VFmt) (d : Desc) : Bool := match v with
  | .raw => isMx (bindCb d.bind) | .flt _ => false | .mx _ => true

/-- RL of a row of `n` elements (R212, R241). -/
def xRowBytes (v : VFmt) (d : Desc) (n : Nat) : Nat := (n * v.width d + 7) / 8 + if v.scaled d then n / 32 else 0

/-- The bytes from one buffer row to the next (R240). -/
def strideOf (rstr rl : Nat) : Nat := if rstr = 0 then (rl + 3) / 4 * 4 else rstr

/-! ### Records (R240) -/

/-- A transfer record: extents, VFMT, SB, RSTR, FOL (offset and queue), BARO, AUX and AUX2. -/
structure XRec where
  e : List Nat
  vfmt : Nat
  sb : Nat
  rstr : Nat
  fol : Nat
  folq : Nat
  baro : Nat
  aux : Nat
  aux2 : Nat
  deriving DecidableEq, Repr

def XRec.ext (r : XRec) (m : Nat) : Nat := r.e[m]?.getD 1
def XRec.rows (r : XRec) : Nat := r.ext 1 * r.ext 2 * r.ext 3 * r.ext 4
def XRec.flat (r : XRec) : Bool := decide (r.ext 2 = 1 ∧ r.ext 3 = 1 ∧ r.ext 4 = 1)

def xrec (v : Nat) : XRec :=
  { e := (List.range 5).map fun i => fieldOf v (2 * i) 2, vfmt := fieldOf v 10 1, sb := fieldOf v 11 1,
    rstr := fieldOf v 12 4, fol := fieldOf v 16 4 % 2 ^ 22, folq := fieldOf v 16 4 / 2 ^ 22 % 2,
    baro := fieldOf v 20 4 % 2 ^ 22, aux := fieldOf v 24 4, aux2 := fieldOf v 28 4 }

/-- R240: the fields that are read only with FO or BAR. -/
def folBad (v : Nat) (fo bar : Bool) : Bool :=
  (if fo then decide (fieldOf v 16 4 / 2 ^ 23 ≠ 0 ∨ fieldOf v 16 4 % 16 ≠ 0) else decide (fieldOf v 16 4 ≠ 0))
  || (if bar then decide (fieldOf v 20 4 / 2 ^ 22 ≠ 0 ∨ fieldOf v 20 4 % 16 ≠ 0) else decide (fieldOf v 20 4 ≠ 0))

/-- R241, the row of the record: reserved fields and codes, an extent 0, FOL or BARO misaligned. -/
def recBad (v : Nat) (fo bar : Bool) : Bool :=
  decide (8 < (xrec v).vfmt) || (xrec v).e.any (fun x => decide (x = 0)) || folBad v fo bar

/-- Whether the tensor's lattice format is the value format (R244). -/
def sameFmt (vfmt cb : Nat) : Bool := decide (vfmt = cb + 1 ∧ cb < 8)

/-! ### The units (R234, R390) -/

/-- The requester of a transfer unit. -/
def xReq (ck : Nat) (u : StreamId) (s : State) : Requester :=
  s.requester ck (if u = .xs then 2 else 1) (if u = .xs then 4 else 3)

/-! ### Issue (R235, R241) -/

/-- R235: a command waits for room in its queue before anything else. -/
def xEnter (u : StreamId) : Op Unit := do
  let s ← getS
  if 16 ≤ (s.c.r.xq u).length then waitFor .cmdRoom

/-- `n` bytes of the AB window that a unit consumes. -/
def xAbRead (ck : Nat) (u : StreamId) (off n : Nat) : Op Nat := do
  let s ← getS
  failIf (!inWindow (s.ctx ck) 0 off n) .bufRange
  let (v, p) := winRead ck 0 off n s
  if p then trapLogged ck .memUe 0 (if u = .xs then 4 else 3) 0 0
  pure v

/-- R238, R241: the step's record, `n` bytes at AB 32 × REC. -/
def xRecord (u : StreamId) (rec n : Nat) : Op Nat := do
  let s ← getS
  xAbRead s.ck u (32 * rec) n

/-- A tensor as a command samples it: descriptor, its bytes and its codebook's header, if that can be read; the failure is the last row
of R241. -/
structure XT where
  d : Desc
  raw : BitVec 512
  head : Option (BitVec 64)

/-- The header of a tensor's learned codebook (R304), with the failures of R71. -/
def bindHead (q : Requester) (b : Nat) : Op (BitVec 64) := do
  if bindCb b < 16 then pure 0
  else
    match ← cbLookup q.ck q.unit q.part (bindCb b) with
    | .ok y => pure (BitVec.ofNat 64 y.2)
    | .error c => trapWith c

/-- R241: a tensor's descriptor, with its own checks. -/
def xDesc (u : StreamId) (h acc : Nat) : Op XT := do
  let s ← getS
  let q := xReq s.ck u s
  let d ← lookupDesc q (hGet s h).toNat acc
  let raw ← readDesc q ((hGet s h).toNat % 65536) acc
  pure ⟨d, BitVec.ofNat 512 raw, some 0⟩

/-- R241: the row that a descriptor's rank decides, for a box of extents `e` at the registers from c[CC] on. -/
def xRank (cc : Nat) (e : List Nat) (x : XT) : Op Unit :=
  failIf ((e.drop x.d.rank).any (fun x => decide (1 < x)) || decide (15 < cc + x.d.rank - 1)) .xfRec

/-- A tensor with the header of its learned codebook; where it cannot be read, the rows of R241 before the last are checked without. -/
def xHead (u : StreamId) (x : XT) : Op XT := do
  let s ← getS
  let h ← attempt (bindHead (xReq s.ck u s) x.d.bind)
  pure { x with head := h }

/-- R241: the tensor of a step that names one. `learned` says whether the step reads the header. -/
def xTensor (u : StreamId) (h cc : Nat) (e : List Nat) (acc : Nat) (learned : Bool) : Op XT := do
  let x ← xDesc u h acc
  xRank cc e x
  if learned then xHead u x else pure x

/-- d of a value row: the codeword length of a learned codebook (R241). -/
def XT.dlen (x : XT) : Nat := match x.head with
  | some h => if bindCb x.d.bind < 16 then 1 else (cbHead h.toNat).dlen
  | none => 1

def XT.cbHead (x : XT) : CbHead := Machine.cbHead (x.head.getD 0).toNat

/-- The coordinates c[CC] to c[CC + 4] (0 past c15). -/
def xCoords (s : State) (cc : Nat) : List Nat := (List.range 5).map fun m => (cGet s (cc + m)).toNat

/-- R241: the box lies in the tensor, but for dimensions that a list indexes. -/
def xBound (d : Desc) (base e : List Nat) (free : List Nat) : Op Unit :=
  failIf ((List.range d.rank).any fun m =>
    !free.contains m && decide (d.dim m < base[m]?.getD 0 + e[m]?.getD 1)) .xfBound

/-- R241: alignment, then every buffer range, FOL entry, barrier and list in its window. -/
def xBuffer (v : VFmt) (r : XRec) (space : Option (Nat × Nat)) (rl : Nat) (fo bar : Bool) (lists : List (Nat × Nat)) :
    Op Unit := do
  let s ← getS
  let str := strideOf r.rstr rl
  let rows := r.rows
  failIf ((match space with | some (_, b) => decide (b % 4 ≠ 0) | none => false) || decide (str % 4 ≠ 0)
    || (match v with | .mx _ => decide (r.ext 0 % 32 ≠ 0) | _ => false)) .misalign
  failIf ((match space with | some (sp, b) => !inWindow s.c sp b ((rows - 1) * str + rl) | none => false)
    || (fo && !inWindow s.c 0 r.fol 16) || (bar && !inWindow s.c 0 r.baro 16)
    || lists.any fun l => !inWindow s.c 0 l.1 l.2) .bufRange

/-- The last row of R241: the binding's own row, the header's failure, then the sampling of every binding (R70, R73). -/
def xSample (u : StreamId) (l : List XT) : Op (List Pin) := do
  let s ← getS
  sampleAll (xReq s.ck u s) (l.map (·.d.bind))

/-- A command as its word issues it, before it has a number. -/
def xCmd (s : State) (u : StreamId) (op : CmdOp) (cc : Nat) (l : List XT) (rcd : Nat) : Cmd :=
  let st := s.c.stream u
  let hs := l.map (·.d.index)
  { num := 0, op := op, pc := st.at, cls := st.accCls, rmode := st.rmode, flush := st.flush, nbl := st.nbl,
    inve := s.c.r.invTrap u, h := hs[0]?.getD 0, h1 := hs[1]?.getD 0, h2 := hs[2]?.getD 0, coord := xCoords s cc,
    space := 0, buf := 0, opt := 0, fo := false, bar := false, rcd := BitVec.ofNat 512 rcd, descs := l.map (·.raw),
    heads := l.map fun x => x.head.getD 0 }

/-! ### What a command works on -/

def Cmd.mode (q : Cmd) : NumMode := ⟨q.rmode, q.flush, q.nbl⟩
def Cmd.xr (q : Cmd) : XRec := xrec q.rcd.toNat

/-- Tensor `i` of a command: H, H + 1 or H + 2. -/
def Cmd.desc (q : Cmd) (i : Nat) : Desc :=
  descOf (if i = 0 then q.h else if i = 1 then q.h1 else q.h2) ((q.descs[i]?.getD 0).toNat)

def Cmd.head (q : Cmd) (i : Nat) : CbHead := cbHead ((q.heads[i]?.getD 0).toNat)

/-- A binding under the version sampled (R73). -/
structure Bnd where
  cb : Nat
  ixw : Nat
  head : CbHead
  pin : Pin
  deriving DecidableEq, Repr

/-- No pin. -/
def noPin : Pin := { cbid := 0, version := 0, cwptr := 0, lattice := true }

/-- The binding of tensor `i` under pin `p`. -/
def Cmd.bnd (q : Cmd) (i p : Nat) : Bnd :=
  ⟨bindCb (q.desc i).bind, bindIxw (q.desc i).bind, q.head i, q.pins[p]?.getD noPin⟩

/-- Codeword length. -/
def Bnd.dlen (b : Bnd) : Nat := if b.cb < 16 then 1 else b.head.dlen

/-- Values per index of a command's rows (R241). -/
def Cmd.dl (q : Cmd) : Nat := if q.xr.vfmt = 0 ∨ bindCb (q.desc 0).bind < 16 then 1 else (q.head 0).dlen

/-- RL of a command's buffer rows. -/
def Cmd.rl (q : Cmd) : Nat := xRowBytes (vfmtOf q.xr.vfmt) (q.desc 0) (q.xr.ext 0 * q.dl)

/-- The buffer offset of row ρ. -/
def Cmd.rowOff (q : Cmd) (rho : Nat) : Nat := q.buf + rho * strideOf q.xr.rstr q.rl

/-- R64: the block of dimension-0 coordinate `k`. BLK counts indices, also where d > 1. (log 33: DESIGN CHOICE) -/
def CbHead.block (h : CbHead) (k : Nat) : Nat := if h.family then k / h.blk else 0

/-- R241: the coordinates of the first element of row ρ of a box of `e` at `base`, for a tensor of some rank. -/
def rowCoord (rank : Nat) (base e : List Nat) (rho : Nat) : List Nat :=
  let x (m : Nat) : Nat := e[m]?.getD 1
  let b : List Nat := [0, rho % x 1, rho / x 1 % x 2, rho / (x 1 * x 2) % x 3, rho / (x 1 * x 2 * x 3)]
  (enum b).map fun p => if p.1 < rank then base[p.1]?.getD 0 + p.2 else 0

/-! ### Elements of a tensor (R38, R39, R383) -/

/-- The runs (tile, bit, count) of the elements k0 + i … k0 + i + n − 1 of a row. -/
def runsOf (d : Desc) (k : List Nat) : Nat → Nat → Nat → List (Nat × Nat × Nat)
  | 0, _, _ => []
  | fuel + 1, i, n =>
    if n = 0 then []
    else
      let at0 := k[0]?.getD 0 + i
      let kk := at0 :: k.drop 1
      let p := d.place kk
      let room := if d.tiled then 2 ^ d.shift 0 - at0 % 2 ^ d.shift 0 else d.perTile - d.number kk % d.perTile
      let c := min n (max room 1)
      (p.1, p.2, c) :: runsOf d k fuel (i + c) (n - c)

def rowRuns (d : Desc) (k : List Nat) (n : Nat) : List (Nat × Nat × Nat) := runsOf d k (n + 1) 0 n

/-- R383: the in-order number of the element at a bit of a tile. -/
def Desc.numAt (d : Desc) (t b : Nat) : Nat :=
  (if d.tiled then t * 2 ^ d.tshSum else t * d.perTile) + b / max d.width 1

/-- The MX blocks of a run: the first and how many. -/
def runBlocks (d : Desc) (t b cnt : Nat) : Nat × Nat :=
  (d.numAt t b / 32, (d.numAt t b + cnt - 1) / 32 + 1 - d.numAt t b / 32)

/-- The place of the scale byte of block β (R383). -/
def scaleLoc (d : Desc) (blk : Nat) : Loc := .mem d (d.scalet * 65536 + blk)

/-- Runs of in-order numbers (first, count), those joined that follow on. -/
def joinRuns : List (Nat × Nat) → List (Nat × Nat)
  | [] => []
  | (a, c) :: r => match joinRuns r with
    | [] => [(a, c)]
    | (b, n) :: l => if a + c = b then (a, c + n) :: l else (a, c) :: (b, n) :: l

/-- R76, R247: whether each run of 32 elements from a row's start is one whole MX block, tile ends apart. -/
def wholeBlocks (d : Desc) (k : List Nat) (n : Nat) : Bool :=
  decide (n % 32 = 0) && (joinRuns ((rowRuns d k n).map fun r => (d.numAt r.1 r.2.1, r.2.2))).all fun r =>
    decide (r.1 % 32 = 0 ∧ r.2 % 32 = 0)

/-- An element: its stored bits, with its block's scale at bits [15:8] for MX; whether they, and whether the scale, lie in a poisoned
word. -/
abbrev Elem := Nat × Bool × Bool

/-- Whether the bytes `o … o + n - 1` (in bits) of a poison mask are marked. -/
def bitsPoisoned (m o n : Nat) : Bool := decide (m / 2 ^ (o / 8) % 2 ^ ((o + n + 7) / 8 - o / 8) ≠ 0)

/-- The elements of one run. -/
def readRun (q : Requester) (cls : Nat) (eat : Bool) (d : Desc) (t b cnt : Nat) : Op (List Elem) := do
  let n := (b % 8 + cnt * d.width + 7) / 8
  let (v, m) ← spanRead q cls 1 eat (n / 128 + 2) (.mem d (t * 65536 + b / 8)) n
  if isMx (bindCb d.bind) then
    let (b0, nb) := runBlocks d t b cnt
    let (sv, sm) ← spanRead q cls 1 eat (nb / 128 + 2) (scaleLoc d b0) nb
    pure ((List.range cnt).map fun i =>
      let o := b % 8 + i * d.width
      let j := (d.numAt t b + i) / 32 - b0
      (v / 2 ^ o % 2 ^ d.width + sv / 2 ^ (8 * j) % 256 * 256, bitsPoisoned m o d.width, sm.testBit j))
  else
    pure ((List.range cnt).map fun i =>
      let o := b % 8 + i * d.width
      (v / 2 ^ o % 2 ^ d.width, decide (m ≠ 0) && bitsPoisoned m o d.width, false))

/-- `n` elements of a row from coordinates k on. -/
def readElems (q : Requester) (cls : Nat) (eat : Bool) (d : Desc) (k : List Nat) (n : Nat) : Op (List Elem) := do
  let l ← opMap (fun r : Nat × Nat × Nat => readRun q cls eat d r.1 r.2.1 r.2.2) (rowRuns d k n)
  pure l.flatten

/-- R383: the number within tile `t` of a TILED tensor's last element there, from its dimensions and tile shapes. -/
def lastTiled : List (Nat × Nat) → Nat → Nat
  | [], _ => 0
  | (n, w) :: r, t =>
    let g := (n + w - 1) / w
    min w (n - w * (t % g)) - 1 + w * lastTiled r (t / g)

/-- The bit of tile `t` that follows its last element. -/
def Desc.lastBit (d : Desc) (t : Nat) : Nat :=
  let last :=
    if d.tiled then lastTiled ((List.range 5).map fun m => (d.dim m, 2 ^ d.shift m)) t
    else min d.perTile (d.dims.foldl (· * ·) 1 - t * d.perTile) - 1
  (last + 1) * d.width

/-- Whether a tensor's elements are packed by R38: indices, and the element fields of MXINT (R36). -/
def Desc.packed (d : Desc) : Bool := decide (16 ≤ bindCb d.bind) || isMx (bindCb d.bind)

/-- R38, R383: where a write that ends at bit `e` of tile `t` ends: at the end of the tile's last word where it reaches that word, since
the bits after the last element are written as 0. -/
def Desc.writeEnd (d : Desc) (t e : Nat) : Nat :=
  if d.packed ∧ (e + 31) / 32 = (d.lastBit t + 31) / 32 then (e + 31) / 32 * 32 else e

/-- R38, R39, R77: writes one run; the bits of other elements in its first byte and after it stay, those after a tile's last element
become 0. -/
def writeRun (q : Requester) (cls : Nat) (d : Desc) (t b : Nat) (l : List Elem) : Op Unit := do
  let w := d.width
  let h := b % 8
  let e := b + l.length * w
  let z := d.writeEnd t e
  let stay := (if z = e then (e + 7) / 8 * 8 else d.lastBit t) - e
  let n := (z + 7) / 8 - b / 8
  let o := e / 8 - b / 8
  let at0 := t * 65536 + b / 8
  let (v0, m0) ← if h = 0 then pure (0, 0) else lineRead q cls 2 false (.mem d at0) 1
  let (v1, m1) ← if stay = 0 then pure (0, 0) else lineRead q cls 2 false (.mem d (at0 + o)) ((e + stay + 7) / 8 - e / 8)
  let v := v0 % 2 ^ h + joinBits w (l.map (·.1)) * 2 ^ h + v1 / 2 ^ (e % 8) % 2 ^ stay * 2 ^ (8 * o + e % 8)
  let mask := (enum l).foldl (fun m x => if x.2.2.1 then m ||| unitMask (h + x.1 * w) w 8 else m) (m0 ||| m1 * 2 ^ o)
  spanWrite q cls (n / 128 + 2) (.mem d at0) n v mask
  if isMx (bindCb d.bind) then
    let (b0, nb) := runBlocks d t b l.length
    opEach (fun j =>
      match ((enum l).filter fun x => (d.numAt t b + x.1) / 32 - b0 = j).getLast? with
      | some x => spanWrite q cls 2 (scaleLoc d (b0 + j)) 1 (x.2.1 / 256) (if x.2.2.2 then 1 else 0)
      | none => pure ()) (List.range nb)

/-- Cuts a list into the counts of runs. -/
def cutRuns : List (Nat × Nat × Nat) → List Elem → List (Nat × Nat × List Elem)
  | [], _ => []
  | (t, b, c) :: r, l => (t, b, l.take c) :: cutRuns r (l.drop c)

/-- Whether every line of a row translates for an access: nothing is written before it (R394). -/
def probeElems (q : Requester) (d : Desc) (k : List Nat) (n acc : Nat) : Op Unit :=
  opEach (fun r : Nat × Nat × Nat => do
    let m := (r.2.1 % 8 + r.2.2 * d.width + 7) / 8
    tileProbe q d r.1 acc (m / 128 + 2) (r.2.1 / 8) m
    if isMx (bindCb d.bind) then
      let (b0, nb) := runBlocks d r.1 r.2.1 r.2.2
      opEach (fun j => do
        let x := d.scalet * 65536 + b0 + j
        tileProbe q d (x / 65536) acc 2 (x % 65536) 1) (List.range nb)) (rowRuns d k n)

/-- Writes the elements of a row, once every line of it translates. -/
def writeElems (q : Requester) (cls : Nat) (d : Desc) (k : List Nat) (l : List Elem) : Op Unit := do
  probeElems q d k l.length 2
  opEach (fun r : Nat × Nat × List Elem => writeRun q cls d r.1 r.2.1 r.2.2) (cutRuns (rowRuns d k l.length) l)

/-! ### Codewords and decoding (R63, R67, R244) -/

/-- `n` bytes from byte `o` of a sampled version's array, through the unit (R63). What its publisher wrote is visible (R69): a copy that
the die L2 holds from before goes first. -/
def cwRead (q : Requester) (cls : Nat) (p : Pin) (o n : Nat) : Op Nat := do
  let ea := (p.cwptr + o) % 2 ^ 64
  atFaddr ea do
    let d ← flatDesc q ea n 1
    spanRefresh q d (n / 128 + 2) (ea % 2 ^ 44) n
    let (v, _) ← spanRead q cls 1 true (n / 128 + 2) (.mem d (ea % 2 ^ 44)) n
    pure v

/-- The bytes of a codeword. -/
def CbHead.cwBytes (h : CbHead) : Nat := h.dlen * (h.fmt.width / 8)

/-- The elements of a codeword's bits, with the input flush of their class (R67). -/
def CbHead.elems (h : CbHead) (fl : BitVec 6) (v : Nat) : List FVal :=
  (splitBits h.fmt.width h.dlen v).map fun b => h.fmt.read fl b

/-- The value of a lattice element (R40), `v` with its scale for MX. -/
def latticeValue (fl : BitVec 6) (cb v : Nat) : FVal :=
  match cb with
  | 0 => FFmt.f32.read fl v
  | 1 => FFmt.f16.read fl v
  | 2 => FFmt.bf16.read fl v
  | 3 => FFmt.e4m3.read fl v
  | 4 => FFmt.e5m2.read fl v
  | 5 => mxDecode fl 8 (v / 256) v
  | 6 => mxDecode fl 6 (v / 256) v
  | 7 => mxDecode fl 4 (v / 256) v
  | _ => .ofInt (readInt (latticeWidth cb) (decide (cb < 12)) v)

/-- R67: an index at or above the count is the special one, with INV. -/
def CbHead.index (h : CbHead) (i : Nat) : Nat × Flags := if i < h.count then (i, 0) else (h.special, fINV)

/-- R67, R244: the values of the elements of a row whose dimension-0 coordinates start at `k0`. -/
def decodeRow (q : Requester) (cls : Nat) (fl : BitVec 6) (b : Bnd) (k0 : Nat) (l : List Nat) : Op (List FVal × Flags) := do
  if b.cb < 16 then pure (l.map (latticeValue fl b.cb), 0)
  else
    let r ← opMap (fun x : Nat × Nat => do
      let (i, f) := b.head.index x.2
      let v ← cwRead q cls b.pin (b.head.stride * b.head.block (k0 + x.1) + i * b.head.cwBytes) b.head.cwBytes
      pure (b.head.elems fl v, f)) (enum l)
    pure ((r.map (·.1)).flatten, r.foldl (fun f x => f ||| x.2) 0)

/-- Consecutive lists of `n`. -/
def chunksOf {α : Type} (n : Nat) : Nat → List α → List (List α)
  | 0, _ => []
  | fuel + 1, l => if l = [] ∨ n = 0 then [] else l.take n :: chunksOf n fuel (l.drop n)

/-- The bytes of a row of values in a value format that is not raw, with flags (R38, R44, R46). -/
def encodeRow (n : NumMode) (v : VFmt) (l : List FVal) : Nat × Flags :=
  match v with
  | .raw => (0, 0)
  | .flt f =>
    let r := l.map (f.encode n)
    (joinBits f.width (r.map (·.1)), r.foldl (fun g x => g ||| x.2) 0)
  | .mx w =>
    let r := (chunksOf 32 (l.length + 1) l).map (encodeMX n w)
    (joinBits w (r.map fun x => x.2.1).flatten + joinBits 8 (r.map (·.1)) * 2 ^ ((l.length * w + 7) / 8 * 8),
      r.foldl (fun g x => g ||| x.2.2) 0)

/-- The bytes of a row of stored elements, with the mask of poisoned bytes (R241 raw; the scale of a group of 32 is that of its
first element, log 16: DEDUCED). -/
def rawRow (d : Desc) (l : List Elem) : Nat × Nat :=
  let w := d.width
  let sc := if isMx (bindCb d.bind) then (List.range (l.length / 32)).map fun j => l[32 * j]?.getD (0, false, false) else []
  let n := (l.length * w + 7) / 8
  let m := (enum l).foldl (fun m x => if x.2.2.1 then m ||| unitMask (x.1 * w) w 8 else m) 0
  (joinBits w (l.map (·.1)) + joinBits 8 (sc.map (·.1 / 256)) * 2 ^ (8 * n),
    (enum sc).foldl (fun m x => if x.2.2.2 then m ||| 2 ^ (n + x.1) else m) m)

/-- The stored elements of a raw buffer row of `n` elements, from its bytes and its poison mask. -/
def rawElems (d : Desc) (n v m : Nat) : List Elem :=
  let w := d.width
  let eb := (n * w + 7) / 8
  (List.range n).map fun i =>
    (v / 2 ^ (i * w) % 2 ^ w + (if isMx (bindCb d.bind) then v / 2 ^ (8 * (eb + i / 32)) % 256 * 256 else 0),
      decide (m ≠ 0) && bitsPoisoned m (i * w) w, isMx (bindCb d.bind) && m.testBit (eb + i / 32))

/-- R254: the values of a buffer row of `n` elements of a value format, decoded exactly under the class's input flush. -/
def rowValues (fl : BitVec 6) (v : VFmt) (n b : Nat) : List FVal :=
  match v with
  | .raw => []
  | .flt f => (splitBits f.width n b).map (f.read fl)
  | .mx w => (enum (splitBits w n b)).map fun x => mxDecode fl w (b / 2 ^ (8 * ((n * w + 7) / 8 + x.1 / 32)) % 256) x.2

/-! ### The nearest-codeword search (R75, R76) -/

/-- RNE to f32 with no flush and no flag (R75). -/
def rneF32 (v : FVal) : FVal := FFmt.f32.decode (FFmt.f32.encode ⟨0, 0, 0⟩ v).1

/-- The input flush of the f32 class (R48). -/
def in32 (fl : BitVec 6) (v : FVal) : FVal := match v with
  | .fin s m e => if fl.getLsbD 0 ∧ m ≠ 0 ∧ fExp m e < -126 then .zero s else .fin s m e
  | x => x

/-- R75: dist[k] of a segment and a codeword. -/
def segDist : FVal → List FVal → List FVal → FVal
  | acc, x :: xs, c :: cs =>
    let t := rneF32 (fAdd 0 x c.neg).1
    let p := rneF32 (fMul t t).1
    segDist (rneF32 (fAdd 0 acc p).1) xs cs
  | acc, _, _ => acc

def FVal.isFin : FVal → Bool
  | .fin _ _ _ => true | _ => false

/-- The lowest index with the least distance. -/
def leastDist : List (Nat × FVal) → Option (Nat × FVal)
  | [] => none
  | x :: r => match leastDist r with
    | none => some x
    | some y => if fCmp y.2 x.2 = .lt then some y else some x

/-- R75: the search of one segment among the codewords of a block, `tab` the first codewords in order. A signalling NaN in the segment sets
SRCH alone, as R75 has it of every value that is not finite, and not INV (log 33: DESIGN CHOICE). -/
def searchSeg (fl : BitVec 6) (special : Nat) (tab : List (List FVal)) (x : List FVal) : Nat × Flags :=
  if x.any fun v => !v.isFin then (special, fSRCH)
  else
    let y := x.map (in32 fl)
    let cand := (enum tab).filter fun c => c.1 ≠ special
    match leastDist ((cand.map fun c => (c.1, segDist (.zero false) y c.2)).filter fun p => p.2.isFin) with
    | some p => (p.1, 0)
    | none => ((cand.map (·.1)).head?.getD 0, fOF)

/-- R44, R45, R76: the lattice encoding of one value of a format with d = 1. -/
def latticeEncode (n : NumMode) (cb : Nat) (v : FVal) : Nat × Flags :=
  match cb with
  | 0 => FFmt.f32.encode n v
  | 1 => FFmt.f16.encode n v
  | 2 => FFmt.bf16.encode n v
  | 3 => FFmt.e4m3.encode n v
  | 4 => FFmt.e5m2.encode n v
  | _ => toIntFmt (latticeWidth cb) (decide (cb < 12)) n v

/-- The codewords that a search of block `b` compares (R75: k < count, k < 2^IXW). -/
def searchTable (q : Requester) (cls : Nat) (fl : BitVec 6) (b : Bnd) (blk : Nat) : Op (List (List FVal)) := do
  let lim := min b.head.count (2 ^ b.ixw)
  let v ← cwRead q cls b.pin (b.head.stride * blk) (lim * b.head.cwBytes)
  pure ((splitBits (8 * b.head.cwBytes) lim v).map (b.head.elems fl))

/-- R75, R76: the indices of a row of values for a tensor whose dimension-0 coordinates start at `k0`. The values are f32 (R254): the
input flush of that class applies to them (R44). -/
def searchRow (q : Requester) (cls : Nat) (n : NumMode) (b : Bnd) (k0 : Nat) (l : List FVal) : Op (List Nat × Flags) := do
  if isMx b.cb then
    let r := (chunksOf 32 (l.length + 1) (l.map (in32 n.flush))).map (encodeMX n (latticeWidth b.cb))
    pure ((r.map fun x => x.2.1.map fun e => e + x.1 * 256).flatten, r.foldl (fun g x => g ||| x.2.2) 0)
  else if b.cb < 16 then
    let r := l.map fun v => latticeEncode n b.cb (in32 n.flush v)
    pure (r.map (·.1), r.foldl (fun g x => g ||| x.2) 0)
  else
    let segs := enum (chunksOf b.head.dlen (l.length + 1) l)
    let tabs ← opMap (fun k => do
      let t ← searchTable q cls n.flush b k
      pure (k, t)) (segs.map fun x => b.head.block (k0 + x.1)).dedup
    let r := segs.map fun x => searchSeg n.flush b.head.special (getAt [] (b.head.block (k0 + x.1)) tabs) x.2
    pure (r.map (·.1), r.foldl (fun g x => g ||| x.2) 0)

/-! ### Buffer rows, barriers and follow-ons -/

/-- The bytes that a row of RL = `n` bytes writes: packed elements are written in whole words, the bits after the last one 0
(R38, R298; log 16: DEDUCED); the scale bytes of an MX row end it. -/
def Cmd.padded (q : Cmd) (n : Nat) : Nat :=
  if (vfmtOf q.xr.vfmt).scaled (q.desc 0) then n else (n + 3) / 4 * 4

/-- R243, R147: writes a buffer row and counts its RL = `n` bytes in the barrier object, once. -/
def putRow (ck : Nat) (q : Requester) (x : Cmd) (space off n v mask : Nat) : Op Unit := do
  let s ← getS
  let m := x.padded n
  spanWrite q x.cls (m / 128 + 2) (.buf (winKey ck (s.ctx ck) space off)) m v mask
  if x.bar then upd (barArrive ck x.xr.baro n)

/-- A buffer row of `n` bytes: value and poison mask; a consumer stops on poison. -/
def getRow (ck : Nat) (q : Requester) (x : Cmd) (eat : Bool) (space off n : Nat) : Op (Nat × Nat) := do
  let s ← getS
  spanRead q x.cls 1 eat (n / 128 + 2) (.buf (winKey ck (s.ctx ck) space off)) n

/-- Pushes a tile-queue entry, or waits for room (R26). -/
def pushTq (ck q : Nat) (e : BitVec 160) : Op Unit := do
  let s ← getS
  if 16 ≤ (vget [] (s.ctx ck).r.tq q).length then waitFor (.tqRoom q)
  upd fun s => s.modRegs ck fun r => { r with tq := vset r.tq q (vget [] r.tq q ++ [e]) }

/-- R223, R243: the follow-on entry, once every byte has landed. -/
def followOn (ck : Nat) (u : StreamId) (x : Cmd) : Op Unit := do
  if x.fo then
    let e ← xAbRead ck u x.xr.fol 16
    pushTq ck x.xr.folq (BitVec.ofNat 160 e)

/-! ### Running a command (R242, R393, R394) -/

/-- A command of a queue. -/
def findCmd (ck : Nat) (u : StreamId) (num : Nat) (s : State) : Option Cmd := ((s.ctx ck).r.xq u).find? fun q => q.num = num

/-- Rows from the command's progress point on: each performs whole, then is counted with its flags. Out of fuel, the command
pauses at its row. -/
def rowLoop (ck : Nat) (u : StreamId) (num rows : Nat) (row : Cmd → Nat → Op Flags) : Nat → Op Unit
  | 0 => waitFor .row
  | fuel + 1 => do
    let s ← getS
    match findCmd ck u num s with
    | none => pure ()
    | some q =>
      if rows ≤ q.prog then pure ()
      else
        let f ← row q q.prog
        upd (modCmd ck u num fun q => { q with prog := q.prog + 1, flags := q.flags ||| f, pushed := 0, step := 0, entry := none })
        rowLoop ck u num rows row fuel

/-- The rows of a command; the schedule may have it pause after some of them (R80; log 32: DESIGN CHOICE). -/
def rowsOf (ck : Nat) (u : StreamId) (num rows : Nat) (row : Cmd → Nat → Op Flags) : Op Unit := do
  let s ← getS
  rowLoop ck u num rows row (match s.rows with | some k => min k (rows + 1) | none => rows + 1)

/-- Marks the error completion of a command (R242). -/
def cmdErr (ck : Nat) (u : StreamId) (num : Nat) : Op Unit := upd (modCmd ck u num fun q => { q with err := true })

/-- R235, R59, R25, R73, R60: a command completes: flags, pins, its counter, then ARITH_INV when it is enabled. -/
def cmdComplete (ck : Nat) (u : StreamId) (num : Nat) (s : State) : State :=
  match findCmd ck u num s with
  | none => s
  | some q =>
    let s := addFlags ck q.flags s
    let s := releasePins (s.ctx ck).bind.part q.pins s
    let s := modXq ck u (fun l => l.filter fun x => x.num ≠ num) s
    let s := tlComplete ck (if u = .xs then 1 else 0) num q.err s
    if q.inve ∧ (q.flags &&& fINV) ≠ 0 then takeTrap ck u .arithInv 0 0 q.pc 0 true s else s

/-- What a command's body left: it completes, halts on a translation fault, waits, or stops its context. A halted expansion requests its
index data again (R403), so that its wait for a slot counts from then (R304); a route keeps the entry it has read (R339). -/
def cmdEnd (ck : Nat) (u : StreamId) (num : Nat) (r : Except Stop Unit × State) : State :=
  match r with
  | (.ok _, t) => cmdComplete ck u num t
  | (.error (.halt h), t) =>
    modCmd ck u num (fun q => { q with halted := some h, wait := none, since := if q.op = .expand then 0 else q.since }) t
  | (.error (.wait w), t) => modCmd ck u num (fun q => { q with wait := some w }) t
  | (.error (.trap c code fa au el), t) => takeTrap ck u c code fa au el true t

/-! ### The range checker (R283, R284) -/

/-- The codeword count of a learned binding's platens for `xl.platen.cw`. -/
def cwPlatens (h : CbHead) : Nat := (h.count + 63) / 64

/-- The gradient record of `xs.upd` as a transfer record: box and stride (R257). -/
def updRec (v : Nat) : XRec :=
  { e := (List.range 5).map fun i => fieldOf v (32 + 2 * i) 2, vfmt := 1, sb := 0, rstr := fieldOf v 44 4,
    fol := 0, folq := 0, baro := 0, aux := fieldOf v 48 4, aux2 := 0 }

/-- R284: the buffer and slot ranges of a command: space (0 AB, 1 CB, 2 platens, 4 case slots), first, last, written. -/
def Cmd.ranges (q : Cmd) : List (Nat × Nat × Nat × Bool) :=
  let r := q.xr
  let e0 := r.ext 0
  let span (rr : XRec) (rl : Nat) (wr : Bool) : Nat × Nat × Nat × Bool :=
    (q.space, q.buf, q.buf + (rr.rows - 1) * strideOf rr.rstr rl + rl - 1, wr)
  let rl := q.rl
  let fol : List (Nat × Nat × Nat × Bool) := if q.fo then [(0, r.fol, r.fol + 15, false)] else []
  match q.op with
  | .ld => span r rl true :: fol
  | .gather => span r rl true :: (0, r.aux, r.aux + 4 * r.ext 1 - 1, false) :: fol
  | .gather8 => [(q.space, q.buf, q.buf + 8 * e0 - 1, true), (0, r.aux, r.aux + 4 * e0 - 1, false)]
  | .feed => fol
  | .dense => [(2, q.buf, q.buf, true)]
  | .cw => [(2, q.buf, q.buf + cwPlatens (q.head 0) - 1, true)]
  | .image => [(0, r.aux, r.aux + 13055, false), (2, q.buf, q.buf, true)]
  | .case => if q.opt = 1 then [(4, 0, 15, true)] else [(4, q.buf, q.buf, true)]
  | .expand => span r rl true :: (if q.opt = 1 then (4, 0, 15, false) else (4, r.sb, r.sb, false)) :: fol
  | .route => [(0, r.aux, r.aux + 16 * r.ext 1 - 1, false), (0, r.aux2, r.aux2 + 255, true)]
  | .acflush => [(0, q.buf, q.buf + 255, true)]
  | .st => [span r rl false]
  | .stash => [span r rl false]
  | .topk =>
    span r (4 * e0) false :: (0, r.aux2, r.aux2 + 8 * r.sb * r.ext 1 - 1, true)
      :: (if r.aux = 0xFFFFFFFF then [] else
          [(0, r.aux, r.aux + (r.ext 1 - 1) * strideOf r.rstr (4 * e0) + 4 * e0 - 1, true)])
  | .upd =>
    let g := updRec q.rcd.toNat
    let h := q.head 0
    let blocks := if h.family then (q.coord[0]?.getD 0 + (g.ext 0 + h.dlen - 1) / h.dlen - 1) / h.blk + 1 else 1
    span g (4 * g.ext 0) false
      :: (if q.opt = 1 then [(0, g.aux, g.aux + blocks * h.count * h.dlen * 4 - 1, true)] else [])
  | .scatter => [span r rl false, (0, r.aux, r.aux + 4 * r.ext 1 - 1, false)]
  | .reidx => []
  | .rinv => []

/-- The box of a tensor from `lo` to `hi`, with the coordinates past its rank left out (R284). -/
def memBox (d : Desc) (lo hi : List Nat) (wr : Bool) : Nat × List Nat × List Nat × Bool :=
  (d.index, lo.take d.rank, hi.take d.rank, wr)

/-- R284: the memory boxes of a command: descriptor, first and last coordinate by dimension, written. -/
def Cmd.boxes (q : Cmd) : List (Nat × List Nat × List Nat × Bool) :=
  let r := q.xr
  let lo := q.coord
  let hi (e : List Nat) : List Nat := (enum lo).map fun x => x.2 + e[x.1]?.getD 1 - 1
  let whole (m : Nat) (wr : Bool) (d : Desc) : Nat × List Nat × List Nat × Bool :=
    memBox d (lo.set m 0) ((hi r.e).set m (2 ^ 48)) wr
  match q.op with
  | .image | .acflush | .topk | .case => []
  | .gather | .route => [whole 1 false (q.desc 0)]
  | .gather8 => [memBox (q.desc 0) (lo.map fun _ => 0) (lo.map fun _ => 2 ^ 48) false]
  | .scatter => [whole 1 true (q.desc 0)]
  | .st => [memBox (q.desc 0) lo (hi r.e) true]
  | .stash =>
    let c0 := lo[0]?.getD 0
    let c1 := lo[1]?.getD 0
    [memBox (q.desc 0) lo (hi r.e) true,
      memBox (q.desc 1) [c1, c0, 0, 0, 0] [c1 + r.ext 1 - 1, c0 + r.ext 0 - 1, 0, 0, 0] true]
  | .upd =>
    let e := (updRec q.rcd.toNat).e
    (List.range 3).map fun i =>
      let d := max (if bindCb (q.desc i).bind < 16 then 1 else (q.head i).dlen) 1
      let d0 := max (if bindCb (q.desc 0).bind < 16 then 1 else (q.head 0).dlen) 1
      let a := lo[0]?.getD 0 * d0 / d
      memBox (q.desc i) (lo.set 0 a) ((hi e).set 0 (a + (e[0]?.getD 1) / d - 1)) true
  | .reidx => [whole 0 false (q.desc 0), whole 0 true (q.desc 1)]
  | _ => [memBox (q.desc 0) lo (hi r.e) false]

/-- Whether two boxes of one descriptor meet, one of them written. -/
def boxConflict (a b : List (Nat × List Nat × List Nat × Bool)) : Bool :=
  a.any fun x => b.any fun y =>
    decide (x.1 = y.1) && (x.2.2.2 || y.2.2.2)
      && (List.range 5).all fun m => decide (x.2.1[m]?.getD 0 ≤ y.2.2.1[m]?.getD 0 ∧ y.2.1[m]?.getD 0 ≤ x.2.2.1[m]?.getD 0)

/-- R283: whether an earlier incomplete command of the queue conflicts with a command; a flush waits for every earlier route
(R252). -/
def blockedByEarlier (l : List Cmd) (q : Cmd) : Bool :=
  (l.takeWhile fun y => y.num ≠ q.num).any fun y =>
    conflict y.ranges q.ranges || boxConflict y.boxes q.boxes || (q.op = .acflush && y.op = .route)

/-- Whether a command has begun: it goes on while another one of its unit is halted (R242). -/
def Cmd.begun (q : Cmd) : Bool := decide (q.prog ≠ 0 ∨ q.step ≠ 0 ∨ q.pushed ≠ 0) || q.wait.isSome

/-- R284: the ranges of a collective: its status area, the tensor it reads and the one it writes. -/
def Coll.ranges (c : Coll) : List (Nat × Nat × Nat × Bool) := [(0, c.stat, c.stat + 3 + c.chunks.length, true)]
def Coll.boxes (c : Coll) : List (Nat × List Nat × List Nat × Bool) :=
  let all := List.replicate 5 (2 ^ 48)
  [(c.h, List.replicate 5 0, all, false), (c.h1, List.replicate 5 0, all, true)]

/-- Whether a collective and an XS command conflict. -/
def collConflict (c : Coll) (q : Cmd) : Bool := conflict c.ranges q.ranges || boxConflict c.boxes q.boxes

/-- R235, R283: whether an earlier collective holds an XS command back. -/
def Regs.collHolds (r : Regs) (q : Cmd) : Bool := r.coll.any fun c => decide (c.after < q.num) && collConflict c q

/-- R235, R283: whether an earlier XS command or collective holds a collective back. -/
def Regs.collHeld (r : Regs) (c : Coll) : Bool :=
  (r.xsQ.any fun q => decide (q.num ≤ c.after) && collConflict c q)
    || (r.coll.takeWhile fun x => x.num ≠ c.num).any fun x => conflict x.ranges c.ranges || boxConflict x.boxes c.boxes

/-- Whether the unit runs a command: it is not halted, no other one stalls the unit at a push (R26), and no earlier one is halted
unless it has begun (R242). -/
def cmdRuns (ck : Nat) (u : StreamId) (q : Cmd) (s : State) : Bool :=
  let l := (s.ctx ck).r.xq u
  (s.ctx ck).active && q.halted.isNone && !(l.any fun x => decide (x.num ≠ q.num) && x.stalls)
    && (q.begun || !((l.takeWhile fun x => x.num ≠ q.num).any fun x => x.halted.any Halted.faulted))

/-- Whether a command may make its accesses now: it waits for no conflicting item (R283). (log 11: DESIGN CHOICE) -/
def cmdMayRun (ck : Nat) (u : StreamId) (q : Cmd) (s : State) : Bool :=
  cmdRuns ck u q s && !(blockedByEarlier ((s.ctx ck).r.xq u) q) && !(decide (u = .xs) && (s.ctx ck).r.collHolds q)

/-! ### The issue of a command (R235) -/

/-- The rows, gates and tokens that the arrival counters of a table name (R250): an AB offset and a length each. -/
def routeDests (ck tab : Nat) (s : State) : List (Nat × Nat) :=
  (List.range 8).flatMap fun e =>
    let v := (winRead ck 0 (tab + 32 * e) 32 s).1
    let rows := 2 * fieldOf v 6 1
    ([(fieldOf v 0 4, rows * fieldOf v 4 2), (fieldOf v 16 4, 4 * rows), (fieldOf v 20 4, 4 * rows)] : List (Nat × Nat)).filter
      fun x => inWindow (s.ctx ck) 0 x.1 x.2

/-- R405: the AB and CB ranges that a command writes, and its barrier object. -/
def Cmd.destRanges (q : Cmd) (ck : Nat) (s : State) : List (Nat × Nat × Nat) :=
  (q.ranges.filterMap fun x => if x.2.2.2 ∧ x.1 ≤ 1 then some (x.1, x.2.1, x.2.2.1 + 1 - x.2.1) else none)
    ++ (if q.bar then [(0, q.xr.baro, 16)] else [])
    ++ (if q.op = .route then (routeDests ck q.xr.aux2 s).map fun x => (0, x.1, x.2) else [])

/-- R235: the command takes the next issue number of its timeline and enters its queue. -/
def xIssue (u : StreamId) (q : Cmd) : Op Unit := do
  let s ← getS
  let (n, s') := tlIssue s.ck (if u = .xs then 1 else 0) s
  upd fun _ => modXq s.ck u (fun l => l ++ [{ q with num := n, dests := q.destRanges s.ck s }]) s'

/-! ### Case slots (R299 to R301) -/

/-- The context's state record of its case slot `k`. -/
def caseOf (ck k : Nat) (s : State) : CaseState :=
  vget {} (s.core (coreOf ck)).cases ((s.ctx ck).caseSlots[k]?.getD 16)

def modCase (ck k : Nat) (f : CaseState → CaseState) (s : State) : State :=
  s.modCore (coreOf ck) fun c =>
    let p := (s.ctx ck).caseSlots[k]?.getD 16
    { c with cases := vset c.cases p (f (vget {} c.cases p)) }

/-- R300, R301: slot `k` becomes the most recent: its rank 0, the ranks of more recent slots one more. Every slot filled since the
bind is more recent than one that was not. -/
def caseTouch (ck k : Nat) (s : State) : State :=
  let c := s.ctx ck
  let r := if vget false c.r.filled k then (caseOf ck k s).rank.toNat else 16
  let s := (List.range c.caseSlots.length).foldl (fun s j =>
    if j ≠ k ∧ vget false c.r.filled j ∧ (caseOf ck j s).rank.toNat < r then
      modCase ck j (fun x => { x with rank := x.rank + 1 }) s else s) s
  (modCase ck k (fun x => { x with rank := 0 }) s).modRegs ck fun r => { r with filled := vset r.filled k true }

end Sys2Proof.Machine
end

