-- ==== Sys2Proof/Machine/Xl.lean ====
section
/-!
DEFINITION. XL's data steps (R243 to R253, R299 to R305, R338 to R345): what each checks and samples at issue, and what its
command does.
-/
namespace Sys2Proof.Machine
open Sys2Proof

/-! ### Rows of values (R243, R244) -/

/-- Whether a command moves stored bits unchanged. -/
def Cmd.moves (q : Cmd) : Bool := decide (q.xr.vfmt = 0) || sameFmt q.xr.vfmt (bindCb (q.desc 0).bind)

/-- The bytes of one buffer row from the elements at k: value, poison mask and flags. -/
def loadRow (rq : Requester) (q : Cmd) (k : List Nat) : Op (Nat × Nat × Flags) := do
  let d := q.desc 0
  let n := q.xr.ext 0
  let l ← readElems rq q.cls (!q.moves) d k n
  if q.moves then pure ((rawRow d l).1, (rawRow d l).2, 0)
  else
    let (xs, f) ← decodeRow rq q.cls q.flush (q.bnd 0 0) (k[0]?.getD 0) (l.map (·.1))
    let r := encodeRow q.mode (vfmtOf q.xr.vfmt) xs
    pure (r.1, 0, f ||| r.2)

/-- The issue of a step that loads rows of the box: `free` dimensions that a list indexes, `space` its buffer operand. -/
def loadIssue (op : CmdOp) (opt h cc rec : Nat) (fo bar : Bool) (bad : XRec → Bool) (rankBad : Desc → Bool) (free : List Nat)
    (space : Option (Nat × Nat)) (stride : XRec → XRec) (lists : XRec → List (Nat × Nat)) (align : XRec → Bool)
    (s : State) : Op Unit := do
  xEnter .xl
  let v ← xRecord .xl rec 32
  let r := xrec v
  failIf (recBad v fo bar || bad r) .xfRec
  let x ← xTensor .xl h cc r.e 1 (decide (r.vfmt ≠ 0))
  failIf (rankBad x.d) .xfRec
  xBound x.d (xCoords s cc) r.e free
  let vf := vfmtOf r.vfmt
  let rl := xRowBytes vf x.d (r.ext 0 * (if r.vfmt = 0 then 1 else x.dlen))
  failIf (align r) .misalign
  xBuffer vf (stride r) space rl fo bar (lists r)
  let ps ← if r.vfmt = 0 then (do failIf (bindBad x.d.bind) .cbDesc; pure []) else xSample .xl [x]
  xIssue .xl { xCmd s .xl op cc [x] v with
    opt := opt, space := (space.map (·.1)).getD 0, buf := (space.map (·.2)).getD 0, fo := fo, bar := bar, pins := ps }

/-! ### `xl.ld`, `xl.gather`, `xl.gather8`, `xl.feed` (R243, R245, R246) -/

def execXlLd (h cc cbf rec cb fo bar : Nat) : State → Host.Outcome State Fault Refusal :=
  run fun s => unitNext .xl false 1 (loadIssue .ld 0 h cc rec (fo = 1) (bar = 1) (fun _ => false) (fun _ => false) []
    (some (cb, (cGet s cbf).toNat)) id (fun _ => []) (fun _ => false) s) s

def execXlGather (h cc cbf rec cb fo bar : Nat) : State → Host.Outcome State Fault Refusal :=
  run fun s => unitNext .xl false 1 (loadIssue .gather 0 h cc rec (fo = 1) (bar = 1) (fun r => !r.flat)
    (fun d => decide (d.rank < 2)) [1] (some (cb, (cGet s cbf).toNat)) id (fun r => [(r.aux, 4 * r.ext 1)])
    (fun _ => false) s) s

/-- The step of R245; a tensor of another rank or element width traps XF_REC (log 33: DESIGN CHOICE). -/
def xlGather8Issue (h cc cbf rec cb bar : Nat) (s : State) : Op Unit :=
  loadIssue .gather8 0 h cc rec false (bar = 1) (fun r => decide (r.vfmt ≠ 0) || !r.flat || decide (r.ext 1 ≠ 1))
    (fun d => decide (d.rank ≠ 1 ∨ d.width ≠ 64)) [0] (some (cb, (cGet s cbf).toNat)) id
    (fun r => [(r.aux, 4 * r.ext 0)]) (fun _ => false) s

/-- A word of XL with a field that must be 0 and is not: it traps before its prefix is looked at (R105, R272). -/
def xlRsv (bad : Bool) (f : State → State) (s : State) : State :=
  if bad then takeTrap s.ck .xl .illRsv 0 0 0 0 true s else f s

/-- R245; CC must name c0 (log 17: DEDUCED). -/
def execXlGather8 (h cc cbf rec cb bar : Nat) : State → Host.Outcome State Fault Refusal :=
  run fun s => xlRsv (decide (cc ≠ 0)) (unitNext .xl false 1 (xlGather8Issue h cc cbf rec cb bar s)) s

def execXlFeed (h cc rec ff fo : Nat) : State → Host.Outcome State Fault Refusal :=
  run fun s => unitNext .xl false 1 (loadIssue .feed ff h cc rec (fo = 1) false (fun _ => false) (fun _ => false) [] none
    (fun r => { r with rstr := 0 }) (fun _ => []) (fun _ => false) s) s

/-- R243: a row of the box. -/
def ldRow (ck : Nat) (q : Cmd) (rho : Nat) : Op Flags := do
  let s ← getS
  let rq := xReq ck .xl s
  let (v, m, f) ← loadRow rq q (rowCoord (q.desc 0).rank q.coord q.xr.e rho)
  putRow ck rq q q.space (q.rowOff rho) q.rl v m
  pure f

/-- R245: the row that list entry `i` names; an index beyond the tensor fills the row with 0 bytes. -/
def gatherRow (ck : Nat) (q : Cmd) (i : Nat) : Op Flags := do
  let s ← getS
  let rq := xReq ck .xl s
  let d := q.desc 0
  let idx ← xAbRead ck .xl (q.xr.aux + 4 * i) 4
  if d.dim 1 ≤ idx then
    putRow ck rq q q.space (q.rowOff i) q.rl 0 0
    cmdErr ck .xl q.num
    pure 0
  else
    let (v, m, f) ← loadRow rq q ((rowCoord d.rank q.coord q.xr.e 0).set 1 idx)
    putRow ck rq q q.space (q.rowOff i) q.rl v m
    pure f

/-- R245: one element of `xl.gather8`. -/
def gather8Elem (ck : Nat) (q : Cmd) (i : Nat) : Op Flags := do
  let s ← getS
  let rq := xReq ck .xl s
  let d := q.desc 0
  let idx ← xAbRead ck .xl (q.xr.aux + 4 * i) 4
  if d.dim 0 ≤ idx then
    putRow ck rq q q.space (q.buf + 8 * i) 8 0 0
    cmdErr ck .xl q.num
    pure 0
  else
    let l ← readElems rq q.cls false d [idx, 0, 0, 0, 0] 1
    putRow ck rq q q.space (q.buf + 8 * i) 8 (rawRow d l).1 (rawRow d l).2
    pure 0

/-- R246: the entries of a row from the first one not yet pushed. -/
def feedPush (ck : Nat) (q : Cmd) (v : Nat) : Nat → Nat → Op Unit
  | 0, _ => pure ()
  | n + 1, i => do
    let s ← getS
    let ff := vget [] (s.ctx ck).r.ff q.opt
    if 128 ≤ ff.length then waitFor (.fifoRoom q.opt)
    upd fun s => s.modRegs ck fun r => { r with ff := vset r.ff q.opt (ff ++ [BitVec.ofNat 2048 (v / 2 ^ (2048 * i))]) }
    upd (modCmd ck .xl q.num fun q => { q with pushed := i + 1 })
    feedPush ck q v n (i + 1)

/-- R246, R448: a row of the box into the FIFO, which consumes poison (log 17: DEDUCED). -/
def feedRow (ck : Nat) (q : Cmd) (rho : Nat) : Op Flags := do
  let s ← getS
  let rq := xReq ck .xl s
  let (v, m, f) ← loadRow rq q (rowCoord (q.desc 0).rank q.coord q.xr.e rho)
  if m ≠ 0 then trapLogged ck .memUe 0 3 0 0
  feedPush ck q v ((q.rl + 255) / 256 - q.pushed) q.pushed
  pure f

/-! ### `xl.platen` (R210, R247) -/

/-- The lattice codebook of a platen format. -/
def afmtCb (c : Nat) : Nat := [3, 4, 2, 1, 5, 6, 7][c]?.getD 0

/-- The slice-row `j` of a depth: two bits of each column's element (R210). -/
def sliceRow (j : Nat) (l : List Nat) : Nat := joinBits 2 (l.map fun x => x / 4 ^ j)

/-- A depth of all 64 columns written to a platen image. -/
def platenDepth (key w k : Nat) (cols : List Nat) (s : State) : State :=
  (List.range (w / 2)).foldl (fun s j => s.bufWrite (key + 16 * (k * (w / 2) + j)) 16 (sliceRow j cols)) s

/-- One column's element of a depth written to a platen image. -/
def platenElem (key w k c x : Nat) (s : State) : State :=
  (List.range (w / 2)).foldl (fun s j =>
    let a := key + 16 * (k * (w / 2) + j)
    let old := (s.bufRead a 16).1
    s.bufWrite a 16 (old - old / 4 ^ c % 4 * 4 ^ c + x / 4 ^ j % 4 * 4 ^ c)) s

/-- A platen reloaded reports no parity error (R232). -/
def platenGood (core p : Nat) (s : State) : State :=
  { s with platenPar := s.platenPar.filter fun x => x ≠ core * 8 + p }

/-- The box and format checks of `xl.platen.dense` (R247). -/
def denseBad (r : XRec) (d : Desc) (dl : Nat) : Bool :=
  match mfmtOf r.vfmt with
  | .mx w => decide (bindCb d.bind ≠ afmtCb r.vfmt ∨ r.ext 0 % 32 ≠ 0 ∨ (MFmt.mx w).depth < r.ext 0 ∨ 64 < r.ext 1)
  | .flt f => decide (64 < r.ext 0 * dl ∨ (MFmt.flt f).depth < r.ext 1)

/-- R247: VFMT names a platen format. -/
def platenRecBad (v : Nat) : Bool :=
  decide (6 < (xrec v).vfmt) || (xrec v).e.any (fun x => decide (x = 0)) || folBad v false false

/-- The checks of its issue, and the command. -/
def xlPlatenDenseIssue (h cc cbf rec : Nat) (s : State) : Op Unit := do
  xEnter .xl
  let v ← xRecord .xl rec 32
  let r := xrec v
  failIf (platenRecBad v || !r.flat) .xfRec
  let x ← xTensor .xl h cc r.e 1 true
  let base := xCoords s cc
  failIf (denseBad r x.d x.dlen) .xfRec
  xBound x.d base r.e []
  failIf ((mfmtOf r.vfmt).isMx && !((List.range (r.ext 1)).all fun c => wholeBlocks x.d (rowCoord x.d.rank base r.e c) (r.ext 0)))
    .xfRec
  let p := (cGet s cbf).toNat
  failIf (decide (s.c.platens.length ≤ p)) .bufRange
  let same := decide (bindCb x.d.bind = afmtCb r.vfmt)
  let ps ← if same then (do failIf (bindBad x.d.bind) .cbDesc; pure []) else xSample .xl [x]
  xIssue .xl { xCmd s .xl .dense cc [x] v with buf := p, opt := if same then 1 else 0, pins := ps }

def execXlPlatenDense (h cc cbf rec : Nat) : State → Host.Outcome State Fault Refusal :=
  run fun s => unitNext .xl false 1 (xlPlatenDenseIssue h cc cbf rec s) s

/-- The checks of its issue, and the command. -/
def xlPlatenCwIssue (h cc cbf rec : Nat) (s : State) : Op Unit := do
  xEnter .xl
  let v ← xRecord .xl rec 32
  let r := xrec v
  failIf (platenRecBad v || r.e.any (fun x => decide (x ≠ 1)) || (mfmtOf r.vfmt).isMx) .xfRec
  let x ← xTensor .xl h cc r.e 1 true
  failIf (decide (bindCb x.d.bind < 16)) .xfRec
  xBound x.d (xCoords s cc) r.e []
  let p := (cGet s cbf).toNat
  let n := if x.head.isSome then cwPlatens x.cbHead else 1
  failIf (decide (s.c.platens.length < p + n)) .bufRange
  let ps ← xSample .xl [x]
  xIssue .xl { xCmd s .xl .cw cc [x] v with buf := p, pins := ps }

def execXlPlatenCw (h cc cbf rec : Nat) : State → Host.Outcome State Fault Refusal :=
  run fun s => unitNext .xl false 1 (xlPlatenCwIssue h cc cbf rec s) s

/-- The step of R247 `image`. -/
def xlPlatenImageIssue (cc cbf rec : Nat) (s : State) : Op Unit := do
  xEnter .xl
  let v ← xRecord .xl rec 32
  let r := xrec v
  failIf (decide (r.vfmt ≠ 0) || r.e.any (fun x => decide (x ≠ 0)) || folBad v false false) .xfRec
  let p := (cGet s cbf).toNat
  failIf (decide (s.c.platens.length ≤ p) || !inWindow s.c 0 r.aux 13056) .bufRange
  xIssue .xl { xCmd s .xl .image cc [] v with buf := p }

/-- R247: `image` names no tensor; its H and CC fields must be 0 (log 17: DEDUCED). -/
def execXlPlatenImage (h cc cbf rec : Nat) : State → Host.Outcome State Fault Refusal :=
  run fun s => xlRsv (decide (h ≠ 0 ∨ cc ≠ 0)) (unitNext .xl false 1 (xlPlatenImageIssue cc cbf rec s)) s

/-- The physical platen of a command's platen number. -/
def physPlaten (ck p : Nat) (s : State) : Nat := (s.ctx ck).platens[p]?.getD 0

/-- R247 `dense`: one row of the box: a depth of a float format, or a column of an MX format. -/
def denseRow (ck : Nat) (q : Cmd) (rho : Nat) : Op Flags := do
  let s ← getS
  let rq := xReq ck .xl s
  let d := q.desc 0
  let r := q.xr
  let core := coreOf ck
  let t := mfmtOf r.vfmt
  let k := rowCoord d.rank q.coord r.e rho
  let l ← readElems rq q.cls true d k (r.ext 0)
  let (bits, f) ← if q.opt = 1 then pure (l.map fun x => x.1 % 2 ^ t.width, (0 : Flags))
    else do
      let (xs, f) ← decodeRow rq q.cls q.flush (q.bnd 0 0) (k[0]?.getD 0) (l.map (·.1))
      let e := xs.map (latticeEncode q.mode (afmtCb r.vfmt))
      pure (e.map (·.1), e.foldl (fun f x => f ||| x.2) f)
  let p := physPlaten ck q.buf s
  let key := platenKey core p
  upd fun s =>
    let s := if rho = 0 then platenGood core p (zeroBuf key 12288 s) else s
    if t.isMx then
      let s := if rho = 0 then zeroBuf (scaleKey core p) 768 s else s
      let s := (enum bits).foldl (fun s x => platenElem key t.width x.1 rho x.2 s) s
      (List.range (r.ext 0 / 32)).foldl (fun s b =>
        s.bufWrite (scaleKey core p + 64 * b + rho) 1 ((l.getD (32 * b) (0, false, false)).1 / 256)) s
    else platenDepth key t.width rho (bits ++ List.replicate (64 - bits.length) 0) s
  pure f

/-- R247 `cw`: the codewords of a block into platens, each repeated over the depths. -/
def cwLoad (ck : Nat) (q : Cmd) : Op Flags := do
  let s ← getS
  let rq := xReq ck .xl s
  let r := q.xr
  let b := q.bnd 0 0
  let h := b.head
  let t := mfmtOf r.vfmt
  let v ← cwRead rq q.cls b.pin (h.stride * h.block (q.coord[0]?.getD 0)) (h.count * h.cwBytes)
  let cw := (splitBits (8 * h.cwBytes) h.count v).map fun w =>
    (h.elems q.flush w).map (latticeEncode q.mode (afmtCb r.vfmt))
  let core := coreOf ck
  upd fun s => (List.range (cwPlatens h)).foldl (fun s i =>
    let p := physPlaten ck (q.buf + i) s
    let col := (cw.drop (64 * i)).take 64
    (List.range t.depth).foldl (fun s k =>
      let x := col.map fun c => (c.getD (k % h.dlen) (0, 0)).1
      platenDepth (platenKey core p) t.width k (x ++ List.replicate (64 - x.length) 0) s) (platenGood core p s)) s
  pure (cw.foldl (fun f c => c.foldl (fun f x => f ||| x.2) f) 0)

/-- R247 `image`: a platen carries no poison, so the load consumes it (R448, log 17: DEDUCED). -/
def imageLoad (ck : Nat) (q : Cmd) : Op Flags := do
  let s ← getS
  let rq := xReq ck .xl s
  let core := coreOf ck
  let p := physPlaten ck q.buf s
  let (v, _) ← getRow ck rq q true 0 q.xr.aux 13056
  upd fun s => platenGood core p ((s.bufWrite (platenKey core p) 12288 v).bufWrite (scaleKey core p) 768 (v / 2 ^ (8 * 12288)))
  pure 0

/-! ### `xl.case` and `xl.expand` (R248, R249, R299 to R305) -/

/-- R248: the issue of a fill; `auto` as its MIN bit. -/
def caseIssue (auto : Bool) (h cc slot : Nat) (s : State) : Op Unit := do
  xEnter .xl
  let x ← xTensor .xl h cc [] 0 true
  failIf (x.head.isSome && (decide (bindCb x.d.bind < 16) || !x.cbHead.family)) .xfRec
  failIf (decide (s.c.caseSlots.length ≤ (if auto then 0 else slot))) .bufRange
  let ps ← xSample .xl [x]
  xIssue .xl { xCmd s .xl .case cc [x] 0 with buf := slot, opt := if auto then 1 else 0, pins := ps }

def execXlCase (h cc cbf : Nat) : State → Host.Outcome State Fault Refusal :=
  run fun s => unitNext .xl false 1 (caseIssue false h cc (cGet s cbf).toNat s) s

def execXlCaseAuto (h cc : Nat) : State → Host.Outcome State Fault Refusal :=
  run fun s => unitNext .xl false 1 (caseIssue true h cc 0 s) s

/-- R249: the issue of an expansion. -/
def expandIssue (auto : Bool) (h cc cbf rec cb fo bar : Nat) (s : State) : Op Unit := do
  xEnter .xl
  let v ← xRecord .xl rec 32
  let r := xrec v
  failIf (recBad v (fo = 1) (bar = 1) || decide (r.vfmt = 0) || (auto && decide (r.sb ≠ 0))) .xfRec
  let x ← xTensor .xl h cc r.e 1 true
  failIf (decide (bindCb x.d.bind < 16)
    || (auto && x.head.isSome && !x.cbHead.family)) .xfRec
  xBound x.d (xCoords s cc) r.e []
  let vf := vfmtOf r.vfmt
  let b := (cGet s cbf).toNat
  xBuffer vf r (some (cb, b)) (xRowBytes vf x.d (r.ext 0 * x.dlen)) (fo = 1) (bar = 1) []
  failIf (!auto && decide (s.c.caseSlots.length ≤ r.sb)) .bufRange
  failIf (bindBad x.d.bind) .cbDesc
  if x.head.isNone then let _ ← bindHead (xReq s.ck .xl s) x.d.bind
  xIssue .xl { xCmd s .xl .expand cc [x] v with
    space := cb, buf := b, fo := decide (fo = 1), bar := decide (bar = 1), opt := if auto then 1 else 0 }

def execXlExpand (h cc cbf rec cb fo bar : Nat) : State → Host.Outcome State Fault Refusal :=
  run fun s => unitNext .xl false 1 (expandIssue false h cc cbf rec cb fo bar s) s

def execXlExpandAuto (h cc cbf rec cb fo bar : Nat) : State → Host.Outcome State Fault Refusal :=
  run fun s => unitNext .xl false 1 (expandIssue true h cc cbf rec cb fo bar s) s

/-- R304: the READY or PENDING slot of a tag: the lowest READY one, else the lowest PENDING one. -/
def findSlot (ck cb blk : Nat) (s : State) : Option Nat :=
  let l := (List.range (s.ctx ck).caseSlots.length).filter fun k =>
    decide ((caseOf ck k s).cbid.toNat = cb ∧ (caseOf ck k s).block.toNat = blk)
  match l.find? fun k => (caseOf ck k s).state = 2#2 with
  | some k => some k
  | none => l.find? fun k => (caseOf ck k s).state = 1#2

/-- R249, R304: the slots that the elements of a row read, with CASE_MISS. -/
def rowSlots (ck : Nat) (q : Cmd) (k0 n : Nat) : Op (List Nat) := do
  let s ← getS
  if q.opt = 0 then pure (List.replicate n q.xr.sb)
  else
    opMap (fun i => match findSlot ck (bindCb (q.desc 0).bind) ((q.head 0).block (k0 + i)) s with
      | some k => pure k
      | none => trapWith .caseMiss) (List.range n)

/-- R307: a word with a parity error stops the context, its slot named. -/
def caseWord (ck k o n : Nat) : Op Nat := do
  let s ← getS
  if (caseOf ck k s).bad.any fun w => decide (o / 4 ≤ w ∧ w ≤ (o + n - 1) / 4) then trapLogged ck .casePar 3 3 0 k
  let (v, p) := s.bufRead (caseKey (coreOf ck) ((s.ctx ck).caseSlots[k]?.getD 0) + o) n
  if p then trapLogged ck .memUe 0 3 0 0
  pure v

/-- R304: the index data of an expansion that an earlier fill holds back arrives. -/
def expandData (ck : Nat) (q : Cmd) : Op Unit := do
  let s ← getS
  let d := q.desc 0
  let _ ← readElems (xReq ck .xl s) q.cls true d (rowCoord d.rank q.coord q.xr.e 0) (q.xr.ext 0)
  upd (modCmd ck .xl q.num fun q => { q with since := s.cycle.toNat + 1 })

/-- R249: one row expanded through the slots; it waits while one of them is PENDING (R304). -/
def expandRow (ck : Nat) (q : Cmd) (rho : Nat) : Op Flags := do
  let s ← getS
  let rq := xReq ck .xl s
  let d := q.desc 0
  let h := q.head 0
  let n := q.xr.ext 0
  let k := rowCoord d.rank q.coord q.xr.e rho
  let l ← readElems rq q.cls true d k n
  let ss ← rowSlots ck q (k[0]?.getD 0) n
  if q.opt = 1 ∧ ss.any (fun j => (caseOf ck j s).state = 1#2) then
    if q.prog = 0 ∧ q.since = 0 then upd (modCmd ck .xl q.num fun q => { q with since := s.cycle.toNat + 1 })
    waitFor (.slots (ss.filter fun j => (caseOf ck j s).state = 1#2))
  let xs ← opMap (fun x : Elem × Nat => do
    let (i, f) := h.index x.1.1
    let v ← caseWord ck x.2 (i * h.cwBytes) h.cwBytes
    pure (h.elems q.flush v, f)) (l.zip ss)
  let e := encodeRow q.mode (vfmtOf q.xr.vfmt) (xs.map (·.1)).flatten
  putRow ck rq q q.space (q.rowOff rho) q.rl e.1 0
  if q.since ≠ 0 then
    let r := ss.foldl (fun m j => max m (caseOf ck j s).landed) 0
    upd fun s => s.modRegs ck fun x => { x with caseWait := satAdd x.caseWait (r + 1 - q.since) }
    upd (modCmd ck .xl q.num fun q => { q with since := 0 })
  upd fun s => ss.dedup.foldl (fun s j => if (caseOf ck j s).state = 2#2 then caseTouch ck j s else s) s
  pure (xs.foldl (fun f x => f ||| x.2) e.2)

/-! ### Routing (R250 to R253, R339 to R343) -/

/-- An arrival-counter record (R250). -/
structure Counter where
  tbase : Nat
  rowb : Nat
  trows : Nat
  qsel : Nat
  tmpl : Nat
  fill : Nat
  merges : Nat
  gbase : Nat
  toks : Nat
  tiles : Nat
  deriving DecidableEq, Repr

def counterOf (v : Nat) : Counter :=
  ⟨fieldOf v 0 4, fieldOf v 4 2, fieldOf v 6 1, fieldOf v 7 1 % 2, fieldOf v 8 4, fieldOf v 12 2, fieldOf v 14 2,
    fieldOf v 16 4, fieldOf v 20 4, fieldOf v 24 4⟩

def Counter.half (a : Counter) : Nat := a.tiles % 2
def Counter.base (a : Counter) : Nat := a.tbase + a.half * a.trows * a.rowb
def Counter.gate (a : Counter) : Nat := a.gbase + 4 * a.half * a.trows
def Counter.tok (a : Counter) : Nat := a.toks + 4 * a.half * a.trows

def execXlRoute (h cc rec : Nat) : State → Host.Outcome State Fault Refusal :=
  run fun s => unitNext .xl false 1 (loadIssue .route 0 h cc rec false false (fun r => decide (r.sb ≠ 0))
    (fun d => decide (d.rank < 2)) [1] none (fun r => { r with rstr := 0 })
    (fun r => [(r.aux, 16 * r.ext 1), (r.aux2, 256)]) (fun r => decide (r.aux2 % 32 ≠ 0)) s) s

/-- R252: the record operand names the counter table itself; the mask is c[CC][7:0]. -/
def xlAcflushIssue (cc rec last : Nat) (s : State) : Op Unit := do
  xEnter .xl
  failIf (!inWindow s.c 0 (32 * rec) 256) .bufRange
  xIssue .xl { xCmd s .xl .acflush cc [] 0 with buf := 32 * rec, opt := last }

def execXlAcflush (cc rec last : Nat) : State → Host.Outcome State Fault Refusal :=
  run fun s => unitNext .xl false 0 (xlAcflushIssue cc rec last s) s

/-- AB bytes that a command writes. -/
def xAbWrite (ck off n v : Nat) : Op Unit := do
  let s ← getS
  failIf (!inWindow (s.ctx ck) 0 off n) .bufRange
  upd (winWrite ck 0 off n v)

/-- R251: Emit: the template with ABASE, OA, ROWS and LAST, tagged with its half (R341). -/
def emitTile (ck tab e n last : Nat) : Op Unit := do
  let a := counterOf (← xAbRead ck .xl (tab + 32 * e) 32)
  let t ← xAbRead ck .xl a.tmpl 16
  let ctl := fieldOf t 12 4
  let ctl := ctl - ctl % 256 + n % 256
  let ctl := ctl - ctl / 2 ^ 16 % 4 * 2 ^ 16 + (last + 2) * 2 ^ 16
  let ent := t - fieldOf t 4 4 * 2 ^ 32 - fieldOf t 12 4 * 2 ^ 96 + a.base % 2 ^ 32 * 2 ^ 32 + ctl * 2 ^ 96
  pushTq ck a.qsel (BitVec.ofNat 160 (ent + (a.base % 2 ^ 31 + 1) * 2 ^ 128))
  xAbWrite ck (tab + 32 * e + 12) 2 0
  xAbWrite ck (tab + 32 * e + 24) 4 ((a.tiles + 1) % 2 ^ 32)

/-- R343: the sum of two gates in f32 under XL's sampled flush. -/
def gateAdd (fl : BitVec 6) (x y : Nat) : Nat × Flags :=
  fltOut ⟨0, fl, 0⟩ .f32 (fAdd 0 (FFmt.f32.read fl x) (FFmt.f32.read fl y))

/-- The row of the current half that holds token `t`. -/
def findToken (ck : Nat) (tok t : Nat) : Nat → Nat → Op (Option Nat)
  | 0, _ => pure none
  | n + 1, r => do
    let x ← xAbRead ck .xl (tok + 4 * r) 4
    if x = t then pure (some r) else findToken ck tok t n (r + 1)

/-- R339: the entry `i` of the route list, read once. -/
def routeRead (ck : Nat) (q : Cmd) (i : Nat) : Op Nat := do
  match q.entry with
  | some e => pure e.toNat
  | none =>
    let e ← xAbRead ck .xl (q.xr.aux + 16 * i) 16
    upd (modCmd ck .xl q.num fun q => { q with entry := some (BitVec.ofNat 128 e) })
    pure e

/-- R251: one entry of the route list. A range that a counter record names and that leaves the AB window, known only now, stops the
context with BUF_RANGE. (log 33: DESIGN CHOICE) -/
def routeEntry (ck : Nat) (q : Cmd) (i : Nat) : Op Flags := do
  let s ← getS
  let rq := xReq ck .xl s
  let r := q.xr
  let d := q.desc 0
  let ent ← routeRead ck q i
  let t := fieldOf ent 0 4
  let e := fieldOf ent 4 4
  let g := fieldOf ent 8 4
  if 7 < e ∨ d.dim 1 ≤ t then
    cmdErr ck .xl q.num
    pure 0
  else
    let at0 := r.aux2 + 32 * e
    let a := counterOf (← xAbRead ck .xl at0 32)
    if q.step = 1 then
      emitTile ck r.aux2 e a.trows 0
      pure 0
    else
      if !waitMet ck .xl (.half (a.base % 2 ^ 31)) s then waitFor (.half (a.base % 2 ^ 31))
      match ← findToken ck a.tok t a.fill 0 with
      | some row =>
        let old ← xAbRead ck .xl (a.gate + 4 * row) 4
        xAbWrite ck (a.gate + 4 * row) 4 (gateAdd q.flush old g).1
        xAbWrite ck (at0 + 14) 2 (min (a.merges + 1) 65535)
        pure (gateAdd q.flush old g).2
      | none =>
        let (v, m, f) ← loadRow rq q ((rowCoord d.rank q.coord r.e 0).set 1 t)
        let off := a.base + a.fill * a.rowb
        failIf (!inWindow (s.ctx ck) 0 off q.rl || !inWindow (s.ctx ck) 0 (a.tok + 4 * a.fill) 4
          || !inWindow (s.ctx ck) 0 (a.gate + 4 * a.fill) 4) .bufRange
        putRow ck rq q 0 off q.rl v m
        xAbWrite ck (a.tok + 4 * a.fill) 4 t
        xAbWrite ck (a.gate + 4 * a.fill) 4 g
        xAbWrite ck (at0 + 12) 2 ((a.fill + 1) % 65536)
        if a.fill + 1 = a.trows then
          upd (modCmd ck .xl q.num fun q => { q with step := 1, flags := q.flags ||| f })
          emitTile ck r.aux2 e a.trows 0
        pure f

/-- R252: whether a named counter of the `n` from `j` on has rows; a poisoned FILL stops the context (R448). -/
def fillsLeft (ck tab mask : Nat) : Nat → Nat → Op Bool
  | 0, _ => pure false
  | n + 1, j => do
    if mask.testBit j && decide ((← xAbRead ck .xl (tab + 32 * j + 12) 2) ≠ 0) then pure true
    else fillsLeft ck tab mask n (j + 1)

/-- R252: the flush of the `n` counters from `e` on: each named one with rows emits; the last entry carries LAST. -/
def flushFrom (ck : Nat) (num tab mask last : Nat) : Nat → Nat → Op Unit
  | 0, _ => pure ()
  | n + 1, e => do
    if ← fillsLeft ck tab (mask &&& 2 ^ e) 1 e then
      let more ← if last = 1 then fillsLeft ck tab mask n (e + 1) else pure true
      let a := counterOf (← xAbRead ck .xl (tab + 32 * e) 32)
      emitTile ck tab e a.fill (if more then 0 else 1)
      upd (modCmd ck .xl num fun q => { q with pushed := q.pushed + 1, prog := e + 1 })
    flushFrom ck num tab mask last n (e + 1)

/-- R252. -/
def flushBody (ck : Nat) (q : Cmd) : Op Unit := do
  let mask := q.coord[0]?.getD 0 % 256
  flushFrom ck q.num q.buf mask q.opt (8 - q.prog) q.prog
  let s ← getS
  let n := ((findCmd ck .xl q.num s).map (·.pushed)).getD 0
  if q.opt = 1 ∧ n = 0 then
    let k ← match (setBits mask 8).head? with
      | some e => do
        let v ← xAbRead ck .xl (q.buf + 32 * e) 32
        pure (counterOf v).qsel
      | none => pure 0
    pushTq ck k (BitVec.ofNat 160 (2 ^ 112))

/-! ### The commands of XL (R242) -/

/-- The body of an XL command, from its progress point. -/
def xlBody (ck : Nat) (q : Cmd) : Op Unit :=
  let r := q.xr
  let rows := r.rows
  let loop (n : Nat) (f : Nat → Cmd → Nat → Op Flags) : Op Unit := rowsOf ck .xl q.num n (f ck)
  match q.op with
  | .ld => do loop rows ldRow; followOn ck .xl q
  | .gather => do loop (r.ext 1) gatherRow; followOn ck .xl q
  | .gather8 => loop (r.ext 0) gather8Elem
  | .feed => do loop rows feedRow; followOn ck .xl q
  | .dense => loop (r.ext 1) denseRow
  | .cw => loop 1 fun ck q _ => cwLoad ck q
  | .image => loop 1 fun ck q _ => imageLoad ck q
  | .expand => do loop rows expandRow; followOn ck .xl q
  | .route => loop (r.ext 1) routeEntry
  | .acflush => flushBody ck q
  | _ => pure ()

/-! ### Case fills (R301 to R303, R307, R308) -/

/-- R303: the slot of a `.auto` fill of a tag, and whether it is a hit on version `v`; `excl` is a slot that a scrub took. -/
def chooseSlot (ck cb blk v : Nat) (excl : Option Nat) (s : State) : Option (Nat × Bool) :=
  let l := (List.range (s.ctx ck).caseSlots.length).filter fun k => excl ≠ some k
  match l.find? fun k => decide ((caseOf ck k s).state = 2#2 ∧ (caseOf ck k s).cbid.toNat = cb
      ∧ (caseOf ck k s).block.toNat = blk) with
  | some k => some (k, decide ((caseOf ck k s).version.toNat = v))
  | none =>
    match l.find? fun k => (caseOf ck k s).state = 0#2 with
    | some k => some (k, false)
    | none =>
      (l.filter fun k => (caseOf ck k s).state = 2#2).foldl (fun b k => match b with
        | none => some (k, false)
        | some x => if (caseOf ck x.1 s).rank < (caseOf ck k s).rank then some (k, false) else some x) none

/-- The pin of a fill. -/
def Cmd.pin0 (q : Cmd) : Pin := q.pins[0]?.getD noPin

/-- R301: a slot is granted to a fill: PENDING, with tag, VERSION and AUTO. -/
def grantSlot (ck k : Nat) (q : Cmd) (s : State) : State :=
  modCmd ck .xl q.num (fun q => { q with step := 1, slot := k, excl := none, since := s.cycle.toNat + 1 })
    (modCase ck k (fun x => { x with
      version := BitVec.ofNat 32 q.pin0.version, block := BitVec.ofNat 32 (q.coord[0]?.getD 0), cbid := BitVec.ofNat 16 q.pin0.cbid,
      auto := decide (q.opt = 1), state := 1 }) s)

/-- A fill command that the unit runs. -/
def fillOf (ck num : Nat) (s : State) : Option Cmd :=
  match findCmd ck .xl num s with
  | some q => if q.op = .case ∧ cmdRuns ck .xl q s then some q else none
  | none => none

/-- A fill command that waits for a grant or holds one. -/
def fillCmd (ck num : Nat) (s : State) : Option Cmd :=
  match fillOf ck num s with
  | some q => if cmdMayRun ck .xl q s then some q else none
  | none => none

/-- R303: a fill reads its block's table, from its issue on, whether or not it has its slot. -/
def fillRead (ck num : Nat) (s : State) : State :=
  match fillOf ck num s with
  | none => s
  | some q =>
    if q.data.isSome then s
    else
      let b := q.bnd 0 0
      match runOp (cwRead (xReq ck .xl s) q.cls b.pin (b.head.stride * (q.coord[0]?.getD 0)) b.head.stride) s with
      | (.ok v, t) => modCmd ck .xl num (fun q => { q with data := some (BitVec.ofNat 16384 v) }) t
      | (.error e, t) => cmdEnd ck .xl num (.error e, t)

/-- R302, R303: a fill is granted its slot once the range checker lets it; a hit completes at once. -/
def execCaseFillGrant (core slot num : Nat) : State → Host.Outcome State Fault Refusal :=
  run fun s =>
    let ck := core * 4 + slot
    match fillCmd ck num s with
    | none => s
    | some q =>
      if q.step ≠ 0 then s
      else if q.opt = 0 then grantSlot ck q.buf q s
      else
        match chooseSlot ck q.pin0.cbid (q.coord[0]?.getD 0) q.pin0.version none s with
        | some (_, true) => cmdComplete ck .xl num s
        | some (k, false) => grantSlot ck k q s
        | none => s

/-- R299, R301, R306: a fill's table lands: bytes, zeroes above them, READY and most recent; the fill completes. -/
def execCaseFillLanded (core slot num : Nat) : State → Host.Outcome State Fault Refusal :=
  run fun s =>
    let ck := core * 4 + slot
    match fillCmd ck num s with
    | none => s
    | some q =>
      match q.data with
      | none => s
      | some v =>
        if q.step ≠ 1 then s
        else
          let key := caseKey core ((s.ctx ck).caseSlots[q.slot]?.getD 0)
          let t := (zeroBuf key 2048 s).bufWrite key (q.bnd 0 0).head.stride v.toNat
          let t := modCase ck q.slot (fun x => { x with state := 2, bad := [], landed := s.cycle.toNat }) t
          cmdComplete ck .xl num (caseTouch ck q.slot t)

/-- R301, R307: a scrub empties a slot: tag cleared, bytes 0. -/
def evictCase (core p : Nat) (s : State) : State :=
  (zeroBuf (caseKey core p) 2048 s).modCore core fun c =>
    { c with cases := vset c.cases p { vget {} c.cases p with state := 0, cbid := 0, block := 0, bad := [] } }

/-- R307, R308: the scrubber reads a slot: a word with a parity error is logged and, in a slot under AUTO, evicts it; a
fill that held the slot chooses again, without that slot if it had chosen it in this cycle or has yet to read its table. -/
def execCaseScrub (core cslot : Nat) (bad : Option Nat) : State → Host.Outcome State Fault Refusal :=
  run fun s =>
    let x := vget {} (s.core core).cases cslot
    match bad.or x.bad.head? with
    | none => s
    | some w =>
      if x.state = 0#2 ∨ (x.state = 1#2 ∧ x.auto = false) then s
      else
        let owner := (List.range 4).find? fun j =>
          (s.ctx (core * 4 + j)).bound && (s.ctx (core * 4 + j)).caseSlots.contains cslot
        let (who, linst) := match owner with
          | some j => (whoOf core j, (s.ctx (core * 4 + j)).linst.toNat)
          | none => (0, 0)
        let (_, s) := errorLog (core / 48) (if x.auto then 4 else 3) 3 who linst 0 s
        if x.auto = false then
          s.modCore core fun c => { c with cases := vset c.cases cslot { x with bad := if x.bad.contains w then x.bad else w :: x.bad } }
        else
          let s := evictCase core cslot s
          match owner with
          | none => s
          | some j =>
          let ck := core * 4 + j
          let k := (s.ctx ck).caseSlots.idxOf cslot
          match (s.ctx ck).r.xlQ.find? fun q => q.op = .case ∧ q.step = 1 ∧ q.slot = k with
          | none => s
          | some q =>
            let fresh := q.data.isNone ∨ q.since = s.cycle.toNat + 1
            (modCmd ck .xl q.num (fun q => { q with step := 2, excl := if fresh then some k else none }) s).modRegs ck fun r =>
              { r with caseRefill := satAdd r.caseRefill 1 }

/-- R308: a fill whose slot a scrub took is granted another one. -/
def execCaseFillRechoose (core slot num : Nat) : State → Host.Outcome State Fault Refusal :=
  run fun s =>
    let ck := core * 4 + slot
    match fillCmd ck num s with
    | none => s
    | some q =>
      if q.step ≠ 2 then s
      else
        match chooseSlot ck q.pin0.cbid (q.coord[0]?.getD 0) q.pin0.version q.excl s with
        | some (_, true) => cmdComplete ck .xl num s
        | some (k, false) => grantSlot ck k q s
        | none => grantSlot ck (q.excl.getD 0) q s

end Sys2Proof.Machine
end

