-- ==== Sys2Proof/Machine/Xs.lean ====
section
/-!
DEFINITION. XS's data steps (R254 to R261, R75 to R80): what each checks and samples at issue, what its command does, and the
completion of the commands of both units (R242).
-/
namespace Sys2Proof.Machine
open Sys2Proof

/-! ### Stores through the compositor (R254, R259) -/

/-- R76: a search into an MX tensor writes whole blocks in each of its rows, or the step traps with CB_SHAPE. -/
def mxShapeBad (r : XRec) (d : Desc) (rows : List (List Nat)) : Bool :=
  decide (r.vfmt ≠ 0) && isMx (bindCb d.bind) && !(rows.all fun k => wholeBlocks d k (r.ext 0))

/-- The sampling of a step that moves raw bits, or else searches. -/
def searchSample (r : XRec) (x : XT) : Op (List Pin) :=
  if r.vfmt = 0 then (do failIf (bindBad x.d.bind) .cbDesc; pure []) else xSample .xs [x]

/-- The checks of its issue, and the command. -/
def xsStIssue (h cc cbf rec cb : Nat) (s : State) : Op Unit := do
  xEnter .xs
  let v ← xRecord .xs rec 32
  let r := xrec v
  failIf (recBad v false false) .xfRec
  let x ← xTensor .xs h cc r.e 2 (decide (r.vfmt ≠ 0))
  let base := xCoords s cc
  xBound x.d base r.e []
  let b := (cGet s cbf).toNat
  let n := r.ext 0 * (if r.vfmt = 0 then 1 else x.dlen)
  xBuffer (vfmtOf r.vfmt) r (some (cb, b)) (xRowBytes (vfmtOf r.vfmt) x.d n) false false []
  failIf (mxShapeBad r x.d ((List.range r.rows).map (rowCoord x.d.rank base r.e))) .cbShape
  let ps ← searchSample r x
  xIssue .xs { xCmd s .xs .st cc [x] v with space := cb, buf := b, pins := ps }

def execXsSt (h cc cbf rec cb : Nat) : State → Host.Outcome State Fault Refusal :=
  run fun s => unitNext .xs false 1 (xsStIssue h cc cbf rec cb s) s

/-- The indices of an n32 list in AB, as a command reads them at issue. -/
def issueList (u : StreamId) (off n : Nat) : Op (List Nat) := do
  let s ← getS
  let v ← xAbRead s.ck u off (4 * n)
  pure (splitBits 32 n v)

/-- The checks of its issue, and the command; a tensor of rank 1 traps XF_REC (log 33: DESIGN CHOICE). -/
def xsScatterIssue (h cc cbf rec cb acc : Nat) (s : State) : Op Unit := do
  xEnter .xs
  let v ← xRecord .xs rec 32
  let r := xrec v
  failIf (recBad v false false || !r.flat || (decide (acc = 1) && decide (r.vfmt = 0))) .xfRec
  let x ← xTensor .xs h cc r.e (if acc = 1 then 3 else 2) (decide (r.vfmt ≠ 0))
  failIf (decide (x.d.rank < 2)) .xfRec
  let base := xCoords s cc
  xBound x.d base r.e [1]
  let b := (cGet s cbf).toNat
  let n := r.ext 0 * (if r.vfmt = 0 then 1 else x.dlen)
  xBuffer (vfmtOf r.vfmt) r (some (cb, b)) (xRowBytes (vfmtOf r.vfmt) x.d n) false false [(r.aux, 4 * r.ext 1)]
  if r.vfmt ≠ 0 ∧ isMx (bindCb x.d.bind) then
    let l ← issueList .xs r.aux (r.ext 1)
    failIf (mxShapeBad r x.d ((l.filter fun i => i < x.d.dim 1).map fun i => (rowCoord x.d.rank base r.e 0).set 1 i)) .cbShape
  let ps ← searchSample r x
  xIssue .xs { xCmd s .xs .scatter cc [x] v with space := cb, buf := b, opt := acc, pins := ps }

def execXsScatter (h cc cbf rec cb acc : Nat) : State → Host.Outcome State Fault Refusal :=
  run fun s => unitNext .xs false 1 (xsScatterIssue h cc cbf rec cb acc s) s

/-- The indices that a row of source values gives (R254), with `.add` onto the destination's values (R259). -/
def rowIndices (rq : Requester) (q : Cmd) (k : List Nat) (xs : List FVal) (add : Bool) : Op (List Nat × Flags) := do
  let d := q.desc 0
  let k0 := k[0]?.getD 0
  let (ys, f) ← if add then do
      let l ← readElems rq q.cls true d k (q.xr.ext 0)
      let (ds, f) ← decodeRow rq q.cls q.flush (q.bnd 0 0) k0 (l.map (·.1))
      let r := (ds.zip xs).map fun p => fltOut ⟨0, q.flush, 0⟩ .f32 (fAdd 0 (in32 q.flush p.1) (in32 q.flush p.2))
      pure (r.map fun x => FFmt.f32.read q.flush x.1, r.foldl (fun f x => f ||| x.2) f)
    else pure (xs, (0 : Flags))
  let (idx, g) ← searchRow rq q.cls q.mode (q.bnd 0 0) k0 ys
  pure (idx, f ||| g)

/-- One buffer row at `off` into the tensor row at k (R254, R259). -/
def storeRow (ck : Nat) (q : Cmd) (k : List Nat) (off : Nat) (add : Bool) : Op Flags := do
  let s ← getS
  let rq := xReq ck .xs s
  let d := q.desc 0
  let n := q.xr.ext 0
  if q.xr.vfmt = 0 then
    let (v, m) ← getRow ck rq q false q.space off q.rl
    writeElems rq q.cls d k (rawElems d n v m)
    pure 0
  else
    let (v, _) ← getRow ck rq q true q.space off q.rl
    let (idx, f) ← rowIndices rq q k (rowValues q.flush (vfmtOf q.xr.vfmt) (n * q.dl) v) add
    writeElems rq q.cls d k (idx.map fun i => (i, false, false))
    pure f

def stRow (ck : Nat) (q : Cmd) (rho : Nat) : Op Flags :=
  storeRow ck q (rowCoord (q.desc 0).rank q.coord q.xr.e rho) (q.rowOff rho) false

/-- R259: the row of list entry `i`; an index beyond the tensor is skipped. -/
def scatterRow (ck : Nat) (q : Cmd) (i : Nat) : Op Flags := do
  let d := q.desc 0
  let idx ← xAbRead ck .xs (q.xr.aux + 4 * i) 4
  if d.dim 1 ≤ idx then
    cmdErr ck .xs q.num
    pure 0
  else storeRow ck q ((rowCoord d.rank q.coord q.xr.e 0).set 1 idx) (q.rowOff i) (decide (q.opt = 1))

/-! ### `xs.stash` (R255) -/

/-- R255: the coordinates of row `b0` of the transposed copy of a box at `base` in a tensor of some rank: a vector has dimension 0 alone,
and a tensor of rank 3 or more takes the copy at coordinate 0 of its other dimensions (log 33: DESIGN CHOICE). -/
def transposed (rank : Nat) (base : List Nat) (b0 : Nat) : List Nat :=
  [base[1]?.getD 0, if 1 < rank then base[0]?.getD 0 + b0 else 0, 0, 0, 0]

/-- The coordinates of row `b0` of the transposed copy of a command. -/
def stashCoord (q : Cmd) (b0 : Nat) : List Nat := transposed (q.desc 1).rank q.coord b0

/-- Whether two bindings are identical: CBID, POLICY, BVER and IXW (R255). -/
def sameBind (a b : Nat) : Bool :=
  decide (bindCb a = bindCb b ∧ bindFollow a = bindFollow b ∧ bindVer a = bindVer b ∧ bindIxw a = bindIxw b)

/-- The checks of its issue, and the command. -/
def xsStashIssue (h cc cbf rec cb : Nat) (s : State) : Op Unit := do
  xEnter .xs
  let v ← xRecord .xs rec 32
  let r := xrec v
  failIf (recBad v false false) .xfRec
  let x ← xDesc .xs h 2
  let y ← xDesc .xs ((h + 1) % 16) 2
  xRank cc r.e x
  xRank cc [r.ext 1, r.ext 0, r.ext 2, r.ext 3, r.ext 4] y
  let x ← xHead .xs x
  let y ← xHead .xs y
  let base := xCoords s cc
  xBound x.d base r.e []
  xBound y.d [base[1]?.getD 0, base[0]?.getD 0] [r.ext 1, r.ext 0] []
  let b := (cGet s cbf).toNat
  xBuffer (vfmtOf r.vfmt) r (some (cb, b)) (xRowBytes (vfmtOf r.vfmt) x.d (r.ext 0)) false false []
  failIf (decide (64 < r.ext 0 ∨ 64 < r.ext 1 ∨ x.dlen ≠ 1) || !sameBind x.d.bind y.d.bind || !r.flat
    || mxShapeBad r x.d ((List.range (r.ext 1)).map (rowCoord x.d.rank base r.e))
    || (decide (r.vfmt ≠ 0) && isMx (bindCb y.d.bind) && !((List.range (r.ext 0)).all fun b0 =>
        wholeBlocks y.d (transposed y.d.rank base b0) (r.ext 1)))) .cbShape
  failIf (bindBad x.d.bind || bindBad y.d.bind) .cbDesc
  let ps ← searchSample r x
  xIssue .xs { xCmd s .xs .stash cc [x, y] v with space := cb, buf := b, pins := ps }

def execXsStash (h cc cbf rec cb : Nat) : State → Host.Outcome State Fault Refusal :=
  run fun s => unitNext .xs false 1 (xsStashIssue h cc cbf rec cb s) s

/-- Whether the transposed copy of a command is encoded in its tensor's own MX blocks (R76). -/
def Cmd.stashMx (q : Cmd) : Bool := decide (q.xr.vfmt ≠ 0) && isMx (bindCb (q.desc 1).bind)

/-- R255, R76: row `b0` of the transposed copy of a box into an MX tensor. -/
def stashMxRow (ck : Nat) (q : Cmd) (b0 : Nat) : Op Flags := do
  let s ← getS
  let rq := xReq ck .xs s
  let r := q.xr
  let col ← opMap (fun rho => do
    let (v, _) ← getRow ck rq q true q.space (q.rowOff rho) q.rl
    pure ((rowValues q.flush (vfmtOf r.vfmt) (r.ext 0) v).getD b0 (.zero false))) (List.range (r.ext 1))
  let (idx, f) ← searchRow rq q.cls q.mode (q.bnd 1 0) (q.coord[1]?.getD 0) col
  writeElems rq q.cls (q.desc 1) (stashCoord q b0) (idx.map fun i => (i, false, false))
  pure f

/-- R255: row ρ of the box to both tensors. The transposed copy of a value box into an MX tensor follows the rows of the box, each of
its rows counted by itself; nothing is written before all of its lines translate (R394). -/
def stashRow (ck : Nat) (q : Cmd) (rho : Nat) : Op Flags := do
  let s ← getS
  let rq := xReq ck .xs s
  let r := q.xr
  if r.ext 1 ≤ rho then stashMxRow ck q (rho - r.ext 1)
  else
    let k := rowCoord (q.desc 0).rank q.coord r.e rho
    let (l, f) ← if r.vfmt = 0 then do
        let (v, m) ← getRow ck rq q false q.space (q.rowOff rho) q.rl
        pure (rawElems (q.desc 0) (r.ext 0) v m, (0 : Flags))
      else do
        let (v, _) ← getRow ck rq q true q.space (q.rowOff rho) q.rl
        let (idx, f) ← rowIndices rq q k (rowValues q.flush (vfmtOf r.vfmt) (r.ext 0) v) false
        pure (idx.map fun i => (i, false, false), f)
    let col (b0 : Nat) : List Nat := (stashCoord q b0).set 0 (q.coord[1]?.getD 0 + rho)
    opEach (fun b0 => if q.stashMx then probeElems rq (q.desc 1) (stashCoord q b0) (r.ext 1) 2
      else probeElems rq (q.desc 1) (col b0) 1 2) (List.range (r.ext 0))
    writeElems rq q.cls (q.desc 0) k l
    if !q.stashMx then opEach (fun x : Nat × Elem => writeElems rq q.cls (q.desc 1) (col x.1) [x.2]) (enum l)
    pure f

/-! ### `xs.topk` (R256) -/

/-- R256: whether a pair ranks before another: value, then lower index; a NaN below −∞. -/
def pairBefore (a b : Nat × Nat) : Bool :=
  let x := FFmt.f32.decode a.1
  let y := FFmt.f32.decode b.1
  if x.isNan && y.isNan then decide (a.2 < b.2)
  else if x.isNan then false
  else if y.isNan then true
  else match fCmp x y with
    | .gt => true
    | .lt => false
    | .eq => decide (a.2 < b.2)

/-- A pair put into a list in order of rank. -/
def pairPut (x : Nat × Nat) : List (Nat × Nat) → List (Nat × Nat)
  | [] => [x]
  | y :: r => if pairBefore x y then x :: y :: r else y :: pairPut x r

/-- The `k` best of candidates, padded (R256). -/
def bestPairs (k : Nat) (l : List (Nat × Nat)) : List (Nat × Nat) :=
  let b := l.foldl (fun b x => (pairPut x b).take k) []
  b ++ List.replicate (k - b.length) (0xFF800000, 0xFFFFFFFF)

/-- The checks of its issue, and the command. -/
def xsTopkIssue (cc cbf rec merge : Nat) (s : State) : Op Unit := do
  xEnter .xs
  let v ← xRecord .xs rec 32
  let r := xrec v
  failIf (recBad v false false || !r.flat || decide (r.sb = 0 ∨ 16 < r.sb)) .xfRec
  let b := (cGet s cbf).toNat
  failIf (decide (r.aux2 % 4 ≠ 0 ∨ (r.aux ≠ 0xFFFFFFFF ∧ r.aux % 4 ≠ 0))) .misalign
  let rl := 4 * r.ext 0
  let copy := if r.aux = 0xFFFFFFFF then [] else [(r.aux, (r.ext 1 - 1) * strideOf r.rstr rl + rl)]
  xBuffer (.flt .f32) r (some (1, b)) rl false false ((r.aux2, 8 * r.sb * r.ext 1) :: copy)
  xIssue .xs { xCmd s .xs .topk cc [] v with space := 1, buf := b, opt := merge }

def execXsTopk (cc cbf rec merge : Nat) : State → Host.Outcome State Fault Refusal :=
  run fun s => unitNext .xs false 0 (xsTopkIssue cc cbf rec merge s) s

/-- A pair that stands for no candidate (R256). -/
def isFiller (p : Nat × Nat) : Bool := decide (p = (0xFF800000, 0xFFFFFFFF))

/-- R256: one logit row. A stored pair that stands for no candidate joins none, so that chunks merge to the pairs of one command
(R338; log 18: DEDUCED). -/
def topkRow (ck : Nat) (q : Cmd) (i : Nat) : Op Flags := do
  let s ← getS
  let rq := xReq ck .xs s
  let r := q.xr
  let rl := 4 * r.ext 0
  let (v, _) ← getRow ck rq q true 1 (q.buf + i * strideOf r.rstr rl) rl
  let at0 := r.aux2 + 8 * r.sb * i
  let old ← if q.opt = 1 then do
      let w ← xAbRead ck .xs at0 (8 * r.sb)
      pure (((splitBits 64 r.sb w).map fun x => (x % 2 ^ 32, x / 2 ^ 32)).filter fun p => !isFiller p)
    else pure []
  let c0 := q.coord[0]?.getD 0
  let new := (enum (splitBits 32 (r.ext 0) v)).map fun x => (x.2, (c0 + x.1) % 2 ^ 32)
  if r.aux ≠ 0xFFFFFFFF then xAbWrite ck (r.aux + i * strideOf r.rstr rl) rl v
  xAbWrite ck at0 (8 * r.sb) (joinBits 64 ((bestPairs r.sb (old ++ new)).map fun p => p.1 + p.2 * 2 ^ 32))
  pure 0

/-! ### `xs.upd` (R257, R258) -/

/-- R257: whether the record breaks a rule. -/
def updBad (v : Nat) : Bool :=
  decide (1 < fieldOf v 0 1) || decide (fieldOf v 1 3 ≠ 0) || decide (fieldOf v 42 2 ≠ 0) || decide (fieldOf v 52 12 ≠ 0)
  || (updRec v).e.any fun x => decide (x = 0)

/-- The box of tensor `i` of an update in indices: E0 and c[CC] count the weight's elements (log 18: DEDUCED). -/
def updBase (base : List Nat) (d0 d : Nat) : List Nat := base.set 0 (base[0]?.getD 0 * d0 / d)
def updExt (e : List Nat) (d : Nat) : List Nat := e.set 0 (e[0]?.getD 1 / d)

/-- The checks of its issue, and the command. The rows of R241 that need the codeword length of a tensor whose header cannot be read are
left to its failure, the last row (R71). Under SGDM the descriptor, rank and binding of tensor H + 2 are checked, its box and shape are not
(log 33: DESIGN CHOICE). -/
def xsUpdIssue (h cc cbf rec cbg : Nat) (s : State) : Op Unit := do
  xEnter .xs
  let v ← xRecord .xs rec 64
  let r := updRec v
  failIf (updBad v) .xfRec
  let adam := fieldOf v 0 1 = 1
  let w ← xDesc .xs h 3
  let m ← xDesc .xs ((h + 1) % 16) 3
  let x ← xDesc .xs ((h + 2) % 16) (if adam then 3 else 0)
  opEach (xRank cc r.e) [w, m, x]
  let w ← xHead .xs w
  let m ← xHead .xs m
  let x ← xHead .xs x
  failIf (decide (cbg = 1) && decide (bindCb w.d.bind < 16)) .xfRec
  let base := xCoords s cc
  let d0 := max w.dlen 1
  let ts := if adam then [w, m, x] else [w, m]
  let known (t : XT) : Bool := w.head.isSome && t.head.isSome
  opEach (fun t : XT => xBound t.d (updBase base d0 (max t.dlen 1)) (updExt r.e (max t.dlen 1)) (if known t then [] else [0])) ts
  let b := (cGet s cbf).toNat
  failIf (decide (cbg = 1) && decide (r.aux % 4 ≠ 0)) .misalign
  let hd := w.cbHead
  let blocks := if hd.family then hd.block (base[0]?.getD 0 + r.ext 0 / d0 - 1) + 1 else 1
  xBuffer (.flt .f32) r (some (1, b)) (4 * r.ext 0) false false
    (if cbg = 1 then [(r.aux, blocks * hd.count * hd.dlen * 4)] else [])
  failIf (ts.any fun t => known t && (decide (r.ext 0 % max t.dlen 1 ≠ 0 ∨ base[0]?.getD 0 * d0 % max t.dlen 1 ≠ 0)
    || isMx (bindCb t.d.bind) && !((List.range r.rows).all fun rho =>
        wholeBlocks t.d (rowCoord t.d.rank (updBase base d0 1) r.e rho) (r.ext 0)))) .cbShape
  let ps ← xSample .xs [w, m, x]
  xIssue .xs { xCmd s .xs .upd cc [w, m, x] v with space := 1, buf := b, opt := cbg, pins := ps }

def execXsUpd (h cc cbf rec cbg : Nat) : State → Host.Outcome State Fault Refusal :=
  run fun s => unitNext .xs false 1 (xsUpdIssue h cc cbf rec cbg s) s

/-- An f32 operation of R257 on words, with its flags: the result of `x`, under FLUSH and RNE. -/
def updOut (fl : BitVec 6) (x : FVal × Flags) : Nat × Flags := fltOut ⟨0, fl, 0⟩ .f32 x
def updIn (fl : BitVec 6) (b : Nat) : FVal := FFmt.f32.read fl b
def uAdd (fl : BitVec 6) (a b : Nat) : Nat × Flags := updOut fl (fAdd 0 (updIn fl a) (updIn fl b))
def uSub (fl : BitVec 6) (a b : Nat) : Nat × Flags := updOut fl (fAdd 0 (updIn fl a) (updIn fl b).neg)
def uMul (fl : BitVec 6) (a b : Nat) : Nat × Flags := updOut fl (fMul (updIn fl a) (updIn fl b))
def uDiv (fl : BitVec 6) (a b : Nat) : Nat × Flags := updOut fl (fDiv (updIn fl a) (updIn fl b))
def uSqrt (fl : BitVec 6) (a : Nat) : Nat × Flags := updOut fl (SFun.sqrt.value (updIn fl a))

/-- A value that carries the flags raised so far. -/
abbrev UVal := Nat × Flags
def uOp (f : Nat → Nat → Nat × Flags) (a b : UVal) : UVal :=
  let r := f a.1 b.1
  (r.1, a.2 ||| b.2 ||| r.2)

/-- R257: one element: the new w, m and v with the flags. -/
def updElem (fl : BitVec 6) (rc : Nat) (w m v g : Nat) : Nat × Nat × Nat × Flags :=
  let f (o : Nat) : UVal := (fieldOf rc o 4, 0)
  let lr := f 4
  let wd := f 20
  let add := uOp (uAdd fl)
  let sub := uOp (uSub fl)
  let mul := uOp (uMul fl)
  let w0 : UVal := (w, 0)
  let g0 : UVal := (g, 0)
  if fieldOf rc 0 1 = 0 then
    let m1 := add (mul (f 8) (m, 0)) g0
    let w1 := sub w0 (mul lr (add m1 (mul wd w0)))
    (w1.1, m1.1, v, w1.2)
  else
    let one : UVal := (0x3F800000, 0)
    let m1 := add (mul (f 8) (m, 0)) (mul (sub one (f 8)) g0)
    let v1 := add (mul (f 12) (v, 0)) (mul (sub one (f 12)) (mul g0 g0))
    let vc := mul v1 (f 28)
    let sq := uSqrt fl vc.1
    let den := add (sq.1, vc.2 ||| sq.2) (f 16)
    let w1 := sub w0 (mul lr (add (uOp (uDiv fl) (mul m1 (f 24)) den) (mul wd w0)))
    (w1.1, m1.1, v1.1, w1.2)

/-- A decoded value as an f32 word (R44, RNE): a signalling NaN gives the canonical one with INV, an integer that f32 does not hold NX. -/
def toWord (v : FVal) : Nat × Flags := FFmt.f32.encode ⟨0, 0, 0⟩ v

/-- The stored elements of tensor `i` that a group of `n` gradient elements from element `a` of row ρ needs. -/
def updPlace (q : Cmd) (i rho a : Nat) : List Nat × Nat :=
  let r := updRec q.rcd.toNat
  let b := q.bnd i i
  let b0 := q.bnd 0 0
  let k := rowCoord (q.desc i).rank q.coord r.e rho
  (k.set 0 ((k[0]?.getD 0 * b0.dlen + a) / b.dlen), b.dlen)

/-- The codeword gradients of a group (R257 `.cbg`): sums onto the words of G, in ascending element order. -/
def cbgAdd (ck : Nat) (q : Cmd) (k0 : Nat) (old : List Nat) (g : List Nat) : Op (List (Nat × Nat) × Flags) := do
  let h := q.head 0
  let base := (updRec q.rcd.toNat).aux
  let at0 (j e : Nat) : Nat :=
    base + 4 * ((h.block (k0 + j / h.dlen)) * h.count * h.dlen + (h.index (old.getD (j / h.dlen) 0)).1 * h.dlen + e)
  let rec go : Nat → List Nat → List (Nat × Nat) → Flags → Op (List (Nat × Nat) × Flags)
    | _, [], l, f => pure (l, f)
    | j, x :: xs, l, f => do
      let a := at0 j (j % h.dlen)
      let cur ← match l.find? fun p => p.1 = a with
        | some p => pure p.2
        | none => xAbRead ck .xs a 4
      let r := uAdd q.flush cur x
      go (j + 1) xs ((a, r.1) :: l.filter fun p => p.1 ≠ a) (f ||| r.2)
  go 0 g [] 0

/-- R257, R258: one update group, numbered in row order; all of it commits, or nothing of it. -/
def updGroup (ck : Nat) (q : Cmd) (no : Nat) : Op Flags := do
  let s ← getS
  let rq := xReq ck .xs s
  let rc := q.rcd.toNat
  let r := updRec rc
  let adam := decide (fieldOf rc 0 1 = 1)
  let per := (r.ext 0 + 63) / 64
  let rho := no / per
  let a := no % per * 64
  let n := min 64 (r.ext 0 - a)
  let is := if adam then [0, 1, 2] else [0, 1]
  let pl (i : Nat) : List Nat := (updPlace q i rho a).1
  let cnt (i : Nat) : Nat := n / (updPlace q i rho a).2
  opEach (fun i => do
    probeElems rq (q.desc i) (pl i) (cnt i) 1
    probeElems rq (q.desc i) (pl i) (cnt i) 2) is
  let mq := { rq with mark := some q.num }
  let olds ← opMap (fun i => readElems mq q.cls true (q.desc i) (pl i) (cnt i)) is
  let (gv, _) ← getRow ck mq q true 1 (q.buf + rho * strideOf r.rstr (4 * r.ext 0) + 4 * a) (4 * n)
  let vals ← opMap (fun x : Nat × List Elem =>
    decodeRow rq q.cls q.flush (q.bnd x.1 x.1) ((pl x.1)[0]?.getD 0) (x.2.map (·.1))) (is.zip olds)
  let words := vals.map fun x => x.1.map toWord
  let word (i j : Nat) : Nat := ((words.getD i []).getD j (0, 0)).1
  let g := splitBits 32 n gv
  let new := (enum g).map fun x => updElem q.flush rc (word 0 x.1) (word 1 x.1) (word 2 x.1) x.2
  let f := vals.foldl (fun f x => f ||| x.2) (new.foldl (fun f x => f ||| x.2.2.2) 0)
  let f := words.flatten.foldl (fun f x => f ||| x.2) f
  let pick (i : Nat) (x : Nat × Nat × Nat × Flags) : Nat := if i = 0 then x.1 else if i = 1 then x.2.1 else x.2.2.1
  let idx ← opMap (fun i => searchRow rq q.cls q.mode (q.bnd i i) ((pl i)[0]?.getD 0)
    (new.map fun x => updIn q.flush (pick i x))) is
  let (gs, gf) ← if q.opt = 1 then cbgAdd ck q ((pl 0)[0]?.getD 0) ((olds.getD 0 []).map (·.1)) g else pure ([], (0 : Flags))
  opEach (fun x : Nat × List Nat × Flags => writeElems rq q.cls (q.desc x.1) (pl x.1) (x.2.1.map fun i => (i, false, false)))
    (is.zip idx)
  opEach (fun p : Nat × Nat => xAbWrite ck p.1 4 p.2) gs
  pure (idx.foldl (fun f x => f ||| x.2) (f ||| gf))

/-! ### `xs.reidx` (R78 to R80, R260) -/

/-- The checks of its issue, and the command. A CBF field other than 0 for a source that does not follow traps once both descriptors
have been checked, and CB_SHAPE comes before a failure of the bindings. (log 33: DESIGN CHOICE) -/
def xsReidxIssue (h cc cbf rec : Nat) (s : State) : Op Unit := do
  xEnter .xs
  let v ← xRecord .xs rec 32
  let r := xrec v
  failIf (recBad v false false || decide (r.vfmt ≠ 0)) .xfRec
  let x ← xDesc .xs h 1
  let y ← xDesc .xs ((h + 1) % 16) 2
  let fol := bindFollow x.d.bind && decide (16 ≤ bindCb x.d.bind)
  failIf (!fol && decide (cbf ≠ 0)) .illRsv
  opEach (xRank cc r.e) [x, y]
  let x ← xHead .xs x
  let y ← xHead .xs y
  let base := xCoords s cc
  xBound x.d base r.e []
  xBound y.d base r.e []
  failIf (decide (bindCb x.d.bind ≠ bindCb y.d.bind ∨ bindIxw x.d.bind ≠ bindIxw y.d.bind)) .cbShape
  failIf (bindBad x.d.bind || bindBad y.d.bind) .cbDesc
  let b := x.d.bind
  let ps ← if bindCb b < 16 then pure []
    else
      let old := if fol then b % 2 ^ 29 + (cGet s cbf).toNat * 2 ^ 32 else b
      sampleAll (xReq s.ck .xs s) [old, b % 2 ^ 29 + 2 ^ 29]
  xIssue .xs { xCmd s .xs .reidx cc [x, y] v with pins := ps }

def execXsReidx (h cc cbf rec : Nat) : State → Host.Outcome State Fault Refusal :=
  run fun s => unitNext .xs false 1 (xsReidxIssue h cc cbf rec s) s

/-- R78, R79: one row re-indexed. -/
def reidxRow (ck : Nat) (q : Cmd) (rho : Nat) : Op Flags := do
  let s ← getS
  let rq := { xReq ck .xs s with mark := some q.num }
  let r := q.xr
  let k := rowCoord (q.desc 0).rank q.coord r.e rho
  let k' := rowCoord (q.desc 1).rank q.coord r.e rho
  let o := q.bnd 0 0
  let n := q.bnd 0 1
  let l ← readElems rq q.cls true (q.desc 0) k (r.ext 0)
  if o.cb < 16 ∨ o.pin.version = n.pin.version then
    writeElems rq q.cls (q.desc 1) k' l
    pure 0
  else
    let (xs, f) ← decodeRow rq q.cls q.flush o (k[0]?.getD 0) (l.map (·.1))
    let (idx, g) ← searchRow rq q.cls q.mode n (k[0]?.getD 0) xs
    writeElems rq q.cls (q.desc 1) k' (idx.map fun i => (i, false, false))
    pure (f ||| g)

/-- R79: the end of a re-index: BVER of a PINNED destination after a package-scope release, and no cached copy of its
descriptor. -/
def reidxEnd (ck : Nat) (q : Cmd) : Op Unit := do
  let d := q.desc 1
  if 16 ≤ bindCb d.bind ∧ bindFollow d.bind = false then
    upd fun s =>
      let part := (s.ctx ck).bind.part
      let s := release ck 2 allClasses s
      physWrite ((s.part part).active.ttab.toNat / 65536 * 65536 + 64 * d.index + 12) 4 (q.bnd 0 1).pin.version s
  upd fun s =>
    let part := (s.ctx ck).bind.part
    { s with cores := s.cores.map fun c => (c.1, { c.2 with units := c.2.units.map fun u =>
        { u with descs := u.descs.filter fun e => !decide (e.part = part ∧ e.desc = d.index) } }) }

/-! ### `xs.rinv` (R261) -/

/-- The checks of its issue, and the command. -/
def xsRinvIssue (h cc rec : Nat) (s : State) : Op Unit := do
  xEnter .xs
  let v ← xRecord .xs rec 32
  let r := xrec v
  failIf (recBad v false false || decide (r.vfmt ≠ 0)) .xfRec
  let x ← xTensor .xs h cc r.e 0 false
  xBound x.d (xCoords s cc) r.e []
  failIf (bindBad x.d.bind) .cbDesc
  xIssue .xs (xCmd s .xs .rinv cc [x] v)

def execXsRinv (h cc rec : Nat) : State → Host.Outcome State Fault Refusal :=
  run fun s => unitNext .xs false 1 (xsRinvIssue h cc rec s) s

/-- The cores (package numbers) of a partition (R407). -/
def State.partCores (s : State) (part : Nat) : List Nat :=
  (List.range 384).filter fun c => (getAt {} part (s.die (c / 48)).active).cores.getLsbD (c % 48)

/-- R261: one line dropped from every L1D and every L2 of the partition, cleaned first. -/
def dropLine (part line : Nat) (s : State) : State :=
  let s := (s.partCores part).foldl (fun s c => l1Drop c (fun l => decide (l.line = line)) s) s
  (List.range 8).foldl (fun s d => l2Drop d (fun l => decide (l.line = line ∧ l.owner = part)) s) s

/-- The lines of bytes `o … o + n − 1` of tile `t`; an absent tile has none. -/
def rinvBytes (q : Requester) (d : Desc) (t : Nat) : Nat → Nat → Nat → Op Unit
  | 0, _, _ => pure ()
  | fuel + 1, o, n => do
    if n = 0 then pure ()
    else
      let k := min n (128 - o % 128)
      let e ← readEntry q d t 0
      if teState e ≠ 1 then
        let key ← translate q d t o 0
        upd (dropLine q.part (key / 128))
      rinvBytes q d t fuel (o + k) (n - k)

/-- R261: a row of the box, and the scale bytes of its blocks. -/
def rinvRow (ck : Nat) (q : Cmd) (rho : Nat) : Op Flags := do
  let s ← getS
  let rq := xReq ck .xs s
  let d := q.desc 0
  let r := q.xr
  opEach (fun x : Nat × Nat × Nat => do
    let m := (x.2.1 % 8 + x.2.2 * d.width + 7) / 8
    rinvBytes rq d x.1 (m / 128 + 2) (x.2.1 / 8) m
    if isMx (bindCb d.bind) then
      let (b0, nb) := runBlocks d x.1 x.2.1 x.2.2
      opEach (fun j =>
        let y := d.scalet * 65536 + b0 + j
        rinvBytes rq d (y / 65536) 2 (y % 65536) 1) (List.range nb)) (rowRuns d (rowCoord d.rank q.coord r.e rho) (r.ext 0))
  pure 0

/-! ### The commands of XS, and completion (R242) -/

/-- The body of an XS command, from its progress point. -/
def xsBody (ck : Nat) (q : Cmd) : Op Unit :=
  let r := q.xr
  let loop (n : Nat) (f : Nat → Cmd → Nat → Op Flags) : Op Unit := rowsOf ck .xs q.num n (f ck)
  match q.op with
  | .st => loop r.rows stRow
  | .stash => loop (r.ext 1 + if q.stashMx then r.ext 0 else 0) stashRow
  | .topk => loop (r.ext 1) topkRow
  | .upd =>
    let g := updRec q.rcd.toNat
    loop (g.rows * ((g.ext 0 + 63) / 64)) updGroup
  | .scatter => loop (r.ext 1) scatterRow
  | .reidx => do loop r.rows reidxRow; reidxEnd ck q
  | .rinv => loop r.rows rinvRow
  | _ => pure ()

/-- What an XS command's body left: an uncorrectable error in a line that it read ends `xs.reidx` with the error bit (R80), and ends
`xs.upd` so and stops the context too (R258); one in a descriptor or a tile entry stops the context (R387). -/
def xsEnd (ck : Nat) (q : Cmd) (r : Except Stop Unit × State) : State :=
  match r with
  | (.error (.trap .memUe code fa au el), t) =>
    if !((findCmd ck .xs q.num t).map (·.err)).getD false then cmdEnd ck .xs q.num r
    else if q.op = .reidx then cmdComplete ck .xs q.num t
    else if q.op = .upd then
      takeTrap ck .xs .memUe code fa au el true (cmdComplete ck .xs q.num t)
    else cmdEnd ck .xs q.num r
  | _ => cmdEnd ck .xs q.num r

/-- R242: a command of XL (unit 3) or XS (unit 4) runs from its progress point as far as it can, and completes. A fill reads its
table (R303). An expansion whose slots are being filled reads its index data (R304). -/
def execXlXsCommandComplete (core slot unit num : Nat) : State → Host.Outcome State Fault Refusal :=
  run fun s =>
    let ck := core * 4 + slot
    let u : StreamId := if unit = 4 then .xs else .xl
    match findCmd ck u num s with
    | none => s
    | some q =>
      if q.op = .case then fillRead ck num s
      else if !cmdMayRun ck u q s then
        if q.op = .expand ∧ q.since = 0 ∧ q.halted = none ∧ (s.ctx ck).active ∧ q.prog = 0
            ∧ ((s.ctx ck).r.xlQ.takeWhile fun y => y.num ≠ num).any (fun y => y.op = .case && conflict y.ranges q.ranges) then
          match runOp (expandData ck q) s with
          | (.ok _, t) => t
          | r => cmdEnd ck .xl num r
        else s
      else
        let s := modCmd ck u num (fun q => { q with wait := none }) s
        if u = .xs then xsEnd ck q (runOp (xsBody ck q) s) else cmdEnd ck u num (runOp (xlBody ck q) s)

end Sys2Proof.Machine
end

