-- ==== Sys2Proof/Machine/XStream.lean ====
section
/-!
DEFINITION. The control words that XL and XS share (R262, R266 to R270): barrier objects, c- and h-register arithmetic,
branches and loops, sync words, control registers and system words. Each acts on the stream that runs it.
-/
namespace Sys2Proof.Machine
open Sys2Proof

/-- A control word of the running transfer stream that goes on at the next address. -/
def xWord (imm : Bool) (o : Op Unit) (s : State) : State := unitNext s.xu imm 0 o s

/-- A word that writes `f` of the state to c[cd] (R267). -/
def cWrite (imm : Bool) (cd : Nat) (f : State → BitVec 32) (s : State) : State :=
  xWord imm (upd fun t => cSet cd (f t) t) s

/-- A two-operand word of R267. -/
def cAlu (f : BitVec 32 → BitVec 32 → BitVec 32) (cd ca cb : Nat) (s : State) : State :=
  cWrite false cd (fun t => f (cGet t ca) (cGet t cb)) s

/-! ### Barrier objects (R262) -/

/-- The unit code of the running transfer stream (R398). -/
def State.xUnit (s : State) : Nat := if s.xu = .xs then 4 else 3

def execXlsBarInit (ca cb : Nat) : State → Host.Outcome State Fault Refusal :=
  run fun s => xWord false (barInit s.ck s.xUnit (cGet s ca).toNat (cGet s cb).toNat) s

/-- R262: the acquire of the later commands has no cache action at core scope (R316). -/
def execXlsBarWait (cd ca : Nat) : State → Host.Outcome State Fault Refusal :=
  run fun s => xWord false (do
    let p ← barWait s.ck s.xUnit (cGet s ca).toNat
    upd (cSet cd (BitVec.ofNat 32 p))) s

/-! ### c- and h-registers (R267) -/

def execCAdd (cd ca cb : Nat) : State → Host.Outcome State Fault Refusal := run (cAlu (fun a b => a + b) cd ca cb)
def execCSub (cd ca cb : Nat) : State → Host.Outcome State Fault Refusal := run (cAlu (fun a b => a - b) cd ca cb)
def execCMul (cd ca cb : Nat) : State → Host.Outcome State Fault Refusal := run (cAlu (fun a b => a * b) cd ca cb)
def execCAnd (cd ca cb : Nat) : State → Host.Outcome State Fault Refusal := run (cAlu (fun a b => a &&& b) cd ca cb)
def execCOr (cd ca cb : Nat) : State → Host.Outcome State Fault Refusal := run (cAlu (fun a b => a ||| b) cd ca cb)
def execCXor (cd ca cb : Nat) : State → Host.Outcome State Fault Refusal := run (cAlu (fun a b => a ^^^ b) cd ca cb)
def execCSll (cd ca cb : Nat) : State → Host.Outcome State Fault Refusal :=
  run (cAlu (fun a b => a <<< (b.toNat % 32)) cd ca cb)
def execCSrl (cd ca cb : Nat) : State → Host.Outcome State Fault Refusal :=
  run (cAlu (fun a b => a >>> (b.toNat % 32)) cd ca cb)
def execCSra (cd ca cb : Nat) : State → Host.Outcome State Fault Refusal :=
  run (cAlu (fun a b => a.sshiftRight (b.toNat % 32)) cd ca cb)
def execCMin (cd ca cb : Nat) : State → Host.Outcome State Fault Refusal := run (cAlu (fun a b => bvMin a b) cd ca cb)
def execCMax (cd ca cb : Nat) : State → Host.Outcome State Fault Refusal := run (cAlu (fun a b => bvMax a b) cd ca cb)
def execCMinu (cd ca cb : Nat) : State → Host.Outcome State Fault Refusal := run (cAlu (fun a b => bvMinu a b) cd ca cb)
def execCMaxu (cd ca cb : Nat) : State → Host.Outcome State Fault Refusal := run (cAlu (fun a b => bvMaxu a b) cd ca cb)
def execCSlt (cd ca cb : Nat) : State → Host.Outcome State Fault Refusal := run (cAlu (fun a b => bit (a.slt b)) cd ca cb)
def execCSltu (cd ca cb : Nat) : State → Host.Outcome State Fault Refusal := run (cAlu (fun a b => bit (a.ult b)) cd ca cb)

def execCLc (cd lev : Nat) : State → Host.Outcome State Fault Refusal :=
  run fun s => xWord false (do
    failIf (!s.c.r.hasLevel lev) .loopLev
    upd (cSet cd (vget 0 s.c.r.lc lev))) s

def execCIt (cd lev : Nat) : State → Host.Outcome State Fault Refusal :=
  run fun s => xWord false (do
    failIf (!s.c.r.hasLevel lev) .loopLev
    upd (cSet cd (vget 0 (s.c.stream s.xu).iter lev))) s

/-- R267: h[hd] := c[ca]. -/
def execHMv (cd ca : Nat) : State → Host.Outcome State Fault Refusal :=
  run (xWord false (upd fun t => hSet cd (cGet t ca) t))

/-- R267: c[cd] := h[ha]. -/
def execCHmv (cd ca : Nat) : State → Host.Outcome State Fault Refusal :=
  run (cWrite false cd fun t => hGet t ca)

/-- R267, R101: the immediate is the signed field, or the extended one. -/
def execCAddi (cd ca imm : Nat) : State → Host.Outcome State Fault Refusal :=
  run fun s => cWrite true cd (fun t => cGet t ca + BitVec.ofInt 32 ((s.c.stream s.xu).imm 16 imm true)) s

def execCLui (cd imm : Nat) : State → Host.Outcome State Fault Refusal :=
  run (cWrite false cd fun _ => BitVec.ofNat 32 (imm * 65536))

def execHLi (cd imm : Nat) : State → Host.Outcome State Fault Refusal :=
  run (xWord false (upd fun t => hSet cd (BitVec.ofNat 32 imm) t))

/-! ### Branches and loops (R268) -/

/-- R268: the target is the word's own address + 4 × OFF16. -/
def cBranch (cond : BitVec 32 → BitVec 32 → Bool) (ca cb off : Nat) (s : State) : State :=
  unitStep s.xu false 0 (pure (if cond (cGet s ca) (cGet s cb) then wordTarget (s.c.stream s.xu).at 16 off
    else (s.c.stream s.xu).next)) s

def execCBeq (ca cb off : Nat) : State → Host.Outcome State Fault Refusal := run (cBranch (fun a b => decide (a = b)) ca cb off)
def execCBne (ca cb off : Nat) : State → Host.Outcome State Fault Refusal := run (cBranch (fun a b => decide (a ≠ b)) ca cb off)
def execCBltu (ca cb off : Nat) : State → Host.Outcome State Fault Refusal := run (cBranch (fun a b => a.ult b) ca cb off)
def execCBgeu (ca cb off : Nat) : State → Host.Outcome State Fault Refusal := run (cBranch (fun a b => !a.ult b) ca cb off)

def execXlsLbr (lev off : Nat) : State → Host.Outcome State Fault Refusal := run fun s => lbrWord s.xu lev off s

/-! ### Sync words (R269) -/

/-- R269: waits until every command that the stream issued has completed, then signals; their writes stand at core scope. -/
def execXlsSemSig (sem : Nat) : State → Host.Outcome State Fault Refusal :=
  run fun s =>
    if (s.c.stream s.xu).unfit false 0 then takeTrap s.ck s.xu .illPfx 0 0 0 0 true s
    else if s.c.r.workDone s.xu then signalWord s.xu sem s
    else blockOn s.ck s.xu .cmds s

def execXlsSemWait (sem : Nat) : State → Host.Outcome State Fault Refusal :=
  run (xWord false (do
    let s ← getS
    if !s.semFree s.ck s.xu sem then waitFor (.sem sem)
    upd (semTake s.ck sem)))

def execXlsTlWait (tl ca : Nat) : State → Host.Outcome State Fault Refusal :=
  run (xWord false (do
    let s ← getS
    if (s.timeline s.ck tl).done.toNat < (cGet s ca).toNat then waitFor (.tl tl (cGet s ca).toNat)))

/-! ### Control registers and system words (R266, R270) -/

def execXlsCrRd (cr csel : Nat) : State → Host.Outcome State Fault Refusal :=
  run (cWrite false cr fun t => (crRead t t.xu csel).setWidth 32)

def execXlsCrRdHi (cr csel : Nat) : State → Host.Outcome State Fault Refusal :=
  run (cWrite false cr fun t => (crRead t t.xu csel >>> 32).setWidth 32)

def execXlsCrWr (cr csel : Nat) : State → Host.Outcome State Fault Refusal :=
  run fun s => xWord false (do
    failIf (crBad csel (cGet s cr).toNat) .crValue
    upd (crWrite s.ck s.xu csel (cGet s cr).toNat)) s

def execXlsEnd : State → Host.Outcome State Fault Refusal := run fun s => endWord s.xu s

def execXlsTrap (code : Nat) : State → Host.Outcome State Fault Refusal := run fun s => trapWord s.xu code s

/-- R270: gives up the issue slot of the next cycle; no architectural state but the PC changes. -/
def execXlsYield : State → Host.Outcome State Fault Refusal := run (xWord false (do upd (yieldSlot (← getS).xu)))

end Sys2Proof.Machine
end

