-- ==== Sys2Proof/Machine/Cle.lean ====
section
/-!
DEFINITION. CLE, the collective engine (R263 to R265, R446): `xs.coll`, the chunk messages between members, timeouts and
completion.
-/
namespace Sys2Proof.Machine
open Sys2Proof

/-! ### Group tables (R264) -/

/-- The member of rank `r` in a group entry: package, partition, die. -/
def groupMember (v r : Nat) : Nat × Nat × Nat :=
  (fieldOf v (16 + 8 * r) 1, fieldOf v (17 + 8 * r) 1, fieldOf v (18 + 8 * r) 1)

def groupMembers (v : Nat) : List (Nat × Nat × Nat) := (List.range (min (fieldOf v 0 2) 256)).map (groupMember v)

/-- R264: whether a group entry ends a collective of this die, partition and world with status GROUP. -/
def groupBad (s : State) (die part : Nat) (secure : Bool) (v : Nat) : Bool :=
  let m := fieldOf v 0 2
  let rank := fieldOf v 2 2
  let fl := fieldOf v 4 1
  decide (fl % 2 = 0) || decide (m = 0 ∨ 256 < m) || decide (m ≤ rank)
    || decide (groupMember v rank ≠ (s.pkg.num.toNat, part, die))
    || decide (fl / 4 ≠ 0) || decide (fieldOf v 5 11 ≠ 0)
    || (List.range (min m 256)).any (fun r => decide (fieldOf v (19 + 8 * r) 5 ≠ 0))
    || decide (fieldOf v (16 + 8 * m) (4080 - 8 * m) ≠ 0)
    || (groupMembers v).any (fun x => !s.isMember x.1)
    || !decide (groupMembers v).Nodup
    || (decide (fl / 2 % 2 = 1) != secure)

/-- The group that a collective names: its members and rank, or nothing for status GROUP. -/
def readGroup (ck g : Nat) : Op (Option (List (Nat × Nat × Nat) × Nat)) := do
  let s ← getS
  let c := s.ctx ck
  let t := s.mcSet (dieOf ck) c.bind.part
  if t.cleCount.toNat ≤ g then pure none
  else
    let a := t.cleBase.toNat * 4096 + 4096 * g
    let (v, p, s') := physRead a 4096 s
    upd fun _ => s'
    memUeIf ck 10 a p
    if groupBad s' (dieOf ck) c.bind.part c.bind.secure v then pure none
    else pure (some (groupMembers v, fieldOf v 2 2))

/-! ### `xs.coll` (R263) -/

/-- The bytes of an element: the lattice format, else one byte for an index or an MX element (log 19: DEDUCED). -/
def collElem (b : Nat) : Nat := if bindCb b < 16 ∧ ¬ isMx (bindCb b) then latticeWidth (bindCb b) / 8 else 1

/-- Whether a kind reduces. -/
def collReduces (kind : Nat) : Bool := decide (kind = 0 ∨ kind = 2)

/-- R263: the record's own checks. -/
def collBad (v : Nat) : Bool :=
  decide (3 < fieldOf v 0 1) || (collReduces (fieldOf v 0 1) && decide (2 < fieldOf v 1 1)) || decide (fieldOf v 24 8 ≠ 0)
    || decide (fieldOf v 8 8 = 0) || decide (fieldOf v 20 4 = 0)

def collChunks (count : Nat) : Nat := (count + 65535) / 65536

/-- R263: posts a collective; it waits for queue room as every command, and CLE has it at once (log 19: DEDUCED). A learned binding gives
CB_KIND before a failure of GROUP (log 33: DESIGN CHOICE). -/
def xsCollIssue (h rec : Nat) (s : State) : Op Unit := do
  xEnter .xs
  let v ← xRecord .xs rec 32
  failIf (collBad v) .xfRec
  let q := xReq s.ck .xs s
  let hh := (hGet s h).toNat
  let hh1 := (hGet s ((h + 1) % 16)).toNat
  let d ← lookupDesc q hh 1
  let raw ← readDesc q (hh % 65536) 1
  let e ← lookupDesc q hh1 2
  let raw1 ← readDesc q (hh1 % 65536) 2
  let n := fieldOf v 8 8
  failIf (decide (n % collElem e.bind ≠ 0)) .xfRec
  failIf (!inWindow s.c 0 (fieldOf v 16 4) (4 + collChunks n)) .bufRange
  failIf (bindBad d.bind || bindBad e.bind) .cbDesc
  let kind := fieldOf v 0 1
  let g ← if s.c.bind.secure ∧ ¬ s.pkg.world.clew.getLsbD (dieOf s.ck) then pure none else readGroup s.ck (fieldOf v 2 2)
  let status := if collReduces kind ∧ (16 ≤ bindCb d.bind ∨ 16 ≤ bindCb e.bind) then 3 else if g.isNone then 4 else 0
  let st := s.c.stream .xs
  let t ← getS
  let (num, t') := tlIssue s.ck 7 t
  upd fun _ => t'.modRegs s.ck fun r => { r with coll := r.coll ++ [{
    num := num, cls := st.accCls, kind := kind, rop := fieldOf v 1 1, root := fieldOf v 4 4, count := n,
    stat := fieldOf v 16 4, h := d.index, h1 := e.index, desc := BitVec.ofNat 512 raw, desc1 := BitVec.ofNat 512 raw1,
    rmode := st.rmode, flush := st.flush, die := dieOf s.ck, rank := (g.map (·.2)).getD 0, members := (g.map (·.1)).getD [],
    status := status, chunks := List.replicate (collChunks n) {}, after := (t'.timeline s.ck 1).issued.toNat }] }

def execXsColl (h rec : Nat) : State → Host.Outcome State Fault Refusal :=
  run fun s => unitNext .xs false 1 (xsCollIssue h rec s) s

/-! ### Ends (R446) -/

/-- Whether nothing of a collective is left to do. -/
def Coll.done (c : Coll) : Bool := decide (c.status = 3 ∨ c.status = 4) || c.chunks.all fun y => decide (y.state = 1 ∨ y.state = 2)

/-- Whether a collective has ended PARTIAL or MIGRATED and is still to be counted. -/
def Coll.due (c : Coll) : Bool := !c.counted && c.done && decide (c.status = 1 ∨ c.status = 2)

/-- R446: such a collective counts once, on the die it was issued on. -/
def countColl (c : Coll) (s : State) : State := if c.due then countDie c.die 5 1 s else s

/-- The collectives that CLE keeps for saved contexts count as they end (R400). -/
def countHeld (s : State) : State :=
  let t := (s.cle.flatMap (·.coll)).foldl (fun s c => countColl c s) s
  { t with cle := t.cle.map fun h => { h with coll := h.coll.map fun c => { c with counted := c.counted || c.due } } }

/-! ### Chunks -/

/-- Whether a slot's own context has posted a collective. -/
def State.collLive (s : State) (ck num : Nat) : Bool := (s.ctx ck).r.coll.any fun c => decide (c.num = num)

/-- What CLE keeps of a saved context with a collective of a number, posted on a slot (R400). -/
def State.cleHold (s : State) (ck num : Nat) : Option CleHold :=
  if s.collLive ck num then none else s.cle.find? fun h => decide (h.key = ck) && h.coll.any fun c => decide (c.num = num)

/-- Changes a collective of the slot's context, or of the saved one that CLE keeps. -/
def modColl (ck num : Nat) (f : Coll → Coll) (s : State) : State :=
  let one (c : Coll) : Coll := if c.num = num then f c else c
  match s.cleHold ck num with
  | some h => { s with cle := s.cle.map fun x => if x.save = h.save then { x with coll := x.coll.map one } else x }
  | none => s.modRegs ck fun r => { r with coll := r.coll.map one }

def modChunk (ck num k : Nat) (f : Chunk → Chunk) : State → State :=
  modColl ck num fun c => { c with chunks := (enum c.chunks).map fun x => if x.1 = k then f x.2 else x.2 }

def findColl (ck num : Nat) (s : State) : Option Coll :=
  match s.cleHold ck num with
  | some h => h.coll.find? fun c => c.num = num
  | none => (s.ctx ck).r.coll.find? fun c => c.num = num

/-- The requester of CLE for a collective (R265): it uses no layout unit's cache. -/
def cleReq (ck num : Nat) (s : State) : Requester :=
  match s.cleHold ck num with
  | some h => { ck := ck, ui := 4, unit := 10, part := h.part, secure := h.secure }
  | none => s.requester ck 4 10

/-- The registers that order a collective against the XS commands of its context. -/
def CleHold.regs (h : CleHold) (s : State) : Regs := { getAt {} h.save s.saves with coll := h.coll }

/-- R235, R283: whether an earlier XS command or collective holds a collective back. -/
def State.collWaits (s : State) (ck num : Nat) (c : Coll) : Bool :=
  match s.cleHold ck num with
  | some h => (h.regs s).collHeld c
  | none => (s.ctx ck).r.collHeld c

/-- The bytes of chunk `k` of a member. -/
def Coll.chunkBytes (c : Coll) (k : Nat) : Nat := min 65536 (c.count - 65536 * k)

/-- The member that reduces chunk `k` (R446). -/
def Coll.reducer (c : Coll) (k : Nat) : Nat := k % max c.members.length 1

/-- Whether the member of rank `r` has a part to send: for a broadcast only the source. -/
def Coll.sends (c : Coll) (r : Nat) : Bool := decide (c.kind ≠ 3 ∨ r = c.root)

/-- The ranks whose parts a chunk needs (the complete contributor mask). A broadcast whose ROOT names no member needs none: the mask is
complete, and the chunk has zero bytes (log 33: DESIGN CHOICE). -/
def Coll.needs (c : Coll) : List Nat := (List.range c.members.length).filter fun r => c.sends r

/-- The bytes of a chunk's result. -/
def Coll.resultBytes (c : Coll) (k : Nat) : Nat := if c.kind = 1 then c.members.length * c.chunkBytes k else c.chunkBytes k

/-- The bytes of a tensor's storage, tile after tile: beyond them an access is TX_BOUND. -/
def Desc.storeBytes (d : Desc) : Nat :=
  if d.tiled then 65536 * d.elemTiles
  else
    let n := d.dims.foldl (· * ·) 1
    65536 * (n / d.perTile) + (n % d.perTile * d.width + 7) / 8

/-- Whether every line of a run of tensor bytes translates for an access. -/
def cleProbe (q : Requester) (d : Desc) (b n acc : Nat) : Op Unit := do
  if d.storeBytes < b + n then trapAt .txBound (d.index * 2 ^ 48 + b / 65536)
  opEach (fun i =>
    let lo := if i = 0 then b % 65536 else 0
    let t := b / 65536 + i
    let hi := min 65536 (b + n - 65536 * t)
    tileProbe q d t acc (hi / 128 + 2) lo (hi - lo)) (List.range ((b + n + 65535) / 65536 - b / 65536))

/-- The bytes of a number, lowest first. -/
def bytesOf (n v : Nat) : List (BitVec 8) := (List.range n).map fun i => BitVec.ofNat 8 (v / 2 ^ (8 * i))

/-- A little-endian number of bytes. -/
def numOf (l : List (BitVec 8)) : Nat := l.foldr (fun b v => b.toNat + 256 * v) 0

/-- The mask of poisoned bytes from the poisoned 64-bit words of a run of `n` bytes. -/
def wordsMask (n : Nat) (l : List Nat) : Nat := l.foldl (fun m w => m ||| ((2 ^ 8 - 1) * 2 ^ (8 * w))) 0 % 2 ^ n
def maskToWords (n m : Nat) : List Nat := maskWords 0 n m

/-- What a failed access of CLE does to its chunk (R265): a translation fault leaves it waiting, a failed translation leaves it
incomplete with status FAULT; an uncorrectable error in the data stops the context (R448). A context that does not run waits for no
page request, and a saved one is not there to stop (log 19: DEDUCED). -/
def chunkStop (ck num k : Nat) (data : Bool) (x : Stop) (t : State) : State :=
  let fail (t : State) : State :=
    modColl ck num (fun c => { c with status := 5 }) (modChunk ck num k (fun y => { y with state := 2, halted := none }) t)
  let here := (t.ctx ck).active && t.collLive ck num
  match x with
  | .halt h => if !here && (decide (h.why = 0) || decide (h.why = 3)) then fail t else modChunk ck num k (fun y => { y with halted := some h }) t
  | .wait _ => t
  | .trap c code fa au el => if data && t.collLive ck num then stopContext ck none c code fa au el true t else fail t

/-- R421, R444: a chunk leaves for a package over an UP port, and a secure one over secure ports alone; its lines are spread over
them. -/
def chunkRoute (q : Requester) (d : Desc) (k pkg : Nat) : Op Unit := do
  let s ← getS
  if pkg ≠ s.pkg.num.toNat then
    let ports := s.upPorts pkg
    if ports.isEmpty then haltOn d k 1 4 0
    if q.secure && ports.any fun p => !s.pkg.world.portw.getLsbD p then stopAt .txWorld d k

/-! ### Reductions (R263, R50) -/

/-- One step of a float reduction in f32: both operands are f32 values, flushed as such (R50). -/
def collStep (rop : Nat) (fl : BitVec 6) (a : Nat × Flags) (v : FVal) : Nat × Flags :=
  let x := FFmt.f32.read fl a.1
  let r := fltOut ⟨0, fl, 0⟩ .f32 (if rop = 0 then fAdd 0 x (in32 fl v) else fPick (decide (rop = 2)) x (in32 fl v))
  (r.1, a.2 ||| r.2)

/-- One float element: the members' values in rank order, then the conversion to the element format. -/
def collFloat (c : Coll) (f : FFmt) (vs : List Nat) : Nat × Flags :=
  let n : NumMode := NumMode.rne ⟨c.rmode, c.flush, 0⟩
  match vs.map (f.read c.flush) with
  | [] => (0, 0)
  | x :: r =>
    let a := r.foldl (collStep c.rop c.flush) (FFmt.f32.encode ⟨0, 0, 0⟩ x)
    let e := f.encode n (FFmt.f32.read c.flush a.1)
    (e.1, a.2 ||| e.2)

/-- One integer element. -/
def collInt (c : Coll) (w : Nat) (signed : Bool) (vs : List Nat) : Nat × Flags :=
  match vs.map (readInt w signed) with
  | [] => (0, 0)
  | x :: r =>
    let y := if c.rop = 0 then clampInt w signed (r.foldl (· + ·) x)
      else (r.foldl (fun a b => if c.rop = 1 then min a b else max a b) x, false)
    (wrapInt w y.1, flagIf y.2 fOF)

/-- The float format of a lattice codebook. -/
def latticeFlt (cb : Nat) : Option FFmt := match cb with
  | 0 => some .f32 | 1 => some .f16 | 2 => some .bf16 | 3 => some .e4m3 | 4 => some .e5m2 | _ => none

/-- The result of a reduced chunk of `n` bytes from the parts in rank order; for an MX element format the spec states no
value, so the bytes are drawn (log 19: DEDUCED). -/
def collReduce (c : Coll) (n : Nat) (parts : List Nat) (s : State) : List (BitVec 8) × Flags × State :=
  let cb := bindCb (descOf c.h1 c.desc1.toNat).bind
  if isMx cb then
    let (x, s) := s.draw
    (bytesOf n x, 0, s)
  else
    let w := latticeWidth cb
    let r := (List.range (8 * n / w)).map fun i =>
      let vs := parts.map fun p => p / 2 ^ (w * i) % 2 ^ w
      match latticeFlt cb with
      | some f => collFloat c f vs
      | none => collInt c w (decide (cb < 12)) vs
    (bytesOf n (joinBits w (r.map (·.1))), r.foldl (fun f x => f ||| x.2) 0, s)

/-- The parts of a chunk in rank order. -/
def Chunk.inOrder (y : Chunk) (c : Coll) : List (List (BitVec 8) × List Nat) :=
  c.needs.filterMap fun r => (y.parts.find? fun p => p.1 = r).map (·.2)

/-- R446: the result of a chunk whose contributor mask is complete goes to every member. -/
def collSend (ck num k : Nat) (c : Coll) (y : Chunk) (s : State) : State :=
  let n := c.chunkBytes k
  let ps := y.inOrder c
  let (bytes, f, s) := if collReduces c.kind then collReduce c n (ps.map fun p => numOf p.1) s
    else ((ps.map (·.1)).flatten, 0, s)
  let pz := if collReduces c.kind then []
    else maskToWords (n * ps.length) ((enum ps).foldl (fun m p => m ||| (wordsMask n p.2.2 * 2 ^ (n * p.1))) 0)
  let s := modColl ck num (fun c => { c with flags := c.flags ||| f }) s
  let s := modChunk ck num k (fun y => { y with state := 3, result := bytes, rpoison := pz }) s
  ((enum c.members).filter fun x => x.1 ≠ c.rank).foldl (fun s x => s.modPkg fun p => { p with
    out := p.out ++ [.chunk x.2.1 x.2.2.1 x.2.2.2 num k c.rank true bytes pz] }) s

/-- Whether every part of a chunk that its result needs is here. -/
def Coll.complete (c : Coll) (y : Chunk) : Bool := c.needs.all fun r => y.parts.any fun p => decide (p.1 = r)

/-- The result of a chunk, once its mask is complete and every other member can be reached. -/
def collResult (ck num k : Nat) (s : State) : State :=
  match findColl ck num s with
  | none => s
  | some c =>
    match c.chunks[k]? with
    | none => s
    | some y =>
      if y.state ≠ 0 ∨ !c.complete y then s
      else
        match runOp (opEach (fun x : Nat × Nat × Nat => chunkRoute (cleReq ck num s) (descOf c.h1 c.desc1.toNat) k x.1) c.members) s with
        | (.error x, t) => chunkStop ck num k false x t
        | (.ok _, t) => collSend ck num k c y t

/-- This member reads its part of a chunk and sends it to the member that reduces it. -/
def collOwnPart (ck num k : Nat) (c : Coll) (s : State) : State :=
  let q := cleReq ck num s
  let d := descOf c.h c.desc.toNat
  let n := c.chunkBytes k
  let dest := c.members[c.reducer k]?
  let ready : Op Unit := do
    match dest with
    | some x => chunkRoute q d k x.1
    | none => pure ()
    cleProbe q d (65536 * k) n 1
  match runOp ready s with
  | (.error x, t) => chunkStop ck num k false x t
  | (.ok _, t) =>
    match runOp (spanRead q c.cls 1 (collReduces c.kind) (n / 128 + 2) (.mem d (65536 * k)) n) t with
    | (.error x, t) => chunkStop ck num k true x t
    | (.ok (v, m), t) =>
      let part := (c.rank, bytesOf n v, maskToWords n m)
      let t := modChunk ck num k (fun y => { y with parts := y.parts ++ [part] }) t
      if c.reducer k = c.rank then collResult ck num k t
      else match dest with
        | none => t
        | some x => t.modPkg fun p => { p with out := p.out ++ [.chunk x.1 x.2.1 x.2.2 num k c.rank false part.2.1 part.2.2] }

/-- Where the result of a chunk lands at this member: pieces (destination byte, offset in the result, length). A
reduce-scatter's chunk lands at the member that reduces it (log 19: DEDUCED). -/
def Coll.places (c : Coll) (k : Nat) : List (Nat × Nat × Nat) :=
  let n := c.chunkBytes k
  match c.kind with
  | 0 => if c.reducer k = c.rank then [(65536 * k, 0, n)] else []
  | 1 => (List.range c.members.length).map fun r => (r * c.count + 65536 * k, r * n, n)
  | _ => [(65536 * k, 0, n)]

/-- R263: writes a chunk's destination bytes, once every line of them translates. -/
def collWrite (ck num k : Nat) (c : Coll) (y : Chunk) (s : State) : State :=
  let q := cleReq ck num s
  let d := descOf c.h1 c.desc1.toNat
  let v := numOf y.result
  let m := wordsMask (c.resultBytes k) y.rpoison
  match runOp (opEach (fun p : Nat × Nat × Nat => cleProbe q d p.1 p.2.2 2) (c.places k)) s with
  | (.error x, t) => chunkStop ck num k false x t
  | (.ok _, t) =>
    match runOp (opEach (fun p : Nat × Nat × Nat => spanWrite q c.cls (p.2.2 / 128 + 2) (.mem d p.1) p.2.2
        (v / 2 ^ (8 * p.2.1) % 2 ^ (8 * p.2.2)) (m / 2 ^ p.2.1 % 2 ^ p.2.2)) (c.places k)) t with
    | (.error x, t) => chunkStop ck num k false x t
    | (.ok _, t) => countHeld (modChunk ck num k (fun y => { y with state := 1 }) t)

/-! ### The events of CLE -/

/-- R446: a part (`result` false) of member `rank`, or the result of the member that reduces the chunk, arrives at this CLE.
With this member's own rank it is its own step: reading its part, sending the result that is due, or writing the result it holds. CLE
goes on while its context is halted or saved (R400). A chunk that waits for an access of its own makes no step of its own, and takes what
the other members send. -/
def execCleChunkMessage (core slot num chunk rank : Nat) (result : Bool) (bytes : List (BitVec 8)) (poison : List Nat) :
    State → Host.Outcome State Fault Refusal :=
  run fun s =>
    let ck := core * 4 + slot
    match findColl ck num s with
    | none => s
    | some c =>
      match c.chunks[chunk]? with
      | none => s
      | some y =>
        if 3 ≤ c.status ∧ c.status ≠ 5 ∨ (rank = c.rank ∧ y.halted.isSome) then s
        else if result then
          if rank = c.rank then
            if y.state = 3 ∧ ¬ s.collWaits ck num c then collWrite ck num chunk c y s else s
          else if y.state = 0 ∧ rank = c.reducer chunk ∧ bytes.length = c.resultBytes chunk then
            modChunk ck num chunk (fun y => { y with state := 3, result := bytes, rpoison := poison }) s
          else s
        else if y.state ≠ 0 then s
        else if rank = c.rank then
          if s.collWaits ck num c then s
          else if c.needs.contains rank ∧ ¬ y.parts.any (fun p => p.1 = rank) then collOwnPart ck num chunk c s
          else if c.reducer chunk = c.rank then collResult ck num chunk s
          else s
        else if ¬ y.parts.any (fun p => p.1 = rank) ∧ c.needs.contains rank ∧ c.reducer chunk = c.rank
            ∧ bytes.length = c.chunkBytes chunk then
          collResult ck num chunk
            (modChunk ck num chunk (fun y => { y with parts := y.parts ++ [(rank, bytes, poison)] }) s)
        else s

/-- The chunks that still lack a member become incomplete, with a status unless the collective has failed. -/
def collGiveUp (ck num status : Nat) (s : State) : State :=
  countHeld (modColl ck num (fun c =>
    if c.chunks.any fun y => y.state = 0 then
      { c with
        status := if c.status = 0 then status else c.status
        chunks := c.chunks.map fun y => if y.state = 0 then { y with state := 2, halted := none } else y }
    else c) s)

/-- R263: the member timeout. -/
def execCleMemberTimeout (core slot num : Nat) : State → Host.Outcome State Fault Refusal :=
  run (collGiveUp (core * 4 + slot) num 1)

/-- R263, R59: a collective ends: its status area, its flags, then its counter. -/
def collEnd (ck : Nat) (c : Coll) (s : State) : State :=
  let s := winWrite ck 0 c.stat 4 c.status s
  let s := if c.status = 3 ∨ c.status = 4 then s
    else (enum c.chunks).foldl (fun s y => winWrite ck 0 (c.stat + 4 + y.1) 1 (if y.2.state = 2 then 1 else 0) s) s
  let s := countColl c s
  let s := addFlags ck c.flags s
  tlComplete ck 7 c.num (decide (c.status ≠ 0)) (s.modRegs ck fun r => { r with coll := r.coll.filter fun x => x.num ≠ c.num })

def execCleCollectiveComplete (core slot num : Nat) : State → Host.Outcome State Fault Refusal :=
  run fun s =>
    let ck := core * 4 + slot
    match (s.ctx ck).r.coll.find? fun c => c.num = num with
    | none => s
    | some c => if (s.ctx ck).active ∧ c.done ∧ ¬ (s.ctx ck).r.collHeld c then collEnd ck c s else s

/-- Whether a halted access waits on a page request: of the driver or of the host (R390, R392). -/
def Halted.onPage (h : Halted) : Bool := decide (h.why = 0 ∨ h.why = 3)

/-- R265: at a halt, a chunk that waits on a page request is left incomplete and its collective ends with FAULT. One that waits for a tile
on the move, an address translation or a route waits on (R436, R444). -/
def Coll.abandonWaits (c : Coll) : Coll :=
  let waits (y : Chunk) : Bool := y.halted.any Halted.onPage
  if c.chunks.any waits then
    { c with
      status := 5
      chunks := c.chunks.map fun y => if waits y then { y with state := 2, halted := none } else y }
  else c

/-- The next own step of a collective, if one is due: chunk and whether it writes a result. -/
def Coll.ownStep (c : Coll) : Option (Nat × Bool) :=
  (enum c.chunks).findSome? fun y =>
    if y.2.halted.isSome then none
    else if y.2.state = 3 then some (y.1, true)
    else if y.2.state = 0 ∧ c.needs.contains c.rank ∧ ¬ y.2.parts.any (fun p => p.1 = c.rank) then some (y.1, false)
    else if y.2.state = 0 ∧ c.reducer y.1 = c.rank ∧ c.complete y.2 then some (y.1, false)
    else none

end Sys2Proof.Machine
end

