-- ==== Sys2Proof/Machine/Hash.lean ====
section
/-!
DEFINITION. The hash function and the signatures that boot and attestation use (R422 to R424): SHAKE256, and the XMSS signature of
RFC 8391 with the parameter set XMSS-SHAKE_20_512, as those standards give them (log 35: PRESUMED). Byte strings are lists, the
first byte first.
-/
namespace Sys2Proof.Machine
open Sys2Proof

/-! ### SHAKE256 -/

/-- A number of `w` bits turned left by `k` places. -/
def turnLeft (w k v : Nat) : Nat := v * 2 ^ k % 2 ^ w + v / 2 ^ (w - k)

/-- The permutation's state is a number of 1,600 bits: five planes of five 64-bit lanes. -/
def planeOf (a y : Nat) : Nat := a / 2 ^ (320 * y) % 2 ^ 320
def laneOf (a x y : Nat) : Nat := a / 2 ^ (64 * x + 320 * y) % 2 ^ 64

/-- θ: every plane takes up the column parities of the lanes beside, those after turned by one. -/
def keccakTheta (a : Nat) : Nat :=
  let c := (List.range 5).foldl (fun c y => c ^^^ planeOf a y) 0
  let after := joinBits 64 ((List.range 5).map fun x => turnLeft 64 1 (laneOf c ((x + 1) % 5) 0))
  let d := turnLeft 320 64 c ^^^ after
  a ^^^ joinBits 320 (List.replicate 5 d)

/-- ρ and π: on the walk from lane (1, 0) that leads from (x, y) to (y, 2x + 3y), the lane met after `t` moves is turned by
(t + 1)(t + 2) / 2 and put at the next place. -/
def keccakWalk (a : Nat) : Nat → Nat → Nat → Nat → Nat
  | 0, _, _, _ => laneOf a 0 0
  | n + 1, t, x, y =>
    let y' := (2 * x + 3 * y) % 5
    turnLeft 64 ((t + 1) * (t + 2) / 2 % 64) (laneOf a x y) * 2 ^ (64 * y + 320 * y') + keccakWalk a n (t + 1) y y'

/-- χ: in each plane a lane is flipped where the next one is 0 and the one after it 1. -/
def keccakChi (a : Nat) : Nat :=
  joinBits 320 ((List.range 5).map fun y =>
    let p := planeOf a y
    p ^^^ ((turnLeft 320 256 p ^^^ (2 ^ 320 - 1)) &&& turnLeft 320 192 p))

/-- ι: seven bits of the shift register with x⁸ + x⁶ + x⁵ + x⁴ + 1, at the places 2^j − 1 of lane (0, 0). -/
def keccakIota : Nat → Nat → Nat → Nat × Nat
  | 0, r, a => (r, a)
  | n + 1, r, a => keccakIota n (if 128 ≤ r then (2 * r) ^^^ 0x171 else 2 * r) (a ^^^ r % 2 * 2 ^ (2 ^ (6 - n) - 1))

/-- `n` rounds of the permutation, from the state `r` of the shift register. -/
def keccakRounds : Nat → Nat → Nat → Nat
  | 0, _, a => a
  | n + 1, r, a =>
    let x := keccakIota 7 r (keccakChi (keccakWalk (keccakTheta a) 24 0 1 0))
    keccakRounds n x.1 x.2

/-- SHAKE256 with 64 bytes of output: the message with its padding, taken up in blocks of 136 bytes. -/
def shake256 (m : List (BitVec 8)) : List (BitVec 8) :=
  let k := m.length / 136 + 1
  let v := numOf m + 0x1F * 2 ^ (8 * m.length) + 2 ^ (1088 * k - 1)
  bytesOf 64 ((List.range k).foldl (fun a i => keccakRounds 24 1 (a ^^^ v / 2 ^ (1088 * i) % 2 ^ 1088)) 0)

/-! ### The functions of XMSS-SHAKE_20_512 (n = 64, w = 16, len = 131) -/

/-- A number as `n` bytes, the most significant first. -/
def toByte (v n : Nat) : List (BitVec 8) := (bytesOf n v).reverse

/-- The keyed functions F (0), H (1), H_msg (2) and PRF (3). -/
def xmssHash (kind : Nat) (key m : List (BitVec 8)) : List (BitVec 8) := shake256 (toByte kind 64 ++ key ++ m)

/-- An address of 32 bytes: type, then its four words. -/
def xmssAdrs (type a b c d : Nat) : List (BitVec 8) :=
  toByte 0 12 ++ toByte type 4 ++ toByte a 4 ++ toByte b 4 ++ toByte c 4 ++ toByte d 4

def xorBytes (x y : List (BitVec 8)) : List (BitVec 8) := List.zipWith (· ^^^ ·) x y

/-- The chaining function: `k` steps from step `i` of chain `j` of the one-time key `idx`. -/
def wotsChain (seed : List (BitVec 8)) (idx j : Nat) (x : List (BitVec 8)) (i : Nat) : Nat → List (BitVec 8)
  | 0 => x
  | k + 1 =>
    let y := wotsChain seed idx j x i k
    let prf (m : Nat) : List (BitVec 8) := xmssHash 3 seed (xmssAdrs 0 idx j (i + k) m)
    xmssHash 0 (prf 0) (xorBytes y (prf 1))

/-- The hash of two nodes under an address whose last word is free. -/
def randHash (seed : List (BitVec 8)) (adrs : Nat → List (BitVec 8)) (x y : List (BitVec 8)) : List (BitVec 8) :=
  xmssHash 1 (xmssHash 3 seed (adrs 0)) (xorBytes x (xmssHash 3 seed (adrs 1)) ++ xorBytes y (xmssHash 3 seed (adrs 2)))

/-- One level of an L-tree: pairs are hashed, an odd last node goes up. -/
def lLevel (seed : List (BitVec 8)) (idx height : Nat) : Nat → List (List (BitVec 8)) → List (List (BitVec 8))
  | i, x :: y :: l => randHash seed (xmssAdrs 1 idx height i) x y :: lLevel seed idx height (i + 1) l
  | _, l => l

/-- The root of the L-tree over the 131 values of a one-time public key, by 8 levels. -/
def lTree (seed : List (BitVec 8)) (idx : Nat) (pk : List (List (BitVec 8))) : List (BitVec 8) :=
  ((List.range 8).foldl (fun l h => lLevel seed idx h 0 l) pk).headD []

/-- The 131 digits in base 16 of a 64-byte digest and its checksum. -/
def wotsDigits (m : List (BitVec 8)) : List Nat :=
  let digits (l : List (BitVec 8)) : List Nat := l.flatMap fun b => [b.toNat / 16, b.toNat % 16]
  let d := digits m
  d ++ (digits (toByte ((d.map fun x => 15 - x).foldl (· + ·) 0 * 16) 2)).take 3

/-- The root above a leaf, by the nodes of its authentication path from height `k` on. -/
def xmssUp (seed : List (BitVec 8)) (idx : Nat) : Nat → List (BitVec 8) → List (List (BitVec 8)) → List (BitVec 8)
  | _, x, [] => x
  | k, x, y :: l =>
    let adrs := xmssAdrs 2 0 k (idx / 2 ^ (k + 1))
    xmssUp seed idx (k + 1) (if idx / 2 ^ k % 2 = 0 then randHash seed adrs x y else randHash seed adrs y x) l

/-- The digest that is signed, from the randomiser, the root and the index. -/
def xmssDigest (r root : List (BitVec 8)) (idx : Nat) (m : List (BitVec 8)) : List (BitVec 8) :=
  xmssHash 2 (r ++ root ++ toByte idx 64) m

/-- `n` pieces of 64 bytes. -/
def pieces64 (n : Nat) (l : List (BitVec 8)) : List (List (BitVec 8)) := (List.range n).map fun i => (l.drop (64 * i)).take 64

/-- Whether a signature of 4 + 64 + 64 × (131 + `h`) bytes by the key with this root and seed stands over `m`. -/
def xmssVerify (h : Nat) (root seed m sig : List (BitVec 8)) : Bool :=
  let idx := numOf (sig.take 4).reverse
  let parts := pieces64 (1 + 131 + h) (sig.drop 4)
  let d := wotsDigits (xmssDigest (parts.headD []) root idx m)
  let pk := ((enum d).zip (parts.drop 1)).map fun x => wotsChain seed idx x.1.1 x.2 x.1.2 (15 - x.1.2)
  xmssUp seed idx 0 (lTree seed idx pk) (parts.drop 132) == root

/-- A node of the key's tree: number `i` at height `h`; `sk` gives chain `j` of the one-time key `idx`. -/
def xmssNode (sk : Nat → Nat → List (BitVec 8)) (seed : List (BitVec 8)) : Nat → Nat → List (BitVec 8)
  | 0, i => lTree seed i ((List.range 131).map fun j => wotsChain seed i j (sk i j) 0 15)
  | h + 1, i => randHash seed (xmssAdrs 2 0 h i) (xmssNode sk seed h (2 * i)) (xmssNode sk seed h (2 * i + 1))

/-- The signature over `m` with one-time key `idx` of a tree of height `h`. -/
def xmssSign (h : Nat) (sk : Nat → Nat → List (BitVec 8)) (prf seed : List (BitVec 8)) (idx : Nat) (m : List (BitVec 8)) :
    List (BitVec 8) :=
  let r := xmssHash 3 prf (toByte idx 32)
  let d := wotsDigits (xmssDigest r (xmssNode sk seed h 0) idx m)
  toByte idx 4 ++ r ++ ((enum d).flatMap fun x => wotsChain seed idx x.1 (sk idx x.1) 0 x.2)
    ++ (List.range h).flatMap fun k => xmssNode sk seed k (Nat.xor (idx / 2 ^ k) 1)

/-! ### The two keys -/

/-- R422: whether a signature by the Treluntos key stands over an image. -/
def imageSigned (image sig : List (BitVec 8)) : Bool :=
  xmssVerify 20 (bytesOf 64 Config.treluntosRoot) (bytesOf 64 Config.treluntosSeed) image sig

/-- The one-time keys of the device identity (R423). -/
def identityChain (idx j : Nat) : List (BitVec 8) := bytesOf 64 (Config.identityKey idx j)

/-- R423: IDPUB: the identifier of the parameter set, the root and the seed. -/
def idPublic : List (BitVec 8) :=
  toByte 0xC 4 ++ xmssNode identityChain (bytesOf 64 Config.identitySeed) 20 0 ++ bytesOf 64 Config.identitySeed

/-- R424: the signature of the device identity over a report with one-time index `idx`. -/
def identitySign (idx : Nat) (m : List (BitVec 8)) : List (BitVec 8) :=
  xmssSign 20 identityChain (bytesOf 64 Config.identityPrf) (bytesOf 64 Config.identitySeed) idx m

end Sys2Proof.Machine
end

