-- ==== Sys2Proof/Machine/Bind.lean ====
section
/-!
DEFINITION. Binding a context (R369 to R373): the bind record, the kernel image (R85, R86), its loop table (R273, R274) and data
templates (R89), and the return of a saved context (R401, R431).
-/
namespace Sys2Proof.Machine
open Sys2Proof

/-! ### Reads of dispatch (R459) -/

/-- Why a bind does not complete now: its status (R373), or a translation it waits for. -/
inductive BindStop where
  | fail (status : Nat)
  | wait (h : Halted)
  deriving DecidableEq, Repr

/-- A part of a bind. -/
abbrev BindOp (α : Type) := ExceptT BindStop (StateM State) α

def bindFail {α : Type} (n : Nat) : BindOp α := throw (.fail n)
def bindFailIf (b : Bool) (n : Nat) : BindOp Unit := if b then bindFail n else pure ()

/-- `n` bytes at byte `a` of a flat tensor, read at their homes; a poisoned word fails (log 20: DEDUCED). -/
def homeSpan (q : Requester) (d : Desc) : Nat → Nat → Nat → Op Nat
  | 0, _, _ => pure 0
  | fuel + 1, a, n => do
    if n = 0 then pure 0
    else
      let k := min n (65536 - a % 65536)
      let key ← translate q d (a / 65536) (a % 65536) 1
      let s ← getS
      if (s.homeRead key k).2 then trapWith .memUe
      let v' ← homeSpan q d fuel (a + k) (n - k)
      pure ((s.homeRead key k).1 + v' * 2 ^ (8 * k))

/-- `n` bytes at offset `off` from a flat pointer. -/
def dispRead (q : Requester) (ptr off n : Nat) : Op Nat := do
  if n = 0 then pure 0
  else
    failIf (decide (2 ^ 44 < ptr % 2 ^ 44 + off + n)) .txBound
    let d ← flatDesc q (ptr + off) n 1
    homeSpan q d (n / 65536 + 2) (ptr % 2 ^ 44 + off) n

/-- R459: a read of dispatch: every failure is MEMORY; a tile on the move, which it pulls (R432), an address translation on its way or
a missing route is waited for. -/
def bindRead (q : Requester) (ptr off n : Nat) : BindOp Nat := do
  let s ← get
  match runOp (dispRead q ptr off n) s with
  | (.ok v, t) => do
    set t
    pure v
  | (.error (.halt h), t) => do
    set t
    throw (if h.why = 0 ∨ h.why = 3 then .fail 6 else .wait h)
  | (.error _, t) => do
    set t
    bindFail 6

/-- The results of a part of a bind over a list. -/
def bindMap {α β : Type} (f : α → BindOp β) : List α → BindOp (List β)
  | [] => pure []
  | a :: r => do
    let b ← f a
    let l ← bindMap f r
    pure (b :: l)

/-! ### Bind records (R369) -/

/-- The fields of a bind record of 64 bytes. -/
def bindRec (v : Nat) : BindRec :=
  let fl := fieldOf v 6 1
  { linst := BitVec.ofNat 32 (fieldOf v 0 4), ridx := fieldOf v 4 2 % 4096, slot := fl % 4, variant := fl / 4 % 8,
    resume := fl / 32 % 2 = 1, gate := fl / 64 % 2 = 1, secure := fl / 128 % 2 = 1, bpri := fieldOf v 7 1 % 4,
    coord := (List.range 6).map fun i => fieldOf v (8 + 2 * i) 2, slice := fieldOf v 0x14 4,
    ctxb := BitVec.ofNat 64 (fieldOf v 0x18 8), part := fieldOf v 0x20 2, frame := fieldOf v 0x28 8, kimg := fieldOf v 0x30 8,
    argp := fieldOf v 0x38 8 }

/-- Whether two spans of `n` and `m` units share one. -/
def spansMeet (a n b m : Nat) : Bool := decide (max a b < min (a + n) (b + m))

/-- R17: whether two windows share a buffer. -/
def windowsMeet (x y : BitVec 64) : Bool :=
  spansMeet (abBase x) (abSize x) (abBase y) (abSize y) || spansMeet (ctBase x) (ctCount x) (ctBase y) (ctCount y)
    || decide (plmOf x &&& plmOf y ≠ 0) || decide (csmOf x &&& csmOf y ≠ 0) || decide (gqOf x &&& gqOf y ≠ 0)

/-- R17: whether a CTXB value breaks a range. -/
def ctxbBad (x : BitVec 64) : Bool :=
  decide (47 < abBase x) || decide (48 < abSize x) || decide (32 < ctCount x) || decide (48 < abBase x + abSize x)
    || decide (32 < ctBase x + ctCount x)

/-- R373 WINDOW: a range, another slot's window, or a PART that does not own the core. -/
def bindWindowBad (ck : Nat) (r : BindRec) (s : State) : Bool :=
  ctxbBad r.ctxb
    || (List.range 4).any (fun k => decide (k ≠ ck % 4) && (s.ctx (coreOf ck * 4 + k)).st != .free
        && windowsMeet r.ctxb (s.ctx (coreOf ck * 4 + k)).ctxbuf)
    || !(getAt {} r.part (s.die (dieOf ck)).active).cores.getLsbD (coreOf ck % 48)

/-! ### Loop tables (R273, R274) -/

/-- The section of stream `u` in variant `v`: offset and length (R85). -/
def sectAt (hdr v u : Nat) : Nat × Nat := (fieldOf hdr (0x40 + 40 * v + 8 * u) 4, fieldOf hdr (0x44 + 40 * v + 8 * u) 4)

/-- A live range as (space, offset, length). -/
def liveOf (v : Nat) : Nat × Nat × Nat := (v / 2 ^ 22 % 2, v % 2 ^ 22, v / 2 ^ 32 % 2 ^ 32)

/-- R273, R274: whether a live-range entry breaks a rule for a context. -/
def liveBad (c : Ctx) (v : Nat) : Bool :=
  let (sp, off, len) := liveOf v
  decide (v / 2 ^ 23 % 2 ^ 9 ≠ 0) || decide (off % 4 ≠ 0) || decide (len % 4 ≠ 0) || decide (len < 4 ∨ 2 ^ 22 < len)
    || !inWindow c sp off len

/-- The fields of a loop-level record, with its live ranges. -/
def levelOf (v : Nat) (live : List (Nat × Nat × Nat)) : Level :=
  { kind := fieldOf v 1 1, drain := fieldOf v 2 1 % 2 = 1, bound := (List.range 5).map fun i => fieldOf v (8 + 2 * i) 2,
    epi := (List.range 5).map fun i => fieldOf v (0x12 + i) 1, live := live }

/-- R273, R274: whether the record of level `lev` breaks a rule; `used` says which streams have a section. -/
def levelBad (lev looplen v : Nat) (used : List Bool) : Bool :=
  let kind := fieldOf v 1 1
  let fl := fieldOf v 2 1
  let bound := (List.range 5).map fun i => fieldOf v (8 + 2 * i) 2
  decide (fieldOf v 0 1 ≠ lev) || decide (2 < kind) || decide (fl / 4 ≠ 0) || decide (fieldOf v 3 1 ≠ 0)
    || decide (fieldOf v 0x17 1 ≠ 0) || decide (64 < fieldOf v 0x18 2) || decide (fieldOf v 0x1A 2 ≠ 0)
    || decide (fieldOf v 0x1C 4 % 8 ≠ 0) || decide (fieldOf v 0x20 32 ≠ 0)
    || decide (fieldOf v 0x18 2 ≠ 0 ∧ looplen < fieldOf v 0x1C 4 + 8 * fieldOf v 0x18 2)
    || (decide (kind = 0 ∧ fl / 2 % 2 = 1) && decide (255 < fieldOf v 4 4))
    || (decide (kind ≠ 0) && (decide (fl % 2 = 1) || bound.any (fun b => decide (b ≠ 0)) || decide (fieldOf v 0x12 5 ≠ 0)
        || decide (fieldOf v 0x18 2 ≠ 0)))
    || (decide (fl % 2 = 1) && (bound.zip used).any fun x => x.2 && decide (x.1 = 0))

/-- R274: dies before cores before temporal levels. -/
def kindsOrdered : List Nat → Bool
  | a :: b :: r => decide (b ≤ a) && kindsOrdered (b :: r)
  | _ => true

/-- Reads and checks level `lev` (R274). -/
def bindLevel (q : Requester) (c : Ctx) (kimg off len : Nat) (used : List Bool) (lev : Nat) : BindOp (Nat × Level) := do
  let v ← bindRead q kimg (off + 64 * lev) 64
  bindFailIf (levelBad lev len v used) 3
  let n := fieldOf v 0x18 2
  let l ← bindRead q kimg (off + fieldOf v 0x1C 4) (8 * n)
  let es := (List.range n).map fun i => fieldOf l (8 * i) 8
  bindFailIf (es.any (liveBad c)) 3
  pure (v, levelOf v (es.map liveOf))

/-! ### Data templates (R89) -/

/-- A template: space, platen, offset, length, and where its bytes stand in the image. -/
structure Template where
  space : Nat
  platen : Nat
  off : Nat
  len : Nat
  src : Nat
  deriving DecidableEq, Repr

/-- The templates of the data area of `len` bytes at `base`, from byte `o` on. -/
def bindTemplates (q : Requester) (kimg base len : Nat) : Nat → Nat → BindOp (List Template)
  | 0, _ => pure []
  | fuel + 1, o => do
    if len < o + 16 then pure []
    else
      let v ← bindRead q kimg (base + o) 16
      let n := fieldOf v 8 4
      let l ← bindTemplates q kimg base len fuel (o + 16 + (n + 15) / 16 * 16)
      pure (⟨fieldOf v 0 1, fieldOf v 1 1, fieldOf v 4 4, n, base + o + 16⟩ :: l)

/-- R89: whether a template leaves the context's window or names a platen it does not have; an unknown space does so too. -/
def templateBad (c : Ctx) (t : Template) : Bool :=
  match t.space with
  | 0 => decide (c.abBytes < t.off + t.len)
  | 1 => decide (c.cbBytes < t.off + t.len)
  | 2 => decide (c.platens.length ≤ t.platen) || decide (12288 < t.off + t.len)
  | 3 => false
  | _ => true

/-- Copies a template into its buffer. -/
def bindCopy (ck : Nat) (q : Requester) (c : Ctx) (kimg : Nat) : List Template → BindOp Unit
  | [] => pure ()
  | t :: r => do
    if t.space ≠ 3 then
      let v ← bindRead q kimg t.src t.len
      modify fun s =>
        if t.space = 2 then
          let p := c.platens[t.platen]?.getD 0
          platenGood (coreOf ck) p (s.bufWrite (platenKey (coreOf ck) p + t.off) t.len v)
        else s.bufWrite (winKey ck c t.space t.off) t.len v
    bindCopy ck q c kimg r

/-! ### The bind (R372, R373) -/

/-- The level and the target of an `lbr` of stream `u` at address `a` (R137, R194, R226, R268). -/
def lbrAt (u a w : Nat) : Option (Nat × Nat) :=
  let t := wordTarget a 16 (w % 65536)
  if u = 1 then (if w / 2 ^ 25 % 64 = 0x38 then some (w / 2 ^ 22 % 8, t) else none)
  else if w / 2 ^ 26 = [0x27, 0, 0x2A, 0x33, 0x33].getD u 0 then some (w / 2 ^ 23 % 8, t) else none

/-- R278: the loop heads of a section: the target of its `lbr` for each level. -/
def loopHeads (u : Nat) (code : List (BitVec 32)) : Vector Nat 6 :=
  let l := (enum code).filterMap fun x => lbrAt u (4 * x.1) x.2.toNat
  Vector.ofFn fun lev => ((l.find? fun x => x.1 = lev.val).map (·.2)).getD 4294967296

/-- The state of stream `u` at bind (R86, R49). The image's NUMDEF is taken as it is, one with a reserved RM or NBL code too (only gelas
refuses it, R88), and bytes after its last whole word are dropped (log 33: DESIGN CHOICE). -/
def bindStream (hdr u : Nat) (code : List (BitVec 32)) : Stream :=
  let nd := fieldOf hdr 0xC 4
  let dflt := fieldOf hdr 6 2 % 2 = 1
  { code := code, retired := code.isEmpty, head := loopHeads u code
    rmode := if dflt then BitVec.ofNat 5 nd else 0x08
    flush := if dflt then BitVec.ofNat 6 (nd / 2 ^ 8) else 0
    nbl := if dflt then BitVec.ofNat 2 (nd / 2 ^ 16) else 0 }

/-- The requester of dispatch for a bind record (R459). -/
def bindReq (ck : Nat) (r : BindRec) : Requester := { ck := ck, ui := 9, unit := 10, part := r.part, secure := r.secure }

/-- The image of a bind: header, checked (R373 IMAGE), levels with their raw records, and the five sections. -/
def bindImage (q : Requester) (c : Ctx) (r : BindRec) : BindOp (Nat × List (Nat × Level) × List (List (BitVec 32))) := do
  let hdr ← bindRead q r.kimg 0 384
  bindFailIf (decide (fieldOf hdr 0 4 ≠ 0x494B5A56) || decide (fieldOf hdr 4 2 ≠ 1) || decide (fieldOf hdr 8 1 ≤ r.variant)
    || decide (6 < fieldOf hdr 9 1) || decide (fieldOf hdr 0x14 4 < 64 * fieldOf hdr 9 1)) 3
  let used := (List.range 5).map fun u => decide ((sectAt hdr r.variant u).2 ≠ 0)
  let lv ← bindMap (bindLevel q c r.kimg (fieldOf hdr 0x10 4) (fieldOf hdr 0x14 4) used) (List.range (fieldOf hdr 9 1))
  bindFailIf (!kindsOrdered (lv.map (·.2.kind))) 3
  let code ← bindMap (fun u => do
    let (o, n) := sectAt hdr r.variant u
    let v ← bindRead q r.kimg o n
    pure ((splitBits 32 (n / 4) v).map (BitVec.ofNat 32))) (List.range 5)
  pure (hdr, lv, code)

/-- R275: the count of a level at bind: the coordinate, the extent or the argument word. -/
def bindCount (q : Requester) (r : BindRec) (x : Nat × Nat × Level) : BindOp (BitVec 32) := do
  if x.2.2.kind ≠ 0 then pure (BitVec.ofNat 32 (r.coord[x.1]?.getD 0))
  else if fieldOf x.2.1 2 1 / 2 % 2 = 1 then
    let v ← bindRead q r.argp (4 * fieldOf x.2.1 4 4) 4
    pure (BitVec.ofNat 32 v)
  else pure (BitVec.ofNat 32 (fieldOf x.2.1 4 4))

/-- R372, for a context whose image has been checked: the templates are checked, then copied, then the counts read; a bind that fails
has written nothing but template bytes (R373). -/
def bindFresh (ck : Nat) (q : Requester) (r : BindRec) (hdr : Nat) (lv : List (Nat × Level)) (code : List (List (BitVec 32))) :
    BindOp Unit := do
  let s ← get
  let c := s.ctx ck
  let ts ← bindTemplates q r.kimg (fieldOf hdr 0x18 4) (fieldOf hdr 0x1C 4) (fieldOf hdr 0x1C 4 / 16 + 1) 0
  bindFailIf (ts.any (templateBad c)) 2
  bindCopy ck q c r.kimg ts
  let counts ← bindMap (bindCount q r) (enum lv)
  modify fun s =>
    let core := coreOf ck
    let s := c.quarters.foldl (fun s g => zeroBuf (bufKey core 5 (16384 * g)) 16384 s) s
    let s := c.caseSlots.foldl (fun s k =>
      (zeroBuf (caseKey core k) 2048 s).modCore core fun x => { x with cases := vset x.cases k {} }) s
    s.modCtx ck fun c => { c with
      st := if r.gate then .gated else .run
      sliceStart := s.cycle
      r := { levels := lv.map (·.2)
             lc := Vector.ofFn fun i => counts[i.val]?.getD 0
             streams := Vector.ofFn fun i => bindStream hdr i.val (code[i.val]?.getD []) } }

/-- The test of a halt on an optional one. -/
def haltIs (p : Halted → Bool) (h : Option Halted) : Bool := h.any p

/-- Lets the chunks of a collective that a test names translate again. -/
def wakeColl (p : Halted → Bool) (x : Coll) : Coll :=
  { x with chunks := x.chunks.map fun y => { y with halted := if haltIs p y.halted then none else y.halted } }

/-- The word of each stream that is halted on a translation, if one is. -/
def Ctx.wordHalt (c : Ctx) (u : Nat) : Option Halted := if u = 0 then c.sqHalt else if u = 3 then c.xlHalt else if u = 4 then c.xsHalt else none

/-- Lets every halted access of a context that a test names translate again (R392). -/
def wakeCtx (p : Halted → Bool) (c : Ctx) : Ctx :=
  let opt (h : Option Halted) : Option Halted := if haltIs p h then none else h
  let cmd (q : Cmd) : Cmd := { q with halted := opt q.halted }
  { c with
    sqHalt := opt c.sqHalt
    xlHalt := opt c.xlHalt
    xsHalt := opt c.xsHalt
    r := { c.r with
      streams := c.r.streams.mapFinIdx fun i st _ =>
        if haltIs p (c.wordHalt i) ∧ st.wait = some .page then { st with wait := none } else st
      xlQ := c.r.xlQ.map cmd
      xsQ := c.r.xsQ.map cmd
      cxQ := c.r.cxQ.map fun l => l.map fun q => { q with halted := opt q.halted }
      coll := c.r.coll.map (wakeColl p) } }

/-- The same in every context whose partition `in_` names, and in what CLE keeps for saved ones. -/
def wakeAll (in_ : Nat → Bool) (p : Halted → Bool) (s : State) : State :=
  { s with
    ctxs := s.ctxs.map fun x => (x.1, if in_ x.2.bind.part then wakeCtx p x.2 else x.2)
    cle := s.cle.map fun h => if in_ h.part then { h with coll := h.coll.map (wakeColl p) } else h }

/-- R434: an access that waits in its home slice at a PENDING frame pulls its tile. -/
def pullHeld (s : State) : State :=
  s.pkg.held.foldl (fun s h => if mapMst (s.frameState h.frame) = 4 then pullFrame h.frame s else s) s

/-- R427, R431, R434: the first RESUME bind of a STAGED virtual device lets its tiles move; accesses that waited pull them. -/
def resumeMigrated (part : Nat) (s : State) : State :=
  if (s.part part).ma.phase = .staged then
    let m := (s.part part).ma
    let s := s.sendTo m.ppkg.toNat (.maPhase m.ppkg.toNat m.ppart.toNat .pulling 0)
    let s := s.modPart part fun p => { p with ma := { p.ma with phase := if p.ma.left = 0 then .done else .pulling } }
    wakeAll (fun _ => true) Halted.onMove (pullHeld s)
  else s

/-- R401: whether a frame is refused with FRAME. -/
def frameBad (r : BindRec) (hdr : Nat) (known : Bool) : Bool :=
  let x := BitVec.ofNat 64 (fieldOf hdr 0x48 8)
  decide (fieldOf hdr 0 4 ≠ 0x4D524643) || decide (fieldOf hdr 6 1 = 0) || decide (fieldOf hdr 0x38 4 ≠ r.linst.toNat) || !known
    || decide (abSize x ≠ abSize r.ctxb) || decide (ctCount x ≠ ctCount r.ctxb)
    || decide (popNat 8 (plmOf x) ≠ popNat 8 (plmOf r.ctxb)) || decide (popNat 16 (csmOf x) ≠ popNat 16 (csmOf r.ctxb))
    || decide (popNat 4 (gqOf x) ≠ popNat 4 (gqOf r.ctxb))

/-- R373: whether a read of `n` bytes at an address of a frame finds an uncorrectable error, in a channel out of service too (R453). -/
def frameUe (a n : Nat) (s : State) : Bool :=
  (framePieces a (n / 65536 + 2) 0 n).any fun p => (s.homeRead (s.physKey (a + p.1)) p.2).2

/-- The sections of a frame that a resume reads after the header, the private sections and the FIFOs (R282, R399, R401): offset and
length. `drain` says whether the frame is a drain's, `r` holds the saved registers. -/
def frameReads (c : Ctx) (drain : Bool) (r : Regs) : List (Nat × Nat) :=
  c.quarters.mapIdx (fun i _ => (frGalley + 16384 * i, 16384)) ++ c.platens.mapIdx (fun i _ => (frPlaten + 13056 * i, 13056))
  ++ c.caseSlots.mapIdx (fun i _ => (frCase + 2064 * i, 2064))
  ++ if drain then
      match r.cut with
      | some cut => (r.liveSets cut.lev ++ r.replayRanges).map fun l => ((if l.1 = 0 then frAb else frCb) + l.2.1, l.2.2)
      | none => []
    else [(frCb, c.cbBytes), (frAb, c.abBytes)]

/-- R373: whether one of them finds an uncorrectable error (log 20: DEDUCED). -/
def framePoisoned (c : Ctx) (frame : Nat) (drain : Bool) (r : Regs) (s : State) : Bool :=
  (frameReads c drain r).any fun x => frameUe (frame + x.1) x.2 s

/-- R429: a sampled descriptor names the tile table that the partition's tensor table names now. -/
def retable (part : Nat) (s : State) (i : Nat) (d : BitVec 512) : BitVec 512 :=
  if d = 0 then d
  else
    let at0 := (s.part part).active.ttab.toNat / 65536 * 65536 + 64 * i
    BitVec.ofNat 512 (d.toNat / 2 ^ 64 * 2 ^ 64 + (s.homeRead at0 8).1)

/-- The replay queue with the tile tables of its tensors as they stand at the resume. -/
def retableAll (part : Nat) (s : State) (r : Regs) : Regs :=
  let cmd (q : Cmd) : Cmd :=
    let hs := [q.h, q.h1, q.h2]
    { q with descs := q.descs.mapIdx fun i d => retable part s (hs[i]?.getD 0) d }
  let copy (q : CxCmd) : CxCmd :=
    { q with sdesc := retable part s (q.src / 2 ^ 44) q.sdesc, ddesc := retable part s (q.dst / 2 ^ 44) q.ddesc }
  { r with xlQ := r.xlQ.map cmd, xsQ := r.xsQ.map cmd, cxQ := r.cxQ.map fun l => l.map copy }

/-- R401: the return of a saved context. -/
def bindResume (ck : Nat) (q : Requester) (r : BindRec) (hdr : Nat) (lv : List (Nat × Level)) (code : List (List (BitVec 32))) :
    BindOp Unit := do
  let s ← get
  let (fh, _, s1) := physRead r.frame 256 s
  let (id, _, s2) := physRead (r.frame + frStreams) 8 s1
  set s2
  bindFailIf (frameUe r.frame frGalley s) 6
  bindFailIf (frameBad r fh (s.saves.any fun x => x.1 = id)) 5
  bindFailIf (framePoisoned (s.ctx ck) r.frame (decide (fh / 2 ^ 32 % 256 = 0)) (getAt {} id s.saves) s) 6
  let ts ← bindTemplates q r.kimg (fieldOf hdr 0x18 4) (fieldOf hdr 0x1C 4) (fieldOf hdr 0x1C 4 / 16 + 1) 0
  bindFailIf (ts.any (templateBad (s.ctx ck))) 2
  modify fun s =>
    let s := resumeContext ck r.frame s
    s.modRegs ck fun x => { retableAll r.part s x with
      levels := lv.map (·.2)
      streams := x.streams.mapFinIdx fun i st _ =>
        { st with code := code[i]?.getD [], head := loopHeads i (code[i]?.getD []) } }

/-- R372, R373: the bind of the record that slot `ck` holds, its checks in order. The first RESUME bind of a migrated partition lets its
tiles move before it reads any (R427). -/
def bindSteps (ck : Nat) : BindOp Unit := do
  let s ← get
  let c := s.ctx ck
  let r := c.bind
  let q := bindReq ck r
  bindFailIf (bindWindowBad ck r s) 1
  bindFailIf (r.secure != (s.part r.part).active.ctl.getLsbD 62) 4
  if r.resume then modify (resumeMigrated r.part)
  let (hdr, lv, code) ← bindImage q c r
  if r.resume then bindResume ck q r hdr lv code else bindFresh ck q r hdr lv code

/-- The pending entry of a core changed. -/
def modPending (core e : Nat) (f : PendingEntry → PendingEntry) : State → State :=
  State.modCore core fun c => { c with pending := vset c.pending e (f (vget {} c.pending e)) }

/-- R429: a context that ends without a frame is none of those that a freeze sends. -/
def leaveFreeze (ck : Nat) (s : State) : State :=
  let p := (s.ctx ck).bind.part
  if (s.part p).ma.phase = .freezing then
    s.modPart p fun x => { x with ma := { x.ma with contexts := x.ma.contexts.filter fun c => decide (c.1 * 4 + c.2 ≠ ck) } }
  else s

/-- R367, R373: a bind fails: the slot is FREE as it was before, PSTAT says why and a BINDFAIL entry is posted, once the arm queue has
room for it. -/
def bindFails (ck st : Nat) (s : State) : State :=
  let c := s.ctx ck
  let core := coreOf ck
  let part := c.bind.part
  let linst := c.bind.linst.toNat
  match c.binding with
  | none => s
  | some b =>
    if !armqRoom (core / 48) part s then
      (armqPull (core / 48) part s).modCtx ck fun c => { c with binding := some { b with failed := some st } }
    else
      let s := modPending core c.entry (fun x => { x with status := st }) (leaveFreeze ck s)
      let s := s.modCtx ck fun c => { c with
        st := .free, bind := b.bind, ctxbuf := b.ctxbuf, linst := b.linst, binding := none, sqHalt := none, preempt := false }
      postSlot core (ck % 4) 5 st 0 part linst s

/-- Runs the bind of a BINDING slot: it ends bound, fails, or waits. -/
def bindRun (ck : Nat) (s : State) : State :=
  match (bindSteps ck).run.run s with
  | (.ok _, t) =>
    modPending (coreOf ck) (s.ctx ck).entry (fun x => { x with status := 0 }) (t.modCtx ck fun c => { c with binding := none })
  | (.error (.fail st), t) => bindFails ck st t
  | (.error (.wait h), t) => t.modCtx ck fun c => { c with sqHalt := some h }

/-- The lowest VALID pending entry that targets a slot (R371). -/
def nextEntry (core slot : Nat) (s : State) : Option Nat :=
  (List.range 8).find? fun e =>
    let x := vget {} (s.core core).pending e
    x.valid && decide ((bindRec x.bits.toNat).slot = slot)

/-- R414, R428: whether dispatch may begin a bind of a partition. -/
def bindAllowed (part : Nat) (s : State) : Bool :=
  !s.frozen part && !((s.pkg.lstate == .quiesce || s.pkg.lstate == .tick) && s.pkg.affect.getLsbD part)

/-- R371: dispatch begins a bind (fresh, or RESUME) into a FREE slot, or goes on with the one that has begun. -/
def bindEvent (resume : Bool) (core slot : Nat) (s : State) : State :=
  let ck := core * 4 + slot
  let c := s.ctx ck
  match c.st with
  | .free =>
    match nextEntry core slot s with
    | none => s
    | some e =>
      let r := bindRec (vget {} (s.core core).pending e).bits.toNat
      if r.resume ≠ resume ∨ ¬ bindAllowed r.part s then s
      else
        let s := modPending core e (fun x => { x with valid := false }) s
        bindRun ck (s.setCtx ck { c with
          bind := r, st := .binding, entry := e, bseq := c.bseq + 1, linst := r.linst, sqHalt := none, halt := none
          preempt := false, binding := some { bind := c.bind, ctxbuf := c.ctxbuf, linst := c.linst }
          ctxbuf := BitVec.ofNat 64 (r.ctxb.toNat / 2 ^ 13 * 2 ^ 13) })
  | .binding =>
    match c.binding.bind (·.failed) with
    | some st => bindFails ck st s
    | none => if c.bind.resume = resume ∧ c.sqHalt = none then bindRun ck s else s
  | _ => s

def execBind (core slot : Nat) : State → Host.Outcome State Fault Refusal := run (bindEvent false core slot)
def execResumeBind (core slot : Nat) : State → Host.Outcome State Fault Refusal := run (bindEvent true core slot)

end Sys2Proof.Machine
end

