-- ==== Sys2Proof/Machine/Slots.lean ====
section
/-!
DEFINITION. The life of a slot: slot commands (R370, R371, R374), slices (R375), pre-emption with the cut of a drain (R280, R281,
R402 to R404), the end of a halt (R395, R397) and retirement (R378).
-/
namespace Sys2Proof.Machine
open Sys2Proof

/-! ### Slot commands (R370, R371, R374) -/

/-- PREEMPT of a slot (R374), as its command or a slice makes it; the budget of a drain runs from here (R281). -/
def preemptSlot (ck : Nat) (s : State) : State :=
  match (s.ctx ck).st with
  | .binding => s.modCtx ck fun c => { c with preempt := true, preemptAt := s.cycle.toNat }
  | .run | .gated | .retiring => s.modCtx ck fun c => { c with st := .halting, preempt := true, preemptAt := s.cycle.toNat }
  | _ => s

/-- R414, R428: the pre-emption of a quiesce or a freeze reaches contexts in RUN, GATED or BINDING; one in RETIRING goes on to FREE (R378). -/
def preemptLive (ck : Nat) (s : State) : State :=
  match (s.ctx ck).st with
  | .retiring => s
  | _ => preemptSlot ck s

/-- KILL of a slot: no frame is written, whatever the context was doing (R404). -/
def killSlot (ck : Nat) (s : State) : State :=
  match (s.ctx ck).st with
  | .free => s
  | _ => (hardStop ck s).modCtx ck fun c => { c with st := .halting, preempt := false, halt := some { kind := 3 } }

/-- The slot or entry that an SCMD value names, and its LINST. -/
def scmdIndex (v : Nat) : Nat := v / 16 % 8
def scmdLinst (v : Nat) : Nat := v / 2 ^ 32 % 2 ^ 32

/-- A slot command on a slot whose instance it names. -/
def slotCommand (core value : Nat) (f : Nat → State → State) (s : State) : State :=
  let ck := core * 4 + scmdIndex value
  if 4 ≤ scmdIndex value ∨ (s.ctx ck).st = .free ∨ (s.ctx ck).linst.toNat ≠ scmdLinst value then s else f ck s

/-- An entry command on a pending entry whose instance it names. -/
def entryCommand (core value : Nat) (f : PendingEntry → PendingEntry) (s : State) : State :=
  let e := scmdIndex value
  if fieldOf (vget {} (s.core core).pending e).bits.toNat 0 4 ≠ scmdLinst value then s else modPending core e f s

/-- R371: a VALIDATE in the cycle of a CANCEL of the same entry leaves VALID clear. -/
def execScmdValidate (core value : Nat) : State → Host.Outcome State Fault Refusal :=
  run fun s => entryCommand core value (fun e => if e.cancelled = s.cycle.toNat + 1 then e else { e with valid := true }) s

def execScmdCancel (core value : Nat) : State → Host.Outcome State Fault Refusal :=
  run fun s => entryCommand core value (fun e => { e with valid := false, cancelled := s.cycle.toNat + 1 }) s

def execScmdPreempt (core value : Nat) : State → Host.Outcome State Fault Refusal := run (slotCommand core value preemptSlot)

def execScmdKill (core value : Nat) : State → Host.Outcome State Fault Refusal := run (slotCommand core value killSlot)

/-- R374: START moves a GATED slot to RUN. -/
def execScmdStart (core value : Nat) : State → Host.Outcome State Fault Refusal :=
  run (slotCommand core value fun ck s =>
    if (s.ctx ck).st = .gated then s.modCtx ck fun c => { c with st := .run, sliceStart := s.cycle } else s)

/-! ### Slices (R375) -/

/-- Whether a context has spent its slice in RUN. -/
def sliceOver (ck : Nat) (s : State) : Bool :=
  let c := s.ctx ck
  c.st == .run && decide (c.bind.slice ≠ 0 ∧ c.bind.slice ≤ (s.cycle - c.sliceStart).toNat)

/-- R375: the slice has run out: a pre-emption when a VALID entry names the slot, else the count starts again. -/
def execSliceExpiry (core slot : Nat) : State → Host.Outcome State Fault Refusal :=
  run fun s =>
    let ck := core * 4 + slot
    if ¬ sliceOver ck s then s
    else if (nextEntry core slot s).isSome then preemptSlot ck s
    else s.modCtx ck fun c => { c with sliceStart := s.cycle }

/-! ### Pre-emption (R280, R281, R402, R403) -/

/-- Whether a unit of a context is halted on a translation fault (R393). -/
def Ctx.unitHalted (c : Ctx) : Bool :=
  let on (h : Option Halted) : Bool := h.any Halted.faulted
  on c.sqHalt || on c.xlHalt || on c.xsHalt || c.r.xlQ.any (on ·.halted) || c.r.xsQ.any (on ·.halted)
    || c.r.cxQ.toList.any fun l => l.any (on ·.halted)

/-- R280: whether every stream that takes part in a level is inside it and every other one has retired. -/
def Regs.contains (r : Regs) (lev : Nat) : Bool :=
  (List.range 5).all fun u => match r.streams[u]? with
    | some st => if r.takesPart lev u then vget false st.inside lev else st.retired
    | none => true

/-- R280: the innermost drainable temporal level that contains every stream. -/
def Regs.cutLevel (r : Regs) : Option Nat :=
  ((List.range r.levels.length).filter fun l =>
    (match r.levels[l]? with | some x => decide (x.kind = 0) && x.drain | none => false) && r.contains l).getLast?

/-- The streams that take part in a level: ITER, EPI and BOUND there. -/
def Regs.partsOf (r : Regs) (lev : Nat) : List (Nat × Nat × Nat) :=
  ((enum r.streams.toList).filter fun x => r.takesPart lev x.1).map fun x =>
    ((vget 0 x.2.iter lev).toNat, r.epi lev x.1, ((r.levels[lev]?).bind fun l => l.bound[x.1]?).getD 0)

/-- R280: the cut iteration: 1 + the largest ITER, at most lc. -/
def Regs.cutIter (r : Regs) (lev : Nat) : Nat :=
  min (1 + ((r.partsOf lev).map (·.1)).foldl max 0) (vget 0 r.lc lev).toNat

/-- R280: the estimate without the cycles H that other contexts hold an engine. -/
def Regs.cutCost (r : Regs) (lev it : Nat) : Nat :=
  ((r.partsOf lev).map fun x => (it + x.2.1 - x.1) * x.2.2).foldl max 0

/-- The stop of a context's engines with a kind of halt; a step of ME that ends in it with an enabled INV takes ARITH_INV
(R60, R403, R404). -/
def haltAs (ck kind : Nat) (s : State) : State :=
  let inv := (s.ctx ck).r.me.drains.any (·.inve)
  let pend := (s.ctx ck).r.pend
  let t := (hardStop ck s).modCtx ck fun c => { c with st := .halting, preempt := false, halt := some (haltOf pend { kind := kind }) }
  if inv then takeTrap ck .me .arithInv 0 0 0 0 true t else t

/-- R403: the hard stop of a pre-emption. -/
def preemptHard (ck : Nat) (s : State) : State := haltAs ck 0 s

/-- R280, R402: the decision; a budget of 0 forces a hard stop. H is a timing the model leaves open when another context of the core is bound (log 7: DESIGN CHOICE). -/
def preemptDecide (ck : Nat) (s : State) : State :=
  let c := s.ctx ck
  let core := coreOf ck
  let others := (List.range 4).any fun k => decide (k ≠ ck % 4) && (s.ctx (core * 4 + k)).st != .free
  match (if c.unitHalted ∨ c.r.cut.isSome ∨ (s.core core).draining.isSome then none else c.r.cutLevel) with
  | none => preemptHard ck s
  | some lev =>
    let it := c.r.cutIter lev
    let (h, s) := if others then s.draw else (0, s)
    if c.r.budget = 0 ∨ c.r.budget.toNat < h + c.r.cutCost lev it then preemptHard ck s
    else
      let s := s.modCtx ck fun c => { c with
        st := .halting, preempt := false, halt := some { kind := 1 }
        r := { c.r with
          cut := some ⟨lev, it, vget 0 c.r.lc lev, c.preemptAt + c.r.budget.toNat⟩
          lc := vset c.r.lc lev (BitVec.ofNat 32 it)
          streams := c.r.streams.map fun st => { st with drained := false } } }
      s.modCore core fun x => { x with draining := some (ck % 4) }

/-- R402: the core decides on a pre-emption request. -/
def execPreemptRequest (core slot : Nat) : State → Host.Outcome State Fault Refusal :=
  run fun s =>
    let ck := core * 4 + slot
    let c := s.ctx ck
    if c.preempt ∧ c.st ≠ .free ∧ c.st ≠ .binding ∧ c.halt = none then preemptDecide ck s else s

/-- Whether a context drains. -/
def Ctx.draining (c : Ctx) : Bool := c.st == .halting && decide (c.halt.map (·.kind) = some 1)

/-- Whether every stream of a drain has halted. -/
def Ctx.drainOver (c : Ctx) : Bool := c.draining && match c.r.cut with | some x => c.r.allDrained x.lev | none => false

/-- R281, R282: a drain ends. -/
def execDrainEnd (core slot : Nat) : State → Host.Outcome State Fault Refusal :=
  run fun s =>
    let ck := core * 4 + slot
    if (s.ctx ck).drainOver then haltAs ck 4 s else s

/-- Whether a drain has outlived its cycle budget. -/
def drainLate (ck : Nat) (s : State) : Bool :=
  let c := s.ctx ck
  c.draining && !c.drainOver && match c.r.cut with | some x => decide (x.deadline ≤ s.cycle.toNat) | none => false

/-- R281: the core abandons a drain and stops hard; the cut is kept. -/
def execDrainBudgetExpired (core slot : Nat) : State → Host.Outcome State Fault Refusal :=
  run fun s =>
    let ck := core * 4 + slot
    if drainLate ck s then
      (haltAs ck 0 s).modRegs ck fun r => { r with boundMiss := satAdd r.boundMiss 1 }
    else s

/-! ### The end of a halt (R374, R395, R397, R404) -/

/-- A slot becomes FREE; its record, instance, count and counters stay (R454). -/
def freeSlot (ck : Nat) : State → State :=
  State.modCtx ck fun c => { c with
    r := { caseWait := c.r.caseWait, caseRefill := c.r.caseRefill, boundMiss := c.r.boundMiss }
    st := .free, sqHalt := none, xlHalt := none, xsHalt := none, halt := none, preempt := false, binding := none }

/-- R73: the pins of a killed context are released. -/
def releaseAll (ck : Nat) (s : State) : State :=
  let c := s.ctx ck
  releasePins c.bind.part ((c.r.xlQ ++ c.r.xsQ).flatMap (·.pins)) s

/-- Whether a halting context has stopped. -/
def Ctx.stopped (c : Ctx) : Bool := c.st == .halting && match c.halt with | some h => decide (h.kind ≠ 1) | none => false

/-- R395: the frame is written, the slot becomes FREE and posts HALTED or FAULTED; a killed context leaves no frame. -/
def haltDone (ck : Nat) (s : State) : State :=
  let core := coreOf ck
  let c := s.ctx ck
  match c.halt with
  | none => s
  | some h =>
    if h.kind = 3 then
      let s := c.r.coll.foldl (fun s x => countColl x s) s
      postSlot core (ck % 4) 4 0 0 c.bind.part c.linst.toNat (freeSlot ck (releaseAll ck (leaveFreeze ck s)))
    else
      let s := s.modRegs ck fun r => { r with coll := r.coll.map Coll.abandonWaits }
      let s := countHeld (freeSlot ck (writeFrame ck s))
      if h.kind = 2 then
        postSlot core (ck % 4) 6 0 h.cause c.bind.part c.linst.toNat (raiseIrq c.bind.part 2 c.linst.toNat s)
      else postSlot core (ck % 4) 4 0 0 c.bind.part c.linst.toNat s

/-- Whether the arm queue has room for the entry that the end of a slot's context posts (R367). -/
def postsNow (ck : Nat) (s : State) : Bool := armqRoom (dieOf ck) (s.ctx ck).bind.part s

/-- What waits to post an entry for the context of a slot: its place in the queue, whose tile it pulls (R436). -/
def postWaits (ck : Nat) (s : State) : State := armqPull (dieOf ck) (s.ctx ck).bind.part s
def postPulls (ck : Nat) (s : State) : Bool := armqPulls (dieOf ck) (s.ctx ck).bind.part s

/-- The halt of a context ends, once its entry has room (R367). -/
def execContextHalted (core slot : Nat) : State → Host.Outcome State Fault Refusal :=
  run fun s =>
    let ck := core * 4 + slot
    if (s.ctx ck).stopped then (if postsNow ck s then haltDone ck s else postWaits ck s) else s

/-! ### Retirement (R378) -/

/-- Whether every stream of a running context has retired. -/
def Ctx.retired (c : Ctx) : Bool := c.st == .run && c.r.streams.toList.all (·.retired)

/-- R378: the scope of the release of a slot's context: `pkg`, or DSCOPE when that is wider. -/
def retireScope (ck : Nat) (s : State) : Nat × State :=
  let c := s.ctx ck
  let (r, _, s) := physRead (lrAddr s c.bind.part c.bind.ridx) 256 s
  (lrDscope r, s)

/-- Whether a RETIRING context ends now: its lines have their routes (R444) and its entry has room (R367). -/
def retireReady (ck : Nat) (s : State) : Bool :=
  (s.ctx ck).st == .retiring && postsNow ck s && !(s.noRoute ck (retireScope ck s).1 allClasses)

/-- R378: a placement whose streams have all ended passes to RETIRING; there it releases every class, then it is FREE and posts
RETIRED. -/
def execPlacementRetire (core slot : Nat) : State → Host.Outcome State Fault Refusal :=
  run fun s =>
    let ck := core * 4 + slot
    let c := s.ctx ck
    if c.retired then s.modCtx ck fun c => { c with st := .retiring }
    else if retireReady ck s then
      let (scope, s) := retireScope ck s
      postSlot core slot 3 0 0 c.bind.part c.linst.toNat (freeSlot ck (release ck scope allClasses (leaveFreeze ck s)))
    else if c.st = .retiring then postWaits ck s
    else s

/-- R320: a die L2 evicts a line: its dirty words reach the home. -/
def execL2Eviction (die line : Nat) : State → Host.Outcome State Fault Refusal :=
  run (l2Drop die fun l => decide (l.line = line))

end Sys2Proof.Machine
end

