-- ==== Sys2Proof/Machine/Fault.lean ====
section
/-!
DEFINITION. Translation faults: page-fault records and page requests (R390, R391), their answers (R392, R404), invalidations
(R388) and the host link's address translations (R389).
-/
namespace Sys2Proof.Machine
open Sys2Proof

/-! ### The halted accesses of a context -/

/-- Changes the first element that a test names. -/
def modFirst {α : Type} (p : α → Bool) (f : α → α) : List α → List α
  | [] => []
  | a :: r => if p a then f a :: r else a :: modFirst p f r

/-- The accesses of a unit that are halted on a translation (R390's codes). -/
def Ctx.halts (c : Ctx) (unit : Nat) : List Halted :=
  match unit with
  | 0 => c.sqHalt.toList
  | 3 => c.xlHalt.toList ++ c.r.xlQ.filterMap (·.halted)
  | 4 => c.xsHalt.toList ++ c.r.xsQ.filterMap (·.halted)
  | 10 => (c.r.coll.flatMap (·.chunks)).filterMap (·.halted)
  | u => if 5 ≤ u ∧ u ≤ 8 then (vget [] c.r.cxQ (u - 5)).filterMap (·.halted) else []

/-- Changes the first halted access of a unit that a test names. -/
def modHalt (ck unit : Nat) (p : Halted → Bool) (f : Halted → Halted) (s : State) : State :=
  let cmd : List Cmd → List Cmd := modFirst (fun q => haltIs p q.halted) fun q => { q with halted := q.halted.map f }
  match unit with
  | 0 => s.modCtx ck fun c => if haltIs p c.sqHalt then { c with sqHalt := c.sqHalt.map f } else c
  | 3 =>
    if haltIs p (s.ctx ck).xlHalt then s.modCtx ck fun c => { c with xlHalt := c.xlHalt.map f }
    else s.modRegs ck fun r => { r with xlQ := cmd r.xlQ }
  | 4 =>
    if haltIs p (s.ctx ck).xsHalt then s.modCtx ck fun c => { c with xsHalt := c.xsHalt.map f }
    else s.modRegs ck fun r => { r with xsQ := cmd r.xsQ }
  | 10 =>
    let chunk (y : Chunk) : Chunk := { y with halted := y.halted.map f }
    let coll (c : Coll) : Coll := { c with chunks := modFirst (fun y => haltIs p y.halted) chunk c.chunks }
    s.modRegs ck fun r => { r with coll := modFirst (fun c => c.chunks.any fun y => haltIs p y.halted) coll r.coll }
  | u =>
    let copy (q : CxCmd) : CxCmd := { q with halted := q.halted.map f }
    let queue (l : List CxCmd) : List CxCmd := modFirst (fun q => haltIs p q.halted) copy l
    s.modRegs ck fun r => { r with cxQ := vset r.cxQ (u - 5) (queue (vget [] r.cxQ (u - 5))) }

/-! ### Page-fault records and page requests (R390 to R392) -/

/-- R391: the FTAG of a context. -/
def ftagOf (ck : Nat) (c : Ctx) : Nat := coreOf ck + ck % 4 * 512 + c.bseq.toNat * 2048

/-- The virtual function that serves a partition (0 for none). -/
def State.vfOf (s : State) (part : Nat) : Nat := (s.part part).active.ctl.toNat % 128

/-- Whether the page-fault queue of a partition has room (R390). -/
def pfqRoom (part : Nat) (s : State) : Bool :=
  let v := s.vf (s.vfOf part)
  let k := (s.part part).active.pfq.toNat % 32
  decide ((v.pfqHead.toNat + 1) % 2 ^ k ≠ v.pfqTail.toNat % 2 ^ k)

/-- R390: appends a record and raises vector 1. -/
def pfqAppend (ck unit : Nat) (h : Halted) (s : State) : State :=
  let c := s.ctx ck
  let part := c.bind.part
  let f := s.vfOf part
  let r := (s.part part).active.pfq.toNat
  let head := (s.vf f).pfqHead.toNat
  let s := physWrite (r / 4096 * 4096 + 32 * head) 32
    (ftagOf ck c % 2 ^ 32 + h.tensor * 2 ^ 32 + unit * 2 ^ 48 + h.access * 2 ^ 56 + h.tile % 2 ^ 32 * 2 ^ 64
      + c.linst.toNat * 2 ^ 96) s
  let s := s.modVf f fun v => { v with pfqHead := BitVec.ofNat 16 ((head + 1) % 2 ^ (r % 32)) }
  raiseIrq part 1 c.linst.toNat s

/-- Whether a halted access has a record or a page request to make. -/
def Halted.toPost (h : Halted) : Bool := !h.posted && decide (h.why = 0 ∨ h.why = 3)

/-- Whether what a halted access makes has room: a record in the queue, or one of 512 page requests (R392). -/
def postRoom (part : Nat) (h : Halted) (s : State) : Bool :=
  if h.why = 3 then decide ((s.vf (s.vfOf part)).pri.length < 512) else pfqRoom part s

/-- Makes the record or the page request of a halted access. (log 24: DEDUCED) -/
def postHalt (ck unit : Nat) (h : Halted) (s : State) : State :=
  let part := (s.ctx ck).bind.part
  let s := if h.why = 3 then
      let ftag := ftagOf ck (s.ctx ck) % 2 ^ 32
      (s.modVf (s.vfOf part) fun v => { v with pri := v.pri ++ [ftag] }).modPkg fun p =>
        { p with out := p.out ++ [.pri part ftag h.page] }
    else pfqAppend ck unit h s
  modHalt ck unit (fun x => decide (x = h)) (fun x => { x with posted := true }) s

/-- R390: an access that met an ABSENT tile posts its record; with no room the unit waits for it. -/
def execPageFault (core slot unit : Nat) : State → Host.Outcome State Fault Refusal :=
  run fun s =>
    let ck := core * 4 + slot
    let c := s.ctx ck
    match (c.halts unit).find? fun h => h.toPost && decide (h.since = 0) with
    | none => s
    | some h =>
      if c.st = .binding then s
      else if postRoom c.bind.part h s then postHalt ck unit h s
      else modHalt ck unit (fun x => decide (x = h)) (fun x => { x with since := s.cycle.toNat + 1 }) s

/-- R390: a unit that waited for room appends its record. -/
def execPfqRoomAppend (core slot unit : Nat) : State → Host.Outcome State Fault Refusal :=
  run fun s =>
    let ck := core * 4 + slot
    let c := s.ctx ck
    match (c.halts unit).find? fun h => h.toPost && decide (h.since ≠ 0) with
    | none => s
    | some h =>
      if postRoom c.bind.part h s then postHalt ck unit h s else s

/-- The units (R390's codes) that can halt. -/
def haltUnits : List Nat := [0, 3, 4, 5, 6, 7, 8, 10]

/-- The halted accesses of every context, and of what CLE keeps for saved ones. -/
def State.allHalts (s : State) : List Halted :=
  (s.ctxs.flatMap fun x => haltUnits.flatMap fun u => x.2.halts u)
    ++ s.cle.flatMap fun h => (h.coll.flatMap (·.chunks)).filterMap (·.halted)

/-- R390: how many units wait for room in a full page-fault queue. -/
def State.pfqWaits (s : State) : Nat := (s.allHalts.filter fun h => h.toPost && decide (h.why = 0 ∧ h.since ≠ 0)).length

/-- R444: how many requests wait for a port: halted units, completion adds (R379), and messages to other packages. -/
def State.routeWaits (s : State) : Nat :=
  (s.allHalts.filter fun h => decide (h.why = 4)).length
    + (s.dies.flatMap fun d => d.2.mc.flatMap fun m => m.2.ldones.filter fun x => x.2 = 4).length
    + s.pkg.waiting.length

/-! ### Answers (R392, R404) -/

/-- The first unit of a context (SQ, XL, XS, CX0–3) that is halted on a translation fault: its stream, and the access. -/
def Ctx.firstHalt (c : Ctx) : Option (Option StreamId × Halted) :=
  ([0, 3, 4, 5, 6, 7, 8] : List Nat).findSome? fun u =>
    ((c.halts u).find? Halted.faulted).map fun h => (if u = 0 then some .sq else if u = 3 then some .xl else if u = 4 then some .xs else none, h)

/-- R392, R404: an answer for an FTAG. A context that halts for another reason gets none; one that drains still runs. -/
def pageAnswer (part ftag : Nat) (ok : Bool) (s : State) : State :=
  let ck := ftag % 512 * 4 + ftag / 512 % 4
  let c := s.ctx ck
  let waits := c.unitHalted || (c.halts 10).any Halted.onPage
  if ¬ c.bound ∨ c.bseq.toNat ≠ ftag / 2048 % 2 ^ 21 ∨ c.bind.part ≠ part ∨ ¬ waits ∨ 384 ≤ ftag % 512 then countPkg 1 1 s
  else if ok then
    if c.st = .halting ∧ ¬ c.draining then countPkg 1 1 s
    else
      let pages := ((haltUnits.flatMap c.halts).filter fun h => h.why = 3).map (·.page)
      let s := { s with ats := s.ats.filter fun x => !(decide (x.part = part) && pages.contains x.page) }
      s.setCtx ck (wakeCtx Halted.faulted c)
  else if c.st = .halting ∧ (c.halt.map (·.kind) = some 2 ∨ c.halt.map (·.kind) = some 3) then countPkg 1 1 s
  else
    let s := s.modRegs ck fun r => { r with coll := r.coll.map Coll.abandonWaits }
    match c.firstHalt with
    | some (u, h) => stopContext ck u .txFail 0 (h.tensor * 2 ^ 48 + h.tile) 0 0 false s
    | none => s

def execPfansOk (part ftag : Nat) : State → Host.Outcome State Fault Refusal := run (pageAnswer part ftag true)
def execPfansFail (part ftag : Nat) : State → Host.Outcome State Fault Refusal := run (pageAnswer part ftag false)

/-- R392: a page-request-group response; `code` 0 is Success. A response to no outstanding request is none. -/
def execPriResponse (part ftag code : Nat) : State → Host.Outcome State Fault Refusal :=
  run fun s =>
    let f := s.vfOf part
    if (s.vf f).pri.contains ftag then
      pageAnswer part ftag (decide (code = 0)) (s.modVf f fun v => { v with pri := v.pri.erase ftag })
    else s

/-! ### Invalidations (R388, R389) -/

/-- Changes the layout units of every core. -/
def modUnits (f : LayoutUnit → LayoutUnit) (s : State) : State :=
  { s with cores := s.cores.map fun c => (c.1, { c.2 with units := c.2.units.map f }) }

/-- The entries that an invalidation names leave a unit. -/
def LayoutUnit.invalidate (part kind tensor first count : Nat) (u : LayoutUnit) : LayoutUnit :=
  let hit (p d : Nat) : Bool := decide (p = part ∧ (kind = 2 ∨ d = tensor))
  { descs := u.descs.filter fun e => !(hit e.part e.desc && decide (1 ≤ kind))
    ttc := u.ttc.filter fun e => !(hit e.part e.desc && (decide (1 ≤ kind) || decide (first ≤ e.tile ∧ e.tile < first + count))) }

/-- The invalidation in progress at a port: 0 the virtual function of a partition, 1 + d the MC of die d. -/
def State.invAt (s : State) (port part : Nat) : Option (Nat × Nat × Nat × Nat) :=
  if port = 0 then (s.vf (s.vfOf part)).inv else (s.mcSet (port - 1) part).inv

def modInv (port part : Nat) (a : BitVec 64 → BitVec 64) (v : Option (Nat × Nat × Nat × Nat)) (s : State) : State :=
  if port = 0 then s.modVf (s.vfOf part) fun x => { x with inv := v, ttcA := a x.ttcA }
  else s.modMc (port - 1) part fun x => { x with inv := v, ttcA := a x.ttcA }

/-- A write of TTCINV_B under TTCINV_A: ignored while one is in progress; a partition that no function serves has no port 0. -/
def invStart (port part kind tensor first count : Nat) (s : State) : State :=
  if (s.invAt port part).isSome ∨ (port = 0 ∧ s.vfOf part = 0) then s
  else modInv port part
    (fun _ => BitVec.ofNat 64 (tensor % 65536 * 2 ^ 48 + kind * 2 ^ 46 + part * 2 ^ 40)) (some (kind, tensor, first, count)) s

def execTtcinvTiles (port part tensor first count : Nat) : State → Host.Outcome State Fault Refusal :=
  run (invStart port part 0 tensor first count)
def execTtcinvTensor (port part tensor : Nat) : State → Host.Outcome State Fault Refusal := run (invStart port part 1 tensor 0 0)
def execTtcinvPartition (port part : Nat) : State → Host.Outcome State Fault Refusal := run (invStart port part 2 0 0 0)

/-- R388: a plain write of TTCINV_A; BUSY and the reserved bits are read-only. -/
def putTtcA (v : Nat) : BitVec 64 := BitVec.ofNat 64 (v / 2 ^ 40 * 2 ^ 40)

/-- R388: every cache of the partition's cores has dropped the named entries; BUSY clears. -/
def execTtcinvDone (port part : Nat) : State → Host.Outcome State Fault Refusal :=
  run fun s =>
    match s.invAt port part with
    | none => s
    | some (k, t, f, n) => modInv port part id none (modUnits (LayoutUnit.invalidate part k t f n) s)

/-- R389: an ATS invalidation of `pages` pages from an IOVA. -/
def execAtsInvalidate (part iova pages : Nat) : State → Host.Outcome State Fault Refusal :=
  run fun s =>
    let gone (x : AtsEntry) : Bool := decide (x.part = part ∧ iova / 4096 ≤ x.page ∧ x.page < iova / 4096 + pages)
    { s with ats := s.ats.filter fun x => !gone x }

/-- R389: a translation completion: the cache takes it, and the accesses that waited for a translation try again. -/
def execAtsTranslationCompletion (part page hpa perms : Nat) : State → Host.Outcome State Fault Refusal :=
  run fun s =>
    let ats := lruPut 8192 (fun x => decide (x.part = part ∧ x.page = page)) ⟨part, page, hpa / 4096 * 4096, perms % 4⟩ s.ats
    let s := { s with ats := ats }
    wakeAll (fun p => decide (p = part)) (fun h => decide (h.why = 2)) s

end Sys2Proof.Machine
end

