-- ==== Sys2Proof/Machine/Layout.lean ====
section
/-!
DEFINITION. Partitions and their layout: the shadow and active records (R406 to R408), the layout controller with its checks
and its quiesce (R411 to R414) and the world registers (R420). Register addresses are those of `regPlace`.
-/
namespace Sys2Proof.Machine
open Sys2Proof

/-! ### Device registers and their writers (R408, R415, R420) -/

/-- Where a register write goes: the die whose MC addresses it, and its offset from MC address 0x2_0000_0000. A value of
`addr` from 2^33 on is an MC address plus 2^40 × die; one below is an offset in PF BAR0, which maps the layout, migration
and virtual-function ranges, each die's block and the package block. (log 26: DEDUCED) -/
def regPlace (addr : Nat) : Option (Nat × Nat) :=
  if 2 ^ 33 ≤ addr then
    if addr / 2 ^ 40 < 8 ∧ 2 ^ 33 ≤ addr % 2 ^ 40 then some (addr / 2 ^ 40, addr % 2 ^ 40 - 2 ^ 33) else none
  else if addr < 0x34000 then some (0, 0x40000 + addr)
  else if 0x40000 ≤ addr ∧ addr < 0x50000 then some ((addr - 0x40000) / 0x2000, 0x80000 + (addr - 0x40000) % 0x2000)
  else if 0x50000 ≤ addr ∧ addr < 0x60000 then some (0, 0x90000 + (addr - 0x50000))
  else none

/-- R420: whether a writer that claims to be secure is one: host accesses are not, nor are MCs of non-secure dies. -/
def State.secureWriter (s : State) (claim : Bool) (addr : Nat) : Bool :=
  claim && decide (2 ^ 33 ≤ addr) && s.pkg.world.mcw.getLsbD (addr / 2 ^ 40)

/-- Bits `[lo + n - 1 : lo]` of a value. -/
def bitsOf (v lo n : Nat) : Nat := v / 2 ^ lo % 2 ^ n

/-- A 64-bit word of a wider register replaced. -/
def setWord {w : Nat} (x : BitVec w) (i v : Nat) : BitVec w :=
  BitVec.ofNat w (x.toNat - bitsOf x.toNat (64 * i) 64 * 2 ^ (64 * i) + v % 2 ^ 64 * 2 ^ (64 * i))

/-! ### Records (R407, R408, R420) -/

/-- A die's record of a partition with 64-bit word `i` written. -/
def DieLayout.put (l : DieLayout) (i v : Nat) : DieLayout :=
  match i with
  | 0 => { l with cores := BitVec.ofNat 48 v, rsv2 := BitVec.ofNat 16 (v / 2 ^ 48) }
  | 1 => { l with ways := BitVec.ofNat 24 v, rsv := BitVec.ofNat 40 (v / 2 ^ 24) }
  | j => { l with tdm := setWord l.tdm (j - 2) v }

/-- A package record with 64-bit word `i` written. -/
def PkgRec.put (r : PkgRec) (i v : Nat) : PkgRec :=
  let w := BitVec.ofNat 64 v
  match i with
  | 0 => { r with ctl := w }
  | 1 => { r with ttab := w }
  | 2 => { r with cbtab := w }
  | 3 => { r with lrpool := w }
  | 4 => { r with pfq := w }
  | 5 => { r with ilog := w }
  | _ => r

/-- The world registers with word `i` written: SECBLK, then SECRNG0–15. -/
def World.put (w : World) (i v : Nat) : World :=
  if i = 0 then
    { w with
      mcw := BitVec.ofNat 8 (v / 2 ^ 44), clew := BitVec.ofNat 8 (v / 2 ^ 36), portw := BitVec.ofNat 36 v
      rsv := BitVec.ofNat 12 (v / 2 ^ 52) }
  else { w with rng := vset w.rng (i - 1) (BitVec.ofNat 64 v) }

/-- A die's shadow record of a partition. -/
def State.dieShadow (s : State) (d p : Nat) : DieLayout := getAt {} p (s.die d).shadow
def State.dieActive (s : State) (d p : Nat) : DieLayout := getAt {} p (s.die d).active

def PkgRec.isValid (r : PkgRec) : Bool := r.ctl.getLsbD 63
def PkgRec.isSecure (r : PkgRec) : Bool := r.ctl.getLsbD 62
def PkgRec.vfn (r : PkgRec) : Nat := r.ctl.toNat % 128

/-- Whether two package records differ in a field of R408. -/
def PkgRec.differs (a b : PkgRec) : Bool := decide ({ a with cbPhys := none } ≠ { b with cbPhys := none })

/-- R411 AFFECT: the partitions whose shadow records differ from the active ones. -/
def State.affected (s : State) : BitVec 64 :=
  BitVec.ofNat 64 (((List.range 64).filter fun p =>
    (s.part p).shadow.differs (s.part p).active ||
    (List.range 8).any fun d => decide (s.dieShadow d p ≠ s.dieActive d p)).foldl (fun m p => m + 2 ^ p) 0)

/-! ### CHECK (R412, R453) -/

/-- STATUS 1: a core in two valid partitions, in one that is not valid, or at or above NCORE. -/
def layoutCoresBad (s : State) : Bool :=
  (List.range 8).any fun d =>
    let owners (n : Nat) : List Nat := (List.range 64).filter fun p => (s.dieShadow d p).cores.getLsbD n
    (List.range 48).any fun n =>
      let o := owners n
      (o.any fun p => !(s.part p).shadow.isValid) || decide (2 ≤ o.length) || (decide ((s.die d).ncore ≤ n) && !o.isEmpty)

/-- STATUS 2: a ring entry in two partitions, or cores without an entry. -/
def layoutTdmBad (s : State) : Bool :=
  (List.range 8).any fun d =>
    let masks := (List.range 64).map fun p => (s.dieShadow d p).tdm
    decide ((masks.foldl (fun (a : BitVec 256 × Bool) m => (a.1 ||| m, a.2 || decide (a.1 &&& m ≠ 0))) (0, false)).2) ||
    (List.range 64).any fun p => decide ((s.dieShadow d p).cores ≠ 0 ∧ (s.dieShadow d p).tdm = 0)

/-- STATUS 3: cores without a way. -/
def layoutWaysBad (s : State) : Bool :=
  (List.range 8).any fun d => (List.range 64).any fun p =>
    decide ((s.dieShadow d p).cores ≠ 0 ∧ (s.dieShadow d p).ways = 0)

/-- STATUS 4: a change of the worlds or of a secure partition by a non-secure writer. -/
def layoutWorldBad (s : State) (secure : Bool) : Bool :=
  !secure && (decide (s.pkg.worldShadow ≠ s.pkg.world) ||
    (List.range 64).any fun p => s.affected.getLsbD p && ((s.part p).shadow.isSecure || (s.part p).active.isSecure))

/-- A queue register of a valid partition: K from 6 to 16. -/
def queueBad (r : BitVec 64) (valid : Bool) : Bool :=
  decide (bitsOf r.toNat 5 7 ≠ 0) || (valid && decide (r.toNat % 32 < 6 ∨ 16 < r.toNat % 32))

/-- Whether a reserved field of the world registers is not zero. -/
def World.reserved (w : World) : Bool := decide (w.rsv ≠ 0) || w.rng.toList.any fun r => decide (bitsOf r.toNat 1 15 ≠ 0)

/-- STATUS 5: a reserved field, an alignment, K, or a virtual function that serves two partitions. -/
def layoutRecordBad (s : State) : Bool :=
  s.pkg.worldShadow.reserved || (List.range 64).any fun p =>
    let r := (s.part p).shadow
    decide (bitsOf r.ctl.toNat 7 55 ≠ 0) || decide (64 < r.vfn) || decide (r.lrpool.toNat % 2 ^ 20 ≠ 0)
    || queueBad r.ilog r.isValid || queueBad r.pfq r.isValid
    || ((List.range 8).any fun d => decide ((s.dieShadow d p).rsv ≠ 0 ∨ (s.dieShadow d p).rsv2 ≠ 0))
    || (r.isValid && decide (r.vfn ≠ 0) && (List.range p).any fun q =>
        (s.part q).shadow.isValid && decide ((s.part q).shadow.vfn = r.vfn))

/-- R412: the status of a CHECK. (log 27: DEDUCED) -/
def layoutStatus (s : State) (secure : Bool) : Nat :=
  if layoutCoresBad s then 1
  else if layoutTdmBad s then 2
  else if layoutWaysBad s then 3
  else if layoutWorldBad s secure then 4
  else if layoutRecordBad s then 5
  else if s.pkg.lstate ≠ .idle then 6
  else 0

def setLayout (st : LayoutState) (status : Nat) : State → State := State.modPkg fun k => { k with lstate := st, lstatus := status }

/-- R412, R413: CHECK. -/
def execLayoutCheck (secure : Bool) : State → Host.Outcome State Fault Refusal :=
  run fun s =>
    let st := layoutStatus s (secure && decide (s.pkg.world.mcw ≠ 0))
    if st = 0 then (setLayout .staged 0 s).modPkg fun k => { k with affect := s.affected }
    else s.modPkg fun k => { k with lstatus := st }

/-- The contexts of the partitions in AFFECT, and those partitions. -/
def affectedParts (s : State) : List Nat := (List.range 64).filter fun p => s.pkg.affect.getLsbD p
def affectedCtxs (s : State) : List Nat :=
  (s.ctxs.filter fun x => x.2.st != .free && s.pkg.affect.getLsbD x.2.bind.part).map (·.1)

/-- R413, R414: COMMIT: every context of an affected partition in RUN, GATED or BINDING is pre-empted. -/
def execLayoutCommit (_secure : Bool) : State → Host.Outcome State Fault Refusal :=
  run fun s =>
    if s.pkg.lstate = .staged then (affectedCtxs s).foldl (fun s ck => preemptLive ck s) (s.modPkg fun k => { k with lstate := .quiesce })
    else s.modPkg fun k => { k with lstatus := 6 }

/-- R413: ABORT. -/
def execLayoutAbort : State → Host.Outcome State Fault Refusal :=
  run fun s => if s.pkg.lstate = .staged ∨ s.pkg.lstate = .quiesce then setLayout .idle 7 s else s

/-! ### Shadow writes (R407, R408, R413, R420) -/

/-- The effect of a shadow write at a register place, or nothing where there is no shadow. -/
def shadowPut (die off value : Nat) (secure : Bool) (s : State) : Option State :=
  let i := off % 0x40 / 8
  if 0x41000 ≤ off ∧ off < 0x42000 ∧ i < 6 then
    let p := (off - 0x41000) / 0x40
    some (s.modDie die fun d => { d with shadow := setAt p ((getAt {} p d.shadow).put i value) d.shadow })
  else if 0x52000 ≤ off ∧ off < 0x53000 ∧ i < 6 then
    let p := (off - 0x52000) / 0x40
    let keep := if secure ∨ i ≠ 0 then value
      else value - bitsOf value 62 1 * 2 ^ 62 + if (s.part p).shadow.isSecure then 2 ^ 62 else 0
    some (s.modPart p fun x => { x with shadow := x.shadow.put i keep })
  else if 0x53100 ≤ off ∧ off < 0x53188 then
    some (s.modPkg fun k => { k with worldShadow := k.worldShadow.put ((off - 0x53100) / 8) value })
  else none

/-- R420: whether a non-secure write names a world register, or changes a SECURE bit. (log 27: DEDUCED) -/
def shadowViolates (off value : Nat) (secure : Bool) (s : State) : Bool × Bool :=
  if secure then (false, false)
  else if 0x53100 ≤ off ∧ off < 0x53188 then (true, true)
  else if 0x52000 ≤ off ∧ off < 0x53000 ∧ off % 0x40 = 0 then
    (false, (s.part ((off - 0x52000) / 0x40)).shadow.isSecure != decide (bitsOf value 62 1 = 1))
  else (false, false)

/-- R413, R420: a write to a shadow record: one that the controller's state or the writer's world refuses changes nothing, and each
counts it. -/
def execShadowWrite (secure : Bool) (addr value : Nat) : State → Host.Outcome State Fault Refusal :=
  run fun s =>
    match regPlace addr with
    | none => s
    | some (die, off) =>
      if off % 8 ≠ 0 then s
      else match shadowPut die off value (s.secureWriter secure addr) s with
        | none => s
        | some t =>
          let (whole, violates) := shadowViolates off value (s.secureWriter secure addr) s
          let t :=
            if s.pkg.lstate = .quiesce ∨ s.pkg.lstate = .tick then countPkg 2 1 s
            else if whole then s
            else if s.pkg.lstate = .staged then setLayout .idle 8 t
            else t
          if violates then countPkg 3 1 t else t

/-! ### Quiesce and tick (R413, R414, R420) -/

/-- Whether every context of the affected partitions is FREE. -/
def State.quiet (s : State) : Bool := s.pkg.lstate == .quiesce && (affectedCtxs s).isEmpty

/-- The ways of a die's L2 that a partition loses at the tick. -/
def State.lostWays (s : State) (d p : Nat) : BitVec 24 := (s.dieActive d p).ways &&& ~~~((s.dieShadow d p).ways)

/-- Whether a line belongs to a partition and lies in a way that it loses. -/
def State.losesLine (s : State) (d p : Nat) (l : L2Line) : Bool := decide (l.owner = p) && (s.lostWays d p).getLsbD l.way

/-- R414: the lines that a partition owns in ways that it loses are cleaned and dropped. -/
def dropLostWays (p : Nat) (s : State) : State := (List.range 8).foldl (fun s d => l2Drop d (s.losesLine d p) s) s

/-- Whether a line that an affected partition loses waits for a route (R444). -/
def State.loseWaits (s : State) : Bool :=
  (List.range 8).any fun d => (s.die d).l2.any fun l => (affectedParts s).any fun p => s.losesLine d p l && s.waitsRoute l

/-- R386: every descriptor and tile entry of a partition leaves the translation caches. -/
def dropTranslations (p : Nat) : State → State := modUnits (LayoutUnit.invalidate p 2 0 0 0)

/-- R414: the affected partitions, whose contexts are all FREE, clean their lines and drop their translations, and are quiet. It waits for
the routes of those lines (R444). (log 27: DEDUCED) -/
def execQuiesceDone : State → Host.Outcome State Fault Refusal :=
  run fun s =>
    if s.quiet && !s.loseWaits then
      ((affectedParts s).foldl (fun s p => dropTranslations p (dropLostWays p s)) s).modPkg fun k => { k with lstate := .tick }
    else s

/-- R413, R420: at the next cycle that is a multiple of 16, shadow becomes active everywhere. (log 27: DEDUCED) -/
def execLayoutTick : State → Host.Outcome State Fault Refusal :=
  run fun s =>
    if s.pkg.lstate = .tick then
      { s with
        cycle := BitVec.ofNat 64 ((s.cycle.toNat + 15) / 16 * 16)
        dies := s.dies.map fun d => (d.1, { d.2 with active := d.2.shadow })
        parts := s.parts.map fun p => (p.1, { p.2 with active := p.2.shadow })
        pkg := { s.pkg with
          world := s.pkg.worldShadow, lver := s.pkg.lver + 1, lstatus := 0, lstate := .idle, affect := 0 } }
    else s

end Sys2Proof.Machine
end

