-- ==== Sys2Proof/Machine/Device.lean ====
section
/-!
DEFINITION. The device's registers as the host and the firmware write them (R366, R369, R408, R415, R426, R440, R443, R445,
R449, R454, R455), a guest's residence (R419), attestation (R423, R424) and boot (R422).
-/
namespace Sys2Proof.Machine
open Sys2Proof

/-! ### Ports (R440, R441, R443, R444) -/

/-- R441: the width code of a port with `g` good lanes: 0 down, 1, 2 or 3 for 1, 2 or 4 lanes. -/
def laneWidth (g : Nat) : Nat := if 4 ≤ g then 3 else if 2 ≤ g then 2 else if g = 1 then 1 else 0

/-- R441: a port with its good lanes set: its width, or down when that falls below WMIN. -/
def Port.train (p : Port) (lgood : BitVec 5) : Port :=
  let w := laneWidth (popNat 5 lgood.toNat)
  let w := if w < p.wmin.toNat + 1 then 0 else w
  { p with lgood := lgood, width := BitVec.ofNat 2 w, up := p.en && decide (w ≠ 0), retraining := false }

def modPort (k : Nat) (f : Port → Port) : State → State :=
  State.modPkg fun p => { p with ports := vset p.ports k (f (vget {} p.ports k)) }

/-- The cleans of this package's own that wait in a home slice meet their frames again, in their order (R436, R444). -/
def retryCleans (s : State) : State :=
  let mine (h : Held) : Bool := !h.dma && decide (h.req.pkg = s.pkg.num.toNat)
  (s.pkg.held.filter mine).foldl (fun s h => s.cleanWrite h.req.addr h.req.size h.req.value (decide (h.req.poison ≠ 0)))
    (s.modPkg fun k => { k with held := k.held.filter fun h => !mine h })

/-- R444: the units, messages and cleans that wait for a route try again. -/
def wakeRoutes (s : State) : State :=
  let s := wakeAll (fun _ => true) (fun h => decide (h.why = 4)) s
  let out (x : Nat × Msg) : Bool := !(s.upPorts x.1).isEmpty
  retryCleans (s.modPkg fun k => { k with
    waiting := k.waiting.filter fun x => !out x
    out := k.out ++ (k.waiting.filter out).map (·.2) })

/-! ### Plain registers -/

/-- A core's slot table (R369, R370, R454): pending entries and the counters of its slots. -/
def slotTablePut (core o v : Nat) (s : State) : State :=
  if 0x100 ≤ o ∧ o < 0x300 then
    s.modCore core fun c =>
      let e := vget {} c.pending ((o - 0x100) / 0x40)
      { c with pending := vset c.pending ((o - 0x100) / 0x40) { e with bits := setWord e.bits (o % 0x40 / 8) v } }
  else if 0x400 ≤ o ∧ o < 0x480 then
    s.modRegs (core * 4 + (o - 0x400) / 0x20) fun r =>
      match o % 0x20 with
      | 0 => { r with caseWait := BitVec.ofNat 64 v }
      | 8 => { r with caseRefill := BitVec.ofNat 64 v }
      | 16 => { r with boundMiss := BitVec.ofNat 64 v }
      | _ => r
  else s

/-- A partition's register set at a die's MC (R366). -/
def mcSetPut (die p o v : Nat) : State → State :=
  State.modMc die p fun m =>
    match o with
    | 0x00 => { m with base := BitVec.ofNat 64 (v / 4096 * 4096) }
    | 0x10 => { m with tail := v % 2 ^ 14 }
    | 0x28 => { m with cleBase := BitVec.ofNat 52 (v / 4096), cleCount := BitVec.ofNat 9 v }
    | _ => m

/-- R426: a field of an MA record; the fields of a migration change in IDLE only, MTMO and PUSH at any time and in range. -/
def Ma.put (m : Ma) (o v : Nat) : Ma :=
  if o = 0x38 then
    let t := bitsOf v 16 16
    let m := if t = 0 then m else { m with mtmo := BitVec.ofNat 16 t }
    if 64 < v % 2 ^ 7 then m else { m with push := BitVec.ofNat 7 v }
  else if m.phase ≠ .idle then m
  else match o with
    | 0x10 => { m with ppkg := BitVec.ofNat 8 v, ppart := BitVec.ofNat 8 (v / 256) }
    | 0x18 => { m with rbase := BitVec.ofNat 64 (bitsOf v 20 44 * 2 ^ 20), rsize := BitVec.ofNat 16 v }
    | 0x20 => { m with fbase := BitVec.ofNat 64 (bitsOf v 3 61 * 8) }
    | 0x28 => { m with fcount := BitVec.ofNat 32 v }
    | 0x30 => { m with mbase := BitVec.ofNat 64 (bitsOf v 16 48 * 2 ^ 16) }
    | _ => m

/-- A die's block (R449, R454). -/
def dieBlockPut (die o v : Nat) : State → State :=
  State.modDie die fun d =>
    if o = 0 then { d with elBase := BitVec.ofNat 64 (v / 4096 * 4096 + v % 16) }
    else if o = 0x10 then { d with elTail := v % 2 ^ 16 }
    else if 0x100 ≤ o ∧ o < 0x130 then { d with counters := vset d.counters ((o - 0x100) / 8) (BitVec.ofNat 64 v) }
    else d

/-- R445: whether a partition of the package is valid. -/
def State.anyValid (s : State) : Bool := s.parts.any fun p => p.2.active.isValid

/-- The package block (R440, R443, R445, R454, R455). -/
def pkgBlockPut (o v : Nat) (s : State) : State :=
  if o < 0x900 ∧ o % 0x40 = 0 then
    wakeRoutes (modPort (o / 0x40) (fun p =>
      let p := { p with wmin := if bitsOf v 1 2 = 3 then p.wmin else BitVec.ofNat 2 (bitsOf v 1 2) }
      if v % 2 = 0 then { p with en := false, up := false, width := 0, retraining := false }
      else if !p.en then { p with en := true, retraining := true }
      else if p.retraining then p
      else p.train p.lgood) s)
  else if 0x1000 ≤ o ∧ o < 0x1800 then
    wakeRoutes (s.modPkg fun k => { k with route := vset k.route ((o - 0x1000) / 8) (BitVec.ofNat 36 v) })
  else if o = 0x2100 then
    if 400 ≤ v % 4096 ∧ v % 4096 ≤ 2800 then s.modPkg fun k => { k with pwrlim := BitVec.ofNat 12 v } else s
  else if 0x2200 ≤ o ∧ o < 0x2238 then
    s.modPkg fun k => { k with counters := vset k.counters ((o - 0x2200) / 8) (BitVec.ofNat 64 v) }
  else if 0x2308 ≤ o ∧ o < 0x2328 then
    if s.anyValid then countPkg 2 1 s
    else s.modPkg fun k => { k with dmemb := vset k.dmemb ((o - 0x2308) / 8) (BitVec.ofNat 64 v) }
  else s

/-- A register of a virtual function that software writes and that has no event of its own (R415). -/
def vfPut (v x val : Nat) (s : State) : State :=
  if (s.partOfVf v).isNone then s
  else s.modVf v fun f =>
    match x with
    | 0x018 => { f with ttcA := putTtcA val }
    | 0x030 => { f with pfqTail := BitVec.ofNat 16 val }
    | 0x040 => { f with ilogTail := BitVec.ofNat 16 val }
    | 0x048 => { f with ilogOvf := f.ilogOvf &&& ~~~(BitVec.ofNat 4 val) }
    | _ => f

/-- R408, R415: a 64-bit write to a register without a behaviour of its own; any other address is left as it is. -/
def execRegisterWrite (_secure : Bool) (addr value : Nat) : State → Host.Outcome State Fault Refusal :=
  run fun s =>
    if addr % 8 ≠ 0 then s
    else if 0x100000 ≤ addr ∧ addr < 0x140000 then vfPut ((addr - 0x100000) / 0x1000 + 1) (addr % 0x1000) value s
    else match regPlace addr with
      | none => s
      | some (die, off) =>
        if off < 0x30000 then slotTablePut (die * 48 + off / 0x1000) (off % 0x1000) value s
        else if off < 0x31000 then mcSetPut die ((off - 0x30000) / 0x40) (off % 0x40) value s
        else if 0x70000 ≤ off ∧ off < 0x74000 ∧ off % 0x100 = 0x18 then
          s.modMc die ((off - 0x70000) / 0x100) fun m => { m with ttcA := putTtcA value }
        else if 0x60000 ≤ off ∧ off < 0x61000 then
          s.modPart ((off - 0x60000) / 0x40) fun p => { p with ma := p.ma.put (off % 0x40) value }
        else if 0x80000 ≤ off ∧ off < 0x82000 then dieBlockPut die (off - 0x80000) value s
        else if 0x90000 ≤ off ∧ off < 0x92400 then pkgBlockPut (off - 0x90000) value s
        else s

/-! ### A guest's residence (R419) -/

/-- R417, R419: the physical function writes RESIDENT; interrupts of earlier events have gone the old way. -/
def execResidentWrite (vf value : Nat) : State → Host.Outcome State Fault Refusal :=
  run fun s => if (s.partOfVf vf).isNone then s else s.modVf vf fun f => { f with resident := decide (value % 2 = 1) }

/-! ### Attestation (R423, R424) -/

/-- R424: a request; one while another of the function is pending is ignored with STATUS BUSY. -/
def execAttreq (vf value : Nat) : State → Host.Outcome State Fault Refusal :=
  run fun s =>
    if (s.partOfVf vf).isNone then s
    else if (s.vf vf).attReq.isSome then s.modVf vf fun f => { f with attStat := f.attStat &&& 0x10#5 ||| 1#5 }
    else
      (s.modVf vf fun f => { f with attReq := some (value / 4096 * 4096), attStat := 1 }).modPkg fun k =>
        { k with attQueue := k.attQueue ++ [vf] }

/-- The 48 bytes of a package record and of a die's record. -/
def PkgRec.bytes (r : PkgRec) : List (BitVec 8) :=
  [r.ctl, r.ttab, r.cbtab, r.lrpool, r.pfq, r.ilog].flatMap fun w => bytesOf 8 w.toNat
def DieLayout.bytes (l : DieLayout) : List (BitVec 8) :=
  bytesOf 6 l.cores.toNat ++ bytesOf 2 l.rsv2.toNat ++ bytesOf 3 l.ways.toNat ++ bytesOf 5 l.rsv.toNat ++ bytesOf 32 l.tdm.toNat

/-- R424: the first 256 bytes of a report. -/
def reportBytes (part : Nat) (nonce : List (BitVec 8)) (s : State) : List (BitVec 8) :=
  let r := (s.part part).active
  bytesOf 4 0x54415A56 ++ bytesOf 4 s.pkg.svn.toNat ++ bytesOf 8 Config.serial.toNat ++ bytesOf 64 s.pkg.fwmeas
    ++ bytesOf 4 s.pkg.lver.toNat ++ bytesOf 2 part ++ bytesOf 2 (if r.isSecure then 1 else 0) ++ bytesOf 8 0
    ++ shake256 (r.bytes ++ (List.range 8).flatMap fun d => (s.dieActive d part).bytes)
    ++ nonce ++ bytesOf 64 0

/-- Ends the request at the head of the queue with a status, and raises vector 3. -/
def attestEnd (vf part status : Nat) (s : State) : State :=
  let s := s.modVf vf fun f => { f with attReq := none, attStat := BitVec.ofNat 5 (16 + status) }
  raiseIrq part 3 0 (s.modPkg fun k => { k with attQueue := k.attQueue.drop 1 })

/-- Ends the request at the head of the queue of a function that serves no partition any more: FAULT, with vector 3 at a resident function
and in the overflow bits of one that is not. (log 28: DEDUCED) -/
def attestOrphan (vf : Nat) (s : State) : State :=
  let s := (s.modVf vf fun f => { f with attReq := none, attStat := 19 }).modPkg fun k => { k with attQueue := k.attQueue.drop 1 }
  if (s.vf vf).resident then sendMsix vf 3 s else s.modVf vf fun f => { f with ilogOvf := f.ilogOvf ||| 8#4 }

/-- R423: one index of the current block is used; a block used up burns the next fuse bit. -/
def useIndex (k : Pkg) : Pkg :=
  if k.sigIndex + 1 < 1024 then { k with sigIndex := k.sigIndex + 1 }
  else { k with sigIndex := 0, fuses := min 1024 (k.fuses + 1) }

/-- The translations of a report's three pages. -/
def reportPages (part iova : Nat) (s : State) : List (Option AtsEntry) :=
  (List.range 3).map fun i => s.ats.find? fun x => decide (x.part = part ∧ x.page = iova / 4096 + i)

/-- Whether the request at the head of the queue can be served: no index of a block stands after a loss of supply (R423).
(log 28: DEDUCED) -/
def attestReady (vf : Nat) (s : State) : Bool :=
  decide (s.pkg.attQueue.head? = some vf) &&
  match s.partOfVf vf, (s.vf vf).attReq with
  | some part, some iova =>
    decide (s.pkg.sigIndex < 1024) && (decide (1024 ≤ s.pkg.fuses) || (reportPages part iova s).all (·.isSome))
  | _, _ => true

/-- R424: the report at the head of the queue is written, or ends EXHAUSTED or FAULT. It waits for its translations. -/
def execAttestDone (vf : Nat) : State → Host.Outcome State Fault Refusal :=
  run fun s =>
    if ¬ attestReady vf s then s
    else match s.partOfVf vf, (s.vf vf).attReq with
      | some part, some iova =>
        if 1024 ≤ s.pkg.fuses then attestEnd vf part 2 s
        else
          let pages := (reportPages part iova s).filterMap id
          if pages.any (fun x => decide (x.perms / 2 = 0)) || (pages.take 1).any (fun x => decide (x.perms % 2 = 0)) then
            attestEnd vf part 3 s
          else
            let at0 := hostKey ((pages.map (·.hpa)).headD 0)
            let head := reportBytes part (bytesOf 32 (s.homeRead (at0 + 0xA0) 32).1) s
            let index := (s.pkg.fuses - 1) * 1024 + s.pkg.sigIndex
            let all := numOf (head ++ identitySign index head)
            let s := (enum pages).foldl (fun s x =>
              s.homeWrite (hostKey x.2.hpa) (min 4096 (9988 - 4096 * x.1)) (all / 2 ^ (8 * 4096 * x.1))) s
            attestEnd vf part 0 (s.modPkg useIndex)
      | _, _ => attestOrphan vf s

/-! ### Boot (R422) -/

/-- The buffer key of the firmware window (PF BAR2 offset 0) and its size. -/
def bootWindow : Nat := 2 ^ 48
def bootWindowSize : Nat := 2 ^ 24

/-- R422: the outcome of verifying the image in the window: BOOTSTAT, its SVN and the bytes that are signed. -/
def bootImage (s : State) : Nat × Nat × List (BitVec 8) :=
  let rd (o n : Nat) : Nat := (s.bufRead (bootWindow + o) n).1
  let len := rd 8 4
  if rd 0 4 ≠ 0x4D57465A then (2, 0, [])
  else if bootWindowSize < len + 9732 then (5, 0, [])
  else
    let image := bytesOf len (rd 0 len)
    if !imageSigned image (bytesOf 9732 (rd len 9732)) then (3, 0, [])
    else if rd 4 4 < s.pkg.svnFloor then (4, 0, [])
    else (1, rd 4 4, image)

/-- R422: BOOTGO: the ROM verifies the image and starts the eight MCs, or stays in control. (log 28: DEDUCED) -/
def execBootgo (value : Nat) : State → Host.Outcome State Fault Refusal :=
  run fun s =>
    if value ≠ 1 ∨ s.pkg.boot = 1 then s
    else
      let (st, svn, image) := bootImage s
      if st ≠ 1 then s.modPkg fun k => { k with boot := st }
      else
        let s := s.modPkg fun k =>
          { k with boot := 1, svn := BitVec.ofNat 32 svn, svnFloor := max k.svnFloor svn, fwmeas := numOf (shake256 image) }
        (List.range 8).foldl (fun s d => s.modDie d fun x => { x with mcRunning := true }) s

end Sys2Proof.Machine
end

