-- ==== Sys2Proof/Machine/Migrate.lean ====
section
/-!
DEFINITION. Live migration of a virtual device: the migration agent's commands and phases (R426, R427), the freeze (R428),
the state transfer (R429), tiles on the move (R432 to R435, R438), redirects (R437), and the accesses that arrive at this
package from its host link and from other packages (R421, R436, R445).
-/
namespace Sys2Proof.Machine
open Sys2Proof

/-! ### The record and the frame map (R426, R430) -/

def modMa (p : Nat) (f : Ma → Ma) : State → State := State.modPart p fun x => { x with ma := f x.ma }

/-- Sets a record's STATUS. -/
def maStatus (p n : Nat) : State → State := modMa p fun m => { m with status := n }

/-- The migrations that the agent serves (R426). -/
def State.maCount (s : State) : Nat := (s.parts.filter fun x => x.2.ma.phase != .idle).length

/-- R430: whether an MA record of the package holds another MBASE. -/
def mapDiffers (p : Nat) (s : State) : Bool := (List.range 64).any fun i => decide ((s.part i).ma.mbase ≠ (s.part p).ma.mbase)

/-- Writes a frame-map entry of a partition's migration. -/
def setMap (p frame v : Nat) (s : State) : State := physWrite ((s.part p).ma.mbase.toNat / 65536 * 65536 + 8 * frame) 8 v s

/-- The frames of the free-frame list, and those of them whose entry is PENDING, which go back to NONE. -/
def freeFrames (p : Nat) (s : State) : List Nat :=
  let m := (s.part p).ma
  (List.range m.fcount.toNat).map fun i => (s.homeRead (m.fbase.toNat + 8 * i) 8).1 / 65536
def clearPending (p : Nat) (s : State) : State :=
  (freeFrames p s).foldl (fun s f => if mapMst (s.frameState f) = 4 then setMap p f 0 s else s) s

/-! ### Tiles (R385, R429, R432) -/

/-- Writes the bytes that are not zero of a range of memory, and zeroes the rest of it. -/
def putBytes (base len : Nat) (bytes : List (Nat × BitVec 8)) (s : State) : State :=
  if base + len ≤ dramEnd then
    { s with
      wbuf := ((bytes.filter fun b => b.1 < len).map fun b => (base + b.1, b.2))
        ++ moveCells [] [] base len base (commit s.mem s.wbuf) ++ s.wbuf
      poison := s.poison.filter fun w => !decide (base ≤ 8 * w ∧ 8 * w < base + len) }
  else s.stop (.noDram base)

/-- The bytes of a range of memory that are not zero, by offset. -/
def State.rangeBytes (s : State) (base n : Nat) : List (Nat × BitVec 8) :=
  ((commit s.mem s.wbuf).filter fun c => base ≤ c.1 ∧ c.1 < base + n).map fun c => (c.1 - base, c.2)

/-- The poisoned 64-bit words of a range of memory, by offset; those of a channel out of service too (R448, R453). -/
def State.rangePoison (s : State) (base n : Nat) : List Nat :=
  ((s.poison.filter fun w => base ≤ 8 * w ∧ 8 * w < base + n).map fun w => w - base / 8)
    ++ ((framePieces base (n / 65536 + 2) 0 n).filter fun p => s.channelOff (base + p.1)).flatMap fun p =>
      (List.range (p.2 / 8)).map (· + p.1 / 8)

/-- Poisons words of a range of memory, by offset. -/
def putPoison (base : Nat) (l : List Nat) (s : State) : State := l.foldl (fun s w => s.homePoison (base + 8 * w)) s

/-- The bytes of a frame that are not zero, and its poisoned words, by offset; a frame of a channel out of service is poison (R453). -/
def frameBytes (frame : Nat) (s : State) : List (Nat × BitVec 8) × List Nat :=
  if s.channelOff (frame * 65536) then ([], List.range 8192)
  else (s.rangeBytes (frame * 65536) 65536,
    (s.poison.filter fun w => frame * 8192 ≤ w ∧ w < frame * 8192 + 8192).map fun w => w - frame * 8192)

/-- R433: the units that wait for a tile on the move translate again. -/
def wakeMoves : State → State := wakeAll (fun _ => true) Halted.onMove

/-- What the migration agent tells its peer: the phase that a record has entered, and its STATUS (R427). -/
def tellPeer (p : Nat) (phase : Phase) (status : Nat) (s : State) : State :=
  let m := (s.part p).ma
  s.sendTo m.ppkg.toNat (.maPhase m.ppkg.toNat m.ppart.toNat phase status)

/-! ### Accesses that arrive at a home slice (R436, R445) -/

/-- Performs a request at this package: a read is answered, a write lands with its poison, an atomic answers the old value;
a sync access is checked first (R327, R328). -/
def performReq (dma : Bool) (r : PeerReq) (s : State) : State :=
  let (bad, s) := if r.sync ∧ ¬ dma ∧ r.pkg ≠ s.pkg.num.toNat then scopeHome r.pkg r.core r.scope (r.addr / 128) none s
    else (false, s)
  let out (m : Msg) (s : State) : State := if dma then s.modPkg fun k => { k with out := k.out ++ [m] } else s.sendTo r.pkg m
  let (old, p) := s.homeRead r.addr r.size
  if bad then out (.scopeTrap r.pkg r.core) s
  else match r.op with
    | 0 => out (if dma then .dmaData (bytesOf r.size old) else .reply r.pkg r.core old p) s
    | 1 =>
      let s := s.homeWrite r.addr r.size r.value
      (maskToWords r.size r.poison).foldl (fun s w => s.homePoison (r.addr / 8 * 8 + 8 * w)) s
    | _ =>
      let new := amoValue r.aop (8 * r.size) old r.value r.compare
      out (.reply r.pkg r.core old p)
        (if p ∨ (r.aop = 9 ∧ old ≠ r.compare % 2 ^ (8 * r.size)) then s else s.homeWrite r.addr r.size new)

/-- R436: a request of the host link or of another package at the frame-map entry of its frame: it performs, waits, pulling where
it must, or is redirected; a DMA access at a frame that has moved is dropped. A clean of this package's own goes its way. -/
def sliceRequest (dma : Bool) (r : PeerReq) (s : State) : State :=
  let f := r.addr / 65536
  let m := s.frameState f
  let hold (s : State) : State := s.modPkg fun k => { k with held := k.held ++ [{ frame := f, dma := dma, req := r }] }
  if !dma && decide (r.pkg = s.pkg.num.toNat) then s.cleanWrite r.addr r.size r.value (decide (r.poison ≠ 0))
  else match mapMst m with
  | 2 => hold s
  | 4 => hold (pullFrame f s)
  | 3 =>
    if dma then
      let s := countPkg 1 1 s
      if r.op = 0 then s.modPkg fun k => { k with out := k.out ++ [.dmaData (bytesOf r.size 0)] } else s
    else countRedirect (mapPkg m) (mapFrame m) (s.sendTo r.pkg (.redirect r.pkg r.core (mapPkg m) (mapFrame m)))
  | _ => performReq dma r s

/-- The accesses held for a frame meet its entry again, in their order. -/
def releaseHeld (frame : Nat) (s : State) : State :=
  let l := s.pkg.held.filter fun h => h.frame = frame
  l.foldl (fun s h => sliceRequest h.dma h.req s) (s.modPkg fun k => { k with held := k.held.filter fun h => h.frame ≠ frame })

/-- R421, R436: one piece of a host-link access, within a frame. -/
def dmaPiece (write : Bool) (addr n v : Nat) (s : State) : State :=
  if dramEnd < addr + n then s.stop (.noDram addr)
  else if s.secureFrame (addr / 65536) then
    let s := countPkg 3 1 s
    if write then s else s.modPkg fun k => { k with out := k.out ++ [.dmaData (bytesOf n 0)] }
  else sliceRequest true
    { pkg := 0, core := 0, op := if write then 1 else 0, aop := 0, addr := addr, size := n, value := v, compare := 0, poison := 0
      sync := false, scope := 0 } s

/-- The pieces of a host-link access, a frame at a time. -/
def dmaPieces (write : Bool) : Nat → Nat → List (BitVec 8) → State → State
  | 0, _, _, s => s
  | fuel + 1, addr, l, s =>
    if l.isEmpty then s
    else
      let k := min l.length (65536 - addr % 65536)
      dmaPieces write fuel (addr + k) (l.drop k) (dmaPiece write addr k (numOf (l.take k)) s)

/-- R436, R421: a host-link access to device memory, or, from address 2^56 on, to the firmware window of BAR2 (R422). A read
takes its length from `bytes`. (log 28: DEDUCED) -/
def execHostDma (write : Bool) (addr : Nat) (bytes : List (BitVec 8)) : State → Host.Outcome State Fault Refusal :=
  run fun s =>
    if 2 ^ 56 ≤ addr then
      let o := addr - 2 ^ 56
      if bootWindowSize < o + bytes.length then s
      else if write then s.bufWrite (bootWindow + o) bytes.length (numOf bytes)
      else s.modPkg fun k => { k with out := k.out ++ [.dmaData (bytesOf bytes.length (s.bufRead (bootWindow + o) bytes.length).1)] }
    else dmaPieces write (bytes.length + 1) addr bytes s

/-- R445, R436: a load-store request of another package: from no member of the domain it is dropped and counted. -/
def execPeerRequest (req : PeerReq) : State → Host.Outcome State Fault Refusal :=
  run fun s =>
    if ¬ s.isMember req.pkg then countPkg 6 1 s
    else if dramEnd < req.addr + req.size then s.stop (.noDram req.addr)
    else sliceRequest false req s

/-! ### LISTEN, FREEZE, RELEASE and CANCEL (R427, R428, R435) -/

/-- R427: LISTEN. -/
def execMaListen (part : Nat) : State → Host.Outcome State Fault Refusal :=
  run fun s =>
    match (s.part part).ma.phase with
    | .idle =>
      if 4 ≤ s.maCount then maStatus part 2 s
      else if mapDiffers part s then maStatus part 4 s
      else
        let s := (freeFrames part s).foldl (fun s f => setMap part f (mapEntry 4 0 0) s) s
        modMa part (fun m => { m with phase := .listen, source := false, status := 0, redir := 0, left := 0, inFlight := [] }) s
    | .released | .done => modMa part (fun m => { m with phase := .idle }) s
    | _ => maStatus part 2 s

/-- R428 step 1: the VALID pending entries of a partition are cancelled. -/
def cancelEntries (part : Nat) (s : State) : State :=
  { s with cores := s.cores.map fun x => (x.1, { x.2 with
      pending := x.2.pending.map fun e => if (bindRec e.bits.toNat).part = part then { e with valid := false } else e }) }

/-- The slots of a partition that are not FREE. -/
def State.slotsOf (s : State) (part : Nat) : List Nat :=
  (s.ctxs.filter fun x => x.2.st != .free && decide (x.2.bind.part = part)).map (·.1)

/-- R427, R428: FREEZE: the rows that refuse it in order, else binds stop and every context is pre-empted, but for a retiring one, which
ends by itself. -/
def execMaFreeze (part : Nat) (peerListens : Bool) : State → Host.Outcome State Fault Refusal :=
  run fun s =>
    let m := (s.part part).ma
    match m.phase with
    | .idle =>
      if 4 ≤ s.maCount then maStatus part 2 s
      else if ¬ (s.part part).active.isValid then maStatus part 8 s
      else if ¬ peerListens ∨ ¬ s.isMember m.ppkg.toNat then maStatus part 1 s
      else if (s.tilesOf part).any fun t => decide (2 ≤ teState t.2.2) then maStatus part 2 s
      else if mapDiffers part s then maStatus part 4 s
      else
        let l := (s.slotsOf part).filter fun ck => (s.ctx ck).st != .retiring
        let s := modMa part (fun m => { m with
          phase := .freezing, source := true, status := 0, redir := 0, left := 0, inFlight := []
          contexts := l.map fun ck => (coreOf ck, ck % 4), pulls := false }) s
        l.foldl (fun s ck => preemptLive ck s) (cancelEntries part (tellPeer part .freezing 0 s))
    | .released | .done => modMa part (fun m => { m with phase := .idle }) s
    | _ => maStatus part 2 s

/-- The frame-map entries of a map that are listed, with their frames. -/
def mapCells (p : Nat) (s : State) : List (Nat × Nat) :=
  let mb := (s.part p).ma.mbase.toNat / 65536 * 65536
  let l := (s.mem.filter fun c => mb ≤ c.1 ∧ c.1 < mb + 8 * 9437184 ∧ (c.1 - mb) % 8 = 7).map fun c => (c.1 - mb) / 8
  l.map fun f => (f, (s.homeRead (mb + 8 * f) 8).1)

/-- R435: RELEASE: the entries of the partition's old frames, which name its tiles' new places, become NONE. -/
def execMaRelease (part : Nat) : State → Host.Outcome State Fault Refusal :=
  run fun s =>
    match (s.part part).ma.phase with
    | .drained =>
      let moved := ((s.tilesOf part).filter fun t => teState t.2.2 = 4).map fun t => (tePkg t.2.2 % 256, teFrame t.2.2)
      let l := (mapCells part s).filter fun x =>
        decide (mapMst x.2 = 3) && moved.contains (mapPkg x.2, mapFrame x.2)
      modMa part (fun m => { m with phase := .released, status := 0 }) (l.foldl (fun s x => setMap part x.1 0 s) s)
    | .released | .done => modMa part (fun m => { m with phase := .idle }) s
    | _ => maStatus part 2 s

/-- A record goes back to IDLE. -/
def maIdle (part status : Nat) : State → State := modMa part fun m =>
  { m with phase := .idle, status := status, left := 0, inFlight := [], contexts := [], pulls := false, regs := [], undo := none }

/-- R434: a target that leaves its migration: the PENDING entries go back to NONE and the accesses that waited perform. -/
def leaveTarget (part status : Nat) (s : State) : State :=
  let fs := freeFrames part s
  wakeMoves (fs.foldl (fun s f => releaseHeld f s) (maIdle part status (clearPending part s)))

/-- R427, R429: what the state transfer wrote over in a partition's shadow record and in the queues of its function comes back, once the
layout controller is IDLE. (log 29: DEDUCED) -/
def undoTransfer (part : Nat) (s : State) : State :=
  match (s.part part).undoing with
  | none => s
  | some u => if s.pkg.lstate ≠ .idle then s else
    let s := s.modPart part fun p => { p with undoing := none, shadow := { p.shadow with
      ttab := u.shadow.ttab, cbtab := u.shadow.cbtab, cbPhys := u.shadow.cbPhys, lrpool := u.shadow.lrpool, pfq := u.shadow.pfq
      ilog := u.shadow.ilog
      ctl := (p.shadow.ctl &&& ~~~0x4000000000000000#64) ||| (u.shadow.ctl &&& 0x4000000000000000#64) } }
    s.modVf u.vf fun f => { f with
      pfqHead := u.pfqHead, pfqTail := u.pfqTail, ilogHead := u.ilogHead, ilogTail := u.ilogTail }

/-- R427: CANCEL, at a source told its target's phase; the target hears of it. (log 29: DEDUCED) -/
def execMaCancel (part peerPhase : Nat) : State → Host.Outcome State Fault Refusal :=
  run fun s =>
    match (s.part part).ma.phase with
    | .serving | .held =>
      if peerPhase = 10 ∨ peerPhase = 0 ∨ peerPhase = 9 then
        let l := (s.tilesOf part).filter fun t => teOwned t.2.2
        maIdle part 6 (l.foldl (fun s t => setMap part (teFrame t.2.2) 0 s) (tellPeer part .idle 6 s))
      else maStatus part 2 s
    | .released | .done => s
    | _ => maStatus part 2 s

/-- R427, R434: a target whose source has cancelled discards what it has written, and the accesses that waited perform. -/
def targetCancelled (part : Nat) (s : State) : State :=
  undoTransfer part (leaveTarget part 0 (s.modPart part fun p => { p with undoing := p.ma.undo <|> p.undoing }))

/-! ### The freeze (R428) -/

/-- The save of a frozen context's private sections, by its number. -/
def savedOf (ck : Nat) (s : State) : Nat := (s.homeRead ((s.ctx ck).bind.frame + frStreams) 8).1

/-- The slots that a freeze has halted. -/
def Ma.slots (m : Ma) : List Nat := m.contexts.map fun x => x.1 * 4 + x.2

/-- Whether every context of a freezing partition has halted. -/
def frozenStill (part : Nat) (s : State) : Bool := (s.part part).ma.phase == .freezing && (s.slotsOf part).isEmpty

/-- The collectives that CLE keeps for a save. -/
def State.heldColls (s : State) (id : Nat) : List Coll := (s.cle.filter fun h => h.save = id).flatMap (·.coll)

/-- Whether a collective of a frozen context is neither complete nor given up. -/
def clePending (part : Nat) (s : State) : Bool :=
  (s.part part).ma.slots.any fun ck => (s.heldColls (savedOf ck s)).any fun c => !c.done

/-- A collective given up with MIGRATED: its chunks that have not been written are incomplete. -/
def Coll.migrate (c : Coll) : Coll :=
  if c.done then c
  else { c with
    status := if c.status = 0 then 2 else c.status
    chunks := c.chunks.map fun y => if y.state = 1 then y else { y with state := 2, halted := none } }

/-- R428 step 2: the grace time of the collectives is over. -/
def execFreezeCleGraceExpiry (part : Nat) : State → Host.Outcome State Fault Refusal :=
  run fun s =>
    if frozenStill part s then
      let ids := (s.part part).ma.slots.map fun ck => savedOf ck s
      countHeld { s with cle := s.cle.map fun h => if ids.contains h.save then { h with coll := h.coll.map Coll.migrate } else h }
    else s

/-- Whether a copy's source and destination meet. -/
def CxCmd.overlaps (q : CxCmd) : Bool := conflict (q.ranges.take 1) (q.ranges.drop 1)

/-- R428 step 3, for one copy of a saved context: it runs on the context's frame, and answers whether it waits for a translation. One
that traps stays at its progress point (log 33: DESIGN CHOICE). -/
def finishCopy (ck id cx : Nat) (q : CxCmd) (s : State) : Bool × State :=
  let c := s.ctx ck
  let f := c.bind.frame
  let r := getAt {} id s.saves
  let t := loadBuf (bufKey (coreOf ck) 0 (65536 * abBase c.ctxbuf)) c.abBytes (f + frAb) (s.setCtx ck { c with r := rearm r, st := .run })
  let (out, t) := runOp (cxMove ck cx q.num (t.requester ck 3 (5 + cx)) (q.len + 1)) t
  let t := match out with | .ok _ => tlComplete ck (2 + cx) q.num false t | .error _ => t
  let t := if q.dstAb then saveBuf (winKey ck c 0 q.dst) q.len (f + frAb + q.dst) t else t
  let t := match q.bar with | some b => saveBuf (winKey ck c 0 b) 16 (f + frAb + b) t | none => t
  let left := match out with
    | .ok _ => (vget [] r.cxQ cx).filter fun y => y.num ≠ q.num
    | .error _ => vget [] (t.ctx ck).r.cxQ cx
  let r := { r with tl := (t.ctx ck).r.tl, cxQ := vset r.cxQ cx left }
  (match out with | .error (.halt _) => true | _ => false,
    { t.setCtx ck c with buf := s.buf, bbuf := s.bbuf, bpoison := s.bpoison, saves := setAt id r t.saves })

/-- R428 step 3, for every copy of a frozen context; `waits` says whether one has waited. -/
def finishCopies (ck : Nat) (waits : Bool) (s : State) : Bool × State :=
  let id := savedOf ck s
  (List.range 4).foldl (fun x cx =>
    ((vget [] (getAt {} id x.2.saves).cxQ cx).filter (·.overlaps)).foldl
      (fun x q => let y := finishCopy ck id cx q x.2; (x.1 || y.1, y.2)) x) (waits, s)

/-- The overlapping copies of a frozen partition run; whether one waits for a translation. -/
def finishAll (part : Nat) (s : State) : Bool × State :=
  (s.part part).ma.slots.foldl (fun x ck => finishCopies ck x.1 x.2) (false, s)

/-! ### What A sends (R425, R429) -/

/-- The key of a codebook descriptor, through the flat pointer CBTAB (R61). -/
def cbKeyOf (part i : Nat) (s : State) : Option Nat :=
  let r := (s.part part).active
  let key : Op Nat :=
    if r.cbMoved then pure (cbPlaced r i)
    else flatKey (agentOf 0 part r.isSecure) (r.cbtab.toNat / 65536 * 65536 + 128 * i) 128 1
  (runOp key s).1.toOption

/-- The codebook table's bytes that are not zero, and its poisoned words. -/
def cbTable (part : Nat) (s : State) : List (Nat × BitVec 8) :=
  (List.range (cbCount s part)).flatMap fun i => (cbKeyOf part i s).toList.flatMap fun k =>
    ((enum (bytesOf 128 (s.keyRead k 128).1)).filter fun b => b.2 ≠ 0).map fun b => (128 * i + b.1, b.2)
def cbTablePoison (part : Nat) (s : State) : List Nat :=
  (List.range (cbCount s part)).flatMap fun i => (cbKeyOf part i s).toList.flatMap fun k =>
    (s.rangePoison (if homeKind k = 0 then s.physKey k else k) 128).map (· + 16 * i)

/-- An address raised to an alignment. -/
def alignUp (a n : Nat) : Nat := (a + n - 1) / n * n

/-- The poisoned words of tile tables (base, tiles), by offset among the tables as they lie one behind the other, each at a multiple of
64 bytes. -/
def tilePoison (s : State) : Nat → List (Nat × Nat) → List Nat
  | _, [] => []
  | o, (base, n) :: r => (s.rangePoison base (16 * n)).map (· + o / 8) ++ tilePoison s (alignUp (o + 16 * n) 64) r

/-- A queue of a partition's record: K, and the bytes of its entries of `n` bytes. -/
def queueBytes (r : BitVec 64) (n : Nat) (s : State) : Nat × List (Nat × BitVec 8) :=
  (r.toNat % 32, s.rangeBytes (r.toNat / 4096 * 4096) (n * 2 ^ (r.toNat % 32)))

/-- R425, R429: a frozen virtual device as A sends it. The firmware adds its own state area, whose place at A the spec does not give. -/
def vdOf (part : Nat) (s : State) : VdState :=
  let r := (s.part part).active
  let v := s.vf r.vfn
  let tt := r.ttab.toNat
  let descs := (List.range (tt % 65536 + 1)).map fun i => (s.homeRead (tt / 65536 * 65536 + 64 * i) 64).1
  let pfq := queueBytes r.pfq 32 s
  let ilog := queueBytes r.ilog 16 s
  { secure := r.isSecure, peer := s.pkg.num.toNat
    contexts := (s.part part).ma.slots.map fun ck =>
      let c := s.ctx ck
      { bytes := s.rangeBytes c.bind.frame 0x450000, linst := c.linst.toNat, who := whoOf (coreOf ck) (ck % 4), saveId := savedOf ck s
        poison := s.rangePoison c.bind.frame 0x450000 }
    descs := descs.map fun d => BitVec.ofNat 512 d
    tiles := (enum descs).map fun d =>
      let e := descOf d.1 d.2
      if e.acc / 8 % 2 = 1 then (List.range e.ntiles).map fun t => BitVec.ofNat 128 (s.homeRead (e.ttbase + 16 * t) 16).1 else []
    cbCount := cbCount s part, cbtab := cbTable part s
    lrpool := s.rangeBytes (r.lrpool.toNat / 2 ^ 20 * 2 ^ 20) (2 ^ 20)
    pfqK := pfq.1, pfq := pfq.2, pfqHead := v.pfqHead.toNat, pfqTail := v.pfqTail.toNat
    ilogK := ilog.1, ilog := ilog.2, ilogHead := v.ilogHead.toNat, ilogTail := v.ilogTail.toNat
    fw := [], status := 0
    poison :=
      let tables := (enum descs).map fun d =>
        let e := descOf d.1 d.2
        (e.ttbase, if e.acc / 8 % 2 = 1 then e.ntiles else 0)
      let parts : List (Nat × List Nat) :=
        [(1, s.rangePoison (tt / 65536 * 65536) (64 * (tt % 65536 + 1))), (2, tilePoison s 0 tables), (3, cbTablePoison part s),
         (4, s.rangePoison (r.lrpool.toNat / 2 ^ 20 * 2 ^ 20) (2 ^ 20)),
         (5, s.rangePoison (r.pfq.toNat / 4096 * 4096) (32 * 2 ^ pfq.1)), (6, s.rangePoison (r.ilog.toNat / 4096 * 4096) (16 * 2 ^ ilog.1))]
      parts.flatMap fun x => x.2.map fun w => (x.1, w) }

/-- The private sections of a frozen device's frames, by save number, with the collectives whose completion they carry (R428). -/
def vdRegs (part : Nat) (s : State) : List (Nat × Regs) :=
  (s.part part).ma.slots.map fun ck =>
    let id := savedOf ck s
    (id, { getAt {} id s.saves with coll := s.heldColls id })

/-- R428 step 4, R444: whether a line that a freeze must clean has no route to its home. -/
def freezeLines (part : Nat) (s : State) : Bool :=
  (List.range 8).any fun d => (s.die d).l2.any fun l => decide (l.owner = part) && s.waitsRoute l

/-- R428 steps 3 to 5, R429: the freeze completes, once its overlapping copies have, and the state goes to the target. (log 29: DEDUCED) -/
def execFreezeDone (part : Nat) : State → Host.Outcome State Fault Refusal :=
  run fun s =>
    if ¬ frozenStill part s ∨ clePending part s ∨ freezeLines part s then s
    else
      let m := (s.part part).ma
      let (waits, s) := finishAll part s
      if waits then s
      else
        let s := (List.range 8).foldl (fun s d => l2Drop d (fun l => decide (l.owner = part)) s) s
        let s := dropTranslations part s
        let owned := (s.tilesOf part).filter fun t => teOwned t.2.2
        let s := owned.foldl (fun s t => setMap part (teFrame t.2.2) (mapEntry 1 0 0) s) s
        let s := modMa part (fun m => { m with phase := .sending, left := owned.length }) s
        s.sendTo m.ppkg.toNat (.vdSent m.ppkg.toNat m.ppart.toNat (vdOf part s) (vdRegs part s))

/-! ### The state transfer (R429) -/

/-- The places of the parts in the region: the first frame, tensor table, tile tables, codebook table, launch pool, queues,
firmware state, and the end. -/
def vdPlaces (base : Nat) (v : VdState) : List Nat :=
  let frames := base + 65536
  let tt := frames + 0x450000 * v.contexts.length
  let tiles := alignUp (tt + 64 * v.descs.length) 64
  let cb := alignUp (v.tiles.foldl (fun a l => alignUp (a + 16 * l.length) 64) tiles) 65536
  let lr := alignUp (cb + 128 * v.cbCount) (2 ^ 20)
  let pf := lr + 2 ^ 20
  let il := alignUp (pf + 32 * 2 ^ v.pfqK) 4096
  let fw := alignUp (il + 16 * 2 ^ v.ilogK) 65536
  [frames, tt, tiles, cb, lr, pf, il, fw, fw + 65536]

/-- R429: a tile entry as it stands at B, with the free frames that remain. -/
def moveEntry (num peer : Nat) (frames : List Nat) (e : Nat) : Nat × List Nat :=
  if teOwned e then (teMove e 2 0 peer (frames.headD 0), frames.drop 1)
  else if teLoc e = 1 ∧ tePkg e = num then (teMove e 0 0 0 (teFrame e), frames)
  else (e, frames)

/-- Writes the descriptors and the tile tables. -/
def putTables (num peer tt : Nat) : Nat → Nat → List Nat → List (BitVec 512 × List (BitVec 128)) → State → State
  | _, _, _, [], s => s
  | i, at0, frames, (d, l) :: rest, s =>
    let s := physWrite (tt + 64 * i) 64 (d.toNat / 2 ^ 64 * 2 ^ 64 + at0) s
    let (s, frames) := (enum l).foldl (fun (x : State × List Nat) e =>
      let (v, fs) := moveEntry num peer x.2 e.2.toNat
      (physWrite (at0 + 16 * e.1) 16 v x.1, fs)) (s, frames)
    putTables num peer tt (i + 1) (alignUp (at0 + 16 * l.length) 64) frames rest s

/-- A context's private sections at B (R425): its registers under a fresh number that its frame names, and the collectives whose
completion TL7 takes at the resume (R428). -/
def putRegs (part : Nat) (secure : Bool) (f id : Nat) (s : State) : State :=
  let new := s.saveNext
  let s := physWrite (f + frStreams) 8 new { s with saveNext := new + 1 }
  match (s.part part).ma.regs.find? fun x => x.1 = id with
  | none => s
  | some (_, r) =>
    { s with
      saves := setAt new { r with coll := [] } s.saves
      cle := if r.coll = [] then s.cle else ⟨0, new, part, secure, r.coll⟩ :: s.cle }

/-- R429: the parts of a virtual device written into the region. -/
def putVd (part num base : Nat) (frames : List Nat) (v : VdState) (s : State) : State :=
  let p (i : Nat) : Nat := (vdPlaces base v)[i]?.getD 0
  let s := putBytes base 65536 [] s
  let s := (enum v.contexts).foldl (fun s c =>
    let f := p 0 + 0x450000 * c.1
    let s := physWrite (base + 16 * c.1) 16 (f + c.2.linst % 2 ^ 32 * 2 ^ 64 + c.2.who % 65536 * 2 ^ 96) s
    putRegs part v.secure f c.2.saveId (putPoison f (c.2.poison.filter (· < 0x450000 / 8)) (putBytes f 0x450000 c.2.bytes s))) s
  let s := putTables num v.peer (p 1) 0 (p 2) frames (v.descs.zip v.tiles) s
  let s := putBytes (p 3) (128 * v.cbCount) v.cbtab s
  let s := putBytes (p 4) (2 ^ 20) v.lrpool s
  let s := putBytes (p 5) (32 * 2 ^ v.pfqK) v.pfq s
  let s := putBytes (p 6) (16 * 2 ^ v.ilogK) v.ilog s
  let s := putBytes (p 7) 65536 v.fw s
  v.poison.foldl (fun s x => if 1 ≤ x.1 ∧ x.1 ≤ 7 ∧ p x.1 + 8 * x.2 < p (x.1 + 1) then putPoison (p x.1) [x.2] s else s) s

/-- R429: the shadow record and the heads and tails that the transfer sets; what they were stays with the record (R427). -/
def putVdRecord (part base : Nat) (v : VdState) (s : State) : State :=
  let old := (s.part part).shadow
  let p (i : Nat) : BitVec 64 := BitVec.ofNat 64 ((vdPlaces base v)[i]?.getD 0)
  let s := s.modPart part fun x => { x with shadow := { x.shadow with
    ttab := p 1 + BitVec.ofNat 64 (v.descs.length - 1), cbtab := p 3 + BitVec.ofNat 64 v.cbCount
    cbPhys := some (p 3 + BitVec.ofNat 64 v.cbCount), lrpool := p 4
    pfq := p 5 + BitVec.ofNat 64 v.pfqK, ilog := p 6 + BitVec.ofNat 64 v.ilogK
    ctl := if v.secure then x.shadow.ctl ||| 0x4000000000000000#64 else x.shadow.ctl &&& ~~~0x4000000000000000#64 } }
  let f := s.vf (s.part part).shadow.vfn
  let s := modMa part (fun m => { m with
    undo := some ⟨old, (s.part part).shadow.vfn, f.pfqHead, f.pfqTail, f.ilogHead, f.ilogTail⟩ }) s
  s.modVf (s.part part).shadow.vfn fun f => { f with
    pfqHead := BitVec.ofNat 16 v.pfqHead, pfqTail := BitVec.ofNat 16 v.pfqTail
    ilogHead := BitVec.ofNat 16 v.ilogHead, ilogTail := BitVec.ofNat 16 v.ilogTail }

/-- R427: what keeps a target from taking a virtual device: region 4, frames 3, world 7. -/
def vdStatus (part : Nat) (v : VdState) (s : State) : Nat :=
  let m := (s.part part).ma
  let need := (v.tiles.flatMap fun l => l.filter fun e => teOwned e.toNat).length
  if m.rbase.toNat + m.rsize.toNat * 2 ^ 20 < (vdPlaces m.rbase.toNat v)[8]?.getD 0 then 4
  else if m.fcount.toNat < need then 3
  else if v.secure ≠ (s.part part).active.isSecure then 7
  else 0

/-- R427: LEFT is 0: SERVING becomes DRAINED once the target has left STAGED, PULLING becomes DONE. -/
def Ma.settle (m : Ma) : Ma :=
  if m.left = 0 then
    match m.phase with
    | .serving => if m.pulls then { m with phase := .drained } else m
    | .pulling => { m with phase := .done }
    | _ => m
  else m

/-- Whether the state transfer of a record can complete: at a target, once the layout controller is IDLE (R429). -/
def transferReady (part : Nat) (s : State) : Bool :=
  match (s.part part).ma.phase with
  | .sending => true
  | .receiving => s.pkg.lstate == .idle && (s.part part).undoing.isNone
  | _ => false

/-- R427, R429: the state transfer ends: the target writes the state and is STAGED, or refuses it and is IDLE; the source
serves, or is HELD with the same STATUS. (log 29: DEDUCED) -/
def execStateTransferDone (part : Nat) (vd : VdState) : State → Host.Outcome State Fault Refusal :=
  run fun s =>
    if ¬ transferReady part s then s
    else
      let m := (s.part part).ma
      if m.source then
        modMa part (fun m => ({ m with phase := if vd.status = 0 then .serving else .held, status := vd.status }).settle) s
      else
        let st := vdStatus part vd s
        if st ≠ 0 then leaveTarget part st (tellPeer part .idle st s)
        else
          let s := tellPeer part .staged 0 s
          let s := putVdRecord part m.rbase.toNat vd (putVd part s.pkg.num.toNat m.rbase.toNat (freeFrames part s) vd s)
          let left := (vd.tiles.flatMap fun l => l.filter fun e => teOwned e.toNat).length
          modMa part (fun m => { m with phase := .staged, status := 0, left := left, regs := [] }) s

/-! ### What the peer's agent says (R427, R434) -/

/-- R427, R434: the peer's record has entered a phase: a freeze at A starts the receiving, a target that has left STAGED lets its
source send tiles, and a source that is IDLE again has cancelled. -/
def peerMa (part : Nat) (phase : Phase) (_status : Nat) (s : State) : State :=
  let m := (s.part part).ma
  match phase with
  | .freezing => if m.phase = .listen then modMa part (fun m => { m with phase := .receiving, regs := [], undo := none }) s else s
  | .pulling | .done => if m.source ∧ m.phase ≠ .idle then modMa part (fun m => ({ m with pulls := true }).settle) s else s
  | .idle => if m.phase = .receiving ∨ m.phase = .staged then targetCancelled part s else s
  | _ => s

/-- R425: a context's private frame sections come from the source. -/
def peerRegs (part id : Nat) (r : Regs) (s : State) : State :=
  if (s.part part).ma.phase = .receiving then modMa part (fun m => { m with regs := (id, r) :: m.regs }) s else s

/-! ### Tiles on the move (R432 to R434, R438) -/

/-- R432, R438: a tile of the source is marked in transit and its frame sent; poisoned lines go with their poison, each named
in the error log. -/
def sendTile (part tensor tile : Nat) (byPush : Bool) (s : State) : State :=
  let m := (s.part part).ma
  let e := s.tileEntry part tensor tile
  let f := teFrame e
  let (data, bad) := frameBytes f s
  let s := setMap part f (mapEntry 2 0 0) (physWrite (s.tileAt part tensor tile) 16 (teSetState e 3) s)
  let s := ((bad.map fun w => w / 16).dedup).foldl (fun s l =>
    (errorLog (channelOf (f * 65536) / 48) 0 12 0 0 (f * 65536 + 128 * l) (countDie (channelOf (f * 65536) / 48) 2 1 s)).2) s
  let s := modMa part (fun m => { m with inFlight := (tensor, tile, byPush) :: m.inFlight }) s
  s.sendTo m.ppkg.toNat (.flits m.ppkg.toNat m.ppart.toNat tensor tile data bad)

/-- Whether the source still owns a tile: its entry LOCAL and PRESENT, its frame OWNED. -/
def stillOwned (e : Nat) (s : State) : Bool := teOwned e && decide (mapMst (s.frameState (teFrame e)) = 1)

/-- Whether tiles may leave a source: its target has left STAGED (R434). -/
def Ma.sends (m : Ma) : Bool := m.phase == .serving && m.pulls

/-- R432: a PULL arrives at the source. -/
def execPullReceived (part tensor tile : Nat) : State → Host.Outcome State Fault Refusal :=
  run fun s =>
    if (s.part part).ma.sends ∧ stillOwned (s.tileEntry part tensor tile) s then sendTile part tensor tile false s else s

/-- R434: the background push takes the next OWNED tile while fewer than PUSH are in flight. -/
def execPushSelect (part : Nat) : State → Host.Outcome State Fault Refusal :=
  run fun s =>
    let m := (s.part part).ma
    if ¬ m.sends then s
    else if m.push.toNat ≤ (m.inFlight.filter fun x => x.2.2).length then s
    else match (s.tilesOf part).find? fun t => stillOwned t.2.2 s with
      | some t => sendTile part t.1 t.2.1 true s
      | none => s

/-- R432: the first flit of a tile reaches the target. -/
def execPushFirstFlit (part tensor tile : Nat) : State → Host.Outcome State Fault Refusal :=
  run fun s =>
    let m := (s.part part).ma
    let e := s.tileEntry part tensor tile
    if m.phase = .pulling ∧ teState e = 2 then
      let mine (x : Nat × Nat × Bool) : Bool := decide (x.1 = tensor ∧ x.2.1 = tile)
      modMa part (fun m => { m with inFlight := (tensor, tile, true) :: m.inFlight.filter fun x => !mine x })
        (physWrite (s.tileAt part tensor tile) 16 (teSetState e 3) s)
    else s

/-- A tile is no longer in flight. -/
def Ma.landed (tensor tile : Nat) (m : Ma) : Ma :=
  let mine (x : Nat × Nat × Bool) : Bool := decide (x.1 = tensor ∧ x.2.1 = tile)
  { m with inFlight := m.inFlight.filter fun x => !mine x }

/-- R432: the last flit is written at the target: the tile is its own, the map entry NONE, an ACK goes out, and the units and
accesses that waited go on; the scope directories know nothing of the frame (R438). -/
def execTileLanded (part tensor tile : Nat) (data : List (Nat × BitVec 8)) (poison : List Nat) :
    State → Host.Outcome State Fault Refusal :=
  run fun s =>
    let m := (s.part part).ma
    let e := s.tileEntry part tensor tile
    if m.phase = .pulling ∧ teState e = 3 then
      let f := teFrame e
      let s := putBytes (f * 65536) 65536 data s
      let s := (poison.filter fun w => w < 8192).foldl (fun s w => s.homePoison (f * 65536 + 8 * w)) s
      let s := setMap part f 0 (physWrite (s.tileAt part tensor tile) 16 (teMove e 0 0 0 f) s)
      let s := modMa part (fun m => ({ m.landed tensor tile with left := m.left - 1 }).settle) s
      let s := s.sendTo m.ppkg.toNat (.ack m.ppkg.toNat m.ppart.toNat tensor tile f)
      wakeMoves (releaseHeld f (frameForget f s))
    else s

/-- R432: an ACK reaches the source: entry and map FORWARD to the new owner; the accesses that waited are redirected. -/
def execMigrationAck (part tensor tile frame : Nat) : State → Host.Outcome State Fault Refusal :=
  run fun s =>
    let m := (s.part part).ma
    let e := s.tileEntry part tensor tile
    if m.phase = .serving ∧ teState e = 3 then
      let old := teFrame e
      let s := physWrite (s.tileAt part tensor tile) 16 (teMove e 4 1 m.ppkg.toNat frame) s
      let s := setMap part old (mapEntry 3 m.ppkg.toNat frame) s
      let s := modMa part (fun m => ({ m.landed tensor tile with left := m.left - 1 }).settle) s
      wakeMoves (releaseHeld old s)
    else s

/-- R438: a transfer fails: the tile is OWNED again at the source, REMOTE_OWNED at the target; STATUS LINK. -/
def execTransferFail (part tensor tile : Nat) : State → Host.Outcome State Fault Refusal :=
  run fun s =>
    let m := (s.part part).ma
    let e := s.tileEntry part tensor tile
    let at0 := s.tileAt part tensor tile
    if teState e ≠ 3 then s
    else match m.phase with
      | .serving =>
        let s := setMap part (teFrame e) (mapEntry 1 0 0) (physWrite at0 16 (teSetState e 0) s)
        wakeMoves (releaseHeld (teFrame e) (modMa part (fun m => { m.landed tensor tile with status := 5 }) s))
      | .pulling => modMa part (fun m => { m with status := 5 }) (physWrite at0 16 (teSetState e 2) s)
      | _ => s

/-- R432, R438: no flit of a tile has come for MTMO: it is REMOTE_OWNED and its PULL is sent again; STATUS LINK. -/
def execPullTimeout (part tensor tile : Nat) : State → Host.Outcome State Fault Refusal :=
  run fun s =>
    let m := (s.part part).ma
    let e := s.tileEntry part tensor tile
    let waits := m.inFlight.any fun x => decide (x.1 = tensor ∧ x.2.1 = tile)
    if m.phase = .pulling ∧ waits ∧ (teState e = 2 ∨ teState e = 3) then
      let s := modMa part (fun m => { m with status := 5 }) (physWrite (s.tileAt part tensor tile) 16 (teSetState e 2) s)
      s.sendTo m.ppkg.toNat (.pull m.ppkg.toNat m.ppart.toNat tensor tile)
    else s

/-! ### Redirects from other packages (R437) -/

/-- R437: a redirect of a frame of a package reaches a unit of a slot, or a die's L2 (R398's unit 11): its access to that frame, which goes
again at once, takes the place `new` as its answer. -/
def execRedirectReceived (core slot unit : Nat) (old new : Nat × Nat) : State → Host.Outcome State Fault Refusal :=
  run fun s => { s with redirects := s.redirects ++ [⟨core * 4 + slot, unit, old.1, old.2, new.1, new.2, false⟩] }

end Sys2Proof.Machine
end

