-- ==== Sys2Proof/Machine/Fleet.lean ====
section
/-!
DEFINITION. Fabric ports (R440 to R445), scrubbing and tag errors (R447, R450), power (R455), reset and loss of supply (R451 to
R453, R422, R423).
-/
namespace Sys2Proof.Machine
open Sys2Proof

/-! ### Ports (R441, R442, R445) -/

/-- R442: an enabled port begins a retraining; RETRAINS saturates. -/
def Port.retrain (p : Port) : Port :=
  if p.en then { p with retraining := true, retrains := if p.retrains = 0xFFFF#16 then p.retrains else p.retrains + 1 } else p

/-- R442: a lane fails: the port retrains; what it carries waits. -/
def execLaneFail (port lane : Nat) : State → Host.Outcome State Fault Refusal :=
  run fun s => if lane < 5 then modPort port Port.retrain s else s

/-- R441 to R444: a training ends: LGOOD, the width, the peer's numbers; requests that waited for a route go on. -/
def execRetrainDone (port lgood peerPkg peerPort : Nat) : State → Host.Outcome State Fault Refusal :=
  run fun s =>
    if (vget {} s.pkg.ports port).retraining then
      wakeRoutes (modPort port (fun p =>
        { p.train (BitVec.ofNat 5 lgood) with pkg := BitVec.ofNat 8 peerPkg, pport := BitVec.ofNat 8 peerPort }) s)
    else s

/-- R442: a flit of a port that carries flits fails its CRC and is sent again. -/
def execFlitCrcError (port : Nat) : State → Host.Outcome State Fault Refusal :=
  run fun s => if (vget {} s.pkg.ports port).up then modPort port (fun p => { p with resent := p.resent + 1 }) s else s

/-- R445: the package's number; ignored and counted while a partition is valid. Every enabled port retrains. -/
def execPkgidWrite (value : Nat) : State → Host.Outcome State Fault Refusal :=
  run fun s =>
    if s.anyValid then countPkg 2 1 s
    else s.modPkg fun k => { k with num := BitVec.ofNat 8 value, ports := k.ports.map Port.retrain }

/-- R445: the far end retrains: so does this port, and it learns the peer's number. -/
def execPeerPortRetrain (port num : Nat) : State → Host.Outcome State Fault Refusal :=
  run fun s =>
    if (vget {} s.pkg.ports port).en then modPort port (fun p => { p.retrain with pkg := BitVec.ofNat 8 num }) s else s

/-! ### Errors (R447, R448, R450) -/

/-- Counts a corrected error on a die and logs it, at most once per line in 2^20 cycles (R447); the entry names the address `at_`.
(log 30: DESIGN CHOICE) -/
def correctedAt (die line at_ : Nat) (s : State) : State :=
  let s := countDie die 1 1 s
  let recent := (s.die die).ceLog.any fun x => decide (x.1 = line ∧ s.cycle.toNat < x.2 + 2 ^ 20)
  if recent then s
  else
    let s := s.modDie die fun d => { d with ceLog := (line, s.cycle.toNat) :: d.ceLog.filter fun x => x.1 ≠ line }
    let (u, s) := s.draw
    (errorLog die 4 (u % 256) 0 0 at_ s).2

/-- Counts an uncorrectable error on a die and logs it (R448). -/
def uncorrectedAt (die at_ : Nat) (s : State) : State :=
  let (u, s) := (countDie die 2 1 s).draw
  (errorLog die 0 (u % 256) 0 0 at_ s).2

/-- A corrected error at an address of memory. -/
def correctedError (addr : Nat) : State → State := correctedAt (channelOf addr / 48) (addr / 128) (addr / 128 * 128)

/-- An uncorrectable error at an address of memory poisons its word (R448). -/
def uncorrectableError (addr : Nat) (s : State) : State :=
  uncorrectedAt (channelOf addr / 48) (addr / 128 * 128) (s.homePoison addr)

/-- R447, R448: an error found at an address of memory, by a scrub or by an access: corrected, or poisoning its word. -/
def memError (addr : Nat) (corrected : Bool) (s : State) : State :=
  if dramEnd ≤ addr ∨ s.channelOff addr then s
  else if corrected then correctedError addr s
  else uncorrectableError addr s

/-- R447: patrol scrubbing reads a DRAM word: clean (0), corrected (1) or uncorrectable (2). -/
def execPatrolScrub (addr outcome : Nat) : State → Host.Outcome State Fault Refusal :=
  run fun s =>
    match outcome with
    | 1 => memError addr true s
    | 2 => memError addr false s
    | _ => s

/-- R450: a partition that holds the way of a tag error: its contexts are killed, its armed launches complete KILLED, its
function raises vector 2. (log 30: DESIGN CHOICE) -/
def killPartition (p : Nat) (s : State) : State :=
  let s := (s.slotsOf p).foldl (fun s ck => killSlot ck s) s
  let s := (List.range 4096).foldl (fun s i =>
    let (r, _, t) := physRead (lrAddr s p i) 256 s
    if lrArmed r then completeLaunch (lrHome r) p i 5 s else { s with stuck := t.stuck }) s
  raiseIrq p 2 0 s

/-- R450: a tag parity error in way `way` of a die's L2 at a line's entry. (log 30: DESIGN CHOICE) -/
def execL2TagParity (die way line : Nat) : State → Host.Outcome State Fault Refusal :=
  run fun s =>
    let s := s.modDie die fun d =>
      { d with l2 := d.l2.filter fun l => !decide (l.way = way ∧ l.line = line) }
    let s := (errorLog die 1 11 0 0 (if homeKind (line * 128) = 0 then line * 128 else 0) s).2
    let hit := (List.range 64).filter fun p => (s.dieActive die p).ways.getLsbD way && (s.part p).active.isValid
    countDie die 4 1 (hit.foldl (fun s p => killPartition p s) s)

/-! ### Power (R455) -/

/-- R455: a window of 1 ms ends with its mean power: THROTTLE has counted the cycles withheld in it, and LEVEL moves by 1. (log 30: DESIGN CHOICE) -/
def execPowerWindow (watts : Nat) : State → Host.Outcome State Fault Refusal :=
  run fun s =>
    let l := s.pkg.level.toNat
    let limit := s.pkg.pwrlim.toNat
    let l' := if limit < watts then min 7 (l + 1) else if watts * 100 < limit * 95 then l - 1 else l
    (countPkg 5 (l * 137500) s).modPkg fun k => { k with watts := BitVec.ofNat 16 watts, level := BitVec.ofNat 3 l' }

/-! ### Reset and loss of supply (R422, R423, R451 to R453) -/

/-- What outlives a loss of supply: fuses, the memory of the host and of other packages, and the outside world's schedule; every
byte of DRAM and of the buffers reads as after power-on (log 2: DESIGN CHOICE). -/
def powerLost (s : State) : State :=
  { State.reset with
    wbuf := (s.mem.filter fun c => c.1 < 2 ^ 56).map fun c => (c.1, 0#8)
    bbuf := s.buf.map fun c => (c.1, 0#8)
    poison := s.poison.filter fun w => 2 ^ 53 ≤ w
    saveNext := s.saveNext, ticks := s.ticks, fresh := s.fresh, tape := s.tape
    pkg := { State.reset.pkg with
      svnFloor := s.pkg.svnFloor, fuses := s.pkg.fuses, sigIndex := s.pkg.sigIndex, out := s.pkg.out } }

/-- R451, R453: a die after its self-test, by its failing cores and the channels in service. -/
def repairedDie (failed chok : Nat) : Die :=
  let f := min 50 failed
  { ncore := if f ≤ 2 then 48 else 50 - f, spared := min 2 f, failed := f, chok := BitVec.ofNat 48 chok }

/-- R451, R452, R423: reset: self-test results are repaired and reported, the next index fuse is burnt, the ROM waits. -/
def execPowerOnReset (failed chans : List Nat) : State → Host.Outcome State Fault Refusal :=
  run fun s =>
    let t := powerLost s
    { t with
      dies := (List.range 8).map fun d => (d, repairedDie (failed[d]?.getD 0) (chans[d]?.getD (2 ^ 48 - 1)))
      pkg := { t.pkg with fuses := min 1024 (t.pkg.fuses + 1), sigIndex := 0 } }

/-- R423: the supply is removed: the rest of the current block of indices is lost. -/
def execPowerOff : State → Host.Outcome State Fault Refusal :=
  run fun s =>
    let t := powerLost s
    { t with pkg := { t.pkg with sigIndex := 1024 } }

end Sys2Proof.Machine
end

