-- ==== Sys2Proof/Machine/SqAlu.lean ====
section
/-!
DEFINITION. SQ's integer arithmetic (R111 to R115): each word writes one register and raises no trap but those of R96.
-/
namespace Sys2Proof.Machine
open Sys2Proof

/-- A word that writes `f` of the state to s[sd] (R106). -/
def sqWrite (imm : Bool) (sd : Nat) (f : State → BitVec 64) (s : State) : State :=
  unitNext .sq imm 0 (upd fun t => sSet sd (f t) t) s

/-! ### Results (R111, R112) -/

def aluAdd (a b : BitVec 64) : BitVec 64 := a + b
def aluSub (a b : BitVec 64) : BitVec 64 := a - b
def aluAnd (a b : BitVec 64) : BitVec 64 := a &&& b
def aluOr (a b : BitVec 64) : BitVec 64 := a ||| b
def aluXor (a b : BitVec 64) : BitVec 64 := a ^^^ b
def aluSll (a b : BitVec 64) : BitVec 64 := a <<< (b.toNat % 64)
def aluSrl (a b : BitVec 64) : BitVec 64 := a >>> (b.toNat % 64)
def aluSra (a b : BitVec 64) : BitVec 64 := a.sshiftRight (b.toNat % 64)
def aluSlt (a b : BitVec 64) : BitVec 64 := bit (a.slt b)
def aluSltu (a b : BitVec 64) : BitVec 64 := bit (a.ult b)
def aluMin (a b : BitVec 64) : BitVec 64 := bvMin a b
def aluMax (a b : BitVec 64) : BitVec 64 := bvMax a b
def aluMinu (a b : BitVec 64) : BitVec 64 := bvMinu a b
def aluMaxu (a b : BitVec 64) : BitVec 64 := bvMaxu a b
def aluSextI8 (a : BitVec 64) : BitVec 64 := (a.setWidth 8).signExtend 64
def aluSextI16 (a : BitVec 64) : BitVec 64 := (a.setWidth 16).signExtend 64
def aluSextI32 (a : BitVec 64) : BitVec 64 := (a.setWidth 32).signExtend 64
def aluZextN8 (a : BitVec 64) : BitVec 64 := (a.setWidth 8).setWidth 64
def aluZextN16 (a : BitVec 64) : BitVec 64 := (a.setWidth 16).setWidth 64
def aluZextN32 (a : BitVec 64) : BitVec 64 := (a.setWidth 32).setWidth 64
def aluClz (a : BitVec 64) : BitVec 64 := BitVec.ofNat 64 (bvClz a)
def aluCtz (a : BitVec 64) : BitVec 64 := BitVec.ofNat 64 (ctzNat 64 a.toNat)
def aluPopc (a : BitVec 64) : BitVec 64 := BitVec.ofNat 64 (popNat 64 a.toNat)
def aluMul (a b : BitVec 64) : BitVec 64 := a * b
def aluMulh (a b : BitVec 64) : BitVec 64 := BitVec.ofInt 64 (a.toInt * b.toInt / (2 ^ 64 : Nat))
def aluMulhu (a b : BitVec 64) : BitVec 64 := BitVec.ofNat 64 (a.toNat * b.toNat / 2 ^ 64)
def aluDiv (a b : BitVec 64) : BitVec 64 := if b = 0 then BitVec.allOnes 64 else BitVec.ofInt 64 (a.toInt.tdiv b.toInt)
def aluDivu (a b : BitVec 64) : BitVec 64 := if b = 0 then BitVec.allOnes 64 else BitVec.ofNat 64 (a.toNat / b.toNat)
def aluRem (a b : BitVec 64) : BitVec 64 := if b = 0 then a else BitVec.ofInt 64 (a.toInt.tmod b.toInt)
def aluRemu (a b : BitVec 64) : BitVec 64 := if b = 0 then a else BitVec.ofNat 64 (a.toNat % b.toNat)

/-! ### Register forms (R111, R112) -/

def execAdd (sd sa sb : Nat) : State → Host.Outcome State Fault Refusal :=
  run (sqWrite false sd fun s => aluAdd (sGet s sa) (sGet s sb))
def execSub (sd sa sb : Nat) : State → Host.Outcome State Fault Refusal :=
  run (sqWrite false sd fun s => aluSub (sGet s sa) (sGet s sb))
def execAnd (sd sa sb : Nat) : State → Host.Outcome State Fault Refusal :=
  run (sqWrite false sd fun s => aluAnd (sGet s sa) (sGet s sb))
def execOr (sd sa sb : Nat) : State → Host.Outcome State Fault Refusal :=
  run (sqWrite false sd fun s => aluOr (sGet s sa) (sGet s sb))
def execXor (sd sa sb : Nat) : State → Host.Outcome State Fault Refusal :=
  run (sqWrite false sd fun s => aluXor (sGet s sa) (sGet s sb))
def execSll (sd sa sb : Nat) : State → Host.Outcome State Fault Refusal :=
  run (sqWrite false sd fun s => aluSll (sGet s sa) (sGet s sb))
def execSrl (sd sa sb : Nat) : State → Host.Outcome State Fault Refusal :=
  run (sqWrite false sd fun s => aluSrl (sGet s sa) (sGet s sb))
def execSra (sd sa sb : Nat) : State → Host.Outcome State Fault Refusal :=
  run (sqWrite false sd fun s => aluSra (sGet s sa) (sGet s sb))
def execSlt (sd sa sb : Nat) : State → Host.Outcome State Fault Refusal :=
  run (sqWrite false sd fun s => aluSlt (sGet s sa) (sGet s sb))
def execSltu (sd sa sb : Nat) : State → Host.Outcome State Fault Refusal :=
  run (sqWrite false sd fun s => aluSltu (sGet s sa) (sGet s sb))
def execMin (sd sa sb : Nat) : State → Host.Outcome State Fault Refusal :=
  run (sqWrite false sd fun s => aluMin (sGet s sa) (sGet s sb))
def execMax (sd sa sb : Nat) : State → Host.Outcome State Fault Refusal :=
  run (sqWrite false sd fun s => aluMax (sGet s sa) (sGet s sb))
def execMinu (sd sa sb : Nat) : State → Host.Outcome State Fault Refusal :=
  run (sqWrite false sd fun s => aluMinu (sGet s sa) (sGet s sb))
def execMaxu (sd sa sb : Nat) : State → Host.Outcome State Fault Refusal :=
  run (sqWrite false sd fun s => aluMaxu (sGet s sa) (sGet s sb))
def execMul (sd sa sb : Nat) : State → Host.Outcome State Fault Refusal :=
  run (sqWrite false sd fun s => aluMul (sGet s sa) (sGet s sb))
def execMulh (sd sa sb : Nat) : State → Host.Outcome State Fault Refusal :=
  run (sqWrite false sd fun s => aluMulh (sGet s sa) (sGet s sb))
def execMulhu (sd sa sb : Nat) : State → Host.Outcome State Fault Refusal :=
  run (sqWrite false sd fun s => aluMulhu (sGet s sa) (sGet s sb))
def execDiv (sd sa sb : Nat) : State → Host.Outcome State Fault Refusal :=
  run (sqWrite false sd fun s => aluDiv (sGet s sa) (sGet s sb))
def execDivu (sd sa sb : Nat) : State → Host.Outcome State Fault Refusal :=
  run (sqWrite false sd fun s => aluDivu (sGet s sa) (sGet s sb))
def execRem (sd sa sb : Nat) : State → Host.Outcome State Fault Refusal :=
  run (sqWrite false sd fun s => aluRem (sGet s sa) (sGet s sb))
def execRemu (sd sa sb : Nat) : State → Host.Outcome State Fault Refusal :=
  run (sqWrite false sd fun s => aluRemu (sGet s sa) (sGet s sb))
def execSextI8 (sd sa : Nat) : State → Host.Outcome State Fault Refusal :=
  run (sqWrite false sd fun s => aluSextI8 (sGet s sa))
def execSextI16 (sd sa : Nat) : State → Host.Outcome State Fault Refusal :=
  run (sqWrite false sd fun s => aluSextI16 (sGet s sa))
def execSextI32 (sd sa : Nat) : State → Host.Outcome State Fault Refusal :=
  run (sqWrite false sd fun s => aluSextI32 (sGet s sa))
def execZextN8 (sd sa : Nat) : State → Host.Outcome State Fault Refusal :=
  run (sqWrite false sd fun s => aluZextN8 (sGet s sa))
def execZextN16 (sd sa : Nat) : State → Host.Outcome State Fault Refusal :=
  run (sqWrite false sd fun s => aluZextN16 (sGet s sa))
def execZextN32 (sd sa : Nat) : State → Host.Outcome State Fault Refusal :=
  run (sqWrite false sd fun s => aluZextN32 (sGet s sa))
def execClz (sd sa : Nat) : State → Host.Outcome State Fault Refusal :=
  run (sqWrite false sd fun s => aluClz (sGet s sa))
def execCtz (sd sa : Nat) : State → Host.Outcome State Fault Refusal :=
  run (sqWrite false sd fun s => aluCtz (sGet s sa))
def execPopc (sd sa : Nat) : State → Host.Outcome State Fault Refusal :=
  run (sqWrite false sd fun s => aluPopc (sGet s sa))

/-! ### Immediate forms (R114, R115) -/

def execAddi (sd sa imm : Nat) : State → Host.Outcome State Fault Refusal :=
  run (sqWrite true sd fun s => (sGet s sa) + (sqImm s 16 imm true))
def execAndi (sd sa imm : Nat) : State → Host.Outcome State Fault Refusal :=
  run (sqWrite true sd fun s => (sGet s sa) &&& (sqImm s 16 imm true))
def execOri (sd sa imm : Nat) : State → Host.Outcome State Fault Refusal :=
  run (sqWrite true sd fun s => (sGet s sa) ||| (sqImm s 16 imm true))
def execXori (sd sa imm : Nat) : State → Host.Outcome State Fault Refusal :=
  run (sqWrite true sd fun s => (sGet s sa) ^^^ (sqImm s 16 imm true))
def execSlti (sd sa imm : Nat) : State → Host.Outcome State Fault Refusal :=
  run (sqWrite true sd fun s => bit ((sGet s sa).slt (sqImm s 16 imm true)))
def execSltiu (sd sa imm : Nat) : State → Host.Outcome State Fault Refusal :=
  run (sqWrite true sd fun s => bit ((sGet s sa).ult (sqImm s 16 imm true)))
def execSlli (sd sa sh : Nat) : State → Host.Outcome State Fault Refusal :=
  run (sqWrite false sd fun s => (sGet s sa) <<< sh)
def execSrli (sd sa sh : Nat) : State → Host.Outcome State Fault Refusal :=
  run (sqWrite false sd fun s => (sGet s sa) >>> sh)
def execSrai (sd sa sh : Nat) : State → Host.Outcome State Fault Refusal :=
  run (sqWrite false sd fun s => (sGet s sa).sshiftRight sh)

/-- R114: (X × 2^16) mod 2^64. -/
def execLui (sd imm : Nat) : State → Host.Outcome State Fault Refusal :=
  run (sqWrite true sd fun s => sqImm s 16 imm true <<< 16)

/-- R114: s[sa][31:0] zero-extended, plus (X mod 2^32) × 2^32. -/
def execOrhi (sd sa imm : Nat) : State → Host.Outcome State Fault Refusal :=
  run (sqWrite true sd fun s => (sGet s sa).setWidth 32 |>.setWidth 64 |> fun lo => lo + (sqImm s 16 imm false <<< 32))

end Sys2Proof.Machine
end

