-- ==== Sys2Proof/Machine/Ve.lean ====
section
/-!
DEFINITION. VE's issue groups (R162, R163, R167), its operands (R159 to R161), and its control, synchronisation and
a-register words (R190 to R198). A word of a group is one step: it reads the state before the group, and its effects wait in
`VeGroup` until the group's last word, whose step applies them all.
-/
namespace Sys2Proof.Machine
open Sys2Proof

/-! ### Operands -/

def State.veTy (s : State) : ETy := etyOf s.c.r.ve.vshape.toNat

/-- R161: the physical row of v[k]. -/
def rowPhys (rrb k : Nat) : Nat := if k < 32 then k else (k - 32 + rrb) % 96 + 32

/-- R161: the physical predicate of p[k]. -/
def predPhys (rrb k : Nat) : Nat := if k < 8 then k else (k - 8 + rrb) % 8 + 8

def State.row (s : State) (k : Nat) : Nat := rowPhys s.c.r.ve.rrb.toNat k
def State.predNo (s : State) (k : Nat) : Nat := predPhys s.c.r.ve.rrb.toNat k

/-- The offset of a physical row in the CB window (R160). -/
def rowOff (vwin phys : Nat) : Nat := 32768 * vwin + 256 * phys

/-- A row operand: a tile outside the window traps (R18). -/
def rowIn (s : State) : Op Unit := failIf (!inWindow s.c 1 (rowOff s.c.r.ve.vwin.toNat 0) 32768) .bufRange

/-- A slot of R163. -/
inductive VeSlot where
  | a | s | m
  deriving DecidableEq, Repr

/-- The running group as its next word finds it: INVE is sampled as the group issues, at its first word (R60). -/
def Regs.veGroup (r : Regs) : VeGroup := if r.ve.group.count = 0 then { r.ve.group with inve := r.invTrap .ve } else r.ve.group

/-- The number of a slot in the slot order, for the next word of a group: A0, A1, S, M (R163). -/
def VeGroup.slotNo (g : VeGroup) (slot : VeSlot) : Nat := match slot with | .a => min g.aslots 1 | .s => 2 | .m => 3

/-- The buffers as the row read of the running word in operand `o` (0 vd, 1 va, 2 vb) finds them: each read of a group, by word and operand
in slot order, has its own place among the writes of another agent (R164). -/
def State.atRead (s : State) (slot : VeSlot) (o : Nat) : State := s.atNumber (3 * s.c.r.veGroup.slotNo slot + o)

/-- The 256 bytes of v[k], operand `o` of the word; a poisoned word stops the context (R448). -/
def rowRead (s : State) (slot : VeSlot) (o k : Nat) : Op Nat := do
  rowIn s
  let (v, p) := winRead s.ck 1 (rowOff s.c.r.ve.vwin.toNat (s.row k)) 256 (s.atRead slot o)
  failIf p .memUe
  pure v

/-- The lanes of v[k], operand `o` of the word. -/
def lanesRead (s : State) (slot : VeSlot) (o k : Nat) : Op (List Nat) := do
  let v ← rowRead s slot o k
  pure (splitBits s.veTy.width s.veTy.lanes v)

/-- p[k] below L, as a number; p0 is all true (R23, R159). -/
def State.pred (s : State) (k : Nat) : Nat :=
  if k = 0 then 2 ^ s.veTy.lanes - 1 else (vget 0 s.c.r.ve.p (s.predNo k)).toNat % 2 ^ s.veTy.lanes

def State.active (s : State) (pg i : Nat) : Bool := (s.pred pg).testBit i

/-- a[k]. -/
def State.aReg (s : State) (k : Nat) : BitVec 32 := vget 0 s.c.r.ve.a k

/-- The numeric state of the group. -/
def State.veNum (s : State) : NumMode := (s.c.stream .ve).num

/-! ### Effects of a word -/

/-- What a word adds to its group. -/
structure VeOut where
  effs : List VeEff := []
  flags : Flags := 0
  ctl : VeCtl := .none

/-- Writes the active lanes of v[k] (R159). -/
def rowOut (s : State) (k : Nat) (act : Nat → Bool) (l : List Nat) : VeEff :=
  .row (s.row k) (BitVec.ofNat 2048 (joinBits s.veTy.width l)) (BitVec.ofNat 256 (byteMask s.veTy.lanes s.veTy.bytes act))

/-- Writes p[k], its bits at and above L 0; a write to p0 is discarded (R159, R190). -/
def predOut (s : State) (k v : Nat) : List VeEff :=
  if k = 0 then [] else [.pred (s.predNo k) (BitVec.ofNat 256 (v % 2 ^ s.veTy.lanes))]

def aOut (k : Nat) (v : BitVec 32) : VeOut := { effs := [.areg k v] }

/-! ### The group -/

/-- The keys and bytes of a row write. -/
def rowCells (key : Nat) (data : BitVec 2048) (mask : BitVec 256) : List (Nat × BitVec 8) :=
  ((List.range 256).filter fun i => mask.getLsbD i).map fun i => (key + i, BitVec.ofNat 8 (data.toNat / 2 ^ (8 * i)))

/-- Applies one effect. Two words of a group that write one row leave the later one's lanes over those of the earlier that it does not
write; a predicate and an a register are written whole (R162; log 33: DESIGN CHOICE). -/
def applyEff (ck vwin : Nat) (s : State) (e : VeEff) : State :=
  match e with
  | .row phys data mask => s.bufBytes (rowCells (winKey ck (s.ctx ck) 1 (rowOff vwin phys)) data mask)
  | .pred phys data => s.modRegs ck fun r => { r with ve := { r.ve with p := vset r.ve.p phys data } }
  | .areg k v => s.modRegs ck fun r => { r with ve := { r.ve with a := vset r.ve.a k v } }
  | .ab bytes => s.bufBytes (bytes.map fun b => (winKey ck (s.ctx ck) 0 b.1, b.2))

/-- The effects of a group in slot order (R163): A0, A1, S, M. -/
def slotOrder (l : List (Nat × VeEff)) : List VeEff :=
  [0, 1, 2, 3].flatMap fun n => (l.filter fun e => e.1 = n).map (·.2)

/-- The write of a VE control register (R192). -/
def veCrWrite (ck csel : Nat) (v : BitVec 32) (s : State) : State :=
  match csel with
  | 0x10 => s.modRegs ck fun r => { r with ve := { r.ve with vshape := v.setWidth 4 } }
  | 0x11 => s.modRegs ck fun r => { r with ve := { r.ve with vwin := v.setWidth 5 } }
  | 0x12 => s.modRegs ck fun r => { r with ve := { r.ve with rrb := v.setWidth 7 } }
  | n => crWrite ck .ve n v.toNat s

/-- R193: the rotation of a loop close: BASE falls by one and p8 under it says whether the next iteration runs. -/
def veRotate (ck lev : Nat) (lanes : Nat) (s : State) : State :=
  s.modRegs ck fun r =>
    let it := (vget 0 (r.streams[StreamId.ve.code]'(by decide)).iter lev).toNat + 1
    let b := (r.ve.rrb.toNat + 95) % 96
    { r with ve := { r.ve with
      rrb := BitVec.ofNat 7 b
      p := vset r.ve.p (predPhys b 8) (if it < (vget 0 r.lc lev).toNat then BitVec.ofNat 256 (2 ^ lanes - 1) else 0) } }

/-- The group ends and VE goes on at `pc`. -/
def veEndAt (ck pc : Nat) (s : State) : State :=
  endUnit ck .ve pc (s.modRegs ck fun r => { r with ve := { r.ve with group := {} } })

/-- R162, R167: what the control word of a completed group does; `inv` says that the group traps with ARITH_INV, which a
trap of the control word replaces, and whose address the fault frame records (R60). -/
def veControl (ck : Nat) (ctl : VeCtl) (next lanes : Nat) (inv : Bool) (s : State) : State :=
  let group := ((s.ctx ck).stream .ve).pc
  let after (s : State) : State := if inv then trapInv ck .ve group s else s
  match ctl with
  | .none | .tlWait _ _ | .crWr _ _ => after (veEndAt ck next s)
  | .semWait n => after (veEndAt ck next (if (s.ctx ck).r.ve.group.held = some n then s else semTake ck n s))
  | .semSig n =>
    let (lost, s) := semSignal ck n s
    if lost then trapAfter ck .ve .semOverflow 0 (veEndAt ck next s) else after (veEndAt ck next s)
  | .branch target => after (veEndAt ck target s)
  | .lbr lev target =>
    let s := veRotate ck lev lanes s
    let (taken, s) := loopClose ck .ve lev target s
    after (if taken then veEndAt ck target s else leaveLevel ck .ve lev (veEndAt ck next s))
  | .finish => after (retire ck .ve (veEndAt ck next s))
  | .yield => after ((veEndAt ck next s).modStream ck .ve fun st => { st with yielded := true })
  | .trap code => trapAfter ck .ve .swTrap code (veEndAt ck next s)

/-- Blocks the whole group: it is read again from its first word (R167). -/
def veBlock (ck : Nat) (w : Wait) (s : State) : State :=
  blockOn ck .ve w (s.modRegs ck fun r => { r with ve := { r.ve with group := {} } })

/-- What the running group waits for, if its wait is not met (R24, R162, R196); one that holds its count does not wait for it again. -/
def veBlocked (ck : Nat) (s : State) : VeCtl → Option Wait
  | .semWait n => if (s.ctx ck).r.ve.group.held = some n ∨ s.semFree ck .ve n = true then none else some (.sem n)
  | .tlWait k v => if (s.timeline ck k).done.toNat < v then some (.tl k v) else none
  | _ => none

/-- R167: a group that stops before it has executed gives back the count that its wait has taken. -/
def veUntake (ck : Nat) (s : State) : State :=
  match (s.ctx ck).r.ve.group.held with
  | some n => (semSignal ck n s).2
  | none => s

/-- R162, R167: the end of a group: its wait, its traps, its writes in slot order, its flags, its control word. (log 23: DEDUCED) -/
def veCommit (ck : Nat) (s : State) : State :=
  let r := (s.ctx ck).r
  let g := r.ve.group
  match veBlocked ck s g.ctl with
  | some w => veBlock ck w s
  | none =>
    match g.trap with
    | some (_, c) =>
      let s := veUntake ck s
      if c = .memUe then
        let (q, s) := errorLog (dieOf ck) 0 1 (whoOf (coreOf ck) (ck % 4)) (s.ctx ck).linst.toNat 0 s
        takeTrap ck .ve c 0 0 0 q true s
      else takeTrap ck .ve c 0 0 0 0 true s
    | none =>
      let inv := g.inve && g.flags.getLsbD 0
      let lanes := (etyOf r.ve.vshape.toNat).lanes
      let next := ((s.ctx ck).stream .ve).next
      let s := (slotOrder g.effs).foldl (applyEff ck r.ve.vwin.toNat) s
      let s := match g.ctl with | .crWr csel v => veCrWrite ck csel v s | _ => s
      veControl ck g.ctl next lanes inv (addFlags ck g.flags s)

/-- The trap of the lowest rank (R167): kinds in the order VE_TYPE, operand traps, MEM_UE, then slot order. -/
def firstTrap (a b : Option (Nat × Cause)) : Option (Nat × Cause) :=
  match a, b with
  | some x, some y => if y.1 < x.1 then some y else some x
  | some x, none => some x
  | none, y => y

/-- Adds a word's part to the running group. -/
def VeGroup.add (g : VeGroup) (slot : VeSlot) (bad : Bool) (x : Except Stop VeOut) : VeGroup :=
  let n := g.slotNo slot
  let g := { g with count := g.count + 1, aslots := if slot = .a then g.aslots + 1 else g.aslots }
  if bad then { g with trap := firstTrap g.trap (some (n, .veType)) }
  else match x with
    | .ok o => { g with
        effs := g.effs ++ o.effs.map fun e => (n, e)
        flags := g.flags ||| o.flags
        ctl := if o.ctl = .none then g.ctl else o.ctl }
    | .error (.trap c _ _ _ _) => { g with trap := firstTrap g.trap (some ((if c = .memUe then 16 else 8) + n, c)) }
    | .error _ => g

/-- A word of a VE group: `ok` says which element types it takes (R199); `o` is its part. -/
def veWord (stop : Nat) (slot : VeSlot) (ok : ETy → Bool) (o : Op VeOut) (s : State) : State :=
  let ck := s.ck
  let g := s.c.r.veGroup.add slot (!ok s.veTy) (runOp o s).1
  let s := s.modRegs ck fun r => { r with ve := { r.ve with group := g } }
  if stop = 0 then { s.modStream ck .ve fun st => { st with pfxLen := st.pfxLen + 1 } with lock := some s.who }
  else veCommit ck s

def anyTy (_ : ETy) : Bool := true

/-! ### Predicates (R190, R191) -/

/-- R190: predicate logic. -/
def vePred (stop pd : Nat) (f : State → Nat) : State → State := fun s =>
  veWord stop .a anyTy (pure { effs := predOut s pd (f s) }) s

def execPand (stop pd pa pb : Nat) : State → Host.Outcome State Fault Refusal :=
  run (vePred stop pd fun s => s.pred pa &&& s.pred pb)
def execPor (stop pd pa pb : Nat) : State → Host.Outcome State Fault Refusal :=
  run (vePred stop pd fun s => s.pred pa ||| s.pred pb)
def execPxor (stop pd pa pb : Nat) : State → Host.Outcome State Fault Refusal :=
  run (vePred stop pd fun s => s.pred pa ^^^ s.pred pb)
def execPandn (stop pd pa pb : Nat) : State → Host.Outcome State Fault Refusal :=
  run (vePred stop pd fun s => s.pred pa &&& (2 ^ s.veTy.lanes - 1 - s.pred pb))
def execPnot (stop pd pa : Nat) : State → Host.Outcome State Fault Refusal :=
  run (vePred stop pd fun s => 2 ^ s.veTy.lanes - 1 - s.pred pa)
def execPset (stop pd : Nat) : State → Host.Outcome State Fault Refusal :=
  run (vePred stop pd fun s => 2 ^ s.veTy.lanes - 1)
def execPclr (stop pd : Nat) : State → Host.Outcome State Fault Refusal := run (vePred stop pd fun _ => 0)
def execPmov (stop pd pa : Nat) : State → Host.Outcome State Fault Refusal := run (vePred stop pd fun s => s.pred pa)

def execPcount (stop ad pa : Nat) : State → Host.Outcome State Fault Refusal :=
  run fun s => veWord stop .a anyTy (pure (aOut ad (BitVec.ofNat 32 (popNat s.veTy.lanes (s.pred pa))))) s

def execPfirst (stop ad pa : Nat) : State → Host.Outcome State Fault Refusal :=
  run fun s => veWord stop .a anyTy (pure (aOut ad
    (if s.pred pa = 0 then BitVec.allOnes 32 else BitVec.ofNat 32 (ctzNat s.veTy.lanes (s.pred pa))))) s

def execPwhile (stop pd ar : Nat) : State → Host.Outcome State Fault Refusal :=
  run (vePred stop pd fun s => 2 ^ min (s.aReg ar).toNat s.veTy.lanes - 1)

/-! ### Control registers (R192) -/

/-- The registers that VE reads. -/
def veCrRead (s : State) (csel : Nat) : BitVec 64 :=
  match csel with
  | 0x10 => s.c.r.ve.vshape.setWidth 64
  | 0x11 => s.c.r.ve.vwin.setWidth 64
  | 0x12 => s.c.r.ve.rrb.setWidth 64
  | n => crRead s .ve n

def execVeCrRd (stop ar csel : Nat) : State → Host.Outcome State Fault Refusal :=
  run fun s => veWord stop .s anyTy (pure (aOut ar ((veCrRead s csel).setWidth 32))) s

def execVeCrRdHi (stop ar csel : Nat) : State → Host.Outcome State Fault Refusal :=
  run fun s => veWord stop .s anyTy (pure (aOut ar ((veCrRead s csel >>> 32).setWidth 32))) s

/-- R192: whether a value may not be written. -/
def veCrBad (csel v : Nat) : Bool :=
  match csel with
  | 0x10 => decide (0xA < v)
  | 0x11 => decide (32 ≤ v)
  | 0x12 => decide (95 < v)
  | n => crBad n v

def execVeCrWr (stop ar csel : Nat) : State → Host.Outcome State Fault Refusal :=
  run fun s => veWord stop .s anyTy (do
    failIf (veCrBad csel (s.aReg ar).toNat) .crValue
    failIf (decide (csel = 0x11) && decide (ctCount s.c.ctxbuf ≤ (s.aReg ar).toNat)) .bufRange
    pure { ctl := .crWr csel (s.aReg ar) }) s

/-! ### Loops, branches, synchronisation (R193 to R197) -/

def execVeLbr (stop lev off : Nat) : State → Host.Outcome State Fault Refusal :=
  run fun s => veWord stop .s anyTy (do
    failIf (!s.c.r.hasLevel lev) .loopLev
    pure { ctl := .lbr lev (wordTarget (s.c.stream .ve).at 16 off) }) s

/-- R195: a branch on an a-register. -/
def veBranch (stop ar off : Nat) (take : BitVec 32 → Bool) : State → State := fun s =>
  veWord stop .s anyTy (pure
    (if take (s.aReg ar) then { ctl := .branch (wordTarget (s.c.stream .ve).at 16 off) } else {})) s

def execBz (stop ar off : Nat) : State → Host.Outcome State Fault Refusal := run (veBranch stop ar off fun v => decide (v = 0))
def execBnz (stop ar off : Nat) : State → Host.Outcome State Fault Refusal := run (veBranch stop ar off fun v => decide (v ≠ 0))

/-- R196: a release at core scope has no cache action (R315). -/
def execVeSemSig (stop sem : Nat) : State → Host.Outcome State Fault Refusal :=
  run (veWord stop .s anyTy (pure { ctl := .semSig sem }))

def execVeSemWait (stop sem : Nat) : State → Host.Outcome State Fault Refusal :=
  run (veWord stop .s anyTy (pure { ctl := .semWait sem }))

def execVeTlWait (stop tl aa : Nat) : State → Host.Outcome State Fault Refusal :=
  run fun s => veWord stop .s anyTy (pure { ctl := .tlWait tl (s.aReg aa).toNat }) s

def execVeEnd (stop : Nat) : State → Host.Outcome State Fault Refusal := run (veWord stop .s anyTy (pure { ctl := .finish }))

def execVeTrap (stop code : Nat) : State → Host.Outcome State Fault Refusal :=
  run (veWord stop .s anyTy (pure { ctl := .trap code }))

/-- R197: no state changes; the next issue slot goes to another ready context. -/
def execVeYield (stop : Nat) : State → Host.Outcome State Fault Refusal := run (veWord stop .s anyTy (pure { ctl := .yield }))

/-! ### a-registers (R198) -/

/-- R198: an operation on two a-registers. -/
def veAlu (stop ad aa ab : Nat) (f : BitVec 32 → BitVec 32 → BitVec 32) : State → State := fun s =>
  veWord stop .m anyTy (pure (aOut ad (f (s.aReg aa) (s.aReg ab)))) s

def execAAdd (stop ad aa ab : Nat) : State → Host.Outcome State Fault Refusal := run (veAlu stop ad aa ab fun a b => a + b)
def execASub (stop ad aa ab : Nat) : State → Host.Outcome State Fault Refusal := run (veAlu stop ad aa ab fun a b => a - b)
def execAMul (stop ad aa ab : Nat) : State → Host.Outcome State Fault Refusal := run (veAlu stop ad aa ab fun a b => a * b)
def execAAnd (stop ad aa ab : Nat) : State → Host.Outcome State Fault Refusal := run (veAlu stop ad aa ab fun a b => a &&& b)
def execAOr (stop ad aa ab : Nat) : State → Host.Outcome State Fault Refusal := run (veAlu stop ad aa ab fun a b => a ||| b)
def execAXor (stop ad aa ab : Nat) : State → Host.Outcome State Fault Refusal := run (veAlu stop ad aa ab fun a b => a ^^^ b)
def execASll (stop ad aa ab : Nat) : State → Host.Outcome State Fault Refusal := run (veAlu stop ad aa ab fun a b => a <<< (b.toNat % 32))
def execASrl (stop ad aa ab : Nat) : State → Host.Outcome State Fault Refusal := run (veAlu stop ad aa ab fun a b => a >>> (b.toNat % 32))
def execASra (stop ad aa ab : Nat) : State → Host.Outcome State Fault Refusal := run (veAlu stop ad aa ab fun a b => a.sshiftRight (b.toNat % 32))
def execAMin (stop ad aa ab : Nat) : State → Host.Outcome State Fault Refusal := run (veAlu stop ad aa ab fun a b => bvMin a b)
def execAMax (stop ad aa ab : Nat) : State → Host.Outcome State Fault Refusal := run (veAlu stop ad aa ab fun a b => bvMax a b)
def execAMinu (stop ad aa ab : Nat) : State → Host.Outcome State Fault Refusal := run (veAlu stop ad aa ab fun a b => bvMinu a b)
def execAMaxu (stop ad aa ab : Nat) : State → Host.Outcome State Fault Refusal := run (veAlu stop ad aa ab fun a b => bvMaxu a b)
def execASlt (stop ad aa ab : Nat) : State → Host.Outcome State Fault Refusal := run (veAlu stop ad aa ab fun a b => bit (a.slt b))
def execASltu (stop ad aa ab : Nat) : State → Host.Outcome State Fault Refusal := run (veAlu stop ad aa ab fun a b => bit (a.ult b))

def execALc (stop ad lev : Nat) : State → Host.Outcome State Fault Refusal :=
  run fun s => veWord stop .m anyTy (do
    failIf (!s.c.r.hasLevel lev) .loopLev
    pure (aOut ad (vget 0 s.c.r.lc lev))) s

def execAIt (stop ad lev : Nat) : State → Host.Outcome State Fault Refusal :=
  run fun s => veWord stop .m anyTy (do
    failIf (!s.c.r.hasLevel lev) .loopLev
    pure (aOut ad (vget 0 (s.c.stream .ve).iter lev))) s

def execAAddi (stop ad aa imm : Nat) : State → Host.Outcome State Fault Refusal :=
  run fun s => veWord stop .m anyTy (pure (aOut ad (s.aReg aa + BitVec.ofInt 32 (signedOf 16 imm)))) s

def execALui (stop ad imm : Nat) : State → Host.Outcome State Fault Refusal :=
  run (veWord stop .m anyTy (pure (aOut ad (BitVec.ofNat 32 (imm * 65536)))))

end Sys2Proof.Machine
end

