-- ==== Sys2Proof/Machine/VeArith.lean ====
section
/-!
DEFINITION. VE's arithmetic, special, permute and AB words (R171 to R188).
-/
namespace Sys2Proof.Machine
open Sys2Proof

/-! ### Forms -/

/-- R159, R171: a guarded operation on two rows. -/
def veVV (stop : Nat) (slot : VeSlot) (ok : ETy → Bool) (f : Lane2) (vd va vb pg : Nat) : State → State := fun s =>
  veWord stop slot ok (do
    let x ← lanesRead s slot 1 va
    let y ← lanesRead s slot 2 vb
    let (r, g) := laneMap (s.active pg) (fun p => f s.veNum s.veTy p.1 p.2) 0 (x.zip y)
    pure { effs := [rowOut s vd (s.active pg) r], flags := g }) s

/-- R172: a guarded operation that also reads vd. -/
def veVVV (stop : Nat) (f : Lane3) (vd va vb pg : Nat) : State → State := fun s =>
  veWord stop .a anyTy (do
    let z ← lanesRead s .a 0 vd
    let x ← lanesRead s .a 1 va
    let y ← lanesRead s .a 2 vb
    let (r, g) := laneMap (s.active pg) (fun p => f s.veNum s.veTy p.1 p.2.1 p.2.2) 0 (x.zip (y.zip z))
    pure { effs := [rowOut s vd (s.active pg) r], flags := g }) s

/-- R177: the scalar σ. -/
def State.sigma (s : State) (ar : Nat) : Nat := (s.aReg ar).toNat % 2 ^ s.veTy.width

/-- R177: a guarded operation on a row and the scalar. -/
def veVS (stop : Nat) (f : Lane2) (vd va ar pg : Nat) : State → State := fun s =>
  veWord stop .a anyTy (do
    let x ← lanesRead s .a 1 va
    let (r, g) := laneMap (s.active pg) (fun a => f s.veNum s.veTy a (s.sigma ar)) 0 x
    pure { effs := [rowOut s vd (s.active pg) r], flags := g }) s

/-- R178, R180: a guarded operation on one row. -/
def veVU (stop : Nat) (slot : VeSlot) (ok : ETy → Bool) (f : Lane1) (vd va pg : Nat) : State → State := fun s =>
  veWord stop slot ok (do
    let x ← lanesRead s slot 1 va
    let (r, g) := laneMap (s.active pg) (fun a => f s.veNum s.veTy a) 0 x
    pure { effs := [rowOut s vd (s.active pg) r], flags := g }) s

/-- R176: a comparison; inactive lanes keep their bits. -/
def veCmp (stop : Nat) (c : Cond) (pd va vb pg : Nat) : State → State := fun s =>
  veWord stop .a anyTy (do
    let x ← lanesRead s .a 1 va
    let y ← lanesRead s .a 2 vb
    let (r, g) := laneMap (s.active pg)
      (fun p => let q := laneCmp c s.veNum s.veTy p.1 p.2; (if q.1 then 1 else 0, q.2)) 0 (x.zip y)
    let m := s.pred pg
    let keep := s.pred pd &&& (2 ^ s.veTy.lanes - 1 - m)
    pure { effs := predOut s pd (keep ||| joinBits 1 r), flags := g }) s

/-- R183: a reduction into an a-register. -/
def veRed (stop : Nat) (k : Red) (ad va pg : Nat) : State → State := fun s =>
  veWord stop .s anyTy (do
    let x ← lanesRead s .s 1 va
    let l := (enum x).map fun p => if s.active pg p.1 then some p.2 else none
    let (v, g) := reduceLanes (s.c.stream .ve).nbl (k.op s.veNum s.veTy) (k.ident s.veTy) l
    pure { effs := [.areg ad (BitVec.ofNat 32 (v.getD (k.ident s.veTy)))], flags := g }) s

/-- A lane of a row, by number. -/
def laneAt (l : List Nat) (i : Nat) : Nat := l[i]?.getD 0

/-- R184, R186: a guarded move of lanes: lane i takes what `f` gives. -/
def veMove (stop vd va pg : Nat) (f : State → List Nat → Nat → Nat) : State → State := fun s =>
  veWord stop .s anyTy (do
    let x ← lanesRead s .s 1 va
    pure { effs := [rowOut s vd (s.active pg) ((List.range s.veTy.lanes).map (f s x))] }) s

/-! ### Arithmetic (R171 to R176, R182) -/

def execVadd (stop vd va vb pg : Nat) : State → Host.Outcome State Fault Refusal := run (veVV stop .a anyTy laneAdd vd va vb pg)
def execVsub (stop vd va vb pg : Nat) : State → Host.Outcome State Fault Refusal := run (veVV stop .a anyTy laneSub vd va vb pg)
def execVmul (stop vd va vb pg : Nat) : State → Host.Outcome State Fault Refusal := run (veVV stop .a anyTy laneMul vd va vb pg)
def execVfma (stop vd va vb pg : Nat) : State → Host.Outcome State Fault Refusal := run (veVVV stop (laneFma false) vd va vb pg)
/-- R166: the reuse hint changes no result. -/
def execVfmaR (stop vd va vb pg : Nat) : State → Host.Outcome State Fault Refusal := run (veVVV stop (laneFma false) vd va vb pg)
def execVfms (stop vd va vb pg : Nat) : State → Host.Outcome State Fault Refusal := run (veVVV stop (laneFma true) vd va vb pg)
def execVfmsR (stop vd va vb pg : Nat) : State → Host.Outcome State Fault Refusal := run (veVVV stop (laneFma true) vd va vb pg)
def execVmin (stop vd va vb pg : Nat) : State → Host.Outcome State Fault Refusal := run (veVV stop .a anyTy laneMin vd va vb pg)
def execVmax (stop vd va vb pg : Nat) : State → Host.Outcome State Fault Refusal := run (veVV stop .a anyTy laneMax vd va vb pg)
def execVand (stop vd va vb pg : Nat) : State → Host.Outcome State Fault Refusal := run (veVV stop .a anyTy (laneBits (· &&& ·)) vd va vb pg)
def execVor (stop vd va vb pg : Nat) : State → Host.Outcome State Fault Refusal := run (veVV stop .a anyTy (laneBits (· ||| ·)) vd va vb pg)
def execVxor (stop vd va vb pg : Nat) : State → Host.Outcome State Fault Refusal := run (veVV stop .a anyTy (laneBits (· ^^^ ·)) vd va vb pg)
def execVshl (stop vd va vb pg : Nat) : State → Host.Outcome State Fault Refusal := run (veVV stop .a ETy.isInt laneShl vd va vb pg)
def execVshr (stop vd va vb pg : Nat) : State → Host.Outcome State Fault Refusal := run (veVV stop .a ETy.isInt laneShr vd va vb pg)
def execVqadd (stop vd va vb pg : Nat) : State → Host.Outcome State Fault Refusal := run (veVV stop .a ETy.isInt (laneSat (· + ·)) vd va vb pg)
def execVqsub (stop vd va vb pg : Nat) : State → Host.Outcome State Fault Refusal := run (veVV stop .a ETy.isInt (laneSat (· - ·)) vd va vb pg)

/-- R175: pg selects between va and vb in every lane. -/
def execVsel (stop vd va vb pg : Nat) : State → Host.Outcome State Fault Refusal :=
  run fun s => veWord stop .a anyTy (do
    let x ← lanesRead s .a 1 va
    let y ← lanesRead s .a 2 vb
    let r := (enum (x.zip y)).map fun p => if s.active pg p.1 then p.2.1 else p.2.2
    pure { effs := [rowOut s vd (fun _ => true) r] }) s

def execVcmpEq (stop pd va vb pg : Nat) : State → Host.Outcome State Fault Refusal := run (veCmp stop .eq pd va vb pg)
def execVcmpNe (stop pd va vb pg : Nat) : State → Host.Outcome State Fault Refusal := run (veCmp stop .ne pd va vb pg)
def execVcmpLt (stop pd va vb pg : Nat) : State → Host.Outcome State Fault Refusal := run (veCmp stop .lt pd va vb pg)
def execVcmpLe (stop pd va vb pg : Nat) : State → Host.Outcome State Fault Refusal := run (veCmp stop .le pd va vb pg)
def execVcmpGt (stop pd va vb pg : Nat) : State → Host.Outcome State Fault Refusal := run (veCmp stop .gt pd va vb pg)
def execVcmpGe (stop pd va vb pg : Nat) : State → Host.Outcome State Fault Refusal := run (veCmp stop .ge pd va vb pg)
def execVcmpUnord (stop pd va vb pg : Nat) : State → Host.Outcome State Fault Refusal := run (veCmp stop .unord pd va vb pg)

def execVaddVs (stop vd va ar pg : Nat) : State → Host.Outcome State Fault Refusal := run (veVS stop laneAdd vd va ar pg)
def execVsubVs (stop vd va ar pg : Nat) : State → Host.Outcome State Fault Refusal := run (veVS stop laneSub vd va ar pg)
def execVmulVs (stop vd va ar pg : Nat) : State → Host.Outcome State Fault Refusal := run (veVS stop laneMul vd va ar pg)
def execVminVs (stop vd va ar pg : Nat) : State → Host.Outcome State Fault Refusal := run (veVS stop laneMin vd va ar pg)
def execVmaxVs (stop vd va ar pg : Nat) : State → Host.Outcome State Fault Refusal := run (veVS stop laneMax vd va ar pg)
def execVrsub (stop vd va ar pg : Nat) : State → Host.Outcome State Fault Refusal := run (veVS stop laneRsub vd va ar pg)

def execVfmaVs (stop vd va ar pg : Nat) : State → Host.Outcome State Fault Refusal :=
  run fun s => veWord stop .a anyTy (do
    let z ← lanesRead s .a 0 vd
    let x ← lanesRead s .a 1 va
    let (r, g) := laneMap (s.active pg) (fun p => laneFma false s.veNum s.veTy p.1 (s.sigma ar) p.2) 0 (x.zip z)
    pure { effs := [rowOut s vd (s.active pg) r], flags := g }) s

def execVbcast (stop vd ar pg : Nat) : State → Host.Outcome State Fault Refusal :=
  run fun s => veWord stop .a anyTy (do
    rowIn s
    pure { effs := [rowOut s vd (s.active pg) (List.replicate s.veTy.lanes (s.sigma ar))] }) s

def execVmov (stop vd va pg : Nat) : State → Host.Outcome State Fault Refusal := run (veVU stop .a anyTy (fun _ _ a => (a, 0)) vd va pg)
def execVneg (stop vd va pg : Nat) : State → Host.Outcome State Fault Refusal := run (veVU stop .a anyTy laneNeg vd va pg)
def execVabs (stop vd va pg : Nat) : State → Host.Outcome State Fault Refusal := run (veVU stop .a anyTy laneAbs vd va pg)
def execVnot (stop vd va pg : Nat) : State → Host.Outcome State Fault Refusal := run (veVU stop .a anyTy laneNot vd va pg)
def execVclz (stop vd va pg : Nat) : State → Host.Outcome State Fault Refusal := run (veVU stop .a ETy.isInt laneClz vd va pg)
def execVpopc (stop vd va pg : Nat) : State → Host.Outcome State Fault Refusal := run (veVU stop .a ETy.isInt lanePopc vd va pg)
def execVrnd (stop vd va pg : Nat) : State → Host.Outcome State Fault Refusal := run (veVU stop .a ETy.isFlt laneRnd vd va pg)

/-- R179: lanes PART × n to PART × n + n − 1 of the wider side convert; the other bytes of vd keep their values when DT is
the narrower. -/
def execVcvt (stop vd va sty dty part : Nat) : State → Host.Outcome State Fault Refusal :=
  run fun s => veWord stop .a anyTy (do
    let v ← rowRead s .a 1 va
    let st := etyOf sty
    let dt := etyOf dty
    let n := 256 / max st.bytes dt.bytes
    let narrow := decide (dt.bytes < st.bytes)
    let x := splitBits st.width n (if narrow then v else v / 2 ^ (st.width * (part * n)))
    let (r, g) := laneMap (fun _ => true) (laneCvt st dt s.veNum) 0 x
    let at_ := if narrow then dt.bytes * (part * n) else 0
    pure { effs := [.row (s.row vd) (BitVec.ofNat 2048 (joinBits dt.width r * 2 ^ (8 * at_)))
                      (BitVec.ofNat 256 ((2 ^ (dt.bytes * n) - 1) * 2 ^ at_))], flags := g }) s

/-! ### Special functions and division (R180 to R182) -/

def execVrcp (stop vd va pg : Nat) : State → Host.Outcome State Fault Refusal := run (veVU stop .s ETy.isFlt (laneFun .rcp) vd va pg)
def execVrsqrt (stop vd va pg : Nat) : State → Host.Outcome State Fault Refusal := run (veVU stop .s ETy.isFlt (laneFun .rsqrt) vd va pg)
def execVsqrt (stop vd va pg : Nat) : State → Host.Outcome State Fault Refusal := run (veVU stop .s ETy.isFlt (laneFun .sqrt) vd va pg)
def execVexp2 (stop vd va pg : Nat) : State → Host.Outcome State Fault Refusal := run (veVU stop .s ETy.isFlt (laneFun .exp2) vd va pg)
def execVlog2 (stop vd va pg : Nat) : State → Host.Outcome State Fault Refusal := run (veVU stop .s ETy.isFlt (laneFun .log2) vd va pg)
def execVexp (stop vd va pg : Nat) : State → Host.Outcome State Fault Refusal := run (veVU stop .s ETy.isFlt (laneFun .exp) vd va pg)
def execVtanh (stop vd va pg : Nat) : State → Host.Outcome State Fault Refusal := run (veVU stop .s ETy.isFlt (laneFun .tanh) vd va pg)
def execVsigm (stop vd va pg : Nat) : State → Host.Outcome State Fault Refusal := run (veVU stop .s ETy.isFlt (laneFun .sigm) vd va pg)
def execVdiv (stop vd va vb pg : Nat) : State → Host.Outcome State Fault Refusal := run (veVV stop .s anyTy laneDiv vd va vb pg)

/-! ### Reductions and permutes (R183 to R186) -/

def execVredSum (stop ad va pg : Nat) : State → Host.Outcome State Fault Refusal := run (veRed stop .sum ad va pg)
def execVredMin (stop ad va pg : Nat) : State → Host.Outcome State Fault Refusal := run (veRed stop .min ad va pg)
def execVredMax (stop ad va pg : Nat) : State → Host.Outcome State Fault Refusal := run (veRed stop .max ad va pg)
def execVredAnd (stop ad va pg : Nat) : State → Host.Outcome State Fault Refusal := run (veRed stop .and ad va pg)
def execVredOr (stop ad va pg : Nat) : State → Host.Outcome State Fault Refusal := run (veRed stop .or ad va pg)
def execVredXor (stop ad va pg : Nat) : State → Host.Outcome State Fault Refusal := run (veRed stop .xor ad va pg)

def execVperm (stop vd va vb pg : Nat) : State → Host.Outcome State Fault Refusal :=
  run fun s => veWord stop .s anyTy (do
    let x ← lanesRead s .s 1 va
    let y ← lanesRead s .s 2 vb
    pure { effs := [rowOut s vd (s.active pg) (y.map fun j => laneAt x (j % s.veTy.lanes))] }) s

/-- The lanes that a mask selects, in order. -/
def packed (s : State) (pg : Nat) (x : List Nat) : List Nat := ((enum x).filter fun p => s.active pg p.1).map (·.2)

def execVcompress (stop vd va ad pg : Nat) : State → Host.Outcome State Fault Refusal :=
  run fun s => veWord stop .s anyTy (do
    let x ← lanesRead s .s 1 va
    let l := packed s pg x
    pure { effs := [rowOut s vd (fun _ => true) l, .areg ad (BitVec.ofNat 32 l.length)] }) s

/-- R185: active lanes take the lanes of va in order, the others 0. -/
def expandLanes (act : Nat → Bool) : Nat → Nat → List Nat → List Nat
  | 0, _, _ => []
  | n + 1, i, l => if act i then l.headD 0 :: expandLanes act n (i + 1) l.tail else 0 :: expandLanes act n (i + 1) l

def execVexpand (stop vd va pg : Nat) : State → Host.Outcome State Fault Refusal :=
  run fun s => veWord stop .s anyTy (do
    let x ← lanesRead s .s 1 va
    pure { effs := [rowOut s vd (fun _ => true) (expandLanes (s.active pg) s.veTy.lanes 0 x)] }) s

def execVslup (stop vd va ar pg : Nat) : State → Host.Outcome State Fault Refusal :=
  run (veMove stop vd va pg fun s x i => if (s.aReg ar).toNat ≤ i then laneAt x (i - (s.aReg ar).toNat) else 0)
def execVsldn (stop vd va ar pg : Nat) : State → Host.Outcome State Fault Refusal :=
  run (veMove stop vd va pg fun s x i => laneAt x (i + (s.aReg ar).toNat))
def execVbcastl (stop vd va ar pg : Nat) : State → Host.Outcome State Fault Refusal :=
  run (veMove stop vd va pg fun s x _ => laneAt x ((s.aReg ar).toNat % s.veTy.lanes))

def execVext (stop ad va ar : Nat) : State → Host.Outcome State Fault Refusal :=
  run fun s => veWord stop .s anyTy (do
    let x ← lanesRead s .s 1 va
    pure (aOut ad (BitVec.ofNat 32 (laneAt x ((s.aReg ar).toNat % s.veTy.lanes))))) s

def execVins (stop vd av ar : Nat) : State → Host.Outcome State Fault Refusal :=
  run fun s => veWord stop .s anyTy (do
    rowIn s
    let i := (s.aReg ar).toNat % s.veTy.lanes
    pure { effs := [rowOut s vd (fun j => j = i) (List.replicate s.veTy.lanes (s.sigma av))] }) s

/-! ### AB access (R187, R188) -/

/-- R187: EA := (a[ab] + 4 × OFF14) mod 2^32. -/
def rowEa (s : State) (ab off : Nat) : Nat := (s.aReg ab + BitVec.ofInt 32 (4 * signedOf 14 off)).toNat

/-- Reads AB bytes; a poisoned word stops the context (R448). -/
def abRead (s : State) (off n : Nat) : Op Nat := do
  let (v, p) := winRead s.ck 0 off n s
  failIf p .memUe
  pure v

/-- The bytes of a value at an offset. -/
def bytesAt (off n v : Nat) : List (Nat × BitVec 8) :=
  (List.range n).map fun i => (off + i, BitVec.ofNat 8 (v / 2 ^ (8 * i)))

/-- R187. An address that is misaligned and out of the window takes MISALIGN (log 33: DESIGN CHOICE). -/
def execVld (stop vd ab off : Nat) : State → Host.Outcome State Fault Refusal :=
  run fun s => veWord stop .m anyTy (do
    let ea := rowEa s ab off
    failIf (decide (ea % 4 ≠ 0)) .misalign
    failIf (!inWindow s.c 0 ea 256) .bufRange
    rowIn s
    let v ← abRead s ea 256
    pure { effs := [.row (s.row vd) (BitVec.ofNat 2048 v) (BitVec.allOnes 256)] }) s

/-- R187, in the order of `vld`. -/
def execVst (stop va ab off : Nat) : State → Host.Outcome State Fault Refusal :=
  run fun s => veWord stop .m anyTy (do
    let ea := rowEa s ab off
    failIf (decide (ea % 4 ≠ 0)) .misalign
    failIf (!inWindow s.c 0 ea 256) .bufRange
    let v ← rowRead s .m 1 va
    pure { effs := [.ab (bytesAt ea 256 v)] }) s

/-- R188: the AB offsets of the active lanes (lane, offset), for lane addresses `idx`, after the checks; MISALIGN before BUF_RANGE
(log 33: DESIGN CHOICE). -/
def laneOffs (s : State) (ab pg : Nat) (idx : Op (List Nat)) : Op (List (Nat × Nat)) := do
  let e := s.veTy.bytes
  let base := (s.aReg ab).toNat
  failIf (decide (base % e ≠ 0)) .misalign
  let idx ← idx
  let l := ((enum idx).filter fun p => s.active pg p.1).map fun p => (p.1, base + e * p.2)
  failIf (l.any fun p => !inWindow s.c 0 p.2 e) .bufRange
  pure l

def execVldx (stop vd ab vb pg : Nat) : State → Host.Outcome State Fault Refusal :=
  run fun s => veWord stop .m anyTy (do
    let l ← laneOffs s ab pg (lanesRead s .m 2 vb)
    let vs ← opMap (fun p => abRead s p.2 s.veTy.bytes) l
    let at_ := fun i => ((l.zip vs).find? fun p => p.1.1 = i).map (·.2) |>.getD 0
    pure { effs := [rowOut s vd (s.active pg) ((List.range s.veTy.lanes).map at_)] }) s

/-- R188: stores the active lanes of va; of two for one address the higher remains. -/
def veScatter (stop va ab pg : Nat) (idx : Op (List Nat)) : State → State := fun s =>
  veWord stop .m anyTy (do
    let l ← laneOffs s ab pg idx
    let x ← lanesRead s .m 1 va
    pure { effs := [.ab (l.flatMap fun p => bytesAt p.2 s.veTy.bytes (laneAt x p.1))] }) s

def execVstp (stop va ab pg : Nat) : State → Host.Outcome State Fault Refusal :=
  run fun s => veScatter stop va ab pg (pure (List.range s.veTy.lanes)) s

def execVstx (stop va ab vb pg : Nat) : State → Host.Outcome State Fault Refusal :=
  run fun s => veScatter stop va ab pg (lanesRead s .m 2 vb) s

end Sys2Proof.Machine
end

