-- ==== Sys2Proof/Machine/Dispatch.lean ====
section
/-!
DEFINITION. One arm per row of the opcode table: the meaning of every instruction and event.
-/
namespace Sys2Proof.Machine
open Sys2Proof

/-- The effect of one instruction, or of one event, on the machine. -/
def exec (i : Instr) (s : State) : Host.Outcome State Fault Refusal :=
  match i with
  | .add sd sa sb => Sys2Proof.Machine.execAdd sd sa sb s
  | .sub sd sa sb => Sys2Proof.Machine.execSub sd sa sb s
  | .and sd sa sb => Sys2Proof.Machine.execAnd sd sa sb s
  | .or sd sa sb => Sys2Proof.Machine.execOr sd sa sb s
  | .xor sd sa sb => Sys2Proof.Machine.execXor sd sa sb s
  | .sll sd sa sb => Sys2Proof.Machine.execSll sd sa sb s
  | .srl sd sa sb => Sys2Proof.Machine.execSrl sd sa sb s
  | .sra sd sa sb => Sys2Proof.Machine.execSra sd sa sb s
  | .slt sd sa sb => Sys2Proof.Machine.execSlt sd sa sb s
  | .sltu sd sa sb => Sys2Proof.Machine.execSltu sd sa sb s
  | .min sd sa sb => Sys2Proof.Machine.execMin sd sa sb s
  | .max sd sa sb => Sys2Proof.Machine.execMax sd sa sb s
  | .minu sd sa sb => Sys2Proof.Machine.execMinu sd sa sb s
  | .maxu sd sa sb => Sys2Proof.Machine.execMaxu sd sa sb s
  | .sextI8 sd sa => Sys2Proof.Machine.execSextI8 sd sa s
  | .sextI16 sd sa => Sys2Proof.Machine.execSextI16 sd sa s
  | .sextI32 sd sa => Sys2Proof.Machine.execSextI32 sd sa s
  | .zextN8 sd sa => Sys2Proof.Machine.execZextN8 sd sa s
  | .zextN16 sd sa => Sys2Proof.Machine.execZextN16 sd sa s
  | .zextN32 sd sa => Sys2Proof.Machine.execZextN32 sd sa s
  | .clz sd sa => Sys2Proof.Machine.execClz sd sa s
  | .ctz sd sa => Sys2Proof.Machine.execCtz sd sa s
  | .popc sd sa => Sys2Proof.Machine.execPopc sd sa s
  | .mul sd sa sb => Sys2Proof.Machine.execMul sd sa sb s
  | .mulh sd sa sb => Sys2Proof.Machine.execMulh sd sa sb s
  | .mulhu sd sa sb => Sys2Proof.Machine.execMulhu sd sa sb s
  | .div sd sa sb => Sys2Proof.Machine.execDiv sd sa sb s
  | .divu sd sa sb => Sys2Proof.Machine.execDivu sd sa sb s
  | .rem sd sa sb => Sys2Proof.Machine.execRem sd sa sb s
  | .remu sd sa sb => Sys2Proof.Machine.execRemu sd sa sb s
  | .addi sd sa imm => Sys2Proof.Machine.execAddi sd sa imm s
  | .andi sd sa imm => Sys2Proof.Machine.execAndi sd sa imm s
  | .ori sd sa imm => Sys2Proof.Machine.execOri sd sa imm s
  | .xori sd sa imm => Sys2Proof.Machine.execXori sd sa imm s
  | .slti sd sa imm => Sys2Proof.Machine.execSlti sd sa imm s
  | .sltiu sd sa imm => Sys2Proof.Machine.execSltiu sd sa imm s
  | .slli sd sa sh => Sys2Proof.Machine.execSlli sd sa sh s
  | .srli sd sa sh => Sys2Proof.Machine.execSrli sd sa sh s
  | .srai sd sa sh => Sys2Proof.Machine.execSrai sd sa sh s
  | .lui sd imm => Sys2Proof.Machine.execLui sd imm s
  | .orhi sd sa imm => Sys2Proof.Machine.execOrhi sd sa imm s
  | .ld sd sa ty off => Sys2Proof.Machine.execLd sd sa ty off s
  | .st sv sa ty off => Sys2Proof.Machine.execSt sv sa ty off s
  | .ldx sd sa sb ty => Sys2Proof.Machine.execLdx sd sa sb ty s
  | .stx sv sa sb ty => Sys2Proof.Machine.execStx sv sa sb ty s
  | .amoAdd sd sa sb w ord scope => Sys2Proof.Machine.execAmoAdd sd sa sb w ord scope s
  | .amoAnd sd sa sb w ord scope => Sys2Proof.Machine.execAmoAnd sd sa sb w ord scope s
  | .amoOr sd sa sb w ord scope => Sys2Proof.Machine.execAmoOr sd sa sb w ord scope s
  | .amoXor sd sa sb w ord scope => Sys2Proof.Machine.execAmoXor sd sa sb w ord scope s
  | .amoMin sd sa sb w ord scope => Sys2Proof.Machine.execAmoMin sd sa sb w ord scope s
  | .amoMax sd sa sb w ord scope => Sys2Proof.Machine.execAmoMax sd sa sb w ord scope s
  | .amoMinu sd sa sb w ord scope => Sys2Proof.Machine.execAmoMinu sd sa sb w ord scope s
  | .amoMaxu sd sa sb w ord scope => Sys2Proof.Machine.execAmoMaxu sd sa sb w ord scope s
  | .amoSwap sd sa sb w ord scope => Sys2Proof.Machine.execAmoSwap sd sa sb w ord scope s
  | .amoCas sd sa sb w ord scope => Sys2Proof.Machine.execAmoCas sd sa sb w ord scope s
  | .fenceC mask => Sys2Proof.Machine.execFenceC mask s
  | .fenceAcq scope mask => Sys2Proof.Machine.execFenceAcq scope mask s
  | .fenceRel scope mask => Sys2Proof.Machine.execFenceRel scope mask s
  | .fenceAcqrel scope mask => Sys2Proof.Machine.execFenceAcqrel scope mask s
  | .sqSemSig scope sem => Sys2Proof.Machine.execSqSemSig scope sem s
  | .sqSemWait scope sem => Sys2Proof.Machine.execSqSemWait scope sem s
  | .semSigr sa sd sem => Sys2Proof.Machine.execSemSigr sa sd sem s
  | .sqTlWait tl sa => Sys2Proof.Machine.execSqTlWait tl sa s
  | .tlRd tl sd => Sys2Proof.Machine.execTlRd tl sd s
  | .tlRdi tl sd => Sys2Proof.Machine.execTlRdi tl sd s
  | .tlErr tl sd => Sys2Proof.Machine.execTlErr tl sd s
  | .sqBarInit sa sb => Sys2Proof.Machine.execSqBarInit sa sb s
  | .sqBarWait sa sd => Sys2Proof.Machine.execSqBarWait sa sd s
  | .rinv sa sb => Sys2Proof.Machine.execRinv sa sb s
  | .beq sa sb off => Sys2Proof.Machine.execBeq sa sb off s
  | .bne sa sb off => Sys2Proof.Machine.execBne sa sb off s
  | .blt sa sb off => Sys2Proof.Machine.execBlt sa sb off s
  | .bge sa sb off => Sys2Proof.Machine.execBge sa sb off s
  | .bltu sa sb off => Sys2Proof.Machine.execBltu sa sb off s
  | .bgeu sa sb off => Sys2Proof.Machine.execBgeu sa sb off s
  | .jal sd off => Sys2Proof.Machine.execJal sd off s
  | .jalr sd sa off => Sys2Proof.Machine.execJalr sd sa off s
  | .jtab sd sa off => Sys2Proof.Machine.execJtab sd sa off s
  | .sqLbr lev off => Sys2Proof.Machine.execSqLbr lev off s
  | .cbPub sd sa sb => Sys2Proof.Machine.execCbPub sd sa sb s
  | .cbPin sd sa sb => Sys2Proof.Machine.execCbPin sd sa sb s
  | .cbUnpin sd sa sb => Sys2Proof.Machine.execCbUnpin sd sa sb s
  | .lrPatch sd sa sb field => Sys2Proof.Machine.execLrPatch sd sa sb field s
  | .lrArm sd sa sb => Sys2Proof.Machine.execLrArm sd sa sb s
  | .asgWr sa rsel => Sys2Proof.Machine.execAsgWr sa rsel s
  | .asgRd sd rsel => Sys2Proof.Machine.execAsgRd sd rsel s
  | .asgPget sd sa => Sys2Proof.Machine.execAsgPget sd sa s
  | .asgPput sa sb => Sys2Proof.Machine.execAsgPput sa sb s
  | .asgPfill sa => Sys2Proof.Machine.execAsgPfill sa s
  | .asgRun sd sa => Sys2Proof.Machine.execAsgRun sd sa s
  | .asgPld sd sa sb => Sys2Proof.Machine.execAsgPld sd sa sb s
  | .asgPst sd sa sb => Sys2Proof.Machine.execAsgPst sd sa sb s
  | .cxCopy sd sa cx => Sys2Proof.Machine.execCxCopy sd sa cx s
  | .cxProg sd cx => Sys2Proof.Machine.execCxProg sd cx s
  | .sqCrRd sd csel => Sys2Proof.Machine.execSqCrRd sd csel s
  | .sqCrWr sa csel => Sys2Proof.Machine.execSqCrWr sa csel s
  | .sqTrap code => Sys2Proof.Machine.execSqTrap code s
  | .sqEnd => Sys2Proof.Machine.execSqEnd s
  | .sqYield => Sys2Proof.Machine.execSqYield s
  | .lcRd sd lev => Sys2Proof.Machine.execLcRd sd lev s
  | .lcIt sd lev => Sys2Proof.Machine.execLcIt sd lev s
  | .pfxImm imm => Sys2Proof.Machine.execPfxImm imm s
  | .pfxOrd cls ord scope => Sys2Proof.Machine.execPfxOrd cls ord scope s
  | .vadd stop vd va vb pg => Sys2Proof.Machine.execVadd stop vd va vb pg s
  | .vsub stop vd va vb pg => Sys2Proof.Machine.execVsub stop vd va vb pg s
  | .vmul stop vd va vb pg => Sys2Proof.Machine.execVmul stop vd va vb pg s
  | .vfma stop vd va vb pg => Sys2Proof.Machine.execVfma stop vd va vb pg s
  | .vfmaR stop vd va vb pg => Sys2Proof.Machine.execVfmaR stop vd va vb pg s
  | .vfms stop vd va vb pg => Sys2Proof.Machine.execVfms stop vd va vb pg s
  | .vfmsR stop vd va vb pg => Sys2Proof.Machine.execVfmsR stop vd va vb pg s
  | .vmin stop vd va vb pg => Sys2Proof.Machine.execVmin stop vd va vb pg s
  | .vmax stop vd va vb pg => Sys2Proof.Machine.execVmax stop vd va vb pg s
  | .vand stop vd va vb pg => Sys2Proof.Machine.execVand stop vd va vb pg s
  | .vor stop vd va vb pg => Sys2Proof.Machine.execVor stop vd va vb pg s
  | .vxor stop vd va vb pg => Sys2Proof.Machine.execVxor stop vd va vb pg s
  | .vshl stop vd va vb pg => Sys2Proof.Machine.execVshl stop vd va vb pg s
  | .vshr stop vd va vb pg => Sys2Proof.Machine.execVshr stop vd va vb pg s
  | .vqadd stop vd va vb pg => Sys2Proof.Machine.execVqadd stop vd va vb pg s
  | .vqsub stop vd va vb pg => Sys2Proof.Machine.execVqsub stop vd va vb pg s
  | .vsel stop vd va vb pg => Sys2Proof.Machine.execVsel stop vd va vb pg s
  | .vcmpEq stop pd va vb pg => Sys2Proof.Machine.execVcmpEq stop pd va vb pg s
  | .vcmpNe stop pd va vb pg => Sys2Proof.Machine.execVcmpNe stop pd va vb pg s
  | .vcmpLt stop pd va vb pg => Sys2Proof.Machine.execVcmpLt stop pd va vb pg s
  | .vcmpLe stop pd va vb pg => Sys2Proof.Machine.execVcmpLe stop pd va vb pg s
  | .vcmpGt stop pd va vb pg => Sys2Proof.Machine.execVcmpGt stop pd va vb pg s
  | .vcmpGe stop pd va vb pg => Sys2Proof.Machine.execVcmpGe stop pd va vb pg s
  | .vcmpUnord stop pd va vb pg => Sys2Proof.Machine.execVcmpUnord stop pd va vb pg s
  | .vaddVs stop vd va ar pg => Sys2Proof.Machine.execVaddVs stop vd va ar pg s
  | .vsubVs stop vd va ar pg => Sys2Proof.Machine.execVsubVs stop vd va ar pg s
  | .vmulVs stop vd va ar pg => Sys2Proof.Machine.execVmulVs stop vd va ar pg s
  | .vminVs stop vd va ar pg => Sys2Proof.Machine.execVminVs stop vd va ar pg s
  | .vmaxVs stop vd va ar pg => Sys2Proof.Machine.execVmaxVs stop vd va ar pg s
  | .vfmaVs stop vd va ar pg => Sys2Proof.Machine.execVfmaVs stop vd va ar pg s
  | .vrsub stop vd va ar pg => Sys2Proof.Machine.execVrsub stop vd va ar pg s
  | .vbcast stop vd ar pg => Sys2Proof.Machine.execVbcast stop vd ar pg s
  | .vmov stop vd va pg => Sys2Proof.Machine.execVmov stop vd va pg s
  | .vneg stop vd va pg => Sys2Proof.Machine.execVneg stop vd va pg s
  | .vabs stop vd va pg => Sys2Proof.Machine.execVabs stop vd va pg s
  | .vnot stop vd va pg => Sys2Proof.Machine.execVnot stop vd va pg s
  | .vclz stop vd va pg => Sys2Proof.Machine.execVclz stop vd va pg s
  | .vpopc stop vd va pg => Sys2Proof.Machine.execVpopc stop vd va pg s
  | .vrnd stop vd va pg => Sys2Proof.Machine.execVrnd stop vd va pg s
  | .vcvt stop vd va sty dty part => Sys2Proof.Machine.execVcvt stop vd va sty dty part s
  | .vrcp stop vd va pg => Sys2Proof.Machine.execVrcp stop vd va pg s
  | .vrsqrt stop vd va pg => Sys2Proof.Machine.execVrsqrt stop vd va pg s
  | .vsqrt stop vd va pg => Sys2Proof.Machine.execVsqrt stop vd va pg s
  | .vexp2 stop vd va pg => Sys2Proof.Machine.execVexp2 stop vd va pg s
  | .vlog2 stop vd va pg => Sys2Proof.Machine.execVlog2 stop vd va pg s
  | .vexp stop vd va pg => Sys2Proof.Machine.execVexp stop vd va pg s
  | .vtanh stop vd va pg => Sys2Proof.Machine.execVtanh stop vd va pg s
  | .vsigm stop vd va pg => Sys2Proof.Machine.execVsigm stop vd va pg s
  | .vdiv stop vd va vb pg => Sys2Proof.Machine.execVdiv stop vd va vb pg s
  | .vredSum stop ad va pg => Sys2Proof.Machine.execVredSum stop ad va pg s
  | .vredMin stop ad va pg => Sys2Proof.Machine.execVredMin stop ad va pg s
  | .vredMax stop ad va pg => Sys2Proof.Machine.execVredMax stop ad va pg s
  | .vredAnd stop ad va pg => Sys2Proof.Machine.execVredAnd stop ad va pg s
  | .vredOr stop ad va pg => Sys2Proof.Machine.execVredOr stop ad va pg s
  | .vredXor stop ad va pg => Sys2Proof.Machine.execVredXor stop ad va pg s
  | .vperm stop vd va vb pg => Sys2Proof.Machine.execVperm stop vd va vb pg s
  | .vcompress stop vd va ad pg => Sys2Proof.Machine.execVcompress stop vd va ad pg s
  | .vexpand stop vd va pg => Sys2Proof.Machine.execVexpand stop vd va pg s
  | .vslup stop vd va ar pg => Sys2Proof.Machine.execVslup stop vd va ar pg s
  | .vsldn stop vd va ar pg => Sys2Proof.Machine.execVsldn stop vd va ar pg s
  | .vbcastl stop vd va ar pg => Sys2Proof.Machine.execVbcastl stop vd va ar pg s
  | .vext stop ad va ar => Sys2Proof.Machine.execVext stop ad va ar s
  | .vins stop vd av ar => Sys2Proof.Machine.execVins stop vd av ar s
  | .vld stop vd ab off => Sys2Proof.Machine.execVld stop vd ab off s
  | .vst stop va ab off => Sys2Proof.Machine.execVst stop va ab off s
  | .vldx stop vd ab vb pg => Sys2Proof.Machine.execVldx stop vd ab vb pg s
  | .vstp stop va ab pg => Sys2Proof.Machine.execVstp stop va ab pg s
  | .vstx stop va ab vb pg => Sys2Proof.Machine.execVstx stop va ab vb pg s
  | .pand stop pd pa pb => Sys2Proof.Machine.execPand stop pd pa pb s
  | .por stop pd pa pb => Sys2Proof.Machine.execPor stop pd pa pb s
  | .pxor stop pd pa pb => Sys2Proof.Machine.execPxor stop pd pa pb s
  | .pandn stop pd pa pb => Sys2Proof.Machine.execPandn stop pd pa pb s
  | .pnot stop pd pa => Sys2Proof.Machine.execPnot stop pd pa s
  | .pset stop pd => Sys2Proof.Machine.execPset stop pd s
  | .pclr stop pd => Sys2Proof.Machine.execPclr stop pd s
  | .pmov stop pd pa => Sys2Proof.Machine.execPmov stop pd pa s
  | .pcount stop ad pa => Sys2Proof.Machine.execPcount stop ad pa s
  | .pfirst stop ad pa => Sys2Proof.Machine.execPfirst stop ad pa s
  | .pwhile stop ad pa => Sys2Proof.Machine.execPwhile stop ad pa s
  | .veCrRd stop ar csel => Sys2Proof.Machine.execVeCrRd stop ar csel s
  | .veCrRdHi stop ar csel => Sys2Proof.Machine.execVeCrRdHi stop ar csel s
  | .veCrWr stop ar csel => Sys2Proof.Machine.execVeCrWr stop ar csel s
  | .veLbr stop lev off => Sys2Proof.Machine.execVeLbr stop lev off s
  | .veSemSig stop sem => Sys2Proof.Machine.execVeSemSig stop sem s
  | .veSemWait stop sem => Sys2Proof.Machine.execVeSemWait stop sem s
  | .veTlWait stop tl aa => Sys2Proof.Machine.execVeTlWait stop tl aa s
  | .veEnd stop => Sys2Proof.Machine.execVeEnd stop s
  | .veTrap stop code => Sys2Proof.Machine.execVeTrap stop code s
  | .veYield stop => Sys2Proof.Machine.execVeYield stop s
  | .bz stop ar off => Sys2Proof.Machine.execBz stop ar off s
  | .bnz stop ar off => Sys2Proof.Machine.execBnz stop ar off s
  | .aAdd stop ad aa ab => Sys2Proof.Machine.execAAdd stop ad aa ab s
  | .aSub stop ad aa ab => Sys2Proof.Machine.execASub stop ad aa ab s
  | .aMul stop ad aa ab => Sys2Proof.Machine.execAMul stop ad aa ab s
  | .aAnd stop ad aa ab => Sys2Proof.Machine.execAAnd stop ad aa ab s
  | .aOr stop ad aa ab => Sys2Proof.Machine.execAOr stop ad aa ab s
  | .aXor stop ad aa ab => Sys2Proof.Machine.execAXor stop ad aa ab s
  | .aSll stop ad aa ab => Sys2Proof.Machine.execASll stop ad aa ab s
  | .aSrl stop ad aa ab => Sys2Proof.Machine.execASrl stop ad aa ab s
  | .aSra stop ad aa ab => Sys2Proof.Machine.execASra stop ad aa ab s
  | .aMin stop ad aa ab => Sys2Proof.Machine.execAMin stop ad aa ab s
  | .aMax stop ad aa ab => Sys2Proof.Machine.execAMax stop ad aa ab s
  | .aMinu stop ad aa ab => Sys2Proof.Machine.execAMinu stop ad aa ab s
  | .aMaxu stop ad aa ab => Sys2Proof.Machine.execAMaxu stop ad aa ab s
  | .aSlt stop ad aa ab => Sys2Proof.Machine.execASlt stop ad aa ab s
  | .aSltu stop ad aa ab => Sys2Proof.Machine.execASltu stop ad aa ab s
  | .aLc stop ad lev => Sys2Proof.Machine.execALc stop ad lev s
  | .aIt stop ad lev => Sys2Proof.Machine.execAIt stop ad lev s
  | .aAddi stop ad aa imm => Sys2Proof.Machine.execAAddi stop ad aa imm s
  | .aLui stop ad imm => Sys2Proof.Machine.execALui stop ad imm s
  | .mPass afmt asrc aga agc rowsM1 z stg => Sys2Proof.Machine.execMPass afmt asrc aga agc rowsM1 z stg s
  | .mPassi afmt asrc aga agc rowsM1 z stg => Sys2Proof.Machine.execMPassi afmt asrc aga agc rowsM1 z stg s
  | .mGpass afmt asrc aga agg rowsM1 stg => Sys2Proof.Machine.execMGpass afmt asrc aga agg rowsM1 stg s
  | .gSum agg agi agc z rowsM1 stg => Sys2Proof.Machine.execGSum agg agi agc z rowsM1 stg s
  | .mConv afmt agp agc rowsM1 z stg tap => Sys2Proof.Machine.execMConv afmt agp agc rowsM1 z stg tap s
  | .mShape off => Sys2Proof.Machine.execMShape off s
  | .mClr agc rowsM1 stg => Sys2Proof.Machine.execMClr agc rowsM1 stg s
  | .mTq sel off => Sys2Proof.Machine.execMTq sel off s
  | .mCrLd csel off => Sys2Proof.Machine.execMCrLd csel off s
  | .mCrSt csel off => Sys2Proof.Machine.execMCrSt csel off s
  | .mCrImm csel imm => Sys2Proof.Machine.execMCrImm csel imm s
  | .meSemSig sem => Sys2Proof.Machine.execMeSemSig sem s
  | .meSemWait sem => Sys2Proof.Machine.execMeSemWait sem s
  | .meTlWait tl inc => Sys2Proof.Machine.execMeTlWait tl inc s
  | .meLbr lev off => Sys2Proof.Machine.execMeLbr lev off s
  | .meEnd => Sys2Proof.Machine.execMeEnd s
  | .meTrap code => Sys2Proof.Machine.execMeTrap code s
  | .meYield => Sys2Proof.Machine.execMeYield s
  | .mB off => Sys2Proof.Machine.execMB off s
  | .xlLd h cc cbf rec cb fo bar => Sys2Proof.Machine.execXlLd h cc cbf rec cb fo bar s
  | .xlGather h cc cbf rec cb fo bar => Sys2Proof.Machine.execXlGather h cc cbf rec cb fo bar s
  | .xlGather8 h cc cbf rec cb bar => Sys2Proof.Machine.execXlGather8 h cc cbf rec cb bar s
  | .xlFeed h cc rec ff fo => Sys2Proof.Machine.execXlFeed h cc rec ff fo s
  | .xlPlatenDense h cc cbf rec => Sys2Proof.Machine.execXlPlatenDense h cc cbf rec s
  | .xlPlatenCw h cc cbf rec => Sys2Proof.Machine.execXlPlatenCw h cc cbf rec s
  | .xlPlatenImage h cc cbf rec => Sys2Proof.Machine.execXlPlatenImage h cc cbf rec s
  | .xlCase h cc cbf => Sys2Proof.Machine.execXlCase h cc cbf s
  | .xlCaseAuto h cc => Sys2Proof.Machine.execXlCaseAuto h cc s
  | .xlExpand h cc cbf rec cb fo bar => Sys2Proof.Machine.execXlExpand h cc cbf rec cb fo bar s
  | .xlExpandAuto h cc cbf rec cb fo bar => Sys2Proof.Machine.execXlExpandAuto h cc cbf rec cb fo bar s
  | .xlRoute h cc rec => Sys2Proof.Machine.execXlRoute h cc rec s
  | .xlAcflush cc rec last => Sys2Proof.Machine.execXlAcflush cc rec last s
  | .xsSt h cc cbf rec cb => Sys2Proof.Machine.execXsSt h cc cbf rec cb s
  | .xsStash h cc cbf rec cb => Sys2Proof.Machine.execXsStash h cc cbf rec cb s
  | .xsTopk cc cbf rec merge => Sys2Proof.Machine.execXsTopk cc cbf rec merge s
  | .xsUpd h cc cbf rec cbg => Sys2Proof.Machine.execXsUpd h cc cbf rec cbg s
  | .xsScatter h cc cbf rec cb acc => Sys2Proof.Machine.execXsScatter h cc cbf rec cb acc s
  | .xsReidx h cc cbf rec => Sys2Proof.Machine.execXsReidx h cc cbf rec s
  | .xsRinv h cc rec => Sys2Proof.Machine.execXsRinv h cc rec s
  | .xlsBarInit ca cb => Sys2Proof.Machine.execXlsBarInit ca cb s
  | .xlsBarWait cd ca => Sys2Proof.Machine.execXlsBarWait cd ca s
  | .xsColl h rec => Sys2Proof.Machine.execXsColl h rec s
  | .cAdd cd ca cb => Sys2Proof.Machine.execCAdd cd ca cb s
  | .cSub cd ca cb => Sys2Proof.Machine.execCSub cd ca cb s
  | .cMul cd ca cb => Sys2Proof.Machine.execCMul cd ca cb s
  | .cAnd cd ca cb => Sys2Proof.Machine.execCAnd cd ca cb s
  | .cOr cd ca cb => Sys2Proof.Machine.execCOr cd ca cb s
  | .cXor cd ca cb => Sys2Proof.Machine.execCXor cd ca cb s
  | .cSll cd ca cb => Sys2Proof.Machine.execCSll cd ca cb s
  | .cSrl cd ca cb => Sys2Proof.Machine.execCSrl cd ca cb s
  | .cSra cd ca cb => Sys2Proof.Machine.execCSra cd ca cb s
  | .cMin cd ca cb => Sys2Proof.Machine.execCMin cd ca cb s
  | .cMax cd ca cb => Sys2Proof.Machine.execCMax cd ca cb s
  | .cMinu cd ca cb => Sys2Proof.Machine.execCMinu cd ca cb s
  | .cMaxu cd ca cb => Sys2Proof.Machine.execCMaxu cd ca cb s
  | .cSlt cd ca cb => Sys2Proof.Machine.execCSlt cd ca cb s
  | .cSltu cd ca cb => Sys2Proof.Machine.execCSltu cd ca cb s
  | .cLc cd lev => Sys2Proof.Machine.execCLc cd lev s
  | .cIt cd lev => Sys2Proof.Machine.execCIt cd lev s
  | .hMv cd ca => Sys2Proof.Machine.execHMv cd ca s
  | .cHmv cd ca => Sys2Proof.Machine.execCHmv cd ca s
  | .cAddi cd ca imm => Sys2Proof.Machine.execCAddi cd ca imm s
  | .cLui cd imm => Sys2Proof.Machine.execCLui cd imm s
  | .hLi cd imm => Sys2Proof.Machine.execHLi cd imm s
  | .cBeq ca cb off => Sys2Proof.Machine.execCBeq ca cb off s
  | .cBne ca cb off => Sys2Proof.Machine.execCBne ca cb off s
  | .cBltu ca cb off => Sys2Proof.Machine.execCBltu ca cb off s
  | .cBgeu ca cb off => Sys2Proof.Machine.execCBgeu ca cb off s
  | .xlsLbr lev off => Sys2Proof.Machine.execXlsLbr lev off s
  | .xlsSemSig sem => Sys2Proof.Machine.execXlsSemSig sem s
  | .xlsSemWait sem => Sys2Proof.Machine.execXlsSemWait sem s
  | .xlsTlWait tl ca => Sys2Proof.Machine.execXlsTlWait tl ca s
  | .xlsCrRd cr csel => Sys2Proof.Machine.execXlsCrRd cr csel s
  | .xlsCrRdHi cr csel => Sys2Proof.Machine.execXlsCrRdHi cr csel s
  | .xlsCrWr cr csel => Sys2Proof.Machine.execXlsCrWr cr csel s
  | .xlsEnd => Sys2Proof.Machine.execXlsEnd s
  | .xlsTrap code => Sys2Proof.Machine.execXlsTrap code s
  | .xlsYield => Sys2Proof.Machine.execXlsYield s
  | .sqLoadReturn core slot => Sys2Proof.Machine.execSqLoadReturn core slot s
  | .waitSatisfied core slot stream => Sys2Proof.Machine.execWaitSatisfied core slot stream s
  | .commandQueueRoom core slot stream => Sys2Proof.Machine.execCommandQueueRoom core slot stream s
  | .xlXsCommandComplete core slot unit num => Sys2Proof.Machine.execXlXsCommandComplete core slot unit num s
  | .cxCopyComplete core slot cx num => Sys2Proof.Machine.execCxCopyComplete core slot cx num s
  | .asgRunStart core slot => Sys2Proof.Machine.execAsgRunStart core slot s
  | .asgRound core slot => Sys2Proof.Machine.execAsgRound core slot s
  | .asgFinish core slot => Sys2Proof.Machine.execAsgFinish core slot s
  | .asgPriceCommandComplete core slot => Sys2Proof.Machine.execAsgPriceCommandComplete core slot s
  | .cleChunkMessage core slot num chunk rank result bytes poison => Sys2Proof.Machine.execCleChunkMessage core slot num chunk rank result bytes poison s
  | .cleMemberTimeout core slot num => Sys2Proof.Machine.execCleMemberTimeout core slot num s
  | .cleCollectiveComplete core slot num => Sys2Proof.Machine.execCleCollectiveComplete core slot num s
  | .streamRetire core slot stream => Sys2Proof.Machine.execStreamRetire core slot stream s
  | .placementRetire core slot => Sys2Proof.Machine.execPlacementRetire core slot s
  | .l2Eviction die line => Sys2Proof.Machine.execL2Eviction die line s
  | .caseFillGrant core slot num => Sys2Proof.Machine.execCaseFillGrant core slot num s
  | .caseFillLanded core slot num => Sys2Proof.Machine.execCaseFillLanded core slot num s
  | .caseScrub core cslot bad => Sys2Proof.Machine.execCaseScrub core cslot bad s
  | .caseFillRechoose core slot num => Sys2Proof.Machine.execCaseFillRechoose core slot num s
  | .preemptRequest core slot => Sys2Proof.Machine.execPreemptRequest core slot s
  | .drainEnd core slot => Sys2Proof.Machine.execDrainEnd core slot s
  | .drainBudgetExpired core slot => Sys2Proof.Machine.execDrainBudgetExpired core slot s
  | .contextHalted core slot => Sys2Proof.Machine.execContextHalted core slot s
  | .pageFault core slot unit => Sys2Proof.Machine.execPageFault core slot unit s
  | .pfqRoomAppend core slot unit => Sys2Proof.Machine.execPfqRoomAppend core slot unit s
  | .pfansOk part ftag => Sys2Proof.Machine.execPfansOk part ftag s
  | .pfansFail part ftag => Sys2Proof.Machine.execPfansFail part ftag s
  | .priResponse part ftag code => Sys2Proof.Machine.execPriResponse part ftag code s
  | .ttcinvTiles port part tensor first count => Sys2Proof.Machine.execTtcinvTiles port part tensor first count s
  | .ttcinvTensor port part tensor => Sys2Proof.Machine.execTtcinvTensor port part tensor s
  | .ttcinvPartition port part => Sys2Proof.Machine.execTtcinvPartition port part s
  | .ttcinvDone port part => Sys2Proof.Machine.execTtcinvDone port part s
  | .atsInvalidate part iova pages => Sys2Proof.Machine.execAtsInvalidate part iova pages s
  | .armdb vf value => Sys2Proof.Machine.execArmdb vf value s
  | .armqEntryWrite die part => Sys2Proof.Machine.execArmqEntryWrite die part s
  | .postSub die part value => Sys2Proof.Machine.execPostSub die part value s
  | .postSubdone die part value => Sys2Proof.Machine.execPostSubdone die part value s
  | .ldone die part value => Sys2Proof.Machine.execLdone die part value s
  | .scmdValidate core value => Sys2Proof.Machine.execScmdValidate core value s
  | .scmdCancel core value => Sys2Proof.Machine.execScmdCancel core value s
  | .scmdPreempt core value => Sys2Proof.Machine.execScmdPreempt core value s
  | .scmdKill core value => Sys2Proof.Machine.execScmdKill core value s
  | .scmdStart core value => Sys2Proof.Machine.execScmdStart core value s
  | .bind core slot => Sys2Proof.Machine.execBind core slot s
  | .resumeBind core slot => Sys2Proof.Machine.execResumeBind core slot s
  | .sliceExpiry core slot => Sys2Proof.Machine.execSliceExpiry core slot s
  | .layoutCheck secure => Sys2Proof.Machine.execLayoutCheck secure s
  | .layoutCommit secure => Sys2Proof.Machine.execLayoutCommit secure s
  | .layoutAbort => Sys2Proof.Machine.execLayoutAbort s
  | .shadowWrite secure addr value => Sys2Proof.Machine.execShadowWrite secure addr value s
  | .quiesceDone => Sys2Proof.Machine.execQuiesceDone s
  | .layoutTick => Sys2Proof.Machine.execLayoutTick s
  | .residentWrite vf value => Sys2Proof.Machine.execResidentWrite vf value s
  | .attreq vf value => Sys2Proof.Machine.execAttreq vf value s
  | .attestDone vf => Sys2Proof.Machine.execAttestDone vf s
  | .powerOnReset failed chans => Sys2Proof.Machine.execPowerOnReset failed chans s
  | .bootgo value => Sys2Proof.Machine.execBootgo value s
  | .maListen part => Sys2Proof.Machine.execMaListen part s
  | .maFreeze part peerListens => Sys2Proof.Machine.execMaFreeze part peerListens s
  | .maRelease part => Sys2Proof.Machine.execMaRelease part s
  | .maCancel part peerPhase => Sys2Proof.Machine.execMaCancel part peerPhase s
  | .freezeCleGraceExpiry part => Sys2Proof.Machine.execFreezeCleGraceExpiry part s
  | .freezeDone part => Sys2Proof.Machine.execFreezeDone part s
  | .stateTransferDone part vd => Sys2Proof.Machine.execStateTransferDone part vd s
  | .pullReceived part tensor tile => Sys2Proof.Machine.execPullReceived part tensor tile s
  | .pushSelect part => Sys2Proof.Machine.execPushSelect part s
  | .pushFirstFlit part tensor tile => Sys2Proof.Machine.execPushFirstFlit part tensor tile s
  | .tileLanded part tensor tile data poison => Sys2Proof.Machine.execTileLanded part tensor tile data poison s
  | .migrationAck part tensor tile frame => Sys2Proof.Machine.execMigrationAck part tensor tile frame s
  | .transferFail part tensor tile => Sys2Proof.Machine.execTransferFail part tensor tile s
  | .pullTimeout part tensor tile => Sys2Proof.Machine.execPullTimeout part tensor tile s
  | .redirectReceived core slot unit old new => Sys2Proof.Machine.execRedirectReceived core slot unit old new s
  | .hostDma write addr bytes => Sys2Proof.Machine.execHostDma write addr bytes s
  | .peerRequest req => Sys2Proof.Machine.execPeerRequest req s
  | .laneFail port lane => Sys2Proof.Machine.execLaneFail port lane s
  | .retrainDone port lgood peerPkg peerPort => Sys2Proof.Machine.execRetrainDone port lgood peerPkg peerPort s
  | .flitCrcError port => Sys2Proof.Machine.execFlitCrcError port s
  | .pkgidWrite value => Sys2Proof.Machine.execPkgidWrite value s
  | .patrolScrub addr outcome => Sys2Proof.Machine.execPatrolScrub addr outcome s
  | .l2TagParity die way line => Sys2Proof.Machine.execL2TagParity die way line s
  | .powerWindow watts => Sys2Proof.Machine.execPowerWindow watts s
  | .registerWrite secure addr value => Sys2Proof.Machine.execRegisterWrite secure addr value s
  | .illegalInstruction cause => Sys2Proof.Machine.execIllegalInstruction cause s
  | .sqMemoryResponse core slot => Sys2Proof.Machine.execSqMemoryResponse core slot s
  | .meStepComplete core slot => Sys2Proof.Machine.execMeStepComplete core slot s
  | .atsTranslationCompletion part page hpa perms => Sys2Proof.Machine.execAtsTranslationCompletion part page hpa perms s
  | .powerOff => Sys2Proof.Machine.execPowerOff s
  | .peerPortRetrain port num => Sys2Proof.Machine.execPeerPortRetrain port num s

end Sys2Proof.Machine
end

