-- ==== Sys2Proof/Machine/Auto.lean ====
section
/-!
DEFINITION. What the machine does of itself between words: the events whose conditions the state shows (completions, waits that are
met, responses, dispatch, pre-emption, fault records), in one fixed order (log 5: DESIGN CHOICE). Each is an event of the opcode table.
-/
set_option Elab.async false
namespace Sys2Proof.Machine
open Sys2Proof

/-- An event that the machine takes by itself. -/
inductive Auto where
  | preemptRequest (core slot : Nat)
  | contextHalted (core slot : Nat)
  | drainEnd (core slot : Nat)
  | drainBudgetExpired (core slot : Nat)
  | sqLoadReturn (core slot : Nat)
  | sqMemoryResponse (core slot : Nat)
  | meStepComplete (core slot : Nat)
  | asgRunStart (core slot : Nat)
  | asgRound (core slot : Nat)
  | asgFinish (core slot : Nat)
  | asgPrice (core slot : Nat)
  | cxCopy (core slot cx num : Nat)
  | caseFillGrant (core slot num : Nat)
  | caseFillLanded (core slot num : Nat)
  | caseFillRechoose (core slot num : Nat)
  | command (core slot unit num : Nat)
  | chunk (core slot num chunk rank : Nat) (result : Bool)
  | collective (core slot num : Nat)
  | streamRetire (core slot stream : Nat)
  | placementRetire (core slot : Nat)
  | pageFault (core slot unit : Nat)
  | pfqRoomAppend (core slot unit : Nat)
  | sliceExpiry (core slot : Nat)
  | bind (core slot : Nat)
  | resumeBind (core slot : Nat)
  | armqEntryWrite (die part : Nat)
  | ldone (die part value : Nat)
  | ttcinvDone (port part : Nat)
  | quiesceDone
  | layoutTick
  | attestDone (vf : Nat)
  | freezeCleGraceExpiry (part : Nat)
  | freezeDone (part : Nat)
  deriving DecidableEq, Repr

/-- The event of the opcode table that it is. -/
noncomputable def Auto.instr : Auto → Instr
  | .preemptRequest c k => .preemptRequest c k
  | .contextHalted c k => .contextHalted c k
  | .drainEnd c k => .drainEnd c k
  | .drainBudgetExpired c k => .drainBudgetExpired c k
  | .sqLoadReturn c k => .sqLoadReturn c k
  | .sqMemoryResponse c k => .sqMemoryResponse c k
  | .meStepComplete c k => .meStepComplete c k
  | .asgRunStart c k => .asgRunStart c k
  | .asgRound c k => .asgRound c k
  | .asgFinish c k => .asgFinish c k
  | .asgPrice c k => .asgPriceCommandComplete c k
  | .cxCopy c k x n => .cxCopyComplete c k x n
  | .caseFillGrant c k n => .caseFillGrant c k n
  | .caseFillLanded c k n => .caseFillLanded c k n
  | .caseFillRechoose c k n => .caseFillRechoose c k n
  | .command c k u n => .xlXsCommandComplete c k u n
  | .chunk c k n h r b => .cleChunkMessage c k n h r b [] []
  | .collective c k n => .cleCollectiveComplete c k n
  | .streamRetire c k u => .streamRetire c k u
  | .placementRetire c k => .placementRetire c k
  | .pageFault c k u => .pageFault c k u
  | .pfqRoomAppend c k u => .pfqRoomAppend c k u
  | .sliceExpiry c k => .sliceExpiry c k
  | .bind c k => .bind c k
  | .resumeBind c k => .resumeBind c k
  | .armqEntryWrite d p => .armqEntryWrite d p
  | .ldone d p v => .ldone d p v
  | .ttcinvDone t p => .ttcinvDone t p
  | .quiesceDone => .quiesceDone
  | .layoutTick => .layoutTick
  | .attestDone v => .attestDone v
  | .freezeCleGraceExpiry p => .freezeCleGraceExpiry p
  | .freezeDone p => .freezeDone p

/-- Its meaning: that of the table's event. -/
def Auto.exec (a : Auto) (s : State) : Host.Outcome State Fault Refusal :=
  match a with
  | .preemptRequest c k => execPreemptRequest c k s
  | .contextHalted c k => execContextHalted c k s
  | .drainEnd c k => execDrainEnd c k s
  | .drainBudgetExpired c k => execDrainBudgetExpired c k s
  | .sqLoadReturn c k => execSqLoadReturn c k s
  | .sqMemoryResponse c k => execSqMemoryResponse c k s
  | .meStepComplete c k => execMeStepComplete c k s
  | .asgRunStart c k => execAsgRunStart c k s
  | .asgRound c k => execAsgRound c k s
  | .asgFinish c k => execAsgFinish c k s
  | .asgPrice c k => execAsgPriceCommandComplete c k s
  | .cxCopy c k x n => execCxCopyComplete c k x n s
  | .caseFillGrant c k n => execCaseFillGrant c k n s
  | .caseFillLanded c k n => execCaseFillLanded c k n s
  | .caseFillRechoose c k n => execCaseFillRechoose c k n s
  | .command c k u n => execXlXsCommandComplete c k u n s
  | .chunk c k n h r b => execCleChunkMessage c k n h r b [] [] s
  | .collective c k n => execCleCollectiveComplete c k n s
  | .streamRetire c k u => execStreamRetire c k u s
  | .placementRetire c k => execPlacementRetire c k s
  | .pageFault c k u => execPageFault c k u s
  | .pfqRoomAppend c k u => execPfqRoomAppend c k u s
  | .sliceExpiry c k => execSliceExpiry c k s
  | .bind c k => execBind c k s
  | .resumeBind c k => execResumeBind c k s
  | .armqEntryWrite d p => execArmqEntryWrite d p s
  | .ldone d p v => execLdone d p v s
  | .ttcinvDone t p => execTtcinvDone t p s
  | .quiesceDone => execQuiesceDone s
  | .layoutTick => execLayoutTick s
  | .attestDone v => execAttestDone v s
  | .freezeCleGraceExpiry p => execFreezeCleGraceExpiry p s
  | .freezeDone p => execFreezeDone p s

/-- What the machine does by itself is an event of the table. -/
theorem Auto.exec_eq (a : Auto) (s : State) : a.exec s = Machine.exec a.instr s := by cases a <;> rfl

/-- An event when its condition holds. -/
def autoIf (b : Bool) (a : Auto) : List Auto := if b then [a] else []

/-- What a fill does next: it reads its table, is granted a slot, chooses again, or lands (R302, R303, R308). -/
def autoFill (ck : Nat) (q : Cmd) (s : State) : List Auto :=
  let core := coreOf ck
  let slot := ck % 4
  autoIf (q.data.isNone && cmdRuns ck .xl q s) (.command core slot 3 q.num) ++
  (if cmdMayRun ck .xl q s then
    match q.step with
    | 0 => autoIf (decide (q.opt = 0) ||
        (chooseSlot ck q.pin0.cbid (q.coord[0]?.getD 0) q.pin0.version none s).isSome) (.caseFillGrant core slot q.num)
    | 1 => autoIf q.data.isSome (.caseFillLanded core slot q.num)
    | _ => [.caseFillRechoose core slot q.num]
  else [])

/-- R386 to R394: the command of XL or XS that goes on. A fill of a case slot goes before the commands that read it. -/
def autoCommands (ck : Nat) (u : StreamId) (s : State) : List Auto :=
  let core := coreOf ck
  let slot := ck % 4
  let met (q : Cmd) : Bool := match q.wait with | some w => waitMet ck u w s | none => true
  let l := (s.ctx ck).r.xq u
  (l.flatMap fun q => if q.op = .case then autoFill ck q s else []) ++
  (l.flatMap fun q =>
    autoIf (decide (q.op ≠ .case) && cmdMayRun ck u q s && met q) (.command core slot (if u = .xs then 4 else 3) q.num)) ++
  l.flatMap fun q =>
    autoIf (decide (q.op = .expand ∧ q.since = 0 ∧ q.halted = none ∧ q.prog = 0) && !cmdMayRun ck u q s && (s.ctx ck).active &&
      ((s.ctx ck).r.xlQ.takeWhile fun y => y.num ≠ q.num).any (fun y => y.op = .case && conflict y.ranges q.ranges))
      (.command core slot 3 q.num)

/-- R146, R283: the copies that go on. -/
def autoCopies (ck : Nat) (s : State) : List Auto :=
  (List.range 4).flatMap fun cx =>
    let l := (vget [] (s.ctx ck).r.cxQ cx).take 4
    l.flatMap fun x => autoIf (x.halted.isNone && !((l.takeWhile fun y => y.num ≠ x.num).any fun y => conflict y.ranges x.ranges))
      (.cxCopy (coreOf ck) (ck % 4) cx x.num)

/-- R350 to R359: what ASG does next: a run that has ended answers; else the context that ASG serves goes on. -/
def autoAsg (ck : Nat) (s : State) : List Auto :=
  let core := coreOf ck
  let slot := ck % 4
  let mine := (asgGrant core s).any fun x => decide (x.1 = slot)
  match (s.ctx ck).r.asg.queue, (s.ctx ck).r.asg.run with
  | q :: _, none => autoIf mine (if q.kind = 0 then .asgRunStart core slot else .asgPrice core slot)
  | _ :: _, some r => if r.bad || r.status.isSome then [.asgFinish core slot] else autoIf mine (.asgRound core slot)
  | [], _ => []

/-- The own step of a collective of a slot, if one is due and nothing holds it back. -/
def autoChunk (ck : Nat) (c : Coll) (s : State) : List Auto :=
  if c.done || s.collWaits ck c.num c then []
  else match c.ownStep with
    | some (k, b) => [.chunk (coreOf ck) (ck % 4) c.num k c.rank b]
    | none => []

/-- R263, R446: what CLE does next for a context. -/
def autoColl (ck : Nat) (s : State) : List Auto :=
  (s.ctx ck).r.coll.flatMap fun c =>
    autoIf ((s.ctx ck).active && c.done && !(s.ctx ck).r.collHeld c) (.collective (coreOf ck) (ck % 4) c.num) ++ autoChunk ck c s

/-- R400: what CLE does next for the saved contexts. -/
def autoHolds (s : State) : List Auto :=
  s.cle.flatMap fun h => h.coll.flatMap fun c =>
    if (s.cleHold h.key c.num).any fun x => decide (x.save = h.save) then autoChunk h.key c s else []

/-- R155, R270: the streams whose outstanding work has ended, so that they retire. -/
def autoRetires (ck : Nat) (s : State) : List Auto :=
  [StreamId.sq, .ve, .me, .xl, .xs].flatMap fun u =>
    autoIf (decide (((s.ctx ck).stream u).wait = some .retire) && waitMet ck u .retire s) (.streamRetire (coreOf ck) (ck % 4) u.code)

/-- R390: the records that a halted unit makes. -/
def autoFaults (ck : Nat) (s : State) : List Auto :=
  let c := s.ctx ck
  haltUnits.flatMap fun u => (c.halts u).flatMap fun h =>
    autoIf (h.toPost && decide (h.since = 0) && c.st != .binding) (.pageFault (coreOf ck) (ck % 4) u) ++
    autoIf (h.toPost && decide (h.since ≠ 0) && postRoom c.bind.part h s) (.pfqRoomAppend (coreOf ck) (ck % 4) u)

/-- What a slot does by itself. -/
def autoSlot (ck : Nat) (s : State) : List Auto :=
  let c := s.ctx ck
  let core := coreOf ck
  let slot := ck % 4
  autoIf (c.preempt && c.st != .free && c.st != .binding && c.halt.isNone) (.preemptRequest core slot)
  ++ autoIf (c.stopped && (postsNow ck s || postPulls ck s)) (.contextHalted core slot)
  ++ autoIf c.drainOver (.drainEnd core slot)
  ++ autoIf (drainLate ck s) (.drainBudgetExpired core slot)
  ++ (if c.active then
      autoIf (decide ((c.stream .sq).wait = some .load)) (.sqLoadReturn core slot)
      ++ autoIf (decide ((c.stream .sq).wait = some .resp) && respReady ck s) (.sqMemoryResponse core slot)
      ++ autoIf (!c.r.me.drains.isEmpty) (.meStepComplete core slot)
      ++ autoRetires ck s ++ autoCommands ck .xl s ++ autoCommands ck .xs s ++ autoCopies ck s ++ autoAsg ck s
    else [])
  ++ autoColl ck s
  ++ autoIf (c.retired || retireReady ck s || (c.st == .retiring && postPulls ck s)) (.placementRetire core slot)
  ++ autoFaults ck s
  ++ autoIf (sliceOver ck s) (.sliceExpiry core slot)

/-- R371: the binds that dispatch begins, or goes on with. -/
def autoBinds (s : State) : List Auto :=
  s.cores.flatMap fun x => (List.range 4).flatMap fun slot =>
    let c := s.ctx (x.1 * 4 + slot)
    match c.st with
    | .free => match nextEntry x.1 slot s with
      | none => []
      | some e =>
        let r := bindRec (vget {} x.2.pending e).bits.toNat
        autoIf (bindAllowed r.part s) (if r.resume then .resumeBind x.1 slot else .bind x.1 slot)
    | .binding =>
      autoIf (match c.binding.bind (·.failed) with
        | some _ => armqRoom (x.1 / 48) c.bind.part s || armqPulls (x.1 / 48) c.bind.part s
        | none => c.sqHalt.isNone) (if c.bind.resume then .resumeBind x.1 slot else .bind x.1 slot)
    | _ => []

/-- What the dies, the functions, the layout controller and the migration agent do by themselves. -/
def autoPackage (s : State) : List Auto :=
  (s.dies.flatMap fun d => d.2.mc.flatMap fun m =>
    autoIf (!m.2.held.isEmpty && (armqFree d.1 m.1 s || armqPulls d.1 m.1 s)) (.armqEntryWrite d.1 m.1)
    ++ (m.2.ldones.flatMap fun x => autoIf (ldoneReady d.1 m.1 x.1 s || ldonePulls d.1 m.1 x.1 s) (.ldone d.1 m.1 x.1))
    ++ autoIf m.2.inv.isSome (.ttcinvDone (1 + d.1) m.1))
  ++ (s.vfs.flatMap fun v => match s.partOfVf v.1 with
    | some p => autoIf v.2.inv.isSome (.ttcinvDone 0 p)
    | none => [])
  ++ autoIf (s.quiet && !s.loseWaits) .quiesceDone
  ++ autoIf (s.pkg.lstate == .tick) .layoutTick
  ++ (s.pkg.attQueue.head?.toList.flatMap fun v => autoIf (attestReady v s) (.attestDone v))
  ++ s.parts.flatMap fun p =>
    if ¬ frozenStill p.1 s then []
    else if clePending p.1 s then [.freezeCleGraceExpiry p.1]
    else autoIf (!freezeLines p.1 s && !(finishAll p.1 s).1) (.freezeDone p.1)

/-- The next event that the machine takes by itself, if any. -/
def autoNext (s : State) : Option Auto :=
  (s.ctxs.flatMap (fun x => autoSlot x.1 s) ++ autoBinds s ++ autoHolds s ++ autoPackage s).head?

end Sys2Proof.Machine
end

