-- ==== Sys2Proof/Machine/XWord.lean ====
section
/-!
DEFINITION. A word of a stream executed: decoded (R94 to R96), then its meaning, or the trap of an illegal word. `exec` of a decoded
transfer word is also given as one function of the word, so that the step can be run as a program; the two are proved equal.
-/
set_option Elab.async false
namespace Sys2Proof.Machine
open Sys2Proof

/-- A word of a stream: the meaning of the instruction it decodes to, or the illegal-instruction trap (R96). -/
noncomputable def execWord (u : StreamId) (w : Nat) (s : State) : Host.Outcome State Fault Refusal :=
  match decode u w with
  | .ok i => exec i s
  | .error c => execIllegalInstruction c s

/-- The meaning of what a decoder answers. -/
noncomputable def execRead (x : Except Cause Instr) (s : State) : Host.Outcome State Fault Refusal :=
  match x with
  | .ok i => exec i s
  | .error c => execIllegalInstruction c s

/-- See `decodeXf05`: the meaning of the word it reads. -/
def runXf05 (w : Nat) (s : State) : Host.Outcome State Fault Refusal :=
  match w / 4 % 4 with
  | 0 => if w % 4 = 0 then execXlPlatenDense (w / 4194304 % 16) (w / 262144 % 16) (w / 16384 % 16) (w / 16 % 1024) s else execIllegalInstruction .illRsv s
  | 1 => if w % 4 = 0 then execXlPlatenCw (w / 4194304 % 16) (w / 262144 % 16) (w / 16384 % 16) (w / 16 % 1024) s else execIllegalInstruction .illRsv s
  | 2 => if w % 4 = 0 then execXlPlatenImage (w / 4194304 % 16) (w / 262144 % 16) (w / 16384 % 16) (w / 16 % 1024) s else execIllegalInstruction .illRsv s
  | _ => execIllegalInstruction .illRsv s

/-- See `decodeXf06`: the meaning of the word it reads. -/
def runXf06 (w : Nat) (s : State) : Host.Outcome State Fault Refusal :=
  match w / 4 % 2 with
  | 0 => if w / 8 % 2048 = 0 ∧ w % 4 = 0 then execXlCase (w / 4194304 % 16) (w / 262144 % 16) (w / 16384 % 16) s else execIllegalInstruction .illRsv s
  | 1 => if w / 8 % 32768 = 0 ∧ w % 4 = 0 then execXlCaseAuto (w / 4194304 % 16) (w / 262144 % 16) s else execIllegalInstruction .illRsv s
  | _ => execIllegalInstruction .illRsv s

/-- See `decodeXf07`: the meaning of the word it reads. -/
def runXf07 (w : Nat) (s : State) : Host.Outcome State Fault Refusal :=
  match w / 4 % 2 with
  | 0 => execXlExpand (w / 4194304 % 16) (w / 262144 % 16) (w / 16384 % 16) (w / 16 % 1024) (w / 8 % 2) (w / 2 % 2) (w % 2) s
  | 1 => execXlExpandAuto (w / 4194304 % 16) (w / 262144 % 16) (w / 16384 % 16) (w / 16 % 1024) (w / 8 % 2) (w / 2 % 2) (w % 2) s
  | _ => execIllegalInstruction .illRsv s

/-- See `decodeXf30`: the meaning of the word it reads. -/
def runXf30 (w : Nat) (s : State) : Host.Outcome State Fault Refusal :=
  match w / 512 % 32 with
  | 0 => if w % 512 = 0 then execCAdd (w / 4194304 % 16) (w / 262144 % 16) (w / 16384 % 16) s else execIllegalInstruction .illRsv s
  | 1 => if w % 512 = 0 then execCSub (w / 4194304 % 16) (w / 262144 % 16) (w / 16384 % 16) s else execIllegalInstruction .illRsv s
  | 2 => if w % 512 = 0 then execCMul (w / 4194304 % 16) (w / 262144 % 16) (w / 16384 % 16) s else execIllegalInstruction .illRsv s
  | 3 => if w % 512 = 0 then execCAnd (w / 4194304 % 16) (w / 262144 % 16) (w / 16384 % 16) s else execIllegalInstruction .illRsv s
  | 4 => if w % 512 = 0 then execCOr (w / 4194304 % 16) (w / 262144 % 16) (w / 16384 % 16) s else execIllegalInstruction .illRsv s
  | 5 => if w % 512 = 0 then execCXor (w / 4194304 % 16) (w / 262144 % 16) (w / 16384 % 16) s else execIllegalInstruction .illRsv s
  | 6 => if w % 512 = 0 then execCSll (w / 4194304 % 16) (w / 262144 % 16) (w / 16384 % 16) s else execIllegalInstruction .illRsv s
  | 7 => if w % 512 = 0 then execCSrl (w / 4194304 % 16) (w / 262144 % 16) (w / 16384 % 16) s else execIllegalInstruction .illRsv s
  | 8 => if w % 512 = 0 then execCSra (w / 4194304 % 16) (w / 262144 % 16) (w / 16384 % 16) s else execIllegalInstruction .illRsv s
  | 9 => if w % 512 = 0 then execCMin (w / 4194304 % 16) (w / 262144 % 16) (w / 16384 % 16) s else execIllegalInstruction .illRsv s
  | 10 => if w % 512 = 0 then execCMax (w / 4194304 % 16) (w / 262144 % 16) (w / 16384 % 16) s else execIllegalInstruction .illRsv s
  | 11 => if w % 512 = 0 then execCMinu (w / 4194304 % 16) (w / 262144 % 16) (w / 16384 % 16) s else execIllegalInstruction .illRsv s
  | 12 => if w % 512 = 0 then execCMaxu (w / 4194304 % 16) (w / 262144 % 16) (w / 16384 % 16) s else execIllegalInstruction .illRsv s
  | 13 => if w % 512 = 0 then execCSlt (w / 4194304 % 16) (w / 262144 % 16) (w / 16384 % 16) s else execIllegalInstruction .illRsv s
  | 14 => if w % 512 = 0 then execCSltu (w / 4194304 % 16) (w / 262144 % 16) (w / 16384 % 16) s else execIllegalInstruction .illRsv s
  | 15 => if w / 262144 % 16 = 0 ∧ w % 512 = 0 ∧ (w / 16384 % 16) ≤ 5 then execCLc (w / 4194304 % 16) (w / 16384 % 16) s else execIllegalInstruction .illRsv s
  | 16 => if w / 262144 % 16 = 0 ∧ w % 512 = 0 ∧ (w / 16384 % 16) ≤ 5 then execCIt (w / 4194304 % 16) (w / 16384 % 16) s else execIllegalInstruction .illRsv s
  | 17 => if w / 16384 % 16 = 0 ∧ w % 512 = 0 then execHMv (w / 4194304 % 16) (w / 262144 % 16) s else execIllegalInstruction .illRsv s
  | 18 => if w / 16384 % 16 = 0 ∧ w % 512 = 0 then execCHmv (w / 4194304 % 16) (w / 262144 % 16) s else execIllegalInstruction .illRsv s
  | _ => execIllegalInstruction .illOp s

/-- See `decodeXf31`: the meaning of the word it reads. -/
def runXf31 (w : Nat) (s : State) : Host.Outcome State Fault Refusal :=
  match w / 65536 % 4 with
  | 0 => execCAddi (w / 4194304 % 16) (w / 262144 % 16) (w % 65536) s
  | 1 => if w / 262144 % 16 = 0 then execCLui (w / 4194304 % 16) (w % 65536) s else execIllegalInstruction .illRsv s
  | 2 => if w / 262144 % 16 = 0 then execHLi (w / 4194304 % 16) (w % 65536) s else execIllegalInstruction .illRsv s
  | _ => execIllegalInstruction .illRsv s

/-- See `decodeXf32`: the meaning of the word it reads. -/
def runXf32 (w : Nat) (s : State) : Host.Outcome State Fault Refusal :=
  match w / 16777216 % 4 with
  | 0 => execCBeq (w / 1048576 % 16) (w / 65536 % 16) (w % 65536) s
  | 1 => execCBne (w / 1048576 % 16) (w / 65536 % 16) (w % 65536) s
  | 2 => execCBltu (w / 1048576 % 16) (w / 65536 % 16) (w % 65536) s
  | 3 => execCBgeu (w / 1048576 % 16) (w / 65536 % 16) (w % 65536) s
  | _ => execIllegalInstruction .illRsv s

/-- See `decodeXf34`: the meaning of the word it reads. -/
def runXf34 (w : Nat) (s : State) : Host.Outcome State Fault Refusal :=
  match w / 16777216 % 4 with
  | 0 => if w / 64 % 262144 = 0 then execXlsSemSig (w % 64) s else execIllegalInstruction .illRsv s
  | 1 => if w / 64 % 262144 = 0 then execXlsSemWait (w % 64) s else execIllegalInstruction .illRsv s
  | 2 => if w % 131072 = 0 then execXlsTlWait (w / 2097152 % 8) (w / 131072 % 16) s else execIllegalInstruction .illRsv s
  | _ => execIllegalInstruction .illRsv s

/-- See `decodeXf35`: the meaning of the word it reads. -/
def runXf35 (w : Nat) (s : State) : Host.Outcome State Fault Refusal :=
  match w / 16777216 % 4 with
  | 0 => if w % 4096 = 0 ∧ (w / 4096 % 256) ∈ [1, 2, 3, 4, 5, 7, 9, 10] then execXlsCrRd (w / 1048576 % 16) (w / 4096 % 256) s else execIllegalInstruction .illRsv s
  | 1 => if w % 4096 = 0 ∧ (w / 4096 % 256) ∈ [1, 2, 3, 4, 5, 7, 9, 10] then execXlsCrRdHi (w / 1048576 % 16) (w / 4096 % 256) s else execIllegalInstruction .illRsv s
  | 2 => if w % 4096 = 0 ∧ (w / 4096 % 256) ∈ [1, 2, 3, 4, 5] then execXlsCrWr (w / 1048576 % 16) (w / 4096 % 256) s else execIllegalInstruction .illRsv s
  | _ => execIllegalInstruction .illRsv s

/-- See `decodeXf36`: the meaning of the word it reads. -/
def runXf36 (w : Nat) (s : State) : Host.Outcome State Fault Refusal :=
  match w / 16777216 % 4 with
  | 0 => if w % 16777216 = 0 then execXlsEnd s else execIllegalInstruction .illRsv s
  | 1 => if w / 65536 % 256 = 0 then execXlsTrap (w % 65536) s else execIllegalInstruction .illRsv s
  | 2 => if w % 16777216 = 0 then execXlsYield s else execIllegalInstruction .illRsv s
  | _ => execIllegalInstruction .illRsv s

/-- See `decodeXf3E`: the meaning of the word it reads. -/
def runXf3E (w : Nat) (s : State) : Host.Outcome State Fault Refusal :=
  match w / 16777216 % 4 with
  | 0 => if w / 1048576 % 16 = 0 then execPfxImm (w % 1048576) s else execIllegalInstruction .illRsv s
  | 1 => if w / 4096 % 4096 = 0 ∧ w % 4 = 0 ∧ (w / 32 % 8) ≤ 3 ∧ (w / 4 % 8) ≤ 4 ∧ ((w / 32 % 8) ≠ 0 ∨ (w / 4 % 8) = 0) then execPfxOrd (w / 256 % 16) (w / 32 % 8) (w / 4 % 8) s else execIllegalInstruction .illRsv s
  | _ => execIllegalInstruction .illRsv s

/-- See `decodeXf`: the meaning of the word it reads. -/
def runXf (w : Nat) (s : State) : Host.Outcome State Fault Refusal :=
  if w = 0 ∨ w = 0xFFFFFFFF then execIllegalInstruction .illWord s else
  match w / 67108864 % 64 with
  | 0x01 => if w / 8 % 2 = 0 then execXlLd (w / 4194304 % 16) (w / 262144 % 16) (w / 16384 % 16) (w / 16 % 1024) (w / 4 % 2) (w / 2 % 2) (w % 2) s else execIllegalInstruction .illRsv s
  | 0x02 => if w / 8 % 2 = 0 then execXlGather (w / 4194304 % 16) (w / 262144 % 16) (w / 16384 % 16) (w / 16 % 1024) (w / 4 % 2) (w / 2 % 2) (w % 2) s else execIllegalInstruction .illRsv s
  | 0x03 => if w / 8 % 2 = 0 ∧ w / 2 % 2 = 0 then execXlGather8 (w / 4194304 % 16) (w / 262144 % 16) (w / 16384 % 16) (w / 16 % 1024) (w / 4 % 2) (w % 2) s else execIllegalInstruction .illRsv s
  | 0x04 => if w / 16384 % 16 = 0 ∧ w / 8 % 2 = 0 ∧ w % 2 = 0 then execXlFeed (w / 4194304 % 16) (w / 262144 % 16) (w / 16 % 1024) (w / 4 % 2) (w / 2 % 2) s else execIllegalInstruction .illRsv s
  | 0x05 => runXf05 w s
  | 0x06 => runXf06 w s
  | 0x07 => runXf07 w s
  | 0x08 => if w / 16384 % 16 = 0 ∧ w % 16 = 0 then execXlRoute (w / 4194304 % 16) (w / 262144 % 16) (w / 16 % 1024) s else execIllegalInstruction .illRsv s
  | 0x09 => if w / 4194304 % 16 = 0 ∧ w / 16384 % 16 = 0 ∧ w / 8 % 2 = 0 ∧ w % 4 = 0 then execXlAcflush (w / 262144 % 16) (w / 16 % 1024) (w / 4 % 2) s else execIllegalInstruction .illRsv s
  | 0x0A => if w / 8 % 2 = 0 ∧ w % 4 = 0 then execXsSt (w / 4194304 % 16) (w / 262144 % 16) (w / 16384 % 16) (w / 16 % 1024) (w / 4 % 2) s else execIllegalInstruction .illRsv s
  | 0x0B => if w / 8 % 2 = 0 ∧ w % 4 = 0 then execXsStash (w / 4194304 % 16) (w / 262144 % 16) (w / 16384 % 16) (w / 16 % 1024) (w / 4 % 2) s else execIllegalInstruction .illRsv s
  | 0x0C => if w / 4194304 % 16 = 0 ∧ w / 8 % 2 = 0 ∧ w % 4 = 0 then execXsTopk (w / 262144 % 16) (w / 16384 % 16) (w / 16 % 1024) (w / 4 % 2) s else execIllegalInstruction .illRsv s
  | 0x0D => if w / 8 % 2 = 0 ∧ w % 4 = 0 then execXsUpd (w / 4194304 % 16) (w / 262144 % 16) (w / 16384 % 16) (w / 16 % 1024) (w / 4 % 2) s else execIllegalInstruction .illRsv s
  | 0x0E => if w % 4 = 0 then execXsScatter (w / 4194304 % 16) (w / 262144 % 16) (w / 16384 % 16) (w / 16 % 1024) (w / 8 % 2) (w / 4 % 2) s else execIllegalInstruction .illRsv s
  | 0x0F => if w % 16 = 0 then execXsReidx (w / 4194304 % 16) (w / 262144 % 16) (w / 16384 % 16) (w / 16 % 1024) s else execIllegalInstruction .illRsv s
  | 0x20 => if w / 16384 % 16 = 0 ∧ w % 16 = 0 then execXsRinv (w / 4194304 % 16) (w / 262144 % 16) (w / 16 % 1024) s else execIllegalInstruction .illRsv s
  | 0x21 => if w / 4194304 % 16 = 0 ∧ w % 16384 = 0 then execXlsBarInit (w / 262144 % 16) (w / 16384 % 16) s else execIllegalInstruction .illRsv s
  | 0x22 => if w % 262144 = 0 then execXlsBarWait (w / 4194304 % 16) (w / 262144 % 16) s else execIllegalInstruction .illRsv s
  | 0x24 => if w / 16384 % 256 = 0 ∧ w % 16 = 0 then execXsColl (w / 4194304 % 16) (w / 16 % 1024) s else execIllegalInstruction .illRsv s
  | 0x30 => runXf30 w s
  | 0x31 => runXf31 w s
  | 0x32 => runXf32 w s
  | 0x33 => if w / 65536 % 128 = 0 ∧ (w / 8388608 % 8) ≤ 5 then execXlsLbr (w / 8388608 % 8) (w % 65536) s else execIllegalInstruction .illRsv s
  | 0x34 => runXf34 w s
  | 0x35 => runXf35 w s
  | 0x36 => runXf36 w s
  | 0x3E => runXf3E w s
  | _ => execIllegalInstruction .illOp s

theorem runXf05_eq (w : Nat) (s : State) : execRead (decodeXf05 w) s = runXf05 w s := by
  unfold decodeXf05 runXf05
  split
  all_goals first | (simp only [*]; split <;> rfl) | (simp only [*]; rfl) | rfl | (split <;> rfl)

theorem runXf06_eq (w : Nat) (s : State) : execRead (decodeXf06 w) s = runXf06 w s := by
  unfold decodeXf06 runXf06
  split
  all_goals first | (simp only [*]; split <;> rfl) | (simp only [*]; rfl) | rfl | (split <;> rfl)

theorem runXf07_eq (w : Nat) (s : State) : execRead (decodeXf07 w) s = runXf07 w s := by
  unfold decodeXf07 runXf07
  split
  all_goals first | (simp only [*]; split <;> rfl) | (simp only [*]; rfl) | rfl | (split <;> rfl)

theorem runXf30_eq (w : Nat) (s : State) : execRead (decodeXf30 w) s = runXf30 w s := by
  unfold decodeXf30 runXf30
  split
  all_goals first | (simp only [*]; split <;> rfl) | (simp only [*]; rfl) | rfl | (split <;> rfl)

theorem runXf31_eq (w : Nat) (s : State) : execRead (decodeXf31 w) s = runXf31 w s := by
  unfold decodeXf31 runXf31
  split
  all_goals first | (simp only [*]; split <;> rfl) | (simp only [*]; rfl) | rfl | (split <;> rfl)

theorem runXf32_eq (w : Nat) (s : State) : execRead (decodeXf32 w) s = runXf32 w s := by
  unfold decodeXf32 runXf32
  split
  all_goals first | (simp only [*]; split <;> rfl) | (simp only [*]; rfl) | rfl | (split <;> rfl)

theorem runXf34_eq (w : Nat) (s : State) : execRead (decodeXf34 w) s = runXf34 w s := by
  unfold decodeXf34 runXf34
  split
  all_goals first | (simp only [*]; split <;> rfl) | (simp only [*]; rfl) | rfl | (split <;> rfl)

theorem runXf35_eq (w : Nat) (s : State) : execRead (decodeXf35 w) s = runXf35 w s := by
  unfold decodeXf35 runXf35
  split
  all_goals first | (simp only [*]; split <;> rfl) | (simp only [*]; rfl) | rfl | (split <;> rfl)

theorem runXf36_eq (w : Nat) (s : State) : execRead (decodeXf36 w) s = runXf36 w s := by
  unfold decodeXf36 runXf36
  split
  all_goals first | (simp only [*]; split <;> rfl) | (simp only [*]; rfl) | rfl | (split <;> rfl)

theorem runXf3E_eq (w : Nat) (s : State) : execRead (decodeXf3E w) s = runXf3E w s := by
  unfold decodeXf3E runXf3E
  split
  all_goals first | (simp only [*]; split <;> rfl) | (simp only [*]; rfl) | rfl | (split <;> rfl)

theorem runXf_eq (w : Nat) (s : State) : execRead (decodeXf w) s = runXf w s := by
  unfold decodeXf runXf
  split
  · rfl
  · split
    all_goals
      first
        | (simp only [*]; split <;> rfl)
        | (simp only [*]; rfl)
        | (simp only [*]; exact runXf05_eq w s)
        | exact runXf05_eq w s
        | (simp only [*]; exact runXf06_eq w s)
        | exact runXf06_eq w s
        | (simp only [*]; exact runXf07_eq w s)
        | exact runXf07_eq w s
        | (simp only [*]; exact runXf30_eq w s)
        | exact runXf30_eq w s
        | (simp only [*]; exact runXf31_eq w s)
        | exact runXf31_eq w s
        | (simp only [*]; exact runXf32_eq w s)
        | exact runXf32_eq w s
        | (simp only [*]; exact runXf34_eq w s)
        | exact runXf34_eq w s
        | (simp only [*]; exact runXf35_eq w s)
        | exact runXf35_eq w s
        | (simp only [*]; exact runXf36_eq w s)
        | exact runXf36_eq w s
        | (simp only [*]; exact runXf3E_eq w s)
        | exact runXf3E_eq w s
        | rfl
        | (split <;> rfl)

/-- A word of a stream, as a program. -/
def runWord (u : StreamId) (w : Nat) (s : State) : Host.Outcome State Fault Refusal :=
  match u with
  | .sq => match decodeSq w with | .ok i => exec i s | .error c => execIllegalInstruction c s
  | .ve => match decodeVe w with | .ok i => exec i s | .error c => execIllegalInstruction c s
  | .me => match decodeMe w with | .ok i => exec i s | .error c => execIllegalInstruction c s
  | .xl => if xsOnly (w / 67108864 % 64) then execIllegalInstruction .illOp s else runXf w s
  | .xs => if xlOnly (w / 67108864 % 64) then execIllegalInstruction .illOp s else runXf w s

@[csimp] theorem execWord_eq_runWord : @execWord = @runWord := by
  funext u w s
  cases u
  · rfl
  · rfl
  · rfl
  · show execRead (decodeXl w) s = _
    unfold decodeXl runWord
    dsimp only
    split
    · rfl
    · exact runXf_eq w s
  · show execRead (decodeXs w) s = _
    unfold decodeXs runWord
    dsimp only
    split
    · rfl
    · exact runXf_eq w s

end Sys2Proof.Machine
end

