-- ==== Sys2Proof/Machine/Fetch.lean ====
section
/-!
DEFINITION. What a stream fetches (R86, R94), the check of a VE group (R96, R97) and its wait (R162), the entry of loop heads (R278),
and the passing of time. `step` only calls these.
-/
namespace Sys2Proof.Machine
open Sys2Proof

/-! ### Fetch (R86, R96, R97, R278) -/

/-- The slot class of a VE word by its major opcode (R163): 0 A, 1 S, 2 M, 3 none. -/
def veSlotOf (w : Nat) : Nat :=
  let op := w / 33554432 % 64
  if (1 ≤ op ∧ op ≤ 0x1F) ∨ op = 0x34 ∨ op = 0x35 then 0
  else if (0x20 ≤ op ∧ op ≤ 0x2B) ∨ (0x37 ≤ op ∧ op ≤ 0x3B) then 1
  else if (0x2C ≤ op ∧ op ≤ 0x33) ∨ op = 0x3C ∨ op = 0x3D then 2
  else 3

/-- The words of the group at an address: up to and including the first stop bit, four at most. -/
def veGroupWords (st : Stream) : Nat → Nat → List Nat
  | 0, _ => []
  | n + 1, a =>
    let w := st.fetch a
    if w / 2147483648 % 2 = 1 then [w] else w :: veGroupWords st n (a + 4)

/-- R96, R97, R167: why a group may not run: its first illegal word in slot order, else no stop bit or too many of a slot. A word that
has no slot stands last in that order (log 33: DESIGN CHOICE). -/
def veGroupCause (l : List Nat) : Option Cause :=
  let bad := ([0, 1, 2, 3] : List Nat).flatMap fun k => (l.filter fun w => veSlotOf w = k).flatMap fun w =>
    match decodeVe w with | .error c => [c] | .ok _ => []
  let num (k : Nat) : Nat := (l.filter fun w => veSlotOf w = k).length
  match bad with
  | c :: _ => some c
  | [] =>
    if (match l.getLast? with | some w => decide (w / 2147483648 % 2 = 1) | none => false) = false
      ∨ 2 < num 0 ∨ 1 < num 1 ∨ 1 < num 2 then some .illGroup
    else none

/-- The check of a VE group, made at its first word. -/
def veGroupBad (c : Ctx) : Option Cause :=
  if c.r.ve.group.count = 0 then veGroupCause (veGroupWords (c.stream .ve) 4 (c.stream .ve).at) else none

/-- What a word of a group waits for, if its wait is not met (R196). -/
def veWordBlocked (ck : Nat) (s : State) (w : Nat) : Option Wait :=
  match decodeVe w with
  | .ok (.veSemWait _ n) => veBlocked ck s (.semWait n)
  | .ok (.veTlWait _ k a) => veBlocked ck s (.tlWait k (vget 0 (s.ctx ck).r.ve.a a).toNat)
  | _ => none

/-- R162: the wait of a VE group comes before any of its reads: it is tested at the first word. -/
def veGroupBlocked (ck : Nat) (s : State) : Option Wait :=
  let c := s.ctx ck
  if c.r.ve.group.count = 0 then (veGroupWords (c.stream .ve) 4 (c.stream .ve).at).findSome? (veWordBlocked ck s) else none

/-- R162, R196: a VE group takes the count that its `sem.wait` waited for before its first read. -/
def veGroupTake (ck : Nat) (s : State) : State :=
  let c := s.ctx ck
  if c.r.ve.group.count ≠ 0 then s
  else match (veGroupWords (c.stream .ve) 4 (c.stream .ve).at).findSome? (fun w => match decodeVe w with
      | .ok (.veSemWait _ n) => some n
      | _ => none) with
    | some n => (semTake ck n s).modRegs ck fun r => { r with ve := { r.ve with group := { r.ve.group with held := some n } } }
    | none => s

/-- R278: a stream that fetches a loop head is inside that level. (log 22: DEDUCED) -/
def enterHeads (st : Stream) : Stream :=
  if st.pfxLen = 0 then
    { st with inside := st.inside.mapFinIdx fun i b _ => b || decide (vget 4294967296 st.head i = st.pc) }
  else st

/-- Makes a stream the running one, at its next word; a wait it had is over. -/
def begin (a : Agent) (s : State) : State :=
  { s.modStream (a.core * 4 + a.slot) a.stream (fun st => enterHeads { st with wait := none }) with who := a }

/-- One word of a stream: fetched, and executed; a VE group is checked whole at its first word, waits there, and
has its count there. -/
def runAgent (a : Agent) (s : State) : Host.Outcome State Fault Refusal :=
  let s := begin a s
  let ck := a.core * 4 + a.slot
  let c := s.ctx ck
  let st := c.stream a.stream
  match (if a.stream = .ve then veGroupBad c else none) with
  | some x => execIllegalInstruction x s
  | none =>
    match (if a.stream = .ve then veGroupBlocked ck s else none) with
    | some w => run (veBlock ck w) s
    | none => execWord a.stream (st.fetch st.at) (if a.stream = .ve then veGroupTake ck s else s)

/-! ### Time and the schedule (log 5: DESIGN CHOICE, log 7: DESIGN CHOICE) -/

/-- The act by which a unit goes on. -/
def Agent.act (a : Agent) : Act := .run a.core a.stream false none none

/-- The context that an act belongs to. -/
def Act.context (s : State) : Act → Option Nat
  | .run core u _ _ _ => (grantAt core u s).map fun x => core * 4 + x.1
  | .ev (.sqLoadReturn core slot) _ | .ev (.sqMemoryResponse core slot) _ | .ev (.meStepComplete core slot) _
  | .ev (.xlXsCommandComplete core slot _ _) _ | .ev (.cxCopyComplete core slot _ _) _ | .ev (.asgRunStart core slot) _
  | .ev (.asgRound core slot) _ | .ev (.asgFinish core slot) _ | .ev (.asgPriceCommandComplete core slot) _
  | .ev (.cleCollectiveComplete core slot _) _ => some (core * 4 + slot)
  | .ev _ _ => none

/-- Whether what a turn would do is still to be done: its engine has a stream to run, or its context is active. -/
def Turn.due (s : State) : Turn → Bool
  | .act (.run core u _ _ _) => (grantAt core u s).isSome
  | .act a => match a.context s with | some ck => (s.ctx ck).active | none => true
  | _ => true

/-- The turn that the step takes now; none where the machine goes on by itself. -/
def State.turnNow (s : State) : Option Turn :=
  match s.lock, s.tape with
  | some _, .amid b _ _ :: _ => some (.act b)
  | some a, _ => some (.act a.act)
  | none, e :: _ => some e
  | none, [] => none

/-- The turns that a frame beyond every route still holds up, but for the one that is tried again now. -/
def State.strayLeft (s : State) : List (Nat × Option Turn) :=
  s.strays.filter fun x => s.beyond x.1 && decide (x.2 ≠ s.turnNow) && (match x.2 with | some e => e.due s | none => true)

/-- Whether something waits to post at the place of an arm queue. -/
def armqWaiters (die p : Nat) (s : State) : Bool :=
  !(s.mcSet die p).held.isEmpty || s.ctxs.any fun x => decide (dieOf x.1 = die ∧ x.2.bind.part = p) &&
    (x.2.stopped || x.2.st == .retiring || (x.2.st == .binding && (x.2.binding.bind (·.failed)).isSome)
      || decide ((x.2.stream .sq).wait = some (.armq die p)))

/-- R444: the requests that wait for a route: those of halted units, completion adds and messages; cleans that follow a tile which has
moved; the release of a retiring context; the cleans of a quiesce and of a freeze; the entries at the place of an arm queue; and reads
by physical address of a tile which has moved. -/
def State.routeRequests (s : State) : Nat :=
  s.routeWaits + s.strays.length
    + (s.dies.flatMap fun d => d.2.mc.filter fun m => armqBeyond d.1 m.1 s && armqWaiters d.1 m.1 s).length
    + (s.pkg.held.filter fun h => !h.dma && decide (h.req.pkg = s.pkg.num.toNat ∧ mapMst (s.frameState h.frame) = 3)).length
    + (s.ctxs.filter fun x => x.2.st == .retiring && postsNow x.1 s && !retireReady x.1 s).length
    + (if s.quiet && s.loseWaits then 1 else 0)
    + (s.parts.filter fun p => frozenStill p.1 s && !clePending p.1 s && freezeLines p.1 s).length

/-- The cycles that units wait for a full page-fault queue, and requests for a route (R390, R444). -/
def countWaits (n : Nat) (s : State) : State :=
  let s := if s.pfqWaits = 0 then s else countPkg 0 (n * s.pfqWaits) s
  if s.routeRequests = 0 then s else countPkg 4 (n * s.routeRequests) s

/-- A step begins: time passes; the turn's choices hold until its unit has ended. -/
def tick (s : State) : State :=
  let n := Config.cycles s.ticks
  let s := passYields (countWaits n s)
  let s := s.parts.foldl (fun s p => undoTransfer p.1 s) s
  { s with
    strays := s.strayLeft
    redirects := s.redirects.filter (!·.used)
    ticks := s.ticks + 1
    cycle := s.cycle + BitVec.ofNat 64 n
    slow := s.lock.isSome && s.slow
    par := if s.lock.isSome then s.par else none
    rows := if s.lock.isSome then s.rows else none
    early := []
    awaits := none }

/-- Whether an entry of the schedule is an event: a row without an encoding (an illegal word is no event). -/
def Instr.isEvent (i : Instr) : Bool :=
  match i with
  | .illegalInstruction _ => false
  | i => (encode i).isNone

end Sys2Proof.Machine
end

