-- ==== Sys2Proof/Machine/Race.lean ====
section
/-!
DEFINITION. The entries of the schedule (log 5: DESIGN CHOICE): an act, an act within a unit (R164, R229), acts of one cycle that race (R21,
R39, R404), and what happens around the core. `step` only calls these.
-/
namespace Sys2Proof.Machine
open Sys2Proof

/-! ### Acts -/

/-- Begins an act: an engine takes its next slot, or an event of the table happens. -/
def startAct (a : Act) (s : State) : Host.Outcome State Fault Refusal :=
  match a with
  | .run core u slow par rows =>
    match grantAt core u s with
    | some (k, t) => runAgent ⟨core, k, u⟩ { t with slow := slow, par := par, rows := rows }
    | none => .next s
  | .ev i rows => if Instr.isEvent i then exec i { s with rows := rows } else .next s

/-- The unit that holds the lock goes on to its end. -/
def finishUnit : Nat → State → Host.Outcome State Fault Refusal
  | 0, s => .next s
  | n + 1, s =>
    match s.lock with
    | none => .next s
    | some a =>
      match runAgent a s with
      | .next t => finishUnit n t
      | o => o

/-- An act with the whole of its unit: a unit has at most four words (R97, R104), and an ME step that pauses
goes on. -/
def wholeAct (a : Act) (s : State) : Host.Outcome State Fault Refusal :=
  match startAct a s with
  | .next t => finishUnit 8 t
  | o => o

/-- What makes an act: the engine of a core (R14), or the command, copy, round or collective that an event carries on. -/
def Act.maker : Act → List Nat
  | .run core u _ _ _ => [core, u.code]
  | .ev (.sqLoadReturn core _) _ | .ev (.sqMemoryResponse core _) _ => [core, 0]
  | .ev (.meStepComplete core _) _ => [core, 2]
  | .ev (.xlXsCommandComplete core slot unit num) _ => [core, 5 + unit, slot, num]
  | .ev (.cxCopyComplete core slot cx num) _ => [core, 10 + cx, slot, num]
  | .ev (.cleCollectiveComplete core slot num) _ => [core, 15, slot, num]
  | .ev (.asgRunStart core _) _ | .ev (.asgRound core _) _ | .ev (.asgFinish core _) _ | .ev (.asgPriceCommandComplete core _) _ => [core, 14]
  | .ev _ _ => []

/-- The engine that an act takes, if it takes one. -/
def Act.engine : Act → Option (Nat × StreamId)
  | .run core u _ _ _ => some (core, u)
  | .ev _ _ => none

/-- The place of an act in the order SQ, VE, ME, XL, XS, CX, ASG (R59, R404). -/
def Act.place (a : Act) : Nat := match a.maker with
  | [_, u] => if u = 14 then 6 else u
  | _ :: n :: _ => if 15 ≤ n then 7 else if 10 ≤ n then 5 else n - 5
  | _ => 7

/-! ### The words of a race (R21, R39, R319; log 32: DESIGN CHOICE) -/

/-- A 4-byte word that acts may race on: in the buffers (space 1), or of a partition in the L2 of a die (2 + die + 8 × partition), by its
index. -/
abbrev RaceWord := Nat × Nat

/-- The line of L2 that holds a word. -/
def State.raceLine (s : State) (w : RaceWord) : Option L2Line :=
  (s.die ((w.1 - 2) % 8)).l2.find? fun l => decide (l.line = w.2 / 32 ∧ l.owner = (w.1 - 2) / 8)

/-- That line, or the one that a fill from its home would give. -/
def State.raceFill (s : State) (w : RaceWord) : L2Line :=
  let line := w.2 / 32
  (s.raceLine w).getD ⟨line, BitVec.ofNat 1024 (s.homeRead (line * 128) 128).1, 0, 0, (w.1 - 2) / 8, 24, s.linePoison line⟩

/-- A word's value. -/
def State.raceGet (s : State) (w : RaceWord) : Nat :=
  if w.1 = 1 then readRange s.buf s.bbuf (4 * w.2) 4 else lineBytes (s.raceFill w).data (4 * (w.2 % 32)) 4

/-- Whether the 64-bit word that holds a word is poisoned. -/
def State.racePoison (s : State) (w : RaceWord) : Bool :=
  if w.1 = 1 then s.bpoison.contains (w.2 / 2) else (s.raceFill w).poison.getLsbD (w.2 % 32 / 2)

/-- A word given a value, where it stands in the buffers or in a line of L2. -/
def State.racePut (w : RaceWord) (v : Nat) (s : State) : State :=
  if w.1 = 1 then { s with bbuf := cellsOf (4 * w.2) 4 v ++ s.bbuf }
  else s.modDie ((w.1 - 2) % 8) fun x => { x with l2 := x.l2.map fun l =>
    if l.line = w.2 / 32 ∧ l.owner = (w.1 - 2) / 8 then { l with data := lineSet l.data (4 * (w.2 % 32)) 4 v } else l }

/-- Whether every word of a line that differs from an earlier one has been written since: no clean, no drop and no refill lies between. -/
def L2Line.follows (a b : L2Line) : Bool :=
  decide (a.dirty &&& ~~~b.dirty = 0) && (List.range 32).all fun i =>
    b.dirty.getLsbD i || decide (lineBytes a.data (4 * i) 4 = lineBytes b.data (4 * i) 4)

/-- Whether a word's place has stayed from one state to a later one: a line of L2 stays in its way or is filled, and only writes of its
words change it (R310, R314, R320). -/
def raceStays (w : RaceWord) (s t : State) : Bool :=
  decide (w.1 = 1) || match s.raceLine w, t.raceLine w with
    | some a, some b => decide (a.way = b.way) && a.follows b
    | none, some b => (s.raceFill w).follows b
    | _, none => false

/-- Whether a view may be had, from the states before the acts of the race so far, newest first. -/
def View.stands (hist : List State) (v : View) : Bool :=
  let l := hist.take (v.back + 1)
  decide (l.length = v.back + 1) && ((l.zip l.tail).all fun x => raceStays v.word x.2 x.1 && x.1.racePoison v.word == x.2.racePoison v.word)
    && (decide (v.word.1 = 1) || (l.head?.bind fun s => s.raceLine v.word).isSome)

/-- The value that a view shows. -/
def View.value (hist : List State) (v : View) : Nat := match hist[v.back]? with | some s => s.raceGet v.word | none => 0

/-- Whether an act writes a word: it leaves another value than it found, or would have where it found another. -/
def writesWord (f : State → Host.Outcome State Fault Refusal) (w : RaceWord) (s : State) : Bool :=
  let changes (x : State) : Bool := match f x with | .next t => decide (t.raceGet w ≠ x.raceGet w) | _ => false
  changes s || changes (s.racePut w (s.raceGet w ^^^ 1))

/-- An act that finds words as its views show them, each for the whole act or for the reads that it numbers. A word that it does not write
is then as it was before; one that stands in `lost` holds what an earlier act of the race wrote. -/
def viewedAct (f : State → Host.Outcome State Fault Refusal) (views : List View) (lost : List RaceWord) (hist : List State) (s : State) :
    Host.Outcome State Fault Refusal :=
  let views := views.filter (·.stands hist)
  let whole := views.filter (·.reads.isNone)
  let early := views.flatMap fun v => match v.reads with
    | some l => if v.word.1 = 1 then l.flatMap fun n => (cellsOf (4 * v.word.2) 4 (v.value hist)).map fun c => (n, c) else []
    | none => []
  let b := whole.foldl (fun t v => t.racePut v.word (v.value hist)) { s with early := early }
  match f b with
  | .next t =>
    if (whole.map (·.word) ++ lost).all fun w => raceStays w b t then
      let keep := (whole.map (·.word)).filter fun w => !writesWord f w b
      let undo := lost.filter fun w => s.racePoison w == t.racePoison w
      .next (settle t ((keep ++ undo).foldl (fun t w => t.racePut w (s.raceGet w)) { t with early := [] }))
    else f s
  | o => o

/-- The bytes of the tables that one action reads or writes whole: tensor tables and tile tables (R380), and the frame map (R430). -/
def State.raceTables (s : State) : List (Nat × Nat) :=
  (s.parts.flatMap fun p =>
    let tt := p.2.active.ttab.toNat
    (tt / 65536 * 65536, 64 * (tt % 65536 + 1)) :: (s.partDescs p.1).map fun d => (d.ttbase, 16 * d.ntiles))
  ++ match s.mapBase with | some b => [(b, 8 * (dramEnd / 65536))] | none => []

/-- The words of a barrier object of a context, by its AB offset. -/
def barWords (ck off : Nat) (s : State) (w : RaceWord) : Bool :=
  let bar := winKey ck (s.ctx ck) 0 off
  decide (w.1 = 1 ∧ bar ≤ 4 * w.2 ∧ 4 * w.2 < bar + 16)

/-- The barrier object that a word of a stream names (R131, R262). -/
def barOf (u : StreamId) (w : Nat) (r : Regs) : Option Nat :=
  match u with
  | .sq => match decodeSq w with
    | .ok (.sqBarInit a _) | .ok (.sqBarWait a _) => some (vget 0 r.s a).toNat
    | _ => none
  | .xl | .xs => if w / 67108864 % 64 = 0x21 ∨ w / 67108864 % 64 = 0x22 then some (vget 0 (if u = .xs then r.xsC else r.xlC) (w / 262144 % 16)).toNat else none
  | _ => none

/-- What an act changes or reads in one action: the barrier object of a command, a copy or a word (R130), and the descriptor lines that
its pins name (R68). -/
def Act.atoms (s : State) : Act → List (RaceWord → Bool)
  | .ev (.xlXsCommandComplete core slot unit num) _ =>
    let ck := core * 4 + slot
    match findCmd ck (if unit = 4 then .xs else .xl) num s with
    | none => []
    | some q =>
      let keys := q.pins.map fun p => pinKey (s.ctx ck).bind.part p s
      [fun w => q.bar && barWords ck q.xr.baro s w, fun w => decide (w.1 ≠ 1) && keys.any fun k => decide (4 * w.2 / 128 = k / 128)]
  | .ev (.cxCopyComplete core slot cx num) _ =>
    let ck := core * 4 + slot
    match ((vget [] (s.ctx ck).r.cxQ cx).find? fun x => x.num = num).bind (·.bar) with
    | none => []
    | some b => [barWords ck b s]
  | .run core u _ _ _ =>
    match grantAt core u s with
    | none => []
    | some (k, _) =>
      let ck := core * 4 + k
      let st := (s.ctx ck).stream u
      match barOf u (st.fetch st.at) (s.ctx ck).r with
      | none => []
      | some off => [barWords ck off s]
  | .ev _ _ => []

/-- Whether acts may race on a word: it is not part of what one of them changes in one action. A word that XL or XS issues reads its
operands in the buffers alone. -/
def raceWordOk (s : State) (l : List Act) (w : RaceWord) : Bool :=
  decide (w.1 ≠ 0) && (decide (w.1 = 1) || !s.raceTables.any fun r => decide (r.1 ≤ 4 * w.2 ∧ 4 * w.2 < r.1 + r.2))
    && !(l.any fun a => (a.atoms s).any fun p => p w)
    && (decide (w.1 = 1) || !l.any fun a => match a with | .run _ u _ _ _ => decide (u = .xl ∨ u = .xs) | _ => false)

/-! ### Acts in no order (R21, R39, R319; log 32: DESIGN CHOICE) -/

/-- The word of a stream behind its prefixes, and whether one of them orders it (R101, R102). -/
def unitWord (st : Stream) : Nat → Nat → Nat × Bool
  | 0, a => (st.fetch a, false)
  | n + 1, a => match decodeSq (st.fetch a) with
    | .ok (.pfxImm _) => unitWord st n (a + 4)
    | .ok (.pfxOrd _ ord _) => let x := unitWord st n (a + 4); (x.1, x.2 || decide (ord ≠ 0))
    | _ => (st.fetch a, false)

/-- Whether a word of SQ is a load or store of memory without order, an access of its own (R118), or issues an ASG command, whose record
it reads (R357). -/
def sqPlain (w : Nat) : Bool :=
  match decodeSq w with
  | .ok (.ld _ _ _ _) | .ok (.st _ _ _ _) | .ok (.ldx _ _ _ _) | .ok (.stx _ _ _ _) => true
  | .ok (.asgRun _ _) | .ok (.asgPld _ _ _) | .ok (.asgPst _ _ _) => true
  | _ => false

/-- Whether a word of ME takes the same entry of the tile queues in every order: one that takes either queue's does where both have one
(R223). -/
def mePlain (w : Nat) (r : Regs) : Bool :=
  match decodeMe w with
  | .ok (.mTq sel _) => decide (sel ≠ 2) || (!(vget [] r.tq 0).isEmpty && !(vget [] r.tq 1).isEmpty)
  | _ => true

/-- Whether an act could be made now, by itself and in no order with the others: its word, command, copy, round or collective would go on,
and it is no action that the spec makes whole. -/
def Act.plain (s : State) (a : Act) : Bool :=
  match a with
  | .run core u _ _ _ =>
    match grantAt core u s with
    | none => false
    | some (k, _) =>
      let c := s.ctx (core * 4 + k)
      let st := c.stream u
      (match u with
        | .sq => let x := unitWord st 4 st.at; sqPlain x.1 && !x.2 && decide ((st.pfxOrd.map fun p => p.2.1).getD 0 = 0)
        | .me => mePlain (st.fetch st.at) c.r
        | _ => true) && match wholeAct a s with
        | .next t => ((t.ctx (core * 4 + k)).stream u).wait.isNone
        | _ => false
  | .ev (.sqLoadReturn core slot) _ => match (s.ctx (core * 4 + slot)).r.pend with
    | some (.load _ _ _ _ _ ord _) => decide (ord = 0)
    | _ => false
  | .ev (.meStepComplete core slot) _ => !(s.ctx (core * 4 + slot)).me.drains.isEmpty
  | .ev (.xlXsCommandComplete core slot unit num) _ =>
    let ck := core * 4 + slot
    let u : StreamId := if unit = 4 then .xs else .xl
    match findCmd ck u num s with
    | none => false
    | some q => decide (q.op ≠ .case) && cmdMayRun ck u q s && match wholeAct a s with
      | .next t => match findCmd ck u num t with
        | some x => x.halted.isNone && (x.wait == none || x.wait == some .row)
        | none => true
      | _ => false
  | .ev (.cxCopyComplete core slot cx num) _ =>
    let l := vget [] (s.ctx (core * 4 + slot)).r.cxQ cx
    (l.take 4).any fun x => decide (x.num = num) && x.halted.isNone && (s.ctx (core * 4 + slot)).active
      && !((l.takeWhile fun y => y.num ≠ num).any fun y => conflict y.ranges x.ranges)
  | .ev (.cleCollectiveComplete core slot num) _ =>
    let c := s.ctx (core * 4 + slot)
    c.active && c.r.coll.any fun x => decide (x.num = num) && x.done && !c.r.collHeld x
  | .ev (.asgRunStart core slot) _ | .ev (.asgRound core slot) _ | .ev (.asgPriceCommandComplete core slot) _ =>
    (asgGrant core s).map (·.1) == some slot
  | .ev (.asgFinish core slot) _ =>
    let c := s.ctx (core * 4 + slot)
    c.active && match c.r.asg.run with | some r => r.bad || r.status.isSome | none => false
  | .ev _ _ => false

/-- Whether an act is one of SQ, whose accesses are whole against each other (R319). -/
def Act.ofSq (a : Act) : Bool := match a.maker with | [_, u] => decide (u = 0) | _ => false

/-! ### Several causes in one cycle (R404) -/

/-- Whether a context has stopped with a cause. -/
def State.trapped (s : State) (ck : Nat) : Bool := match (s.ctx ck).halt with | some h => decide (h.kind = 2) | none => false

/-- The context that an act would stop with a cause. -/
def Act.traps (s : State) (a : Act) : Option Nat :=
  match a.context s with
  | none => none
  | some ck => match wholeAct a s with
    | .next t => if t.trapped ck && !s.trapped ck then some ck else none
    | _ => none

/-- A racer put before the first one of a later place. -/
def placeRacer (r : Racer) : List Racer → List Racer
  | [] => [r]
  | x :: l => if r.act.place < x.act.place then r :: x :: l else x :: placeRacer r l

/-- The racers that `p` names, in the order of R404, at the places where they stood. -/
def inPlace (p : Racer → Bool) (l : List Racer) : List Racer :=
  let rec go : List Racer → List Racer → List Racer
    | [], _ => []
    | x :: l, q => if p x then q.headD x :: go l q.tail else x :: go l q
  go l ((l.filter p).foldr placeRacer [])

/-- A context that an act from `s` to `t` has stopped goes on for the other acts of the cycle: the stream that has stopped keeps its cause,
and the others are as they were. -/
def goesOnAfter (ck : Nat) (s t : State) : State :=
  let c := s.ctx ck
  let new (i : Nat) (st : Stream) : Bool := decide (st.cause ≠ 0) && !decide (((c.r.streams.toList[i]?).getD {}).cause ≠ 0)
  (t.modCtx ck fun x => { x with
    st := c.st, halt := c.halt, preempt := c.preempt
    r := { x.r with
      streams := x.r.streams.mapFinIdx fun i st _ => if new i st then st else (c.r.streams.toList[i]?).getD st
      ve := { x.r.ve with group := if new 1 (x.stream .ve) then x.r.ve.group else c.r.ve.group } } }).modCore (coreOf ck) fun k =>
    { k with draining := (s.core (coreOf ck)).draining }

/-- The context stops at the end of the cycle, with the cause that came first. -/
def stopsAfter (s : State) (x : Nat × Halt) : State :=
  let c := s.ctx x.1
  if c.st = .free ∨ c.st = .binding then s
  else settle s ((hardStop x.1 s).modCtx x.1 fun c => { c with
    st := .halting, preempt := false
    halt := match c.halt with
      | some y => if y.kind = 2 ∨ y.kind = 3 then some y else some x.2
      | none => some x.2 })

/-! ### FLAGS in one cycle (R59) -/

/-- What an act does to the FLAGS of a context: what it writes there, with INVE, and what its operations set. -/
structure FlagNote where
  ck : Nat
  place : Nat
  wrote : Option (BitVec 6 × BitVec 5)
  set : BitVec 6

/-- A VE group before its last word. -/
def beforeLast : Nat → State → State
  | 0, s => s
  | n + 1, s => match s.lock with
    | none => s
    | some a => match runAgent a s with
      | .next t => if t.lock.isSome then beforeLast n t else s
      | _ => s

/-- The flags that the operations of a VE group with a `cr.wr` of FLAGS set. -/
def veGroupFlags (a : Act) (ck : Nat) (s : State) : BitVec 6 :=
  match startAct a s with
  | .next t =>
    let x := beforeLast 8 t
    let g := (x.ctx ck).r.ve.group
    match x.lock, g.ctl with
    | none, _ => 0
    | some b, .crWr csel _ =>
      match runAgent b (x.modRegs ck fun r => { r with flags := 0, ve := { r.ve with group := { g with ctl := .crWr csel 0 } } }) with
      | .next y => (y.ctx ck).r.flags
      | _ => 0
    | some _, _ => g.flags
  | _ => 0

/-- What an act, made as `f` at a state, does to the FLAGS of its context: it writes them where INVE after it does not rest on INVE before. -/
def flagNote (a : Act) (f : State → Host.Outcome State Fault Refusal) (s : State) : Option FlagNote :=
  match a.context s with
  | none => none
  | some ck =>
    let after (inve : BitVec 5) : Option Regs := match f (s.modRegs ck fun r => { r with flags := 0, inve := inve }) with
      | .next t => some (t.ctx ck).r
      | _ => none
    match after 0, after 0x1F with
    | some x, some y =>
      if a.engine.isSome && decide (x.inve = y.inve) then
        some ⟨ck, a.place, some (x.flags, x.inve), if a.place = 1 then veGroupFlags a ck s else 0⟩
      else some ⟨ck, a.place, none, x.flags⟩
    | _, _ => none

/-- Whether an act writes FLAGS. -/
def Act.writesFlags (s : State) (a : Act) : Bool :=
  match flagNote a (wholeAct a) s with | some x => x.wrote.isSome | none => false

/-- R59: the writes of FLAGS take effect in the order of the streams, and what operations of the cycle set is ORed in after them. -/
def mergeFlags (l : List FlagNote) (s : State) : State :=
  (l.filterMap fun x => x.wrote.map fun _ => x.ck).dedup.foldl (fun s ck =>
    let mine := l.filter fun x => x.ck = ck
    let last := mine.foldl (fun (b : Nat × Option (BitVec 6 × BitVec 5)) x =>
      if x.wrote.isSome && decide (b.1 ≤ x.place) then (x.place, x.wrote) else b) (0, none)
    match last.2 with
    | none => s
    | some w => s.modRegs ck fun r => { r with flags := mine.foldl (fun f x => f ||| x.set) w.1, inve := w.2 }) s

/-! ### Races -/

/-- A race so far: the states before its acts, newest first; how many acts in no order have just been made; the acts made; the words that
acts in no order wrote; the contexts that have stopped, with what stops them; and what became of FLAGS. -/
structure RaceLog where
  hist : List State
  free : Nat := 0
  acts : List Act := []
  wrote : List RaceWord := []
  stops : List (Nat × Halt) := []
  flags : List FlagNote := []

/-- Whether an act of a race that began at `s` is in no order with the acts made before it: it could be made then, by itself, and its maker
has made none of them. -/
def RaceLog.fair (g : RaceLog) (s : State) (a : Act) : Bool :=
  a.plain s && !(g.acts.any fun b => decide (b.maker = a.maker)) && !(a.ofSq && g.acts.any (·.ofSq))

/-- Whether an act is a word of a stream that has stopped in the race. -/
def RaceLog.over (g : RaceLog) (s : State) (a : Act) : Bool :=
  match a with
  | .run core u _ _ _ => match grantAt core u s with
    | some (k, _) => (g.stops.any fun x => decide (x.1 = core * 4 + k)) && decide (((s.ctx (core * 4 + k)).stream u).cause ≠ 0)
    | none => false
  | .ev _ _ => false

/-- The acts of a race that began at `s0`, one after the other; `merge` says that one of them writes FLAGS. -/
def raceRun (s0 : State) (merge : Bool) : List Racer → RaceLog → State → Host.Outcome State Fault Refusal
  | [], g, s => .next (g.stops.foldl stopsAfter (mergeFlags g.flags s))
  | r :: l, g, s =>
    if g.over s r.act then raceRun s0 merge l g s
    else
      let fair := g.fair s0 r.act
      let views := r.views.filter fun v => fair && decide (v.back ≤ g.free)
      let lost := r.lost.filter fun w => fair && g.wrote.contains w
      let f := viewedAct (wholeAct r.act) views lost g.hist
      match f s with
      | .next t =>
        let put := ((l.flatMap (·.lost)).dedup).filter fun w => writesWord (wholeAct r.act) w s
        let (stops, t) : List (Nat × Halt) × State := match r.act.traps s0 with
          | some ck => match (t.ctx ck).halt with
            | some h => if t.trapped ck && !s.trapped ck then
                (if g.stops.any fun x => x.1 = ck then g.stops else g.stops ++ [(ck, h)], goesOnAfter ck s t) else (g.stops, t)
            | none => (g.stops, t)
          | none => (g.stops, t)
        raceRun s0 merge l {
          hist := t :: g.hist
          free := if fair then g.free + 1 else 0
          acts := r.act :: g.acts
          wrote := if fair then put ++ g.wrote else g.wrote.filter fun w => !put.contains w
          stops := stops
          flags := if merge then (flagNote r.act f s).toList ++ g.flags else [] } t
      | o => o

/-- A racer with the words that its race is on. -/
def Racer.on (p : RaceWord → Bool) (r : Racer) : Racer := { r with views := r.views.filter fun v => p v.word, lost := r.lost.filter p }

/-- The acts of a race. Where they are in some order of their own, they follow one another; those that stop a context take the order of
R404. -/
def raceActs (l : List Racer) (s : State) : Host.Outcome State Fault Refusal :=
  let acts := l.map (·.act)
  raceRun s (acts.any (·.writesFlags s)) (inPlace (fun r => (r.act.traps s).isSome) (l.map (Racer.on (raceWordOk s acts)))) { hist := [s] } s

/-! ### An act within a unit (R164, R229; log 32: DESIGN CHOICE) -/

/-- Whether the unit of `a` goes on after `t` as it would have after `s`: its stream has not been halted. -/
def unitStands (a : Agent) (s t : State) : Bool :=
  let ck := a.core * 4 + a.slot
  ready a t && decide (((t.ctx ck).stream a.stream).pfxLen = ((s.ctx ck).stream a.stream).pfxLen)

/-- An act of another engine between two words of the unit of `a`, or while its ME step is paused: the unit's next part follows in the same
cycle and finds the words of the buffers in its views as they were, where the two are in no order: an act that pushes what an ME step pops
comes before it. Where the act would halt the stream, the unit ends first: an engine halts at a boundary (R230, R403). -/
def amidAct (a : Agent) (b : Act) (views : List View) (rows : Option Nat) (s : State) : Host.Outcome State Fault Refusal :=
  if b.engine = some (a.core, a.stream) then .next s
  else
    match wholeAct b { s with lock := none } with
    | .next t =>
      if unitStands a s t then
        let ck := a.core * 4 + a.slot
        let fair := b.plain { s with lock := none } && decide (b.maker ≠ a.act.maker)
          && (a.stream == .ve || (a.stream == .me && decide ((t.ctx ck).r.ff = (s.ctx ck).r.ff)))
        let views := (views.filter fun v => fair && decide (v.word.1 = 1) && raceWordOk s [b] v.word).map fun v => { v with back := 1 }
        viewedAct (runAgent a) views [] [t, s] { t with lock := some a, slow := s.slow, par := s.par, rows := rows }
      else
        match finishUnit 8 { s with rows := none } with
        | .next u => wholeAct b u
        | o => o
    | o => o

/-! ### What happens around the core -/

/-- R447, R448: an access finds an error of the ECC of AB, CB or the galley; the word is corrected, or poisoned. -/
def bufError (key : Nat) (corrected : Bool) (s : State) : State :=
  let core := key / 2 ^ 32
  let space := key / 2 ^ 28 % 16
  if 384 ≤ core ∨ (space ≠ 0 ∧ space ≠ 1 ∧ space ≠ 5) then s
  else if corrected then correctedAt (core / 48) (2 ^ 60 + key / 128) 0 s
  else uncorrectedAt (core / 48) 0 (s.bufPoison key)

/-- R447, R448: an access finds an error in a word of a line of a die's L2. -/
def l2Error (die line word : Nat) (corrected : Bool) (s : State) : State :=
  if !(s.die die).l2.any fun l => decide (l.line = line) then s
  else
    let at_ := if homeKind (line * 128) = 0 then line * 128 else 0
    if corrected then correctedAt die line at_ s
    else uncorrectedAt die at_ (s.modDie die fun d => { d with l2 := d.l2.map fun l =>
      if l.line = line then { l with poison := l.poison ||| (1#16 <<< (word % 16)) } else l })

/-- R307: the parity bit of a 4-byte word of a case slot fails: what reads it next finds the error. -/
def caseParity (core slot word : Nat) (s : State) : State :=
  s.modCore core fun c =>
    let x := vget {} c.cases slot
    if 512 ≤ word ∨ x.bad.contains word then c else { c with cases := vset c.cases slot { x with bad := word :: x.bad } }

/-- The effect of a note. -/
def noteEffect : Note → State → State
  | .l1Leaves core flat => l1Leaves core flat
  | .bufError key corrected => bufError key corrected
  | .l2Error die line word corrected => l2Error die line word corrected
  | .memError addr corrected => memError addr corrected
  | .caseParity core slot word => caseParity core slot word
  | .peerMa part phase status => peerMa part phase status
  | .peerRegs part id r => peerRegs part id r
  | .msixWrite vf vector e => msixWrite vf vector e

/-! ### Turns -/

/-- One entry of the schedule, when no unit is in progress. -/
def runTurn (t : Turn) (s : State) : Host.Outcome State Fault Refusal :=
  match t with
  | .act a | .amid a _ _ => startAct a s
  | .race l => raceActs l s
  | .note n => run (noteEffect n) s

end Sys2Proof.Machine
end

