-- ==== Sys2Proof/Machine/Step.lean ====
section
/-!
DEFINITION. One step of the machine: a unit in progress goes on; else the schedule's next entry; else an event that is due; else
the next word of the stream that is granted its engine (log 5: DESIGN CHOICE). What waits for a tile on the move does not happen yet
(R436).
-/
namespace Sys2Proof.Machine
open Sys2Proof

/-- A turn that has met a tile on the move at a frame, which is pulled; where the tile has moved beyond every route the turn waits for one
(R444). -/
def heldUp (w : Option Turn) (f : Nat) (s : State) : State :=
  settle s (pullFrame f (if s.beyond f then { s with strays := (f, w) :: s.strays } else s))

/-- R436: where what a step does in turn `w` has met a tile on the move by its physical address, it does not happen, the tile is pulled, and
`other` happens instead (log 29: DEDUCED). -/
def orAwait (w : Option Turn) (s : State) (o : Host.Outcome State Fault Refusal) (other : State → Host.Outcome State Fault Refusal) :
    Host.Outcome State Fault Refusal :=
  match o with
  | .next t => match t.awaits with
    | some f => other (heldUp w f s)
    | none => .next t
  | o => o

/-- The next word of the stream that is granted its engine. -/
def stepGrant (s : State) : Host.Outcome State Fault Refusal :=
  match grant s with
  | some (a, t) => orAwait none s (runAgent a t) fun s => .next { s with cur := t.cur }
  | none => .next s

/-- One step. A unit that waits for a tile begins again when its stream has the engine, an entry of the schedule at the end of it. -/
def step (s : State) : Host.Outcome State Fault Refusal :=
  let w := s.turnNow
  let s := tick s
  match s.lock, s.tape with
  | some a, .amid b views rows :: r =>
    orAwait w s (amidAct a b views rows { s with tape := r }) fun s => .next { s with tape := r ++ [.act b] }
  | some a, _ =>
    if ready a s then orAwait w s (runAgent a s) fun s => .next { s with lock := none } else .next { s with lock := none }
  | none, t :: r => orAwait w s (runTurn t { s with tape := r }) fun s => .next { s with tape := r ++ [t] }
  | none, [] =>
    match autoNext s with
    | some a => orAwait w s (a.exec s) stepGrant
    | none => stepGrant s

/-- The stream whose section a table word is placed in: the first that decodes it (R95). -/
noncomputable def wordStream (w : Nat) : StreamId := match decodeAny w with | some (u, _) => u | none => .sq

/-- The words that carry a table word: a VE word without its stop bit is followed by `p.pclr p0` with one, so that it is a
group (R97). -/
noncomputable def wordCode (w : Nat) : List (BitVec 32) :=
  if wordStream w = .ve ∧ w / 2147483648 % 2 = 0 then [BitVec.ofNat 32 w, 0xE8001800#32] else [BitVec.ofNat 32 w]

/-- The machine with a table word where its next step fetches: context slot 0 of core 0 runs with the word at byte 0 of its
stream's section, as though an image that holds it had been bound (log 5: DESIGN CHOICE). -/
noncomputable def State.withFetchWord (s : State) (nbits w : Nat) : State :=
  let w := w % 2 ^ nbits % 4294967296
  let u := wordStream w
  let c := s.ctx 0
  { s.setCtx 0 { c with
      st := .run, halt := none, preempt := false, sqHalt := none, xlHalt := none, xsHalt := none, binding := none
      r := (c.r.modStream u fun st =>
        { st with code := wordCode w, pc := 0, pfxImm := none, pfxOrd := none, pfxLen := 0, retired := false
                  wait := none, drained := false }) } with
    lock := some ⟨0, 0, u⟩, tape := [] }

end Sys2Proof.Machine
end

