-- ==== Sys2Proof/Safety.lean ====
section
/-!
DEFINITION. What a safe run is, and the words in which claims are stated: the machine goes on; a claim about a run says that no step
of it ends in a fault or a refusal.
-/
namespace Sys2Proof.Machine
open Sys2Proof

/-- The state after an outcome, where there is one. -/
def nextOf (o : Host.Outcome State Fault Refusal) : Option State := match o with | .next s => some s | _ => none

/-- Whether an outcome is a next state. -/
def goesOn (o : Host.Outcome State Fault Refusal) : Bool := (nextOf o).isSome

/-- `k` steps from a state all go on. -/
def safeFor : Nat → State → Bool
  | 0, _ => true
  | k + 1, s => match step s with | .next t => safeFor k t | _ => false

/-- Memory and buffers have their canonical form and no write of a step is pending (the invariant of every step). -/
def State.Wf (s : State) : Bool := s.mem.wf && s.buf.wf && s.wbuf.isEmpty && s.bbuf.isEmpty && s.stuck.isNone

/-! ### Words for claims -/

/-- Between two steps: no write of a step is pending and nothing has stopped the machine. -/
def State.calm (s : State) : Prop := s.wbuf = [] ∧ s.bbuf = [] ∧ s.stuck = none

/-- The prefixes that stream `u` has latched fit the running word (R105). -/
def State.fits (s : State) (u : StreamId) (imm : Bool) (ord : Nat) : Prop := (s.c.stream u).unfit imm ord = false

/-- The outcome of a step whose word of stream `u` has changed `s` into `t` and goes on at `pc`. -/
def State.goesTo (s : State) (u : StreamId) (pc : Nat) (t : State) : Host.Outcome State Fault Refusal :=
  .next (settle s (endUnit s.ck u pc t))

/-- The same, at the next address. -/
def State.onward (s : State) (u : StreamId) (t : State) : Host.Outcome State Fault Refusal := s.goesTo u (s.c.stream u).next t

/-- The outcome of a step that ends in a trap of stream `u` (R395), with the word's changes `t` to `s`. -/
def State.traps (s : State) (u : StreamId) (c : Cause) (code faddr : Nat) (t : State) : Host.Outcome State Fault Refusal :=
  .next (settle s (takeTrap s.ck u c code faddr 0 0 true t))

/-- The outcome of a step whose word of stream `u` waits, with nothing else changed (R15). -/
def State.waits (s : State) (u : StreamId) (w : Wait) : Host.Outcome State Fault Refusal := .next (blockOn s.ck u w s)

/-- The parts of the running context that a word of SQ leaves unless its rule says otherwise, and every other context. -/
def State.keepsForSq (s t : State) : Prop :=
  t.who = s.who ∧ (∀ k, k ≠ s.ck → t.ctx k = s.ctx k)
    ∧ ({ t.c.r with s := s.c.r.s, streams := s.c.r.streams, pend := s.c.r.pend } : Regs) = s.c.r
    ∧ ∀ u, u ≠ .sq → t.c.stream u = s.c.stream u

/-- Words of SQ that stop with MEM_UE found by a unit: the stop has an entry in the die's error log, and ELOG names it (R398, R448). -/
def State.logsMemUe (s : State) (unit : Nat) (l : List Instr) : Prop :=
  let e := errorLog (dieOf s.ck) 0 unit (whoOf (coreOf s.ck) (s.ck % 4)) s.c.linst.toNat 0 s
  e.2.stuck = none → ∀ i ∈ l, exec i s = .next (settle s (takeTrap s.ck .sq .memUe 0 0 0 e.1 true e.2))

/-- Whether stream `u` is drained for the cut that a pre-emption has decided when it leaves the level (R280). -/
def Ctx.cutAt (c : Ctx) (u : StreamId) (lev : Nat) : Bool :=
  match c.r.cut with
  | some x => decide (x.lev = lev) && c.r.takesPart lev u.code
  | none => false

/-- A line of a partition has a place in a die's L2 without an eviction: the partition's copy is there, or one of its ways takes it
(R11, R410). -/
def State.l2Has (s : State) (die part line : Nat) : Prop :=
  (∃ l, s.l2Find die part line = some l) ∨ ∃ w, w < 24 ∧ s.l2Room die part line = (w, s)

/-- A word of stream `u` that is halted as on a translation fault, with nothing done: its line has no route (R444). -/
def State.routeless (s : State) (u : StreamId) (i : Instr) : Prop :=
  ∃ t h, exec i s = .next t ∧ (t.c.stream u).wait = some .page ∧ (t.c.stream u).pc = (s.c.stream u).pc ∧ t.c.sqHalt = some h ∧ h.why = 4
    ∧ t.mem = s.mem ∧ t.dies = s.dies ∧ t.cores = s.cores ∧ t.c.r.s = s.c.r.s

/-- A byte of memory as a die's cores see it for a partition: the die L2's copy of its line, or else the home's byte. -/
def State.seen (s : State) (die part key : Nat) : BitVec 8 :=
  match s.l2Find die part (key / 128) with
  | some l => BitVec.ofNat 8 (lineBytes l.data (key % 128) 1)
  | none => s.mem.read key

/-! ### Words for claims about VE -/

/-- The rows of VWIN lie in the context's CB window (R18, R160). -/
def State.rowsIn (s : State) : Prop := inWindow s.c 1 (rowOff s.c.r.ve.vwin.toNat 0) 32768 = true

/-- Row v[k] holds the 256 bytes `x`, none of them poisoned. -/
def State.rowHas (s : State) (k x : Nat) : Prop :=
  s.rowsIn ∧ winRead s.ck 1 (rowOff s.c.r.ve.vwin.toNat (s.row k)) 256 s = (x, false)

/-- The lanes of 256 bytes under VSHAPE (R158, R159). -/
def State.lanes (s : State) (x : Nat) : List Nat := splitBits s.veTy.width s.veTy.lanes x

/-- Between two steps, with no trap in the words of the group so far, and no race that shows a row read what stood there before
(log 32: DESIGN CHOICE). -/
def State.veReady (s : State) : Prop := s.calm ∧ s.c.r.ve.group.trap = none ∧ s.early = []

/-- The outcome of a word that adds `o` to the running group in its slot of R163: the group goes on at the next word, or ends with
it (`stop`) and commits (R162). -/
def State.veJoins (s : State) (stop : Nat) (slot : VeSlot) (o : VeOut) : Host.Outcome State Fault Refusal :=
  let g := s.c.r.veGroup
  let n := match slot with | .a => min g.aslots 1 | .s => 2 | .m => 3
  let t := s.modRegs s.ck fun r => { r with ve := { r.ve with group := { g with
    count := g.count + 1
    aslots := if slot = .a then g.aslots + 1 else g.aslots
    effs := g.effs ++ o.effs.map fun e => (n, e)
    flags := g.flags ||| o.flags
    ctl := if o.ctl = .none then g.ctl else o.ctl } } }
  .next (if stop = 0 then { t.modStream s.ck .ve fun st => { st with pfxLen := st.pfxLen + 1 } with lock := some s.who }
    else settle s (veCommit s.ck t))

/-- An instruction that makes the running group, whose wait is met, trap at its end, having done nothing: the context halts with the
cause at the group's first word (R162, R167). -/
def State.veTraps (s : State) (c : Cause) (i : Instr) : Prop :=
  s.c.halt = none → (s.c.stream .ve).cause = 0 → veBlocked s.ck s s.c.r.ve.group.ctl = none →
    ∃ t, exec i s = .next t ∧ (t.ctx s.ck).st = .halting ∧ (t.ctx s.ck).halt = some ⟨2, c.code, true, 0, 0, 0, 0⟩
      ∧ ((t.ctx s.ck).stream .ve).pc = (s.c.stream .ve).pc ∧ ((t.ctx s.ck).stream .ve).cause = c.code
      ∧ (t.ctx s.ck).r.ve = { s.c.r.ve with group := {} }

/-! ### Words for claims about ME -/

/-- Between two steps of a well-formed machine, with nothing of ME in flight: no step drains or stands at a row, no buffer word is
poisoned, no platen reports a parity error, INV does not trap, the turn answers at once (log 6: DESIGN CHOICE), and no race shows a row
what stood there before (log 32: DESIGN CHOICE). -/
def State.meQuiet (s : State) : Prop :=
  s.Wf = true ∧ s.slow = false ∧ s.par = none ∧ s.rows = none ∧ s.c.me.inve = none ∧ s.bpoison = [] ∧ s.platenPar = [] ∧ s.c.r.invTrap .me = false
    ∧ s.c.me.drains = [] ∧ s.c.me.rowdone = 0 ∧ s.c.me.stepFlags = 0 ∧ s.c.me.popped = none ∧ s.early = []

/-- A step of ME from `s` to `t` that writes the 4-byte elements `l` (buffer key, value) and nothing else, raises the flags that `f` names
and no others, and goes on at the next word; what it took from the feed FIFOs is said beside it. -/
def State.meDoes (s t : State) (l : List (Nat × Nat)) (f : Nat → Prop) : Prop :=
  (t.c.stream .me).pc = (s.c.stream .me).next
  ∧ (∀ b, b < 6 → (t.c.r.flags.getLsbD b = true ↔ s.c.r.flags.getLsbD b = true ∨ f b))
  ∧ ({ t.c.r with streams := s.c.r.streams, flags := s.c.r.flags, ff := s.c.r.ff } : Regs) = s.c.r
  ∧ (∀ u, u ≠ .me → t.c.stream u = s.c.stream u) ∧ t.who = s.who ∧ (∀ k, k ≠ s.ck → t.ctx k = s.ctx k) ∧ t.mem = s.mem
  ∧ (∀ p ∈ l, (t.bufRead p.1 4).1 = p.2 % 2 ^ 32)
  ∧ ∀ k, (∀ p ∈ l, k < p.1 ∨ p.1 + 4 ≤ k) → t.buf.read k = s.buf.read k

/-- An instruction of ME that halts its context with a cause and changes no register of ME (R203, R215). -/
def State.meTraps (s : State) (c : Cause) (i : Instr) : Prop :=
  s.c.halt = none → s.c.r.pend = none → (s.c.stream .me).cause = 0 →
    ∃ t, exec i s = .next t ∧ (t.ctx s.ck).st = .halting ∧ (t.ctx s.ck).halt = some ⟨2, c.code, true, 0, 0, 0, 0⟩
      ∧ ((t.ctx s.ck).stream .me).pc = (s.c.stream .me).pc ∧ ((t.ctx s.ck).stream .me).cause = c.code
      ∧ (t.ctx s.ck).r.me = s.c.me ∧ t.mem = s.mem ∧ t.buf = s.buf

/-! ### Words for claims about the device -/

/-- `n` bytes at a home address. -/
def State.word (s : State) (a n : Nat) : Nat := (s.homeRead a n).1

/-- `n` bytes of DRAM from an address, its channel in service (R453, R457). -/
def State.inDram (s : State) (a n : Nat) : Prop := a + n ≤ dramEnd ∧ s.channelOff a = false

/-- The bytes outside the ranges (address, length) of `l` are those of `s`. -/
def State.leaves (s t : State) (l : List (Nat × Nat)) : Prop :=
  ∀ k, (∀ x ∈ l, k < x.1 ∨ x.1 + x.2 ≤ k) → t.mem.read k = s.mem.read k

/-- The frame map of a partition's migration (R430), and a frame's place in it. -/
def State.mapAt (s : State) (part : Nat) : Nat := (s.part part).ma.mbase.toNat / 65536 * 65536
def State.mapPlace (s : State) (part frame : Nat) : Nat := s.mapAt part + 8 * frame

/-- The frame map lies in DRAM in service, in frames that do not move; no active migration has another. -/
def State.mapIn (s : State) (part : Nat) : Prop :=
  s.mapAt part + 8 * 9437184 ≤ dramEnd ∧ (s.mapBase = none ∨ s.mapBase = some (s.mapAt part))
    ∧ ∀ f, f < 9437184 → s.channelOff (s.mapPlace part f) = false ∧ s.frameState (s.mapPlace part f / 65536) < 2 ^ 62

/-- A frame is none of those of the frame map. -/
def State.offMap (s : State) (part f : Nat) : Prop := f * 65536 + 65536 ≤ s.mapAt part ∨ s.mapAt part + 8 * 9437184 ≤ f * 65536

/-- A tile's entry lies in DRAM in service, in a frame that does not move, outside the frame map; its frame is one of the package's
(R430). -/
def State.tileIn (s : State) (part tensor tile : Nat) : Prop :=
  s.inDram (s.tileAt part tensor tile) 16 ∧ s.frameState (s.tileAt part tensor tile / 65536) < 2 ^ 62
    ∧ teFrame (s.tileEntry part tensor tile) < 9437184
    ∧ (s.tileAt part tensor tile + 16 ≤ s.mapAt part ∨ s.mapAt part + 8 * 9437184 ≤ s.tileAt part tensor tile)

/-- Context `ck` of `s` is one that a pre-emption request reaches, and `t` shows it. -/
def State.preempts (s t : State) (ck : Nat) : Prop :=
  (s.ctx ck).st = .run ∨ (s.ctx ck).st = .gated → (t.ctx ck).st = .halting ∧ (t.ctx ck).preempt = true

end Sys2Proof.Machine
end

