-- ==== Sys2Proof/Certificates/Slice0/Obligations.lean ====
section
/-!
DEFINITION. The statements for the provers, one definition each: encodings, the step, reset, and the words of every stream and the
events of the machine, by family. A docstring names the rules of the spec, or the log entry where a choice is the model's.
-/
open Sys2Proof Sys2Proof.Machine

/-! ### Integer words of SQ (R106, R111 to R115) -/

/-- R111, R112: the result of every register form of SQ's arithmetic, in s[sd]; nothing else changes but the stream's place
(R104). -/
def Obligations.SqRegisterFormsWriteTheirResult : Prop :=
  ∀ (s : State) (sd sa sb : Nat), s.calm → s.fits .sq false 0 →
    let a := sGet s sa
    let b := sGet s sb
    let out (v : BitVec 64) := s.onward .sq (sSet sd v s)
    exec (.add sd sa sb) s = out (a + b) ∧ exec (.sub sd sa sb) s = out (a - b)
    ∧ exec (.and sd sa sb) s = out (a &&& b) ∧ exec (.or sd sa sb) s = out (a ||| b)
    ∧ exec (.xor sd sa sb) s = out (a ^^^ b)
    ∧ exec (.sll sd sa sb) s = out (a <<< (b.toNat % 64))
    ∧ exec (.srl sd sa sb) s = out (a >>> (b.toNat % 64))
    ∧ exec (.sra sd sa sb) s = out (a.sshiftRight (b.toNat % 64))
    ∧ exec (.slt sd sa sb) s = out (if a.toInt < b.toInt then 1 else 0)
    ∧ exec (.sltu sd sa sb) s = out (if a.toNat < b.toNat then 1 else 0)
    ∧ exec (.min sd sa sb) s = out (if a.toInt < b.toInt then a else b)
    ∧ exec (.max sd sa sb) s = out (if a.toInt < b.toInt then b else a)
    ∧ exec (.minu sd sa sb) s = out (if a.toNat < b.toNat then a else b)
    ∧ exec (.maxu sd sa sb) s = out (if a.toNat < b.toNat then b else a)
    ∧ exec (.sextI8 sd sa) s = out ((a.setWidth 8).signExtend 64)
    ∧ exec (.sextI16 sd sa) s = out ((a.setWidth 16).signExtend 64)
    ∧ exec (.sextI32 sd sa) s = out ((a.setWidth 32).signExtend 64)
    ∧ exec (.zextN8 sd sa) s = out (BitVec.ofNat 64 (a.toNat % 2 ^ 8))
    ∧ exec (.zextN16 sd sa) s = out (BitVec.ofNat 64 (a.toNat % 2 ^ 16))
    ∧ exec (.zextN32 sd sa) s = out (BitVec.ofNat 64 (a.toNat % 2 ^ 32))
    ∧ exec (.mul sd sa sb) s = out (BitVec.ofNat 64 (a.toNat * b.toNat))
    ∧ exec (.mulh sd sa sb) s = out (BitVec.ofInt 64 (a.toInt * b.toInt / 2 ^ 64))
    ∧ exec (.mulhu sd sa sb) s = out (BitVec.ofNat 64 (a.toNat * b.toNat / 2 ^ 64))

/-- R111, R112: `clz`, `ctz` and `popc` count the leading zero, trailing zero and one bits, 64 leading and trailing ones of 0; the quotients
and remainders, with a divisor of 0 and the quotient that overflows as the table of R112 has them. -/
def Obligations.SqBitCountsAndDivisions : Prop :=
  (∀ (s : State) (sd sa : Nat), s.calm → s.fits .sq false 0 →
      let a := sGet s sa
      ∃ nl nt np : Nat,
        exec (.clz sd sa) s = s.onward .sq (sSet sd (BitVec.ofNat 64 nl) s)
        ∧ exec (.ctz sd sa) s = s.onward .sq (sSet sd (BitVec.ofNat 64 nt) s)
        ∧ exec (.popc sd sa) s = s.onward .sq (sSet sd (BitVec.ofNat 64 np) s)
        ∧ nl ≤ 64 ∧ (∀ i, i < nl → a.getLsbD (63 - i) = false) ∧ (nl < 64 → a.getLsbD (63 - nl) = true)
        ∧ nt ≤ 64 ∧ (∀ i, i < nt → a.getLsbD i = false) ∧ (nt < 64 → a.getLsbD nt = true)
        ∧ np = ((List.range 64).filter fun i => a.getLsbD i).length)
  ∧ (∀ (s : State) (sd sa sb : Nat), s.calm → s.fits .sq false 0 →
      let a := sGet s sa
      let b := sGet s sb
      let out (v : BitVec 64) := s.onward .sq (sSet sd v s)
      (b = 0 → exec (.div sd sa sb) s = out 0xFFFFFFFFFFFFFFFF#64 ∧ exec (.divu sd sa sb) s = out 0xFFFFFFFFFFFFFFFF#64
        ∧ exec (.rem sd sa sb) s = out a ∧ exec (.remu sd sa sb) s = out a)
      ∧ (b ≠ 0 → exec (.div sd sa sb) s = out (BitVec.ofInt 64 (a.toInt.tdiv b.toInt))
        ∧ exec (.divu sd sa sb) s = out (BitVec.ofNat 64 (a.toNat / b.toNat))
        ∧ exec (.rem sd sa sb) s = out (BitVec.ofInt 64 (a.toInt.tmod b.toInt))
        ∧ exec (.remu sd sa sb) s = out (BitVec.ofNat 64 (a.toNat % b.toNat)))
      ∧ (a = 0x8000000000000000#64 → b = 0xFFFFFFFFFFFFFFFF#64 →
        exec (.div sd sa sb) s = out 0x8000000000000000#64 ∧ exec (.rem sd sa sb) s = out 0))

/-- R114, R115: the immediate forms, X being IMM16 or its extension by a `pfx.imm` (R101), and the shifts by a count. -/
def Obligations.SqImmediateFormsWriteTheirResult : Prop :=
  ∀ (s : State) (sd sa imm sh : Nat), s.calm →
    let a := sGet s sa
    let x := sqImm s 16 imm true
    let out (v : BitVec 64) := s.onward .sq (sSet sd v s)
    (s.fits .sq true 0 →
      exec (.addi sd sa imm) s = out (a + x) ∧ exec (.andi sd sa imm) s = out (a &&& x)
      ∧ exec (.ori sd sa imm) s = out (a ||| x) ∧ exec (.xori sd sa imm) s = out (a ^^^ x)
      ∧ exec (.slti sd sa imm) s = out (if a.toInt < x.toInt then 1 else 0)
      ∧ exec (.sltiu sd sa imm) s = out (if a.toNat < x.toNat then 1 else 0)
      ∧ exec (.lui sd imm) s = out (BitVec.ofNat 64 (x.toNat * 2 ^ 16))
      ∧ exec (.orhi sd sa imm) s
          = out (BitVec.ofNat 64 (a.toNat % 2 ^ 32 + (sqImm s 16 imm false).toNat % 2 ^ 32 * 2 ^ 32)))
    ∧ (s.fits .sq false 0 →
      exec (.slli sd sa sh) s = out (a <<< sh) ∧ exec (.srli sd sa sh) s = out (a >>> sh)
      ∧ exec (.srai sd sa sh) s = out (a.sshiftRight sh))

/-- Whether an instruction has one of SQ's major opcodes 0x01 to 0x0B, and whether it has an extensible field. -/
def Sys2Proof.Machine.sqArith : Instr → Option Bool
  | .add .. | .sub .. | .and .. | .or .. | .xor .. | .sll .. | .srl .. | .sra .. | .slt .. | .sltu .. | .min .. | .max ..
  | .minu .. | .maxu .. | .sextI8 .. | .sextI16 .. | .sextI32 .. | .zextN8 .. | .zextN16 .. | .zextN32 .. | .clz .. | .ctz ..
  | .popc .. | .mul .. | .mulh .. | .mulhu .. | .div .. | .divu .. | .rem .. | .remu .. | .slli .. | .srli .. | .srai .. => some false
  | .addi .. | .andi .. | .ori .. | .xori .. | .slti .. | .sltiu .. | .lui .. | .orhi .. => some true
  | _ => none

/-- R113: the words of opcodes 0x01 to 0x0B raise no trap of their own and set no bit of FLAGS: they go on, and FLAGS, the slot and all
memory stand. -/
def Obligations.SqArithmeticRaisesNothing : Prop :=
  ∀ (i : Instr) (x : Bool) (s : State), sqArith i = some x → s.calm → s.fits .sq x 0 →
    ∃ t, exec i s = .next t ∧ flagsReg t.c.r = flagsReg s.c.r ∧ s.keepsForSq t
      ∧ t.c.st = s.c.st ∧ t.c.halt = s.c.halt ∧ t.mem = s.mem ∧ t.buf = s.buf

/-- R106: s0 reads as 0 and a write to it is discarded; a write to another register is what it reads, and leaves the others. -/
def Obligations.SqRegisterZeroIsHardWired : Prop :=
  ∀ (s : State) (n : Nat) (v : BitVec 64),
    sGet s 0 = 0 ∧ sSet 0 v s = s
    ∧ (n ≠ 0 → n < 32 → sGet (sSet n v s) n = v ∧ ∀ k, k ≠ n → sGet (sSet n v s) k = sGet s k)

/-- R104, R105: the end of a unit: the stream stands at the address it goes on at, its prefixes are gone, it waits for nothing but
the response of a memory instruction of its own (R107), and no other register of the context has changed. -/
def Obligations.UnitEndClearsPrefixes : Prop :=
  ∀ (s : State) (ck : Nat) (u : StreamId) (pc : Nat),
    let t := endUnit ck u pc s
    let st := (t.ctx ck).stream u
    let old := (s.ctx ck).stream u
    st.pc = pc ∧ st.pfxImm = none ∧ st.pfxOrd = none ∧ st.pfxLen = 0
    ∧ st.wait = (if u = .sq ∧ (s.ctx ck).r.pend.isSome then some .resp else none)
    ∧ { st with pc := old.pc, pfxImm := old.pfxImm, pfxOrd := old.pfxOrd, pfxLen := old.pfxLen, wait := old.wait } = old
    ∧ (∀ v, v ≠ u → (t.ctx ck).stream v = (s.ctx ck).stream v)
    ∧ { (t.ctx ck).r with streams := (s.ctx ck).r.streams } = (s.ctx ck).r
    ∧ (∀ k, k ≠ ck → t.ctx k = s.ctx k) ∧ t.lock = none ∧ t.mem = s.mem ∧ t.buf = s.buf

/-! ### Memory words of SQ (R116 to R123) -/

/-- R107, R118: a load that translates writes the extended value of its access to s[sd]; in a slow turn (log 6: DESIGN CHOICE) it waits for
its response, and only that it is in flight is new. -/
def Obligations.SqLoadsWriteTheirValue : Prop :=
  ∀ (s s1 s2 : State) (sd sa sb ty off key v : Nat), s.calm →
    let st := s.c.stream .sq
    let n := tyBytes ty
    let base := sGet s sa
    let reach (ea : BitVec 64) : Prop :=
      ea.toNat / 2 ^ 44 = base.toNat / 2 ^ 44 ∧ ea.toNat % n = 0
      ∧ runOp (flatKey (s.requester s.ck 0 0) ea.toNat n 1) s = (.ok key, s1)
    let load (ea : BitVec 64) : Prop := reach ea
      ∧ runOp (loadAt s.ck ea.toNat key n st.accCls st.accOrd st.accScope) s1 = (.ok v, s2) ∧ s2.stuck = none
    let out := s.onward .sq (sPut s.ck sd (tyExtend ty v) s2)
    let flight (ea : BitVec 64) := Host.Outcome.next (settle s (blockOn s.ck .sq .load
      (s1.modRegs s1.ck fun r => { r with pend := some (.load sd ea.toNat n ty st.accCls st.accOrd st.accScope) })))
    let ea := base + sqImm s 13 off true
    let eax := base + sGet s sb * BitVec.ofNat 64 n
    (s.slow = false →
      (s.fits .sq true 2 → load ea → exec (.ld sd sa ty off) s = out)
      ∧ (s.fits .sq false 2 → load eax → exec (.ldx sd sa sb ty) s = out))
    ∧ (s.slow = true → s1.stuck = none →
      (s.fits .sq true 2 → reach ea → exec (.ld sd sa ty off) s = flight ea)
      ∧ (s.fits .sq false 2 → reach eax → exec (.ldx sd sa sb ty) s = flight eax))

/-- R118: a store that translates makes its access with the low bytes of s[sv]. -/
def Obligations.SqStoresMakeTheirAccess : Prop :=
  ∀ (s s1 s2 : State) (sv sa sb ty off key : Nat), s.calm →
    let st := s.c.stream .sq
    let n := tyBytes ty
    let base := sGet s sa
    let store (ea : BitVec 64) : Prop :=
      ea.toNat / 2 ^ 44 = base.toNat / 2 ^ 44 ∧ ea.toNat % n = 0
      ∧ runOp (flatKey (s.requester s.ck 0 0) ea.toNat n 2) s = (.ok key, s1)
      ∧ runOp (storeAt s.ck key n ((sGet s sv).toNat % 2 ^ (8 * n)) st.accCls st.accOrd st.accScope) s1 = (.ok (), s2)
      ∧ s2.stuck = none
    let out := s.onward .sq s2
    (s.fits .sq true 3 → store (base + sqImm s 13 off true) → exec (.st sv sa ty off) s = out)
    ∧ (s.fits .sq false 3 → store (base + sGet s sb * BitVec.ofNat 64 n) → exec (.stx sv sa sb ty) s = out)

/-- R116, R119: an address that carries into the tensor field, or is no multiple of the width, traps before any access, and FADDR names
it (R397). -/
def Obligations.SqBadAddressesTrap : Prop :=
  ∀ (s : State) (sd sa sb ty off w ord sc : Nat), s.calm →
    let n := tyBytes ty
    let base := sGet s sa
    let bad (ea : BitVec 64) (imm : Bool) (ld st : Instr) : Prop :=
      (ea.toNat / 2 ^ 44 ≠ base.toNat / 2 ^ 44 →
        (s.fits .sq imm 2 → exec ld s = s.traps .sq .flatCarry 0 ea.toNat s)
        ∧ (s.fits .sq imm 3 → exec st s = s.traps .sq .flatCarry 0 ea.toNat s))
      ∧ (ea.toNat / 2 ^ 44 = base.toNat / 2 ^ 44 → ea.toNat % n ≠ 0 →
        (s.fits .sq imm 2 → exec ld s = s.traps .sq .misalign 0 ea.toNat s)
        ∧ (s.fits .sq imm 3 → exec st s = s.traps .sq .misalign 0 ea.toNat s))
    bad (base + sqImm s 13 off true) true (.ld sd sa ty off) (.st sd sa ty off)
    ∧ bad (base + sGet s sb * BitVec.ofNat 64 n) false (.ldx sd sa sb ty) (.stx sd sa sb ty)
    ∧ (s.fits .sq false 1 → base.toNat % (if w = 1 then 8 else 4) ≠ 0 →
      ∀ i ∈ ([.amoAdd sd sa sb w ord sc, .amoAnd sd sa sb w ord sc, .amoOr sd sa sb w ord sc, .amoXor sd sa sb w ord sc,
          .amoMin sd sa sb w ord sc, .amoMax sd sa sb w ord sc, .amoMinu sd sa sb w ord sc, .amoMaxu sd sa sb w ord sc,
          .amoSwap sd sa sb w ord sc, .amoCas sd sa sb w ord sc] : List Instr),
        exec i s = s.traps .sq .misalign 0 base.toNat s)

/-- R119, R314: a store within a line that the die's L2 has room for changes the bytes a partition sees there and no others, a load
after it answers what was stored, and a load changes no byte. -/
def Obligations.StoresAndLoadsOfOneLineAgree : Prop :=
  (∀ (s t : State) (ck key n v cls : Nat), s.mem.wf = true → s.wbuf = [] → 0 < n → key % 128 + n ≤ 128 → s.channelOff key = false →
      let part := (s.ctx ck).bind.part
      s.l2Has (dieOf ck) part (key / 128) →
      runOp (storeAt ck key n v cls 0 0) s = (.ok (), t) →
      t.mem = s.mem ∧ t.wbuf = [] ∧
      ∀ k, t.seen (dieOf ck) part k
        = if key ≤ k ∧ k < key + n then BitVec.ofNat 8 (v / 2 ^ (8 * (k - key))) else s.seen (dieOf ck) part k)
  ∧ (∀ (s t u : State) (ck ea key n v cls cls' w : Nat), 0 < n → key % 128 + n ≤ 128 → s.channelOff key = false →
      s.l2Has (dieOf ck) (s.ctx ck).bind.part (key / 128) →
      runOp (storeAt ck key n v cls 0 0) s = (.ok (), t) → runOp (loadAt ck ea key n cls' 0 0) t = (.ok w, u) →
      w = v % 2 ^ (8 * n))
  ∧ (∀ (s t : State) (ck ea key n cls w : Nat), s.mem.wf = true → s.wbuf = [] → 0 < n → key % 128 + n ≤ 128 → s.channelOff key = false →
      let part := (s.ctx ck).bind.part
      s.l2Has (dieOf ck) part (key / 128) → runOp (loadAt ck ea key n cls 0 0) s = (.ok w, t) →
      t.mem = s.mem ∧ t.wbuf = [] ∧ ∀ k, t.seen (dieOf ck) part k = s.seen (dieOf ck) part k)

/-- R120 to R123: an atomic that its home performs writes the old value to s[sd], sign-extended from 32 bits, and drops the line from
L1D; one on host memory that is no add, swap or comparison at system scope traps, in a slow turn (log 6: DESIGN CHOICE) as the response to
an instruction that has issued (R107); at die scope it replaces the bytes the die sees by the result of R120, and a comparison that fails leaves them. -/
def Obligations.SqAtomics : Prop :=
  (∀ (s s1 s2 : State) (sd sa sb w ord scope key old : Nat), s.calm → s.slow = false → s.fits .sq false 1 → sd < 32 →
      let n := if w = 1 then 8 else 4
      let ea := sGet s sa
      ea.toNat % n = 0 →
      runOp (flatKey (s.requester s.ck 0 0) ea.toNat n 4) s = (.ok key, s1) → (1 ≤ ord → s1.noRoute s.ck scope allClasses = false) →
      let s1' := if 2 ≤ ord then release s.ck scope allClasses s1 else s1
      let amo (op : Nat) : Prop := (homeKind key = 2 → scope = 4 ∧ (op = 0 ∨ op = 8 ∨ op = 9)) ∧
        runOp (amoAt s.ck s.c.bind.part key n op (sGet s sb).toNat (sGet s sd).toNat (s.c.stream .sq).accCls scope) s1' = (.ok old, s2)
        ∧ s2.stuck = none
      let done (i : Instr) : Prop := ∃ t, exec i s = .next t
        ∧ sGet t sd = (if sd = 0 then 0 else if w = 1 then BitVec.ofNat 64 old else (BitVec.ofNat 32 old).signExtend 64)
        ∧ (∀ k, k ≠ sd → sGet t k = sGet s2 k) ∧ (t.c.stream .sq).pc = (s.c.stream .sq).next ∧ t.c.r.pend = none
        ∧ ∀ l ∈ (t.core (coreOf s.ck)).l1, l.line ≠ key / 128
      (amo 0 → done (.amoAdd sd sa sb w ord scope)) ∧ (amo 1 → done (.amoAnd sd sa sb w ord scope))
      ∧ (amo 2 → done (.amoOr sd sa sb w ord scope)) ∧ (amo 3 → done (.amoXor sd sa sb w ord scope))
      ∧ (amo 4 → done (.amoMin sd sa sb w ord scope)) ∧ (amo 5 → done (.amoMax sd sa sb w ord scope))
      ∧ (amo 6 → done (.amoMinu sd sa sb w ord scope)) ∧ (amo 7 → done (.amoMaxu sd sa sb w ord scope))
      ∧ (amo 8 → done (.amoSwap sd sa sb w ord scope)) ∧ (amo 9 → done (.amoCas sd sa sb w ord scope)))
  ∧ (∀ (s s1 : State) (sd sa sb w ord scope key : Nat), s.calm → s.fits .sq false 1 →
      let n := if w = 1 then 8 else 4
      let ea := sGet s sa
      ea.toNat % n = 0 → homeKind key = 2 →
      runOp (flatKey (s.requester s.ck 0 0) ea.toNat n 4) s = (.ok key, s1) →
      let s1' := if 2 ≤ ord then release s.ck scope allClasses s1 else s1
      let stops (i : Instr) : Prop :=
        (s.slow = false → s1.stuck = none → exec i s = s.traps .sq .atomicHost 0 ea.toNat s1)
        ∧ (s.slow = true → (1 ≤ ord → s1.noRoute s.ck scope allClasses = false) → s1'.stuck = none → exec i s = s.onward .sq
            (s1'.modRegs s.ck fun r => { r with pend := some (.fault .atomicHost ea.toNat (s.c.stream .sq).pc) }))
      stops (.amoAnd sd sa sb w ord scope) ∧ stops (.amoOr sd sa sb w ord scope) ∧ stops (.amoXor sd sa sb w ord scope)
      ∧ stops (.amoMin sd sa sb w ord scope) ∧ stops (.amoMax sd sa sb w ord scope) ∧ stops (.amoMinu sd sa sb w ord scope)
      ∧ stops (.amoMaxu sd sa sb w ord scope)
      ∧ (scope ≠ 4 →
        stops (.amoAdd sd sa sb w ord scope) ∧ stops (.amoSwap sd sa sb w ord scope) ∧ stops (.amoCas sd sa sb w ord scope)))
  ∧ (∀ (s t : State) (ck part key n op b x cls scope old : Nat), scope < 2 → n = 4 ∨ n = 8 → key % n = 0 → homeKind key ≠ 2 →
      s.mem.wf = true → s.wbuf = [] → s.channelOff key = false → s.l2Has (dieOf ck) part (key / 128) →
      runOp (amoAt ck part key n op b x cls scope) s = (.ok old, t) →
      let now (y : State) (i : Nat) : BitVec 8 := y.seen (dieOf ck) part (key + i)
      let word (y : State) : Nat := (List.range n).foldl (fun a i => a + (now y i).toNat * 2 ^ (8 * i)) 0
      old = word s ∧ t.mem = s.mem
      ∧ (op ≤ 8 → word t = [(old + b) % 2 ^ (8 * n), old &&& b % 2 ^ (8 * n), old ||| b % 2 ^ (8 * n), old ^^^ b % 2 ^ (8 * n),
          (if (BitVec.ofNat (8 * n) old).toInt < (BitVec.ofNat (8 * n) b).toInt then old else b % 2 ^ (8 * n)),
          (if (BitVec.ofNat (8 * n) old).toInt < (BitVec.ofNat (8 * n) b).toInt then b % 2 ^ (8 * n) else old),
          (if old < b % 2 ^ (8 * n) then old else b % 2 ^ (8 * n)), (if old < b % 2 ^ (8 * n) then b % 2 ^ (8 * n) else old),
          b % 2 ^ (8 * n)][op]?.getD 0)
      ∧ (op = 9 → word t = if old = x % 2 ^ (8 * n) then b % 2 ^ (8 * n) else old))

/-! ### Synchronisation words of SQ (R124 to R133) -/

/-- R124, R315, R316, R444: the fences release and acquire at their scope; a release cleans the named lines of the die L2, and an acquire
drops them. One that must clean a line whose home no port reaches halts first. -/
def Obligations.SqFencesReleaseAndAcquire : Prop :=
  (∀ (s : State) (scope mask : Nat), s.calm → s.slow = false → s.fits .sq false 0 →
      let m := BitVec.ofNat 16 mask
      let rel := release s.ck scope m s
      let acts (i : Instr) (u : State) : Prop := ∃ t, exec i s = .next t
        ∧ t.cores = u.cores ∧ t.dies = u.dies ∧ t.mem = (settle s u).mem ∧ t.pkg = u.pkg
        ∧ (t.c.stream .sq).pc = (s.c.stream .sq).next ∧ s.keepsForSq t ∧ ∀ k, sGet t k = sGet s k
      exec (.fenceC mask) s = s.onward .sq s
      ∧ (s.noRoute s.ck scope m = false →
        exec (.fenceRel scope mask) s = s.onward .sq rel
        ∧ acts (.fenceAcq scope mask) (acquire s.ck scope m s)
        ∧ acts (.fenceAcqrel scope mask) (acquire s.ck scope m rel))
      ∧ (s.noRoute s.ck scope m = true → ∀ i ∈ ([.fenceRel scope mask, .fenceAcq scope mask, .fenceAcqrel scope mask] : List Instr),
        s.routeless .sq i))
  ∧ (∀ (s : State) (ck scope : Nat) (m : BitVec 16), s.noRoute ck scope m = false →
      let rel := release ck scope m s
      let acq := acquire ck scope m s
      (2 ≤ scope → ∀ l ∈ (rel.die (dieOf ck)).l2, (l.cmask &&& m) ≠ 0 → covers scope l.line = true → l.dirty = 0)
      ∧ (1 ≤ scope → (acq.core (coreOf ck)).l1 = (s.core (coreOf ck)).l1.filter fun l => !m.getLsbD l.cls)
      ∧ (2 ≤ scope → (acq.die (dieOf ck)).l2
          = (s.die (dieOf ck)).l2.filter fun l => !(decide ((l.cmask &&& m) ≠ 0) && covers scope l.line))
      ∧ (scope < 2 → acq.dies = s.dies ∧ rel = s) ∧ (scope = 0 → acq = s))

/-- R24, R125 to R127: the semaphore words count, wait and read; a remote signal releases, is delivered, and answers its status.
That NO_TARGET comes before WORLD, and that every slot state but FREE and BINDING counts as bound, is the model's choice (log 33: DESIGN
CHOICE). -/
def Obligations.SqSemaphoreWords : Prop :=
  (∀ (s : State) (scope n : Nat), s.calm → s.fits .sq false 0 → n < 64 →
      let rel := release s.ck scope allClasses s
      let c := vget 0 s.c.r.sem n
      (c ≠ 0xFFFF#16 →
        exec (.sqSemSig scope n) s = s.onward .sq (rel.modRegs s.ck fun r => { r with sem := vset r.sem n (c + 1) }))
      ∧ (c = 0xFFFF#16 →
        exec (.sqSemSig scope n) s
          = s.traps .sq .semOverflow 0 0 (endUnit s.ck .sq (s.c.stream .sq).next rel))
      ∧ (c = 0 → exec (.sqSemWait scope n) s = s.waits .sq (.sem n))
      ∧ (c ≠ 0 →
        let taken := s.modRegs s.ck fun r => { r with sem := vset r.sem n (c - 1) }
        exec (.sqSemWait scope n) s = s.onward .sq (acquire s.ck scope allClasses taken)))
  ∧ (∀ (s : State) (sa sd n : Nat), s.calm → s.slow = false → s.fits .sq false 0 → sd < 32 → n < 64 →
      let rel := release s.ck 2 allClasses s
      let v := (sGet s sa).toNat
      let ck := v % 512 * 4 + v / 512 % 4
      let c := rel.ctx ck
      let target := v / 2 ^ 32 = 0 ∧ v / 2 ^ 11 % 32 = 0 ∧ v % 512 ≤ 383 ∧ c.st ≠ .free ∧ c.st ≠ .binding
        ∧ c.linst.toNat % 65536 = v / 65536 % 65536 ∧ c.bind.part = s.c.bind.part
      let world := s.c.bind.secure = false ∧ c.bind.secure = true
      ∃ t, exec (.semSigr sa sd n) s = .next t ∧ (t.c.stream .sq).pc = (s.c.stream .sq).next
        ∧ (¬ target → (sd ≠ 0 → sGet t sd = 1) ∧ vget 0 (t.ctx ck).r.sem n = vget 0 c.r.sem n)
        ∧ (target → world → (sd ≠ 0 → sGet t sd = 3) ∧ vget 0 (t.ctx ck).r.sem n = vget 0 c.r.sem n)
        ∧ (target → ¬ world → vget 0 c.r.sem n = 0xFFFF#16 →
            (sd ≠ 0 → sGet t sd = 2) ∧ vget 0 (t.ctx ck).r.sem n = 0xFFFF#16)
        ∧ (target → ¬ world → vget 0 c.r.sem n ≠ 0xFFFF#16 →
            (sd ≠ 0 → sGet t sd = 0) ∧ vget 0 (t.ctx ck).r.sem n = vget 0 c.r.sem n + 1)
        ∧ ∀ k, k ≠ sd → sGet t k = sGet s k)

/-- R25, R128 to R131, R133: the timeline words read and wait, and the barrier words initialise and wait at an object in AB; a poisoned
object stops the context (R448). -/
def Obligations.SqTimelineAndBarrierWords : Prop :=
  (∀ (s : State) (tl sa sd : Nat), s.calm → s.fits .sq false 0 →
      let t := s.timeline s.ck tl
      ((sGet s sa).toNat ≤ t.done.toNat → exec (.sqTlWait tl sa) s = s.onward .sq s)
      ∧ (t.done.toNat < (sGet s sa).toNat → exec (.sqTlWait tl sa) s = s.waits .sq (.tl tl (sGet s sa).toNat))
      ∧ exec (.tlRd tl sd) s = s.onward .sq (sSet sd t.done s)
      ∧ exec (.tlRdi tl sd) s = s.onward .sq (sSet sd t.issued s)
      ∧ exec (.tlErr tl sd) s = s.onward .sq (modTl s.ck tl (fun t => { t with err := false }) (sSet sd (if t.err then 1 else 0) s)))
  ∧ (∀ (s : State) (sa sb sd : Nat), s.calm → s.fits .sq false 0 →
      let off := (sGet s sa).toNat
      let v := (winRead s.ck 0 off 16 s).1
      let ok := off % 16 = 0 ∧ inWindow s.c 0 off 16 = true
      (ok → (winRead s.ck 0 off 16 s).2 = false →
        exec (.sqBarInit sa sb) s = s.onward .sq
          (winWrite s.ck 0 off 12 ((sGet s sb).toNat % 2 ^ 32 + (v / 2 ^ 64 + 1) % 2 ^ 32 * 2 ^ 64) s)
        ∧ (v % 2 ^ 32 ≤ v / 2 ^ 32 % 2 ^ 32 →
            exec (.sqBarWait sa sd) s = s.onward .sq (sSet sd (BitVec.ofNat 64 (v / 2 ^ 64 % 2 ^ 32)) s))
        ∧ (v / 2 ^ 32 % 2 ^ 32 < v % 2 ^ 32 → exec (.sqBarWait sa sd) s = s.waits .sq (.bar off)))
      ∧ (ok → (winRead s.ck 0 off 16 s).2 = true → s.logsMemUe 0 [.sqBarInit sa sb, .sqBarWait sa sd])
      ∧ (off % 16 ≠ 0 → exec (.sqBarInit sa sb) s = s.traps .sq .barAlign 0 0 s
          ∧ exec (.sqBarWait sa sd) s = s.traps .sq .barAlign 0 0 s)
      ∧ (off % 16 = 0 → inWindow s.c 0 off 16 = false → exec (.sqBarInit sa sb) s = s.traps .sq .bufRange 0 0 s
          ∧ exec (.sqBarWait sa sd) s = s.traps .sq .bufRange 0 0 s))

/-- R132: `rinv` drops the L1D lines of its range and makes no access; a length of 0 does nothing; a range that leaves its tensor traps. -/
def Obligations.SqRinvDropsItsRange : Prop :=
  ∀ (s : State) (sa sb : Nat), s.calm → s.fits .sq false 0 →
    let a := (sGet s sa).toNat
    let n := (sGet s sb).toNat
    (n = 0 → exec (.rinv sa sb) s = s.onward .sq s)
    ∧ (n ≠ 0 → (a + n - 1) / 2 ^ 44 = a / 2 ^ 44 →
      exec (.rinv sa sb) s = s.onward .sq (s.modCore (coreOf s.ck) fun c =>
        { c with l1 := c.l1.filter fun l => decide (l.flat < a / 128 ∨ (a + n - 1) / 128 < l.flat) }))
    ∧ (n ≠ 0 → (a + n - 1) / 2 ^ 44 ≠ a / 2 ^ 44 → exec (.rinv sa sb) s = s.traps .sq .flatCarry 0 0 s)

/-! ### Control flow and registers of SQ (R134 to R139, R150 to R156) -/

/-- R134: a conditional branch goes to PC + 4 × OFF16 when its condition holds, else to PC + 4. -/
def Obligations.SqBranches : Prop :=
  ∀ (s : State) (sa sb off : Nat), s.calm → s.fits .sq false 0 → off < 2 ^ 16 →
    let a := sGet s sa
    let b := sGet s sb
    let pc := (s.c.stream .sq).at
    let target : Nat := (((pc : Int) + 4 * (if off < 2 ^ 15 then (off : Int) else (off : Int) - 2 ^ 16)) % 2 ^ 32).toNat
    let out (p : Prop) [Decidable p] := s.goesTo .sq (if p then target else (pc + 4) % 2 ^ 32) s
    exec (.beq sa sb off) s = out (a = b) ∧ exec (.bne sa sb off) s = out (a ≠ b)
    ∧ exec (.blt sa sb off) s = out (a.toInt < b.toInt) ∧ exec (.bge sa sb off) s = out (b.toInt ≤ a.toInt)
    ∧ exec (.bltu sa sb off) s = out (a.toNat < b.toNat) ∧ exec (.bgeu sa sb off) s = out (b.toNat ≤ a.toNat)

/-- R135, R136, R275 to R277: jumps and calls go where their rule says and link; the loop words read, count and branch. -/
def Obligations.SqJumpsAndLoopWords : Prop :=
  (∀ (s : State) (sd sa off off14 : Nat), s.calm → s.fits .sq false 0 → off < 2 ^ 19 → off14 < 2 ^ 14 →
      let st := s.c.stream .sq
      let sx (n v : Nat) : Int := if v < 2 ^ (n - 1) then (v : Int) else (v : Int) - 2 ^ n
      let link := BitVec.ofNat 64 (st.at + 4)
      let dest := (sGet s sa + BitVec.ofInt 64 (sx 14 off14)).toNat
      let tab := (((st.at : Int) + 4 * sx 14 off14) % 2 ^ 32).toNat
      let n := st.fetch tab % 16
      let b (j : Nat) : Nat := st.fetch (tab + 4 + 4 * j)
      let g (j : Nat) : Nat := st.fetch (tab + 4 * n + 4 + 4 * j)
      let good := 1 ≤ n ∧ n ≤ 8 ∧ st.fetch tab / 16 = 0 ∧ (∀ j, j + 1 < n → b j < b (j + 1)) ∧ (∀ j, j < n → g j % 4 = 0)
        ∧ tab + 8 * n + 4 ≤ 4 * st.code.length
      let count := (sGet s sa).toNat
      exec (.jal sd off) s = s.goesTo .sq (((st.at : Int) + 4 * sx 19 off) % 2 ^ 32).toNat (sSet sd link s)
      ∧ (dest % 4 = 0 → dest < 2 ^ 32 → exec (.jalr sd sa off14) s = s.goesTo .sq dest (sSet sd link s))
      ∧ (dest % 4 ≠ 0 ∨ 2 ^ 32 ≤ dest → exec (.jalr sd sa off14) s = s.traps .sq .pcAlign 0 0 s)
      ∧ (good → ∀ j, j < n → count ≤ b j → (∀ k, k < j → b k < count) →
        exec (.jtab sd sa off14) s = s.goesTo .sq (g j) (sSet sd (BitVec.ofNat 64 j) s))
      ∧ (good → (∀ j, j < n → b j < count) → exec (.jtab sd sa off14) s = s.onward .sq (sSet sd 0xFFFFFFFFFFFFFFFF#64 s))
      ∧ (¬ good → exec (.jtab sd sa off14) s = s.traps .sq .jtabFmt 0 0 s))
  ∧ (∀ (s : State) (u : StreamId) (i rd it : Instr) (put : BitVec 32 → State) (d lev off : Nat), s.calm → s.fits u false 0 →
      lev < 6 → off < 2 ^ 16 →
      (u = .sq ∧ i = .sqLbr lev off ∧ rd = .lcRd d lev ∧ it = .lcIt d lev ∧ put = (fun v => sSet d (v.setWidth 64) s))
        ∨ (u = s.xu ∧ i = .xlsLbr lev off ∧ rd = .cLc d lev ∧ it = .cIt d lev ∧ put = fun v => cSet d v s) →
      let st := s.c.stream u
      let n := (vget 0 st.iter lev).toNat + 1
      let target := (((st.at : Int) + 4 * (if off < 2 ^ 15 then (off : Int) else (off : Int) - 2 ^ 16)) % 2 ^ 32).toNat
      (lev < s.c.r.levels.length →
        exec rd s = s.onward u (put (vget 0 s.c.r.lc lev)) ∧ exec it s = s.onward u (put (vget 0 st.iter lev))
        ∧ (n < (vget 0 s.c.r.lc lev).toNat + s.c.r.epi lev u.code →
          exec i s = s.goesTo u target (s.modStream s.ck u fun st =>
            { st with iter := vset st.iter lev (BitVec.ofNat 32 n), head := vset st.head lev target }))
        ∧ ((vget 0 s.c.r.lc lev).toNat + s.c.r.epi lev u.code ≤ n → (s.c.cutAt u lev = true → s.c.st ≠ .run) →
          ∃ t, exec i s = .next t ∧ (t.c.stream u).pc = st.next ∧ vget 1 (t.c.stream u).iter lev = 0
            ∧ (t.c.stream u).drained = (st.drained || s.c.cutAt u lev) ∧ vget true (t.c.stream u).inside lev = false
            ∧ { t.c.r with streams := s.c.r.streams } = s.c.r
            ∧ t.mem = s.mem ∧ t.buf = s.buf))
      ∧ (s.c.r.levels.length ≤ lev →
        exec i s = s.traps u .loopLev 0 0 s ∧ exec rd s = s.traps u .loopLev 0 0 s ∧ exec it s = s.traps u .loopLev 0 0 s))

/-- R150 to R153: the control registers that SQ reads, and those it writes, with the values that trap CR_VALUE (R49, R58, R151). -/
def Obligations.SqControlRegisters : Prop :=
  ∀ (s : State) (sd sa : Nat), s.calm → s.fits .sq false 0 →
    let st := s.c.stream .sq
    let v := (sGet s sa).toNat
    let rd (csel : Nat) (x : BitVec 64) : Prop := exec (.sqCrRd sd csel) s = s.onward .sq (sSet sd x s)
    let wr (csel : Nat) (ok : Prop) (t : State) : Prop :=
      (ok → exec (.sqCrWr sa csel) s = s.onward .sq t) ∧ (¬ ok → exec (.sqCrWr sa csel) s = s.traps .sq .crValue 0 0 s)
    rd 1 (st.cls.setWidth 64) ∧ rd 2 (st.rmode.setWidth 64) ∧ rd 3 (st.flush.setWidth 64) ∧ rd 4 (st.nbl.setWidth 64)
    ∧ rd 5 (BitVec.ofNat 64 (s.c.r.inve.toNat * 2 ^ 11 + s.c.r.flags.toNat)) ∧ rd 6 (s.c.r.budget.setWidth 64)
    ∧ rd 7 s.c.ctxbuf ∧ rd 8 (s.part s.c.bind.part).active.cbtab
    ∧ rd 9 (BitVec.ofNat 64 (s.c.linst.toNat * 2 ^ 32 + s.who.slot % 4 * 2 ^ 9 + s.who.core % 2 ^ 9)) ∧ rd 10 s.cycle
    ∧ wr 1 (v < 16) (s.modStream s.ck .sq fun st => { st with cls := BitVec.ofNat 4 v })
    ∧ wr 2 (v < 32 ∧ v % 8 ≤ 4) (s.modStream s.ck .sq fun st => { st with rmode := BitVec.ofNat 5 v })
    ∧ wr 3 (v < 64) (s.modStream s.ck .sq fun st => { st with flush := BitVec.ofNat 6 v })
    ∧ wr 4 (v < 2) (s.modStream s.ck .sq fun st => { st with nbl := BitVec.ofNat 2 v })
    ∧ wr 5 (v < 2 ^ 16 ∧ v / 2 ^ 6 % 2 ^ 5 = 0)
        (s.modRegs s.ck fun r => { r with flags := BitVec.ofNat 6 v, inve := BitVec.ofNat 5 (v / 2 ^ 11) })
    ∧ wr 6 (v ≤ 1000) (s.modRegs s.ck fun r => { r with budget := BitVec.ofNat 11 v })

/-- R154 to R156, R270: `trap` takes SW_TRAP with its code after its word; `end` retires its stream once the stream's outstanding work is
complete, and waits until then; `yield` changes nothing but the stream's place and the mark that it gives up its engine's next slot. -/
def Obligations.SystemWords : Prop :=
  ∀ (s : State) (code : Nat), s.calm →
    let yields (u : StreamId) : State := s.modStream s.ck u fun st => { st with yielded := true }
    let ends (u : StreamId) (i : Instr) (done : Prop) : Prop :=
      (done → ∃ t, exec i s = .next t ∧ (t.c.stream u).retired = true ∧ (t.c.stream u).pc = (s.c.stream u).pc
        ∧ (∀ v, v ≠ u → t.c.stream v = s.c.stream v) ∧ { t.c.r with streams := s.c.r.streams } = s.c.r ∧ t.mem = s.mem)
      ∧ (¬ done → exec i s = s.waits u .retire)
    (s.fits .sq false 0 →
      exec (.sqTrap code) s = s.traps .sq .swTrap code 0 (endUnit s.ck .sq (s.c.stream .sq).next s)
      ∧ exec .sqYield s = s.onward .sq (yields .sq)
      ∧ ends .sq .sqEnd ((∀ l ∈ s.c.r.cxQ.toList, l = []) ∧ s.c.r.asg.queue = [] ∧ s.c.r.asg.run = none))
    ∧ (s.fits s.xu false 0 →
      exec (.xlsTrap code) s = s.traps s.xu .swTrap code 0 (endUnit s.ck s.xu (s.c.stream s.xu).next s)
      ∧ exec .xlsYield s = s.onward s.xu (yields s.xu)
      ∧ ends s.xu .xlsEnd (if s.xu = .xs then s.c.r.xsQ = [] ∧ s.c.r.coll = [] else s.c.r.xlQ = []))
    ∧ (s.fits .me false 0 → s.c.r.me.drains = [] →
      exec (.meTrap code) s = s.traps .me .swTrap code 0 (endUnit s.ck .me (s.c.stream .me).next s)
      ∧ exec .meYield s = s.onward .me (yields .me) ∧ ends .me .meEnd True)
    ∧ (s.fits .me false 0 → s.c.r.me.drains ≠ [] →
      exec (.meTrap code) s = s.waits .me .drained ∧ exec .meEnd s = s.waits .me .retire)

/-- The prefixes that a word of SQ accepts (R110): whether it has an extensible field, and its orders (0 none, 1 class only, 2 a
read's, 3 a write's). -/
def Sys2Proof.Machine.sqPrefixes (i : Instr) : Option (Bool × Nat) :=
  match sqArith i with
  | some x => some (x, 0)
  | none => match i with
    | .ld .. => some (true, 2)
    | .st .. => some (true, 3)
    | .ldx .. => some (false, 2)
    | .stx .. => some (false, 3)
    | .amoAdd .. | .amoAnd .. | .amoOr .. | .amoXor .. | .amoMin .. | .amoMax .. | .amoMinu .. | .amoMaxu .. | .amoSwap ..
    | .amoCas .. | .cxCopy .. => some (false, 1)
    | .fenceC .. | .fenceAcq .. | .fenceRel .. | .fenceAcqrel .. | .sqSemSig .. | .sqSemWait .. | .semSigr .. | .sqTlWait ..
    | .tlRd .. | .tlRdi .. | .tlErr .. | .sqBarInit .. | .sqBarWait .. | .rinv .. | .beq .. | .bne .. | .blt .. | .bge .. | .bltu ..
    | .bgeu .. | .jal .. | .jalr .. | .jtab .. | .sqLbr .. | .lcRd .. | .lcIt .. | .cbPub .. | .cbPin .. | .cbUnpin .. | .lrPatch ..
    | .lrArm .. | .asgRun .. | .asgPld .. | .asgPst .. | .asgPget .. | .asgPput .. | .asgPfill .. | .asgWr .. | .asgRd .. | .cxProg ..
    | .sqCrRd .. | .sqCrWr .. | .sqTrap .. | .sqEnd | .sqYield => some (false, 0)
    | _ => none

/-- R101 to R105: a prefix word latches its field for the next word; a word that a latched prefix does not fit traps ILL_PFX. -/
def Obligations.PrefixesLatchOrTrap : Prop :=
  (∀ (s : State) (imm cls ord scope : Nat), s.calm →
      let u := s.who.stream
      let st := s.c.stream u
      (st.pfxImm = none → exec (.pfxImm imm) s = .next { s.modStream s.ck u fun _ =>
        { st with pfxImm := some imm, pfxLen := st.pfxLen + 1 } with lock := some s.who })
      ∧ (st.pfxImm ≠ none → exec (.pfxImm imm) s = s.traps u .illPfx 0 0 s)
      ∧ (st.pfxOrd = none → exec (.pfxOrd cls ord scope) s = .next { s.modStream s.ck u fun _ =>
        { st with pfxOrd := some (cls, ord, scope), pfxLen := st.pfxLen + 1 } with lock := some s.who })
      ∧ (st.pfxOrd ≠ none → exec (.pfxOrd cls ord scope) s = s.traps u .illPfx 0 0 s))
  ∧ (∀ (i : Instr) (x : Bool) (o : Nat) (s : State), sqPrefixes i = some (x, o) → s.calm → (s.c.stream .sq).unfit x o = true →
      exec i s = s.traps .sq .illPfx 0 0 s)

/-- R96: a word that is no legal instruction traps at its address with its cause; the trap is all it does. -/
def Obligations.IllegalWordTraps : Prop :=
  ∀ (s : State) (c : Cause), s.calm → exec (.illegalInstruction c) s = s.traps s.who.stream c 0 0 s

/-! ### Taking an exception and returning (R395 to R404) -/

/-- R395, R397, R403: a trap makes the slot HALTING with its cause, code and addresses recorded, every stream halted at its own address
with its prefixes and its wait gone, and the engines' partial work ended; a fault already recorded stays, an ME step that ends in it
under an enabled INV leaves its own cause, and so does a word of SQ whose response is a trap, at which SQ stands (R107, R404). -/
def Obligations.TrapEntryHaltsTheContext : Prop :=
  ∀ (s : State) (ck : Nat) (u : StreamId) (c : Cause) (code faddr auxf elog : Nat) (restart : Bool),
    let t := takeTrap ck u c code faddr auxf elog restart s
    let h := (s.ctx ck).halt
    let late (v : StreamId) : Option (Nat × Nat) := match (s.ctx ck).r.pend with
      | some (.fault x _ pc) => if v = .sq then some (x.code, pc) else none
      | _ => none
    (t.ctx ck).st = .halting ∧ (t.ctx ck).preempt = false
    ∧ (h = none → (t.ctx ck).halt = some ⟨2, c.code, restart, code, faddr, auxf, elog⟩)
    ∧ (∀ x, h = some x → (t.ctx ck).halt = if x.kind = 2 ∨ x.kind = 3 then some x else some ⟨2, c.code, restart, code, faddr, auxf, elog⟩)
    ∧ ((t.ctx ck).stream u).cause = (if ((s.ctx ck).stream u).cause = 0 then c.code else ((s.ctx ck).stream u).cause)
    ∧ (∀ v, let st := (t.ctx ck).stream v
        st.pc = ((late v).map (·.2)).getD ((s.ctx ck).stream v).pc ∧ st.retired = ((s.ctx ck).stream v).retired ∧ st.wait = none ∧ st.pfxImm = none
        ∧ st.pfxOrd = none ∧ st.pfxLen = 0 ∧ (v ≠ u → st.cause = (let old := ((s.ctx ck).stream v).cause
          if v = .me ∧ old = 0 ∧ (s.ctx ck).r.me.drains.any (·.inve) = true then Cause.arithInv.code
          else if old = 0 then ((late v).map (·.1)).getD 0 else old)))
    ∧ (t.ctx ck).r.pend = none ∧ (t.ctx ck).r.me.drains = [] ∧ (t.ctx ck).r.ve.group = {}
    ∧ (t.ctx ck).bind = (s.ctx ck).bind ∧ (∀ k, k ≠ ck → t.ctx k = s.ctx k)
    ∧ ((s.ctx ck).r.pend = none → (t.ctx ck).r.s = (s.ctx ck).r.s ∧ t.mem = s.mem ∧ t.wbuf = s.wbuf)

/-- R397: the fault frame: its magic number, kind (0 a drain, 1 another stop, 2 a fault), cause, the addresses and causes of the five
streams, code, FADDR, AUX, ROWDONE, LINST, the cut, CTXB and ELOG at their offsets, the bytes between them 0. A stream that took ARITH_INV has the address of the word or step that took it (R60, R231). -/
def Obligations.FaultFrameLayout : Prop :=
  ∀ (c : Ctx) (h : Halt), c.halt = some h → h.cause < 2 ^ 8 → h.code < 2 ^ 32 → h.faddr < 2 ^ 64 → h.auxf < 2 ^ 32 →
    h.elog < 2 ^ 64 → c.r.me.rowdone < 2 ^ 32 → (∀ x, c.r.cut = some x → x.lev < 6 ∧ x.it < 2 ^ 32) →
    let f := faultFrame c
    fieldOf f 0 4 = 0x4D524643 ∧ fieldOf f 4 1 = (if h.kind = 4 then 0 else if h.kind = 2 then 2 else 1)
    ∧ fieldOf f 5 1 = (if h.kind = 2 then h.cause else 0) ∧ fieldOf f 7 1 = 0 ∧ fieldOf f 33 3 = 0 ∧ fieldOf f 6 1 = (if h.restart then 1 else 0)
    ∧ (∀ u : StreamId, fieldOf f (8 + 4 * u.code) 4
        = ((c.stream u).recorded.getD (if (c.stream u).retired then 0xFFFFFFFF else (c.stream u).pc)) % 2 ^ 32)
    ∧ (∀ u : StreamId, fieldOf f (28 + u.code) 1 = (c.stream u).cause % 2 ^ 8)
    ∧ fieldOf f 36 4 = h.code ∧ fieldOf f 40 8 = h.faddr ∧ fieldOf f 48 4 = h.auxf ∧ fieldOf f 52 4 = c.r.me.rowdone
    ∧ fieldOf f 56 4 = c.linst.toNat ∧ fieldOf f 60 4 = (c.r.cut.map (·.lev)).getD 0xFF
    ∧ fieldOf f 64 4 = (c.r.cut.map (·.it)).getD 0 ∧ fieldOf f 68 4 = (c.r.cut.map (·.saved.toNat)).getD 0 ∧ fieldOf f 72 8 = c.ctxbuf.toNat ∧ fieldOf f 80 8 = h.elog

/-- R282, R400, R401: the return of a saved context: its slot runs, or is GATED where its bind record says so; its registers are those its
frame names, with every halted access to be translated again and the collectives that CLE kept for it. After a hard stop its windows of AB
and CB hold the bytes of the frame. Where it returns at a cut (a drain, or a hard stop once every stream had drained), the cut level's
loop is set up: the streams that take part stand at their loop heads in iteration I, and p8 to p15 are as at an entry. -/
def Obligations.ResumeRestoresTheSavedRegisters : Prop :=
  ∀ (s : State) (ck frame : Nat), frame + 0x450000 ≤ dramEnd →
    let id := (physRead (frame + frStreams) 8 s).1
    let r := getAt {} id s.saves
    let hard := (physRead frame 256 s).1 / 2 ^ 32 % 256 ≠ 0
    let c := s.ctx ck
    let t := resumeContext ck frame s
    let q := (t.ctx ck).r
    let old (u : StreamId) := ({ c with r := r } : Ctx).stream u
    t.cle = s.cle.filter (fun h => h.save ≠ id) ∧ (t.ctx ck).st = (if c.bind.gate then .gated else .run)
    ∧ (∀ u, ((t.ctx ck).stream u).cause = 0) ∧ (∀ k, k ≠ ck → t.ctx k = s.ctx k)
    ∧ ((∀ x, r.cut = some x → hard ∧ r.allDrained x.lev = false) →
      q = { rearm r with coll := (s.cle.filter fun h => h.save = id).flatMap (·.coll) }
      ∧ ∀ u, ((t.ctx ck).stream u).pc = (old u).pc)
    ∧ (hard → s.Wf = true → s.mapBase = none → c.abBytes ≤ 0x300000 → c.cbBytes ≤ 0x100000 →
      let holds (space at_ i : Nat) : Prop := (commit t.buf t.bbuf).read (winKey ck c space i) = s.mem.read (frame + at_ + i)
      (65536 * abBase c.ctxbuf + c.abBytes ≤ 2 ^ 28 → ∀ i, i < c.abBytes → holds 0 frAb i)
      ∧ (65536 * abBase c.ctxbuf + c.abBytes ≤ 2 ^ 28 → 32768 * ctBase c.ctxbuf + c.cbBytes ≤ 2 ^ 28 → ∀ i, i < c.cbBytes → holds 1 frCb i))
    ∧ (∀ x, r.cut = some x → ¬ hard ∨ r.allDrained x.lev = true → x.lev < 6 →
      q.cut = none ∧ vget 0 q.lc x.lev = x.saved ∧ q.s = r.s ∧ q.sem = r.sem ∧ q.tl = r.tl ∧ q.ve.a = r.ve.a ∧ q.ve.rrb = r.ve.rrb
      ∧ (∀ u : StreamId, let st := (t.ctx ck).stream u
          if r.takesPart x.lev u.code = true ∧ (old u).retired = false then
            vget 0 st.iter x.lev = BitVec.ofNat 32 x.it ∧ vget 0 st.entry x.lev = BitVec.ofNat 32 x.it ∧ vget false st.inside x.lev = true
            ∧ st.drained = false ∧ (vget 0 (old u).head x.lev < 2 ^ 32 → st.pc = vget 0 (old u).head x.lev)
          else st.pc = (old u).pc ∧ st.iter = (old u).iter ∧ st.drained = (old u).drained)
      ∧ ∀ k, k < 16 → vget 0 q.ve.p k =
          if k < 8 ∨ r.takesPart x.lev 1 = false then vget 0 r.ve.p k
          else if k = predPhys r.ve.rrb.toNat 8 ∧ x.it < x.saved.toNat then BitVec.ofNat 256 (2 ^ (etyOf r.ve.vshape.toNat).lanes - 1) else 0)

/-! ### Codebook, launch, copy and assignment words of SQ (R140 to R149, R349 to R358) -/

/-- R140: the codebook words answer a status in s[sd]: the rows that come before R69, then what R69 answers. -/
def Obligations.SqCodebookWordsAnswerTheirStatus : Prop :=
  ∀ (s s2 : State) (sd sa sb n : Nat), s.calm → s.slow = false → s.fits .sq false 0 → sd < 32 →
    let id := (sGet s sa).toNat
    let x := (sGet s sb).toNat
    let rel := release s.ck 2 allClasses s
    let done (i : Instr) (n : Nat) (u : State) : Prop := ∃ t, exec i s = .next t
      ∧ sGet t sd = (if sd = 0 then 0 else BitVec.ofNat 64 n) ∧ (∀ k, k ≠ sd → sGet t k = sGet s k)
      ∧ (t.c.stream .sq).pc = (s.c.stream .sq).next ∧ t.mem = (settle s u).mem
    let pin (i : Instr) (add : Bool) : Prop :=
      (2 ^ 16 ≤ id → done i 6 s) ∧ (id < 16 → done i 1 s) ∧ (16 ≤ id → id < 2 ^ 16 → 2 ^ 32 ≤ x → done i 4 s)
      ∧ (16 ≤ id → id < 2 ^ 16 → x < 2 ^ 32 → runOp (cbPinWord s.ck s.c.bind.part add id x) s = (.ok n, s2) → s2.stuck = none →
        done i n s2)
    (2 ^ 16 ≤ id → done (.cbPub sd sa sb) 6 s)
    ∧ (id < 2 ^ 16 → x % 128 ≠ 0 → done (.cbPub sd sa sb) 8 s)
    ∧ (id < 16 → x % 128 = 0 → done (.cbPub sd sa sb) 1 rel)
    ∧ (16 ≤ id → id < 2 ^ 16 → x % 128 = 0 → runOp (cbPublish s.ck s.c.bind.part id x) rel = (.ok n, s2) → s2.stuck = none →
      done (.cbPub sd sa sb) n s2)
    ∧ pin (.cbPin sd sa sb) true ∧ pin (.cbUnpin sd sa sb) false

/-- R141 to R143, R365: the launch words answer the first status of R143's order, and change the record, which lies at its physical
address (log 13: DEDUCED), only with OK. -/
def Obligations.SqLaunchWordsAnswerTheirStatus : Prop :=
  ∀ (s : State) (sd sa sb f : Nat), s.calm → s.slow = false → s.fits .sq false 0 → sd < 32 → f < 7 →
    let i := (sGet s sa).toNat
    let x := (sGet s sb).toNat
    let a := lrAddr s s.c.bind.part i
    let r := (physRead a 256 s).1
    let readable := a + 256 ≤ dramEnd ∧ (physRead a 256 s).2.1 = false
    let world := lrSecure r = true ∧ s.c.bind.secure = false
    let max := fieldOf r (0x68 + 4 * (f - 1)) 4
    let done (j : Instr) (n : Nat) (u : State) : Prop := ∃ t, exec j s = .next t
      ∧ sGet t sd = (if sd = 0 then 0 else BitVec.ofNat 64 n) ∧ (∀ k, k ≠ sd → sGet t k = sGet s k)
      ∧ (t.c.stream .sq).pc = (s.c.stream .sq).next ∧ t.mem = (settle s u).mem
    (2 ^ 12 ≤ i → done (.lrPatch sd sa sb f) 1 s)
    ∧ (i < 2 ^ 12 → readable →
      (lrBuilt r = false → done (.lrPatch sd sa sb f) 2 s)
      ∧ (lrBuilt r = true → world → done (.lrPatch sd sa sb f) 7 s)
      ∧ (lrBuilt r = true → ¬ world → lrArmed r = true → done (.lrPatch sd sa sb f) 5 s)
      ∧ (lrBuilt r = true → ¬ world → lrArmed r = false →
        (lrPatchBit r f = false ∨ f ≠ 0 ∧ max = 0 → done (.lrPatch sd sa sb f) 3 s)
        ∧ (lrPatchBit r f = true → f = 0 → x % 64 ≠ 0 → done (.lrPatch sd sa sb f) 4 s)
        ∧ (lrPatchBit r f = true → f ≠ 0 → max ≠ 0 → x = 0 ∨ max < x → done (.lrPatch sd sa sb f) 4 s)
        ∧ (lrPatchBit r f = true → f = 0 → x % 64 = 0 → done (.lrPatch sd sa sb f) 0 (physWrite (a + 8) 8 x s))
        ∧ (lrPatchBit r f = true → f ≠ 0 → max ≠ 0 → 0 < x → x ≤ max →
            done (.lrPatch sd sa sb f) 0 (physWrite (a + 0x50 + 4 * (f - 1)) 4 x s))))

/-- R142, R365, R367: `lr.arm` releases at package scope and answers the status of the arming; with OK the record is armed under the next
instance and the entry is posted to its home, or else the word waits until the queue there has room. -/
def Obligations.SqArmWord : Prop :=
  ∀ (s : State) (sd sa sb : Nat), s.calm → s.slow = false → s.fits .sq false 0 → sd < 32 →
    let rel := release s.ck 2 allClasses s
    let i := (sGet s sa).toNat
    let x := (sGet s sb).toNat
    let p := s.c.bind.part
    let a := lrAddr s p i
    let r := (physRead a 256 rel).1
    let armed := armRecord p s.c.bind.secure (dieOf s.ck) i x none rel
    a + 256 ≤ dramEnd → (physRead a 256 rel).2.1 = false → armed.2.stuck = none →
    let room := armqRoom (lrHome r) p rel
    let pulled := armqPull (lrHome r) p (physRead a 256 rel).2.2
    (armed.1 = 0 → room = false ∨ s.frozen p = true → pulled.stuck = none →
      exec (.lrArm sd sa sb) s = .next (settle s (blockOn s.ck .sq (.armq (lrHome r) p) pulled)))
    ∧ ((armed.1 = 0 → room = true ∧ s.frozen p = false) → ∃ t, exec (.lrArm sd sa sb) s = .next t
      ∧ sGet t sd = (if sd = 0 then 0 else BitVec.ofNat 64 armed.1) ∧ (∀ k, k ≠ sd → sGet t k = sGet s k)
      ∧ (t.c.stream .sq).pc = (s.c.stream .sq).next ∧ t.mem = (settle s armed.2).mem ∧ t.dies = armed.2.dies ∧ t.parts = armed.2.parts
      ∧ armed.1 = (if 2 ^ 12 ≤ i then 1 else if lrBuilt r = false then 2
          else if lrSecure r = true ∧ s.c.bind.secure = false then 7 else if lrArmed r = true then 5
          else if (lrBuckets r).all (fun b => decide (b < x)) then 6 else 0)
      ∧ (armed.1 = 0 → (t.part p).nextInst = (let n := (s.part p).nextInst; if n + 1 = 0 then 1 else n + 1)))

/-- R147, R148: a copy whose record and operands pass R149's checks, with room on its context, takes the next issue number of its timeline
into s[sd] and joins the queue; so does one whose record was read before it waited for room; `cx.prog` answers the progress of the oldest
copy, or 0. -/
def Obligations.SqCopyWords : Prop :=
  ∀ (s s2 : State) (sd sa cx : Nat), s.calm → sd < 32 → cx < 4 →
    let n := (s.timeline s.ck (2 + cx)).issued.toNat + 1
    (s.fits .sq false 1 → s.slow = false → (∀ a b q, s.c.r.pend ≠ some (.copy a b q)) →
      runOp (cxCopyIssue sd sa cx s) s = (.ok (), s2) → s2.stuck = none →
      ∃ t q, exec (.cxCopy sd sa cx) s = .next t ∧ vget [] t.c.r.cxQ cx = vget [] s.c.r.cxQ cx ++ [q] ∧ q.num = n ∧ q.prog = 0
        ∧ (t.timeline s.ck (2 + cx)).issued = (s.timeline s.ck (2 + cx)).issued + 1
        ∧ sGet t sd = (if sd = 0 then 0 else BitVec.ofNat 64 n) ∧ (∀ k, k ≠ sd → sGet t k = sGet s k)
        ∧ (t.c.stream .sq).pc = (s.c.stream .sq).next)
    ∧ (∀ q, s.fits .sq false 1 → s.c.r.pend = some (.copy sd cx q) → (vget [] s.c.r.cxQ cx).length < 8 →
      ∃ t, exec (.cxCopy sd sa cx) s = .next t ∧ vget [] t.c.r.cxQ cx = vget [] s.c.r.cxQ cx ++ [{ q with num := n }] ∧ t.c.r.pend = none
        ∧ (t.timeline s.ck (2 + cx)).issued = (s.timeline s.ck (2 + cx)).issued + 1
        ∧ sGet t sd = (if sd = 0 then 0 else BitVec.ofNat 64 n) ∧ (t.c.stream .sq).pc = (s.c.stream .sq).next)
    ∧ (s.fits .sq false 0 → exec (.cxProg sd cx) s
        = s.onward .sq (sSet sd (BitVec.ofNat 64 (match vget [] s.c.r.cxQ cx with | q :: _ => q.prog | [] => 0)) s))

/-- R349, R350, R357, R358, R361: the register words of ASG, and its commands, which trap on a bad operand or record, wait for room, or
issue with a number on TL6. A command that waits keeps the record that it has read and checked. -/
def Obligations.SqAssignmentWords : Prop :=
  (∀ (s : State) (sd sa sb : Nat), s.calm → s.fits .sq false 0 →
      let a := s.c.r.asg
      let idle := a.queue = [] ∧ a.run = none
      let x := sGet s sa
      let v := x.setWidth 32
      let y := sGet s sb
      let special (w : BitVec 32) : Prop := w &&& 0x7F800000#32 = 0x7F800000#32
      let set (f : AsgRegs → AsgRegs) := s.onward .sq (modAsg s.ck f s)
      let bad := s.traps .sq .crValue 0 0 s
      (¬ idle → ∀ i ∈ ([.asgWr sa 0, .asgRd sd 0, .asgPget sd sa, .asgPput sa sb, .asgPfill sa] : List Instr), exec i s = s.waits .sq .asgIdle)
      ∧ (idle →
        (x.toNat < 2 ^ 32 → ¬ special v → v.getLsbD 31 = false →
          exec (.asgWr sa 0) s = set (fun a => { a with eps := v }) ∧ exec (.asgWr sa 2) s = set fun a => { a with bidcap := v })
        ∧ (x.toNat < 2 ^ 32 → v.toNat % 2 ^ 31 ≤ 0x7F800000 → exec (.asgWr sa 1) s = set fun a => { a with reserve := v })
        ∧ (x.toNat < 2 ^ 32 → v ≠ 0 → exec (.asgWr sa 3) s = set fun a => { a with limit := v })
        ∧ (2 ^ 32 ≤ x.toNat → ∀ k, k < 4 → exec (.asgWr sa k) s = bad)
        ∧ (special v → exec (.asgWr sa 0) s = bad ∧ exec (.asgWr sa 2) s = bad)
        ∧ (∀ k w, (k, w) ∈ ([(0, a.eps), (1, a.reserve), (2, a.bidcap), (3, a.limit), (4, a.rstat), (5, a.rcount)] : List (Nat × BitVec 32)) →
            exec (.asgRd sd k) s = s.onward .sq (sSet sd (w.setWidth 64) s))
        ∧ (x.toNat < 256 → exec (.asgPget sd sa) s = s.onward .sq (sSet sd ((vget 0 a.price x.toNat).setWidth 64) s))
        ∧ (256 ≤ x.toNat → exec (.asgPget sd sa) s = s.traps .sq .asgCol 0 0 s ∧ exec (.asgPput sa sb) s = s.traps .sq .asgCol 0 0 s)
        ∧ (x.toNat < 256 → y.toNat < 2 ^ 32 → ¬ special (y.setWidth 32) →
            exec (.asgPput sa sb) s = set fun a => { a with price := vset a.price x.toNat (y.setWidth 32) })
        ∧ (x.toNat < 2 ^ 32 → ¬ special v → exec (.asgPfill sa) s = set fun a => { a with price := Vector.replicate 256 v })))
  ∧ (∀ (s : State) (sd sa sb : Nat), s.calm → s.fits .sq false 0 → sd < 32 →
      let off := (sGet s sa).toNat
      let n := (sGet s sb).toNat
      let num := (s.timeline s.ck 6).issued.toNat + 1
      let rcd := (winRead s.ck 0 off 32 s).1
      let issued (i : Instr) (q : AsgCmd) : Prop := ∃ t, exec i s = .next t ∧ t.c.r.asg.queue = s.c.r.asg.queue ++ [q]
        ∧ { t.c.r.asg with queue := s.c.r.asg.queue } = s.c.r.asg
        ∧ (t.timeline s.ck 6).issued = (s.timeline s.ck 6).issued + 1
        ∧ sGet t sd = (if sd = 0 then 0 else BitVec.ofNat 64 num) ∧ (∀ k, k ≠ sd → sGet t k = sGet s k)
        ∧ (t.c.stream .sq).pc = (s.c.stream .sq).next ∧ t.mem = s.mem ∧ t.buf = s.buf
      let fl := (s.c.stream .sq).flush
      let waits (kind o m : Nat) (rc : BitVec 256) (i : Instr) : Prop :=
        exec i s = (s.modRegs s.ck fun r => { r with pend := some (.asg sd kind o m rc) }).waits .sq .asgRoom
      let fresh : Prop := ∀ d k o m rc, s.c.r.pend ≠ some (.asg d k o m rc)
      let inside (m : Nat) : Prop := off < 2 ^ 22 ∧ inWindow s.c 0 off m = true
      let stops (c : Cause) (i : Instr) : Prop := exec i s = s.traps .sq c 0 0 s
      let both (f : Instr → Prop) : Prop := f (.asgPld sd sa sb) ∧ f (.asgPst sd sa sb)
      (∀ kind o m rc, s.c.r.pend = some (.asg sd kind o m rc) → ∀ i ∈ ([.asgRun sd sa, .asgPld sd sa sb, .asgPst sd sa sb] : List Instr),
        (s.c.r.asg.queue.length < 4 → issued i ⟨num, kind, o, m, rc, fl, asgDests kind o m rc.toNat⟩)
        ∧ (4 ≤ s.c.r.asg.queue.length → waits kind o m rc i))
      ∧ (fresh → (off % 4 ≠ 0 → both (stops .misalign))
      ∧ (off % 4 = 0 → ¬ inside (4 * n) → both (stops .bufRange))
      ∧ (off % 4 = 0 → inside (4 * n) → n = 0 ∨ 256 < n → both (stops .asgCol))
      ∧ (off % 4 = 0 → inside (4 * n) → 0 < n → n ≤ 256 →
        (s.c.r.asg.queue.length < 4 →
          issued (.asgPld sd sa sb) ⟨num, 1, off, n, 0, fl, []⟩
          ∧ issued (.asgPst sd sa sb) ⟨num, 2, off, n, 0, fl, [(0, off, 4 * n)]⟩)
        ∧ (4 ≤ s.c.r.asg.queue.length → waits 1 off n 0 (.asgPld sd sa sb) ∧ waits 2 off n 0 (.asgPst sd sa sb)))
      ∧ (off % 32 ≠ 0 → stops .misalign (.asgRun sd sa))
      ∧ (off % 32 = 0 → ¬ inside 32 → stops .bufRange (.asgRun sd sa))
      ∧ (off % 32 = 0 → inside 32 → (winRead s.ck 0 off 32 s).2 = true → s.logsMemUe 9 [.asgRun sd sa])
      ∧ (off % 32 = 0 → inside 32 → (winRead s.ck 0 off 32 s).2 = false →
        (asgRecBad rcd = true → stops .asgRec (.asgRun sd sa))
        ∧ (asgRecBad rcd = false → asgRangeBad s.c rcd = true → stops .bufRange (.asgRun sd sa))
        ∧ (asgRecBad rcd = false → asgRangeBad s.c rcd = false →
          (s.c.r.asg.queue.length < 4 → issued (.asgRun sd sa)
            ⟨num, 0, off, 0, BitVec.ofNat 256 rcd, fl, asgDests 0 off 0 (BitVec.ofNat 256 rcd).toNat⟩)
          ∧ (4 ≤ s.c.r.asg.queue.length → waits 0 off 0 (BitVec.ofNat 256 rcd) (.asgRun sd sa))))))

/-! ### Words of VE (R157 to R199) -/

/-- R159, R171 to R174, R182: the words of two rows write the operation's result in the active lanes of vd, with the flags of those
lanes; the shifts and the saturating words take integer types (R199). -/
def Obligations.VeTwoRowWords : Prop :=
  ∀ (s : State) (stop vd va vb pg x y : Nat), s.veReady → s.rowHas va x → s.rowHas vb y →
    let out (slot : VeSlot) (f : Lane2) :=
      let r := laneMap (s.active pg) (fun p => f s.veNum s.veTy p.1 p.2) 0 ((s.lanes x).zip (s.lanes y))
      s.veJoins stop slot { effs := [rowOut s vd (s.active pg) r.1], flags := r.2 }
    exec (.vadd stop vd va vb pg) s = out .a laneAdd ∧ exec (.vsub stop vd va vb pg) s = out .a laneSub
    ∧ exec (.vmul stop vd va vb pg) s = out .a laneMul ∧ exec (.vmin stop vd va vb pg) s = out .a laneMin
    ∧ exec (.vmax stop vd va vb pg) s = out .a laneMax
    ∧ exec (.vand stop vd va vb pg) s = out .a (fun _ t a b => ((a &&& b) % 2 ^ t.width, 0))
    ∧ exec (.vor stop vd va vb pg) s = out .a (fun _ t a b => ((a ||| b) % 2 ^ t.width, 0))
    ∧ exec (.vxor stop vd va vb pg) s = out .a (fun _ t a b => ((a ^^^ b) % 2 ^ t.width, 0))
    ∧ exec (.vdiv stop vd va vb pg) s = out .s laneDiv
    ∧ (s.veTy.isInt = false → stop ≠ 0 →
      ∀ i ∈ ([.vshl stop vd va vb pg, .vshr stop vd va vb pg, .vqadd stop vd va vb pg, .vqsub stop vd va vb pg] : List Instr),
        s.veTraps .veType i)
    ∧ (s.veTy.isInt = true →
      exec (.vshl stop vd va vb pg) s = out .a laneShl ∧ exec (.vshr stop vd va vb pg) s = out .a laneShr
      ∧ exec (.vqadd stop vd va vb pg) s = out .a (laneSat (· + ·)) ∧ exec (.vqsub stop vd va vb pg) s = out .a (laneSat (· - ·)))

/-- R166, R172, R177 to R181, R199: the words of three rows, of a row and a scalar, and of one row; the reuse hint changes no result. The
words of one kind of type trap on the other. -/
def Obligations.VeLaneWords : Prop :=
  ∀ (s : State) (stop vd va vb ar pg x y z : Nat), s.veReady → s.rowHas va x → s.rowHas vb y → s.rowHas vd z →
    let sc := (s.aReg ar).toNat % 2 ^ s.veTy.width
    let put (slot : VeSlot) (r : List Nat × Flags) :=
      s.veJoins stop slot { effs := [rowOut s vd (s.active pg) r.1], flags := r.2 }
    let map {α : Type} (f : NumMode → ETy → α → Nat × Flags) (l : List α) := laneMap (s.active pg) (f s.veNum s.veTy) 0 l
    let three (f : Lane3) := put .a (map (fun n t p => f n t p.1 p.2.1 p.2.2) ((s.lanes x).zip ((s.lanes y).zip (s.lanes z))))
    let scal (f : Lane2) := put .a (map (fun n t a => f n t a sc) (s.lanes x))
    let one (slot : VeSlot) (f : Lane1) := put slot (map f (s.lanes x))
    exec (.vfma stop vd va vb pg) s = three (laneFma false) ∧ exec (.vfmaR stop vd va vb pg) s = three (laneFma false)
    ∧ exec (.vfms stop vd va vb pg) s = three (laneFma true) ∧ exec (.vfmsR stop vd va vb pg) s = three (laneFma true)
    ∧ exec (.vaddVs stop vd va ar pg) s = scal laneAdd ∧ exec (.vsubVs stop vd va ar pg) s = scal laneSub
    ∧ exec (.vmulVs stop vd va ar pg) s = scal laneMul ∧ exec (.vminVs stop vd va ar pg) s = scal laneMin
    ∧ exec (.vmaxVs stop vd va ar pg) s = scal laneMax ∧ exec (.vrsub stop vd va ar pg) s = scal (fun n t a b => laneSub n t b a)
    ∧ exec (.vfmaVs stop vd va ar pg) s = put .a (map (fun n t p => laneFma false n t p.1 sc p.2) ((s.lanes x).zip (s.lanes z)))
    ∧ exec (.vbcast stop vd ar pg) s = put .a (List.replicate s.veTy.lanes sc, 0)
    ∧ exec (.vmov stop vd va pg) s = one .a (fun _ _ a => (a, 0)) ∧ exec (.vneg stop vd va pg) s = one .a laneNeg
    ∧ exec (.vabs stop vd va pg) s = one .a laneAbs ∧ exec (.vnot stop vd va pg) s = one .a laneNot
    ∧ (s.veTy.isInt = true → exec (.vclz stop vd va pg) s = one .a laneClz ∧ exec (.vpopc stop vd va pg) s = one .a lanePopc)
    ∧ (s.veTy.isInt = false → exec (.vrnd stop vd va pg) s = one .a laneRnd
      ∧ exec (.vrcp stop vd va pg) s = one .s (laneFun .rcp) ∧ exec (.vrsqrt stop vd va pg) s = one .s (laneFun .rsqrt)
      ∧ exec (.vsqrt stop vd va pg) s = one .s (laneFun .sqrt) ∧ exec (.vexp2 stop vd va pg) s = one .s (laneFun .exp2)
      ∧ exec (.vlog2 stop vd va pg) s = one .s (laneFun .log2) ∧ exec (.vexp stop vd va pg) s = one .s (laneFun .exp)
      ∧ exec (.vtanh stop vd va pg) s = one .s (laneFun .tanh) ∧ exec (.vsigm stop vd va pg) s = one .s (laneFun .sigm))
    ∧ (stop ≠ 0 →
      (s.veTy.isInt = false → ∀ i ∈ ([.vclz stop vd va pg, .vpopc stop vd va pg] : List Instr), s.veTraps .veType i)
      ∧ (s.veTy.isInt = true → ∀ i ∈ ([.vrnd stop vd va pg, .vrcp stop vd va pg, .vrsqrt stop vd va pg, .vsqrt stop vd va pg,
          .vexp2 stop vd va pg, .vlog2 stop vd va pg, .vexp stop vd va pg, .vtanh stop vd va pg, .vsigm stop vd va pg] : List Instr),
        s.veTraps .veType i))

/-- R175, R176, R179, R183 to R186: the words that select, compare, convert, reduce and move lanes: lane by lane. -/
def Obligations.VeSelectReduceAndMoveWords : Prop :=
  ∀ (s : State) (stop vd va vb pd ad ar av pg x y : Nat), s.veReady → s.rowHas va x → s.rowHas vb y →
    let n := s.veTy.lanes
    let xs := s.lanes x
    let ys := s.lanes y
    let at' (l : List Nat) (i : Nat) : Nat := l[i]?.getD 0
    let all := fun (_ : Nat) => true
    let k := (s.aReg ar).toNat
    let lanesOut (act : Nat → Bool) (f : Nat → Nat) := s.veJoins stop .s { effs := [rowOut s vd act ((List.range n).map f)] }
    let cmp (c : Cond) :=
      let r := laneMap (s.active pg) (fun p => let q := laneCmp c s.veNum s.veTy p.1 p.2; (if q.1 then 1 else 0, q.2)) 0 (xs.zip ys)
      s.veJoins stop .a { effs := predOut s pd ((s.pred pd &&& (2 ^ n - 1 - s.pred pg)) ||| joinBits 1 r.1), flags := r.2 }
    let red (c : Red) :=
      let r := reduceLanes (s.c.stream .ve).nbl (c.op s.veNum s.veTy) (c.ident s.veTy)
        ((List.range n).map fun i => if s.active pg i then some (at' xs i) else none)
      s.veJoins stop .s { effs := [.areg ad (BitVec.ofNat 32 (r.1.getD (c.ident s.veTy)))], flags := r.2 }
    let sel := ((List.range n).filter (s.active pg)).map (at' xs)
    exec (.vsel stop vd va vb pg) s
      = s.veJoins stop .a { effs := [rowOut s vd all ((List.range n).map fun i => if s.active pg i then at' xs i else at' ys i)] }
    ∧ exec (.vcmpEq stop pd va vb pg) s = cmp .eq ∧ exec (.vcmpNe stop pd va vb pg) s = cmp .ne
    ∧ exec (.vcmpLt stop pd va vb pg) s = cmp .lt ∧ exec (.vcmpLe stop pd va vb pg) s = cmp .le
    ∧ exec (.vcmpGt stop pd va vb pg) s = cmp .gt ∧ exec (.vcmpGe stop pd va vb pg) s = cmp .ge
    ∧ exec (.vcmpUnord stop pd va vb pg) s = cmp .unord
    ∧ exec (.vredSum stop ad va pg) s = red .sum ∧ exec (.vredMin stop ad va pg) s = red .min
    ∧ exec (.vredMax stop ad va pg) s = red .max ∧ exec (.vredAnd stop ad va pg) s = red .and
    ∧ exec (.vredOr stop ad va pg) s = red .or ∧ exec (.vredXor stop ad va pg) s = red .xor
    ∧ exec (.vperm stop vd va vb pg) s = lanesOut (s.active pg) (fun i => at' xs (at' ys i % n))
    ∧ exec (.vslup stop vd va ar pg) s = lanesOut (s.active pg) (fun i => if k ≤ i then at' xs (i - k) else 0)
    ∧ exec (.vsldn stop vd va ar pg) s = lanesOut (s.active pg) (fun i => at' xs (i + k))
    ∧ exec (.vbcastl stop vd va ar pg) s = lanesOut (s.active pg) (fun _ => at' xs (k % n))
    ∧ exec (.vext stop ad va ar) s = s.veJoins stop .s { effs := [.areg ad (BitVec.ofNat 32 (at' xs (k % n)))] }
    ∧ exec (.vins stop vd av ar) s
      = s.veJoins stop .s { effs := [rowOut s vd (fun i => i = k % n) (List.replicate n ((s.aReg av).toNat % 2 ^ s.veTy.width))] }
    ∧ exec (.vcompress stop vd va ad pg) s
      = s.veJoins stop .s { effs := [rowOut s vd all sel, .areg ad (BitVec.ofNat 32 sel.length)] }
    ∧ exec (.vexpand stop vd va pg) s = lanesOut all
        (fun i => if s.active pg i then at' xs ((List.range i).filter (s.active pg)).length else 0)
    ∧ ∀ sty dty part, sty < 11 → dty < 11 →
        let st := etyOf sty
        let dt := etyOf dty
        let m := 256 / max st.bytes dt.bytes
        let lo := if dt.bytes < st.bytes then dt.bytes * (part * m) else 0
        let from' := if dt.bytes < st.bytes then 0 else part * m
        let cv (i : Nat) := laneCvt st dt s.veNum (x / 2 ^ (st.width * (from' + i)) % 2 ^ st.width)
        ∃ g, exec (.vcvt stop vd va sty dty part) s = s.veJoins stop .a { flags := g, effs := [.row (s.row vd)
            (BitVec.ofNat 2048 (joinBits dt.width ((List.range m).map fun i => (cv i).1) * 2 ^ (8 * lo)))
            (BitVec.ofNat 256 ((2 ^ (dt.bytes * m) - 1) * 2 ^ lo))] }
          ∧ ∀ k, g.getLsbD k = true ↔ ∃ i, i < m ∧ (cv i).2.getLsbD k = true

/-- R190, R191, R198: the predicate words and the words of the a-registers, on the values before the group (R162). -/
def Obligations.VePredicateAndRegisterWords : Prop :=
  ∀ (s : State) (stop pd pa pb ad aa ab imm lev : Nat), s.veReady →
    let n := s.veTy.lanes
    let ones := 2 ^ n - 1
    let p := s.pred pa
    let q := s.pred pb
    let pOut (v : Nat) := s.veJoins stop .a { effs := predOut s pd v }
    let aTo (slot : VeSlot) (v : BitVec 32) := s.veJoins stop slot { effs := [.areg ad v] }
    let a := s.aReg aa
    let b := s.aReg ab
    exec (.pand stop pd pa pb) s = pOut (p &&& q) ∧ exec (.por stop pd pa pb) s = pOut (p ||| q)
    ∧ exec (.pxor stop pd pa pb) s = pOut (p ^^^ q) ∧ exec (.pandn stop pd pa pb) s = pOut (p &&& (ones - q))
    ∧ exec (.pnot stop pd pa) s = pOut (ones - p) ∧ exec (.pset stop pd) s = pOut ones ∧ exec (.pclr stop pd) s = pOut 0
    ∧ exec (.pmov stop pd pa) s = pOut p
    ∧ exec (.pwhile stop pd aa) s = pOut (if a.toNat < n then 2 ^ a.toNat - 1 else ones)
    ∧ exec (.pcount stop ad pa) s = aTo .a (BitVec.ofNat 32 ((List.range n).filter fun i => s.active pa i).length)
    ∧ (p = 0 → exec (.pfirst stop ad pa) s = aTo .a 0xFFFFFFFF#32)
    ∧ (∀ i, i < n → s.active pa i = true → (∀ j, j < i → s.active pa j = false) → exec (.pfirst stop ad pa) s = aTo .a (BitVec.ofNat 32 i))
    ∧ exec (.aAdd stop ad aa ab) s = aTo .m (a + b) ∧ exec (.aSub stop ad aa ab) s = aTo .m (a - b)
    ∧ exec (.aMul stop ad aa ab) s = aTo .m (a * b) ∧ exec (.aAnd stop ad aa ab) s = aTo .m (a &&& b)
    ∧ exec (.aOr stop ad aa ab) s = aTo .m (a ||| b) ∧ exec (.aXor stop ad aa ab) s = aTo .m (a ^^^ b)
    ∧ exec (.aSll stop ad aa ab) s = aTo .m (a <<< (b.toNat % 32)) ∧ exec (.aSrl stop ad aa ab) s = aTo .m (a >>> (b.toNat % 32))
    ∧ exec (.aSra stop ad aa ab) s = aTo .m (a.sshiftRight (b.toNat % 32))
    ∧ exec (.aMin stop ad aa ab) s = aTo .m (if a.toInt < b.toInt then a else b)
    ∧ exec (.aMax stop ad aa ab) s = aTo .m (if a.toInt < b.toInt then b else a)
    ∧ exec (.aMinu stop ad aa ab) s = aTo .m (if a.toNat < b.toNat then a else b)
    ∧ exec (.aMaxu stop ad aa ab) s = aTo .m (if a.toNat < b.toNat then b else a)
    ∧ exec (.aSlt stop ad aa ab) s = aTo .m (if a.toInt < b.toInt then 1 else 0)
    ∧ exec (.aSltu stop ad aa ab) s = aTo .m (if a.toNat < b.toNat then 1 else 0)
    ∧ exec (.aAddi stop ad aa imm) s = aTo .m (a + (BitVec.ofNat 16 imm).signExtend 32)
    ∧ exec (.aLui stop ad imm) s = aTo .m (BitVec.ofNat 32 (imm * 65536))
    ∧ (lev < s.c.r.levels.length →
      exec (.aLc stop ad lev) s = aTo .m (vget 0 s.c.r.lc lev) ∧ exec (.aIt stop ad lev) s = aTo .m (vget 0 (s.c.stream .ve).iter lev))
    ∧ (s.c.r.levels.length ≤ lev → stop ≠ 0 → ∀ i ∈ ([.aLc stop ad lev, .aIt stop ad lev] : List Instr),
        s.veTraps .loopLev i)

/-- R60, R167, R192 to R197: VE's control words: what each adds to its group, and what the machine does when the word is a group of its own:
the register read or written, the branch, the loop close with its rotation, the count that a semaphore gains or loses, the waits, the
end, the trap after the group and the yield. -/
def Obligations.VeControlWords : Prop :=
  ∀ (s : State) (stop ar csel lev off sem tl code : Nat), s.veReady →
    let v := s.aReg ar
    let ctl (c : VeCtl) := s.veJoins stop .s { ctl := c }
    let aTo (w : BitVec 64) := s.veJoins stop .s { effs := [.areg ar (w.setWidth 32)] }
    let target := (((s.c.stream .ve).at + 4 * (signedOf 16 off) : Int) % 2 ^ 32).toNat
    let regs : List (Nat × BitVec 64) :=
      [(0x10, s.c.r.ve.vshape.setWidth 64), (0x11, s.c.r.ve.vwin.setWidth 64), (0x12, s.c.r.ve.rrb.setWidth 64)]
    (∀ k w, (k, w) ∈ regs → exec (.veCrRd stop ar k) s = aTo w ∧ exec (.veCrRdHi stop ar k) s = aTo 0)
    ∧ (csel < 0x10 → exec (.veCrRd stop ar csel) s = aTo (crRead s .ve csel) ∧ exec (.veCrRdHi stop ar csel) s = aTo (crRead s .ve csel >>> 32))
    ∧ (v.toNat ≤ 0xA → exec (.veCrWr stop ar 0x10) s = ctl (.crWr 0x10 v))
    ∧ (v.toNat < 32 → v.toNat < ctCount s.c.ctxbuf → exec (.veCrWr stop ar 0x11) s = ctl (.crWr 0x11 v))
    ∧ (v.toNat ≤ 95 → exec (.veCrWr stop ar 0x12) s = ctl (.crWr 0x12 v))
    ∧ (csel < 0x10 → crBad csel v.toNat = false → exec (.veCrWr stop ar csel) s = ctl (.crWr csel v))
    ∧ (lev < s.c.r.levels.length → exec (.veLbr stop lev off) s = ctl (.lbr lev target))
    ∧ (v = 0 → exec (.bz stop ar off) s = ctl (.branch target) ∧ exec (.bnz stop ar off) s = ctl .none)
    ∧ (v ≠ 0 → exec (.bnz stop ar off) s = ctl (.branch target) ∧ exec (.bz stop ar off) s = ctl .none)
    ∧ exec (.veSemSig stop sem) s = ctl (.semSig sem) ∧ exec (.veSemWait stop sem) s = ctl (.semWait sem)
    ∧ exec (.veTlWait stop tl ar) s = ctl (.tlWait tl v.toNat) ∧ exec (.veEnd stop) s = ctl .finish
    ∧ exec (.veTrap stop code) s = ctl (.trap code) ∧ exec (.veYield stop) s = ctl .yield
    ∧ (stop ≠ 0 →
      (0xA < v.toNat → s.veTraps .crValue (.veCrWr stop ar 0x10)) ∧ (32 ≤ v.toNat → s.veTraps .crValue (.veCrWr stop ar 0x11))
      ∧ (v.toNat < 32 → ctCount s.c.ctxbuf ≤ v.toNat → s.veTraps .bufRange (.veCrWr stop ar 0x11))
      ∧ (95 < v.toNat → s.veTraps .crValue (.veCrWr stop ar 0x12))
      ∧ (csel < 0x10 → crBad csel v.toNat = true → s.veTraps .crValue (.veCrWr stop ar csel))
      ∧ (s.c.r.levels.length ≤ lev → s.veTraps .loopLev (.veLbr stop lev off)))
    ∧ (stop ≠ 0 → s.c.r.ve.group = {} →
      let st := s.c.stream .ve
      let on (t : State) := s.onward .ve t
      let ve (f : VeRegs → VeRegs) := on (s.modRegs s.ck fun r => { r with ve := f r.ve })
      let a (w : BitVec 64) := ve fun x => { x with a := vset x.a ar (w.setWidth 32) }
      let cnt := vget 0 s.c.r.sem sem
      let sems (n : BitVec 16) := on (s.modRegs s.ck fun r => { r with sem := vset r.sem sem n })
      let n := (vget 0 st.iter lev).toNat + 1
      let base := (s.c.r.ve.rrb.toNat + 95) % 96
      let taken := n < (vget 0 s.c.r.lc lev).toNat + s.c.r.epi lev 1
      (∀ k w, (k, w) ∈ regs → exec (.veCrRd stop ar k) s = a w ∧ exec (.veCrRdHi stop ar k) s = a 0)
      ∧ (csel < 0x10 → exec (.veCrRd stop ar csel) s = a (crRead s .ve csel) ∧ exec (.veCrRdHi stop ar csel) s = a (crRead s .ve csel >>> 32))
      ∧ (v.toNat ≤ 0xA → exec (.veCrWr stop ar 0x10) s = ve fun x => { x with vshape := v.setWidth 4 })
      ∧ (v.toNat < 32 → v.toNat < ctCount s.c.ctxbuf → exec (.veCrWr stop ar 0x11) s = ve fun x => { x with vwin := v.setWidth 5 })
      ∧ (v.toNat ≤ 95 → exec (.veCrWr stop ar 0x12) s = ve fun x => { x with rrb := v.setWidth 7 })
      ∧ (csel < 0x10 → crBad csel v.toNat = false → exec (.veCrWr stop ar csel) s = on (crWrite s.ck .ve csel v.toNat s))
      ∧ exec (.bz stop ar off) s = (if v = 0 then s.goesTo .ve target s else on s)
      ∧ exec (.bnz stop ar off) s = (if v = 0 then on s else s.goesTo .ve target s)
      ∧ (lev < 6 → lev < s.c.r.levels.length → (s.c.cutAt .ve lev = true → s.c.st ≠ .run) → ∃ t, exec (.veLbr stop lev off) s = .next t
        ∧ (t.c.stream .ve).pc = (if taken then target else st.next)
        ∧ vget 1 (t.c.stream .ve).iter lev = (if taken then BitVec.ofNat 32 n else 0)
        ∧ (taken → vget 0 (t.c.stream .ve).head lev = target) ∧ (¬ taken → vget true (t.c.stream .ve).inside lev = false)
        ∧ (t.c.stream .ve).drained = (st.drained || (decide ¬ taken && s.c.cutAt .ve lev))
        ∧ t.c.r.ve.rrb = BitVec.ofNat 7 base ∧ t.c.r.ve.p = vset s.c.r.ve.p (predPhys base 8)
            (if n < (vget 0 s.c.r.lc lev).toNat then BitVec.ofNat 256 (2 ^ s.veTy.lanes - 1) else 0)
        ∧ { t.c.r.ve with rrb := s.c.r.ve.rrb, p := s.c.r.ve.p } = s.c.r.ve
        ∧ t.c.r.flags = s.c.r.flags ∧ t.mem = s.mem ∧ t.buf = s.buf ∧ ∀ k, k ≠ s.ck → t.ctx k = s.ctx k)
      ∧ (cnt ≠ 0xFFFF#16 → exec (.veSemSig stop sem) s = sems (cnt + 1))
      ∧ (cnt = 0xFFFF#16 → exec (.veSemSig stop sem) s = s.traps .ve .semOverflow 0 0 (endUnit s.ck .ve st.next s))
      ∧ (s.semFree s.ck .ve sem = true → exec (.veSemWait stop sem) s = sems (cnt - 1))
      ∧ (s.semFree s.ck .ve sem = false → exec (.veSemWait stop sem) s = s.waits .ve (.sem sem))
      ∧ (v.toNat ≤ (s.timeline s.ck tl).done.toNat → exec (.veTlWait stop tl ar) s = on s)
      ∧ ((s.timeline s.ck tl).done.toNat < v.toNat → exec (.veTlWait stop tl ar) s = s.waits .ve (.tl tl v.toNat))
      ∧ (∃ t, exec (.veEnd stop) s = .next t ∧ (t.c.stream .ve).retired = true ∧ (t.c.stream .ve).pc = st.next
        ∧ { t.c.r with streams := s.c.r.streams } = s.c.r ∧ (∀ u, u ≠ .ve → t.c.stream u = s.c.stream u) ∧ t.mem = s.mem ∧ t.buf = s.buf)
      ∧ exec (.veTrap stop code) s = s.traps .ve .swTrap code 0 (endUnit s.ck .ve st.next s)
      ∧ exec (.veYield stop) s = on (s.modStream s.ck .ve fun st => { st with yielded := true }))

/-- R187, R188, R199: the words that move rows and lanes between the CB rows and AB: the addresses, the bytes, and the traps of a
misaligned address and of one outside the window. -/
def Obligations.VeMemoryWords : Prop :=
  ∀ (s : State) (stop vr ab vb off pg x y w : Nat), s.veReady → s.rowHas vr x → s.rowHas vb y →
    let e := s.veTy.bytes
    let n := s.veTy.lanes
    let ea := (s.aReg ab + 4 * (BitVec.ofNat 14 off).signExtend 32).toNat
    let base := (s.aReg ab).toNat
    let bytes (a m v : Nat) : List (Nat × BitVec 8) := (List.range m).map fun i => (a + i, BitVec.ofNat 8 (v / 2 ^ (8 * i)))
    let act := (List.range n).filter (s.active pg)
    let idx (i : Nat) : Nat := (s.lanes y)[i]?.getD 0
    let scatter (f : Nat → Nat) := s.veJoins stop .m { effs := [.ab (act.flatMap fun i => bytes (base + e * f i) e ((s.lanes x)[i]?.getD 0))] }
    (ea % 4 = 0 → inWindow s.c 0 ea 256 = true →
      exec (.vst stop vr ab off) s = s.veJoins stop .m { effs := [.ab (bytes ea 256 x)] }
      ∧ (winRead s.ck 0 ea 256 s = (w, false) →
        exec (.vld stop vr ab off) s = s.veJoins stop .m { effs := [.row (s.row vr) (BitVec.ofNat 2048 w) (BitVec.allOnes 256)] }))
    ∧ (stop ≠ 0 →
      (ea % 4 ≠ 0 → s.veTraps .misalign (.vst stop vr ab off) ∧ s.veTraps .misalign (.vld stop vr ab off))
      ∧ (ea % 4 = 0 → inWindow s.c 0 ea 256 = false → s.veTraps .bufRange (.vst stop vr ab off) ∧ s.veTraps .bufRange (.vld stop vr ab off))
      ∧ (base % e ≠ 0 → s.veTraps .misalign (.vstp stop vr ab pg) ∧ s.veTraps .misalign (.vstx stop vr ab vb pg)
          ∧ s.veTraps .misalign (.vldx stop vr ab vb pg))
      ∧ (base % e = 0 → (∃ i ∈ act, inWindow s.c 0 (base + e * i) e = false) → s.veTraps .bufRange (.vstp stop vr ab pg))
      ∧ (base % e = 0 → (∃ i ∈ act, inWindow s.c 0 (base + e * idx i) e = false) →
          s.veTraps .bufRange (.vstx stop vr ab vb pg) ∧ s.veTraps .bufRange (.vldx stop vr ab vb pg)))
    ∧ (base % e = 0 → (∀ i ∈ act, inWindow s.c 0 (base + e * i) e = true) → exec (.vstp stop vr ab pg) s = scatter id)
    ∧ (base % e = 0 → (∀ i ∈ act, inWindow s.c 0 (base + e * idx i) e = true) →
      exec (.vstx stop vr ab vb pg) s = scatter idx
      ∧ ∀ val : Nat → Nat, (∀ i ∈ act, winRead s.ck 0 (base + e * idx i) e s = (val i, false)) →
        exec (.vldx stop vr ab vb pg) s = s.veJoins stop .m { effs := [rowOut s vr (s.active pg)
          ((List.range n).map fun i => if s.active pg i then val i else 0)] })

/-- R60, R162, R163, R167, R192 to R197: the end of a group. It takes the count of its `sem.wait` at its first word. One whose
wait is not met is read again and has done nothing; one with a trap gives the count back, traps and does nothing else; otherwise each row
byte, predicate, a-register and AB byte holds what the last word in slot order wrote there, or what it held, the group's flags join FLAGS,
and the control word does its part: where VE goes on, a semaphore's count, a loop's ITER and rotation, a control register, the end. Then a trap of the control word, or else the ARITH_INV of a group that raised INV while
INVE_VE was set as it issued (log 23: DEDUCED), halts the context. -/
def Obligations.VeGroupCommits : Prop :=
  ∀ (s : State) (ck : Nat), s.buf.wf = true →
    let r := (s.ctx ck).r
    let st := (s.ctx ck).stream .ve
    let g := r.ve.group
    let t := veCommit ck s
    let c := t.ctx ck
    let last {α : Type} (f : VeEff → Option α) : Option α := ((slotOrder g.effs).filterMap f).getLast?
    let blocks (w : Wait) : Prop := c.r.ve = { r.ve with group := {} } ∧ (c.stream .ve).wait = some w ∧ (c.stream .ve).pc = st.pc
      ∧ c.r.flags = r.flags ∧ c.r.sem = r.sem ∧ t.bbuf = s.bbuf
    let n (lev : Nat) : Nat := (vget 0 st.iter lev).toNat + 1
    let taken (lev : Nat) : Prop := n lev < (vget 0 r.lc lev).toNat + r.epi lev 1
    let base := (r.ve.rrb.toNat + 95) % 96
    let inv : Option Cause := if g.inve = true ∧ g.flags.getLsbD 0 = true then some .arithInv else none
    let stops : Option Cause := match g.ctl with
      | .trap _ => some .swTrap
      | .semSig k => if vget 0 r.sem k = 0xFFFF#16 then some .semOverflow else inv
      | _ => inv
    (∀ w b k, g.count = 0 → veGroupWords st 4 st.at = [w] → decodeVe w = .ok (.veSemWait b k) →
      let u := ((veGroupTake ck s).ctx ck).r
      u.ve = { r.ve with group := { g with held := some k } }
      ∧ ∀ i, i < 64 → vget 0 u.sem i = if i = k then vget 0 r.sem i - 1 else vget 0 r.sem i)
    ∧ (g.count ≠ 0 → veGroupTake ck s = s)
    ∧ (∀ k, g.ctl = .semWait k → g.held ≠ some k → s.semFree ck .ve k = false → blocks (.sem k))
    ∧ (∀ k v, g.ctl = .tlWait k v → (s.timeline ck k).done.toNat < v → blocks (.tl k v))
    ∧ (veBlocked ck s g.ctl = none →
      (∀ k x, g.trap = some (k, x) → x ≠ .memUe → t = takeTrap ck .ve x 0 0 0 0 true (veUntake ck s))
      ∧ (∀ k, k < 64 → vget 0 ((veUntake ck s).ctx ck).r.sem k
          = if g.held = some k ∧ vget 0 r.sem k ≠ 0xFFFF#16 then vget 0 r.sem k + 1 else vget 0 r.sem k)
      ∧ (g.trap = none → r.me.drains = [] → (∀ lev a, g.ctl = .lbr lev a → (s.ctx ck).cutAt .ve lev = true → (s.ctx ck).st ≠ .run) →
        c.r.ve.group = {}
        ∧ (c.stream .ve).pc = (match g.ctl with
          | .branch a => a
          | .lbr lev a => if taken lev then a else st.next
          | _ => st.next)
        ∧ c.r.flags = (match g.ctl with | .crWr 5 v => BitVec.ofNat 6 v.toNat | _ => r.flags) ||| g.flags
        ∧ (∀ k, k < 16 → vget 0 c.r.ve.a k
            = (last fun e => match e with | .areg i v => if i = k then some v else none | _ => none).getD (vget 0 r.ve.a k))
        ∧ (∀ k, k < 16 → (∀ lev a, g.ctl = .lbr lev a → k ≠ predPhys base 8) → vget 0 c.r.ve.p k
            = (last fun e => match e with | .pred i v => if i = k then some v else none | _ => none).getD (vget 0 r.ve.p k))
        ∧ (∀ k, (commit s.buf t.bbuf).read k
            = ((last fun e => match e with
                | .row i d m =>
                  let j := k - winKey ck (s.ctx ck) 1 (rowOff r.ve.vwin.toNat i)
                  if winKey ck (s.ctx ck) 1 (rowOff r.ve.vwin.toNat i) ≤ k ∧ j < 256 ∧ m.getLsbD j = true
                  then some (BitVec.ofNat 8 (d.toNat / 2 ^ (8 * j))) else none
                | .ab l => ((l.filter fun b => winKey ck (s.ctx ck) 0 b.1 = k).map (·.2)).getLast?
                | _ => none).getD ((commit s.buf s.bbuf).read k)))
        ∧ (∀ k, k < 64 → vget 0 c.r.sem k = (match g.ctl with
            | .semWait i => if i = k ∧ g.held ≠ some i then vget 0 r.sem k - 1 else vget 0 r.sem k
            | .semSig i => if i = k ∧ vget 0 r.sem k ≠ 0xFFFF#16 then vget 0 r.sem k + 1 else vget 0 r.sem k
            | _ => vget 0 r.sem k))
        ∧ (∀ lev a, g.ctl = .lbr lev a → lev < 6 → vget 1 (c.stream .ve).iter lev = (if taken lev then BitVec.ofNat 32 (n lev) else 0)
            ∧ (taken lev → vget 0 (c.stream .ve).head lev = a)
            ∧ (¬ taken lev → (c.stream .ve).drained = (st.drained || (s.ctx ck).cutAt .ve lev)) ∧ c.r.ve.rrb = BitVec.ofNat 7 base
            ∧ vget 0 c.r.ve.p (predPhys base 8) = if n lev < (vget 0 r.lc lev).toNat
                then BitVec.ofNat 256 (2 ^ (etyOf r.ve.vshape.toNat).lanes - 1) else 0)
        ∧ (∀ k v, g.ctl = .crWr k v → (k = 0x10 → c.r.ve.vshape = v.setWidth 4) ∧ (k = 0x11 → c.r.ve.vwin = v.setWidth 5)
            ∧ (k = 0x12 → c.r.ve.rrb = v.setWidth 7) ∧ (k = 1 → (c.stream .ve).cls = BitVec.ofNat 4 v.toNat)
            ∧ (k = 2 → (c.stream .ve).rmode = BitVec.ofNat 5 v.toNat) ∧ (k = 3 → (c.stream .ve).flush = BitVec.ofNat 6 v.toNat)
            ∧ (k = 4 → (c.stream .ve).nbl = BitVec.ofNat 2 v.toNat) ∧ (k = 5 → c.r.inve = BitVec.ofNat 5 (v.toNat / 2 ^ 11))
            ∧ (k = 6 → c.r.budget = BitVec.ofNat 11 v.toNat))
        ∧ (g.ctl = .finish → (c.stream .ve).retired = true) ∧ (g.ctl = .yield → (c.stream .ve).yielded = true)
        ∧ (stops = none → c.st = (s.ctx ck).st ∧ c.halt = (s.ctx ck).halt ∧ t.mem = s.mem ∧ t.wbuf = s.wbuf ∧ ∀ j, j ≠ ck → t.ctx j = s.ctx j)
        ∧ ∀ x, stops = some x → (s.ctx ck).halt = none → st.cause = 0 → c.st = .halting
            ∧ c.halt = some ⟨2, x.code, true, (match g.ctl with | .trap k => k | _ => 0), 0, 0, 0⟩ ∧ (c.stream .ve).cause = x.code
            ∧ (x = .arithInv → (c.stream .ve).recorded = some st.pc)))

/-- R171, R174, R182: integer lanes: results modulo 2^w, shifts by the low bits, saturation with OF, quotients toward zero, and all ones
for a divisor of 0. -/
def Obligations.VeIntegerLanes : Prop :=
  ∀ (n : NumMode) (w : Nat) (a b : BitVec w), (w = 8 ∨ w = 16 ∨ w = 32) →
    let x := a.toNat
    let y := b.toNat
    (∀ sg, let t := ETy.int w sg
      laneAdd n t x y = ((a + b).toNat, 0) ∧ laneSub n t x y = ((a - b).toNat, 0) ∧ laneMul n t x y = ((a * b).toNat, 0)
      ∧ laneShl n t x y = ((a <<< (y % w)).toNat, 0) ∧ (y = 0 → laneDiv n t x y = (2 ^ w - 1, 0)))
    ∧ laneShr n (.int w false) x y = ((a >>> (y % w)).toNat, 0) ∧ laneShr n (.int w true) x y = ((a.sshiftRight (y % w)).toNat, 0)
    ∧ laneMin n (.int w true) x y = ((if a.toInt < b.toInt then a else b).toNat, 0)
    ∧ laneMax n (.int w true) x y = ((if a.toInt < b.toInt then b else a).toNat, 0)
    ∧ laneMin n (.int w false) x y = ((if x < y then a else b).toNat, 0)
    ∧ laneMax n (.int w false) x y = ((if x < y then b else a).toNat, 0)
    ∧ (y ≠ 0 → laneDiv n (.int w false) x y = (x / y, 0) ∧ laneDiv n (.int w true) x y = ((BitVec.ofInt w (a.toInt.tdiv b.toInt)).toNat, 0))
    ∧ laneSat (· + ·) n (.int w false) x y = (if x + y < 2 ^ w then (x + y, 0) else (2 ^ w - 1, fOF))
    ∧ laneSat (· - ·) n (.int w false) x y = (if y ≤ x then (x - y, 0) else (0, fOF))
    ∧ (let sat (r : Int) : Nat × Flags :=
        if r < -(2 ^ (w - 1) : Int) then (2 ^ (w - 1), fOF)
        else if (2 ^ (w - 1) : Int) ≤ r then (2 ^ (w - 1) - 1, fOF)
        else ((BitVec.ofInt w r).toNat, 0)
      laneSat (· + ·) n (.int w true) x y = sat (a.toInt + b.toInt) ∧ laneSat (· - ·) n (.int w true) x y = sat (a.toInt - b.toInt))

/-! ### Words of ME (R200 to R234) -/

/-- R203, R204, R209 to R217: a dense pass or a convolution whose stage is active adds, row by row and column by column, the block sum of
an A row and a platen column to an accumulator element of CB, and touches no other byte. The A row comes from AB, from a feed FIFO (log 25:
DEDUCED), or from the pixels under a tap, padded with the low bits of PADV (log 15: DEDUCED). -/
def Obligations.MeDensePasses : Prop :=
  ∀ (s : State) (afmt aga agc rowsM1 z stg a c : Nat) (int : Bool) (g : MeSet), s.meQuiet →
    runOp (meActive s stg) s = (.ok true, s) → runOp (meSet s {} afmt int) s = (.ok g, s) → meGen s agc stg = some (c : Int) →
    c % 256 = 0 → inWindow s.c 1 c ((rowsM1 + 1) * (4 * g.nout)) = true →
    let rows := rowsM1 + 1
    let cstr := 4 * g.nout
    let key (i j : Nat) := winKey s.ck s.c 1 (c + i * cstr + 4 * j)
    let cell (el : Nat → Elems) (i j : Nat) : Nat × Flags :=
      accumulate (s.c.stream .me).num int g.ta g.tb (el i) ((g.cols s)[j]?.getD ⟨[], []⟩) (if z = 1 then 0 else (s.bufRead (key i j) 4).1)
    let done (i : Instr) (el : Nat → Elems) (ff : Vector (List (BitVec 2048)) 2) : Prop := ∃ t, exec i s = .next t
      ∧ s.meDoes t ((List.range rows).flatMap fun i => (List.range g.nout).map fun j => (key i j, (cell el i j).1))
          (fun b => ∃ i j, i < rows ∧ j < g.nout ∧ (cell el i j).2.getLsbD b = true)
      ∧ t.c.r.ff = ff
    let word (asrc ag : Nat) : Instr := if int then .mPassi afmt asrc ag agc rowsM1 z stg else .mPass afmt asrc ag agc rowsM1 z stg
    let rb := rowBytes g.ta g.kt
    let astride := bitsAt s.c.me.pcfg 32 16
    let astr := if astride = 0 then (rb + 3) / 4 * 4 else astride
    let need := (rb + 255) / 256
    let x := shapeOf (shapeBits s.c.me)
    let len := x.c * g.ta.width / 8
    let ff := s.c.r.ff
    (astride % 4 = 0 →
      (meGen s aga stg = some (a : Int) → a % 4 = 0 → inWindow s.c 0 a ((rows - 1) * astr + rb) = true →
        done (word 0 aga) (fun i => rowElems g.ta g.kt (s.bufRead (winKey s.ck s.c 0 (a + i * astr)) rb).1) ff)
      ∧ (∀ k, k < 2 → rows * need ≤ (vget [] ff k).length →
        done (word (k + 1) 0) (fun i => rowElems g.ta g.kt (fifoRow (vget [] ff k) i need))
          (vset ff k ((vget [] ff k).drop (rows * need)))))
    ∧ (∀ tap, astride % 4 = 0 → int = false → g.ta.isMx = false → meGen s aga stg = some (a : Int) → tap < x.kh * x.kw → x.c ≤ g.kt →
        ((a + rows : Nat) : Int) ≤ x.n * x.oh * x.ow → len % 4 = 0 →
        (∀ i, i < rows → ∀ o, convPixel x g.ta.width tap (a + i) = some o → inWindow s.c 0 o len = true) →
        done (.mConv afmt aga agc rowsM1 z stg tap) (fun i => ⟨(match convPixel x g.ta.width tap (a + i) with
          | some o => splitBits g.ta.width x.c (s.bufRead (winKey s.ck s.c 0 o) len).1
          | none => List.replicate x.c (x.padv % 2 ^ g.ta.width)) ++ List.replicate (g.kt - x.c) 0, []⟩) ff)

/-- R204, R218 to R220: a gather pass writes the galley entries of its rows, `g.sum` adds the block sum of the entries its indices name to
one element a row, `m.clr` clears its range, and a step whose stage is not active does nothing. -/
def Obligations.MeGatherPassesAndClears : Prop :=
  ∀ (s : State) (afmt agi aga agc agg rowsM1 z stg i0 c g0 : Nat) (g : MeSet) (fa fb : FFmt), s.meQuiet →
    let rows := rowsM1 + 1
    let n := (s.c.stream .me).num
    let m := s.c.me
    let at' (ag k : Nat) : Prop := meGen s ag stg = some (k : Int)
    let rd (k w : Nat) : Nat := (s.bufRead k w).1
    (runOp (meActive s stg) s = (.ok false, s) → ∀ i ∈ ([.mPass afmt 0 aga agc rowsM1 z stg, .mPassi afmt 0 aga agc rowsM1 z stg,
        .mConv afmt aga agc rowsM1 z stg 0, .mGpass afmt 0 aga agg rowsM1 stg, .gSum agg agi agc z rowsM1 stg, .mClr agc rowsM1 stg]
        : List Instr), exec i s = s.onward .me s)
    ∧ (runOp (meActive s stg) s = (.ok true, s) →
      (at' agc c → c % 256 = 0 → inWindow s.c 1 c (256 * rows) = true → ∃ t, exec (.mClr agc rowsM1 stg) s = .next t
        ∧ s.meDoes t ((List.range (64 * rows)).map fun i => (winKey s.ck s.c 1 (c + 4 * i), 0)) (fun _ => False) ∧ t.c.r.ff = s.c.r.ff)
      ∧ (let j := gJ m
         let w := gIxw m
         let rw := 4 * ((j * w + 31) / 32)
         let q (i k : Nat) := rd (winKey s.ck s.c 0 (i0 + i * rw)) rw / 2 ^ (w * k) % 2 ^ w
         let term (i k : Nat) := FFmt.f32.read n.flush
           (rd (galleyKey s.ck s.c (g0 + k * gNcw m + if gNcw m ≤ q i k then gSpec m else q i k)) 4)
         let sum (i : Nat) := blockSum (sumWindow n.nbl) ((List.range j).map (term i))
         let out (i : Nat) := accumF32 n (if z = 1 then 0 else rd (winKey s.ck s.c 1 (c + 4 * i)) 4) (sum i).1
         at' agg g0 → at' agi i0 → at' agc c → i0 % 4 = 0 → c % 4 = 0 → inWindow s.c 0 i0 (rows * rw) = true →
         inWindow s.c 1 c (4 * rows) = true → g0 + j * gNcw m ≤ s.c.galleyEntries → ∃ t, exec (.gSum agg agi agc z rowsM1 stg) s = .next t
           ∧ s.meDoes t ((List.range rows).map fun i => (winKey s.ck s.c 1 (c + 4 * i), (out i).1))
              (fun b => ∃ i, i < rows ∧ ((out i).2.getLsbD b = true ∨ (sum i).2.getLsbD b = true
                ∨ b = 0 ∧ ∃ k, k < j ∧ (gNcw m ≤ q i k ∨ (term i k).isSig = true)))
           ∧ t.c.r.ff = s.c.r.ff)
      ∧ (let d := gDlen m
         let jp := g.tb.depth / d
         let ncw := gNcw m
         let rb := rowBytes g.ta g.kt
         let astride := bitsAt m.pcfg 32 16
         let astr := if astride = 0 then (rb + 3) / 4 * 4 else astride
         let need := (rb + 255) / 256
         let piece (l : List Nat) (q : Nat) := (l.drop (q * d)).take d
         let cell (row : Nat → Nat) (i q p : Nat) := gEntry n fa fb (piece (rowElems g.ta g.kt (row i)).bits q)
           (piece (((g.cols s)[p]?.map (·.bits)).getD []) q)
         let done (w : Instr) (row : Nat → Nat) (ff : Vector (List (BitVec 2048)) 2) : Prop := ∃ t, exec w s = .next t
           ∧ s.meDoes t ((List.range rows).flatMap fun i => (List.range jp).flatMap fun q => (List.range ncw).map fun p =>
               (galleyKey s.ck s.c (g0 + i * ncw * jp + q * ncw + p), (cell row i q p).1))
              (fun b => ∃ i q p, i < rows ∧ q < jp ∧ p < ncw ∧ (cell row i q p).2.getLsbD b = true)
           ∧ t.c.r.ff = ff
         runOp (meSet s {} afmt false) s = (.ok g, s) → g.ta = .flt fa → g.tb = .flt fb → g.gangK = false → ncw ≤ 64 * g.phys.length →
         at' agg g0 → g0 + rows * ncw * jp ≤ s.c.galleyEntries → astride % 4 = 0 →
         (at' aga i0 → i0 % 4 = 0 → inWindow s.c 0 i0 ((rows - 1) * astr + rb) = true →
           done (.mGpass afmt 0 aga agg rowsM1 stg) (fun i => rd (winKey s.ck s.c 0 (i0 + i * astr)) rb) s.c.r.ff)
         ∧ ∀ k, k < 2 → rows * need ≤ (vget [] s.c.r.ff k).length →
           done (.mGpass afmt (k + 1) 0 agg rowsM1 stg) (fun i => fifoRow (vget [] s.c.r.ff k) i need)
             (vset s.c.r.ff k ((vget [] s.c.r.ff k).drop (rows * need)))))

/-- R201, R202, R216, R222, R224 to R226: ME's register, shape, queue, synchronisation, loop and branch words. -/
def Obligations.MeControlWords : Prop :=
  ∀ (s : State) (csel off imm sem tl inc lev : Nat), s.meQuiet → csel < 0x38 → sem < 64 → lev < 6 →
    let st := s.c.stream .me
    let a := 8 * off
    let v := BitVec.ofNat 64 (winRead s.ck 0 a 8 s).1
    let rcd := (winRead s.ck 0 (32 * off) 32 s).1
    let target := (((st.at : Int) + 4 * signedOf 16 off) % 2 ^ 32).toNat
    let cnt := vget 0 s.c.r.sem sem
    let tv := vget 0 s.c.me.tlx tl + BitVec.ofNat 64 inc
    let n := (vget 0 st.iter lev).toNat + 1
    let holds (x : BitVec 64) (i : Instr) : Prop := exec i s = s.onward .me (meCrWrite s.ck csel x s)
      ∧ (0x20 ≤ csel → csel < 0x24 ∨ 0x28 ≤ csel → ∀ t, exec i s = .next t → meCrRead t csel = x)
    (inWindow s.c 0 a 8 = true →
      (meCrBad csel v = false → holds v (.mCrLd csel off)) ∧ (meCrBad csel v = true → s.meTraps .crValue (.mCrLd csel off))
      ∧ ∃ t, exec (.mCrSt csel off) s = .next t ∧ (t.bufRead (winKey s.ck s.c 0 a) 8).1 = (meCrRead s csel).toNat
          ∧ (∀ k, k < winKey s.ck s.c 0 a ∨ winKey s.ck s.c 0 a + 8 ≤ k → t.buf.read k = s.buf.read k)
          ∧ (t.c.stream .me).pc = st.next ∧ { t.c.r with streams := s.c.r.streams } = s.c.r ∧ t.mem = s.mem)
    ∧ (meCrBad csel (BitVec.ofNat 64 imm) = false → holds (BitVec.ofNat 64 imm) (.mCrImm csel imm))
    ∧ (inWindow s.c 0 (32 * off) 32 = true → shapeBad rcd = false → ∃ t, exec (.mShape off) s = .next t ∧ shapeBits t.c.me = rcd
        ∧ { t.c.me with shape := s.c.me.shape } = s.c.me ∧ (t.c.stream .me).pc = st.next ∧ t.mem = s.mem ∧ t.buf = s.buf)
    ∧ (cnt ≠ 0xFFFF#16 → exec (.meSemSig sem) s = s.onward .me (s.modRegs s.ck fun r => { r with sem := vset r.sem sem (cnt + 1) }))
    ∧ (s.semFree s.ck .me sem = true →
        exec (.meSemWait sem) s = s.onward .me (s.modRegs s.ck fun r => { r with sem := vset r.sem sem (cnt - 1) }))
    ∧ (s.semFree s.ck .me sem = false → exec (.meSemWait sem) s = s.waits .me (.sem sem))
    ∧ (cnt = 0 → s.semFree s.ck .me sem = false)
    ∧ (cnt = 0xFFFF#16 → exec (.meSemSig sem) s = s.traps .me .semOverflow 0 0 (endUnit s.ck .me st.next s))
    ∧ (tv.toNat ≤ (s.timeline s.ck tl).done.toNat → exec (.meTlWait tl inc) s = s.onward .me (s.modRegs s.ck fun r =>
        { r with me := { r.me with tlx := vset r.me.tlx tl tv } }))
    ∧ ((s.timeline s.ck tl).done.toNat < tv.toNat → exec (.meTlWait tl inc) s = s.waits .me (.tl tl tv.toNat))
    ∧ exec (.mB off) s = s.goesTo .me target s
    ∧ (st.unfit false 0 = false → lev < s.c.r.levels.length → (s.c.cutAt .me lev = true → s.c.st ≠ .run) →
        (n < (vget 0 s.c.r.lc lev).toNat + s.c.r.epi lev 2 → n < 2 ^ 32 → ∃ t, exec (.meLbr lev off) s = .next t
          ∧ (t.c.stream .me).pc = target ∧ vget 0 (t.c.stream .me).iter lev = BitVec.ofNat 32 n
          ∧ vget 0 (t.c.stream .me).entry lev = vget 0 st.entry lev)
        ∧ ((vget 0 s.c.r.lc lev).toNat + s.c.r.epi lev 2 ≤ n → ∃ t, exec (.meLbr lev off) s = .next t
          ∧ (t.c.stream .me).pc = st.next ∧ (t.c.stream .me).drained = (st.drained || s.c.cutAt .me lev)
          ∧ vget 1 (t.c.stream .me).iter lev = 0 ∧ vget 1 (t.c.stream .me).entry lev = 0))
    ∧ ∀ (k : Nat) (e : BitVec 160) (rest : List (BitVec 160)), k < 2 → vget [] s.c.r.tq k = e :: rest →
        let pc := if e.toNat / 2 ^ 112 % 2 = 0 then target else st.next
        let took := s.modRegs s.ck fun r => { r with tq := vset r.tq k rest, me := { r.me with popped := some e } }
        (e.toNat % 2 ^ 32 = 0 → exec (.mTq k off) s = s.goesTo .me pc (modMe s.ck (fun m => { m with popped := none }) took))
        ∧ ∀ t, e.toNat % 2 ^ 32 ≠ 0 → runOp (tqRun e) took = (.ok (), t) → t.stuck = none → (t.ctx s.ck).r.me.drains = [] →
          exec (.mTq k off) s = s.goesTo .me pc (modMe s.ck (fun m => { m with popped := none }) t)

/-! ### Words of XL and XS (R234 to R272) -/

/-- R262, R266 to R269: the register, branch, barrier, synchronisation and control-register words of a transfer stream; an immediate that
a prefix extends is the extended one (R101). -/
def Obligations.TransferControlWords : Prop :=
  ∀ (s : State) (d ca cb imm off sem tl csel : Nat), s.calm → d < 16 → sem < 64 → csel < 0x10 →
    let u := s.xu
    let st := s.c.stream u
    let a := cGet s ca
    let b := cGet s cb
    let out (v : BitVec 32) := s.onward u (cSet d v s)
    let target := (((st.at : Int) + 4 * signedOf 16 off) % 2 ^ 32).toNat
    let go (p : Prop) [Decidable p] := s.goesTo u (if p then target else st.next) s
    let cnt := vget 0 s.c.r.sem sem
    let idle : Prop := if u = .xs then s.c.r.xsQ = [] ∧ s.c.r.coll = [] else s.c.r.xlQ = []
    let o := a.toNat
    let obj := (winRead s.ck 0 o 16 s).1
    (s.fits u true 0 → exec (.cAddi d ca imm) s = out (a + BitVec.ofInt 32 (st.imm 16 imm true)))
    ∧ (s.fits u false 0 →
    exec (.cAdd d ca cb) s = out (a + b) ∧ exec (.cSub d ca cb) s = out (a - b) ∧ exec (.cMul d ca cb) s = out (a * b)
    ∧ exec (.cAnd d ca cb) s = out (a &&& b) ∧ exec (.cOr d ca cb) s = out (a ||| b) ∧ exec (.cXor d ca cb) s = out (a ^^^ b)
    ∧ exec (.cSll d ca cb) s = out (a <<< (b.toNat % 32)) ∧ exec (.cSrl d ca cb) s = out (a >>> (b.toNat % 32))
    ∧ exec (.cSra d ca cb) s = out (a.sshiftRight (b.toNat % 32))
    ∧ exec (.cMin d ca cb) s = out (if a.toInt < b.toInt then a else b) ∧ exec (.cMax d ca cb) s = out (if a.toInt < b.toInt then b else a)
    ∧ exec (.cMinu d ca cb) s = out (if a.toNat < b.toNat then a else b) ∧ exec (.cMaxu d ca cb) s = out (if a.toNat < b.toNat then b else a)
    ∧ exec (.cSlt d ca cb) s = out (if a.toInt < b.toInt then 1 else 0) ∧ exec (.cSltu d ca cb) s = out (if a.toNat < b.toNat then 1 else 0)
    ∧ exec (.cAddi d ca imm) s = out (a + (BitVec.ofNat 16 imm).signExtend 32) ∧ exec (.cLui d imm) s = out (BitVec.ofNat 32 (imm * 65536))
    ∧ exec (.cHmv d ca) s = out (hGet s ca) ∧ exec (.hMv d ca) s = s.onward u (hSet d a s)
    ∧ exec (.hLi d imm) s = s.onward u (hSet d (BitVec.ofNat 32 imm) s)
    ∧ exec (.cBeq ca cb off) s = go (a = b) ∧ exec (.cBne ca cb off) s = go (a ≠ b)
    ∧ exec (.cBltu ca cb off) s = go (a.toNat < b.toNat) ∧ exec (.cBgeu ca cb off) s = go (b.toNat ≤ a.toNat)
    ∧ exec (.xlsCrRd d csel) s = out ((crRead s u csel).setWidth 32)
    ∧ exec (.xlsCrRdHi d csel) s = out ((crRead s u csel >>> 32).setWidth 32)
    ∧ (crBad csel o = false → exec (.xlsCrWr ca csel) s = s.onward u (crWrite s.ck u csel o s))
    ∧ (crBad csel o = true → exec (.xlsCrWr ca csel) s = s.traps u .crValue 0 0 s)
    ∧ (idle → cnt ≠ 0xFFFF#16 → exec (.xlsSemSig sem) s = s.onward u (s.modRegs s.ck fun r => { r with sem := vset r.sem sem (cnt + 1) }))
    ∧ (idle → cnt = 0xFFFF#16 → exec (.xlsSemSig sem) s = s.traps u .semOverflow 0 0 (endUnit s.ck u st.next s))
    ∧ (¬ idle → exec (.xlsSemSig sem) s = s.waits u .cmds)
    ∧ (s.semFree s.ck u sem = true →
        exec (.xlsSemWait sem) s = s.onward u (s.modRegs s.ck fun r => { r with sem := vset r.sem sem (cnt - 1) }))
    ∧ (s.semFree s.ck u sem = false → exec (.xlsSemWait sem) s = s.waits u (.sem sem)) ∧ (cnt = 0 → s.semFree s.ck u sem = false)
    ∧ (o ≤ (s.timeline s.ck tl).done.toNat → exec (.xlsTlWait tl ca) s = s.onward u s)
    ∧ ((s.timeline s.ck tl).done.toNat < o → exec (.xlsTlWait tl ca) s = s.waits u (.tl tl o))
    ∧ (o % 16 = 0 → inWindow s.c 0 o 16 = true → (winRead s.ck 0 o 16 s).2 = false →
      exec (.xlsBarInit ca cb) s = s.onward u (winWrite s.ck 0 o 12 (b.toNat + (obj / 2 ^ 64 + 1) % 2 ^ 32 * 2 ^ 64) s)
      ∧ (obj % 2 ^ 32 ≤ obj / 2 ^ 32 % 2 ^ 32 → exec (.xlsBarWait d ca) s = out (BitVec.ofNat 32 (obj / 2 ^ 64)))
      ∧ (obj / 2 ^ 32 % 2 ^ 32 < obj % 2 ^ 32 → exec (.xlsBarWait d ca) s = s.waits u (.bar o)))
    ∧ (o % 16 ≠ 0 → exec (.xlsBarInit ca cb) s = s.traps u .barAlign 0 0 s ∧ exec (.xlsBarWait d ca) s = s.traps u .barAlign 0 0 s))

/-- R25, R235: a command of XL or XS whose issue passes its checks takes the next number of its timeline (TL0, TL1; TL7 for a collective),
samples the stream's class, modes and coordinates, and joins its queue; the stream goes on. With a full queue it waits and has done
nothing; a field that must be 0 and is not traps first (R105, R272; log 17: DEDUCED). -/
def Obligations.TransferCommandsIssue : Prop :=
  ∀ (s t : State) (h cc cbf rec b fo bar : Nat), s.calm →
    let cmds : List (Instr × CmdOp × Op Unit × Nat) := [
      (.xlLd h cc cbf rec b fo bar, .ld, loadIssue .ld 0 h cc rec (fo = 1) (bar = 1) (fun _ => false) (fun _ => false) []
        (some (b, (cGet s cbf).toNat)) id (fun _ => []) (fun _ => false) s, 1),
      (.xlGather h cc cbf rec b fo bar, .gather, loadIssue .gather 0 h cc rec (fo = 1) (bar = 1) (fun r => !r.flat)
        (fun d => decide (d.rank < 2)) [1] (some (b, (cGet s cbf).toNat)) id (fun r => [(r.aux, 4 * r.ext 1)]) (fun _ => false) s, 1),
      (.xlFeed h cc rec b fo, .feed, loadIssue .feed b h cc rec (fo = 1) false (fun _ => false) (fun _ => false) [] none
        (fun r => { r with rstr := 0 }) (fun _ => []) (fun _ => false) s, 1),
      (.xlRoute h cc rec, .route, loadIssue .route 0 h cc rec false false (fun r => decide (r.sb ≠ 0))
        (fun d => decide (d.rank < 2)) [1] none (fun r => { r with rstr := 0 })
        (fun r => [(r.aux, 16 * r.ext 1), (r.aux2, 256)]) (fun r => decide (r.aux2 % 32 ≠ 0)) s, 1),
      (.xlPlatenDense h cc cbf rec, .dense, xlPlatenDenseIssue h cc cbf rec s, 1),
      (.xlPlatenCw h cc cbf rec, .cw, xlPlatenCwIssue h cc cbf rec s, 1),
      (.xlCase h cc cbf, .case, caseIssue false h cc (cGet s cbf).toNat s, 1),
      (.xlCaseAuto h cc, .case, caseIssue true h cc 0 s, 1),
      (.xlExpand h cc cbf rec b fo bar, .expand, expandIssue false h cc cbf rec b fo bar s, 1),
      (.xlExpandAuto h cc cbf rec b fo bar, .expand, expandIssue true h cc cbf rec b fo bar s, 1),
      (.xlAcflush cc rec b, .acflush, xlAcflushIssue cc rec b s, 0)]
    let checked : List (Instr × CmdOp × Op Unit × Nat) := [
      (.xlGather8 h 0 cbf rec b bar, .gather8, xlGather8Issue h 0 cbf rec b bar s, 1),
      (.xlPlatenImage 0 0 cbf rec, .image, xlPlatenImageIssue 0 cbf rec s, 1)]
    let xs : List (Instr × CmdOp × Op Unit × Nat) := [
      (.xsSt h cc cbf rec b, .st, xsStIssue h cc cbf rec b s, 1), (.xsStash h cc cbf rec b, .stash, xsStashIssue h cc cbf rec b s, 1),
      (.xsTopk cc cbf rec b, .topk, xsTopkIssue cc cbf rec b s, 0), (.xsUpd h cc cbf rec b, .upd, xsUpdIssue h cc cbf rec b s, 1),
      (.xsScatter h cc cbf rec b fo, .scatter, xsScatterIssue h cc cbf rec b fo s, 1),
      (.xsReidx h cc cbf rec, .reidx, xsReidxIssue h cc cbf rec s, 1), (.xsRinv h cc rec, .rinv, xsRinvIssue h cc rec s, 1)]
    let issues (u : StreamId) (tl : Nat) (i : Instr) (op : CmdOp) : Prop := ∃ t' q, exec i s = .next t'
      ∧ t'.c.r.xq u = s.c.r.xq u ++ [q] ∧ q.op = op ∧ q.num = (s.timeline s.ck tl).issued.toNat + 1
      ∧ q.cls = (s.c.stream u).accCls ∧ q.rmode = (s.c.stream u).rmode ∧ q.flush = (s.c.stream u).flush ∧ q.nbl = (s.c.stream u).nbl
      ∧ q.coord = ((List.range 5).map fun k => (cGet s ((if op = .gather8 ∨ op = .image then 0 else cc) + k)).toNat) ∧ q.prog = 0
      ∧ (t'.timeline s.ck tl).issued = (s.timeline s.ck tl).issued + 1 ∧ (t'.c.stream u).pc = (s.c.stream u).next
      ∧ t'.c.r.xlC = s.c.r.xlC ∧ t'.c.r.xsC = s.c.r.xsC ∧ t'.c.r.xlH = s.c.r.xlH ∧ t'.c.r.xsH = s.c.r.xsH ∧ t'.c.r.sem = s.c.r.sem
    (s.who.stream = .xl → ∀ x ∈ cmds ++ checked, s.fits .xl false x.2.2.2 → runOp x.2.2.1 s = (.ok (), t) → t.stuck = none →
        issues .xl 0 x.1 x.2.1)
    ∧ (s.who.stream = .xs → ∀ x ∈ xs, s.fits .xs false x.2.2.2 → runOp x.2.2.1 s = (.ok (), t) → t.stuck = none → issues .xs 1 x.1 x.2.1)
    ∧ (s.who.stream = .xl → 16 ≤ s.c.r.xlQ.length → ∀ x ∈ cmds ++ checked, s.fits .xl false x.2.2.2 → exec x.1 s = s.waits .xl .cmdRoom)
    ∧ (cc ≠ 0 → exec (.xlGather8 h cc cbf rec b bar) s = s.traps .xl .illRsv 0 0 s)
    ∧ (h ≠ 0 ∨ cc ≠ 0 → exec (.xlPlatenImage h cc cbf rec) s = s.traps .xl .illRsv 0 0 s)
    ∧ (s.who.stream = .xs → 16 ≤ s.c.r.xsQ.length → ∀ x ∈ xs, s.fits .xs false x.2.2.2 → exec x.1 s = s.waits .xs .cmdRoom)
    ∧ (s.who.stream = .xs → s.fits .xs false 1 → runOp (xsCollIssue h rec s) s = (.ok (), t) → t.stuck = none →
        ∃ t' q, exec (.xsColl h rec) s = .next t' ∧ t'.c.r.coll = s.c.r.coll ++ [q] ∧ q.num = (s.timeline s.ck 7).issued.toNat + 1
          ∧ q.cls = (s.c.stream .xs).accCls ∧ (t'.timeline s.ck 7).issued = (s.timeline s.ck 7).issued + 1
          ∧ t'.c.r.xsQ = s.c.r.xsQ ∧ (t'.c.stream .xs).pc = (s.c.stream .xs).next)

/-! ### Events: responses, waits and completions -/

/-- R24, R107, R155, R228, R235, R376: a load in flight returns, a memory instruction's response arrives, a blocked word whose wait is met is
ready and goes on when its context is granted the engine, a stream retires once its work is complete, and the oldest step of ME drains. -/
def Obligations.ResponsesAndWaitsEnd : Prop :=
  ∀ (s s1 s2 : State) (core slot stream sd ea n ty cls ord scope key v : Nat), s.calm → slot < 4 →
    let ck := core * 4 + slot
    let c := s.ctx ck
    let u := StreamId.ofCode stream
    let free (r : Regs) : Regs := { r with pend := none }
    c.active = true →
    ((c.stream .sq).wait = some .load → c.r.pend = some (.load sd ea n ty cls ord scope) →
      runOp (flatKey (s.requester ck 0 0) ea n 1) (s.modRegs ck free) = (.ok key, s1) →
      runOp (loadAt ck ea key n cls ord scope) s1 = (.ok v, s2) → s2.stuck = none →
      exec (.sqLoadReturn core slot) s = .next (settle s (endUnit ck .sq (c.stream .sq).next (sPut ck sd (tyExtend ty v) s2))))
    ∧ (∀ wr w line mask sc, (c.stream .sq).wait = some .resp → c.r.pend = some (.resp wr sd w line mask sc) → respReady ck s = true →
      ∃ t, exec (.sqMemoryResponse core slot) s = .next t ∧ (t.ctx ck).r.pend = none ∧ ((t.ctx ck).stream .sq).wait = none
        ∧ (∀ k, k < 32 → vget 0 (t.ctx ck).r.s k = if wr = true ∧ k = sd ∧ sd ≠ 0 then w else vget 0 c.r.s k)
        ∧ ∀ l, line = some l → ∀ x ∈ (t.core core).l1, x.line ≠ l)
    ∧ (∀ w k g, (c.stream u).wait = some w → s.lock = none → grantAt core u s = some (k, g) →
      let gone : State := { g.modStream ck u fun st => { st with wait := none } with lock := some ⟨core, slot, u⟩ }
      let next := if k = slot then gone else s
      (w ≠ .cmdRoom → w ≠ .retire → exec (.waitSatisfied core slot stream) s = .next next)
      ∧ (w = .cmdRoom → exec (.commandQueueRoom core slot stream) s = .next next))
    ∧ (∀ w, (c.stream u).wait = some w → w ≠ .retire → waitMet ck u w s = true → c.cmdHalted u = false → (c.stream u).retired = false →
        (c.stream u).drained = false → slotOpen core slot s = true → ready ⟨core, slot, u⟩ s = true)
    ∧ ((c.stream u).wait = some .retire → waitMet ck u .retire s = true → ∃ t, exec (.streamRetire core slot stream) s = .next t
          ∧ ((t.ctx ck).stream u).retired = true ∧ ((t.ctx ck).stream u).wait = none
          ∧ ∀ x, x ≠ u → (t.ctx ck).stream x = c.stream x)
    ∧ ∀ d l, c.r.me.drains = d :: l →
      ∃ t, exec (.meStepComplete core slot) s = .next t ∧ (d.inve = false ∨ l = [] → (t.ctx ck).r.flags = c.r.flags ||| d.flags)
        ∧ (d.inve = false → t.buf = commit s.buf d.cells.reverse ∧ (t.ctx ck).r.me = { c.r.me with drains := l }
            ∧ t.mem = s.mem ∧ (t.ctx ck).st = c.st)
        ∧ (d.inve = true → (t.ctx ck).st = .halting ∧ (t.ctx ck).r.me.drains = []
            ∧ ((c.stream .me).cause = 0 → ((t.ctx ck).stream .me).cause = Cause.arithInv.code
              ∧ ((t.ctx ck).stream .me).recorded = some d.pc))

/-- R25, R59, R147, R242, R299 to R304, R351 to R358, R446: a command that may run and whose work succeeds completes: it leaves its queue,
its flags join FLAGS and its number completes on its timeline. The case fills, the rounds of an assignment that ASG serves (R359) and the
messages of a collective advance theirs. That a command's accesses happen at its completion is the model's choice (log 11: DESIGN CHOICE). -/
def Obligations.CommandsComplete : Prop :=
  ∀ (s t : State) (core slot unit num cx chunk rank : Nat) (bytes : List (BitVec 8)) (poison : List Nat), s.calm → slot < 4 →
    let ck := core * 4 + slot
    let c := s.ctx ck
    let u : StreamId := if unit = 4 then .xs else .xl
    let tl := if unit = 4 then 1 else 0
    let ends (x : State) (k n : Nat) (err : Bool) (y : State) : Prop := y.timeline ck k = (let a := x.timeline ck k
      tlAdvance (a.ahead.length + 1) { a with ahead := n :: a.ahead, err := a.err || err })
    let a := c.r.asg
    let served : Prop := ∃ g, asgGrant core s = some (slot, g)
    c.active = true →
    (∀ q q', findCmd ck u num s = some q → q.op ≠ .case → cmdMayRun ck u q s = true →
      runOp (if u = .xs then xsBody ck q else xlBody ck q) (modCmd ck u num (fun q => { q with wait := none }) s) = (.ok (), t) →
      findCmd ck u num t = some q' → (q'.inve = false ∨ q'.flags &&& fINV = 0) → (cmdComplete ck u num t).stuck = none →
      ∃ t', exec (.xlXsCommandComplete core slot unit num) s = .next t' ∧ (t'.ctx ck).r.xq u = ((t.ctx ck).r.xq u).filter (fun x => x.num ≠ num)
        ∧ (t'.ctx ck).r.flags = (t.ctx ck).r.flags ||| q'.flags ∧ ends t tl num q'.err t')
    ∧ (∀ q, ((vget [] c.r.cxQ cx).take 4).find? (fun x => x.num = num) = some q → q.halted = none → cx < 4 → s.rows = none →
      ((vget [] c.r.cxQ cx).takeWhile fun y => y.num ≠ num).any (fun y => conflict y.ranges q.ranges) = false →
      runOp (cxMove ck cx num (s.requester ck 3 (5 + cx)) (q.len + 1)) s = (.ok (), t) → t.stuck = none →
      ∃ t', exec (.cxCopyComplete core slot cx num) s = .next t'
        ∧ vget [] (t'.ctx ck).r.cxQ cx = (vget [] (t.ctx ck).r.cxQ cx).filter (fun x => x.num ≠ num) ∧ ends t (2 + cx) num false t')
    ∧ (∀ q rest, a.queue = q :: rest →
      (q.kind = 0 → a.run = none → served → ∃ t' r, exec (.asgRunStart core slot) s = .next t'
        ∧ (t'.ctx ck).r.asg = { a with run := some r, skid := 0 }
        ∧ r.a = List.replicate (fieldOf q.rcd.toNat 0 2) none ∧ r.p = a.price.toList.take (fieldOf q.rcd.toNat 2 2)
        ∧ r.rounds = 0 ∧ r.status = none ∧ r.scores.length = fieldOf q.rcd.toNat 0 2 ∧ r.cap.length = fieldOf q.rcd.toNat 2 2)
      ∧ (∀ r g, a.run = some r → r.bad = false → r.status = none → asgGrant core s = some (slot, g) →
        exec (.asgRound core slot) s = .next (modAsg ck (fun a => { a with run := some (asgStep (a.env q) a.limit.toNat r) }) g))
      ∧ (∀ r st, a.run = some r → r.bad = false → r.status = some st → ∃ t', exec (.asgFinish core slot) s = .next t'
        ∧ (t'.ctx ck).r.asg.queue = rest ∧ (t'.ctx ck).r.asg.run = none ∧ (t'.ctx ck).r.asg.rstat = BitVec.ofNat 32 st
        ∧ (t'.ctx ck).r.asg.rcount = BitVec.ofNat 32 r.rounds ∧ (t'.ctx ck).r.flags = c.r.flags ||| r.flags ∧ ends s 6 q.num false t'
        ∧ ∀ j, j < 256 → vget 0 (t'.ctx ck).r.asg.price j = (r.p[j]?).getD (vget 0 a.price j))
      ∧ (q.kind = 2 → served → ∃ t', exec (.asgPriceCommandComplete core slot) s = .next t'
        ∧ (t'.ctx ck).r.asg = { a with queue := rest, skid := 0 }
        ∧ t'.buf = commit s.buf (abList ck 4 q.off ((a.price.toList.take q.n).map (·.toNat)) s).bbuf ∧ ends s 6 q.num false t')
      ∧ (q.kind = 1 → served → (∀ j, j < q.n → ∃ x, winRead ck 0 (q.off + 4 * j) 4 s = (x, false) ∧ f32Special (BitVec.ofNat 32 x) = false) →
        ∃ t', exec (.asgPriceCommandComplete core slot) s = .next t' ∧ (t'.ctx ck).r.asg.queue = rest ∧ ends s 6 q.num false t'
        ∧ ∀ j, j < 256 → vget 0 (t'.ctx ck).r.asg.price j
            = if j < q.n then BitVec.ofNat 32 (winRead ck 0 (q.off + 4 * j) 4 s).1 else vget 0 a.price j))
    ∧ (∀ q v, fillOf ck num s = some q → q.data = none → runOp (cwRead (xReq ck .xl s) q.cls (q.bnd 0 0).pin
          ((q.bnd 0 0).head.stride * (q.coord[0]?.getD 0)) (q.bnd 0 0).head.stride) s = (.ok v, t) → t.stuck = none →
        exec (.xlXsCommandComplete core slot 3 num) s
          = .next (settle s (modCmd ck .xl num (fun q => { q with data := some (BitVec.ofNat 16384 v) }) t)))
    ∧ (∀ q, fillCmd ck num s = some q →
      let p := q.pin0
      (q.step = 0 → q.opt = 0 → exec (.caseFillGrant core slot num) s = .next (grantSlot ck q.buf q s))
      ∧ (∀ k, q.step = 0 → q.opt = 1 → chooseSlot ck p.cbid (q.coord[0]?.getD 0) p.version none s = some (k, false) →
        exec (.caseFillGrant core slot num) s = .next (grantSlot ck k q s))
      ∧ (∀ k, q.step = 2 → chooseSlot ck p.cbid (q.coord[0]?.getD 0) p.version q.excl s = some (k, false) →
        exec (.caseFillRechoose core slot num) s = .next (grantSlot ck k q s))
      ∧ (∀ k, q.step = 0 → q.opt = 1 → chooseSlot ck p.cbid (q.coord[0]?.getD 0) p.version none s = some (k, true) →
        (cmdComplete ck .xl num s).stuck = none →
        exec (.caseFillGrant core slot num) s = .next (settle s (cmdComplete ck .xl num s)))
      ∧ (∀ v, q.step = 1 → q.data = some v →
        let key := caseKey core (c.caseSlots[q.slot]?.getD 0)
        let e := cmdComplete ck .xl num (caseTouch ck q.slot (modCase ck q.slot
          (fun x => { x with state := 2, bad := [], landed := s.cycle.toNat })
          ((zeroBuf key 2048 s).bufWrite key (q.bnd 0 0).head.stride v.toNat)))
        e.stuck = none → exec (.caseFillLanded core slot num) s = .next (settle s e)))
    ∧ (∀ k w x, vget {} (s.core core).cases k = x → k < 16 → x.state = 2#2 → x.auto = true → (s.die (core / 48)).elBase = 0 →
        ∃ t', exec (.caseScrub core k (some w)) s = .next t'
          ∧ vget {} (t'.core core).cases k = { x with state := 0, cbid := 0, block := 0, bad := [] })
    ∧ (∀ q y, findColl ck num s = some q → q.status = 0 → q.chunks[chunk]? = some y → y.halted = none →
      (y.state = 0 → rank = q.reducer chunk → rank ≠ q.rank → bytes.length = q.resultBytes chunk →
        exec (.cleChunkMessage core slot num chunk rank true bytes poison) s
          = .next (modChunk ck num chunk (fun y => { y with state := 3, result := bytes, rpoison := poison }) s))
      ∧ exec (.cleMemberTimeout core slot num) s = .next (collGiveUp ck num 1 s))
    ∧ ∀ q, (c.r.coll.find? fun x => x.num = num) = some q → q.done = true → c.r.collHeld q = false →
        ∃ t', exec (.cleCollectiveComplete core slot num) s = .next t' ∧ (t'.ctx ck).r.coll = c.r.coll.filter (fun x => x.num ≠ num)
          ∧ (t'.ctx ck).r.flags = c.r.flags ||| q.flags ∧ ends s 7 num (decide (q.status ≠ 0)) t'

/-! ### Events: slots -/

/-- R280, R281, R369 to R378, R401 to R404: slot and entry commands, the expiry of a slice, the decision on a pre-emption, the end and the
abandoning of a drain, the end of a halt, retirement, binds, and the eviction of a line of L2 (R320). A pre-emption that finds a word of SQ
whose response is a trap ends in that trap (R107). -/
def Obligations.SlotEvents : Prop :=
  ∀ (s t : State) (core slot value die line : Nat), s.calm → slot < 4 →
    let ck := core * 4 + slot
    let c := s.ctx ck
    let e := value / 16 % 8
    let entry := vget {} (s.core core).pending e
    let named := fieldOf entry.bits.toNat 0 4 = value / 2 ^ 32 % 2 ^ 32
    let quiet := c.r.me.drains.any (·.inve) = false ∧ ∀ x y z, c.r.pend ≠ some (.fault x y z)
    let asked (c : Ctx) : Ctx := { c with st := .halting, preempt := true, preemptAt := s.cycle.toNat }
    let halts (i : Instr) (k : Nat) : Prop := ∃ t, exec i s = .next t ∧ (t.ctx ck).st = .halting ∧ (t.ctx ck).preempt = false
      ∧ (t.ctx ck).halt = some { kind := k } ∧ (∀ u, ((t.ctx ck).stream u).pc = (c.stream u).pc ∧ ((t.ctx ck).stream u).wait = none)
      ∧ ∀ j, j ≠ ck → t.ctx j = s.ctx j
    (named →
      (∃ t, exec (.scmdCancel core value) s = .next t ∧ t.ctxs = s.ctxs
        ∧ vget {} (t.core core).pending e = { entry with valid := false, cancelled := s.cycle.toNat + 1 })
      ∧ ∃ t, exec (.scmdValidate core value) s = .next t ∧ t.ctxs = s.ctxs
        ∧ vget {} (t.core core).pending e = if entry.cancelled = s.cycle.toNat + 1 then entry else { entry with valid := true })
    ∧ (¬ named → exec (.scmdValidate core value) s = .next s ∧ exec (.scmdCancel core value) s = .next s)
    ∧ (e = slot → c.linst.toNat = value / 2 ^ 32 % 2 ^ 32 →
      (c.st = .run ∨ c.st = .gated ∨ c.st = .retiring → exec (.scmdPreempt core value) s = .next (s.modCtx ck asked))
      ∧ (c.st ≠ .free → (∀ x y z, c.r.pend ≠ some (.fault x y z)) → halts (.scmdKill core value) 3)
      ∧ (c.st = .gated → exec (.scmdStart core value) s = .next (s.modCtx ck fun c => { c with st := .run, sliceStart := s.cycle })))
    ∧ (c.st = .run → c.bind.slice ≠ 0 → c.bind.slice ≤ (s.cycle - c.sliceStart).toNat →
      (nextEntry core slot s = none → exec (.sliceExpiry core slot) s = .next (s.modCtx ck fun c => { c with sliceStart := s.cycle }))
      ∧ (nextEntry core slot s ≠ none →
        exec (.sliceExpiry core slot) s = .next (s.modCtx ck asked)))
    ∧ (∀ x y z, c.preempt = true → c.st ≠ .free → c.st ≠ .binding → c.halt = none → c.r.pend = some (.fault x y z) →
      c.r.me.drains.any (·.inve) = false → c.r.budget = 0 → ∃ t, exec (.preemptRequest core slot) s = .next t ∧ (t.ctx ck).st = .halting
        ∧ (t.ctx ck).halt = some { kind := 2, cause := x.code, faddr := y } ∧ ((t.ctx ck).stream .sq).pc = z)
    ∧ (c.preempt = true → c.st ≠ .free → c.st ≠ .binding → c.halt = none →
      (c.unitHalted = true ∨ c.r.cut ≠ none ∨ c.r.cutLevel = none ∨ (s.core core).draining ≠ none ∨ c.r.budget = 0
          → quiet → halts (.preemptRequest core slot) 0)
      ∧ (∀ lev, c.unitHalted = false → c.r.cut = none → (s.core core).draining = none → c.r.cutLevel = some lev →
        (∀ k, k < 4 → k ≠ slot → (s.ctx (core * 4 + k)).st = .free) → c.r.cutCost lev (c.r.cutIter lev) ≤ c.r.budget.toNat →
        c.r.budget ≠ 0 → ∃ t, exec (.preemptRequest core slot) s = .next t ∧ (t.ctx ck).st = .halting ∧ (t.ctx ck).halt = some { kind := 1 }
          ∧ (t.ctx ck).r.cut = some ⟨lev, c.r.cutIter lev, vget 0 c.r.lc lev, c.preemptAt + c.r.budget.toNat⟩
          ∧ (t.ctx ck).r.lc = vset c.r.lc lev (BitVec.ofNat 32 (c.r.cutIter lev)) ∧ (t.core core).draining = some slot))
    ∧ (c.drainOver = true → quiet → halts (.drainEnd core slot) 4)
    ∧ (drainLate ck s = true → quiet → halts (.drainBudgetExpired core slot) 0
        ∧ ∀ t, exec (.drainBudgetExpired core slot) s = .next t → (t.ctx ck).r.cut = c.r.cut ∧ (t.ctx ck).r.boundMiss = satAdd c.r.boundMiss 1)
    ∧ (c.stopped = true → postsNow ck s = true → (haltDone ck s).stuck = none →
        ∃ t, exec (.contextHalted core slot) s = .next t ∧ (t.ctx ck).st = .free ∧ (t.ctx ck).halt = none ∧ (t.ctx ck).bind = c.bind
          ∧ (t.ctx ck).linst = c.linst ∧ (t.ctx ck).bseq = c.bseq ∧ (t.ctx ck).r.boundMiss = c.r.boundMiss
          ∧ (t.ctx ck).r.caseWait = c.r.caseWait ∧ (t.ctx ck).r.caseRefill = c.r.caseRefill ∧ ∀ j, j ≠ ck → t.ctx j = s.ctx j)
    ∧ (c.retired = true → exec (.placementRetire core slot) s = .next (s.modCtx ck fun c => { c with st := .retiring }))
    ∧ (retireReady ck s = true → lrAddr s c.bind.part c.bind.ridx + 256 ≤ dramEnd → (s.mcSet (core / 48) c.bind.part).base = 0 →
        ∃ t, exec (.placementRetire core slot) s = .next t ∧ (t.ctx ck).st = .free ∧ (t.ctx ck).bind = c.bind
          ∧ (t.die (core / 48)).l2 = ((release ck (retireScope ck s).1 allClasses s).die (core / 48)).l2 ∧ ∀ j, j ≠ ck → t.ctx j = s.ctx j)
    ∧ (∀ k, c.st = .free → nextEntry core slot s = some k →
        let r := bindRec (vget {} (s.core core).pending k).bits.toNat
        let s1 := (modPending core k (fun x => { x with valid := false }) s).setCtx ck { c with
          bind := r, st := .binding, entry := k, bseq := c.bseq + 1, linst := r.linst, sqHalt := none, halt := none, preempt := false
          binding := some { bind := c.bind, ctxbuf := c.ctxbuf, linst := c.linst }
          ctxbuf := BitVec.ofNat 64 (r.ctxb.toNat / 2 ^ 13 * 2 ^ 13) }
        let i : Instr := if r.resume then .resumeBind core slot else .bind core slot
        bindAllowed r.part s = true →
        ((bindSteps ck).run.run s1 = (.ok (), t) → t.stuck = none → ∃ t', exec i s = .next t'
          ∧ t'.ctx ck = { t.ctx ck with binding := none } ∧ (t'.ctx ck).st = (if r.gate then .gated else .run) ∧ (t'.ctx ck).bind = r ∧ (t'.ctx ck).linst = r.linst
          ∧ (t'.ctx ck).bseq = c.bseq + 1 ∧ (vget {} (t'.core core).pending k).valid = false
          ∧ (vget {} (t'.core core).pending k).status = 0
          ∧ (r.resume = false → ∃ lv lc st, (t'.ctx ck).r = { levels := lv, lc := lc, streams := st }))
        ∧ ∀ f, (bindSteps ck).run.run s1 = (.error (.fail f), t) → t.stuck = none → (t.mcSet (core / 48) r.part).base = 0 →
          ∃ t', exec i s = .next t' ∧ (t'.ctx ck).st = .free ∧ (t'.ctx ck).bind = c.bind ∧ (t'.ctx ck).ctxbuf = c.ctxbuf
            ∧ (t'.ctx ck).linst = c.linst ∧ (vget {} (t'.core core).pending k).status = f)
    ∧ ∃ t, exec (.l2Eviction die line) s = .next t
      ∧ (t.die die).l2 = (s.die die).l2.filter (fun l => !(decide (l.line = line) && !s.waitsRoute l))

/-! ### Events: faults and invalidations -/

/-- R390 to R392: a halted access posts its record or its page request, or waits for room; an answer wakes or faults the context it
names, and a stale one is counted. A vector that its MSI-X entry masks stays pending (R416; log 34: PRESUMED). -/
def Obligations.FaultRecordsAndAnswers : Prop :=
  ∀ (s : State) (core slot unit part ftag : Nat), s.Wf = true → slot < 4 →
    let ck := core * 4 + slot
    let c := s.ctx ck
    let p := c.bind.part
    let f := s.vfOf p
    let v := s.vf f
    let x1 := vget {} v.msix 1
    let r := (s.part p).active.pfq.toNat
    let at0 := r / 4096 * 4096 + 32 * v.pfqHead.toNat
    let k := ftag % 512 * 4 + ftag / 512 % 4
    let d := s.ctx k
    let known := (s.vf (s.vfOf part)).pri.contains ftag = true
    let good (i : Instr) : Prop := i = .pfansOk part ftag ∨ i = .priResponse part ftag 0 ∧ known
    let bad (i : Instr) : Prop := i = .pfansFail part ftag ∨ ∃ code, code ≠ 0 ∧ i = .priResponse part ftag code ∧ known
    let live : Prop := d.bound = true ∧ d.bseq.toNat = ftag / 2048 % 2 ^ 21 ∧ d.bind.part = part
      ∧ (d.unitHalted = true ∨ (d.halts 10).any Halted.onPage = true) ∧ ftag % 512 < 384
    (∀ h waited i, (waited, i) ∈ ([(false, .pageFault core slot unit), (true, .pfqRoomAppend core slot unit)] : List (Bool × Instr)) →
      c.st ≠ .binding → (c.halts unit).find? (fun h => h.toPost && (decide (h.since ≠ 0) == waited)) = some h →
      let marked (t : State) : Prop :=
        t.ctx ck = (modHalt ck unit (fun x => decide (x = h)) (fun x => { x with posted := true }) s).ctx ck
      (h.why = 0 → pfqRoom p s = true → s.inDram at0 32 → s.frameState (at0 / 65536) < 2 ^ 62 → f ≠ 0 → v.resident = true →
        ∃ t, exec i s = .next t ∧ marked t ∧ (t.vf f).pfqHead = BitVec.ofNat 16 ((v.pfqHead.toNat + 1) % 2 ^ (r % 32))
          ∧ (if x1.masked then t.pkg.out = s.pkg.out ∧ (t.vf f).pba = v.pba ||| 2#4
            else t.pkg.out = s.pkg.out ++ [.msix f 1 x1.addr x1.data] ∧ (t.vf f).pba = v.pba) ∧ s.leaves t [(at0, 32)]
          ∧ t.word at0 32 = (ftagOf ck c % 2 ^ 32 + h.tensor * 2 ^ 32 + unit * 2 ^ 48 + h.access * 2 ^ 56 + h.tile % 2 ^ 32 * 2 ^ 64
              + c.linst.toNat * 2 ^ 96) % 2 ^ 256)
      ∧ (h.why = 3 → v.pri.length < 512 → ∃ t, exec i s = .next t ∧ marked t ∧ (t.vf f).pri = v.pri ++ [ftagOf ck c % 2 ^ 32]
          ∧ t.pkg.out = s.pkg.out ++ [.pri p (ftagOf ck c % 2 ^ 32) h.page] ∧ t.mem = s.mem)
      ∧ (postRoom p h s = false → exec i s = .next (if waited then s else
          modHalt ck unit (fun x => decide (x = h)) (fun x => { x with since := s.cycle.toNat + 1 }) s)))
    ∧ (live → d.st ≠ .halting ∨ d.draining = true → ∀ i, good i → ∃ t, exec i s = .next t ∧ t.ctx k = wakeCtx Halted.faulted d
        ∧ (∀ x, x ∈ t.ats ↔ x ∈ s.ats ∧ ¬ (x.part = part ∧ ∃ u ∈ haltUnits, ∃ h ∈ d.halts u, h.why = 3 ∧ h.page = x.page))
        ∧ (∀ u, ∀ h ∈ (t.ctx k).halts u, h.faulted = false) ∧ (∀ j, j ≠ k → t.ctx j = s.ctx j) ∧ t.mem = s.mem)
    ∧ (live → (∀ y, d.halt = some y → y.kind ≠ 2 ∧ y.kind ≠ 3) → d.r.me.drains = [] → ∀ i u h, bad i → d.firstHalt = some (u, h) →
        ∃ t, exec i s = .next t ∧ (t.ctx k).st = .halting
          ∧ (t.ctx k).halt = some ⟨2, Cause.txFail.code, false, 0, h.tensor * 2 ^ 48 + h.tile, 0, 0⟩)
    ∧ (¬ live → ∀ i, i = .pfansOk part ftag ∨ i = .pfansFail part ftag → exec i s = .next (countPkg 1 1 s))

/-- R388, R389, R437: invalidations of the translation caches, their end, the host link's invalidations and completions, and a
redirect, which answers the next access that the named unit makes to the frame there (log 24: DEDUCED). -/
def Obligations.InvalidationsAndRedirects : Prop :=
  ∀ (s : State) (core slot unit port part tensor first count iova pages page hpa perms source old pkg frame value : Nat), s.Wf = true → slot < 4 →
    let ck := core * 4 + slot
    (s.invAt port part = none → (port = 0 → s.vfOf part ≠ 0) →
      ∀ x ∈ ([(0, tensor, first, count, .ttcinvTiles port part tensor first count), (1, tensor, 0, 0, .ttcinvTensor port part tensor),
        (2, 0, 0, 0, .ttcinvPartition port part)] : List (Nat × Nat × Nat × Nat × Instr)),
        ∃ t, exec x.2.2.2.2 s = .next t ∧ t.invAt port part = some (x.1, x.2.1, x.2.2.1, x.2.2.2.1) ∧ t.cores = s.cores ∧ t.mem = s.mem)
    ∧ (s.invAt port part ≠ none → ∀ i ∈ ([.ttcinvTiles port part tensor first count, .ttcinvTensor port part tensor,
        .ttcinvPartition port part] : List Instr), exec i s = .next s)
    ∧ (∀ kind ten lo n, s.invAt port part = some (kind, ten, lo, n) →
        ∃ t, exec (.ttcinvDone port part) s = .next t ∧ t.invAt port part = none
          ∧ (∀ c u e, e ∈ (vget {} (t.core c).units u).ttc ↔ e ∈ (vget {} (s.core c).units u).ttc
              ∧ ¬ (e.part = part ∧ (kind = 2 ∨ e.desc = ten) ∧ (1 ≤ kind ∨ lo ≤ e.tile ∧ e.tile < lo + n)))
          ∧ ∀ c u e, e ∈ (vget {} (t.core c).units u).descs ↔ e ∈ (vget {} (s.core c).units u).descs
              ∧ ¬ (e.part = part ∧ (kind = 2 ∨ e.desc = ten) ∧ 1 ≤ kind))
    ∧ (∃ t, exec (.atsInvalidate part iova pages) s = .next t ∧ t.ctxs = s.ctxs ∧ t.mem = s.mem
        ∧ ∀ x, x ∈ t.ats ↔ x ∈ s.ats ∧ ¬ (x.part = part ∧ iova / 4096 ≤ x.page ∧ x.page < iova / 4096 + pages))
    ∧ (∃ t, exec (.atsTranslationCompletion part page hpa perms) s = .next t ∧ t.mem = s.mem
        ∧ t.ats.head? = some ⟨part, page, hpa / 4096 * 4096, perms % 4⟩
        ∧ ∀ k, t.ctx k = if (s.ctx k).bind.part = part then wakeCtx (fun h => decide (h.why = 2)) (s.ctx k) else s.ctx k)
    ∧ (s.vfOf part ≠ 0 → s.vfOf part < 65 → s.partOfVf (s.vfOf part) = some part → exec (.registerWrite false (0x100018 + 0x1000 * (s.vfOf part - 1)) value) s
        = .next (s.modVf (s.vfOf part) fun v => { v with ttcA := BitVec.ofNat 64 (value / 2 ^ 40 * 2 ^ 40) }))
    ∧ exec (.redirectReceived core slot unit (source, old) (pkg, frame)) s
        = .next { s with redirects := s.redirects ++ [⟨ck, unit, source, old, pkg, frame, false⟩] }
    ∧ (∀ (q : Requester) (d : Desc) (acc from_ a : Nat), q.ck = ck → q.unit = unit →
        s.redirects = [⟨ck, unit, from_, a / 65536, pkg, frame, false⟩] →
      let at0 := d.ttbase + 16 * page
      let e := s.word at0 16
      s.mapBase = none → s.inDram at0 16 → teState e = 0 → teLoc e = 1 → tePkg e = from_ → teFrame e = a / 65536 → pkg < 65536 →
        frame < 2 ^ 48 →
        ∃ x t, runOp (peerAccess q d page acc from_ a) s = (x, t) ∧ t.redirects = []
          ∧ (pkg = s.pkg.num.toNat → x = .ok (frame * 65536 + a % 65536))
          ∧ (pkg ≠ s.pkg.num.toNat → s.upPorts pkg ≠ [] → q.secure = false → x = .ok (peerKey pkg (frame * 65536 + a % 65536)))
          ∧ teState (t.word at0 16) = 0 ∧ teFrame (t.word at0 16) = frame ∧ t.word at0 16 % 2 ^ 11 = e % 2 ^ 11
          ∧ s.leaves (settle s t) [(at0, 16)]
          ∧ (if pkg = s.pkg.num.toNat then teLoc (t.word at0 16) = 0 else teLoc (t.word at0 16) = 1 ∧ tePkg (t.word at0 16) = pkg)
          ∧ ∀ y ∈ (vget {} (t.core (coreOf ck)).units q.ui).ttc, ¬ (y.part = q.part ∧ y.desc = d.index ∧ y.tile = page))

/-! ### Events: launches, the layout, the device -/

/-- R365 to R367, R379: the host's arm doorbell and the wait for room in an arm queue, a held arm-queue entry, the firmware's posts, and
the completion of a launch, which waits for its completion add. Launch records lie at their physical addresses (log 13: DEDUCED); that the
doorbell arms with die 0 as its source, and that a completion whose DONECTR is 0 leaves CTRFAIL 0, is the model's reading (log 24: DEDUCED). -/
def Obligations.LaunchEvents : Prop :=
  ∀ (s t : State) (vf die part value : Nat), s.Wf = true →
    let m := s.mcSet die part
    let v := s.vf vf
    let i := value / 2 ^ 16 % 4096
    let a := lrAddr s part i
    let r := s.word a 256
    let b := lrAddr s part (value % 4096)
    let q := s.word b 256
    let st := fieldOf q 0x88 1
    let lstatus := value / 4096 % 16
    (∀ p, s.partOfVf vf = some p →
      (value / 2 ^ 12 % 2 ^ 20 ≠ 0 → exec (.armdb vf value) s = .next s)
      ∧ (value / 2 ^ 12 % 2 ^ 20 = 0 → v.armBusy = true →
          exec (.armdb vf value) s = .next (s.modVf vf fun v => { v with armWait := v.armWait ++ [value] }))
      ∧ (value / 2 ^ 12 % 2 ^ 20 = 0 → v.armBusy = false → s.frozen p = true →
          exec (.armdb vf value) s = .next (s.modVf vf fun v => { v with armSeq := v.armSeq + 1, armStatus := 8 }))
      ∧ (∀ status, value / 2 ^ 12 % 2 ^ 20 = 0 → v.armBusy = false → s.frozen p = false →
          armRecord p false 0 (value % 4096) (value / 2 ^ 32) (some vf) s = (status, t) → t.stuck = none →
          exec (.armdb vf value) s = .next (settle s (if (t.vf vf).armBusy then t
            else t.modVf vf fun v => { v with armSeq := v.armSeq + 1, armStatus := status }))))
    ∧ (∀ e who l key u, m.held = (e, who) :: l → armqFree die part s = true → s.mapBase = none → armqKey die part s = (some key, u) →
        homeKind key = 0 → s.inDram key 16 → s.mcBlocked die key = false → who = none ∨ who = some vf ∧ v.armWait = [] →
        ∃ t, exec (.armqEntryWrite die part) s = .next t ∧ (t.mcSet die part).held = l
          ∧ (t.mcSet die part).head = (m.head + 1) % 12288 ∧ t.word key 16 = e.toNat ∧ s.leaves t [(key, 16)]
          ∧ t.vf vf = if who = none then v else { v with armBusy := false, armSeq := v.armSeq + 1, armStatus := 0 })
    ∧ (m.held ≠ [] → armqFree die part s = false → (armqPull die part s).stuck = none →
        exec (.armqEntryWrite die part) s = .next (settle s (armqPull die part s)))
    ∧ (∀ e who, m.base ≠ 0 → armqRoom die part s = false → postArmq die part e (some who) s =
        ((armqPull die part s).modMc die part fun m => { m with held := m.held ++ [(e, some who)] }).modVf who fun v =>
          { v with armBusy := true })
    ∧ (a + 256 ≤ dramEnd → s.mapBase = none → s.mcBlocked die a = false →
      ∀ x ∈ ([(.postSub die part value,
          armqEntry 1 0 i (value / 2 ^ 32 % 2 ^ 32) (fieldOf r 0x84 4) (fieldOf r 0x88 1 / 2 % 8) (value / 256 % 256) die),
        (.postSubdone die part value, armqEntry 2 (value / 2 ^ 28 % 16) i (value / 2 ^ 32 % 2 ^ 32) 0 0 0 die)]
          : List (Instr × BitVec 128)),
        (postArmq (value / 16 % 8) part x.2 none s).stuck = none →
          exec x.1 s = .next (settle s (postArmq (value / 16 % 8) part x.2 none s)))
    ∧ (b + 256 ≤ dramEnd → s.mapBase = none → s.mcBlocked die b = false →
      (lrLinst q ≠ value / 2 ^ 32 % 2 ^ 32 → ∃ t, exec (.ldone die part value) s = .next t ∧ t.mem = s.mem ∧ t.ctxs = s.ctxs
          ∧ (t.mcSet die part).ldones = m.ldones.filter fun x => x.1 ≠ value)
      ∧ (lrLinst q = value / 2 ^ 32 % 2 ^ 32 → s.inDram b 256 → fieldOf q 0x10 8 = 0 → fieldOf q 0x18 8 < 2 ^ 63 → lrIntr q = false →
        ∃ t, exec (.ldone die part value) s = .next t ∧ t.word (b + 0x88) 1 = st / 2 % 8 * 2 + lstatus * 16
          ∧ t.word (b + 0x89) 1 = fieldOf q 0x89 1 % 16 ∧ s.leaves t [(b + 0x88, 2)])
      ∧ ∀ why, lrLinst q = value / 2 ^ 32 % 2 ^ 32 → s.inDram b 256 → fieldOf q 0x10 8 ≠ 0 →
        doneAdd die part (lrSecure q) (fieldOf q 0x10 8) (lrDscope q) (physWrite (b + 0x88) 1 (st % 16 + lstatus * 16) s) = (.error why, t) →
        t.stuck = none → ∃ t', exec (.ldone die part value) s = .next t' ∧ (ldoneValue (value % 4096) lstatus (lrLinst q), why)
          ∈ (t'.mcSet die part).ldones)

/-- R407, R408, R411 to R414, R420: shadow writes, CHECK, COMMIT, ABORT, the end of the quiesce and the tick. COMMIT pre-empts the
RUN, GATED and BINDING contexts of the affected partitions and no other. When AFFECT and CYCLE change,
and when lines and translations drop, is the model's reading (log 27: DEDUCED), and the addresses are those of log 26 (DEDUCED). -/
def Obligations.LayoutEvents : Prop :=
  ∀ (s : State) (secure : Bool) (d p i value : Nat), s.calm → d < 8 → p < 64 →
    let locked := s.pkg.lstate = .quiesce ∨ s.pkg.lstate = .tick
    let st := layoutStatus s (secure && decide (s.pkg.world.mcw ≠ 0))
    let shadowed (t : State) : State :=
      if locked then countPkg 2 1 s else if s.pkg.lstate = .staged then setLayout .idle 8 t else t
    let sec := (s.part p).shadow.isSecure
    (i < 6 → exec (.shadowWrite secure (2 ^ 40 * d + 2 ^ 33 + 0x41000 + 0x40 * p + 8 * i) value) s
        = .next (shadowed (s.modDie d fun x => { x with shadow := setAt p ((getAt {} p x.shadow).put i value) x.shadow })))
    ∧ (i < 6 → i ≠ 0 ∨ secure = true ∧ s.pkg.world.mcw.getLsbD d = true →
        exec (.shadowWrite secure (2 ^ 40 * d + 2 ^ 33 + 0x52000 + 0x40 * p + 8 * i) value) s
          = .next (shadowed (s.modPart p fun x => { x with shadow := x.shadow.put i value })))
    ∧ (∀ j, j < 17 → secure = false → exec (.shadowWrite secure (2 ^ 33 + 0x53100 + 8 * j) value) s
        = .next (countPkg 3 1 (if locked then countPkg 2 1 s else s)))
    ∧ (secure = false → sec ≠ decide (bitsOf value 62 1 = 1) → ∃ t, exec (.shadowWrite secure (2 ^ 33 + 0x52000 + 0x40 * p) value) s = .next t
        ∧ (t.part p).shadow.isSecure = sec ∧ vget 0 t.pkg.counters 3 = satAdd (vget 0 s.pkg.counters 3) 1)
    ∧ (st = 0 → ∃ t, exec (.layoutCheck secure) s = .next t
        ∧ t.pkg = { s.pkg with lstate := .staged, lstatus := 0, affect := s.affected } ∧ t.parts = s.parts ∧ t.dies = s.dies)
    ∧ (st ≠ 0 → exec (.layoutCheck secure) s = .next (s.modPkg fun k => { k with lstatus := st }))
    ∧ (s.pkg.lstate = .staged → (s.ctxs.map (·.1)).Nodup →
        ∃ t, exec (.layoutCommit secure) s = .next t ∧ t.pkg = { s.pkg with lstate := .quiesce }
          ∧ ∀ k, t.ctx k = (let x := s.ctx k
              if s.pkg.affect.getLsbD x.bind.part = false then x
              else match x.st with
                | .run | .gated => { x with st := .halting, preempt := true, preemptAt := s.cycle.toNat }
                | .binding => { x with preempt := true, preemptAt := s.cycle.toNat }
                | _ => x))
    ∧ (s.pkg.lstate ≠ .staged → exec (.layoutCommit secure) s = .next (s.modPkg fun k => { k with lstatus := 6 }))
    ∧ (s.pkg.lstate = .staged ∨ s.pkg.lstate = .quiesce → exec .layoutAbort s = .next (setLayout .idle 7 s))
    ∧ (s.quiet = true → s.loseWaits = false → ∃ t, exec .quiesceDone s = .next t ∧ t.pkg.lstate = .tick
        ∧ (∀ l ∈ (s.die d).l2, (∀ q, q < 64 → s.pkg.affect.getLsbD q = true → l.owner ≠ q
            ∨ ((s.dieActive d q).ways &&& ~~~((s.dieShadow d q).ways)).getLsbD l.way = false) → l ∈ (t.die d).l2)
        ∧ (s.pkg.affect.getLsbD p = true →
          (∀ l ∈ (t.die d).l2, l.owner = p → ((s.dieActive d p).ways &&& ~~~((s.dieShadow d p).ways)).getLsbD l.way = false)
          ∧ ∀ c u, (∀ e ∈ (vget {} (t.core c).units u).ttc, e.part ≠ p) ∧ ∀ e ∈ (vget {} (t.core c).units u).descs, e.part ≠ p))
    ∧ (s.pkg.lstate = .tick → ∃ t, exec .layoutTick s = .next t ∧ (t.part p).active = (s.part p).shadow
        ∧ t.dieActive d p = s.dieShadow d p ∧ t.pkg.world = s.pkg.worldShadow ∧ t.pkg.lver = s.pkg.lver + 1
        ∧ t.pkg.lstate = .idle ∧ t.pkg.lstatus = 0 ∧ t.pkg.affect = 0 ∧ t.cycle = BitVec.ofNat 64 ((s.cycle.toNat + 15) / 16 * 16)
        ∧ t.ctxs = s.ctxs ∧ t.mem = s.mem)

/-- R415, R419, R422 to R424, R451, R453: register writes of the host and the firmware, residence, attestation, boot, power-on reset
and loss of supply. The hash is that of log 35 (PRESUMED), the addresses those of log 26 (DEDUCED), and what a loss of supply leaves is the
model's choice (log 30: DESIGN CHOICE), as are what a power-on reset leaves in memory (log 2: DESIGN CHOICE) and the fuse that it burns
(log 4: DESIGN CHOICE). -/
def Obligations.DeviceEvents : Prop :=
  ∀ (s : State) (secure : Bool) (vf value d : Nat) (failed chans : List Nat), s.Wf = true → d < 8 →
    let v := s.vf vf
    let x3 := vget {} v.msix 3
    let answered (t : State) (k : Nat) : Prop :=
      t.vf vf = { v with attReq := none, attStat := BitVec.ofNat 5 k, pba := if x3.masked then v.pba ||| 8#4 else v.pba }
    let sent : List Msg := if x3.masked then [] else [.msix vf 3 x3.addr x3.data]
    let reg := 0x100000 + (vf - 1) * 0x1000
    (∀ addr, addr % 8 ≠ 0 → exec (.registerWrite secure addr value) s = .next s)
    ∧ exec (.registerWrite secure (0x40000 + 0x2000 * d) value) s
        = .next (s.modDie d fun x => { x with elBase := BitVec.ofNat 64 (value / 4096 * 4096 + value % 16) })
    ∧ exec (.registerWrite secure 0x52100 value) s = .next (if 400 ≤ value % 4096 ∧ value % 4096 ≤ 2800 then
        s.modPkg fun k => { k with pwrlim := BitVec.ofNat 12 value } else s)
    ∧ (∀ part, s.partOfVf vf = some part → 1 ≤ vf → vf ≤ 64 →
      exec (.registerWrite secure (reg + 0x030) value) s = .next (s.modVf vf fun f => { f with pfqTail := BitVec.ofNat 16 value })
      ∧ exec (.registerWrite secure (reg + 0x040) value) s = .next (s.modVf vf fun f => { f with ilogTail := BitVec.ofNat 16 value })
      ∧ exec (.registerWrite secure (reg + 0x048) value) s
          = .next (s.modVf vf fun f => { f with ilogOvf := f.ilogOvf &&& ~~~(BitVec.ofNat 4 value) })
      ∧ exec (.residentWrite vf value) s = .next (s.modVf vf fun f => { f with resident := decide (value % 2 = 1) })
      ∧ (v.attReq = none → ∃ t, exec (.attreq vf value) s = .next t ∧ t.pkg = { s.pkg with attQueue := s.pkg.attQueue ++ [vf] }
          ∧ t.vf vf = { v with attReq := some (value / 4096 * 4096), attStat := 1 })
      ∧ (v.attReq ≠ none → exec (.attreq vf value) s = .next (s.modVf vf fun f => { f with attStat := f.attStat &&& 0x10#5 ||| 1#5 }))
      ∧ ∀ iova, v.attReq = some iova → s.pkg.attQueue.head? = some vf → v.resident = true → s.pkg.sigIndex < 1024 →
        (1024 ≤ s.pkg.fuses → ∃ t, exec (.attestDone vf) s = .next t ∧ answered t 18
          ∧ t.pkg = { s.pkg with attQueue := s.pkg.attQueue.drop 1, out := s.pkg.out ++ sent } ∧ t.mem = s.mem)
        ∧ ∀ x : Nat → AtsEntry, s.pkg.fuses < 1024 →
          (∀ j, j < 3 → s.ats.find? (fun y => decide (y.part = part ∧ y.page = iova / 4096 + j)) = some (x j) ∧ (x j).perms = 3
            ∧ (x j).hpa % 4096 = 0) → (x 0).hpa ≠ (x 1).hpa → (x 0).hpa ≠ (x 2).hpa →
          ∃ t, exec (.attestDone vf) s = .next t ∧ answered t 16
            ∧ t.pkg = { useIndex s.pkg with attQueue := s.pkg.attQueue.drop 1, out := s.pkg.out ++ sent }
            ∧ ∀ j, j < 256 → t.mem.read (hostKey (x 0).hpa + j)
                = (reportBytes part (bytesOf 32 (s.word (hostKey (x 0).hpa + 0xA0) 32)) s)[j]?.getD 0)
    ∧ (s.pkg.boot ≠ 1 → (s.bufRead bootWindow 4).1 ≠ 0x4D57465A → exec (.bootgo 1) s = .next (s.modPkg fun k => { k with boot := 2 }))
    ∧ (s.pkg.boot ≠ 1 → ∀ st svn image, bootImage s = (st, svn, image) →
      (st ≠ 1 → exec (.bootgo 1) s = .next (s.modPkg fun k => { k with boot := st }))
      ∧ (st = 1 → ∃ t, exec (.bootgo 1) s = .next t ∧ (t.die d).mcRunning = true ∧ t.pkg = { s.pkg with
          boot := 1, svn := BitVec.ofNat 32 svn, svnFloor := max s.pkg.svnFloor svn, fwmeas := numOf (shake256 image) }))
    ∧ (∃ t, exec (.powerOnReset failed chans) s = .next t ∧ t.ctxs = [] ∧ t.parts = [] ∧ t.pkg.boot = 0 ∧ t.pkg.sigIndex = 0
        ∧ t.pkg.fuses = min 1024 (s.pkg.fuses + 1) ∧ t.pkg.svnFloor = s.pkg.svnFloor ∧ (∀ k, k < 2 ^ 56 → t.mem.read k = 0)
        ∧ (∀ k, 2 ^ 56 ≤ k → t.mem.read k = s.mem.read k)
        ∧ (t.die d).ncore = (let f := min 50 (failed[d]?.getD 0); if f ≤ 2 then 48 else 50 - f)
        ∧ (t.die d).spared = min 2 (failed[d]?.getD 0) ∧ (t.die d).chok = BitVec.ofNat 48 (chans[d]?.getD (2 ^ 48 - 1)))
    ∧ ∃ t, exec .powerOff s = .next t ∧ t.ctxs = [] ∧ t.pkg.sigIndex = 1024 ∧ t.pkg.fuses = s.pkg.fuses
        ∧ ∀ k, k < 2 ^ 56 → t.mem.read k = 0

/-- R441 to R445, R447, R448, R450, R455: ports, the package's number, scrubbing, tag errors and power. The cycles that THROTTLE counts in a
window are the model's choice (log 30: DESIGN CHOICE). -/
def Obligations.FleetEvents : Prop :=
  ∀ (s : State) (port lane lgood peerPkg peerPort value addr die way line watts : Nat), s.Wf = true → port < 36 →
    let p := vget {} s.pkg.ports port
    let more : BitVec 16 := if p.retrains = 0xFFFF#16 then p.retrains else p.retrains + 1
    let shows (i : Instr) (q : Port) : Prop := ∃ t, exec i s = .next t ∧ vget {} t.pkg.ports port = q ∧ t.mem = s.mem
      ∧ ∀ k, k ≠ port → vget {} t.pkg.ports k = vget {} s.pkg.ports k
    let again : Port := { p with retraining := true, retrains := more }
    (p.en = true → (lane < 5 → shows (.laneFail port lane) again)
      ∧ shows (.peerPortRetrain port value) { again with pkg := BitVec.ofNat 8 value })
    ∧ (p.en = true → p.retraining = false → s.pkg.held = [] → ∀ wm, wm < 3 →
        shows (.registerWrite false (0x50000 + 0x40 * port) (2 * wm + 1)) (({ p with wmin := BitVec.ofNat 2 wm } : Port).train p.lgood))
    ∧ (p.retraining = true → lgood < 32 → s.pkg.held = [] →
        let g := popNat 5 lgood
        let w := if 4 ≤ g then 3 else if 2 ≤ g then 2 else if g = 1 then 1 else 0
        let w := if w < p.wmin.toNat + 1 then 0 else w
        shows (.retrainDone port lgood peerPkg peerPort) { p with
          lgood := BitVec.ofNat 5 lgood, width := BitVec.ofNat 2 w, up := p.en && decide (w ≠ 0), retraining := false
          pkg := BitVec.ofNat 8 peerPkg, pport := BitVec.ofNat 8 peerPort }
        ∧ ∀ t, exec (.retrainDone port lgood peerPkg peerPort) s = .next t → ∀ k u h, h ∈ (t.ctx k).halts u → h.why ≠ 4)
    ∧ (p.up = true → shows (.flitCrcError port) { p with resent := p.resent + 1 })
    ∧ (s.anyValid = true → exec (.pkgidWrite value) s = .next (countPkg 2 1 s))
    ∧ (s.anyValid = false → ∃ t, exec (.pkgidWrite value) s = .next t ∧ t.pkg.num = BitVec.ofNat 8 value
        ∧ vget {} t.pkg.ports port = if p.en then again else p)
    ∧ (addr < dramEnd → s.channelOff addr = false → (s.die (channelOf addr / 48)).elBase = 0 →
        let c := (s.die (channelOf addr / 48)).counters
        exec (.patrolScrub addr 0) s = .next s
        ∧ (∃ t, exec (.patrolScrub addr 1) s = .next t ∧ vget 0 (t.die (channelOf addr / 48)).counters 1 = satAdd (vget 0 c 1) 1
            ∧ t.mem = s.mem ∧ t.poison = s.poison)
        ∧ ∃ t, exec (.patrolScrub addr 2) s = .next t ∧ vget 0 (t.die (channelOf addr / 48)).counters 2 = satAdd (vget 0 c 2) 1
            ∧ addr / 8 ∈ t.poison ∧ t.mem = s.mem)
    ∧ ((s.die die).elBase = 0 → (∀ q, q < 64 → ((s.dieActive die q).ways.getLsbD way && (s.part q).active.isValid) = false) →
        ∃ t, exec (.l2TagParity die way line) s = .next t ∧ t.ctxs = s.ctxs
          ∧ (t.die die).l2 = (s.die die).l2.filter (fun l => !decide (l.way = way ∧ l.line = line))
          ∧ vget 0 (t.die die).counters 4 = satAdd (vget 0 (s.die die).counters 4) 1)
    ∧ (∀ t q k, exec (.l2TagParity die way line) s = .next t → q < 64 → (s.dieActive die q).ways.getLsbD way = true →
        (s.part q).active.isValid = true → (s.ctx k).bind.part = q → (s.ctx k).st ≠ .free →
        (t.ctx k).st = .halting ∧ (t.ctx k).halt = some { kind := 3 })
    ∧ ∃ t, exec (.powerWindow watts) s = .next t ∧ t.pkg.watts = BitVec.ofNat 16 watts
        ∧ t.pkg.level = BitVec.ofNat 3 (let l := s.pkg.level.toNat
            if s.pkg.pwrlim.toNat < watts then min 7 (l + 1) else if watts * 100 < s.pkg.pwrlim.toNat * 95 then l - 1 else l)
        ∧ vget 0 t.pkg.counters 5 = satAdd (vget 0 s.pkg.counters 5) (s.pkg.level.toNat * 137500)

/-! ### Events: migration, and accesses from outside -/

/-- R427 to R430, R434, R435: the commands of a migration, the end of its freeze and of its state transfer, what the peer's agent says, and
the private sections that come with the state (R425). The messages between the two agents are the model's reading (log 29: DEDUCED). -/
def Obligations.MigrationCommands : Prop :=
  ∀ (s : State) (part peer : Nat) (vd : VdState), s.Wf = true → s.mapIn part →
    let m := (s.part part).ma
    let sh := (s.part part).shadow
    let f0 := s.vf sh.vfn
    let ma (i : Instr) (f : Ma) : Prop := ∃ t, exec i s = .next t ∧ (t.part part).ma = f
    let frames := freeFrames part s
    let routed := s.upPorts m.ppkg.toNat ≠ []
    let tells (t : State) (x : Msg) : Prop := routed → t.pkg.out = s.pkg.out ++ [x]
    let idle (st : Nat) : Ma := { m with
      phase := .idle, status := st, left := 0, inFlight := [], contexts := [], pulls := false, regs := [], undo := none }
    let said (ph : Phase) : Ma := ((peerMa part ph peer s).part part).ma
    let back (u : MaUndo) (t : State) : Prop := (t.part part).shadow = { sh with
        ttab := u.shadow.ttab, cbtab := u.shadow.cbtab, cbPhys := u.shadow.cbPhys, lrpool := u.shadow.lrpool, pfq := u.shadow.pfq
        ilog := u.shadow.ilog, ctl := (sh.ctl &&& ~~~0x4000000000000000#64) ||| (u.shadow.ctl &&& 0x4000000000000000#64) }
      ∧ (t.part part).undoing = none ∧ t.vf u.vf = { s.vf u.vf with
        pfqHead := u.pfqHead, pfqTail := u.pfqTail, ilogHead := u.ilogHead, ilogTail := u.ilogTail }
    (m.phase = .idle → s.maCount < 4 → mapDiffers part s = false → (∀ f ∈ frames, f < 9437184 ∧ s.offMap part f) →
      ∃ t, exec (.maListen part) s = .next t ∧ (∀ f ∈ frames, t.word (s.mapPlace part f) 8 = 2 ^ 63)
        ∧ (t.part part).ma = { m with phase := .listen, source := false, status := 0, redir := 0, left := 0, inFlight := [] }
        ∧ s.leaves t (frames.map fun f => (s.mapPlace part f, 8)))
    ∧ (m.phase = .idle → s.maCount < 4 → (s.part part).active.isValid = true → s.isMember m.ppkg.toNat = true →
      ((s.tilesOf part).any fun t => decide (2 ≤ teState t.2.2)) = false → mapDiffers part s = false →
      ∃ t, exec (.maFreeze part true) s = .next t ∧ (t.part part).ma.phase = .freezing ∧ (t.part part).ma.source = true
        ∧ (∀ k, (s.ctx k).bind.part = part → s.preempts t k)
        ∧ (∀ c e, (bindRec (vget {} (t.core c).pending e).bits.toNat).part = part → (vget {} (t.core c).pending e).valid = false)
        ∧ tells t (.maPhase m.ppkg.toNat m.ppart.toNat .freezing 0) ∧ t.mem = s.mem)
    ∧ (m.phase = .released ∨ m.phase = .done → ∀ i ∈ ([.maListen part, .maFreeze part true, .maRelease part] : List Instr),
        ma i { m with phase := .idle })
    ∧ (m.phase = .serving → ∀ i ∈ ([.maListen part, .maFreeze part true, .maRelease part] : List Instr), ma i { m with status := 2 })
    ∧ (m.phase = .drained → ∃ t, exec (.maRelease part) s = .next t ∧ (t.part part).ma = { m with phase := .released, status := 0 }
        ∧ ∀ f e, f < 9437184 → e ∈ s.tilesOf part → teState e.2.2 = 4 →
          s.word (s.mapPlace part f) 8 = mapEntry 3 (tePkg e.2.2) (teFrame e.2.2) → t.word (s.mapPlace part f) 8 = 0)
    ∧ ((m.phase = .serving ∨ m.phase = .held) → peer ∈ [10, 0, 9] → (∀ e ∈ s.tilesOf part, teFrame e.2.2 < 9437184) →
      ∃ t, exec (.maCancel part peer) s = .next t ∧ (t.part part).ma = idle 6 ∧ tells t (.maPhase m.ppkg.toNat m.ppart.toNat .idle 6)
        ∧ ∀ e ∈ s.tilesOf part, teOwned e.2.2 = true → t.word (s.mapPlace part (teFrame e.2.2)) 8 = 0)
    ∧ (m.phase = .listen ∨ m.phase = .receiving ∨ m.phase = .staged → ma (.maCancel part peer) { m with status := 2 })
    ∧ (m.phase = .listen → said .freezing = { m with phase := .receiving, regs := [], undo := none })
    ∧ (m.phase = .receiving ∨ m.phase = .staged → s.pkg.held = [] → (∀ f ∈ frames, f < 9437184) → said .idle = idle 0
        ∧ (m.undo = none → (s.part part).undoing = none → ((peerMa part .idle peer s).part part).shadow = sh)
        ∧ ∀ u, m.undo = some u → (s.pkg.lstate = .idle → back u (peerMa part .idle peer s))
          ∧ (s.pkg.lstate ≠ .idle → ((peerMa part .idle peer s).part part).shadow = sh
            ∧ ((peerMa part .idle peer s).part part).undoing = some u ∧ (peerMa part .idle peer s).vf u.vf = s.vf u.vf))
    ∧ (∀ u, (s.part part).undoing = some u → (s.pkg.lstate = .idle → back u (undoTransfer part s))
        ∧ (s.pkg.lstate ≠ .idle → undoTransfer part s = s))
    ∧ (m.phase = .serving → m.source = true → said .pulling = if m.left = 0 then { m with pulls := true, phase := .drained }
        else { m with pulls := true })
    ∧ (m.phase = .receiving → ∀ id r, ((peerRegs part id r s).part part).ma = { m with regs := (id, r) :: m.regs })
    ∧ (∀ sec f id r, (m.regs.find? fun x => decide (x.1 = id)) = some (id, r) →
        getAt {} s.saveNext (putRegs part sec f id s).saves = { r with coll := [] })
    ∧ (frozenStill part s = true → ∃ t, exec (.freezeCleGraceExpiry part) s = .next t ∧ t.mem = s.mem
        ∧ ∀ ck ∈ m.slots, t.heldColls (savedOf ck s) = (s.heldColls (savedOf ck s)).map fun c =>
          { c.migrate with counted := c.migrate.counted || c.migrate.due })
    ∧ (frozenStill part s = true → clePending part s = false → routed →
      (∀ ck ∈ m.slots, ((s.ctx ck).bind.frame + 0x450000 ≤ s.mapAt part ∨ s.mapAt part + 8 * 9437184 ≤ (s.ctx ck).bind.frame)
        ∧ ∀ cx q, q ∈ vget [] (getAt {} (savedOf ck s) s.saves).cxQ cx → q.overlaps = false) →
      (∀ d, ∀ l ∈ (s.die d).l2, l.owner = part → l.dirty = 0) → (∀ e ∈ s.tilesOf part, teFrame e.2.2 < 9437184) →
      let owned := (s.tilesOf part).filter fun e => teOwned e.2.2
      ∃ t vd regs, exec (.freezeDone part) s = .next t ∧ (t.part part).ma = { m with phase := .sending, left := owned.length }
        ∧ t.pkg.out = s.pkg.out ++ [.vdSent m.ppkg.toNat m.ppart.toNat vd regs]
        ∧ vd.secure = (s.part part).active.isSecure ∧ vd.peer = s.pkg.num.toNat
        ∧ (vd.contexts.map fun c => c.linst) = (m.slots.map fun ck => (s.ctx ck).linst.toNat)
        ∧ (regs.map fun x => (x.1, ({ x.2 with coll := [] } : Regs)))
            = m.slots.map (fun ck => (savedOf ck s, ({ getAt {} (savedOf ck s) s.saves with coll := [] } : Regs)))
        ∧ (∀ d, d < 8 → ∀ l ∈ (t.die d).l2, l.owner ≠ part)
        ∧ ∀ e ∈ owned, t.word (s.mapPlace part (teFrame e.2.2)) 8 = 2 ^ 61)
    ∧ (m.phase = .sending → m.source = true → m.left ≠ 0 ∨ m.pulls = false → ma (.stateTransferDone part vd)
        { m with phase := if vd.status = 0 then .serving else .held, status := vd.status })
    ∧ (m.phase = .receiving → m.source = false → s.pkg.lstate = .idle → (s.part part).undoing = none →
      (vdStatus part vd s ≠ 0 → (∀ f ∈ frames, f < 9437184) → ma (.stateTransferDone part vd) (idle (vdStatus part vd s)))
      ∧ (vdStatus part vd s = 0 →
        (putVdRecord part m.rbase.toNat vd (putVd part s.pkg.num.toNat m.rbase.toNat frames vd s)).stuck = none →
        ma (.stateTransferDone part vd) { m with phase := .staged, status := 0, regs := []
                                                 undo := some ⟨sh, sh.vfn, f0.pfqHead, f0.pfqTail, f0.ilogHead, f0.ilogTail⟩
                                                 left := (vd.tiles.flatMap fun l => l.filter fun e => teOwned e.toNat).length }))

/-- R432 to R434, R438: a tile on the move: pulled, pushed, landed, acknowledged, failed or timed out; none leaves the source while the target
is STAGED. -/
def Obligations.TilesOnTheMove : Prop :=
  ∀ (s : State) (part tensor tile frame : Nat) (data : List (Nat × BitVec 8)), s.Wf = true → s.mapIn part → s.tileIn part tensor tile →
    s.pkg.held = [] → s.upPorts (s.part part).ma.ppkg.toNat ≠ [] →
    let m := (s.part part).ma
    let a := s.tileAt part tensor tile
    let e := s.tileEntry part tensor tile
    let f := teFrame e
    let mp := s.mapPlace part f
    let tt := (s.part part).active.ttab.toNat / 65536 * 65536 + 64 * tensor
    let mine (x : Nat × Nat × Bool) : Bool := decide (x.1 = tensor ∧ x.2.1 = tile)
    let gone := m.inFlight.filter fun x => !mine x
    let less (x : Ma) (from_ to_ : Phase) : Prop := x.left = m.left - 1 ∧ x.inFlight = gone
      ∧ x.phase = if m.left - 1 = 0 ∧ m.phase = from_ ∧ (from_ = .serving → m.pulls = true) then to_ else m.phase
    let sends (i : Instr) (push : Bool) : Prop := ∃ t, exec i s = .next t ∧ t.word a 16 = teSetState e 3 ∧ t.word mp 8 = 2 ^ 62
      ∧ (t.part part).ma = { m with inFlight := (tensor, tile, push) :: m.inFlight } ∧ s.leaves t [(a, 16), (mp, 8)]
      ∧ t.pkg.out = s.pkg.out ++ [.flits m.ppkg.toNat m.ppart.toNat tensor tile (frameBytes f s).1 []]
    (m.sends = true → (frameBytes f s).2 = [] → stillOwned e s = true → sends (.pullReceived part tensor tile) false)
    ∧ (m.sends = true → (frameBytes f s).2 = [] → (m.inFlight.filter fun x => x.2.2).length < m.push.toNat →
        (s.tilesOf part).find? (fun t => stillOwned t.2.2 s) = some (tensor, tile, e) → sends (.pushSelect part) true)
    ∧ (m.phase ≠ .serving ∨ m.pulls = false → exec (.pullReceived part tensor tile) s = .next s ∧ exec (.pushSelect part) s = .next s)
    ∧ (m.phase = .pulling → teState e = 2 → ∃ t, exec (.pushFirstFlit part tensor tile) s = .next t ∧ t.word a 16 = teSetState e 3
        ∧ (t.part part).ma = { m with inFlight := (tensor, tile, true) :: gone } ∧ s.leaves t [(a, 16)])
    ∧ (m.phase = .pulling → teState e = 3 → (a + 16 ≤ f * 65536 ∨ f * 65536 + 65536 ≤ a) →
        (s.mapAt part + 8 * 9437184 ≤ f * 65536 ∨ f * 65536 + 65536 ≤ s.mapAt part) →
        (tt + 64 ≤ f * 65536 ∨ f * 65536 + 65536 ≤ tt) →
        ∃ t, exec (.tileLanded part tensor tile data []) s = .next t ∧ t.word a 16 = teMove e 0 0 0 f ∧ t.word mp 8 = 0
          ∧ (∀ o, o < 65536 → t.mem.read (f * 65536 + o) = getAt 0 o data) ∧ less (t.part part).ma .pulling .done
          ∧ t.pkg.out = s.pkg.out ++ [.ack m.ppkg.toNat m.ppart.toNat tensor tile f]
          ∧ s.leaves t [(a, 16), (mp, 8), (f * 65536, 65536)])
    ∧ (m.phase = .serving → teState e = 3 → frame < 2 ^ 48 →
        ∃ t, exec (.migrationAck part tensor tile frame) s = .next t ∧ t.word a 16 = teMove e 4 1 m.ppkg.toNat frame
          ∧ t.word mp 8 = mapEntry 3 m.ppkg.toNat frame ∧ less (t.part part).ma .serving .drained ∧ s.leaves t [(a, 16), (mp, 8)])
    ∧ (m.phase = .serving → teState e = 3 → ∃ t, exec (.transferFail part tensor tile) s = .next t ∧ t.word a 16 = teSetState e 0
        ∧ t.word mp 8 = 2 ^ 61 ∧ (t.part part).ma = { m with inFlight := gone, status := 5 } ∧ s.leaves t [(a, 16), (mp, 8)])
    ∧ (m.phase = .pulling → teState e = 3 → ∃ t, exec (.transferFail part tensor tile) s = .next t ∧ t.word a 16 = teSetState e 2
        ∧ (t.part part).ma = { m with status := 5 } ∧ s.leaves t [(a, 16)])
    ∧ (m.phase = .pulling → teState e = 2 ∨ teState e = 3 → (m.inFlight.any mine) = true →
        ∃ t, exec (.pullTimeout part tensor tile) s = .next t ∧ t.word a 16 = teSetState e 2 ∧ (t.part part).ma = { m with status := 5 }
          ∧ t.pkg.out = s.pkg.out ++ [.pull m.ppkg.toNat m.ppart.toNat tensor tile] ∧ s.leaves t [(a, 16)])

/-- R421, R436, R444, R445: an access of the host link within a frame, and a request of another package: performed at a frame that no
migration moves, held at one in transit, redirected from one that has moved. An answer without a port waits (log 24: DEDUCED). -/
def Obligations.OutsideAccesses : Prop :=
  ∀ (s : State) (addr : Nat) (bytes : List (BitVec 8)) (r : PeerReq), s.Wf = true →
    let e := s.frameState (r.addr / 65536)
    (bytes ≠ [] → addr % 65536 + bytes.length ≤ 65536 → s.inDram addr bytes.length →
      (s.secureFrame (addr / 65536) = false → s.frameState (addr / 65536) < 2 ^ 62 →
        (∃ t, exec (.hostDma true addr bytes) s = .next t ∧ s.leaves t [(addr, bytes.length)]
          ∧ ∀ j, j < bytes.length → t.mem.read (addr + j) = bytes[j]?.getD 0)
        ∧ exec (.hostDma false addr bytes) s = .next (s.modPkg fun k =>
            { k with out := k.out ++ [.dmaData ((List.range bytes.length).map fun j => s.mem.read (addr + j))] }))
      ∧ (s.secureFrame (addr / 65536) = true → ∃ t, exec (.hostDma true addr bytes) s = .next t ∧ t.mem = s.mem
          ∧ vget 0 t.pkg.counters 3 = satAdd (vget 0 s.pkg.counters 3) 1))
    ∧ (s.isMember r.pkg = false → exec (.peerRequest r) s = .next (countPkg 6 1 s))
    ∧ (s.isMember r.pkg = true → r.pkg ≠ s.pkg.num.toNat → r.addr + r.size ≤ dramEnd →
      (r.sync = false → e < 2 ^ 62 → r.op = 0 → s.upPorts r.pkg ≠ [] → exec (.peerRequest r) s = .next (s.modPkg fun k =>
          { k with out := k.out ++ [.reply r.pkg r.core (s.homeRead r.addr r.size).1 (s.homeRead r.addr r.size).2] }))
      ∧ (r.sync = false → e < 2 ^ 62 → r.op = 0 → s.upPorts r.pkg = [] → exec (.peerRequest r) s = .next (s.modPkg fun k =>
          { k with waiting := k.waiting ++
            [(r.pkg, .reply r.pkg r.core (s.homeRead r.addr r.size).1 (s.homeRead r.addr r.size).2)] }))
      ∧ (r.sync = false → e < 2 ^ 62 → s.inDram r.addr r.size → r.op = 1 → r.poison = 0 →
        ∃ t, exec (.peerRequest r) s = .next t ∧ t.word r.addr r.size = r.value % 2 ^ (8 * r.size) ∧ s.leaves t [(r.addr, r.size)])
      ∧ (mapMst e = 2 → exec (.peerRequest r) s = .next (s.modPkg fun k =>
          { k with held := k.held ++ [{ frame := r.addr / 65536, dma := false, req := r }] }))
      ∧ (mapMst e = 3 → s.upPorts r.pkg ≠ [] → ∃ t, exec (.peerRequest r) s = .next t ∧ t.mem = s.mem
          ∧ t.pkg.out = s.pkg.out ++ [.redirect r.pkg r.core (mapPkg e) (mapFrame e)]))

/-! ### Reset, decoding and the step -/

/-- The reset values that the registers' rules give (R17, R24, R41, R47, R57, R58, R153, R202 to R206, R300, R349, R365, R370, R402, R408,
R411, R420, R426, R440, R452, R455): no slot is bound, no record is valid, and memory has its canonical form. Where the spec gives no
value, the model's choice (log 1 to 4) is not stated here. -/
def Obligations.ResetState : Prop :=
  let s := State.reset
  s.Wf = true ∧ s.cycle = 0 ∧ s.poison = []
  ∧ (∀ k, let c := s.ctx k
      c.st = .free ∧ c.linst = 0 ∧ c.ctxbuf = 0 ∧ flagsReg c.r = 0 ∧ c.r.budget = 1000 ∧ (∀ n, vget 0 c.r.sem n = 0)
      ∧ (∀ u, (c.stream u).pc = 0 ∧ (c.stream u).rmode = 0x08 ∧ (c.stream u).flush = 0 ∧ (c.stream u).nbl = 0)
      ∧ c.r.me.pcfg = 0 ∧ c.r.me.mectl = 6 ∧ c.r.me.gcfg = 0x10000000 ∧ (∀ n, n < 8 → vget 0 c.r.me.ag n = 0xC000000000000000)
      ∧ c.r.asg.reserve = 0xFF800000 ∧ c.r.asg.bidcap = 0x3F800000 ∧ c.r.asg.limit = 0x400)
  ∧ (∀ n j, vget {} (s.core n).cases j = {} ∧ (vget {} (s.core n).pending j).valid = false)
  ∧ (∀ d, (s.die d).ncore = 48 ∧ (s.die d).spared = 0 ∧ (s.die d).failed = 0 ∧ (s.die d).chok = 0xFFFFFFFFFFFF ∧ (s.die d).elBase = 0)
  ∧ (∀ p, (s.part p).active = {} ∧ (s.part p).shadow = {} ∧ (s.part p).nextInst = 1 ∧ (s.part p).ma.phase = .idle
      ∧ (s.part p).ma.mtmo = 100 ∧ (s.part p).ma.push = 8)
  ∧ s.pkg.lver = 0 ∧ s.pkg.lstate = .idle ∧ s.pkg.affect = 0 ∧ s.pkg.world.mcw = 0xFF ∧ s.pkg.boot = 0 ∧ s.pkg.num = 0
  ∧ s.pkg.pwrlim = 2800 ∧ ∀ k, k < 36 → (vget {} s.pkg.ports k).en = true ∧ (vget {} s.pkg.ports k).wmin = 0

/-- Words written out from the formats of the chapters (R85, R95, R97, R101, R114, R118, R134, R171, R172, R213, R226, R243, R254, R267,
R268) decode to the instructions they stand for; the words of R96 are refused with their causes. -/
def Obligations.DecodeWords : Prop :=
  decode .sq 0x04611000 = .ok (.add 3 1 2) ∧ decode .sq 0x0C22FFFF = .ok (.addi 1 2 0xFFFF)
  ∧ decode .sq 0x40A66008 = .ok (.ld 5 6 3 8) ∧ decode .sq 0x8022FFFE = .ok (.beq 1 2 0xFFFE)
  ∧ decode .sq 0xF80ABCDE = .ok (.pfxImm 0xABCDE)
  ∧ decode .ve 0x82041030 = .ok (.vadd 1 1 2 3 0) ∧ decode .ve 0x08143072 = .ok (.vfma 0 5 6 7 2)
  ∧ decode .me 0x052E7FC0 = .ok (.mPass 2 1 3 4 127 1 2) ∧ decode .me 0xA900FFFC = .ok (.meLbr 2 0xFFFC)
  ∧ decode .xl 0x0448C055 = .ok (.xlLd 1 2 3 5 1 0 1) ∧ decode .xs 0x2848C050 = .ok (.xsSt 1 2 3 5 0)
  ∧ (∀ u ∈ ([.xl, .xs] : List StreamId),
      decode u 0xC4488000 = .ok (.cAddi 1 2 0x8000) ∧ decode u 0xC8120004 = .ok (.cBeq 1 2 4))
  ∧ (∀ u : StreamId, decode u 0 = .error .illWord ∧ decode u 0xFFFFFFFF = .error .illWord)
  ∧ decode .sq 0x04611001 = .error .illRsv ∧ decode .xs 0x0448C055 = .error .illOp

/-- R94 to R96, R104, R162, R376, R436, logs 5, 29 and 32: a step of a machine whose schedule names an engine runs the instruction that the
word at the program counter of the granted stream decodes to, or takes the illegal-instruction trap; a group of VE is checked whole at its
first word, waits there, and takes there the count that it waited for. A scheduled event, and one that the machine takes by itself, runs its
meaning; a race of two acts that see every word as it stands, and of which none stops its context or writes FLAGS, is one act after the
other. What meets a tile on the move by its physical
address does not happen: the tile is pulled, and the entry of the schedule comes again at its end. -/
def Obligations.StepRunsTheDecodedInstruction : Prop :=
  ∀ (s : State) (a : Agent),
    let t := tick s
    let ck := a.core * 4 + a.slot
    let runs (x : State) (k : State → Host.Outcome State Fault Refusal) : Prop :=
      let y := begin a x
      let z := if a.stream = .ve then veGroupTake ck y else y
      let c := y.ctx ck
      let st := c.stream a.stream
      let orAwait := orAwait s.turnNow
      ((a.stream = .ve → veGroupBad c = none ∧ veGroupBlocked ck y = none) →
        (∀ i, decode a.stream (st.fetch st.at) = .ok i → step s = orAwait t (exec i z) k)
        ∧ ∀ e, decode a.stream (st.fetch st.at) = .error e → step s = orAwait t (exec (.illegalInstruction e) z) k)
      ∧ (∀ e, a.stream = .ve → veGroupBad c = some e → step s = orAwait t (exec (.illegalInstruction e) y) k)
      ∧ (∀ w, a.stream = .ve → veGroupBad c = none → veGroupBlocked ck y = some w → step s = orAwait t (run (veBlock ck w) y) k)
      ∧ st.pc = ((x.ctx ck).stream a.stream).pc ∧ y.who = a ∧ y.mem = x.mem ∧ y.buf = x.buf
    (s.lock = some a →
      (∀ b views rows r, s.tape = .amid b views rows :: r →
        step s = orAwait s.turnNow { t with tape := r } (amidAct a b views rows { t with tape := r })
          fun u => .next { u with tape := r ++ [.act b] })
      ∧ ((∀ b views rows r, s.tape ≠ .amid b views rows :: r) →
        (ready a t = true → runs t fun u => .next { u with lock := none }) ∧ (ready a t = false → step s = .next { t with lock := none })))
    ∧ (s.lock = none →
      (∀ e r, s.tape = e :: r → (∀ u, runTurn e { t with tape := r } = .next u → u.awaits = none → step s = .next u)
        ∧ (∀ u f, runTurn e { t with tape := r } = .next u → u.awaits = some f →
          step s = .next { heldUp (some e) f { t with tape := r } with tape := r ++ [e] }))
      ∧ (∀ slow par rows r, s.tape = .act (.run a.core a.stream slow par rows) :: r →
        (∀ x, grantAt a.core a.stream { t with tape := r } = some (a.slot, x) →
          runs { x with slow := slow, par := par, rows := rows }
            fun u => .next { u with tape := r ++ [.act (.run a.core a.stream slow par rows)] })
        ∧ (grantAt a.core a.stream { t with tape := r } = none → step s = .next { t with tape := r }))
      ∧ (∀ i rows r, s.tape = .act (.ev i rows) :: r → Instr.isEvent i = true →
        step s = orAwait s.turnNow { t with tape := r } (exec i { t with tape := r, rows := rows })
          fun u => .next { u with tape := r ++ [.act (.ev i rows)] })
      ∧ (∀ b c r y z, s.tape = .race [⟨b, [], []⟩, ⟨c, [], []⟩] :: r →
          b.traps { t with tape := r } = none → c.traps { t with tape := r } = none →
          b.writesFlags { t with tape := r } = false → c.writesFlags { t with tape := r } = false →
          wholeAct b { t with tape := r } = .next y → y.Wf = true → wholeAct c { y with early := [] } = .next z → z.Wf = true →
          step s = orAwait s.turnNow { t with tape := r } (.next { z with early := [] })
            fun u => .next { u with tape := r ++ [.race [⟨b, [], []⟩, ⟨c, [], []⟩]] })
      ∧ (∀ n r, s.tape = .note n :: r →
        step s = orAwait s.turnNow { t with tape := r } (run (noteEffect n) { t with tape := r }) fun u => .next { u with tape := r ++ [.note n] })
      ∧ (s.tape = [] →
        (∀ e, autoNext t = some e → step s = orAwait none t (exec e.instr t) stepGrant)
        ∧ (autoNext t = none → (∀ x, grant t = some (a, x) → runs x fun u => .next { u with cur := x.cur })
          ∧ (grant t = none → step s = .next t))))

/-- Every step keeps the invariant: memory and the buffers have their canonical form and no write of a step is left pending. -/
def Obligations.StepKeepsTheCanonicalForm : Prop := ∀ s t : State, s.Wf = true → step s = .next t → t.Wf = true

/-- R95: every well-formed instruction of a stream has a word, which that stream's decoder reads back with every operand. -/
def Obligations.EncodedInstructionsDecode : Prop :=
  ∀ (i : Instr) (u : StreamId), i.WellFormed → streamOf i = some u →
    ∃ w, encode i = some w ∧ w < 2 ^ 32 ∧ decode u w = .ok i

/-- R94 to R96: what a stream's decoder reads is a well-formed instruction, and its word is the one it was read from: no bit of a
legal word is dropped. -/
def Obligations.DecodedWordsAreLegal : Prop :=
  ∀ (u : StreamId) (w : Nat) (i : Instr), w < 2 ^ 32 → decode u w = .ok i → i.WellFormed ∧ encode i = some w
end

