-- ==== Sys2Proof/Laws/State.lean ====
section
/-!
SUPPORT. One lemma per field of State and per update of State, true by definition, so that no later proof unfolds a record update;
what a read of a part gives after a write of one (the association lists and the vectors).
-/
set_option Elab.async false
namespace Sys2Proof.Machine
open Sys2Proof

/-! ### Parts by key -/

theorem getAt_setAt_same {α : Type} (d : α) (k : Nat) (v : α) : ∀ l, getAt d k (setAt k v l) = v
  | [] => by simp [setAt, getAt]
  | (j, w) :: r => by
    unfold setAt
    split
    · simp [getAt]
    · split
      · simp [getAt]
      · rename_i h _
        simp [getAt, h, getAt_setAt_same d k v r]

theorem getAt_setAt_other {α : Type} (d : α) {k j : Nat} (h : j ≠ k) (v : α) : ∀ l, getAt d j (setAt k v l) = getAt d j l
  | [] => by simp [setAt, getAt, Ne.symm h]
  | (i, w) :: r => by
    unfold setAt
    split
    · rename_i e
      subst e
      simp [getAt, Ne.symm h]
    · split
      · simp [getAt, Ne.symm h]
      · simp only [getAt]
        rw [getAt_setAt_other d h v r]

@[simp] theorem ctx_setCtx (s : State) (k : Nat) (c : Ctx) : (s.setCtx k c).ctx k = c := getAt_setAt_same _ _ _ _
theorem ctx_setCtx_other (s : State) {k j : Nat} (h : j ≠ k) (c : Ctx) : (s.setCtx k c).ctx j = s.ctx j :=
  getAt_setAt_other _ h _ _
@[simp] theorem ctx_modCtx (s : State) (k : Nat) (f : Ctx → Ctx) : (s.modCtx k f).ctx k = f (s.ctx k) := ctx_setCtx _ _ _
theorem ctx_modCtx_other (s : State) {k j : Nat} (h : j ≠ k) (f : Ctx → Ctx) : (s.modCtx k f).ctx j = s.ctx j :=
  ctx_setCtx_other s h _
@[simp] theorem ctx_modRegs (s : State) (k : Nat) (f : Regs → Regs) :
    (s.modRegs k f).ctx k = { s.ctx k with r := f (s.ctx k).r } := ctx_modCtx _ _ _
theorem ctx_modRegs_other (s : State) {k j : Nat} (h : j ≠ k) (f : Regs → Regs) : (s.modRegs k f).ctx j = s.ctx j :=
  ctx_modCtx_other s h _
@[simp] theorem ctx_modStream (s : State) (k : Nat) (u : StreamId) (f : Stream → Stream) :
    (s.modStream k u f).ctx k = { s.ctx k with r := (s.ctx k).r.modStream u f } := ctx_modRegs _ _ _
theorem ctx_modStream_other (s : State) {k j : Nat} (h : j ≠ k) (u : StreamId) (f : Stream → Stream) :
    (s.modStream k u f).ctx j = s.ctx j := ctx_modRegs_other s h _
@[simp] theorem core_modCore (s : State) (n : Nat) (f : Core → Core) : (s.modCore n f).core n = f (s.core n) :=
  getAt_setAt_same _ _ _ _
@[simp] theorem die_modDie (s : State) (n : Nat) (f : Die → Die) : (s.modDie n f).die n = f (s.die n) :=
  getAt_setAt_same _ _ _ _
@[simp] theorem part_modPart (s : State) (n : Nat) (f : Part → Part) : (s.modPart n f).part n = f (s.part n) :=
  getAt_setAt_same _ _ _ _
@[simp] theorem vf_modVf (s : State) (n : Nat) (f : Vf → Vf) : (s.modVf n f).vf n = f (s.vf n) := getAt_setAt_same _ _ _ _

/-! ### Streams and vectors -/

@[simp] theorem regs_stream_modStream (c : Ctx) (u : StreamId) (f : Stream → Stream) :
    ({ c with r := c.r.modStream u f } : Ctx).stream u = f (c.stream u) := by
  simp [Ctx.stream, Regs.modStream]

theorem regs_stream_modStream_other (c : Ctx) {u v : StreamId} (h : v ≠ u) (f : Stream → Stream) :
    ({ c with r := c.r.modStream u f } : Ctx).stream v = c.stream v := by
  have : u.code ≠ v.code := by revert h; cases u <;> cases v <;> decide
  simp [Ctx.stream, Regs.modStream, this]

theorem vget_vset_same {α : Type} {n : Nat} (d : α) (v : Vector α n) {i : Nat} (h : i < n) (x : α) :
    vget d (vset v i x) i = x := by
  simp [vget, vset, h]

theorem vget_vset_other {α : Type} {n : Nat} (d : α) (v : Vector α n) {i j : Nat} (h : j ≠ i) (x : α) :
    vget d (vset v i x) j = vget d v j := by
  simp [vget, vset, Ne.symm h]

/-! ### Fields that an update leaves -/

@[simp] theorem setCtx_mem (s : State) (k : Nat) (c : Ctx) : (s.setCtx k c).mem = s.mem := rfl
@[simp] theorem setCtx_poison (s : State) (k : Nat) (c : Ctx) : (s.setCtx k c).poison = s.poison := rfl
@[simp] theorem setCtx_buf (s : State) (k : Nat) (c : Ctx) : (s.setCtx k c).buf = s.buf := rfl
@[simp] theorem setCtx_bpoison (s : State) (k : Nat) (c : Ctx) : (s.setCtx k c).bpoison = s.bpoison := rfl
@[simp] theorem setCtx_platenPar (s : State) (k : Nat) (c : Ctx) : (s.setCtx k c).platenPar = s.platenPar := rfl
@[simp] theorem setCtx_wbuf (s : State) (k : Nat) (c : Ctx) : (s.setCtx k c).wbuf = s.wbuf := rfl
@[simp] theorem setCtx_bbuf (s : State) (k : Nat) (c : Ctx) : (s.setCtx k c).bbuf = s.bbuf := rfl
@[simp] theorem setCtx_cores (s : State) (k : Nat) (c : Ctx) : (s.setCtx k c).cores = s.cores := rfl
@[simp] theorem setCtx_dies (s : State) (k : Nat) (c : Ctx) : (s.setCtx k c).dies = s.dies := rfl
@[simp] theorem setCtx_parts (s : State) (k : Nat) (c : Ctx) : (s.setCtx k c).parts = s.parts := rfl
@[simp] theorem setCtx_vfs (s : State) (k : Nat) (c : Ctx) : (s.setCtx k c).vfs = s.vfs := rfl
@[simp] theorem setCtx_pkg (s : State) (k : Nat) (c : Ctx) : (s.setCtx k c).pkg = s.pkg := rfl
@[simp] theorem setCtx_ats (s : State) (k : Nat) (c : Ctx) : (s.setCtx k c).ats = s.ats := rfl
@[simp] theorem setCtx_saves (s : State) (k : Nat) (c : Ctx) : (s.setCtx k c).saves = s.saves := rfl
@[simp] theorem setCtx_saveNext (s : State) (k : Nat) (c : Ctx) : (s.setCtx k c).saveNext = s.saveNext := rfl
@[simp] theorem setCtx_cle (s : State) (k : Nat) (c : Ctx) : (s.setCtx k c).cle = s.cle := rfl
@[simp] theorem setCtx_cycle (s : State) (k : Nat) (c : Ctx) : (s.setCtx k c).cycle = s.cycle := rfl
@[simp] theorem setCtx_ticks (s : State) (k : Nat) (c : Ctx) : (s.setCtx k c).ticks = s.ticks := rfl
@[simp] theorem setCtx_fresh (s : State) (k : Nat) (c : Ctx) : (s.setCtx k c).fresh = s.fresh := rfl
@[simp] theorem setCtx_redirects (s : State) (k : Nat) (c : Ctx) : (s.setCtx k c).redirects = s.redirects := rfl
@[simp] theorem setCtx_strays (s : State) (k : Nat) (c : Ctx) : (s.setCtx k c).strays = s.strays := rfl
@[simp] theorem setCtx_who (s : State) (k : Nat) (c : Ctx) : (s.setCtx k c).who = s.who := rfl
@[simp] theorem setCtx_lock (s : State) (k : Nat) (c : Ctx) : (s.setCtx k c).lock = s.lock := rfl
@[simp] theorem setCtx_cur (s : State) (k : Nat) (c : Ctx) : (s.setCtx k c).cur = s.cur := rfl
@[simp] theorem setCtx_slow (s : State) (k : Nat) (c : Ctx) : (s.setCtx k c).slow = s.slow := rfl
@[simp] theorem setCtx_par (s : State) (k : Nat) (c : Ctx) : (s.setCtx k c).par = s.par := rfl
@[simp] theorem setCtx_rows (s : State) (k : Nat) (c : Ctx) : (s.setCtx k c).rows = s.rows := rfl
@[simp] theorem setCtx_early (s : State) (k : Nat) (c : Ctx) : (s.setCtx k c).early = s.early := rfl
@[simp] theorem setCtx_awaits (s : State) (k : Nat) (c : Ctx) : (s.setCtx k c).awaits = s.awaits := rfl
@[simp] theorem setCtx_tape (s : State) (k : Nat) (c : Ctx) : (s.setCtx k c).tape = s.tape := rfl
@[simp] theorem setCtx_stuck (s : State) (k : Nat) (c : Ctx) : (s.setCtx k c).stuck = s.stuck := rfl

@[simp] theorem modCtx_mem (s : State) (k : Nat) (f : Ctx → Ctx) : (s.modCtx k f).mem = s.mem := rfl
@[simp] theorem modCtx_poison (s : State) (k : Nat) (f : Ctx → Ctx) : (s.modCtx k f).poison = s.poison := rfl
@[simp] theorem modCtx_buf (s : State) (k : Nat) (f : Ctx → Ctx) : (s.modCtx k f).buf = s.buf := rfl
@[simp] theorem modCtx_bpoison (s : State) (k : Nat) (f : Ctx → Ctx) : (s.modCtx k f).bpoison = s.bpoison := rfl
@[simp] theorem modCtx_platenPar (s : State) (k : Nat) (f : Ctx → Ctx) : (s.modCtx k f).platenPar = s.platenPar := rfl
@[simp] theorem modCtx_wbuf (s : State) (k : Nat) (f : Ctx → Ctx) : (s.modCtx k f).wbuf = s.wbuf := rfl
@[simp] theorem modCtx_bbuf (s : State) (k : Nat) (f : Ctx → Ctx) : (s.modCtx k f).bbuf = s.bbuf := rfl
@[simp] theorem modCtx_cores (s : State) (k : Nat) (f : Ctx → Ctx) : (s.modCtx k f).cores = s.cores := rfl
@[simp] theorem modCtx_dies (s : State) (k : Nat) (f : Ctx → Ctx) : (s.modCtx k f).dies = s.dies := rfl
@[simp] theorem modCtx_parts (s : State) (k : Nat) (f : Ctx → Ctx) : (s.modCtx k f).parts = s.parts := rfl
@[simp] theorem modCtx_vfs (s : State) (k : Nat) (f : Ctx → Ctx) : (s.modCtx k f).vfs = s.vfs := rfl
@[simp] theorem modCtx_pkg (s : State) (k : Nat) (f : Ctx → Ctx) : (s.modCtx k f).pkg = s.pkg := rfl
@[simp] theorem modCtx_ats (s : State) (k : Nat) (f : Ctx → Ctx) : (s.modCtx k f).ats = s.ats := rfl
@[simp] theorem modCtx_saves (s : State) (k : Nat) (f : Ctx → Ctx) : (s.modCtx k f).saves = s.saves := rfl
@[simp] theorem modCtx_saveNext (s : State) (k : Nat) (f : Ctx → Ctx) : (s.modCtx k f).saveNext = s.saveNext := rfl
@[simp] theorem modCtx_cle (s : State) (k : Nat) (f : Ctx → Ctx) : (s.modCtx k f).cle = s.cle := rfl
@[simp] theorem modCtx_cycle (s : State) (k : Nat) (f : Ctx → Ctx) : (s.modCtx k f).cycle = s.cycle := rfl
@[simp] theorem modCtx_ticks (s : State) (k : Nat) (f : Ctx → Ctx) : (s.modCtx k f).ticks = s.ticks := rfl
@[simp] theorem modCtx_fresh (s : State) (k : Nat) (f : Ctx → Ctx) : (s.modCtx k f).fresh = s.fresh := rfl
@[simp] theorem modCtx_redirects (s : State) (k : Nat) (f : Ctx → Ctx) : (s.modCtx k f).redirects = s.redirects := rfl
@[simp] theorem modCtx_strays (s : State) (k : Nat) (f : Ctx → Ctx) : (s.modCtx k f).strays = s.strays := rfl
@[simp] theorem modCtx_who (s : State) (k : Nat) (f : Ctx → Ctx) : (s.modCtx k f).who = s.who := rfl
@[simp] theorem modCtx_lock (s : State) (k : Nat) (f : Ctx → Ctx) : (s.modCtx k f).lock = s.lock := rfl
@[simp] theorem modCtx_cur (s : State) (k : Nat) (f : Ctx → Ctx) : (s.modCtx k f).cur = s.cur := rfl
@[simp] theorem modCtx_slow (s : State) (k : Nat) (f : Ctx → Ctx) : (s.modCtx k f).slow = s.slow := rfl
@[simp] theorem modCtx_par (s : State) (k : Nat) (f : Ctx → Ctx) : (s.modCtx k f).par = s.par := rfl
@[simp] theorem modCtx_rows (s : State) (k : Nat) (f : Ctx → Ctx) : (s.modCtx k f).rows = s.rows := rfl
@[simp] theorem modCtx_early (s : State) (k : Nat) (f : Ctx → Ctx) : (s.modCtx k f).early = s.early := rfl
@[simp] theorem modCtx_awaits (s : State) (k : Nat) (f : Ctx → Ctx) : (s.modCtx k f).awaits = s.awaits := rfl
@[simp] theorem modCtx_tape (s : State) (k : Nat) (f : Ctx → Ctx) : (s.modCtx k f).tape = s.tape := rfl
@[simp] theorem modCtx_stuck (s : State) (k : Nat) (f : Ctx → Ctx) : (s.modCtx k f).stuck = s.stuck := rfl

@[simp] theorem modRegs_mem (s : State) (k : Nat) (f : Regs → Regs) : (s.modRegs k f).mem = s.mem := rfl
@[simp] theorem modRegs_poison (s : State) (k : Nat) (f : Regs → Regs) : (s.modRegs k f).poison = s.poison := rfl
@[simp] theorem modRegs_buf (s : State) (k : Nat) (f : Regs → Regs) : (s.modRegs k f).buf = s.buf := rfl
@[simp] theorem modRegs_bpoison (s : State) (k : Nat) (f : Regs → Regs) : (s.modRegs k f).bpoison = s.bpoison := rfl
@[simp] theorem modRegs_platenPar (s : State) (k : Nat) (f : Regs → Regs) : (s.modRegs k f).platenPar = s.platenPar := rfl
@[simp] theorem modRegs_wbuf (s : State) (k : Nat) (f : Regs → Regs) : (s.modRegs k f).wbuf = s.wbuf := rfl
@[simp] theorem modRegs_bbuf (s : State) (k : Nat) (f : Regs → Regs) : (s.modRegs k f).bbuf = s.bbuf := rfl
@[simp] theorem modRegs_cores (s : State) (k : Nat) (f : Regs → Regs) : (s.modRegs k f).cores = s.cores := rfl
@[simp] theorem modRegs_dies (s : State) (k : Nat) (f : Regs → Regs) : (s.modRegs k f).dies = s.dies := rfl
@[simp] theorem modRegs_parts (s : State) (k : Nat) (f : Regs → Regs) : (s.modRegs k f).parts = s.parts := rfl
@[simp] theorem modRegs_vfs (s : State) (k : Nat) (f : Regs → Regs) : (s.modRegs k f).vfs = s.vfs := rfl
@[simp] theorem modRegs_pkg (s : State) (k : Nat) (f : Regs → Regs) : (s.modRegs k f).pkg = s.pkg := rfl
@[simp] theorem modRegs_ats (s : State) (k : Nat) (f : Regs → Regs) : (s.modRegs k f).ats = s.ats := rfl
@[simp] theorem modRegs_saves (s : State) (k : Nat) (f : Regs → Regs) : (s.modRegs k f).saves = s.saves := rfl
@[simp] theorem modRegs_saveNext (s : State) (k : Nat) (f : Regs → Regs) : (s.modRegs k f).saveNext = s.saveNext := rfl
@[simp] theorem modRegs_cle (s : State) (k : Nat) (f : Regs → Regs) : (s.modRegs k f).cle = s.cle := rfl
@[simp] theorem modRegs_cycle (s : State) (k : Nat) (f : Regs → Regs) : (s.modRegs k f).cycle = s.cycle := rfl
@[simp] theorem modRegs_ticks (s : State) (k : Nat) (f : Regs → Regs) : (s.modRegs k f).ticks = s.ticks := rfl
@[simp] theorem modRegs_fresh (s : State) (k : Nat) (f : Regs → Regs) : (s.modRegs k f).fresh = s.fresh := rfl
@[simp] theorem modRegs_redirects (s : State) (k : Nat) (f : Regs → Regs) : (s.modRegs k f).redirects = s.redirects := rfl
@[simp] theorem modRegs_strays (s : State) (k : Nat) (f : Regs → Regs) : (s.modRegs k f).strays = s.strays := rfl
@[simp] theorem modRegs_who (s : State) (k : Nat) (f : Regs → Regs) : (s.modRegs k f).who = s.who := rfl
@[simp] theorem modRegs_lock (s : State) (k : Nat) (f : Regs → Regs) : (s.modRegs k f).lock = s.lock := rfl
@[simp] theorem modRegs_cur (s : State) (k : Nat) (f : Regs → Regs) : (s.modRegs k f).cur = s.cur := rfl
@[simp] theorem modRegs_slow (s : State) (k : Nat) (f : Regs → Regs) : (s.modRegs k f).slow = s.slow := rfl
@[simp] theorem modRegs_par (s : State) (k : Nat) (f : Regs → Regs) : (s.modRegs k f).par = s.par := rfl
@[simp] theorem modRegs_rows (s : State) (k : Nat) (f : Regs → Regs) : (s.modRegs k f).rows = s.rows := rfl
@[simp] theorem modRegs_early (s : State) (k : Nat) (f : Regs → Regs) : (s.modRegs k f).early = s.early := rfl
@[simp] theorem modRegs_awaits (s : State) (k : Nat) (f : Regs → Regs) : (s.modRegs k f).awaits = s.awaits := rfl
@[simp] theorem modRegs_tape (s : State) (k : Nat) (f : Regs → Regs) : (s.modRegs k f).tape = s.tape := rfl
@[simp] theorem modRegs_stuck (s : State) (k : Nat) (f : Regs → Regs) : (s.modRegs k f).stuck = s.stuck := rfl

@[simp] theorem modStream_mem (s : State) (k : Nat) (u : StreamId) (f : Stream → Stream) : (s.modStream k u f).mem = s.mem := rfl
@[simp] theorem modStream_poison (s : State) (k : Nat) (u : StreamId) (f : Stream → Stream) : (s.modStream k u f).poison = s.poison := rfl
@[simp] theorem modStream_buf (s : State) (k : Nat) (u : StreamId) (f : Stream → Stream) : (s.modStream k u f).buf = s.buf := rfl
@[simp] theorem modStream_bpoison (s : State) (k : Nat) (u : StreamId) (f : Stream → Stream) : (s.modStream k u f).bpoison = s.bpoison := rfl
@[simp] theorem modStream_platenPar (s : State) (k : Nat) (u : StreamId) (f : Stream → Stream) : (s.modStream k u f).platenPar = s.platenPar := rfl
@[simp] theorem modStream_wbuf (s : State) (k : Nat) (u : StreamId) (f : Stream → Stream) : (s.modStream k u f).wbuf = s.wbuf := rfl
@[simp] theorem modStream_bbuf (s : State) (k : Nat) (u : StreamId) (f : Stream → Stream) : (s.modStream k u f).bbuf = s.bbuf := rfl
@[simp] theorem modStream_cores (s : State) (k : Nat) (u : StreamId) (f : Stream → Stream) : (s.modStream k u f).cores = s.cores := rfl
@[simp] theorem modStream_dies (s : State) (k : Nat) (u : StreamId) (f : Stream → Stream) : (s.modStream k u f).dies = s.dies := rfl
@[simp] theorem modStream_parts (s : State) (k : Nat) (u : StreamId) (f : Stream → Stream) : (s.modStream k u f).parts = s.parts := rfl
@[simp] theorem modStream_vfs (s : State) (k : Nat) (u : StreamId) (f : Stream → Stream) : (s.modStream k u f).vfs = s.vfs := rfl
@[simp] theorem modStream_pkg (s : State) (k : Nat) (u : StreamId) (f : Stream → Stream) : (s.modStream k u f).pkg = s.pkg := rfl
@[simp] theorem modStream_ats (s : State) (k : Nat) (u : StreamId) (f : Stream → Stream) : (s.modStream k u f).ats = s.ats := rfl
@[simp] theorem modStream_saves (s : State) (k : Nat) (u : StreamId) (f : Stream → Stream) : (s.modStream k u f).saves = s.saves := rfl
@[simp] theorem modStream_saveNext (s : State) (k : Nat) (u : StreamId) (f : Stream → Stream) : (s.modStream k u f).saveNext = s.saveNext := rfl
@[simp] theorem modStream_cle (s : State) (k : Nat) (u : StreamId) (f : Stream → Stream) : (s.modStream k u f).cle = s.cle := rfl
@[simp] theorem modStream_cycle (s : State) (k : Nat) (u : StreamId) (f : Stream → Stream) : (s.modStream k u f).cycle = s.cycle := rfl
@[simp] theorem modStream_ticks (s : State) (k : Nat) (u : StreamId) (f : Stream → Stream) : (s.modStream k u f).ticks = s.ticks := rfl
@[simp] theorem modStream_fresh (s : State) (k : Nat) (u : StreamId) (f : Stream → Stream) : (s.modStream k u f).fresh = s.fresh := rfl
@[simp] theorem modStream_redirects (s : State) (k : Nat) (u : StreamId) (f : Stream → Stream) : (s.modStream k u f).redirects = s.redirects := rfl
@[simp] theorem modStream_strays (s : State) (k : Nat) (u : StreamId) (f : Stream → Stream) : (s.modStream k u f).strays = s.strays := rfl
@[simp] theorem modStream_who (s : State) (k : Nat) (u : StreamId) (f : Stream → Stream) : (s.modStream k u f).who = s.who := rfl
@[simp] theorem modStream_lock (s : State) (k : Nat) (u : StreamId) (f : Stream → Stream) : (s.modStream k u f).lock = s.lock := rfl
@[simp] theorem modStream_cur (s : State) (k : Nat) (u : StreamId) (f : Stream → Stream) : (s.modStream k u f).cur = s.cur := rfl
@[simp] theorem modStream_slow (s : State) (k : Nat) (u : StreamId) (f : Stream → Stream) : (s.modStream k u f).slow = s.slow := rfl
@[simp] theorem modStream_par (s : State) (k : Nat) (u : StreamId) (f : Stream → Stream) : (s.modStream k u f).par = s.par := rfl
@[simp] theorem modStream_rows (s : State) (k : Nat) (u : StreamId) (f : Stream → Stream) : (s.modStream k u f).rows = s.rows := rfl
@[simp] theorem modStream_early (s : State) (k : Nat) (u : StreamId) (f : Stream → Stream) : (s.modStream k u f).early = s.early := rfl
@[simp] theorem modStream_awaits (s : State) (k : Nat) (u : StreamId) (f : Stream → Stream) : (s.modStream k u f).awaits = s.awaits := rfl
@[simp] theorem modStream_tape (s : State) (k : Nat) (u : StreamId) (f : Stream → Stream) : (s.modStream k u f).tape = s.tape := rfl
@[simp] theorem modStream_stuck (s : State) (k : Nat) (u : StreamId) (f : Stream → Stream) : (s.modStream k u f).stuck = s.stuck := rfl

@[simp] theorem modCore_mem (s : State) (n : Nat) (f : Core → Core) : (s.modCore n f).mem = s.mem := rfl
@[simp] theorem modCore_poison (s : State) (n : Nat) (f : Core → Core) : (s.modCore n f).poison = s.poison := rfl
@[simp] theorem modCore_buf (s : State) (n : Nat) (f : Core → Core) : (s.modCore n f).buf = s.buf := rfl
@[simp] theorem modCore_bpoison (s : State) (n : Nat) (f : Core → Core) : (s.modCore n f).bpoison = s.bpoison := rfl
@[simp] theorem modCore_platenPar (s : State) (n : Nat) (f : Core → Core) : (s.modCore n f).platenPar = s.platenPar := rfl
@[simp] theorem modCore_wbuf (s : State) (n : Nat) (f : Core → Core) : (s.modCore n f).wbuf = s.wbuf := rfl
@[simp] theorem modCore_bbuf (s : State) (n : Nat) (f : Core → Core) : (s.modCore n f).bbuf = s.bbuf := rfl
@[simp] theorem modCore_ctxs (s : State) (n : Nat) (f : Core → Core) : (s.modCore n f).ctxs = s.ctxs := rfl
@[simp] theorem modCore_dies (s : State) (n : Nat) (f : Core → Core) : (s.modCore n f).dies = s.dies := rfl
@[simp] theorem modCore_parts (s : State) (n : Nat) (f : Core → Core) : (s.modCore n f).parts = s.parts := rfl
@[simp] theorem modCore_vfs (s : State) (n : Nat) (f : Core → Core) : (s.modCore n f).vfs = s.vfs := rfl
@[simp] theorem modCore_pkg (s : State) (n : Nat) (f : Core → Core) : (s.modCore n f).pkg = s.pkg := rfl
@[simp] theorem modCore_ats (s : State) (n : Nat) (f : Core → Core) : (s.modCore n f).ats = s.ats := rfl
@[simp] theorem modCore_saves (s : State) (n : Nat) (f : Core → Core) : (s.modCore n f).saves = s.saves := rfl
@[simp] theorem modCore_saveNext (s : State) (n : Nat) (f : Core → Core) : (s.modCore n f).saveNext = s.saveNext := rfl
@[simp] theorem modCore_cle (s : State) (n : Nat) (f : Core → Core) : (s.modCore n f).cle = s.cle := rfl
@[simp] theorem modCore_cycle (s : State) (n : Nat) (f : Core → Core) : (s.modCore n f).cycle = s.cycle := rfl
@[simp] theorem modCore_ticks (s : State) (n : Nat) (f : Core → Core) : (s.modCore n f).ticks = s.ticks := rfl
@[simp] theorem modCore_fresh (s : State) (n : Nat) (f : Core → Core) : (s.modCore n f).fresh = s.fresh := rfl
@[simp] theorem modCore_redirects (s : State) (n : Nat) (f : Core → Core) : (s.modCore n f).redirects = s.redirects := rfl
@[simp] theorem modCore_strays (s : State) (n : Nat) (f : Core → Core) : (s.modCore n f).strays = s.strays := rfl
@[simp] theorem modCore_who (s : State) (n : Nat) (f : Core → Core) : (s.modCore n f).who = s.who := rfl
@[simp] theorem modCore_lock (s : State) (n : Nat) (f : Core → Core) : (s.modCore n f).lock = s.lock := rfl
@[simp] theorem modCore_cur (s : State) (n : Nat) (f : Core → Core) : (s.modCore n f).cur = s.cur := rfl
@[simp] theorem modCore_slow (s : State) (n : Nat) (f : Core → Core) : (s.modCore n f).slow = s.slow := rfl
@[simp] theorem modCore_par (s : State) (n : Nat) (f : Core → Core) : (s.modCore n f).par = s.par := rfl
@[simp] theorem modCore_rows (s : State) (n : Nat) (f : Core → Core) : (s.modCore n f).rows = s.rows := rfl
@[simp] theorem modCore_early (s : State) (n : Nat) (f : Core → Core) : (s.modCore n f).early = s.early := rfl
@[simp] theorem modCore_awaits (s : State) (n : Nat) (f : Core → Core) : (s.modCore n f).awaits = s.awaits := rfl
@[simp] theorem modCore_tape (s : State) (n : Nat) (f : Core → Core) : (s.modCore n f).tape = s.tape := rfl
@[simp] theorem modCore_stuck (s : State) (n : Nat) (f : Core → Core) : (s.modCore n f).stuck = s.stuck := rfl

@[simp] theorem modDie_mem (s : State) (n : Nat) (f : Die → Die) : (s.modDie n f).mem = s.mem := rfl
@[simp] theorem modDie_poison (s : State) (n : Nat) (f : Die → Die) : (s.modDie n f).poison = s.poison := rfl
@[simp] theorem modDie_buf (s : State) (n : Nat) (f : Die → Die) : (s.modDie n f).buf = s.buf := rfl
@[simp] theorem modDie_bpoison (s : State) (n : Nat) (f : Die → Die) : (s.modDie n f).bpoison = s.bpoison := rfl
@[simp] theorem modDie_platenPar (s : State) (n : Nat) (f : Die → Die) : (s.modDie n f).platenPar = s.platenPar := rfl
@[simp] theorem modDie_wbuf (s : State) (n : Nat) (f : Die → Die) : (s.modDie n f).wbuf = s.wbuf := rfl
@[simp] theorem modDie_bbuf (s : State) (n : Nat) (f : Die → Die) : (s.modDie n f).bbuf = s.bbuf := rfl
@[simp] theorem modDie_ctxs (s : State) (n : Nat) (f : Die → Die) : (s.modDie n f).ctxs = s.ctxs := rfl
@[simp] theorem modDie_cores (s : State) (n : Nat) (f : Die → Die) : (s.modDie n f).cores = s.cores := rfl
@[simp] theorem modDie_parts (s : State) (n : Nat) (f : Die → Die) : (s.modDie n f).parts = s.parts := rfl
@[simp] theorem modDie_vfs (s : State) (n : Nat) (f : Die → Die) : (s.modDie n f).vfs = s.vfs := rfl
@[simp] theorem modDie_pkg (s : State) (n : Nat) (f : Die → Die) : (s.modDie n f).pkg = s.pkg := rfl
@[simp] theorem modDie_ats (s : State) (n : Nat) (f : Die → Die) : (s.modDie n f).ats = s.ats := rfl
@[simp] theorem modDie_saves (s : State) (n : Nat) (f : Die → Die) : (s.modDie n f).saves = s.saves := rfl
@[simp] theorem modDie_saveNext (s : State) (n : Nat) (f : Die → Die) : (s.modDie n f).saveNext = s.saveNext := rfl
@[simp] theorem modDie_cle (s : State) (n : Nat) (f : Die → Die) : (s.modDie n f).cle = s.cle := rfl
@[simp] theorem modDie_cycle (s : State) (n : Nat) (f : Die → Die) : (s.modDie n f).cycle = s.cycle := rfl
@[simp] theorem modDie_ticks (s : State) (n : Nat) (f : Die → Die) : (s.modDie n f).ticks = s.ticks := rfl
@[simp] theorem modDie_fresh (s : State) (n : Nat) (f : Die → Die) : (s.modDie n f).fresh = s.fresh := rfl
@[simp] theorem modDie_redirects (s : State) (n : Nat) (f : Die → Die) : (s.modDie n f).redirects = s.redirects := rfl
@[simp] theorem modDie_strays (s : State) (n : Nat) (f : Die → Die) : (s.modDie n f).strays = s.strays := rfl
@[simp] theorem modDie_who (s : State) (n : Nat) (f : Die → Die) : (s.modDie n f).who = s.who := rfl
@[simp] theorem modDie_lock (s : State) (n : Nat) (f : Die → Die) : (s.modDie n f).lock = s.lock := rfl
@[simp] theorem modDie_cur (s : State) (n : Nat) (f : Die → Die) : (s.modDie n f).cur = s.cur := rfl
@[simp] theorem modDie_slow (s : State) (n : Nat) (f : Die → Die) : (s.modDie n f).slow = s.slow := rfl
@[simp] theorem modDie_par (s : State) (n : Nat) (f : Die → Die) : (s.modDie n f).par = s.par := rfl
@[simp] theorem modDie_rows (s : State) (n : Nat) (f : Die → Die) : (s.modDie n f).rows = s.rows := rfl
@[simp] theorem modDie_early (s : State) (n : Nat) (f : Die → Die) : (s.modDie n f).early = s.early := rfl
@[simp] theorem modDie_awaits (s : State) (n : Nat) (f : Die → Die) : (s.modDie n f).awaits = s.awaits := rfl
@[simp] theorem modDie_tape (s : State) (n : Nat) (f : Die → Die) : (s.modDie n f).tape = s.tape := rfl
@[simp] theorem modDie_stuck (s : State) (n : Nat) (f : Die → Die) : (s.modDie n f).stuck = s.stuck := rfl

@[simp] theorem modPart_mem (s : State) (n : Nat) (f : Part → Part) : (s.modPart n f).mem = s.mem := rfl
@[simp] theorem modPart_poison (s : State) (n : Nat) (f : Part → Part) : (s.modPart n f).poison = s.poison := rfl
@[simp] theorem modPart_buf (s : State) (n : Nat) (f : Part → Part) : (s.modPart n f).buf = s.buf := rfl
@[simp] theorem modPart_bpoison (s : State) (n : Nat) (f : Part → Part) : (s.modPart n f).bpoison = s.bpoison := rfl
@[simp] theorem modPart_platenPar (s : State) (n : Nat) (f : Part → Part) : (s.modPart n f).platenPar = s.platenPar := rfl
@[simp] theorem modPart_wbuf (s : State) (n : Nat) (f : Part → Part) : (s.modPart n f).wbuf = s.wbuf := rfl
@[simp] theorem modPart_bbuf (s : State) (n : Nat) (f : Part → Part) : (s.modPart n f).bbuf = s.bbuf := rfl
@[simp] theorem modPart_ctxs (s : State) (n : Nat) (f : Part → Part) : (s.modPart n f).ctxs = s.ctxs := rfl
@[simp] theorem modPart_cores (s : State) (n : Nat) (f : Part → Part) : (s.modPart n f).cores = s.cores := rfl
@[simp] theorem modPart_dies (s : State) (n : Nat) (f : Part → Part) : (s.modPart n f).dies = s.dies := rfl
@[simp] theorem modPart_vfs (s : State) (n : Nat) (f : Part → Part) : (s.modPart n f).vfs = s.vfs := rfl
@[simp] theorem modPart_pkg (s : State) (n : Nat) (f : Part → Part) : (s.modPart n f).pkg = s.pkg := rfl
@[simp] theorem modPart_ats (s : State) (n : Nat) (f : Part → Part) : (s.modPart n f).ats = s.ats := rfl
@[simp] theorem modPart_saves (s : State) (n : Nat) (f : Part → Part) : (s.modPart n f).saves = s.saves := rfl
@[simp] theorem modPart_saveNext (s : State) (n : Nat) (f : Part → Part) : (s.modPart n f).saveNext = s.saveNext := rfl
@[simp] theorem modPart_cle (s : State) (n : Nat) (f : Part → Part) : (s.modPart n f).cle = s.cle := rfl
@[simp] theorem modPart_cycle (s : State) (n : Nat) (f : Part → Part) : (s.modPart n f).cycle = s.cycle := rfl
@[simp] theorem modPart_ticks (s : State) (n : Nat) (f : Part → Part) : (s.modPart n f).ticks = s.ticks := rfl
@[simp] theorem modPart_fresh (s : State) (n : Nat) (f : Part → Part) : (s.modPart n f).fresh = s.fresh := rfl
@[simp] theorem modPart_redirects (s : State) (n : Nat) (f : Part → Part) : (s.modPart n f).redirects = s.redirects := rfl
@[simp] theorem modPart_strays (s : State) (n : Nat) (f : Part → Part) : (s.modPart n f).strays = s.strays := rfl
@[simp] theorem modPart_who (s : State) (n : Nat) (f : Part → Part) : (s.modPart n f).who = s.who := rfl
@[simp] theorem modPart_lock (s : State) (n : Nat) (f : Part → Part) : (s.modPart n f).lock = s.lock := rfl
@[simp] theorem modPart_cur (s : State) (n : Nat) (f : Part → Part) : (s.modPart n f).cur = s.cur := rfl
@[simp] theorem modPart_slow (s : State) (n : Nat) (f : Part → Part) : (s.modPart n f).slow = s.slow := rfl
@[simp] theorem modPart_par (s : State) (n : Nat) (f : Part → Part) : (s.modPart n f).par = s.par := rfl
@[simp] theorem modPart_rows (s : State) (n : Nat) (f : Part → Part) : (s.modPart n f).rows = s.rows := rfl
@[simp] theorem modPart_early (s : State) (n : Nat) (f : Part → Part) : (s.modPart n f).early = s.early := rfl
@[simp] theorem modPart_awaits (s : State) (n : Nat) (f : Part → Part) : (s.modPart n f).awaits = s.awaits := rfl
@[simp] theorem modPart_tape (s : State) (n : Nat) (f : Part → Part) : (s.modPart n f).tape = s.tape := rfl
@[simp] theorem modPart_stuck (s : State) (n : Nat) (f : Part → Part) : (s.modPart n f).stuck = s.stuck := rfl

@[simp] theorem modVf_mem (s : State) (n : Nat) (f : Vf → Vf) : (s.modVf n f).mem = s.mem := rfl
@[simp] theorem modVf_poison (s : State) (n : Nat) (f : Vf → Vf) : (s.modVf n f).poison = s.poison := rfl
@[simp] theorem modVf_buf (s : State) (n : Nat) (f : Vf → Vf) : (s.modVf n f).buf = s.buf := rfl
@[simp] theorem modVf_bpoison (s : State) (n : Nat) (f : Vf → Vf) : (s.modVf n f).bpoison = s.bpoison := rfl
@[simp] theorem modVf_platenPar (s : State) (n : Nat) (f : Vf → Vf) : (s.modVf n f).platenPar = s.platenPar := rfl
@[simp] theorem modVf_wbuf (s : State) (n : Nat) (f : Vf → Vf) : (s.modVf n f).wbuf = s.wbuf := rfl
@[simp] theorem modVf_bbuf (s : State) (n : Nat) (f : Vf → Vf) : (s.modVf n f).bbuf = s.bbuf := rfl
@[simp] theorem modVf_ctxs (s : State) (n : Nat) (f : Vf → Vf) : (s.modVf n f).ctxs = s.ctxs := rfl
@[simp] theorem modVf_cores (s : State) (n : Nat) (f : Vf → Vf) : (s.modVf n f).cores = s.cores := rfl
@[simp] theorem modVf_dies (s : State) (n : Nat) (f : Vf → Vf) : (s.modVf n f).dies = s.dies := rfl
@[simp] theorem modVf_parts (s : State) (n : Nat) (f : Vf → Vf) : (s.modVf n f).parts = s.parts := rfl
@[simp] theorem modVf_pkg (s : State) (n : Nat) (f : Vf → Vf) : (s.modVf n f).pkg = s.pkg := rfl
@[simp] theorem modVf_ats (s : State) (n : Nat) (f : Vf → Vf) : (s.modVf n f).ats = s.ats := rfl
@[simp] theorem modVf_saves (s : State) (n : Nat) (f : Vf → Vf) : (s.modVf n f).saves = s.saves := rfl
@[simp] theorem modVf_saveNext (s : State) (n : Nat) (f : Vf → Vf) : (s.modVf n f).saveNext = s.saveNext := rfl
@[simp] theorem modVf_cle (s : State) (n : Nat) (f : Vf → Vf) : (s.modVf n f).cle = s.cle := rfl
@[simp] theorem modVf_cycle (s : State) (n : Nat) (f : Vf → Vf) : (s.modVf n f).cycle = s.cycle := rfl
@[simp] theorem modVf_ticks (s : State) (n : Nat) (f : Vf → Vf) : (s.modVf n f).ticks = s.ticks := rfl
@[simp] theorem modVf_fresh (s : State) (n : Nat) (f : Vf → Vf) : (s.modVf n f).fresh = s.fresh := rfl
@[simp] theorem modVf_redirects (s : State) (n : Nat) (f : Vf → Vf) : (s.modVf n f).redirects = s.redirects := rfl
@[simp] theorem modVf_strays (s : State) (n : Nat) (f : Vf → Vf) : (s.modVf n f).strays = s.strays := rfl
@[simp] theorem modVf_who (s : State) (n : Nat) (f : Vf → Vf) : (s.modVf n f).who = s.who := rfl
@[simp] theorem modVf_lock (s : State) (n : Nat) (f : Vf → Vf) : (s.modVf n f).lock = s.lock := rfl
@[simp] theorem modVf_cur (s : State) (n : Nat) (f : Vf → Vf) : (s.modVf n f).cur = s.cur := rfl
@[simp] theorem modVf_slow (s : State) (n : Nat) (f : Vf → Vf) : (s.modVf n f).slow = s.slow := rfl
@[simp] theorem modVf_par (s : State) (n : Nat) (f : Vf → Vf) : (s.modVf n f).par = s.par := rfl
@[simp] theorem modVf_rows (s : State) (n : Nat) (f : Vf → Vf) : (s.modVf n f).rows = s.rows := rfl
@[simp] theorem modVf_early (s : State) (n : Nat) (f : Vf → Vf) : (s.modVf n f).early = s.early := rfl
@[simp] theorem modVf_awaits (s : State) (n : Nat) (f : Vf → Vf) : (s.modVf n f).awaits = s.awaits := rfl
@[simp] theorem modVf_tape (s : State) (n : Nat) (f : Vf → Vf) : (s.modVf n f).tape = s.tape := rfl
@[simp] theorem modVf_stuck (s : State) (n : Nat) (f : Vf → Vf) : (s.modVf n f).stuck = s.stuck := rfl

@[simp] theorem modPkg_mem (s : State) (f : Pkg → Pkg) : (s.modPkg f).mem = s.mem := rfl
@[simp] theorem modPkg_poison (s : State) (f : Pkg → Pkg) : (s.modPkg f).poison = s.poison := rfl
@[simp] theorem modPkg_buf (s : State) (f : Pkg → Pkg) : (s.modPkg f).buf = s.buf := rfl
@[simp] theorem modPkg_bpoison (s : State) (f : Pkg → Pkg) : (s.modPkg f).bpoison = s.bpoison := rfl
@[simp] theorem modPkg_platenPar (s : State) (f : Pkg → Pkg) : (s.modPkg f).platenPar = s.platenPar := rfl
@[simp] theorem modPkg_wbuf (s : State) (f : Pkg → Pkg) : (s.modPkg f).wbuf = s.wbuf := rfl
@[simp] theorem modPkg_bbuf (s : State) (f : Pkg → Pkg) : (s.modPkg f).bbuf = s.bbuf := rfl
@[simp] theorem modPkg_ctxs (s : State) (f : Pkg → Pkg) : (s.modPkg f).ctxs = s.ctxs := rfl
@[simp] theorem modPkg_cores (s : State) (f : Pkg → Pkg) : (s.modPkg f).cores = s.cores := rfl
@[simp] theorem modPkg_dies (s : State) (f : Pkg → Pkg) : (s.modPkg f).dies = s.dies := rfl
@[simp] theorem modPkg_parts (s : State) (f : Pkg → Pkg) : (s.modPkg f).parts = s.parts := rfl
@[simp] theorem modPkg_vfs (s : State) (f : Pkg → Pkg) : (s.modPkg f).vfs = s.vfs := rfl
@[simp] theorem modPkg_ats (s : State) (f : Pkg → Pkg) : (s.modPkg f).ats = s.ats := rfl
@[simp] theorem modPkg_saves (s : State) (f : Pkg → Pkg) : (s.modPkg f).saves = s.saves := rfl
@[simp] theorem modPkg_saveNext (s : State) (f : Pkg → Pkg) : (s.modPkg f).saveNext = s.saveNext := rfl
@[simp] theorem modPkg_cle (s : State) (f : Pkg → Pkg) : (s.modPkg f).cle = s.cle := rfl
@[simp] theorem modPkg_cycle (s : State) (f : Pkg → Pkg) : (s.modPkg f).cycle = s.cycle := rfl
@[simp] theorem modPkg_ticks (s : State) (f : Pkg → Pkg) : (s.modPkg f).ticks = s.ticks := rfl
@[simp] theorem modPkg_fresh (s : State) (f : Pkg → Pkg) : (s.modPkg f).fresh = s.fresh := rfl
@[simp] theorem modPkg_redirects (s : State) (f : Pkg → Pkg) : (s.modPkg f).redirects = s.redirects := rfl
@[simp] theorem modPkg_strays (s : State) (f : Pkg → Pkg) : (s.modPkg f).strays = s.strays := rfl
@[simp] theorem modPkg_who (s : State) (f : Pkg → Pkg) : (s.modPkg f).who = s.who := rfl
@[simp] theorem modPkg_lock (s : State) (f : Pkg → Pkg) : (s.modPkg f).lock = s.lock := rfl
@[simp] theorem modPkg_cur (s : State) (f : Pkg → Pkg) : (s.modPkg f).cur = s.cur := rfl
@[simp] theorem modPkg_slow (s : State) (f : Pkg → Pkg) : (s.modPkg f).slow = s.slow := rfl
@[simp] theorem modPkg_par (s : State) (f : Pkg → Pkg) : (s.modPkg f).par = s.par := rfl
@[simp] theorem modPkg_rows (s : State) (f : Pkg → Pkg) : (s.modPkg f).rows = s.rows := rfl
@[simp] theorem modPkg_early (s : State) (f : Pkg → Pkg) : (s.modPkg f).early = s.early := rfl
@[simp] theorem modPkg_awaits (s : State) (f : Pkg → Pkg) : (s.modPkg f).awaits = s.awaits := rfl
@[simp] theorem modPkg_tape (s : State) (f : Pkg → Pkg) : (s.modPkg f).tape = s.tape := rfl
@[simp] theorem modPkg_stuck (s : State) (f : Pkg → Pkg) : (s.modPkg f).stuck = s.stuck := rfl

end Sys2Proof.Machine
end

