-- ==== Sys2Proof/Laws/Memory.lean ====
section
/-!
SUPPORT. Laws of the byte memory: what a read gives after a write, and that every write keeps the canonical form.
-/
set_option Elab.async false
namespace Sys2Proof.Machine
open Sys2Proof

/-! ### The canonical form -/

/-- The canonical form seen from its first cell. -/
theorem Memory.wf_cons {c : Host.Cell} {m : Memory} :
    Memory.wf (c :: m) = true ↔ c.2 ≠ 0#8 ∧ (∀ d ∈ m.head?, c.1 < d.1) ∧ Memory.wf m = true := by
  cases m with
  | nil => simp [Memory.wf]
  | cons d r => simp [Memory.wf]; tauto

/-- A write puts no cell before both the first cell and the address written. -/
theorem Memory.head_write (m : Memory) (a : Nat) (b : BitVec 8) {k : Nat} (ha : k < a) (hm : ∀ d ∈ m.head?, k < d.1)
    (hw : m.wf = true) : ∀ d ∈ (m.write a b).head?, k < d.1 := by
  cases m with
  | nil => unfold Memory.write; split <;> simp [ha]
  | cons c r =>
    have hc : k < c.1 := hm c (by simp)
    unfold Memory.write
    split
    · split <;> simp [ha, hc]
    · split
      · split
        · intro d hd
          have := (Memory.wf_cons.1 hw).2.1 d hd
          omega
        · simp [ha]
      · simp [hc]

/-- A write keeps the canonical form. -/
theorem Memory.write_wf : ∀ (m : Memory) (a : Nat) (b : BitVec 8), m.wf = true → (m.write a b).wf = true
  | [], a, b, _ => by
    by_cases hb : b = 0#8
    · simp [Memory.write, hb, Memory.wf]
    · simp [Memory.write, hb, Memory.wf]
  | c :: r, a, b, h => by
    obtain ⟨h1, h2, h3⟩ := Memory.wf_cons.1 h
    unfold Memory.write
    split
    · rename_i hl
      split
      · exact h
      · rename_i hb
        exact Memory.wf_cons.2 ⟨hb, by simpa using hl, h⟩
    · split
      · rename_i he
        split
        · exact h3
        · rename_i hb
          exact Memory.wf_cons.2 ⟨hb, fun d hd => he ▸ h2 d hd, h3⟩
      · exact Memory.wf_cons.2 ⟨h1, Memory.head_write r a b (by omega) h2 h3, Memory.write_wf r a b h3⟩

/-- The writes of a step keep the canonical form. -/
theorem commit_wf (m : Memory) (w : List Host.Cell) (h : m.wf = true) : (commit m w).wf = true := by
  induction w with
  | nil => exact h
  | cons c w ih => exact Memory.write_wf _ _ _ ih

@[simp] theorem commit_nil (m : Memory) : commit m [] = m := rfl

/-! ### Reads after writes -/

/-- No address below the first cell is listed. -/
theorem Memory.read_below : ∀ (m : Memory) (a : Nat), m.wf = true → (∀ d ∈ m.head?, a < d.1) → m.read a = 0#8
  | [], _, _, _ => rfl
  | c :: r, a, h, hd => by
    have hc : a < c.1 := hd c (by simp)
    obtain ⟨-, h2, h3⟩ := Memory.wf_cons.1 h
    have hne : c.1 ≠ a := by omega
    simp only [Memory.read, getAt, hne, if_false]
    exact Memory.read_below r a h3 fun d hd => by have := h2 d hd; omega

/-- A byte written is the byte read there. -/
theorem Memory.read_write_same : ∀ (m : Memory) (a : Nat) (b : BitVec 8), m.wf = true → (m.write a b).read a = b
  | [], a, b, _ => by
    by_cases hb : b = 0#8 <;> simp [Memory.write, Memory.read, getAt, hb]
  | c :: r, a, b, h => by
    obtain ⟨-, h2, h3⟩ := Memory.wf_cons.1 h
    unfold Memory.write
    split
    · rename_i hl
      split
      · rename_i hb
        rw [hb]
        exact Memory.read_below _ _ h (by simpa using hl)
      · simp [Memory.read, getAt]
    · split
      · rename_i he
        split
        · rename_i hb
          rw [hb]
          exact Memory.read_below r a h3 fun d hd => he ▸ h2 d hd
        · simp [Memory.read, getAt]
      · rename_i hne
        have hne : c.1 ≠ a := by omega
        simpa [Memory.read, getAt, hne] using Memory.read_write_same r a b h3

/-- A write leaves every other byte. -/
theorem Memory.read_write_other {a k : Nat} (hk : k ≠ a) :
    ∀ (m : Memory) (b : BitVec 8), m.wf = true → (m.write a b).read k = m.read k
  | [], b, _ => by
    by_cases hb : b = 0#8 <;> simp [Memory.write, Memory.read, getAt, hb, Ne.symm hk]
  | c :: r, b, h => by
    obtain ⟨-, -, h3⟩ := Memory.wf_cons.1 h
    unfold Memory.write
    split
    · split <;> simp [Memory.read, getAt, Ne.symm hk]
    · split
      · rename_i he
        split <;> simp [Memory.read, getAt, ← he, Ne.symm hk]
      · by_cases hc : c.1 = k
        · simp [Memory.read, getAt, hc]
        · simpa [Memory.read, getAt, hc] using Memory.read_write_other hk r b h3

/-- The byte that a key holds once a step's writes have taken place: the newest one, or what memory held. -/
theorem read_commit (m : Memory) (w : List Host.Cell) (k : Nat) (h : m.wf = true) :
    (commit m w).read k = ((w.find? fun c => c.1 = k).map (·.2)).getD (m.read k) := by
  induction w with
  | nil => rfl
  | cons c w ih =>
    have hw := commit_wf m w h
    by_cases hc : c.1 = k
    · subst hc
      simpa [commit, List.find?] using Memory.read_write_same _ c.1 c.2 hw
    · simpa [commit, List.find?, hc] using (Memory.read_write_other (Ne.symm hc) _ c.2 hw).trans ih

/-- The keys that `cellsOf` writes. -/
theorem mem_cellsOf {a v : Nat} {c : Host.Cell} : ∀ {n : Nat}, c ∈ cellsOf a n v → a ≤ c.1 ∧ c.1 < a + n
  | 0, h => by simp [cellsOf] at h
  | n + 1, h => by
    rcases List.mem_cons.1 h with h | h
    · subst h; simp
    · have := mem_cellsOf h; omega

/-- The bytes that `cellsOf` writes. -/
theorem find_cellsOf (a v : Nat) {k : Nat} : ∀ {n : Nat}, k < n →
    (cellsOf a n v).find? (fun c => c.1 = a + k) = some (a + k, BitVec.ofNat 8 (v / 2 ^ (8 * k)))
  | 0, h => by omega
  | n + 1, h => by
    by_cases hk : k = n
    · subst hk; simp [cellsOf]
    · have : ¬ n = k := fun e => hk e.symm
      simpa [cellsOf, List.find?, this] using find_cellsOf a v (show k < n by omega)

end Sys2Proof.Machine
end

