-- ==== Sys2Proof/Laws/Ops.lean ====
section
/-!
SUPPORT. What the shared operations can do, said once: the end of a step (`run`), the monad of word parts (`Op`), the end of a unit,
taking a trap, and the pieces that name no field of memory.
-/
set_option Elab.async false
namespace Sys2Proof.Machine
open Sys2Proof

/-! ### The end of a step -/

@[simp] theorem settle_mem (s t : State) : (settle s t).mem = commit s.mem t.wbuf := rfl
@[simp] theorem settle_buf (s t : State) : (settle s t).buf = commit s.buf t.bbuf := rfl
@[simp] theorem settle_wbuf (s t : State) : (settle s t).wbuf = [] := rfl
@[simp] theorem settle_bbuf (s t : State) : (settle s t).bbuf = [] := rfl
@[simp] theorem settle_stuck (s t : State) : (settle s t).stuck = t.stuck := rfl
@[simp] theorem settle_ctx (s t : State) (k : Nat) : (settle s t).ctx k = t.ctx k := rfl
@[simp] theorem settle_core (s t : State) (k : Nat) : (settle s t).core k = t.core k := rfl
@[simp] theorem settle_die (s t : State) (k : Nat) : (settle s t).die k = t.die k := rfl
@[simp] theorem settle_pkg (s t : State) : (settle s t).pkg = t.pkg := rfl

/-- A step goes on exactly when nothing stopped it, and then ends with its writes made. -/
theorem run_eq_next {f : State → State} {s t : State} :
    run f s = .next t ↔ (f s).stuck = none ∧ t = settle s (f s) := by
  unfold run
  cases h : (f s).stuck <;> simp [eq_comm]

/-- A step goes on when nothing stopped it. -/
theorem run_next {f : State → State} {s : State} (h : (f s).stuck = none) : run f s = .next (settle s (f s)) :=
  run_eq_next.2 ⟨h, rfl⟩

/-- A step that writes no memory and no buffer ends as it stands. -/
theorem settle_self {s t : State} (hm : t.mem = s.mem) (hb : t.buf = s.buf) (hw : t.wbuf = []) (hv : t.bbuf = []) :
    settle s t = t := by
  cases t
  simp_all [settle]

/-- Every step keeps memory and buffers in canonical form, and leaves no write pending. -/
theorem run_wf {f : State → State} {s t : State} (h : run f s = .next t) (hs : s.Wf = true) : t.Wf = true := by
  obtain ⟨hn, rfl⟩ := run_eq_next.1 h
  simp only [State.Wf, Bool.and_eq_true] at hs
  obtain ⟨⟨⟨⟨hm, hb⟩, -⟩, -⟩, -⟩ := hs
  simp [State.Wf, hn, commit_wf _ _ hm, commit_wf _ _ hb]

/-- A step never ends in a refusal. -/
theorem run_not_refused (f : State → State) (s : State) (r : Refusal) : run f s ≠ .refused r := by
  unfold run
  split <;> simp

/-! ### The parts of words -/

@[simp] theorem runOp_pure {α : Type} (a : α) (s : State) : runOp (pure a) s = (.ok a, s) := rfl
@[simp] theorem runOp_throw {α : Type} (x : Stop) (s : State) : runOp (throw x : Op α) s = (.error x, s) := rfl
@[simp] theorem runOp_getS (s : State) : runOp getS s = (.ok s, s) := rfl
@[simp] theorem runOp_upd (f : State → State) (s : State) : runOp (upd f) s = (.ok (), f s) := rfl
@[simp] theorem runOp_trapWith {α : Type} (c : Cause) (s : State) :
    runOp (trapWith c : Op α) s = (.error (.trap c 0 0 0 0), s) := rfl
@[simp] theorem runOp_trapAt {α : Type} (c : Cause) (a : Nat) (s : State) :
    runOp (trapAt c a : Op α) s = (.error (.trap c 0 a 0 0), s) := rfl
@[simp] theorem runOp_waitFor {α : Type} (w : Wait) (s : State) : runOp (waitFor w : Op α) s = (.error (.wait w), s) := rfl

theorem runOp_bind {α β : Type} (o : Op α) (f : α → Op β) (s : State) :
    runOp (o >>= f) s = match runOp o s with
      | (.ok a, t) => runOp (f a) t
      | (.error x, t) => (.error x, t) := by
  simp only [runOp, ExceptT.run, bind, ExceptT.bind, ExceptT.mk, StateT.bind, StateT.run, ExceptT.bindCont]
  rcases h : o s with ⟨x, t⟩
  cases x <;> rfl

/-- The part after one that succeeded. -/
theorem runOp_bind_ok {α β : Type} {o : Op α} {f : α → Op β} {s t : State} {a : α} (h : runOp o s = (.ok a, t)) :
    runOp (o >>= f) s = runOp (f a) t := by
  rw [runOp_bind, h]

/-- Nothing runs after a part that stopped. -/
theorem runOp_bind_error {α β : Type} {o : Op α} {f : α → Op β} {s t : State} {x : Stop} (h : runOp o s = (.error x, t)) :
    runOp (o >>= f) s = (.error x, t) := by
  rw [runOp_bind, h]

theorem runOp_failIf (b : Bool) (c : Cause) (s : State) :
    runOp (failIf b c) s = if b then (.error (.trap c 0 0 0 0), s) else (.ok (), s) := by
  cases b <;> rfl

/-- A check that holds. -/
theorem runOp_failIf_ok {b : Bool} (h : b = false) (c : Cause) (s : State) : runOp (failIf b c) s = (.ok (), s) := by
  subst h; rfl

/-! ### Units -/

/-- A unit whose prefixes fit and whose parts succeed goes on where it answers. -/
theorem unitStep_ok {u : StreamId} {imm : Bool} {ord : Nat} {o : Op Nat} {s t : State} {pc : Nat}
    (hf : (s.c.stream u).unfit imm ord = false) (ho : runOp o s = (.ok pc, t)) : unitStep u imm ord o s = endUnit s.ck u pc t := by
  simp [unitStep, hf, ho]

/-- A unit that stops leaves by its stop. -/
theorem unitStep_error {u : StreamId} {imm : Bool} {ord : Nat} {o : Op Nat} {s t : State} {x : Stop}
    (hf : (s.c.stream u).unfit imm ord = false) (ho : runOp o s = (.error x, t)) : unitStep u imm ord o s = stopWord s.ck u x t := by
  simp [unitStep, hf, ho]

/-- A unit whose prefixes do not fit traps with ILL_PFX (R105). -/
theorem unitStep_unfit {u : StreamId} {imm : Bool} {ord : Nat} {s : State} (o : Op Nat)
    (hf : (s.c.stream u).unfit imm ord = true) : unitStep u imm ord o s = takeTrap s.ck u .illPfx 0 0 0 0 true s := by
  simp [unitStep, hf]

/-- A unit that goes on at the next address. -/
theorem unitNext_ok {u : StreamId} {imm : Bool} {ord : Nat} {o : Op Unit} {s t : State}
    (hf : (s.c.stream u).unfit imm ord = false) (ho : runOp o s = (.ok (), t)) :
    unitNext u imm ord o s = endUnit s.ck u (s.c.stream u).next t :=
  unitStep_ok hf (by rw [runOp_bind_ok ho]; rfl)

theorem unitNext_error {u : StreamId} {imm : Bool} {ord : Nat} {o : Op Unit} {s t : State} {x : Stop}
    (hf : (s.c.stream u).unfit imm ord = false) (ho : runOp o s = (.error x, t)) :
    unitNext u imm ord o s = stopWord s.ck u x t :=
  unitStep_error hf (runOp_bind_error ho)

theorem unitNext_unfit {u : StreamId} {imm : Bool} {ord : Nat} {s : State} (o : Op Unit)
    (hf : (s.c.stream u).unfit imm ord = true) : unitNext u imm ord o s = takeTrap s.ck u .illPfx 0 0 0 0 true s :=
  unitStep_unfit _ hf

/-! ### The end of a unit (R104, R105) -/

@[simp] theorem endUnit_mem (ck : Nat) (u : StreamId) (pc : Nat) (s : State) : (endUnit ck u pc s).mem = s.mem := rfl
@[simp] theorem endUnit_buf (ck : Nat) (u : StreamId) (pc : Nat) (s : State) : (endUnit ck u pc s).buf = s.buf := rfl
@[simp] theorem endUnit_wbuf (ck : Nat) (u : StreamId) (pc : Nat) (s : State) : (endUnit ck u pc s).wbuf = s.wbuf := rfl
@[simp] theorem endUnit_bbuf (ck : Nat) (u : StreamId) (pc : Nat) (s : State) : (endUnit ck u pc s).bbuf = s.bbuf := rfl
@[simp] theorem endUnit_stuck (ck : Nat) (u : StreamId) (pc : Nat) (s : State) : (endUnit ck u pc s).stuck = s.stuck := rfl
@[simp] theorem endUnit_lock (ck : Nat) (u : StreamId) (pc : Nat) (s : State) : (endUnit ck u pc s).lock = none := rfl
@[simp] theorem endUnit_who (ck : Nat) (u : StreamId) (pc : Nat) (s : State) : (endUnit ck u pc s).who = s.who := rfl

theorem endUnit_stream (ck : Nat) (u : StreamId) (pc : Nat) (s : State) :
    ((endUnit ck u pc s).ctx ck).stream u = { ((s.ctx ck).stream u).noPfx with
      pc := pc, wait := if u = .sq ∧ (s.ctx ck).r.pend.isSome then some .resp else none } := by
  show ((s.modStream ck u _).ctx ck).stream u = _
  rw [ctx_modStream, regs_stream_modStream]

/-- Every other register of the context stays. -/
theorem endUnit_regs (ck : Nat) (u : StreamId) (pc : Nat) (s : State) :
    ((endUnit ck u pc s).ctx ck).r = { (s.ctx ck).r with streams := ((endUnit ck u pc s).ctx ck).r.streams } := by
  show ((s.modStream ck u _).ctx ck).r = _
  simp [endUnit, Regs.modStream, State.modStream, State.modRegs, State.modCtx, State.setCtx, State.ctx, getAt_setAt_same]

/-! ### Writes of an SQ register (R106) -/

@[simp] theorem sPut_mem (ck n : Nat) (v : BitVec 64) (s : State) : (sPut ck n v s).mem = s.mem := by unfold sPut; split <;> rfl
@[simp] theorem sPut_buf (ck n : Nat) (v : BitVec 64) (s : State) : (sPut ck n v s).buf = s.buf := by unfold sPut; split <;> rfl
@[simp] theorem sPut_wbuf (ck n : Nat) (v : BitVec 64) (s : State) : (sPut ck n v s).wbuf = s.wbuf := by unfold sPut; split <;> rfl
@[simp] theorem sPut_bbuf (ck n : Nat) (v : BitVec 64) (s : State) : (sPut ck n v s).bbuf = s.bbuf := by unfold sPut; split <;> rfl
@[simp] theorem sPut_stuck (ck n : Nat) (v : BitVec 64) (s : State) : (sPut ck n v s).stuck = s.stuck := by
  unfold sPut; split <;> rfl
@[simp] theorem sPut_who (ck n : Nat) (v : BitVec 64) (s : State) : (sPut ck n v s).who = s.who := by unfold sPut; split <;> rfl

/-- What s[n] reads after a write of it. -/
theorem sGet_sSet_same (n : Nat) (v : BitVec 64) (s : State) (h : n < 32) : sGet (sSet n v s) n = if n = 0 then 0 else v := by
  unfold sGet
  split
  · rfl
  · rename_i hn
    simp [sSet, sPut, hn, State.c, State.ck, vget_vset_same _ _ h]

/-- A write of s[n] leaves every other register. -/
theorem sGet_sSet_other {n k : Nat} (hk : k ≠ n) (v : BitVec 64) (s : State) : sGet (sSet n v s) k = sGet s k := by
  unfold sGet
  split
  · rfl
  · unfold sSet sPut
    split
    · rfl
    · simp [State.c, State.ck, vget_vset_other _ _ hk]

/-- A word that writes one register of SQ, and no trap: the state it ends in. -/
theorem run_sqWrite {imm : Bool} {sd : Nat} {f : State → BitVec 64} {s : State}
    (hf : (s.c.stream .sq).unfit imm 0 = false) (hw : s.wbuf = []) (hb : s.bbuf = []) (hs : s.stuck = none) :
    run (sqWrite imm sd f) s = .next (endUnit s.ck .sq (s.c.stream .sq).next (sSet sd (f s) s)) := by
  have h : sqWrite imm sd f s = endUnit s.ck .sq (s.c.stream .sq).next (sSet sd (f s) s) := unitNext_ok hf (runOp_upd _ _)
  rw [run_next (by rw [h]; simp [sSet, hs]), h, settle_self] <;> simp [sSet, hw, hb]

end Sys2Proof.Machine
end

