-- ==== Sys2Proof/Laws/PerInstr.lean ====
section
/-!
SUPPORT. One statement about every instruction, and its lemma for each constructor: the word of a well-formed instruction is read
back with every operand by its stream's decoder; an event has no word.
-/
set_option Elab.async false
namespace Sys2Proof.Laws.RoundTrip
open Sys2Proof

/-- The word of a well-formed instruction decodes to it. -/
def Statement (i : Instr) : Prop :=
  ∀ u, i.WellFormed → streamOf i = some u → ∃ w, encode i = some w ∧ w < 2 ^ 32 ∧ decode u w = .ok i

/-- A word whose opcode field is neither that of 0 nor that of all ones is neither. -/
theorem not_void {x d n v : Nat} (h : x / d % n = v) (h0 : 0 / d % n ≠ v) (h1 : 0xFFFFFFFF / d % n ≠ v) : ¬ (x = 0 ∨ x = 0xFFFFFFFF) := by
  rintro (rfl | rfl)
  · exact h0 h
  · exact h1 h

theorem decodeMe28_top {x : Nat} (e1 : x / 67108864 % 64 = 40) : decodeMe x = decodeMe28 x := by
  rw [decodeMe, if_neg (not_void e1 (by decide) (by decide))]; simp only [e1]

theorem decodeMe29_top {x : Nat} (e1 : x / 67108864 % 64 = 41) : decodeMe x = decodeMe29 x := by
  rw [decodeMe, if_neg (not_void e1 (by decide) (by decide))]; simp only [e1]

theorem decodeMe2B_top {x : Nat} (e1 : x / 67108864 % 64 = 43) : decodeMe x = decodeMe2B x := by
  rw [decodeMe, if_neg (not_void e1 (by decide) (by decide))]; simp only [e1]

theorem decodeSq01_top {x : Nat} (e1 : x / 67108864 % 64 = 1) : decodeSq x = decodeSq01 x := by
  rw [decodeSq, if_neg (not_void e1 (by decide) (by decide))]; simp only [e1]

theorem decodeSq02_top {x : Nat} (e1 : x / 67108864 % 64 = 2) : decodeSq x = decodeSq02 x := by
  rw [decodeSq, if_neg (not_void e1 (by decide) (by decide))]; simp only [e1]

theorem decodeSq09_top {x : Nat} (e1 : x / 67108864 % 64 = 9) : decodeSq x = decodeSq09 x := by
  rw [decodeSq, if_neg (not_void e1 (by decide) (by decide))]; simp only [e1]

theorem decodeSq18_top {x : Nat} (e1 : x / 67108864 % 64 = 24) : decodeSq x = decodeSq18 x := by
  rw [decodeSq, if_neg (not_void e1 (by decide) (by decide))]; simp only [e1]

theorem decodeSq1C_top {x : Nat} (e1 : x / 67108864 % 64 = 28) : decodeSq x = decodeSq1C x := by
  rw [decodeSq, if_neg (not_void e1 (by decide) (by decide))]; simp only [e1]

theorem decodeSq1D_top {x : Nat} (e1 : x / 67108864 % 64 = 29) : decodeSq x = decodeSq1D x := by
  rw [decodeSq, if_neg (not_void e1 (by decide) (by decide))]; simp only [e1]

theorem decodeSq1E_top {x : Nat} (e1 : x / 67108864 % 64 = 30) : decodeSq x = decodeSq1E x := by
  rw [decodeSq, if_neg (not_void e1 (by decide) (by decide))]; simp only [e1]

theorem decodeSq1F_top {x : Nat} (e1 : x / 67108864 % 64 = 31) : decodeSq x = decodeSq1F x := by
  rw [decodeSq, if_neg (not_void e1 (by decide) (by decide))]; simp only [e1]

theorem decodeSq26_top {x : Nat} (e1 : x / 67108864 % 64 = 38) : decodeSq x = decodeSq26 x := by
  rw [decodeSq, if_neg (not_void e1 (by decide) (by decide))]; simp only [e1]

theorem decodeSq28_top {x : Nat} (e1 : x / 67108864 % 64 = 40) : decodeSq x = decodeSq28 x := by
  rw [decodeSq, if_neg (not_void e1 (by decide) (by decide))]; simp only [e1]

theorem decodeSq29_top {x : Nat} (e1 : x / 67108864 % 64 = 41) : decodeSq x = decodeSq29 x := by
  rw [decodeSq, if_neg (not_void e1 (by decide) (by decide))]; simp only [e1]

theorem decodeSq2C_top {x : Nat} (e1 : x / 67108864 % 64 = 44) : decodeSq x = decodeSq2C x := by
  rw [decodeSq, if_neg (not_void e1 (by decide) (by decide))]; simp only [e1]

theorem decodeSq2D_top {x : Nat} (e1 : x / 67108864 % 64 = 45) : decodeSq x = decodeSq2D x := by
  rw [decodeSq, if_neg (not_void e1 (by decide) (by decide))]; simp only [e1]

theorem decodeSq30_top {x : Nat} (e1 : x / 67108864 % 64 = 48) : decodeSq x = decodeSq30 x := by
  rw [decodeSq, if_neg (not_void e1 (by decide) (by decide))]; simp only [e1]

theorem decodeSq34_top {x : Nat} (e1 : x / 67108864 % 64 = 52) : decodeSq x = decodeSq34 x := by
  rw [decodeSq, if_neg (not_void e1 (by decide) (by decide))]; simp only [e1]

theorem decodeSq3E_top {x : Nat} (e1 : x / 67108864 % 64 = 62) : decodeSq x = decodeSq3E x := by
  rw [decodeSq, if_neg (not_void e1 (by decide) (by decide))]; simp only [e1]

theorem decodeVe12_top {x : Nat} (e1 : x / 33554432 % 64 = 18) : decodeVe x = decodeVe12 x := by
  rw [decodeVe, if_neg (not_void e1 (by decide) (by decide))]; simp only [e1]

theorem decodeVe13_top {x : Nat} (e1 : x / 33554432 % 64 = 19) : decodeVe x = decodeVe13 x := by
  rw [decodeVe, if_neg (not_void e1 (by decide) (by decide))]; simp only [e1]

theorem decodeVe14_top {x : Nat} (e1 : x / 33554432 % 64 = 20) : decodeVe x = decodeVe14 x := by
  rw [decodeVe, if_neg (not_void e1 (by decide) (by decide))]; simp only [e1]

theorem decodeVe20_top {x : Nat} (e1 : x / 33554432 % 64 = 32) : decodeVe x = decodeVe20 x := by
  rw [decodeVe, if_neg (not_void e1 (by decide) (by decide))]; simp only [e1]

theorem decodeVe22_top {x : Nat} (e1 : x / 33554432 % 64 = 34) : decodeVe x = decodeVe22 x := by
  rw [decodeVe, if_neg (not_void e1 (by decide) (by decide))]; simp only [e1]

theorem decodeVe26_top {x : Nat} (e1 : x / 33554432 % 64 = 38) : decodeVe x = decodeVe26 x := by
  rw [decodeVe, if_neg (not_void e1 (by decide) (by decide))]; simp only [e1]

theorem decodeVe34_top {x : Nat} (e1 : x / 33554432 % 64 = 52) : decodeVe x = decodeVe34 x := by
  rw [decodeVe, if_neg (not_void e1 (by decide) (by decide))]; simp only [e1]

theorem decodeVe35_top {x : Nat} (e1 : x / 33554432 % 64 = 53) : decodeVe x = decodeVe35 x := by
  rw [decodeVe, if_neg (not_void e1 (by decide) (by decide))]; simp only [e1]

theorem decodeVe37_top {x : Nat} (e1 : x / 33554432 % 64 = 55) : decodeVe x = decodeVe37 x := by
  rw [decodeVe, if_neg (not_void e1 (by decide) (by decide))]; simp only [e1]

theorem decodeVe39_top {x : Nat} (e1 : x / 33554432 % 64 = 57) : decodeVe x = decodeVe39 x := by
  rw [decodeVe, if_neg (not_void e1 (by decide) (by decide))]; simp only [e1]

theorem decodeVe3A_top {x : Nat} (e1 : x / 33554432 % 64 = 58) : decodeVe x = decodeVe3A x := by
  rw [decodeVe, if_neg (not_void e1 (by decide) (by decide))]; simp only [e1]

theorem decodeVe3B_top {x : Nat} (e1 : x / 33554432 % 64 = 59) : decodeVe x = decodeVe3B x := by
  rw [decodeVe, if_neg (not_void e1 (by decide) (by decide))]; simp only [e1]

theorem decodeVe3C_top {x : Nat} (e1 : x / 33554432 % 64 = 60) : decodeVe x = decodeVe3C x := by
  rw [decodeVe, if_neg (not_void e1 (by decide) (by decide))]; simp only [e1]

theorem decodeVe3D_top {x : Nat} (e1 : x / 33554432 % 64 = 61) : decodeVe x = decodeVe3D x := by
  rw [decodeVe, if_neg (not_void e1 (by decide) (by decide))]; simp only [e1]

theorem decodeXf05_top {x : Nat} (e1 : x / 67108864 % 64 = 5) : decodeXf x = decodeXf05 x := by
  rw [decodeXf, if_neg (not_void e1 (by decide) (by decide))]; simp only [e1]

theorem decodeXf06_top {x : Nat} (e1 : x / 67108864 % 64 = 6) : decodeXf x = decodeXf06 x := by
  rw [decodeXf, if_neg (not_void e1 (by decide) (by decide))]; simp only [e1]

theorem decodeXf07_top {x : Nat} (e1 : x / 67108864 % 64 = 7) : decodeXf x = decodeXf07 x := by
  rw [decodeXf, if_neg (not_void e1 (by decide) (by decide))]; simp only [e1]

theorem decodeXf30_top {x : Nat} (e1 : x / 67108864 % 64 = 48) : decodeXf x = decodeXf30 x := by
  rw [decodeXf, if_neg (not_void e1 (by decide) (by decide))]; simp only [e1]

theorem decodeXf31_top {x : Nat} (e1 : x / 67108864 % 64 = 49) : decodeXf x = decodeXf31 x := by
  rw [decodeXf, if_neg (not_void e1 (by decide) (by decide))]; simp only [e1]

theorem decodeXf32_top {x : Nat} (e1 : x / 67108864 % 64 = 50) : decodeXf x = decodeXf32 x := by
  rw [decodeXf, if_neg (not_void e1 (by decide) (by decide))]; simp only [e1]

theorem decodeXf34_top {x : Nat} (e1 : x / 67108864 % 64 = 52) : decodeXf x = decodeXf34 x := by
  rw [decodeXf, if_neg (not_void e1 (by decide) (by decide))]; simp only [e1]

theorem decodeXf35_top {x : Nat} (e1 : x / 67108864 % 64 = 53) : decodeXf x = decodeXf35 x := by
  rw [decodeXf, if_neg (not_void e1 (by decide) (by decide))]; simp only [e1]

theorem decodeXf36_top {x : Nat} (e1 : x / 67108864 % 64 = 54) : decodeXf x = decodeXf36 x := by
  rw [decodeXf, if_neg (not_void e1 (by decide) (by decide))]; simp only [e1]

theorem fmt0 (h m a0 a1 a2 : Nat) (hh : h < 64) (hm : m < 32) (hi : a0 < 32 ∧ a1 < 32 ∧ a2 < 32) (x : Nat) (hx : h * 67108864 + m * 64 + a0 * 2097152 + a1 * 65536 + a2 * 2048 = x) :
    h * 67108864 + m * 64 + a0 * 2097152 + a1 * 65536 + a2 * 2048 < 2 ^ 32 ∧ x / 67108864 % 64 = h ∧ x / 64 % 32 = m ∧ x % 64 = 0 ∧ x / 2097152 % 32 = a0 ∧ x / 65536 % 32 = a1 ∧ x / 2048 % 32 = a2 :=
  ⟨by omega, by omega, by omega, by omega, by omega, by omega, by omega⟩

theorem fmt1 (h m a0 a1 : Nat) (hh : h < 64) (hm : m < 32) (hi : a0 < 32 ∧ a1 < 32) (x : Nat) (hx : h * 67108864 + m * 64 + a0 * 2097152 + a1 * 65536 = x) :
    h * 67108864 + m * 64 + a0 * 2097152 + a1 * 65536 < 2 ^ 32 ∧ x / 67108864 % 64 = h ∧ x / 64 % 32 = m ∧ (x / 2048 % 32 = 0 ∧ x % 64 = 0) ∧ x / 2097152 % 32 = a0 ∧ x / 65536 % 32 = a1 :=
  ⟨by omega, by omega, by omega, by omega, by omega, by omega⟩

theorem fmt2 (h a0 a1 a2 : Nat) (hh : h < 64) (hi : a0 < 32 ∧ a1 < 32 ∧ a2 < 65536) (x : Nat) (hx : h * 67108864 + a0 * 2097152 + a1 * 65536 + a2 = x) :
    h * 67108864 + a0 * 2097152 + a1 * 65536 + a2 < 2 ^ 32 ∧ x / 67108864 % 64 = h ∧ x / 2097152 % 32 = a0 ∧ x / 65536 % 32 = a1 ∧ x % 65536 = a2 :=
  ⟨by omega, by omega, by omega, by omega, by omega⟩

theorem fmt3 (h m a0 a1 a2 : Nat) (hh : h < 64) (hm : m < 4) (hi : a0 < 32 ∧ a1 < 32 ∧ a2 < 64) (x : Nat) (hx : h * 67108864 + m * 16384 + a0 * 2097152 + a1 * 65536 + a2 = x) :
    h * 67108864 + m * 16384 + a0 * 2097152 + a1 * 65536 + a2 < 2 ^ 32 ∧ x / 67108864 % 64 = h ∧ x / 16384 % 4 = m ∧ x / 64 % 256 = 0 ∧ x / 2097152 % 32 = a0 ∧ x / 65536 % 32 = a1 ∧ x % 64 = a2 :=
  ⟨by omega, by omega, by omega, by omega, by omega, by omega, by omega⟩

theorem fmt4 (h a0 a1 : Nat) (hh : h < 64) (hi : a0 < 32 ∧ a1 < 65536) (x : Nat) (hx : h * 67108864 + a0 * 2097152 + a1 = x) :
    h * 67108864 + a0 * 2097152 + a1 < 2 ^ 32 ∧ x / 67108864 % 64 = h ∧ x / 65536 % 32 = 0 ∧ x / 2097152 % 32 = a0 ∧ x % 65536 = a1 :=
  ⟨by omega, by omega, by omega, by omega, by omega⟩

theorem fmt5 (h a0 a1 a2 a3 : Nat) (hh : h < 64) (hi : a0 < 32 ∧ a1 < 32 ∧ a2 < 8 ∧ a3 < 8192) (x : Nat) (hx : h * 67108864 + a0 * 2097152 + a1 * 65536 + a2 * 8192 + a3 = x) :
    h * 67108864 + a0 * 2097152 + a1 * 65536 + a2 * 8192 + a3 < 2 ^ 32 ∧ x / 67108864 % 64 = h ∧ x / 2097152 % 32 = a0 ∧ x / 65536 % 32 = a1 ∧ x / 8192 % 8 = a2 ∧ x % 8192 = a3 :=
  ⟨by omega, by omega, by omega, by omega, by omega, by omega⟩

theorem fmt6 (h a0 a1 a2 a3 : Nat) (hh : h < 64) (hi : a0 < 32 ∧ a1 < 32 ∧ a2 < 4 ∧ a3 < 8192) (x : Nat) (hx : h * 67108864 + a0 * 2097152 + a1 * 65536 + a2 * 8192 + a3 = x) :
    h * 67108864 + a0 * 2097152 + a1 * 65536 + a2 * 8192 + a3 < 2 ^ 32 ∧ x / 67108864 % 64 = h ∧ x / 32768 % 2 = 0 ∧ x / 2097152 % 32 = a0 ∧ x / 65536 % 32 = a1 ∧ x / 8192 % 4 = a2 ∧ x % 8192 = a3 :=
  ⟨by omega, by omega, by omega, by omega, by omega, by omega, by omega⟩

theorem fmt7 (h a0 a1 a2 a3 : Nat) (hh : h < 64) (hi : a0 < 32 ∧ a1 < 32 ∧ a2 < 32 ∧ a3 < 8) (x : Nat) (hx : h * 67108864 + a0 * 2097152 + a1 * 65536 + a2 * 2048 + a3 * 256 = x) :
    h * 67108864 + a0 * 2097152 + a1 * 65536 + a2 * 2048 + a3 * 256 < 2 ^ 32 ∧ x / 67108864 % 64 = h ∧ x % 256 = 0 ∧ x / 2097152 % 32 = a0 ∧ x / 65536 % 32 = a1 ∧ x / 2048 % 32 = a2 ∧ x / 256 % 8 = a3 :=
  ⟨by omega, by omega, by omega, by omega, by omega, by omega, by omega⟩

theorem fmt8 (h a0 a1 a2 a3 : Nat) (hh : h < 64) (hi : a0 < 32 ∧ a1 < 32 ∧ a2 < 32 ∧ a3 < 4) (x : Nat) (hx : h * 67108864 + a0 * 2097152 + a1 * 65536 + a2 * 2048 + a3 * 256 = x) :
    h * 67108864 + a0 * 2097152 + a1 * 65536 + a2 * 2048 + a3 * 256 < 2 ^ 32 ∧ x / 67108864 % 64 = h ∧ (x / 1024 % 2 = 0 ∧ x % 256 = 0) ∧ x / 2097152 % 32 = a0 ∧ x / 65536 % 32 = a1 ∧ x / 2048 % 32 = a2 ∧ x / 256 % 4 = a3 :=
  ⟨by omega, by omega, by omega, by omega, by omega, by omega, by omega⟩

theorem fmt9 (h m a0 a1 a2 a3 a4 a5 : Nat) (hh : h < 64) (hm : m < 16) (hi : a0 < 32 ∧ a1 < 32 ∧ a2 < 32 ∧ a3 < 2 ∧ a4 < 4 ∧ a5 < 8 ∧ a5 ≤ 4) (x : Nat) (hx : h * 67108864 + m * 128 + a0 * 2097152 + a1 * 65536 + a2 * 2048 + a3 * 64 + a4 * 16 + a5 * 2 = x) :
    h * 67108864 + m * 128 + a0 * 2097152 + a1 * 65536 + a2 * 2048 + a3 * 64 + a4 * 16 + a5 * 2 < 2 ^ 32 ∧ x / 67108864 % 64 = h ∧ x / 128 % 16 = m ∧ (x % 2 = 0 ∧ (x / 2 % 8) ≤ 4) ∧ x / 2097152 % 32 = a0 ∧ x / 65536 % 32 = a1 ∧ x / 2048 % 32 = a2 ∧ x / 64 % 2 = a3 ∧ x / 16 % 4 = a4 ∧ x / 2 % 8 = a5 :=
  ⟨by omega, by omega, by omega, by omega, by omega, by omega, by omega, by omega, by omega, by omega⟩

theorem fmt10 (h a0 a1 a2 a3 a4 a5 : Nat) (hh : h < 64) (hi : a0 < 32 ∧ a1 < 32 ∧ a2 < 32 ∧ a3 < 2 ∧ a4 < 4 ∧ a5 < 8 ∧ a5 ≤ 4) (x : Nat) (hx : h * 67108864 + a0 * 2097152 + a1 * 65536 + a2 * 2048 + a3 * 64 + a4 * 16 + a5 * 2 = x) :
    h * 67108864 + a0 * 2097152 + a1 * 65536 + a2 * 2048 + a3 * 64 + a4 * 16 + a5 * 2 < 2 ^ 32 ∧ x / 67108864 % 64 = h ∧ (x / 128 % 16 = 0 ∧ x % 2 = 0 ∧ (x / 2 % 8) ≤ 4) ∧ x / 2097152 % 32 = a0 ∧ x / 65536 % 32 = a1 ∧ x / 2048 % 32 = a2 ∧ x / 64 % 2 = a3 ∧ x / 16 % 4 = a4 ∧ x / 2 % 8 = a5 :=
  ⟨by omega, by omega, by omega, by omega, by omega, by omega, by omega, by omega, by omega⟩

theorem fmt11 (h m a0 : Nat) (hh : h < 64) (hm : m < 4) (hi : a0 < 65536) (x : Nat) (hx : h * 67108864 + m * 1048576 + a0 = x) :
    h * 67108864 + m * 1048576 + a0 < 2 ^ 32 ∧ x / 67108864 % 64 = h ∧ x / 1048576 % 4 = m ∧ (x / 4194304 % 16 = 0 ∧ x / 65536 % 16 = 0) ∧ x % 65536 = a0 :=
  ⟨by omega, by omega, by omega, by omega, by omega⟩

theorem fmt12 (h m a0 a1 : Nat) (hh : h < 64) (hm : m < 4) (hi : a0 < 8 ∧ a1 < 65536 ∧ a0 ≤ 4) (x : Nat) (hx : h * 67108864 + m * 1048576 + a0 * 131072 + a1 = x) :
    h * 67108864 + m * 1048576 + a0 * 131072 + a1 < 2 ^ 32 ∧ x / 67108864 % 64 = h ∧ x / 1048576 % 4 = m ∧ (x / 4194304 % 16 = 0 ∧ x / 65536 % 2 = 0 ∧ (x / 131072 % 8) ≤ 4) ∧ x / 131072 % 8 = a0 ∧ x % 65536 = a1 :=
  ⟨by omega, by omega, by omega, by omega, by omega, by omega⟩

theorem fmt13 (h m a0 a1 : Nat) (hh : h < 64) (hm : m < 4) (hi : a0 < 8 ∧ a1 < 64 ∧ a0 ≤ 2) (x : Nat) (hx : h * 67108864 + m * 16777216 + a0 * 2097152 + a1 = x) :
    h * 67108864 + m * 16777216 + a0 * 2097152 + a1 < 2 ^ 32 ∧ x / 67108864 % 64 = h ∧ x / 16777216 % 4 = m ∧ (x / 64 % 32768 = 0 ∧ (x / 2097152 % 8) ≤ 2) ∧ x / 2097152 % 8 = a0 ∧ x % 64 = a1 :=
  ⟨by omega, by omega, by omega, by omega, by omega, by omega⟩

theorem fmt14 (h m a0 a1 a2 : Nat) (hh : h < 64) (hm : m < 4) (hi : a0 < 32 ∧ a1 < 32 ∧ a2 < 64) (x : Nat) (hx : h * 67108864 + m * 16777216 + a0 * 65536 + a1 * 2048 + a2 = x) :
    h * 67108864 + m * 16777216 + a0 * 65536 + a1 * 2048 + a2 < 2 ^ 32 ∧ x / 67108864 % 64 = h ∧ x / 16777216 % 4 = m ∧ (x / 2097152 % 8 = 0 ∧ x / 64 % 32 = 0) ∧ x / 65536 % 32 = a0 ∧ x / 2048 % 32 = a1 ∧ x % 64 = a2 :=
  ⟨by omega, by omega, by omega, by omega, by omega, by omega, by omega⟩

theorem fmt15 (h m a0 a1 : Nat) (hh : h < 64) (hm : m < 4) (hi : a0 < 8 ∧ a1 < 32) (x : Nat) (hx : h * 67108864 + m * 16777216 + a0 * 2097152 + a1 * 65536 = x) :
    h * 67108864 + m * 16777216 + a0 * 2097152 + a1 * 65536 < 2 ^ 32 ∧ x / 67108864 % 64 = h ∧ x / 16777216 % 4 = m ∧ x % 65536 = 0 ∧ x / 2097152 % 8 = a0 ∧ x / 65536 % 32 = a1 :=
  ⟨by omega, by omega, by omega, by omega, by omega, by omega⟩

theorem fmt16 (h m a0 a1 : Nat) (hh : h < 64) (hm : m < 4) (hi : a0 < 8 ∧ a1 < 32) (x : Nat) (hx : h * 67108864 + m * 16777216 + a0 * 2097152 + a1 * 2048 = x) :
    h * 67108864 + m * 16777216 + a0 * 2097152 + a1 * 2048 < 2 ^ 32 ∧ x / 67108864 % 64 = h ∧ x / 16777216 % 4 = m ∧ (x / 65536 % 32 = 0 ∧ x % 2048 = 0) ∧ x / 2097152 % 8 = a0 ∧ x / 2048 % 32 = a1 :=
  ⟨by omega, by omega, by omega, by omega, by omega, by omega⟩

theorem fmt17 (h m a0 a1 : Nat) (hh : h < 64) (hm : m < 4) (hi : a0 < 32 ∧ a1 < 32) (x : Nat) (hx : h * 67108864 + m * 16777216 + a0 * 65536 + a1 * 2048 = x) :
    h * 67108864 + m * 16777216 + a0 * 65536 + a1 * 2048 < 2 ^ 32 ∧ x / 67108864 % 64 = h ∧ x / 16777216 % 4 = m ∧ (x / 2097152 % 8 = 0 ∧ x % 2048 = 0) ∧ x / 65536 % 32 = a0 ∧ x / 2048 % 32 = a1 :=
  ⟨by omega, by omega, by omega, by omega, by omega, by omega⟩

theorem fmt18 (h m a0 a1 : Nat) (hh : h < 64) (hm : m < 4) (hi : a0 < 32 ∧ a1 < 32) (x : Nat) (hx : h * 67108864 + m * 16777216 + a0 * 65536 + a1 * 64 = x) :
    h * 67108864 + m * 16777216 + a0 * 65536 + a1 * 64 < 2 ^ 32 ∧ x / 67108864 % 64 = h ∧ x / 16777216 % 4 = m ∧ (x / 2097152 % 8 = 0 ∧ x / 2048 % 32 = 0 ∧ x % 64 = 0) ∧ x / 65536 % 32 = a0 ∧ x / 64 % 32 = a1 :=
  ⟨by omega, by omega, by omega, by omega, by omega, by omega⟩

theorem fmt19 (h m a0 a1 : Nat) (hh : h < 64) (hm : m < 4) (hi : a0 < 32 ∧ a1 < 524288) (x : Nat) (hx : h * 67108864 + m * 16777216 + a0 * 524288 + a1 = x) :
    h * 67108864 + m * 16777216 + a0 * 524288 + a1 < 2 ^ 32 ∧ x / 67108864 % 64 = h ∧ x / 16777216 % 4 = m ∧ x / 524288 % 32 = a0 ∧ x % 524288 = a1 :=
  ⟨by omega, by omega, by omega, by omega, by omega⟩

theorem fmt20 (h m a0 a1 a2 : Nat) (hh : h < 64) (hm : m < 4) (hi : a0 < 32 ∧ a1 < 32 ∧ a2 < 16384) (x : Nat) (hx : h * 67108864 + m * 16777216 + a0 * 524288 + a1 * 16384 + a2 = x) :
    h * 67108864 + m * 16777216 + a0 * 524288 + a1 * 16384 + a2 < 2 ^ 32 ∧ x / 67108864 % 64 = h ∧ x / 16777216 % 4 = m ∧ x / 524288 % 32 = a0 ∧ x / 16384 % 32 = a1 ∧ x % 16384 = a2 :=
  ⟨by omega, by omega, by omega, by omega, by omega, by omega⟩

theorem fmt21 (h a0 a1 : Nat) (hh : h < 64) (hi : a0 < 8 ∧ a1 < 65536 ∧ a0 ≤ 5) (x : Nat) (hx : h * 67108864 + a0 * 8388608 + a1 = x) :
    h * 67108864 + a0 * 8388608 + a1 < 2 ^ 32 ∧ x / 67108864 % 64 = h ∧ (x / 65536 % 128 = 0 ∧ (x / 8388608 % 8) ≤ 5) ∧ x / 8388608 % 8 = a0 ∧ x % 65536 = a1 :=
  ⟨by omega, by omega, by omega, by omega, by omega⟩

theorem fmt22 (h m a0 a1 a2 : Nat) (hh : h < 64) (hm : m < 4) (hi : a0 < 32 ∧ a1 < 32 ∧ a2 < 32) (x : Nat) (hx : h * 67108864 + m * 16777216 + a0 * 524288 + a1 * 16384 + a2 * 512 = x) :
    h * 67108864 + m * 16777216 + a0 * 524288 + a1 * 16384 + a2 * 512 < 2 ^ 32 ∧ x / 67108864 % 64 = h ∧ x / 16777216 % 4 = m ∧ x % 512 = 0 ∧ x / 524288 % 32 = a0 ∧ x / 16384 % 32 = a1 ∧ x / 512 % 32 = a2 :=
  ⟨by omega, by omega, by omega, by omega, by omega, by omega, by omega⟩

theorem fmt23 (h m a0 a1 a2 a3 : Nat) (hh : h < 64) (hm : m < 4) (hi : a0 < 32 ∧ a1 < 32 ∧ a2 < 32 ∧ a3 < 64 ∧ a3 ≤ 6) (x : Nat) (hx : h * 67108864 + m * 16777216 + a0 * 524288 + a1 * 16384 + a2 * 512 + a3 = x) :
    h * 67108864 + m * 16777216 + a0 * 524288 + a1 * 16384 + a2 * 512 + a3 < 2 ^ 32 ∧ x / 67108864 % 64 = h ∧ x / 16777216 % 4 = m ∧ (x / 64 % 8 = 0 ∧ (x % 64) ≤ 6) ∧ x / 524288 % 32 = a0 ∧ x / 16384 % 32 = a1 ∧ x / 512 % 32 = a2 ∧ x % 64 = a3 :=
  ⟨by omega, by omega, by omega, by omega, by omega, by omega, by omega, by omega⟩

theorem fmt24 (h m a0 a1 : Nat) (hh : h < 64) (hm : m < 8) (hi : a0 < 32 ∧ a1 < 16 ∧ a1 ≤ 3) (x : Nat) (hx : h * 67108864 + m * 256 + a0 * 65536 + a1 * 16 = x) :
    h * 67108864 + m * 256 + a0 * 65536 + a1 * 16 < 2 ^ 32 ∧ x / 67108864 % 64 = h ∧ x / 256 % 8 = m ∧ (x / 2097152 % 32 = 0 ∧ x / 2048 % 32 = 0 ∧ x % 16 = 0 ∧ (x / 16 % 16) ≤ 3) ∧ x / 65536 % 32 = a0 ∧ x / 16 % 16 = a1 :=
  ⟨by omega, by omega, by omega, by omega, by omega, by omega⟩

theorem fmt25 (h m a0 a1 : Nat) (hh : h < 64) (hm : m < 8) (hi : a0 < 32 ∧ a1 < 16 ∧ a1 ≤ 5) (x : Nat) (hx : h * 67108864 + m * 256 + a0 * 2097152 + a1 * 16 = x) :
    h * 67108864 + m * 256 + a0 * 2097152 + a1 * 16 < 2 ^ 32 ∧ x / 67108864 % 64 = h ∧ x / 256 % 8 = m ∧ (x / 2048 % 1024 = 0 ∧ x % 16 = 0 ∧ (x / 16 % 16) ≤ 5) ∧ x / 2097152 % 32 = a0 ∧ x / 16 % 16 = a1 :=
  ⟨by omega, by omega, by omega, by omega, by omega, by omega⟩

theorem fmt26 (h m a0 a1 : Nat) (hh : h < 64) (hm : m < 8) (hi : a0 < 32 ∧ a1 < 32) (x : Nat) (hx : h * 67108864 + m * 256 + a0 * 2097152 + a1 * 65536 = x) :
    h * 67108864 + m * 256 + a0 * 2097152 + a1 * 65536 < 2 ^ 32 ∧ x / 67108864 % 64 = h ∧ x / 256 % 8 = m ∧ (x / 2048 % 32 = 0 ∧ x % 256 = 0) ∧ x / 2097152 % 32 = a0 ∧ x / 65536 % 32 = a1 :=
  ⟨by omega, by omega, by omega, by omega, by omega, by omega⟩

theorem fmt27 (h m a0 a1 : Nat) (hh : h < 64) (hm : m < 8) (hi : a0 < 32 ∧ a1 < 32) (x : Nat) (hx : h * 67108864 + m * 256 + a0 * 65536 + a1 * 2048 = x) :
    h * 67108864 + m * 256 + a0 * 65536 + a1 * 2048 < 2 ^ 32 ∧ x / 67108864 % 64 = h ∧ x / 256 % 8 = m ∧ (x / 2097152 % 32 = 0 ∧ x % 256 = 0) ∧ x / 65536 % 32 = a0 ∧ x / 2048 % 32 = a1 :=
  ⟨by omega, by omega, by omega, by omega, by omega, by omega⟩

theorem fmt28 (h m a0 : Nat) (hh : h < 64) (hm : m < 8) (hi : a0 < 32) (x : Nat) (hx : h * 67108864 + m * 256 + a0 * 65536 = x) :
    h * 67108864 + m * 256 + a0 * 65536 < 2 ^ 32 ∧ x / 67108864 % 64 = h ∧ x / 256 % 8 = m ∧ (x / 2097152 % 32 = 0 ∧ x / 2048 % 32 = 0 ∧ x % 256 = 0) ∧ x / 65536 % 32 = a0 :=
  ⟨by omega, by omega, by omega, by omega, by omega⟩

theorem fmt29 (h m a0 a1 a2 : Nat) (hh : h < 64) (hm : m < 8) (hi : a0 < 32 ∧ a1 < 32 ∧ a2 < 32) (x : Nat) (hx : h * 67108864 + m * 256 + a0 * 2097152 + a1 * 65536 + a2 * 2048 = x) :
    h * 67108864 + m * 256 + a0 * 2097152 + a1 * 65536 + a2 * 2048 < 2 ^ 32 ∧ x / 67108864 % 64 = h ∧ x / 256 % 8 = m ∧ x % 256 = 0 ∧ x / 2097152 % 32 = a0 ∧ x / 65536 % 32 = a1 ∧ x / 2048 % 32 = a2 :=
  ⟨by omega, by omega, by omega, by omega, by omega, by omega, by omega⟩

theorem fmt30 (h a0 a1 a2 : Nat) (hh : h < 64) (hi : a0 < 32 ∧ a1 < 32 ∧ a2 < 4) (x : Nat) (hx : h * 67108864 + a0 * 2097152 + a1 * 65536 + a2 * 16384 = x) :
    h * 67108864 + a0 * 2097152 + a1 * 65536 + a2 * 16384 < 2 ^ 32 ∧ x / 67108864 % 64 = h ∧ x % 16384 = 0 ∧ x / 2097152 % 32 = a0 ∧ x / 65536 % 32 = a1 ∧ x / 16384 % 4 = a2 :=
  ⟨by omega, by omega, by omega, by omega, by omega, by omega⟩

theorem fmt31 (h a0 a1 : Nat) (hh : h < 64) (hi : a0 < 32 ∧ a1 < 4) (x : Nat) (hx : h * 67108864 + a0 * 2097152 + a1 * 16384 = x) :
    h * 67108864 + a0 * 2097152 + a1 * 16384 < 2 ^ 32 ∧ x / 67108864 % 64 = h ∧ (x / 65536 % 32 = 0 ∧ x % 16384 = 0) ∧ x / 2097152 % 32 = a0 ∧ x / 16384 % 4 = a1 :=
  ⟨by omega, by omega, by omega, by omega, by omega⟩

theorem fmt32 (h m a0 a1 : Nat) (hh : h < 64) (hm : m < 2) (hi : a0 < 32 ∧ a1 < 256) (x : Nat) (hx : h * 67108864 + m * 33554432 + a0 * 1048576 + a1 * 4096 = x) :
    h * 67108864 + m * 33554432 + a0 * 1048576 + a1 * 4096 < 2 ^ 32 ∧ x / 67108864 % 64 = h ∧ x / 33554432 % 2 = m ∧ x % 4096 = 0 ∧ x / 1048576 % 32 = a0 ∧ x / 4096 % 256 = a1 :=
  ⟨by omega, by omega, by omega, by omega, by omega, by omega⟩

theorem fmt33 (h a0 : Nat) (hh : h < 64) (hi : a0 < 65536) (x : Nat) (hx : h * 67108864 + a0 = x) :
    h * 67108864 + a0 < 2 ^ 32 ∧ x / 67108864 % 64 = h ∧ x / 65536 % 1024 = 0 ∧ x % 65536 = a0 :=
  ⟨by omega, by omega, by omega, by omega⟩

theorem fmt34 (h m a0 a1 : Nat) (hh : h < 64) (hm : m < 2) (hi : a0 < 32 ∧ a1 < 8 ∧ a1 ≤ 5) (x : Nat) (hx : h * 67108864 + m * 131072 + a0 * 2097152 + a1 * 262144 = x) :
    h * 67108864 + m * 131072 + a0 * 2097152 + a1 * 262144 < 2 ^ 32 ∧ x / 67108864 % 64 = h ∧ x / 131072 % 2 = m ∧ (x % 131072 = 0 ∧ (x / 262144 % 8) ≤ 5) ∧ x / 2097152 % 32 = a0 ∧ x / 262144 % 8 = a1 :=
  ⟨by omega, by omega, by omega, by omega, by omega, by omega⟩

theorem fmt35 (h m a0 : Nat) (hh : h < 64) (hm : m < 4) (hi : a0 < 1048576) (x : Nat) (hx : h * 67108864 + m * 16777216 + a0 = x) :
    h * 67108864 + m * 16777216 + a0 < 2 ^ 32 ∧ x / 67108864 % 64 = h ∧ x / 16777216 % 4 = m ∧ x / 1048576 % 16 = 0 ∧ x % 1048576 = a0 :=
  ⟨by omega, by omega, by omega, by omega, by omega⟩

theorem fmt36 (h m a0 a1 a2 : Nat) (hh : h < 64) (hm : m < 4) (hi : a0 < 16 ∧ a1 < 8 ∧ a2 < 8 ∧ a1 ≤ 3 ∧ a2 ≤ 4 ∧ (a1 ≠ 0 ∨ a2 = 0)) (x : Nat) (hx : h * 67108864 + m * 16777216 + a0 * 256 + a1 * 32 + a2 * 4 = x) :
    h * 67108864 + m * 16777216 + a0 * 256 + a1 * 32 + a2 * 4 < 2 ^ 32 ∧ x / 67108864 % 64 = h ∧ x / 16777216 % 4 = m ∧ (x / 4096 % 4096 = 0 ∧ x % 4 = 0 ∧ (x / 32 % 8) ≤ 3 ∧ (x / 4 % 8) ≤ 4 ∧ ((x / 32 % 8) ≠ 0 ∨ (x / 4 % 8) = 0)) ∧ x / 256 % 16 = a0 ∧ x / 32 % 8 = a1 ∧ x / 4 % 8 = a2 :=
  ⟨by omega, by omega, by omega, by omega, by omega, by omega, by omega⟩

theorem fmt37 (h a0 a1 a2 a3 a4 : Nat) (hh : h < 64) (hi : a0 < 2 ∧ a1 < 128 ∧ a2 < 128 ∧ a3 < 128 ∧ a4 < 16) (x : Nat) (hx : h * 33554432 + a0 * 2147483648 + a1 * 262144 + a2 * 2048 + a3 * 16 + a4 = x) :
    h * 33554432 + a0 * 2147483648 + a1 * 262144 + a2 * 2048 + a3 * 16 + a4 < 2 ^ 32 ∧ x / 33554432 % 64 = h ∧ x / 2147483648 % 2 = a0 ∧ x / 262144 % 128 = a1 ∧ x / 2048 % 128 = a2 ∧ x / 16 % 128 = a3 ∧ x % 16 = a4 :=
  ⟨by omega, by omega, by omega, by omega, by omega, by omega, by omega⟩

theorem fmt38 (h m a0 a1 a2 a3 a4 : Nat) (hh : h < 64) (hm : m < 8) (hi : a0 < 2 ∧ a1 < 16 ∧ a2 < 128 ∧ a3 < 128 ∧ a4 < 16) (x : Nat) (hx : h * 33554432 + m * 262144 + a0 * 2147483648 + a1 * 2097152 + a2 * 2048 + a3 * 16 + a4 = x) :
    h * 33554432 + m * 262144 + a0 * 2147483648 + a1 * 2097152 + a2 * 2048 + a3 * 16 + a4 < 2 ^ 32 ∧ x / 33554432 % 64 = h ∧ x / 262144 % 8 = m ∧ x / 2147483648 % 2 = a0 ∧ x / 2097152 % 16 = a1 ∧ x / 2048 % 128 = a2 ∧ x / 16 % 128 = a3 ∧ x % 16 = a4 :=
  ⟨by omega, by omega, by omega, by omega, by omega, by omega, by omega, by omega⟩

theorem fmt39 (h m a0 a1 a2 a3 a4 : Nat) (hh : h < 64) (hm : m < 8) (hi : a0 < 2 ∧ a1 < 128 ∧ a2 < 128 ∧ a3 < 16 ∧ a4 < 16) (x : Nat) (hx : h * 33554432 + m * 16 + a0 * 2147483648 + a1 * 262144 + a2 * 2048 + a3 * 128 + a4 = x) :
    h * 33554432 + m * 16 + a0 * 2147483648 + a1 * 262144 + a2 * 2048 + a3 * 128 + a4 < 2 ^ 32 ∧ x / 33554432 % 64 = h ∧ x / 16 % 8 = m ∧ x / 2147483648 % 2 = a0 ∧ x / 262144 % 128 = a1 ∧ x / 2048 % 128 = a2 ∧ x / 128 % 16 = a3 ∧ x % 16 = a4 :=
  ⟨by omega, by omega, by omega, by omega, by omega, by omega, by omega, by omega⟩

theorem fmt40 (h m a0 a1 a2 a3 : Nat) (hh : h < 64) (hm : m < 8) (hi : a0 < 2 ∧ a1 < 128 ∧ a2 < 16 ∧ a3 < 16) (x : Nat) (hx : h * 33554432 + m * 16 + a0 * 2147483648 + a1 * 262144 + a2 * 128 + a3 = x) :
    h * 33554432 + m * 16 + a0 * 2147483648 + a1 * 262144 + a2 * 128 + a3 < 2 ^ 32 ∧ x / 33554432 % 64 = h ∧ x / 16 % 8 = m ∧ x / 2048 % 128 = 0 ∧ x / 2147483648 % 2 = a0 ∧ x / 262144 % 128 = a1 ∧ x / 128 % 16 = a2 ∧ x % 16 = a3 :=
  ⟨by omega, by omega, by omega, by omega, by omega, by omega, by omega, by omega⟩

theorem fmt41 (h m a0 a1 a2 a3 : Nat) (hh : h < 64) (hm : m < 32) (hi : a0 < 2 ∧ a1 < 128 ∧ a2 < 128 ∧ a3 < 16) (x : Nat) (hx : h * 33554432 + m * 64 + a0 * 2147483648 + a1 * 262144 + a2 * 2048 + a3 = x) :
    h * 33554432 + m * 64 + a0 * 2147483648 + a1 * 262144 + a2 * 2048 + a3 < 2 ^ 32 ∧ x / 33554432 % 64 = h ∧ x / 64 % 32 = m ∧ x / 16 % 4 = 0 ∧ x / 2147483648 % 2 = a0 ∧ x / 262144 % 128 = a1 ∧ x / 2048 % 128 = a2 ∧ x % 16 = a3 :=
  ⟨by omega, by omega, by omega, by omega, by omega, by omega, by omega, by omega⟩

theorem fmt42 (h a0 a1 a2 a3 a4 a5 : Nat) (hh : h < 64) (hi : a0 < 2 ∧ a1 < 128 ∧ a2 < 128 ∧ a3 < 16 ∧ a4 < 16 ∧ a5 < 4) (x : Nat) (hx : h * 33554432 + a0 * 2147483648 + a1 * 262144 + a2 * 2048 + a3 * 128 + a4 * 8 + a5 * 2 = x) :
    h * 33554432 + a0 * 2147483648 + a1 * 262144 + a2 * 2048 + a3 * 128 + a4 * 8 + a5 * 2 < 2 ^ 32 ∧ x / 33554432 % 64 = h ∧ x % 2 = 0 ∧ x / 2147483648 % 2 = a0 ∧ x / 262144 % 128 = a1 ∧ x / 2048 % 128 = a2 ∧ x / 128 % 16 = a3 ∧ x / 8 % 16 = a4 ∧ x / 2 % 4 = a5 :=
  ⟨by omega, by omega, by omega, by omega, by omega, by omega, by omega, by omega, by omega⟩

theorem fmt43 (h m a0 a1 a2 a3 : Nat) (hh : h < 64) (hm : m < 8) (hi : a0 < 2 ∧ a1 < 16 ∧ a2 < 128 ∧ a3 < 16) (x : Nat) (hx : h * 33554432 + m * 128 + a0 * 2147483648 + a1 * 2097152 + a2 * 16384 + a3 = x) :
    h * 33554432 + m * 128 + a0 * 2147483648 + a1 * 2097152 + a2 * 16384 + a3 < 2 ^ 32 ∧ x / 33554432 % 64 = h ∧ x / 128 % 8 = m ∧ (x / 1024 % 16 = 0 ∧ x / 16 % 8 = 0) ∧ x / 2147483648 % 2 = a0 ∧ x / 2097152 % 16 = a1 ∧ x / 16384 % 128 = a2 ∧ x % 16 = a3 :=
  ⟨by omega, by omega, by omega, by omega, by omega, by omega, by omega, by omega⟩

theorem fmt44 (h a0 a1 a2 a3 a4 : Nat) (hh : h < 64) (hi : a0 < 2 ∧ a1 < 128 ∧ a2 < 128 ∧ a3 < 16 ∧ a4 < 16) (x : Nat) (hx : h * 33554432 + a0 * 2147483648 + a1 * 262144 + a2 * 2048 + a3 * 128 + a4 = x) :
    h * 33554432 + a0 * 2147483648 + a1 * 262144 + a2 * 2048 + a3 * 128 + a4 < 2 ^ 32 ∧ x / 33554432 % 64 = h ∧ x / 16 % 8 = 0 ∧ x / 2147483648 % 2 = a0 ∧ x / 262144 % 128 = a1 ∧ x / 2048 % 128 = a2 ∧ x / 128 % 16 = a3 ∧ x % 16 = a4 :=
  ⟨by omega, by omega, by omega, by omega, by omega, by omega, by omega, by omega⟩

theorem fmt45 (h a0 a1 a2 a3 : Nat) (hh : h < 64) (hi : a0 < 2 ∧ a1 < 128 ∧ a2 < 128 ∧ a3 < 16) (x : Nat) (hx : h * 33554432 + a0 * 2147483648 + a1 * 262144 + a2 * 2048 + a3 = x) :
    h * 33554432 + a0 * 2147483648 + a1 * 262144 + a2 * 2048 + a3 < 2 ^ 32 ∧ x / 33554432 % 64 = h ∧ x / 16 % 128 = 0 ∧ x / 2147483648 % 2 = a0 ∧ x / 262144 % 128 = a1 ∧ x / 2048 % 128 = a2 ∧ x % 16 = a3 :=
  ⟨by omega, by omega, by omega, by omega, by omega, by omega, by omega⟩

theorem fmt46 (h m a0 a1 a2 a3 : Nat) (hh : h < 64) (hm : m < 8) (hi : a0 < 2 ∧ a1 < 16 ∧ a2 < 128 ∧ a3 < 16) (x : Nat) (hx : h * 33554432 + m * 16 + a0 * 2147483648 + a1 * 262144 + a2 * 2048 + a3 * 128 = x) :
    h * 33554432 + m * 16 + a0 * 2147483648 + a1 * 262144 + a2 * 2048 + a3 * 128 < 2 ^ 32 ∧ x / 33554432 % 64 = h ∧ x / 16 % 8 = m ∧ (x / 4194304 % 8 = 0 ∧ x % 16 = 0) ∧ x / 2147483648 % 2 = a0 ∧ x / 262144 % 16 = a1 ∧ x / 2048 % 128 = a2 ∧ x / 128 % 16 = a3 :=
  ⟨by omega, by omega, by omega, by omega, by omega, by omega, by omega, by omega⟩

theorem fmt47 (h m a0 a1 a2 a3 : Nat) (hh : h < 64) (hm : m < 8) (hi : a0 < 2 ∧ a1 < 128 ∧ a2 < 16 ∧ a3 < 16) (x : Nat) (hx : h * 33554432 + m * 16 + a0 * 2147483648 + a1 * 262144 + a2 * 16384 + a3 * 128 = x) :
    h * 33554432 + m * 16 + a0 * 2147483648 + a1 * 262144 + a2 * 16384 + a3 * 128 < 2 ^ 32 ∧ x / 33554432 % 64 = h ∧ x / 16 % 8 = m ∧ (x / 2048 % 8 = 0 ∧ x % 16 = 0) ∧ x / 2147483648 % 2 = a0 ∧ x / 262144 % 128 = a1 ∧ x / 16384 % 16 = a2 ∧ x / 128 % 16 = a3 :=
  ⟨by omega, by omega, by omega, by omega, by omega, by omega, by omega, by omega⟩

theorem fmt48 (h a0 a1 a2 a3 : Nat) (hh : h < 64) (hi : a0 < 2 ∧ a1 < 128 ∧ a2 < 16 ∧ a3 < 16384) (x : Nat) (hx : h * 33554432 + a0 * 2147483648 + a1 * 262144 + a2 * 16384 + a3 = x) :
    h * 33554432 + a0 * 2147483648 + a1 * 262144 + a2 * 16384 + a3 < 2 ^ 32 ∧ x / 33554432 % 64 = h ∧ x / 2147483648 % 2 = a0 ∧ x / 262144 % 128 = a1 ∧ x / 16384 % 16 = a2 ∧ x % 16384 = a3 :=
  ⟨by omega, by omega, by omega, by omega, by omega, by omega⟩

theorem fmt49 (h a0 a1 a2 a3 a4 : Nat) (hh : h < 64) (hi : a0 < 2 ∧ a1 < 128 ∧ a2 < 16 ∧ a3 < 128 ∧ a4 < 16) (x : Nat) (hx : h * 33554432 + a0 * 2147483648 + a1 * 262144 + a2 * 16384 + a3 * 128 + a4 = x) :
    h * 33554432 + a0 * 2147483648 + a1 * 262144 + a2 * 16384 + a3 * 128 + a4 < 2 ^ 32 ∧ x / 33554432 % 64 = h ∧ x / 16 % 8 = 0 ∧ x / 2147483648 % 2 = a0 ∧ x / 262144 % 128 = a1 ∧ x / 16384 % 16 = a2 ∧ x / 128 % 128 = a3 ∧ x % 16 = a4 :=
  ⟨by omega, by omega, by omega, by omega, by omega, by omega, by omega, by omega⟩

theorem fmt50 (h a0 a1 a2 a3 : Nat) (hh : h < 64) (hi : a0 < 2 ∧ a1 < 128 ∧ a2 < 16 ∧ a3 < 16) (x : Nat) (hx : h * 33554432 + a0 * 2147483648 + a1 * 262144 + a2 * 16384 + a3 = x) :
    h * 33554432 + a0 * 2147483648 + a1 * 262144 + a2 * 16384 + a3 < 2 ^ 32 ∧ x / 33554432 % 64 = h ∧ x / 16 % 1024 = 0 ∧ x / 2147483648 % 2 = a0 ∧ x / 262144 % 128 = a1 ∧ x / 16384 % 16 = a2 ∧ x % 16 = a3 :=
  ⟨by omega, by omega, by omega, by omega, by omega, by omega, by omega⟩

theorem fmt51 (h m a0 a1 a2 a3 : Nat) (hh : h < 64) (hm : m < 8) (hi : a0 < 2 ∧ a1 < 16 ∧ a2 < 16 ∧ a3 < 16) (x : Nat) (hx : h * 33554432 + m * 1024 + a0 * 2147483648 + a1 * 2097152 + a2 * 131072 + a3 * 8192 = x) :
    h * 33554432 + m * 1024 + a0 * 2147483648 + a1 * 2097152 + a2 * 131072 + a3 * 8192 < 2 ^ 32 ∧ x / 33554432 % 64 = h ∧ x / 1024 % 8 = m ∧ x % 1024 = 0 ∧ x / 2147483648 % 2 = a0 ∧ x / 2097152 % 16 = a1 ∧ x / 131072 % 16 = a2 ∧ x / 8192 % 16 = a3 :=
  ⟨by omega, by omega, by omega, by omega, by omega, by omega, by omega, by omega⟩

theorem fmt52 (h m a0 a1 a2 : Nat) (hh : h < 64) (hm : m < 8) (hi : a0 < 2 ∧ a1 < 16 ∧ a2 < 16) (x : Nat) (hx : h * 33554432 + m * 1024 + a0 * 2147483648 + a1 * 2097152 + a2 * 131072 = x) :
    h * 33554432 + m * 1024 + a0 * 2147483648 + a1 * 2097152 + a2 * 131072 < 2 ^ 32 ∧ x / 33554432 % 64 = h ∧ x / 1024 % 8 = m ∧ (x / 8192 % 16 = 0 ∧ x % 1024 = 0) ∧ x / 2147483648 % 2 = a0 ∧ x / 2097152 % 16 = a1 ∧ x / 131072 % 16 = a2 :=
  ⟨by omega, by omega, by omega, by omega, by omega, by omega, by omega⟩

theorem fmt53 (h m a0 a1 : Nat) (hh : h < 64) (hm : m < 8) (hi : a0 < 2 ∧ a1 < 16) (x : Nat) (hx : h * 33554432 + m * 1024 + a0 * 2147483648 + a1 * 2097152 = x) :
    h * 33554432 + m * 1024 + a0 * 2147483648 + a1 * 2097152 < 2 ^ 32 ∧ x / 33554432 % 64 = h ∧ x / 1024 % 8 = m ∧ (x / 8192 % 256 = 0 ∧ x % 1024 = 0) ∧ x / 2147483648 % 2 = a0 ∧ x / 2097152 % 16 = a1 :=
  ⟨by omega, by omega, by omega, by omega, by omega, by omega⟩

theorem fmt54 (h m a0 a1 a2 : Nat) (hh : h < 64) (hm : m < 8) (hi : a0 < 2 ∧ a1 < 16 ∧ a2 < 16) (x : Nat) (hx : h * 33554432 + m * 16384 + a0 * 2147483648 + a1 * 2097152 + a2 * 131072 = x) :
    h * 33554432 + m * 16384 + a0 * 2147483648 + a1 * 2097152 + a2 * 131072 < 2 ^ 32 ∧ x / 33554432 % 64 = h ∧ x / 16384 % 8 = m ∧ x % 16384 = 0 ∧ x / 2147483648 % 2 = a0 ∧ x / 2097152 % 16 = a1 ∧ x / 131072 % 16 = a2 :=
  ⟨by omega, by omega, by omega, by omega, by omega, by omega, by omega⟩

theorem fmt55 (h m a0 a1 a2 : Nat) (hh : h < 64) (hm : m < 4) (hi : a0 < 2 ∧ a1 < 16 ∧ a2 < 256) (x : Nat) (hx : h * 33554432 + m * 8388608 + a0 * 2147483648 + a1 * 524288 + a2 * 2048 = x) :
    h * 33554432 + m * 8388608 + a0 * 2147483648 + a1 * 524288 + a2 * 2048 < 2 ^ 32 ∧ x / 33554432 % 64 = h ∧ x / 8388608 % 4 = m ∧ x % 2048 = 0 ∧ x / 2147483648 % 2 = a0 ∧ x / 524288 % 16 = a1 ∧ x / 2048 % 256 = a2 :=
  ⟨by omega, by omega, by omega, by omega, by omega, by omega, by omega⟩

theorem fmt56 (h a0 a1 a2 : Nat) (hh : h < 64) (hi : a0 < 2 ∧ a1 < 8 ∧ a2 < 65536 ∧ a1 ≤ 5) (x : Nat) (hx : h * 33554432 + a0 * 2147483648 + a1 * 4194304 + a2 = x) :
    h * 33554432 + a0 * 2147483648 + a1 * 4194304 + a2 < 2 ^ 32 ∧ x / 33554432 % 64 = h ∧ (x / 65536 % 64 = 0 ∧ (x / 4194304 % 8) ≤ 5) ∧ x / 2147483648 % 2 = a0 ∧ x / 4194304 % 8 = a1 ∧ x % 65536 = a2 :=
  ⟨by omega, by omega, by omega, by omega, by omega, by omega⟩

theorem fmt57 (h m a0 a1 : Nat) (hh : h < 64) (hm : m < 4) (hi : a0 < 2 ∧ a1 < 64) (x : Nat) (hx : h * 33554432 + m * 8388608 + a0 * 2147483648 + a1 = x) :
    h * 33554432 + m * 8388608 + a0 * 2147483648 + a1 < 2 ^ 32 ∧ x / 33554432 % 64 = h ∧ x / 8388608 % 4 = m ∧ x / 64 % 131072 = 0 ∧ x / 2147483648 % 2 = a0 ∧ x % 64 = a1 :=
  ⟨by omega, by omega, by omega, by omega, by omega, by omega⟩

theorem fmt58 (h m a0 a1 a2 : Nat) (hh : h < 64) (hm : m < 4) (hi : a0 < 2 ∧ a1 < 8 ∧ a2 < 16) (x : Nat) (hx : h * 33554432 + m * 8388608 + a0 * 2147483648 + a1 * 1048576 + a2 * 65536 = x) :
    h * 33554432 + m * 8388608 + a0 * 2147483648 + a1 * 1048576 + a2 * 65536 < 2 ^ 32 ∧ x / 33554432 % 64 = h ∧ x / 8388608 % 4 = m ∧ x % 65536 = 0 ∧ x / 2147483648 % 2 = a0 ∧ x / 1048576 % 8 = a1 ∧ x / 65536 % 16 = a2 :=
  ⟨by omega, by omega, by omega, by omega, by omega, by omega, by omega⟩

theorem fmt59 (h m a0 : Nat) (hh : h < 64) (hm : m < 4) (hi : a0 < 2) (x : Nat) (hx : h * 33554432 + m * 8388608 + a0 * 2147483648 = x) :
    h * 33554432 + m * 8388608 + a0 * 2147483648 < 2 ^ 32 ∧ x / 33554432 % 64 = h ∧ x / 8388608 % 4 = m ∧ x % 8388608 = 0 ∧ x / 2147483648 % 2 = a0 :=
  ⟨by omega, by omega, by omega, by omega, by omega⟩

theorem fmt60 (h m a0 a1 : Nat) (hh : h < 64) (hm : m < 4) (hi : a0 < 2 ∧ a1 < 65536) (x : Nat) (hx : h * 33554432 + m * 8388608 + a0 * 2147483648 + a1 = x) :
    h * 33554432 + m * 8388608 + a0 * 2147483648 + a1 < 2 ^ 32 ∧ x / 33554432 % 64 = h ∧ x / 8388608 % 4 = m ∧ x / 65536 % 128 = 0 ∧ x / 2147483648 % 2 = a0 ∧ x % 65536 = a1 :=
  ⟨by omega, by omega, by omega, by omega, by omega, by omega⟩

theorem fmt61 (h m a0 a1 a2 : Nat) (hh : h < 64) (hm : m < 2) (hi : a0 < 2 ∧ a1 < 16 ∧ a2 < 65536) (x : Nat) (hx : h * 33554432 + m * 16777216 + a0 * 2147483648 + a1 * 1048576 + a2 = x) :
    h * 33554432 + m * 16777216 + a0 * 2147483648 + a1 * 1048576 + a2 < 2 ^ 32 ∧ x / 33554432 % 64 = h ∧ x / 16777216 % 2 = m ∧ x / 65536 % 16 = 0 ∧ x / 2147483648 % 2 = a0 ∧ x / 1048576 % 16 = a1 ∧ x % 65536 = a2 :=
  ⟨by omega, by omega, by omega, by omega, by omega, by omega, by omega⟩

theorem fmt62 (h m a0 a1 a2 a3 : Nat) (hh : h < 64) (hm : m < 32) (hi : a0 < 2 ∧ a1 < 16 ∧ a2 < 16 ∧ a3 < 16) (x : Nat) (hx : h * 33554432 + m * 256 + a0 * 2147483648 + a1 * 2097152 + a2 * 131072 + a3 * 8192 = x) :
    h * 33554432 + m * 256 + a0 * 2147483648 + a1 * 2097152 + a2 * 131072 + a3 * 8192 < 2 ^ 32 ∧ x / 33554432 % 64 = h ∧ x / 256 % 32 = m ∧ x % 256 = 0 ∧ x / 2147483648 % 2 = a0 ∧ x / 2097152 % 16 = a1 ∧ x / 131072 % 16 = a2 ∧ x / 8192 % 16 = a3 :=
  ⟨by omega, by omega, by omega, by omega, by omega, by omega, by omega, by omega⟩

theorem fmt63 (h m a0 a1 a2 : Nat) (hh : h < 64) (hm : m < 32) (hi : a0 < 2 ∧ a1 < 16 ∧ a2 < 16 ∧ a2 ≤ 5) (x : Nat) (hx : h * 33554432 + m * 256 + a0 * 2147483648 + a1 * 2097152 + a2 * 8192 = x) :
    h * 33554432 + m * 256 + a0 * 2147483648 + a1 * 2097152 + a2 * 8192 < 2 ^ 32 ∧ x / 33554432 % 64 = h ∧ x / 256 % 32 = m ∧ (x / 131072 % 16 = 0 ∧ x % 256 = 0 ∧ (x / 8192 % 16) ≤ 5) ∧ x / 2147483648 % 2 = a0 ∧ x / 2097152 % 16 = a1 ∧ x / 8192 % 16 = a2 :=
  ⟨by omega, by omega, by omega, by omega, by omega, by omega, by omega⟩

theorem fmt64 (h m a0 a1 a2 a3 : Nat) (hh : h < 64) (hm : m < 2) (hi : a0 < 2 ∧ a1 < 16 ∧ a2 < 16 ∧ a3 < 65536) (x : Nat) (hx : h * 33554432 + m * 65536 + a0 * 2147483648 + a1 * 2097152 + a2 * 131072 + a3 = x) :
    h * 33554432 + m * 65536 + a0 * 2147483648 + a1 * 2097152 + a2 * 131072 + a3 < 2 ^ 32 ∧ x / 33554432 % 64 = h ∧ x / 65536 % 2 = m ∧ x / 2147483648 % 2 = a0 ∧ x / 2097152 % 16 = a1 ∧ x / 131072 % 16 = a2 ∧ x % 65536 = a3 :=
  ⟨by omega, by omega, by omega, by omega, by omega, by omega, by omega⟩

theorem fmt65 (h m a0 a1 a2 : Nat) (hh : h < 64) (hm : m < 2) (hi : a0 < 2 ∧ a1 < 16 ∧ a2 < 65536) (x : Nat) (hx : h * 33554432 + m * 65536 + a0 * 2147483648 + a1 * 2097152 + a2 = x) :
    h * 33554432 + m * 65536 + a0 * 2147483648 + a1 * 2097152 + a2 < 2 ^ 32 ∧ x / 33554432 % 64 = h ∧ x / 65536 % 2 = m ∧ x / 131072 % 16 = 0 ∧ x / 2147483648 % 2 = a0 ∧ x / 2097152 % 16 = a1 ∧ x % 65536 = a2 :=
  ⟨by omega, by omega, by omega, by omega, by omega, by omega, by omega⟩

theorem fmt66 (h a0 a1 a2 a3 a4 a5 a6 : Nat) (hh : h < 64) (hi : a0 < 8 ∧ a1 < 4 ∧ a2 < 8 ∧ a3 < 8 ∧ a4 < 128 ∧ a5 < 2 ∧ a6 < 4 ∧ a0 ≤ 6 ∧ a1 ≤ 2 ∧ (a1 = 0 ∨ a2 = 0)) (x : Nat) (hx : h * 67108864 + a0 * 8388608 + a1 * 2097152 + a2 * 262144 + a3 * 32768 + a4 * 256 + a5 * 128 + a6 * 32 = x) :
    h * 67108864 + a0 * 8388608 + a1 * 2097152 + a2 * 262144 + a3 * 32768 + a4 * 256 + a5 * 128 + a6 * 32 < 2 ^ 32 ∧ x / 67108864 % 64 = h ∧ (x % 32 = 0 ∧ (x / 8388608 % 8) ≤ 6 ∧ (x / 2097152 % 4) ≤ 2 ∧ ((x / 2097152 % 4) = 0 ∨ (x / 262144 % 8) = 0)) ∧ x / 8388608 % 8 = a0 ∧ x / 2097152 % 4 = a1 ∧ x / 262144 % 8 = a2 ∧ x / 32768 % 8 = a3 ∧ x / 256 % 128 = a4 ∧ x / 128 % 2 = a5 ∧ x / 32 % 4 = a6 :=
  ⟨by omega, by omega, by omega, by omega, by omega, by omega, by omega, by omega, by omega, by omega⟩

theorem fmt67 (h a0 a1 a2 a3 a4 a5 : Nat) (hh : h < 64) (hi : a0 < 8 ∧ a1 < 4 ∧ a2 < 8 ∧ a3 < 8 ∧ a4 < 128 ∧ a5 < 4 ∧ a0 ≤ 6 ∧ a1 ≤ 2 ∧ (a1 = 0 ∨ a2 = 0)) (x : Nat) (hx : h * 67108864 + a0 * 8388608 + a1 * 2097152 + a2 * 262144 + a3 * 32768 + a4 * 256 + a5 * 32 = x) :
    h * 67108864 + a0 * 8388608 + a1 * 2097152 + a2 * 262144 + a3 * 32768 + a4 * 256 + a5 * 32 < 2 ^ 32 ∧ x / 67108864 % 64 = h ∧ (x / 128 % 2 = 0 ∧ x % 32 = 0 ∧ (x / 8388608 % 8) ≤ 6 ∧ (x / 2097152 % 4) ≤ 2 ∧ ((x / 2097152 % 4) = 0 ∨ (x / 262144 % 8) = 0)) ∧ x / 8388608 % 8 = a0 ∧ x / 2097152 % 4 = a1 ∧ x / 262144 % 8 = a2 ∧ x / 32768 % 8 = a3 ∧ x / 256 % 128 = a4 ∧ x / 32 % 4 = a5 :=
  ⟨by omega, by omega, by omega, by omega, by omega, by omega, by omega, by omega, by omega⟩

theorem fmt68 (h a0 a1 a2 a3 a4 a5 : Nat) (hh : h < 64) (hi : a0 < 8 ∧ a1 < 8 ∧ a2 < 8 ∧ a3 < 2 ∧ a4 < 256 ∧ a5 < 4) (x : Nat) (hx : h * 67108864 + a0 * 8388608 + a1 * 1048576 + a2 * 131072 + a3 * 65536 + a4 * 256 + a5 * 64 = x) :
    h * 67108864 + a0 * 8388608 + a1 * 1048576 + a2 * 131072 + a3 * 65536 + a4 * 256 + a5 * 64 < 2 ^ 32 ∧ x / 67108864 % 64 = h ∧ x % 64 = 0 ∧ x / 8388608 % 8 = a0 ∧ x / 1048576 % 8 = a1 ∧ x / 131072 % 8 = a2 ∧ x / 65536 % 2 = a3 ∧ x / 256 % 256 = a4 ∧ x / 64 % 4 = a5 :=
  ⟨by omega, by omega, by omega, by omega, by omega, by omega, by omega, by omega, by omega⟩

theorem fmt69 (h a0 a1 a2 a3 a4 a5 a6 : Nat) (hh : h < 64) (hi : a0 < 8 ∧ a1 < 8 ∧ a2 < 8 ∧ a3 < 64 ∧ a4 < 2 ∧ a5 < 4 ∧ a6 < 256 ∧ a0 ≤ 6) (x : Nat) (hx : h * 67108864 + a0 * 8388608 + a1 * 1048576 + a2 * 131072 + a3 * 2048 + a4 * 1024 + a5 * 256 + a6 = x) :
    h * 67108864 + a0 * 8388608 + a1 * 1048576 + a2 * 131072 + a3 * 2048 + a4 * 1024 + a5 * 256 + a6 < 2 ^ 32 ∧ x / 67108864 % 64 = h ∧ (x / 8388608 % 8) ≤ 6 ∧ x / 8388608 % 8 = a0 ∧ x / 1048576 % 8 = a1 ∧ x / 131072 % 8 = a2 ∧ x / 2048 % 64 = a3 ∧ x / 1024 % 2 = a4 ∧ x / 256 % 4 = a5 ∧ x % 256 = a6 :=
  ⟨by omega, by omega, by omega, by omega, by omega, by omega, by omega, by omega, by omega, by omega⟩

theorem fmt70 (h a0 a1 a2 : Nat) (hh : h < 64) (hi : a0 < 8 ∧ a1 < 128 ∧ a2 < 4) (x : Nat) (hx : h * 67108864 + a0 * 32768 + a1 * 256 + a2 * 32 = x) :
    h * 67108864 + a0 * 32768 + a1 * 256 + a2 * 32 < 2 ^ 32 ∧ x / 67108864 % 64 = h ∧ (x / 262144 % 256 = 0 ∧ x / 128 % 2 = 0 ∧ x % 32 = 0) ∧ x / 32768 % 8 = a0 ∧ x / 256 % 128 = a1 ∧ x / 32 % 4 = a2 :=
  ⟨by omega, by omega, by omega, by omega, by omega, by omega⟩

theorem fmt71 (h a0 a1 : Nat) (hh : h < 64) (hi : a0 < 4 ∧ a1 < 65536 ∧ a0 ≤ 2) (x : Nat) (hx : h * 67108864 + a0 * 16777216 + a1 = x) :
    h * 67108864 + a0 * 16777216 + a1 < 2 ^ 32 ∧ x / 67108864 % 64 = h ∧ (x / 65536 % 256 = 0 ∧ (x / 16777216 % 4) ≤ 2) ∧ x / 16777216 % 4 = a0 ∧ x % 65536 = a1 :=
  ⟨by omega, by omega, by omega, by omega, by omega⟩

theorem fmt72 (h m a0 a1 : Nat) (hh : h < 64) (hm : m < 4) (hi : a0 < 256 ∧ a1 < 65536) (x : Nat) (hx : h * 67108864 + m * 16777216 + a0 * 65536 + a1 = x) :
    h * 67108864 + m * 16777216 + a0 * 65536 + a1 < 2 ^ 32 ∧ x / 67108864 % 64 = h ∧ x / 16777216 % 4 = m ∧ x / 65536 % 256 = a0 ∧ x % 65536 = a1 :=
  ⟨by omega, by omega, by omega, by omega, by omega⟩

theorem fmt73 (h m a0 : Nat) (hh : h < 64) (hm : m < 4) (hi : a0 < 64) (x : Nat) (hx : h * 67108864 + m * 16777216 + a0 = x) :
    h * 67108864 + m * 16777216 + a0 < 2 ^ 32 ∧ x / 67108864 % 64 = h ∧ x / 16777216 % 4 = m ∧ x / 64 % 262144 = 0 ∧ x % 64 = a0 :=
  ⟨by omega, by omega, by omega, by omega, by omega⟩

theorem fmt74 (h m a0 a1 : Nat) (hh : h < 64) (hm : m < 4) (hi : a0 < 8 ∧ a1 < 65536) (x : Nat) (hx : h * 67108864 + m * 16777216 + a0 * 2097152 + a1 = x) :
    h * 67108864 + m * 16777216 + a0 * 2097152 + a1 < 2 ^ 32 ∧ x / 67108864 % 64 = h ∧ x / 16777216 % 4 = m ∧ x / 65536 % 32 = 0 ∧ x / 2097152 % 8 = a0 ∧ x % 65536 = a1 :=
  ⟨by omega, by omega, by omega, by omega, by omega, by omega⟩

theorem fmt75 (h m a0 : Nat) (hh : h < 64) (hm : m < 4) (hi : a0 < 65536) (x : Nat) (hx : h * 67108864 + m * 16777216 + a0 = x) :
    h * 67108864 + m * 16777216 + a0 < 2 ^ 32 ∧ x / 67108864 % 64 = h ∧ x / 16777216 % 4 = m ∧ x / 65536 % 256 = 0 ∧ x % 65536 = a0 :=
  ⟨by omega, by omega, by omega, by omega, by omega⟩

theorem fmt76 (h a0 a1 a2 a3 a4 a5 a6 : Nat) (hh : h < 64) (hi : a0 < 16 ∧ a1 < 16 ∧ a2 < 16 ∧ a3 < 1024 ∧ a4 < 2 ∧ a5 < 2 ∧ a6 < 2) (x : Nat) (hx : h * 67108864 + a0 * 4194304 + a1 * 262144 + a2 * 16384 + a3 * 16 + a4 * 4 + a5 * 2 + a6 = x) :
    h * 67108864 + a0 * 4194304 + a1 * 262144 + a2 * 16384 + a3 * 16 + a4 * 4 + a5 * 2 + a6 < 2 ^ 32 ∧ x / 67108864 % 64 = h ∧ x / 8 % 2 = 0 ∧ x / 4194304 % 16 = a0 ∧ x / 262144 % 16 = a1 ∧ x / 16384 % 16 = a2 ∧ x / 16 % 1024 = a3 ∧ x / 4 % 2 = a4 ∧ x / 2 % 2 = a5 ∧ x % 2 = a6 :=
  ⟨by omega, by omega, by omega, by omega, by omega, by omega, by omega, by omega, by omega, by omega⟩

theorem fmt77 (h a0 a1 a2 a3 a4 a5 : Nat) (hh : h < 64) (hi : a0 < 16 ∧ a1 < 16 ∧ a2 < 16 ∧ a3 < 1024 ∧ a4 < 2 ∧ a5 < 2) (x : Nat) (hx : h * 67108864 + a0 * 4194304 + a1 * 262144 + a2 * 16384 + a3 * 16 + a4 * 4 + a5 = x) :
    h * 67108864 + a0 * 4194304 + a1 * 262144 + a2 * 16384 + a3 * 16 + a4 * 4 + a5 < 2 ^ 32 ∧ x / 67108864 % 64 = h ∧ (x / 8 % 2 = 0 ∧ x / 2 % 2 = 0) ∧ x / 4194304 % 16 = a0 ∧ x / 262144 % 16 = a1 ∧ x / 16384 % 16 = a2 ∧ x / 16 % 1024 = a3 ∧ x / 4 % 2 = a4 ∧ x % 2 = a5 :=
  ⟨by omega, by omega, by omega, by omega, by omega, by omega, by omega, by omega, by omega⟩

theorem fmt78 (h a0 a1 a2 a3 a4 : Nat) (hh : h < 64) (hi : a0 < 16 ∧ a1 < 16 ∧ a2 < 1024 ∧ a3 < 2 ∧ a4 < 2) (x : Nat) (hx : h * 67108864 + a0 * 4194304 + a1 * 262144 + a2 * 16 + a3 * 4 + a4 * 2 = x) :
    h * 67108864 + a0 * 4194304 + a1 * 262144 + a2 * 16 + a3 * 4 + a4 * 2 < 2 ^ 32 ∧ x / 67108864 % 64 = h ∧ (x / 16384 % 16 = 0 ∧ x / 8 % 2 = 0 ∧ x % 2 = 0) ∧ x / 4194304 % 16 = a0 ∧ x / 262144 % 16 = a1 ∧ x / 16 % 1024 = a2 ∧ x / 4 % 2 = a3 ∧ x / 2 % 2 = a4 :=
  ⟨by omega, by omega, by omega, by omega, by omega, by omega, by omega, by omega⟩

theorem fmt79 (h m a0 a1 a2 a3 : Nat) (hh : h < 64) (hm : m < 4) (hi : a0 < 16 ∧ a1 < 16 ∧ a2 < 16 ∧ a3 < 1024) (x : Nat) (hx : h * 67108864 + m * 4 + a0 * 4194304 + a1 * 262144 + a2 * 16384 + a3 * 16 = x) :
    h * 67108864 + m * 4 + a0 * 4194304 + a1 * 262144 + a2 * 16384 + a3 * 16 < 2 ^ 32 ∧ x / 67108864 % 64 = h ∧ x / 4 % 4 = m ∧ x % 4 = 0 ∧ x / 4194304 % 16 = a0 ∧ x / 262144 % 16 = a1 ∧ x / 16384 % 16 = a2 ∧ x / 16 % 1024 = a3 :=
  ⟨by omega, by omega, by omega, by omega, by omega, by omega, by omega, by omega⟩

theorem fmt80 (h m a0 a1 a2 : Nat) (hh : h < 64) (hm : m < 2) (hi : a0 < 16 ∧ a1 < 16 ∧ a2 < 16) (x : Nat) (hx : h * 67108864 + m * 4 + a0 * 4194304 + a1 * 262144 + a2 * 16384 = x) :
    h * 67108864 + m * 4 + a0 * 4194304 + a1 * 262144 + a2 * 16384 < 2 ^ 32 ∧ x / 67108864 % 64 = h ∧ x / 4 % 2 = m ∧ (x / 8 % 2048 = 0 ∧ x % 4 = 0) ∧ x / 4194304 % 16 = a0 ∧ x / 262144 % 16 = a1 ∧ x / 16384 % 16 = a2 :=
  ⟨by omega, by omega, by omega, by omega, by omega, by omega, by omega⟩

theorem fmt81 (h m a0 a1 : Nat) (hh : h < 64) (hm : m < 2) (hi : a0 < 16 ∧ a1 < 16) (x : Nat) (hx : h * 67108864 + m * 4 + a0 * 4194304 + a1 * 262144 = x) :
    h * 67108864 + m * 4 + a0 * 4194304 + a1 * 262144 < 2 ^ 32 ∧ x / 67108864 % 64 = h ∧ x / 4 % 2 = m ∧ (x / 8 % 32768 = 0 ∧ x % 4 = 0) ∧ x / 4194304 % 16 = a0 ∧ x / 262144 % 16 = a1 :=
  ⟨by omega, by omega, by omega, by omega, by omega, by omega⟩

theorem fmt82 (h m a0 a1 a2 a3 a4 a5 a6 : Nat) (hh : h < 64) (hm : m < 2) (hi : a0 < 16 ∧ a1 < 16 ∧ a2 < 16 ∧ a3 < 1024 ∧ a4 < 2 ∧ a5 < 2 ∧ a6 < 2) (x : Nat) (hx : h * 67108864 + m * 4 + a0 * 4194304 + a1 * 262144 + a2 * 16384 + a3 * 16 + a4 * 8 + a5 * 2 + a6 = x) :
    h * 67108864 + m * 4 + a0 * 4194304 + a1 * 262144 + a2 * 16384 + a3 * 16 + a4 * 8 + a5 * 2 + a6 < 2 ^ 32 ∧ x / 67108864 % 64 = h ∧ x / 4 % 2 = m ∧ x / 4194304 % 16 = a0 ∧ x / 262144 % 16 = a1 ∧ x / 16384 % 16 = a2 ∧ x / 16 % 1024 = a3 ∧ x / 8 % 2 = a4 ∧ x / 2 % 2 = a5 ∧ x % 2 = a6 :=
  ⟨by omega, by omega, by omega, by omega, by omega, by omega, by omega, by omega, by omega, by omega⟩

theorem fmt83 (h a0 a1 a2 : Nat) (hh : h < 64) (hi : a0 < 16 ∧ a1 < 16 ∧ a2 < 1024) (x : Nat) (hx : h * 67108864 + a0 * 4194304 + a1 * 262144 + a2 * 16 = x) :
    h * 67108864 + a0 * 4194304 + a1 * 262144 + a2 * 16 < 2 ^ 32 ∧ x / 67108864 % 64 = h ∧ (x / 16384 % 16 = 0 ∧ x % 16 = 0) ∧ x / 4194304 % 16 = a0 ∧ x / 262144 % 16 = a1 ∧ x / 16 % 1024 = a2 :=
  ⟨by omega, by omega, by omega, by omega, by omega, by omega⟩

theorem fmt84 (h a0 a1 a2 : Nat) (hh : h < 64) (hi : a0 < 16 ∧ a1 < 1024 ∧ a2 < 2) (x : Nat) (hx : h * 67108864 + a0 * 262144 + a1 * 16 + a2 * 4 = x) :
    h * 67108864 + a0 * 262144 + a1 * 16 + a2 * 4 < 2 ^ 32 ∧ x / 67108864 % 64 = h ∧ (x / 4194304 % 16 = 0 ∧ x / 16384 % 16 = 0 ∧ x / 8 % 2 = 0 ∧ x % 4 = 0) ∧ x / 262144 % 16 = a0 ∧ x / 16 % 1024 = a1 ∧ x / 4 % 2 = a2 :=
  ⟨by omega, by omega, by omega, by omega, by omega, by omega⟩

theorem fmt85 (h a0 a1 a2 a3 a4 : Nat) (hh : h < 64) (hi : a0 < 16 ∧ a1 < 16 ∧ a2 < 16 ∧ a3 < 1024 ∧ a4 < 2) (x : Nat) (hx : h * 67108864 + a0 * 4194304 + a1 * 262144 + a2 * 16384 + a3 * 16 + a4 * 4 = x) :
    h * 67108864 + a0 * 4194304 + a1 * 262144 + a2 * 16384 + a3 * 16 + a4 * 4 < 2 ^ 32 ∧ x / 67108864 % 64 = h ∧ (x / 8 % 2 = 0 ∧ x % 4 = 0) ∧ x / 4194304 % 16 = a0 ∧ x / 262144 % 16 = a1 ∧ x / 16384 % 16 = a2 ∧ x / 16 % 1024 = a3 ∧ x / 4 % 2 = a4 :=
  ⟨by omega, by omega, by omega, by omega, by omega, by omega, by omega, by omega⟩

theorem fmt86 (h a0 a1 a2 a3 : Nat) (hh : h < 64) (hi : a0 < 16 ∧ a1 < 16 ∧ a2 < 1024 ∧ a3 < 2) (x : Nat) (hx : h * 67108864 + a0 * 262144 + a1 * 16384 + a2 * 16 + a3 * 4 = x) :
    h * 67108864 + a0 * 262144 + a1 * 16384 + a2 * 16 + a3 * 4 < 2 ^ 32 ∧ x / 67108864 % 64 = h ∧ (x / 4194304 % 16 = 0 ∧ x / 8 % 2 = 0 ∧ x % 4 = 0) ∧ x / 262144 % 16 = a0 ∧ x / 16384 % 16 = a1 ∧ x / 16 % 1024 = a2 ∧ x / 4 % 2 = a3 :=
  ⟨by omega, by omega, by omega, by omega, by omega, by omega, by omega⟩

theorem fmt87 (h a0 a1 a2 a3 a4 a5 : Nat) (hh : h < 64) (hi : a0 < 16 ∧ a1 < 16 ∧ a2 < 16 ∧ a3 < 1024 ∧ a4 < 2 ∧ a5 < 2) (x : Nat) (hx : h * 67108864 + a0 * 4194304 + a1 * 262144 + a2 * 16384 + a3 * 16 + a4 * 8 + a5 * 4 = x) :
    h * 67108864 + a0 * 4194304 + a1 * 262144 + a2 * 16384 + a3 * 16 + a4 * 8 + a5 * 4 < 2 ^ 32 ∧ x / 67108864 % 64 = h ∧ x % 4 = 0 ∧ x / 4194304 % 16 = a0 ∧ x / 262144 % 16 = a1 ∧ x / 16384 % 16 = a2 ∧ x / 16 % 1024 = a3 ∧ x / 8 % 2 = a4 ∧ x / 4 % 2 = a5 :=
  ⟨by omega, by omega, by omega, by omega, by omega, by omega, by omega, by omega, by omega⟩

theorem fmt88 (h a0 a1 a2 a3 : Nat) (hh : h < 64) (hi : a0 < 16 ∧ a1 < 16 ∧ a2 < 16 ∧ a3 < 1024) (x : Nat) (hx : h * 67108864 + a0 * 4194304 + a1 * 262144 + a2 * 16384 + a3 * 16 = x) :
    h * 67108864 + a0 * 4194304 + a1 * 262144 + a2 * 16384 + a3 * 16 < 2 ^ 32 ∧ x / 67108864 % 64 = h ∧ x % 16 = 0 ∧ x / 4194304 % 16 = a0 ∧ x / 262144 % 16 = a1 ∧ x / 16384 % 16 = a2 ∧ x / 16 % 1024 = a3 :=
  ⟨by omega, by omega, by omega, by omega, by omega, by omega, by omega⟩

theorem fmt89 (h a0 a1 : Nat) (hh : h < 64) (hi : a0 < 16 ∧ a1 < 16) (x : Nat) (hx : h * 67108864 + a0 * 262144 + a1 * 16384 = x) :
    h * 67108864 + a0 * 262144 + a1 * 16384 < 2 ^ 32 ∧ x / 67108864 % 64 = h ∧ (x / 4194304 % 16 = 0 ∧ x % 16384 = 0) ∧ x / 262144 % 16 = a0 ∧ x / 16384 % 16 = a1 :=
  ⟨by omega, by omega, by omega, by omega, by omega⟩

theorem fmt90 (h a0 a1 : Nat) (hh : h < 64) (hi : a0 < 16 ∧ a1 < 16) (x : Nat) (hx : h * 67108864 + a0 * 4194304 + a1 * 262144 = x) :
    h * 67108864 + a0 * 4194304 + a1 * 262144 < 2 ^ 32 ∧ x / 67108864 % 64 = h ∧ x % 262144 = 0 ∧ x / 4194304 % 16 = a0 ∧ x / 262144 % 16 = a1 :=
  ⟨by omega, by omega, by omega, by omega, by omega⟩

theorem fmt91 (h a0 a1 : Nat) (hh : h < 64) (hi : a0 < 16 ∧ a1 < 1024) (x : Nat) (hx : h * 67108864 + a0 * 4194304 + a1 * 16 = x) :
    h * 67108864 + a0 * 4194304 + a1 * 16 < 2 ^ 32 ∧ x / 67108864 % 64 = h ∧ (x / 16384 % 256 = 0 ∧ x % 16 = 0) ∧ x / 4194304 % 16 = a0 ∧ x / 16 % 1024 = a1 :=
  ⟨by omega, by omega, by omega, by omega, by omega⟩

theorem fmt92 (h m a0 a1 a2 : Nat) (hh : h < 64) (hm : m < 32) (hi : a0 < 16 ∧ a1 < 16 ∧ a2 < 16) (x : Nat) (hx : h * 67108864 + m * 512 + a0 * 4194304 + a1 * 262144 + a2 * 16384 = x) :
    h * 67108864 + m * 512 + a0 * 4194304 + a1 * 262144 + a2 * 16384 < 2 ^ 32 ∧ x / 67108864 % 64 = h ∧ x / 512 % 32 = m ∧ x % 512 = 0 ∧ x / 4194304 % 16 = a0 ∧ x / 262144 % 16 = a1 ∧ x / 16384 % 16 = a2 :=
  ⟨by omega, by omega, by omega, by omega, by omega, by omega, by omega⟩

theorem fmt93 (h m a0 a1 : Nat) (hh : h < 64) (hm : m < 32) (hi : a0 < 16 ∧ a1 < 16 ∧ a1 ≤ 5) (x : Nat) (hx : h * 67108864 + m * 512 + a0 * 4194304 + a1 * 16384 = x) :
    h * 67108864 + m * 512 + a0 * 4194304 + a1 * 16384 < 2 ^ 32 ∧ x / 67108864 % 64 = h ∧ x / 512 % 32 = m ∧ (x / 262144 % 16 = 0 ∧ x % 512 = 0 ∧ (x / 16384 % 16) ≤ 5) ∧ x / 4194304 % 16 = a0 ∧ x / 16384 % 16 = a1 :=
  ⟨by omega, by omega, by omega, by omega, by omega, by omega⟩

theorem fmt94 (h m a0 a1 : Nat) (hh : h < 64) (hm : m < 32) (hi : a0 < 16 ∧ a1 < 16) (x : Nat) (hx : h * 67108864 + m * 512 + a0 * 4194304 + a1 * 262144 = x) :
    h * 67108864 + m * 512 + a0 * 4194304 + a1 * 262144 < 2 ^ 32 ∧ x / 67108864 % 64 = h ∧ x / 512 % 32 = m ∧ (x / 16384 % 16 = 0 ∧ x % 512 = 0) ∧ x / 4194304 % 16 = a0 ∧ x / 262144 % 16 = a1 :=
  ⟨by omega, by omega, by omega, by omega, by omega, by omega⟩

theorem fmt95 (h m a0 a1 a2 : Nat) (hh : h < 64) (hm : m < 4) (hi : a0 < 16 ∧ a1 < 16 ∧ a2 < 65536) (x : Nat) (hx : h * 67108864 + m * 65536 + a0 * 4194304 + a1 * 262144 + a2 = x) :
    h * 67108864 + m * 65536 + a0 * 4194304 + a1 * 262144 + a2 < 2 ^ 32 ∧ x / 67108864 % 64 = h ∧ x / 65536 % 4 = m ∧ x / 4194304 % 16 = a0 ∧ x / 262144 % 16 = a1 ∧ x % 65536 = a2 :=
  ⟨by omega, by omega, by omega, by omega, by omega, by omega⟩

theorem fmt96 (h m a0 a1 : Nat) (hh : h < 64) (hm : m < 4) (hi : a0 < 16 ∧ a1 < 65536) (x : Nat) (hx : h * 67108864 + m * 65536 + a0 * 4194304 + a1 = x) :
    h * 67108864 + m * 65536 + a0 * 4194304 + a1 < 2 ^ 32 ∧ x / 67108864 % 64 = h ∧ x / 65536 % 4 = m ∧ x / 262144 % 16 = 0 ∧ x / 4194304 % 16 = a0 ∧ x % 65536 = a1 :=
  ⟨by omega, by omega, by omega, by omega, by omega, by omega⟩

theorem fmt97 (h m a0 a1 a2 : Nat) (hh : h < 64) (hm : m < 4) (hi : a0 < 16 ∧ a1 < 16 ∧ a2 < 65536) (x : Nat) (hx : h * 67108864 + m * 16777216 + a0 * 1048576 + a1 * 65536 + a2 = x) :
    h * 67108864 + m * 16777216 + a0 * 1048576 + a1 * 65536 + a2 < 2 ^ 32 ∧ x / 67108864 % 64 = h ∧ x / 16777216 % 4 = m ∧ x / 1048576 % 16 = a0 ∧ x / 65536 % 16 = a1 ∧ x % 65536 = a2 :=
  ⟨by omega, by omega, by omega, by omega, by omega, by omega⟩

theorem fmt98 (h m a0 a1 : Nat) (hh : h < 64) (hm : m < 4) (hi : a0 < 8 ∧ a1 < 16) (x : Nat) (hx : h * 67108864 + m * 16777216 + a0 * 2097152 + a1 * 131072 = x) :
    h * 67108864 + m * 16777216 + a0 * 2097152 + a1 * 131072 < 2 ^ 32 ∧ x / 67108864 % 64 = h ∧ x / 16777216 % 4 = m ∧ x % 131072 = 0 ∧ x / 2097152 % 8 = a0 ∧ x / 131072 % 16 = a1 :=
  ⟨by omega, by omega, by omega, by omega, by omega, by omega⟩

theorem fmt99 (h m a0 a1 : Nat) (hh : h < 64) (hm : m < 4) (hi : a0 < 16 ∧ a1 < 256) (x : Nat) (hx : h * 67108864 + m * 16777216 + a0 * 1048576 + a1 * 4096 = x) :
    h * 67108864 + m * 16777216 + a0 * 1048576 + a1 * 4096 < 2 ^ 32 ∧ x / 67108864 % 64 = h ∧ x / 16777216 % 4 = m ∧ x % 4096 = 0 ∧ x / 1048576 % 16 = a0 ∧ x / 4096 % 256 = a1 :=
  ⟨by omega, by omega, by omega, by omega, by omega, by omega⟩

theorem add (sd : Nat) (sa : Nat) (sb : Nat) : Statement (.add sd sa sb) := by
  rintro u hi ⟨⟩
  replace hi : sd < 32 ∧ sa < 32 ∧ sb < 32 := hi
  have ⟨b0, e1, e2, g, f0, f1, f2⟩ := fmt0 1 0 sd sa sb (by decide) (by decide) hi _ rfl
  refine ⟨_, rfl, b0, ?_⟩
  clear b0; revert e1 e2 g f0 f1 f2; generalize (1 * 67108864 + 0 * 64 + sd * 2097152 + sa * 65536 + sb * 2048 : Nat) = x; intro e1 e2 g f0 f1 f2
  show decodeSq x = _
  rw [decodeSq01_top e1, decodeSq01]; simp only [e2]
  rw [if_pos g, f0, f1, f2]

theorem sub (sd : Nat) (sa : Nat) (sb : Nat) : Statement (.sub sd sa sb) := by
  rintro u hi ⟨⟩
  replace hi : sd < 32 ∧ sa < 32 ∧ sb < 32 := hi
  have ⟨b0, e1, e2, g, f0, f1, f2⟩ := fmt0 1 1 sd sa sb (by decide) (by decide) hi _ rfl
  refine ⟨_, rfl, b0, ?_⟩
  clear b0; revert e1 e2 g f0 f1 f2; generalize (1 * 67108864 + 1 * 64 + sd * 2097152 + sa * 65536 + sb * 2048 : Nat) = x; intro e1 e2 g f0 f1 f2
  show decodeSq x = _
  rw [decodeSq01_top e1, decodeSq01]; simp only [e2]
  rw [if_pos g, f0, f1, f2]

theorem and (sd : Nat) (sa : Nat) (sb : Nat) : Statement (.and sd sa sb) := by
  rintro u hi ⟨⟩
  replace hi : sd < 32 ∧ sa < 32 ∧ sb < 32 := hi
  have ⟨b0, e1, e2, g, f0, f1, f2⟩ := fmt0 1 2 sd sa sb (by decide) (by decide) hi _ rfl
  refine ⟨_, rfl, b0, ?_⟩
  clear b0; revert e1 e2 g f0 f1 f2; generalize (1 * 67108864 + 2 * 64 + sd * 2097152 + sa * 65536 + sb * 2048 : Nat) = x; intro e1 e2 g f0 f1 f2
  show decodeSq x = _
  rw [decodeSq01_top e1, decodeSq01]; simp only [e2]
  rw [if_pos g, f0, f1, f2]

theorem or (sd : Nat) (sa : Nat) (sb : Nat) : Statement (.or sd sa sb) := by
  rintro u hi ⟨⟩
  replace hi : sd < 32 ∧ sa < 32 ∧ sb < 32 := hi
  have ⟨b0, e1, e2, g, f0, f1, f2⟩ := fmt0 1 3 sd sa sb (by decide) (by decide) hi _ rfl
  refine ⟨_, rfl, b0, ?_⟩
  clear b0; revert e1 e2 g f0 f1 f2; generalize (1 * 67108864 + 3 * 64 + sd * 2097152 + sa * 65536 + sb * 2048 : Nat) = x; intro e1 e2 g f0 f1 f2
  show decodeSq x = _
  rw [decodeSq01_top e1, decodeSq01]; simp only [e2]
  rw [if_pos g, f0, f1, f2]

theorem xor (sd : Nat) (sa : Nat) (sb : Nat) : Statement (.xor sd sa sb) := by
  rintro u hi ⟨⟩
  replace hi : sd < 32 ∧ sa < 32 ∧ sb < 32 := hi
  have ⟨b0, e1, e2, g, f0, f1, f2⟩ := fmt0 1 4 sd sa sb (by decide) (by decide) hi _ rfl
  refine ⟨_, rfl, b0, ?_⟩
  clear b0; revert e1 e2 g f0 f1 f2; generalize (1 * 67108864 + 4 * 64 + sd * 2097152 + sa * 65536 + sb * 2048 : Nat) = x; intro e1 e2 g f0 f1 f2
  show decodeSq x = _
  rw [decodeSq01_top e1, decodeSq01]; simp only [e2]
  rw [if_pos g, f0, f1, f2]

theorem sll (sd : Nat) (sa : Nat) (sb : Nat) : Statement (.sll sd sa sb) := by
  rintro u hi ⟨⟩
  replace hi : sd < 32 ∧ sa < 32 ∧ sb < 32 := hi
  have ⟨b0, e1, e2, g, f0, f1, f2⟩ := fmt0 1 5 sd sa sb (by decide) (by decide) hi _ rfl
  refine ⟨_, rfl, b0, ?_⟩
  clear b0; revert e1 e2 g f0 f1 f2; generalize (1 * 67108864 + 5 * 64 + sd * 2097152 + sa * 65536 + sb * 2048 : Nat) = x; intro e1 e2 g f0 f1 f2
  show decodeSq x = _
  rw [decodeSq01_top e1, decodeSq01]; simp only [e2]
  rw [if_pos g, f0, f1, f2]

theorem srl (sd : Nat) (sa : Nat) (sb : Nat) : Statement (.srl sd sa sb) := by
  rintro u hi ⟨⟩
  replace hi : sd < 32 ∧ sa < 32 ∧ sb < 32 := hi
  have ⟨b0, e1, e2, g, f0, f1, f2⟩ := fmt0 1 6 sd sa sb (by decide) (by decide) hi _ rfl
  refine ⟨_, rfl, b0, ?_⟩
  clear b0; revert e1 e2 g f0 f1 f2; generalize (1 * 67108864 + 6 * 64 + sd * 2097152 + sa * 65536 + sb * 2048 : Nat) = x; intro e1 e2 g f0 f1 f2
  show decodeSq x = _
  rw [decodeSq01_top e1, decodeSq01]; simp only [e2]
  rw [if_pos g, f0, f1, f2]

theorem sra (sd : Nat) (sa : Nat) (sb : Nat) : Statement (.sra sd sa sb) := by
  rintro u hi ⟨⟩
  replace hi : sd < 32 ∧ sa < 32 ∧ sb < 32 := hi
  have ⟨b0, e1, e2, g, f0, f1, f2⟩ := fmt0 1 7 sd sa sb (by decide) (by decide) hi _ rfl
  refine ⟨_, rfl, b0, ?_⟩
  clear b0; revert e1 e2 g f0 f1 f2; generalize (1 * 67108864 + 7 * 64 + sd * 2097152 + sa * 65536 + sb * 2048 : Nat) = x; intro e1 e2 g f0 f1 f2
  show decodeSq x = _
  rw [decodeSq01_top e1, decodeSq01]; simp only [e2]
  rw [if_pos g, f0, f1, f2]

theorem slt (sd : Nat) (sa : Nat) (sb : Nat) : Statement (.slt sd sa sb) := by
  rintro u hi ⟨⟩
  replace hi : sd < 32 ∧ sa < 32 ∧ sb < 32 := hi
  have ⟨b0, e1, e2, g, f0, f1, f2⟩ := fmt0 1 8 sd sa sb (by decide) (by decide) hi _ rfl
  refine ⟨_, rfl, b0, ?_⟩
  clear b0; revert e1 e2 g f0 f1 f2; generalize (1 * 67108864 + 8 * 64 + sd * 2097152 + sa * 65536 + sb * 2048 : Nat) = x; intro e1 e2 g f0 f1 f2
  show decodeSq x = _
  rw [decodeSq01_top e1, decodeSq01]; simp only [e2]
  rw [if_pos g, f0, f1, f2]

theorem sltu (sd : Nat) (sa : Nat) (sb : Nat) : Statement (.sltu sd sa sb) := by
  rintro u hi ⟨⟩
  replace hi : sd < 32 ∧ sa < 32 ∧ sb < 32 := hi
  have ⟨b0, e1, e2, g, f0, f1, f2⟩ := fmt0 1 9 sd sa sb (by decide) (by decide) hi _ rfl
  refine ⟨_, rfl, b0, ?_⟩
  clear b0; revert e1 e2 g f0 f1 f2; generalize (1 * 67108864 + 9 * 64 + sd * 2097152 + sa * 65536 + sb * 2048 : Nat) = x; intro e1 e2 g f0 f1 f2
  show decodeSq x = _
  rw [decodeSq01_top e1, decodeSq01]; simp only [e2]
  rw [if_pos g, f0, f1, f2]

theorem min (sd : Nat) (sa : Nat) (sb : Nat) : Statement (.min sd sa sb) := by
  rintro u hi ⟨⟩
  replace hi : sd < 32 ∧ sa < 32 ∧ sb < 32 := hi
  have ⟨b0, e1, e2, g, f0, f1, f2⟩ := fmt0 1 10 sd sa sb (by decide) (by decide) hi _ rfl
  refine ⟨_, rfl, b0, ?_⟩
  clear b0; revert e1 e2 g f0 f1 f2; generalize (1 * 67108864 + 10 * 64 + sd * 2097152 + sa * 65536 + sb * 2048 : Nat) = x; intro e1 e2 g f0 f1 f2
  show decodeSq x = _
  rw [decodeSq01_top e1, decodeSq01]; simp only [e2]
  rw [if_pos g, f0, f1, f2]

theorem max (sd : Nat) (sa : Nat) (sb : Nat) : Statement (.max sd sa sb) := by
  rintro u hi ⟨⟩
  replace hi : sd < 32 ∧ sa < 32 ∧ sb < 32 := hi
  have ⟨b0, e1, e2, g, f0, f1, f2⟩ := fmt0 1 11 sd sa sb (by decide) (by decide) hi _ rfl
  refine ⟨_, rfl, b0, ?_⟩
  clear b0; revert e1 e2 g f0 f1 f2; generalize (1 * 67108864 + 11 * 64 + sd * 2097152 + sa * 65536 + sb * 2048 : Nat) = x; intro e1 e2 g f0 f1 f2
  show decodeSq x = _
  rw [decodeSq01_top e1, decodeSq01]; simp only [e2]
  rw [if_pos g, f0, f1, f2]

theorem minu (sd : Nat) (sa : Nat) (sb : Nat) : Statement (.minu sd sa sb) := by
  rintro u hi ⟨⟩
  replace hi : sd < 32 ∧ sa < 32 ∧ sb < 32 := hi
  have ⟨b0, e1, e2, g, f0, f1, f2⟩ := fmt0 1 12 sd sa sb (by decide) (by decide) hi _ rfl
  refine ⟨_, rfl, b0, ?_⟩
  clear b0; revert e1 e2 g f0 f1 f2; generalize (1 * 67108864 + 12 * 64 + sd * 2097152 + sa * 65536 + sb * 2048 : Nat) = x; intro e1 e2 g f0 f1 f2
  show decodeSq x = _
  rw [decodeSq01_top e1, decodeSq01]; simp only [e2]
  rw [if_pos g, f0, f1, f2]

theorem maxu (sd : Nat) (sa : Nat) (sb : Nat) : Statement (.maxu sd sa sb) := by
  rintro u hi ⟨⟩
  replace hi : sd < 32 ∧ sa < 32 ∧ sb < 32 := hi
  have ⟨b0, e1, e2, g, f0, f1, f2⟩ := fmt0 1 13 sd sa sb (by decide) (by decide) hi _ rfl
  refine ⟨_, rfl, b0, ?_⟩
  clear b0; revert e1 e2 g f0 f1 f2; generalize (1 * 67108864 + 13 * 64 + sd * 2097152 + sa * 65536 + sb * 2048 : Nat) = x; intro e1 e2 g f0 f1 f2
  show decodeSq x = _
  rw [decodeSq01_top e1, decodeSq01]; simp only [e2]
  rw [if_pos g, f0, f1, f2]

theorem sextI8 (sd : Nat) (sa : Nat) : Statement (.sextI8 sd sa) := by
  rintro u hi ⟨⟩
  replace hi : sd < 32 ∧ sa < 32 := hi
  have ⟨b0, e1, e2, g, f0, f1⟩ := fmt1 1 14 sd sa (by decide) (by decide) hi _ rfl
  refine ⟨_, rfl, b0, ?_⟩
  clear b0; revert e1 e2 g f0 f1; generalize (1 * 67108864 + 14 * 64 + sd * 2097152 + sa * 65536 : Nat) = x; intro e1 e2 g f0 f1
  show decodeSq x = _
  rw [decodeSq01_top e1, decodeSq01]; simp only [e2]
  rw [if_pos g, f0, f1]

theorem sextI16 (sd : Nat) (sa : Nat) : Statement (.sextI16 sd sa) := by
  rintro u hi ⟨⟩
  replace hi : sd < 32 ∧ sa < 32 := hi
  have ⟨b0, e1, e2, g, f0, f1⟩ := fmt1 1 15 sd sa (by decide) (by decide) hi _ rfl
  refine ⟨_, rfl, b0, ?_⟩
  clear b0; revert e1 e2 g f0 f1; generalize (1 * 67108864 + 15 * 64 + sd * 2097152 + sa * 65536 : Nat) = x; intro e1 e2 g f0 f1
  show decodeSq x = _
  rw [decodeSq01_top e1, decodeSq01]; simp only [e2]
  rw [if_pos g, f0, f1]

theorem sextI32 (sd : Nat) (sa : Nat) : Statement (.sextI32 sd sa) := by
  rintro u hi ⟨⟩
  replace hi : sd < 32 ∧ sa < 32 := hi
  have ⟨b0, e1, e2, g, f0, f1⟩ := fmt1 1 16 sd sa (by decide) (by decide) hi _ rfl
  refine ⟨_, rfl, b0, ?_⟩
  clear b0; revert e1 e2 g f0 f1; generalize (1 * 67108864 + 16 * 64 + sd * 2097152 + sa * 65536 : Nat) = x; intro e1 e2 g f0 f1
  show decodeSq x = _
  rw [decodeSq01_top e1, decodeSq01]; simp only [e2]
  rw [if_pos g, f0, f1]

theorem zextN8 (sd : Nat) (sa : Nat) : Statement (.zextN8 sd sa) := by
  rintro u hi ⟨⟩
  replace hi : sd < 32 ∧ sa < 32 := hi
  have ⟨b0, e1, e2, g, f0, f1⟩ := fmt1 1 17 sd sa (by decide) (by decide) hi _ rfl
  refine ⟨_, rfl, b0, ?_⟩
  clear b0; revert e1 e2 g f0 f1; generalize (1 * 67108864 + 17 * 64 + sd * 2097152 + sa * 65536 : Nat) = x; intro e1 e2 g f0 f1
  show decodeSq x = _
  rw [decodeSq01_top e1, decodeSq01]; simp only [e2]
  rw [if_pos g, f0, f1]

theorem zextN16 (sd : Nat) (sa : Nat) : Statement (.zextN16 sd sa) := by
  rintro u hi ⟨⟩
  replace hi : sd < 32 ∧ sa < 32 := hi
  have ⟨b0, e1, e2, g, f0, f1⟩ := fmt1 1 18 sd sa (by decide) (by decide) hi _ rfl
  refine ⟨_, rfl, b0, ?_⟩
  clear b0; revert e1 e2 g f0 f1; generalize (1 * 67108864 + 18 * 64 + sd * 2097152 + sa * 65536 : Nat) = x; intro e1 e2 g f0 f1
  show decodeSq x = _
  rw [decodeSq01_top e1, decodeSq01]; simp only [e2]
  rw [if_pos g, f0, f1]

theorem zextN32 (sd : Nat) (sa : Nat) : Statement (.zextN32 sd sa) := by
  rintro u hi ⟨⟩
  replace hi : sd < 32 ∧ sa < 32 := hi
  have ⟨b0, e1, e2, g, f0, f1⟩ := fmt1 1 19 sd sa (by decide) (by decide) hi _ rfl
  refine ⟨_, rfl, b0, ?_⟩
  clear b0; revert e1 e2 g f0 f1; generalize (1 * 67108864 + 19 * 64 + sd * 2097152 + sa * 65536 : Nat) = x; intro e1 e2 g f0 f1
  show decodeSq x = _
  rw [decodeSq01_top e1, decodeSq01]; simp only [e2]
  rw [if_pos g, f0, f1]

theorem clz (sd : Nat) (sa : Nat) : Statement (.clz sd sa) := by
  rintro u hi ⟨⟩
  replace hi : sd < 32 ∧ sa < 32 := hi
  have ⟨b0, e1, e2, g, f0, f1⟩ := fmt1 1 20 sd sa (by decide) (by decide) hi _ rfl
  refine ⟨_, rfl, b0, ?_⟩
  clear b0; revert e1 e2 g f0 f1; generalize (1 * 67108864 + 20 * 64 + sd * 2097152 + sa * 65536 : Nat) = x; intro e1 e2 g f0 f1
  show decodeSq x = _
  rw [decodeSq01_top e1, decodeSq01]; simp only [e2]
  rw [if_pos g, f0, f1]

theorem ctz (sd : Nat) (sa : Nat) : Statement (.ctz sd sa) := by
  rintro u hi ⟨⟩
  replace hi : sd < 32 ∧ sa < 32 := hi
  have ⟨b0, e1, e2, g, f0, f1⟩ := fmt1 1 21 sd sa (by decide) (by decide) hi _ rfl
  refine ⟨_, rfl, b0, ?_⟩
  clear b0; revert e1 e2 g f0 f1; generalize (1 * 67108864 + 21 * 64 + sd * 2097152 + sa * 65536 : Nat) = x; intro e1 e2 g f0 f1
  show decodeSq x = _
  rw [decodeSq01_top e1, decodeSq01]; simp only [e2]
  rw [if_pos g, f0, f1]

theorem popc (sd : Nat) (sa : Nat) : Statement (.popc sd sa) := by
  rintro u hi ⟨⟩
  replace hi : sd < 32 ∧ sa < 32 := hi
  have ⟨b0, e1, e2, g, f0, f1⟩ := fmt1 1 22 sd sa (by decide) (by decide) hi _ rfl
  refine ⟨_, rfl, b0, ?_⟩
  clear b0; revert e1 e2 g f0 f1; generalize (1 * 67108864 + 22 * 64 + sd * 2097152 + sa * 65536 : Nat) = x; intro e1 e2 g f0 f1
  show decodeSq x = _
  rw [decodeSq01_top e1, decodeSq01]; simp only [e2]
  rw [if_pos g, f0, f1]

theorem mul (sd : Nat) (sa : Nat) (sb : Nat) : Statement (.mul sd sa sb) := by
  rintro u hi ⟨⟩
  replace hi : sd < 32 ∧ sa < 32 ∧ sb < 32 := hi
  have ⟨b0, e1, e2, g, f0, f1, f2⟩ := fmt0 2 0 sd sa sb (by decide) (by decide) hi _ rfl
  refine ⟨_, rfl, b0, ?_⟩
  clear b0; revert e1 e2 g f0 f1 f2; generalize (2 * 67108864 + 0 * 64 + sd * 2097152 + sa * 65536 + sb * 2048 : Nat) = x; intro e1 e2 g f0 f1 f2
  show decodeSq x = _
  rw [decodeSq02_top e1, decodeSq02]; simp only [e2]
  rw [if_pos g, f0, f1, f2]

theorem mulh (sd : Nat) (sa : Nat) (sb : Nat) : Statement (.mulh sd sa sb) := by
  rintro u hi ⟨⟩
  replace hi : sd < 32 ∧ sa < 32 ∧ sb < 32 := hi
  have ⟨b0, e1, e2, g, f0, f1, f2⟩ := fmt0 2 1 sd sa sb (by decide) (by decide) hi _ rfl
  refine ⟨_, rfl, b0, ?_⟩
  clear b0; revert e1 e2 g f0 f1 f2; generalize (2 * 67108864 + 1 * 64 + sd * 2097152 + sa * 65536 + sb * 2048 : Nat) = x; intro e1 e2 g f0 f1 f2
  show decodeSq x = _
  rw [decodeSq02_top e1, decodeSq02]; simp only [e2]
  rw [if_pos g, f0, f1, f2]

theorem mulhu (sd : Nat) (sa : Nat) (sb : Nat) : Statement (.mulhu sd sa sb) := by
  rintro u hi ⟨⟩
  replace hi : sd < 32 ∧ sa < 32 ∧ sb < 32 := hi
  have ⟨b0, e1, e2, g, f0, f1, f2⟩ := fmt0 2 2 sd sa sb (by decide) (by decide) hi _ rfl
  refine ⟨_, rfl, b0, ?_⟩
  clear b0; revert e1 e2 g f0 f1 f2; generalize (2 * 67108864 + 2 * 64 + sd * 2097152 + sa * 65536 + sb * 2048 : Nat) = x; intro e1 e2 g f0 f1 f2
  show decodeSq x = _
  rw [decodeSq02_top e1, decodeSq02]; simp only [e2]
  rw [if_pos g, f0, f1, f2]

theorem div (sd : Nat) (sa : Nat) (sb : Nat) : Statement (.div sd sa sb) := by
  rintro u hi ⟨⟩
  replace hi : sd < 32 ∧ sa < 32 ∧ sb < 32 := hi
  have ⟨b0, e1, e2, g, f0, f1, f2⟩ := fmt0 2 3 sd sa sb (by decide) (by decide) hi _ rfl
  refine ⟨_, rfl, b0, ?_⟩
  clear b0; revert e1 e2 g f0 f1 f2; generalize (2 * 67108864 + 3 * 64 + sd * 2097152 + sa * 65536 + sb * 2048 : Nat) = x; intro e1 e2 g f0 f1 f2
  show decodeSq x = _
  rw [decodeSq02_top e1, decodeSq02]; simp only [e2]
  rw [if_pos g, f0, f1, f2]

theorem divu (sd : Nat) (sa : Nat) (sb : Nat) : Statement (.divu sd sa sb) := by
  rintro u hi ⟨⟩
  replace hi : sd < 32 ∧ sa < 32 ∧ sb < 32 := hi
  have ⟨b0, e1, e2, g, f0, f1, f2⟩ := fmt0 2 4 sd sa sb (by decide) (by decide) hi _ rfl
  refine ⟨_, rfl, b0, ?_⟩
  clear b0; revert e1 e2 g f0 f1 f2; generalize (2 * 67108864 + 4 * 64 + sd * 2097152 + sa * 65536 + sb * 2048 : Nat) = x; intro e1 e2 g f0 f1 f2
  show decodeSq x = _
  rw [decodeSq02_top e1, decodeSq02]; simp only [e2]
  rw [if_pos g, f0, f1, f2]

theorem rem (sd : Nat) (sa : Nat) (sb : Nat) : Statement (.rem sd sa sb) := by
  rintro u hi ⟨⟩
  replace hi : sd < 32 ∧ sa < 32 ∧ sb < 32 := hi
  have ⟨b0, e1, e2, g, f0, f1, f2⟩ := fmt0 2 5 sd sa sb (by decide) (by decide) hi _ rfl
  refine ⟨_, rfl, b0, ?_⟩
  clear b0; revert e1 e2 g f0 f1 f2; generalize (2 * 67108864 + 5 * 64 + sd * 2097152 + sa * 65536 + sb * 2048 : Nat) = x; intro e1 e2 g f0 f1 f2
  show decodeSq x = _
  rw [decodeSq02_top e1, decodeSq02]; simp only [e2]
  rw [if_pos g, f0, f1, f2]

theorem remu (sd : Nat) (sa : Nat) (sb : Nat) : Statement (.remu sd sa sb) := by
  rintro u hi ⟨⟩
  replace hi : sd < 32 ∧ sa < 32 ∧ sb < 32 := hi
  have ⟨b0, e1, e2, g, f0, f1, f2⟩ := fmt0 2 6 sd sa sb (by decide) (by decide) hi _ rfl
  refine ⟨_, rfl, b0, ?_⟩
  clear b0; revert e1 e2 g f0 f1 f2; generalize (2 * 67108864 + 6 * 64 + sd * 2097152 + sa * 65536 + sb * 2048 : Nat) = x; intro e1 e2 g f0 f1 f2
  show decodeSq x = _
  rw [decodeSq02_top e1, decodeSq02]; simp only [e2]
  rw [if_pos g, f0, f1, f2]

theorem addi (sd : Nat) (sa : Nat) (imm : Nat) : Statement (.addi sd sa imm) := by
  rintro u hi ⟨⟩
  replace hi : sd < 32 ∧ sa < 32 ∧ imm < 65536 := hi
  have ⟨b0, e1, f0, f1, f2⟩ := fmt2 3 sd sa imm (by decide) hi _ rfl
  refine ⟨_, rfl, b0, ?_⟩
  clear b0; revert e1 f0 f1 f2; generalize (3 * 67108864 + sd * 2097152 + sa * 65536 + imm : Nat) = x; intro e1 f0 f1 f2
  show decodeSq x = _
  rw [decodeSq, if_neg (not_void e1 (by decide) (by decide))]; simp only [e1]
  rw [f0, f1, f2]

theorem andi (sd : Nat) (sa : Nat) (imm : Nat) : Statement (.andi sd sa imm) := by
  rintro u hi ⟨⟩
  replace hi : sd < 32 ∧ sa < 32 ∧ imm < 65536 := hi
  have ⟨b0, e1, f0, f1, f2⟩ := fmt2 4 sd sa imm (by decide) hi _ rfl
  refine ⟨_, rfl, b0, ?_⟩
  clear b0; revert e1 f0 f1 f2; generalize (4 * 67108864 + sd * 2097152 + sa * 65536 + imm : Nat) = x; intro e1 f0 f1 f2
  show decodeSq x = _
  rw [decodeSq, if_neg (not_void e1 (by decide) (by decide))]; simp only [e1]
  rw [f0, f1, f2]

theorem ori (sd : Nat) (sa : Nat) (imm : Nat) : Statement (.ori sd sa imm) := by
  rintro u hi ⟨⟩
  replace hi : sd < 32 ∧ sa < 32 ∧ imm < 65536 := hi
  have ⟨b0, e1, f0, f1, f2⟩ := fmt2 5 sd sa imm (by decide) hi _ rfl
  refine ⟨_, rfl, b0, ?_⟩
  clear b0; revert e1 f0 f1 f2; generalize (5 * 67108864 + sd * 2097152 + sa * 65536 + imm : Nat) = x; intro e1 f0 f1 f2
  show decodeSq x = _
  rw [decodeSq, if_neg (not_void e1 (by decide) (by decide))]; simp only [e1]
  rw [f0, f1, f2]

theorem xori (sd : Nat) (sa : Nat) (imm : Nat) : Statement (.xori sd sa imm) := by
  rintro u hi ⟨⟩
  replace hi : sd < 32 ∧ sa < 32 ∧ imm < 65536 := hi
  have ⟨b0, e1, f0, f1, f2⟩ := fmt2 6 sd sa imm (by decide) hi _ rfl
  refine ⟨_, rfl, b0, ?_⟩
  clear b0; revert e1 f0 f1 f2; generalize (6 * 67108864 + sd * 2097152 + sa * 65536 + imm : Nat) = x; intro e1 f0 f1 f2
  show decodeSq x = _
  rw [decodeSq, if_neg (not_void e1 (by decide) (by decide))]; simp only [e1]
  rw [f0, f1, f2]

theorem slti (sd : Nat) (sa : Nat) (imm : Nat) : Statement (.slti sd sa imm) := by
  rintro u hi ⟨⟩
  replace hi : sd < 32 ∧ sa < 32 ∧ imm < 65536 := hi
  have ⟨b0, e1, f0, f1, f2⟩ := fmt2 7 sd sa imm (by decide) hi _ rfl
  refine ⟨_, rfl, b0, ?_⟩
  clear b0; revert e1 f0 f1 f2; generalize (7 * 67108864 + sd * 2097152 + sa * 65536 + imm : Nat) = x; intro e1 f0 f1 f2
  show decodeSq x = _
  rw [decodeSq, if_neg (not_void e1 (by decide) (by decide))]; simp only [e1]
  rw [f0, f1, f2]

theorem sltiu (sd : Nat) (sa : Nat) (imm : Nat) : Statement (.sltiu sd sa imm) := by
  rintro u hi ⟨⟩
  replace hi : sd < 32 ∧ sa < 32 ∧ imm < 65536 := hi
  have ⟨b0, e1, f0, f1, f2⟩ := fmt2 8 sd sa imm (by decide) hi _ rfl
  refine ⟨_, rfl, b0, ?_⟩
  clear b0; revert e1 f0 f1 f2; generalize (8 * 67108864 + sd * 2097152 + sa * 65536 + imm : Nat) = x; intro e1 f0 f1 f2
  show decodeSq x = _
  rw [decodeSq, if_neg (not_void e1 (by decide) (by decide))]; simp only [e1]
  rw [f0, f1, f2]

theorem slli (sd : Nat) (sa : Nat) (sh : Nat) : Statement (.slli sd sa sh) := by
  rintro u hi ⟨⟩
  replace hi : sd < 32 ∧ sa < 32 ∧ sh < 64 := hi
  have ⟨b0, e1, e2, g, f0, f1, f2⟩ := fmt3 9 0 sd sa sh (by decide) (by decide) hi _ rfl
  refine ⟨_, rfl, b0, ?_⟩
  clear b0; revert e1 e2 g f0 f1 f2; generalize (9 * 67108864 + 0 * 16384 + sd * 2097152 + sa * 65536 + sh : Nat) = x; intro e1 e2 g f0 f1 f2
  show decodeSq x = _
  rw [decodeSq09_top e1, decodeSq09]; simp only [e2]
  rw [if_pos g, f0, f1, f2]

theorem srli (sd : Nat) (sa : Nat) (sh : Nat) : Statement (.srli sd sa sh) := by
  rintro u hi ⟨⟩
  replace hi : sd < 32 ∧ sa < 32 ∧ sh < 64 := hi
  have ⟨b0, e1, e2, g, f0, f1, f2⟩ := fmt3 9 1 sd sa sh (by decide) (by decide) hi _ rfl
  refine ⟨_, rfl, b0, ?_⟩
  clear b0; revert e1 e2 g f0 f1 f2; generalize (9 * 67108864 + 1 * 16384 + sd * 2097152 + sa * 65536 + sh : Nat) = x; intro e1 e2 g f0 f1 f2
  show decodeSq x = _
  rw [decodeSq09_top e1, decodeSq09]; simp only [e2]
  rw [if_pos g, f0, f1, f2]

theorem srai (sd : Nat) (sa : Nat) (sh : Nat) : Statement (.srai sd sa sh) := by
  rintro u hi ⟨⟩
  replace hi : sd < 32 ∧ sa < 32 ∧ sh < 64 := hi
  have ⟨b0, e1, e2, g, f0, f1, f2⟩ := fmt3 9 2 sd sa sh (by decide) (by decide) hi _ rfl
  refine ⟨_, rfl, b0, ?_⟩
  clear b0; revert e1 e2 g f0 f1 f2; generalize (9 * 67108864 + 2 * 16384 + sd * 2097152 + sa * 65536 + sh : Nat) = x; intro e1 e2 g f0 f1 f2
  show decodeSq x = _
  rw [decodeSq09_top e1, decodeSq09]; simp only [e2]
  rw [if_pos g, f0, f1, f2]

theorem lui (sd : Nat) (imm : Nat) : Statement (.lui sd imm) := by
  rintro u hi ⟨⟩
  replace hi : sd < 32 ∧ imm < 65536 := hi
  have ⟨b0, e1, g, f0, f1⟩ := fmt4 10 sd imm (by decide) hi _ rfl
  refine ⟨_, rfl, b0, ?_⟩
  clear b0; revert e1 g f0 f1; generalize (10 * 67108864 + sd * 2097152 + imm : Nat) = x; intro e1 g f0 f1
  show decodeSq x = _
  rw [decodeSq, if_neg (not_void e1 (by decide) (by decide))]; simp only [e1]
  rw [if_pos g, f0, f1]

theorem orhi (sd : Nat) (sa : Nat) (imm : Nat) : Statement (.orhi sd sa imm) := by
  rintro u hi ⟨⟩
  replace hi : sd < 32 ∧ sa < 32 ∧ imm < 65536 := hi
  have ⟨b0, e1, f0, f1, f2⟩ := fmt2 11 sd sa imm (by decide) hi _ rfl
  refine ⟨_, rfl, b0, ?_⟩
  clear b0; revert e1 f0 f1 f2; generalize (11 * 67108864 + sd * 2097152 + sa * 65536 + imm : Nat) = x; intro e1 f0 f1 f2
  show decodeSq x = _
  rw [decodeSq, if_neg (not_void e1 (by decide) (by decide))]; simp only [e1]
  rw [f0, f1, f2]

theorem ld (sd : Nat) (sa : Nat) (ty : Nat) (off : Nat) : Statement (.ld sd sa ty off) := by
  rintro u hi ⟨⟩
  replace hi : sd < 32 ∧ sa < 32 ∧ ty < 8 ∧ off < 8192 := hi
  have ⟨b0, e1, f0, f1, f2, f3⟩ := fmt5 16 sd sa ty off (by decide) hi _ rfl
  refine ⟨_, rfl, b0, ?_⟩
  clear b0; revert e1 f0 f1 f2 f3; generalize (16 * 67108864 + sd * 2097152 + sa * 65536 + ty * 8192 + off : Nat) = x; intro e1 f0 f1 f2 f3
  show decodeSq x = _
  rw [decodeSq, if_neg (not_void e1 (by decide) (by decide))]; simp only [e1]
  rw [f0, f1, f2, f3]

theorem st (sv : Nat) (sa : Nat) (ty : Nat) (off : Nat) : Statement (.st sv sa ty off) := by
  rintro u hi ⟨⟩
  replace hi : sv < 32 ∧ sa < 32 ∧ ty < 4 ∧ off < 8192 := hi
  have ⟨b0, e1, g, f0, f1, f2, f3⟩ := fmt6 17 sv sa ty off (by decide) hi _ rfl
  refine ⟨_, rfl, b0, ?_⟩
  clear b0; revert e1 g f0 f1 f2 f3; generalize (17 * 67108864 + sv * 2097152 + sa * 65536 + ty * 8192 + off : Nat) = x; intro e1 g f0 f1 f2 f3
  show decodeSq x = _
  rw [decodeSq, if_neg (not_void e1 (by decide) (by decide))]; simp only [e1]
  rw [if_pos g, f0, f1, f2, f3]

theorem ldx (sd : Nat) (sa : Nat) (sb : Nat) (ty : Nat) : Statement (.ldx sd sa sb ty) := by
  rintro u hi ⟨⟩
  replace hi : sd < 32 ∧ sa < 32 ∧ sb < 32 ∧ ty < 8 := hi
  have ⟨b0, e1, g, f0, f1, f2, f3⟩ := fmt7 18 sd sa sb ty (by decide) hi _ rfl
  refine ⟨_, rfl, b0, ?_⟩
  clear b0; revert e1 g f0 f1 f2 f3; generalize (18 * 67108864 + sd * 2097152 + sa * 65536 + sb * 2048 + ty * 256 : Nat) = x; intro e1 g f0 f1 f2 f3
  show decodeSq x = _
  rw [decodeSq, if_neg (not_void e1 (by decide) (by decide))]; simp only [e1]
  rw [if_pos g, f0, f1, f2, f3]

theorem stx (sv : Nat) (sa : Nat) (sb : Nat) (ty : Nat) : Statement (.stx sv sa sb ty) := by
  rintro u hi ⟨⟩
  replace hi : sv < 32 ∧ sa < 32 ∧ sb < 32 ∧ ty < 4 := hi
  have ⟨b0, e1, g, f0, f1, f2, f3⟩ := fmt8 19 sv sa sb ty (by decide) hi _ rfl
  refine ⟨_, rfl, b0, ?_⟩
  clear b0; revert e1 g f0 f1 f2 f3; generalize (19 * 67108864 + sv * 2097152 + sa * 65536 + sb * 2048 + ty * 256 : Nat) = x; intro e1 g f0 f1 f2 f3
  show decodeSq x = _
  rw [decodeSq, if_neg (not_void e1 (by decide) (by decide))]; simp only [e1]
  rw [if_pos g, f0, f1, f2, f3]

theorem amoAdd (sd : Nat) (sa : Nat) (sb : Nat) (w : Nat) (ord : Nat) (scope : Nat) : Statement (.amoAdd sd sa sb w ord scope) := by
  rintro u hi ⟨⟩
  replace hi : sd < 32 ∧ sa < 32 ∧ sb < 32 ∧ w < 2 ∧ ord < 4 ∧ scope < 8 ∧ scope ≤ 4 := hi
  have ⟨b0, e1, e2, g, f0, f1, f2, f3, f4, f5⟩ := fmt9 24 0 sd sa sb w ord scope (by decide) (by decide) hi _ rfl
  refine ⟨_, rfl, b0, ?_⟩
  clear b0; revert e1 e2 g f0 f1 f2 f3 f4 f5; generalize (24 * 67108864 + 0 * 128 + sd * 2097152 + sa * 65536 + sb * 2048 + w * 64 + ord * 16 + scope * 2 : Nat) = x; intro e1 e2 g f0 f1 f2 f3 f4 f5
  show decodeSq x = _
  rw [decodeSq18_top e1, decodeSq18]; simp only [e2]
  rw [if_pos g, f0, f1, f2, f3, f4, f5]

theorem amoAnd (sd : Nat) (sa : Nat) (sb : Nat) (w : Nat) (ord : Nat) (scope : Nat) : Statement (.amoAnd sd sa sb w ord scope) := by
  rintro u hi ⟨⟩
  replace hi : sd < 32 ∧ sa < 32 ∧ sb < 32 ∧ w < 2 ∧ ord < 4 ∧ scope < 8 ∧ scope ≤ 4 := hi
  have ⟨b0, e1, e2, g, f0, f1, f2, f3, f4, f5⟩ := fmt9 24 1 sd sa sb w ord scope (by decide) (by decide) hi _ rfl
  refine ⟨_, rfl, b0, ?_⟩
  clear b0; revert e1 e2 g f0 f1 f2 f3 f4 f5; generalize (24 * 67108864 + 1 * 128 + sd * 2097152 + sa * 65536 + sb * 2048 + w * 64 + ord * 16 + scope * 2 : Nat) = x; intro e1 e2 g f0 f1 f2 f3 f4 f5
  show decodeSq x = _
  rw [decodeSq18_top e1, decodeSq18]; simp only [e2]
  rw [if_pos g, f0, f1, f2, f3, f4, f5]

theorem amoOr (sd : Nat) (sa : Nat) (sb : Nat) (w : Nat) (ord : Nat) (scope : Nat) : Statement (.amoOr sd sa sb w ord scope) := by
  rintro u hi ⟨⟩
  replace hi : sd < 32 ∧ sa < 32 ∧ sb < 32 ∧ w < 2 ∧ ord < 4 ∧ scope < 8 ∧ scope ≤ 4 := hi
  have ⟨b0, e1, e2, g, f0, f1, f2, f3, f4, f5⟩ := fmt9 24 2 sd sa sb w ord scope (by decide) (by decide) hi _ rfl
  refine ⟨_, rfl, b0, ?_⟩
  clear b0; revert e1 e2 g f0 f1 f2 f3 f4 f5; generalize (24 * 67108864 + 2 * 128 + sd * 2097152 + sa * 65536 + sb * 2048 + w * 64 + ord * 16 + scope * 2 : Nat) = x; intro e1 e2 g f0 f1 f2 f3 f4 f5
  show decodeSq x = _
  rw [decodeSq18_top e1, decodeSq18]; simp only [e2]
  rw [if_pos g, f0, f1, f2, f3, f4, f5]

theorem amoXor (sd : Nat) (sa : Nat) (sb : Nat) (w : Nat) (ord : Nat) (scope : Nat) : Statement (.amoXor sd sa sb w ord scope) := by
  rintro u hi ⟨⟩
  replace hi : sd < 32 ∧ sa < 32 ∧ sb < 32 ∧ w < 2 ∧ ord < 4 ∧ scope < 8 ∧ scope ≤ 4 := hi
  have ⟨b0, e1, e2, g, f0, f1, f2, f3, f4, f5⟩ := fmt9 24 3 sd sa sb w ord scope (by decide) (by decide) hi _ rfl
  refine ⟨_, rfl, b0, ?_⟩
  clear b0; revert e1 e2 g f0 f1 f2 f3 f4 f5; generalize (24 * 67108864 + 3 * 128 + sd * 2097152 + sa * 65536 + sb * 2048 + w * 64 + ord * 16 + scope * 2 : Nat) = x; intro e1 e2 g f0 f1 f2 f3 f4 f5
  show decodeSq x = _
  rw [decodeSq18_top e1, decodeSq18]; simp only [e2]
  rw [if_pos g, f0, f1, f2, f3, f4, f5]

theorem amoMin (sd : Nat) (sa : Nat) (sb : Nat) (w : Nat) (ord : Nat) (scope : Nat) : Statement (.amoMin sd sa sb w ord scope) := by
  rintro u hi ⟨⟩
  replace hi : sd < 32 ∧ sa < 32 ∧ sb < 32 ∧ w < 2 ∧ ord < 4 ∧ scope < 8 ∧ scope ≤ 4 := hi
  have ⟨b0, e1, e2, g, f0, f1, f2, f3, f4, f5⟩ := fmt9 24 4 sd sa sb w ord scope (by decide) (by decide) hi _ rfl
  refine ⟨_, rfl, b0, ?_⟩
  clear b0; revert e1 e2 g f0 f1 f2 f3 f4 f5; generalize (24 * 67108864 + 4 * 128 + sd * 2097152 + sa * 65536 + sb * 2048 + w * 64 + ord * 16 + scope * 2 : Nat) = x; intro e1 e2 g f0 f1 f2 f3 f4 f5
  show decodeSq x = _
  rw [decodeSq18_top e1, decodeSq18]; simp only [e2]
  rw [if_pos g, f0, f1, f2, f3, f4, f5]

theorem amoMax (sd : Nat) (sa : Nat) (sb : Nat) (w : Nat) (ord : Nat) (scope : Nat) : Statement (.amoMax sd sa sb w ord scope) := by
  rintro u hi ⟨⟩
  replace hi : sd < 32 ∧ sa < 32 ∧ sb < 32 ∧ w < 2 ∧ ord < 4 ∧ scope < 8 ∧ scope ≤ 4 := hi
  have ⟨b0, e1, e2, g, f0, f1, f2, f3, f4, f5⟩ := fmt9 24 5 sd sa sb w ord scope (by decide) (by decide) hi _ rfl
  refine ⟨_, rfl, b0, ?_⟩
  clear b0; revert e1 e2 g f0 f1 f2 f3 f4 f5; generalize (24 * 67108864 + 5 * 128 + sd * 2097152 + sa * 65536 + sb * 2048 + w * 64 + ord * 16 + scope * 2 : Nat) = x; intro e1 e2 g f0 f1 f2 f3 f4 f5
  show decodeSq x = _
  rw [decodeSq18_top e1, decodeSq18]; simp only [e2]
  rw [if_pos g, f0, f1, f2, f3, f4, f5]

theorem amoMinu (sd : Nat) (sa : Nat) (sb : Nat) (w : Nat) (ord : Nat) (scope : Nat) : Statement (.amoMinu sd sa sb w ord scope) := by
  rintro u hi ⟨⟩
  replace hi : sd < 32 ∧ sa < 32 ∧ sb < 32 ∧ w < 2 ∧ ord < 4 ∧ scope < 8 ∧ scope ≤ 4 := hi
  have ⟨b0, e1, e2, g, f0, f1, f2, f3, f4, f5⟩ := fmt9 24 6 sd sa sb w ord scope (by decide) (by decide) hi _ rfl
  refine ⟨_, rfl, b0, ?_⟩
  clear b0; revert e1 e2 g f0 f1 f2 f3 f4 f5; generalize (24 * 67108864 + 6 * 128 + sd * 2097152 + sa * 65536 + sb * 2048 + w * 64 + ord * 16 + scope * 2 : Nat) = x; intro e1 e2 g f0 f1 f2 f3 f4 f5
  show decodeSq x = _
  rw [decodeSq18_top e1, decodeSq18]; simp only [e2]
  rw [if_pos g, f0, f1, f2, f3, f4, f5]

theorem amoMaxu (sd : Nat) (sa : Nat) (sb : Nat) (w : Nat) (ord : Nat) (scope : Nat) : Statement (.amoMaxu sd sa sb w ord scope) := by
  rintro u hi ⟨⟩
  replace hi : sd < 32 ∧ sa < 32 ∧ sb < 32 ∧ w < 2 ∧ ord < 4 ∧ scope < 8 ∧ scope ≤ 4 := hi
  have ⟨b0, e1, e2, g, f0, f1, f2, f3, f4, f5⟩ := fmt9 24 7 sd sa sb w ord scope (by decide) (by decide) hi _ rfl
  refine ⟨_, rfl, b0, ?_⟩
  clear b0; revert e1 e2 g f0 f1 f2 f3 f4 f5; generalize (24 * 67108864 + 7 * 128 + sd * 2097152 + sa * 65536 + sb * 2048 + w * 64 + ord * 16 + scope * 2 : Nat) = x; intro e1 e2 g f0 f1 f2 f3 f4 f5
  show decodeSq x = _
  rw [decodeSq18_top e1, decodeSq18]; simp only [e2]
  rw [if_pos g, f0, f1, f2, f3, f4, f5]

theorem amoSwap (sd : Nat) (sa : Nat) (sb : Nat) (w : Nat) (ord : Nat) (scope : Nat) : Statement (.amoSwap sd sa sb w ord scope) := by
  rintro u hi ⟨⟩
  replace hi : sd < 32 ∧ sa < 32 ∧ sb < 32 ∧ w < 2 ∧ ord < 4 ∧ scope < 8 ∧ scope ≤ 4 := hi
  have ⟨b0, e1, e2, g, f0, f1, f2, f3, f4, f5⟩ := fmt9 24 8 sd sa sb w ord scope (by decide) (by decide) hi _ rfl
  refine ⟨_, rfl, b0, ?_⟩
  clear b0; revert e1 e2 g f0 f1 f2 f3 f4 f5; generalize (24 * 67108864 + 8 * 128 + sd * 2097152 + sa * 65536 + sb * 2048 + w * 64 + ord * 16 + scope * 2 : Nat) = x; intro e1 e2 g f0 f1 f2 f3 f4 f5
  show decodeSq x = _
  rw [decodeSq18_top e1, decodeSq18]; simp only [e2]
  rw [if_pos g, f0, f1, f2, f3, f4, f5]

theorem amoCas (sd : Nat) (sa : Nat) (sb : Nat) (w : Nat) (ord : Nat) (scope : Nat) : Statement (.amoCas sd sa sb w ord scope) := by
  rintro u hi ⟨⟩
  replace hi : sd < 32 ∧ sa < 32 ∧ sb < 32 ∧ w < 2 ∧ ord < 4 ∧ scope < 8 ∧ scope ≤ 4 := hi
  have ⟨b0, e1, g, f0, f1, f2, f3, f4, f5⟩ := fmt10 25 sd sa sb w ord scope (by decide) hi _ rfl
  refine ⟨_, rfl, b0, ?_⟩
  clear b0; revert e1 g f0 f1 f2 f3 f4 f5; generalize (25 * 67108864 + sd * 2097152 + sa * 65536 + sb * 2048 + w * 64 + ord * 16 + scope * 2 : Nat) = x; intro e1 g f0 f1 f2 f3 f4 f5
  show decodeSq x = _
  rw [decodeSq, if_neg (not_void e1 (by decide) (by decide))]; simp only [e1]
  rw [if_pos g, f0, f1, f2, f3, f4, f5]

theorem fenceC (mask : Nat) : Statement (.fenceC mask) := by
  rintro u hi ⟨⟩
  replace hi : mask < 65536 := hi
  have ⟨b0, e1, e2, g, f0⟩ := fmt11 28 0 mask (by decide) (by decide) hi _ rfl
  refine ⟨_, rfl, b0, ?_⟩
  clear b0; revert e1 e2 g f0; generalize (28 * 67108864 + 0 * 1048576 + mask : Nat) = x; intro e1 e2 g f0
  show decodeSq x = _
  rw [decodeSq1C_top e1, decodeSq1C]; simp only [e2]
  rw [if_pos g, f0]

theorem fenceAcq (scope : Nat) (mask : Nat) : Statement (.fenceAcq scope mask) := by
  rintro u hi ⟨⟩
  replace hi : scope < 8 ∧ mask < 65536 ∧ scope ≤ 4 := hi
  have ⟨b0, e1, e2, g, f0, f1⟩ := fmt12 28 1 scope mask (by decide) (by decide) hi _ rfl
  refine ⟨_, rfl, b0, ?_⟩
  clear b0; revert e1 e2 g f0 f1; generalize (28 * 67108864 + 1 * 1048576 + scope * 131072 + mask : Nat) = x; intro e1 e2 g f0 f1
  show decodeSq x = _
  rw [decodeSq1C_top e1, decodeSq1C]; simp only [e2]
  rw [if_pos g, f0, f1]

theorem fenceRel (scope : Nat) (mask : Nat) : Statement (.fenceRel scope mask) := by
  rintro u hi ⟨⟩
  replace hi : scope < 8 ∧ mask < 65536 ∧ scope ≤ 4 := hi
  have ⟨b0, e1, e2, g, f0, f1⟩ := fmt12 28 2 scope mask (by decide) (by decide) hi _ rfl
  refine ⟨_, rfl, b0, ?_⟩
  clear b0; revert e1 e2 g f0 f1; generalize (28 * 67108864 + 2 * 1048576 + scope * 131072 + mask : Nat) = x; intro e1 e2 g f0 f1
  show decodeSq x = _
  rw [decodeSq1C_top e1, decodeSq1C]; simp only [e2]
  rw [if_pos g, f0, f1]

theorem fenceAcqrel (scope : Nat) (mask : Nat) : Statement (.fenceAcqrel scope mask) := by
  rintro u hi ⟨⟩
  replace hi : scope < 8 ∧ mask < 65536 ∧ scope ≤ 4 := hi
  have ⟨b0, e1, e2, g, f0, f1⟩ := fmt12 28 3 scope mask (by decide) (by decide) hi _ rfl
  refine ⟨_, rfl, b0, ?_⟩
  clear b0; revert e1 e2 g f0 f1; generalize (28 * 67108864 + 3 * 1048576 + scope * 131072 + mask : Nat) = x; intro e1 e2 g f0 f1
  show decodeSq x = _
  rw [decodeSq1C_top e1, decodeSq1C]; simp only [e2]
  rw [if_pos g, f0, f1]

theorem sqSemSig (scope : Nat) (sem : Nat) : Statement (.sqSemSig scope sem) := by
  rintro u hi ⟨⟩
  replace hi : scope < 8 ∧ sem < 64 ∧ scope ≤ 2 := hi
  have ⟨b0, e1, e2, g, f0, f1⟩ := fmt13 29 0 scope sem (by decide) (by decide) hi _ rfl
  refine ⟨_, rfl, b0, ?_⟩
  clear b0; revert e1 e2 g f0 f1; generalize (29 * 67108864 + 0 * 16777216 + scope * 2097152 + sem : Nat) = x; intro e1 e2 g f0 f1
  show decodeSq x = _
  rw [decodeSq1D_top e1, decodeSq1D]; simp only [e2]
  rw [if_pos g, f0, f1]

theorem sqSemWait (scope : Nat) (sem : Nat) : Statement (.sqSemWait scope sem) := by
  rintro u hi ⟨⟩
  replace hi : scope < 8 ∧ sem < 64 ∧ scope ≤ 2 := hi
  have ⟨b0, e1, e2, g, f0, f1⟩ := fmt13 29 1 scope sem (by decide) (by decide) hi _ rfl
  refine ⟨_, rfl, b0, ?_⟩
  clear b0; revert e1 e2 g f0 f1; generalize (29 * 67108864 + 1 * 16777216 + scope * 2097152 + sem : Nat) = x; intro e1 e2 g f0 f1
  show decodeSq x = _
  rw [decodeSq1D_top e1, decodeSq1D]; simp only [e2]
  rw [if_pos g, f0, f1]

theorem semSigr (sa : Nat) (sd : Nat) (sem : Nat) : Statement (.semSigr sa sd sem) := by
  rintro u hi ⟨⟩
  replace hi : sa < 32 ∧ sd < 32 ∧ sem < 64 := hi
  have ⟨b0, e1, e2, g, f0, f1, f2⟩ := fmt14 29 2 sa sd sem (by decide) (by decide) hi _ rfl
  refine ⟨_, rfl, b0, ?_⟩
  clear b0; revert e1 e2 g f0 f1 f2; generalize (29 * 67108864 + 2 * 16777216 + sa * 65536 + sd * 2048 + sem : Nat) = x; intro e1 e2 g f0 f1 f2
  show decodeSq x = _
  rw [decodeSq1D_top e1, decodeSq1D]; simp only [e2]
  rw [if_pos g, f0, f1, f2]

theorem sqTlWait (tl : Nat) (sa : Nat) : Statement (.sqTlWait tl sa) := by
  rintro u hi ⟨⟩
  replace hi : tl < 8 ∧ sa < 32 := hi
  have ⟨b0, e1, e2, g, f0, f1⟩ := fmt15 30 0 tl sa (by decide) (by decide) hi _ rfl
  refine ⟨_, rfl, b0, ?_⟩
  clear b0; revert e1 e2 g f0 f1; generalize (30 * 67108864 + 0 * 16777216 + tl * 2097152 + sa * 65536 : Nat) = x; intro e1 e2 g f0 f1
  show decodeSq x = _
  rw [decodeSq1E_top e1, decodeSq1E]; simp only [e2]
  rw [if_pos g, f0, f1]

theorem tlRd (tl : Nat) (sd : Nat) : Statement (.tlRd tl sd) := by
  rintro u hi ⟨⟩
  replace hi : tl < 8 ∧ sd < 32 := hi
  have ⟨b0, e1, e2, g, f0, f1⟩ := fmt16 30 1 tl sd (by decide) (by decide) hi _ rfl
  refine ⟨_, rfl, b0, ?_⟩
  clear b0; revert e1 e2 g f0 f1; generalize (30 * 67108864 + 1 * 16777216 + tl * 2097152 + sd * 2048 : Nat) = x; intro e1 e2 g f0 f1
  show decodeSq x = _
  rw [decodeSq1E_top e1, decodeSq1E]; simp only [e2]
  rw [if_pos g, f0, f1]

theorem tlRdi (tl : Nat) (sd : Nat) : Statement (.tlRdi tl sd) := by
  rintro u hi ⟨⟩
  replace hi : tl < 8 ∧ sd < 32 := hi
  have ⟨b0, e1, e2, g, f0, f1⟩ := fmt16 30 2 tl sd (by decide) (by decide) hi _ rfl
  refine ⟨_, rfl, b0, ?_⟩
  clear b0; revert e1 e2 g f0 f1; generalize (30 * 67108864 + 2 * 16777216 + tl * 2097152 + sd * 2048 : Nat) = x; intro e1 e2 g f0 f1
  show decodeSq x = _
  rw [decodeSq1E_top e1, decodeSq1E]; simp only [e2]
  rw [if_pos g, f0, f1]

theorem tlErr (tl : Nat) (sd : Nat) : Statement (.tlErr tl sd) := by
  rintro u hi ⟨⟩
  replace hi : tl < 8 ∧ sd < 32 := hi
  have ⟨b0, e1, e2, g, f0, f1⟩ := fmt16 30 3 tl sd (by decide) (by decide) hi _ rfl
  refine ⟨_, rfl, b0, ?_⟩
  clear b0; revert e1 e2 g f0 f1; generalize (30 * 67108864 + 3 * 16777216 + tl * 2097152 + sd * 2048 : Nat) = x; intro e1 e2 g f0 f1
  show decodeSq x = _
  rw [decodeSq1E_top e1, decodeSq1E]; simp only [e2]
  rw [if_pos g, f0, f1]

theorem sqBarInit (sa : Nat) (sb : Nat) : Statement (.sqBarInit sa sb) := by
  rintro u hi ⟨⟩
  replace hi : sa < 32 ∧ sb < 32 := hi
  have ⟨b0, e1, e2, g, f0, f1⟩ := fmt17 31 0 sa sb (by decide) (by decide) hi _ rfl
  refine ⟨_, rfl, b0, ?_⟩
  clear b0; revert e1 e2 g f0 f1; generalize (31 * 67108864 + 0 * 16777216 + sa * 65536 + sb * 2048 : Nat) = x; intro e1 e2 g f0 f1
  show decodeSq x = _
  rw [decodeSq1F_top e1, decodeSq1F]; simp only [e2]
  rw [if_pos g, f0, f1]

theorem sqBarWait (sa : Nat) (sd : Nat) : Statement (.sqBarWait sa sd) := by
  rintro u hi ⟨⟩
  replace hi : sa < 32 ∧ sd < 32 := hi
  have ⟨b0, e1, e2, g, f0, f1⟩ := fmt18 31 1 sa sd (by decide) (by decide) hi _ rfl
  refine ⟨_, rfl, b0, ?_⟩
  clear b0; revert e1 e2 g f0 f1; generalize (31 * 67108864 + 1 * 16777216 + sa * 65536 + sd * 64 : Nat) = x; intro e1 e2 g f0 f1
  show decodeSq x = _
  rw [decodeSq1F_top e1, decodeSq1F]; simp only [e2]
  rw [if_pos g, f0, f1]

theorem rinv (sa : Nat) (sb : Nat) : Statement (.rinv sa sb) := by
  rintro u hi ⟨⟩
  replace hi : sa < 32 ∧ sb < 32 := hi
  have ⟨b0, e1, e2, g, f0, f1⟩ := fmt17 31 2 sa sb (by decide) (by decide) hi _ rfl
  refine ⟨_, rfl, b0, ?_⟩
  clear b0; revert e1 e2 g f0 f1; generalize (31 * 67108864 + 2 * 16777216 + sa * 65536 + sb * 2048 : Nat) = x; intro e1 e2 g f0 f1
  show decodeSq x = _
  rw [decodeSq1F_top e1, decodeSq1F]; simp only [e2]
  rw [if_pos g, f0, f1]

theorem beq (sa : Nat) (sb : Nat) (off : Nat) : Statement (.beq sa sb off) := by
  rintro u hi ⟨⟩
  replace hi : sa < 32 ∧ sb < 32 ∧ off < 65536 := hi
  have ⟨b0, e1, f0, f1, f2⟩ := fmt2 32 sa sb off (by decide) hi _ rfl
  refine ⟨_, rfl, b0, ?_⟩
  clear b0; revert e1 f0 f1 f2; generalize (32 * 67108864 + sa * 2097152 + sb * 65536 + off : Nat) = x; intro e1 f0 f1 f2
  show decodeSq x = _
  rw [decodeSq, if_neg (not_void e1 (by decide) (by decide))]; simp only [e1]
  rw [f0, f1, f2]

theorem bne (sa : Nat) (sb : Nat) (off : Nat) : Statement (.bne sa sb off) := by
  rintro u hi ⟨⟩
  replace hi : sa < 32 ∧ sb < 32 ∧ off < 65536 := hi
  have ⟨b0, e1, f0, f1, f2⟩ := fmt2 33 sa sb off (by decide) hi _ rfl
  refine ⟨_, rfl, b0, ?_⟩
  clear b0; revert e1 f0 f1 f2; generalize (33 * 67108864 + sa * 2097152 + sb * 65536 + off : Nat) = x; intro e1 f0 f1 f2
  show decodeSq x = _
  rw [decodeSq, if_neg (not_void e1 (by decide) (by decide))]; simp only [e1]
  rw [f0, f1, f2]

theorem blt (sa : Nat) (sb : Nat) (off : Nat) : Statement (.blt sa sb off) := by
  rintro u hi ⟨⟩
  replace hi : sa < 32 ∧ sb < 32 ∧ off < 65536 := hi
  have ⟨b0, e1, f0, f1, f2⟩ := fmt2 34 sa sb off (by decide) hi _ rfl
  refine ⟨_, rfl, b0, ?_⟩
  clear b0; revert e1 f0 f1 f2; generalize (34 * 67108864 + sa * 2097152 + sb * 65536 + off : Nat) = x; intro e1 f0 f1 f2
  show decodeSq x = _
  rw [decodeSq, if_neg (not_void e1 (by decide) (by decide))]; simp only [e1]
  rw [f0, f1, f2]

theorem bge (sa : Nat) (sb : Nat) (off : Nat) : Statement (.bge sa sb off) := by
  rintro u hi ⟨⟩
  replace hi : sa < 32 ∧ sb < 32 ∧ off < 65536 := hi
  have ⟨b0, e1, f0, f1, f2⟩ := fmt2 35 sa sb off (by decide) hi _ rfl
  refine ⟨_, rfl, b0, ?_⟩
  clear b0; revert e1 f0 f1 f2; generalize (35 * 67108864 + sa * 2097152 + sb * 65536 + off : Nat) = x; intro e1 f0 f1 f2
  show decodeSq x = _
  rw [decodeSq, if_neg (not_void e1 (by decide) (by decide))]; simp only [e1]
  rw [f0, f1, f2]

theorem bltu (sa : Nat) (sb : Nat) (off : Nat) : Statement (.bltu sa sb off) := by
  rintro u hi ⟨⟩
  replace hi : sa < 32 ∧ sb < 32 ∧ off < 65536 := hi
  have ⟨b0, e1, f0, f1, f2⟩ := fmt2 36 sa sb off (by decide) hi _ rfl
  refine ⟨_, rfl, b0, ?_⟩
  clear b0; revert e1 f0 f1 f2; generalize (36 * 67108864 + sa * 2097152 + sb * 65536 + off : Nat) = x; intro e1 f0 f1 f2
  show decodeSq x = _
  rw [decodeSq, if_neg (not_void e1 (by decide) (by decide))]; simp only [e1]
  rw [f0, f1, f2]

theorem bgeu (sa : Nat) (sb : Nat) (off : Nat) : Statement (.bgeu sa sb off) := by
  rintro u hi ⟨⟩
  replace hi : sa < 32 ∧ sb < 32 ∧ off < 65536 := hi
  have ⟨b0, e1, f0, f1, f2⟩ := fmt2 37 sa sb off (by decide) hi _ rfl
  refine ⟨_, rfl, b0, ?_⟩
  clear b0; revert e1 f0 f1 f2; generalize (37 * 67108864 + sa * 2097152 + sb * 65536 + off : Nat) = x; intro e1 f0 f1 f2
  show decodeSq x = _
  rw [decodeSq, if_neg (not_void e1 (by decide) (by decide))]; simp only [e1]
  rw [f0, f1, f2]

theorem jal (sd : Nat) (off : Nat) : Statement (.jal sd off) := by
  rintro u hi ⟨⟩
  replace hi : sd < 32 ∧ off < 524288 := hi
  have ⟨b0, e1, e2, f0, f1⟩ := fmt19 38 0 sd off (by decide) (by decide) hi _ rfl
  refine ⟨_, rfl, b0, ?_⟩
  clear b0; revert e1 e2 f0 f1; generalize (38 * 67108864 + 0 * 16777216 + sd * 524288 + off : Nat) = x; intro e1 e2 f0 f1
  show decodeSq x = _
  rw [decodeSq26_top e1, decodeSq26]; simp only [e2]
  rw [f0, f1]

theorem jalr (sd : Nat) (sa : Nat) (off : Nat) : Statement (.jalr sd sa off) := by
  rintro u hi ⟨⟩
  replace hi : sd < 32 ∧ sa < 32 ∧ off < 16384 := hi
  have ⟨b0, e1, e2, f0, f1, f2⟩ := fmt20 38 1 sd sa off (by decide) (by decide) hi _ rfl
  refine ⟨_, rfl, b0, ?_⟩
  clear b0; revert e1 e2 f0 f1 f2; generalize (38 * 67108864 + 1 * 16777216 + sd * 524288 + sa * 16384 + off : Nat) = x; intro e1 e2 f0 f1 f2
  show decodeSq x = _
  rw [decodeSq26_top e1, decodeSq26]; simp only [e2]
  rw [f0, f1, f2]

theorem jtab (sd : Nat) (sa : Nat) (off : Nat) : Statement (.jtab sd sa off) := by
  rintro u hi ⟨⟩
  replace hi : sd < 32 ∧ sa < 32 ∧ off < 16384 := hi
  have ⟨b0, e1, e2, f0, f1, f2⟩ := fmt20 38 2 sd sa off (by decide) (by decide) hi _ rfl
  refine ⟨_, rfl, b0, ?_⟩
  clear b0; revert e1 e2 f0 f1 f2; generalize (38 * 67108864 + 2 * 16777216 + sd * 524288 + sa * 16384 + off : Nat) = x; intro e1 e2 f0 f1 f2
  show decodeSq x = _
  rw [decodeSq26_top e1, decodeSq26]; simp only [e2]
  rw [f0, f1, f2]

theorem sqLbr (lev : Nat) (off : Nat) : Statement (.sqLbr lev off) := by
  rintro u hi ⟨⟩
  replace hi : lev < 8 ∧ off < 65536 ∧ lev ≤ 5 := hi
  have ⟨b0, e1, g, f0, f1⟩ := fmt21 39 lev off (by decide) hi _ rfl
  refine ⟨_, rfl, b0, ?_⟩
  clear b0; revert e1 g f0 f1; generalize (39 * 67108864 + lev * 8388608 + off : Nat) = x; intro e1 g f0 f1
  show decodeSq x = _
  rw [decodeSq, if_neg (not_void e1 (by decide) (by decide))]; simp only [e1]
  rw [if_pos g, f0, f1]

theorem cbPub (sd : Nat) (sa : Nat) (sb : Nat) : Statement (.cbPub sd sa sb) := by
  rintro u hi ⟨⟩
  replace hi : sd < 32 ∧ sa < 32 ∧ sb < 32 := hi
  have ⟨b0, e1, e2, g, f0, f1, f2⟩ := fmt22 40 0 sd sa sb (by decide) (by decide) hi _ rfl
  refine ⟨_, rfl, b0, ?_⟩
  clear b0; revert e1 e2 g f0 f1 f2; generalize (40 * 67108864 + 0 * 16777216 + sd * 524288 + sa * 16384 + sb * 512 : Nat) = x; intro e1 e2 g f0 f1 f2
  show decodeSq x = _
  rw [decodeSq28_top e1, decodeSq28]; simp only [e2]
  rw [if_pos g, f0, f1, f2]

theorem cbPin (sd : Nat) (sa : Nat) (sb : Nat) : Statement (.cbPin sd sa sb) := by
  rintro u hi ⟨⟩
  replace hi : sd < 32 ∧ sa < 32 ∧ sb < 32 := hi
  have ⟨b0, e1, e2, g, f0, f1, f2⟩ := fmt22 40 1 sd sa sb (by decide) (by decide) hi _ rfl
  refine ⟨_, rfl, b0, ?_⟩
  clear b0; revert e1 e2 g f0 f1 f2; generalize (40 * 67108864 + 1 * 16777216 + sd * 524288 + sa * 16384 + sb * 512 : Nat) = x; intro e1 e2 g f0 f1 f2
  show decodeSq x = _
  rw [decodeSq28_top e1, decodeSq28]; simp only [e2]
  rw [if_pos g, f0, f1, f2]

theorem cbUnpin (sd : Nat) (sa : Nat) (sb : Nat) : Statement (.cbUnpin sd sa sb) := by
  rintro u hi ⟨⟩
  replace hi : sd < 32 ∧ sa < 32 ∧ sb < 32 := hi
  have ⟨b0, e1, e2, g, f0, f1, f2⟩ := fmt22 40 2 sd sa sb (by decide) (by decide) hi _ rfl
  refine ⟨_, rfl, b0, ?_⟩
  clear b0; revert e1 e2 g f0 f1 f2; generalize (40 * 67108864 + 2 * 16777216 + sd * 524288 + sa * 16384 + sb * 512 : Nat) = x; intro e1 e2 g f0 f1 f2
  show decodeSq x = _
  rw [decodeSq28_top e1, decodeSq28]; simp only [e2]
  rw [if_pos g, f0, f1, f2]

theorem lrPatch (sd : Nat) (sa : Nat) (sb : Nat) (field : Nat) : Statement (.lrPatch sd sa sb field) := by
  rintro u hi ⟨⟩
  replace hi : sd < 32 ∧ sa < 32 ∧ sb < 32 ∧ field < 64 ∧ field ≤ 6 := hi
  have ⟨b0, e1, e2, g, f0, f1, f2, f3⟩ := fmt23 41 0 sd sa sb field (by decide) (by decide) hi _ rfl
  refine ⟨_, rfl, b0, ?_⟩
  clear b0; revert e1 e2 g f0 f1 f2 f3; generalize (41 * 67108864 + 0 * 16777216 + sd * 524288 + sa * 16384 + sb * 512 + field : Nat) = x; intro e1 e2 g f0 f1 f2 f3
  show decodeSq x = _
  rw [decodeSq29_top e1, decodeSq29]; simp only [e2]
  rw [if_pos g, f0, f1, f2, f3]

theorem lrArm (sd : Nat) (sa : Nat) (sb : Nat) : Statement (.lrArm sd sa sb) := by
  rintro u hi ⟨⟩
  replace hi : sd < 32 ∧ sa < 32 ∧ sb < 32 := hi
  have ⟨b0, e1, e2, g, f0, f1, f2⟩ := fmt22 41 1 sd sa sb (by decide) (by decide) hi _ rfl
  refine ⟨_, rfl, b0, ?_⟩
  clear b0; revert e1 e2 g f0 f1 f2; generalize (41 * 67108864 + 1 * 16777216 + sd * 524288 + sa * 16384 + sb * 512 : Nat) = x; intro e1 e2 g f0 f1 f2
  show decodeSq x = _
  rw [decodeSq29_top e1, decodeSq29]; simp only [e2]
  rw [if_pos g, f0, f1, f2]

theorem asgWr (sa : Nat) (rsel : Nat) : Statement (.asgWr sa rsel) := by
  rintro u hi ⟨⟩
  replace hi : sa < 32 ∧ rsel < 16 ∧ rsel ≤ 3 := hi
  have ⟨b0, e1, e2, g, f0, f1⟩ := fmt24 44 0 sa rsel (by decide) (by decide) hi _ rfl
  refine ⟨_, rfl, b0, ?_⟩
  clear b0; revert e1 e2 g f0 f1; generalize (44 * 67108864 + 0 * 256 + sa * 65536 + rsel * 16 : Nat) = x; intro e1 e2 g f0 f1
  show decodeSq x = _
  rw [decodeSq2C_top e1, decodeSq2C]; simp only [e2]
  rw [if_pos g, f0, f1]

theorem asgRd (sd : Nat) (rsel : Nat) : Statement (.asgRd sd rsel) := by
  rintro u hi ⟨⟩
  replace hi : sd < 32 ∧ rsel < 16 ∧ rsel ≤ 5 := hi
  have ⟨b0, e1, e2, g, f0, f1⟩ := fmt25 44 1 sd rsel (by decide) (by decide) hi _ rfl
  refine ⟨_, rfl, b0, ?_⟩
  clear b0; revert e1 e2 g f0 f1; generalize (44 * 67108864 + 1 * 256 + sd * 2097152 + rsel * 16 : Nat) = x; intro e1 e2 g f0 f1
  show decodeSq x = _
  rw [decodeSq2C_top e1, decodeSq2C]; simp only [e2]
  rw [if_pos g, f0, f1]

theorem asgPget (sd : Nat) (sa : Nat) : Statement (.asgPget sd sa) := by
  rintro u hi ⟨⟩
  replace hi : sd < 32 ∧ sa < 32 := hi
  have ⟨b0, e1, e2, g, f0, f1⟩ := fmt26 44 2 sd sa (by decide) (by decide) hi _ rfl
  refine ⟨_, rfl, b0, ?_⟩
  clear b0; revert e1 e2 g f0 f1; generalize (44 * 67108864 + 2 * 256 + sd * 2097152 + sa * 65536 : Nat) = x; intro e1 e2 g f0 f1
  show decodeSq x = _
  rw [decodeSq2C_top e1, decodeSq2C]; simp only [e2]
  rw [if_pos g, f0, f1]

theorem asgPput (sa : Nat) (sb : Nat) : Statement (.asgPput sa sb) := by
  rintro u hi ⟨⟩
  replace hi : sa < 32 ∧ sb < 32 := hi
  have ⟨b0, e1, e2, g, f0, f1⟩ := fmt27 44 3 sa sb (by decide) (by decide) hi _ rfl
  refine ⟨_, rfl, b0, ?_⟩
  clear b0; revert e1 e2 g f0 f1; generalize (44 * 67108864 + 3 * 256 + sa * 65536 + sb * 2048 : Nat) = x; intro e1 e2 g f0 f1
  show decodeSq x = _
  rw [decodeSq2C_top e1, decodeSq2C]; simp only [e2]
  rw [if_pos g, f0, f1]

theorem asgPfill (sa : Nat) : Statement (.asgPfill sa) := by
  rintro u hi ⟨⟩
  replace hi : sa < 32 := hi
  have ⟨b0, e1, e2, g, f0⟩ := fmt28 44 4 sa (by decide) (by decide) hi _ rfl
  refine ⟨_, rfl, b0, ?_⟩
  clear b0; revert e1 e2 g f0; generalize (44 * 67108864 + 4 * 256 + sa * 65536 : Nat) = x; intro e1 e2 g f0
  show decodeSq x = _
  rw [decodeSq2C_top e1, decodeSq2C]; simp only [e2]
  rw [if_pos g, f0]

theorem asgRun (sd : Nat) (sa : Nat) : Statement (.asgRun sd sa) := by
  rintro u hi ⟨⟩
  replace hi : sd < 32 ∧ sa < 32 := hi
  have ⟨b0, e1, e2, g, f0, f1⟩ := fmt26 45 0 sd sa (by decide) (by decide) hi _ rfl
  refine ⟨_, rfl, b0, ?_⟩
  clear b0; revert e1 e2 g f0 f1; generalize (45 * 67108864 + 0 * 256 + sd * 2097152 + sa * 65536 : Nat) = x; intro e1 e2 g f0 f1
  show decodeSq x = _
  rw [decodeSq2D_top e1, decodeSq2D]; simp only [e2]
  rw [if_pos g, f0, f1]

theorem asgPld (sd : Nat) (sa : Nat) (sb : Nat) : Statement (.asgPld sd sa sb) := by
  rintro u hi ⟨⟩
  replace hi : sd < 32 ∧ sa < 32 ∧ sb < 32 := hi
  have ⟨b0, e1, e2, g, f0, f1, f2⟩ := fmt29 45 1 sd sa sb (by decide) (by decide) hi _ rfl
  refine ⟨_, rfl, b0, ?_⟩
  clear b0; revert e1 e2 g f0 f1 f2; generalize (45 * 67108864 + 1 * 256 + sd * 2097152 + sa * 65536 + sb * 2048 : Nat) = x; intro e1 e2 g f0 f1 f2
  show decodeSq x = _
  rw [decodeSq2D_top e1, decodeSq2D]; simp only [e2]
  rw [if_pos g, f0, f1, f2]

theorem asgPst (sd : Nat) (sa : Nat) (sb : Nat) : Statement (.asgPst sd sa sb) := by
  rintro u hi ⟨⟩
  replace hi : sd < 32 ∧ sa < 32 ∧ sb < 32 := hi
  have ⟨b0, e1, e2, g, f0, f1, f2⟩ := fmt29 45 2 sd sa sb (by decide) (by decide) hi _ rfl
  refine ⟨_, rfl, b0, ?_⟩
  clear b0; revert e1 e2 g f0 f1 f2; generalize (45 * 67108864 + 2 * 256 + sd * 2097152 + sa * 65536 + sb * 2048 : Nat) = x; intro e1 e2 g f0 f1 f2
  show decodeSq x = _
  rw [decodeSq2D_top e1, decodeSq2D]; simp only [e2]
  rw [if_pos g, f0, f1, f2]

theorem cxCopy (sd : Nat) (sa : Nat) (cx : Nat) : Statement (.cxCopy sd sa cx) := by
  rintro u hi ⟨⟩
  replace hi : sd < 32 ∧ sa < 32 ∧ cx < 4 := hi
  have ⟨b0, e1, g, f0, f1, f2⟩ := fmt30 46 sd sa cx (by decide) hi _ rfl
  refine ⟨_, rfl, b0, ?_⟩
  clear b0; revert e1 g f0 f1 f2; generalize (46 * 67108864 + sd * 2097152 + sa * 65536 + cx * 16384 : Nat) = x; intro e1 g f0 f1 f2
  show decodeSq x = _
  rw [decodeSq, if_neg (not_void e1 (by decide) (by decide))]; simp only [e1]
  rw [if_pos g, f0, f1, f2]

theorem cxProg (sd : Nat) (cx : Nat) : Statement (.cxProg sd cx) := by
  rintro u hi ⟨⟩
  replace hi : sd < 32 ∧ cx < 4 := hi
  have ⟨b0, e1, g, f0, f1⟩ := fmt31 47 sd cx (by decide) hi _ rfl
  refine ⟨_, rfl, b0, ?_⟩
  clear b0; revert e1 g f0 f1; generalize (47 * 67108864 + sd * 2097152 + cx * 16384 : Nat) = x; intro e1 g f0 f1
  show decodeSq x = _
  rw [decodeSq, if_neg (not_void e1 (by decide) (by decide))]; simp only [e1]
  rw [if_pos g, f0, f1]

theorem sqCrRd (sd : Nat) (csel : Nat) : Statement (.sqCrRd sd csel) := by
  rintro u hi ⟨⟩
  replace hi : sd < 32 ∧ csel < 256 ∧ csel ∈ [1, 2, 3, 4, 5, 6, 7, 8, 9, 10] := hi
  have ⟨b0, e1, e2, g0, f0, f1⟩ := fmt32 48 0 sd csel (by decide) (by decide) ⟨hi.1, hi.2.1⟩ _ rfl
  refine ⟨_, rfl, b0, ?_⟩
  clear b0; revert e1 e2 g0 f0 f1; generalize (48 * 67108864 + 0 * 33554432 + sd * 1048576 + csel * 4096 : Nat) = x; intro e1 e2 g0 f0 f1
  show decodeSq x = _
  rw [decodeSq30_top e1, decodeSq30]; simp only [e2]
  rw [f0, f1]
  rw [if_pos ⟨g0, by simp_all⟩]

theorem sqCrWr (sa : Nat) (csel : Nat) : Statement (.sqCrWr sa csel) := by
  rintro u hi ⟨⟩
  replace hi : sa < 32 ∧ csel < 256 ∧ csel ∈ [1, 2, 3, 4, 5, 6] := hi
  have ⟨b0, e1, e2, g0, f0, f1⟩ := fmt32 48 1 sa csel (by decide) (by decide) ⟨hi.1, hi.2.1⟩ _ rfl
  refine ⟨_, rfl, b0, ?_⟩
  clear b0; revert e1 e2 g0 f0 f1; generalize (48 * 67108864 + 1 * 33554432 + sa * 1048576 + csel * 4096 : Nat) = x; intro e1 e2 g0 f0 f1
  show decodeSq x = _
  rw [decodeSq30_top e1, decodeSq30]; simp only [e2]
  rw [f0, f1]
  rw [if_pos ⟨g0, by simp_all⟩]

theorem sqTrap (code : Nat) : Statement (.sqTrap code) := by
  rintro u hi ⟨⟩
  replace hi : code < 65536 := hi
  have ⟨b0, e1, g, f0⟩ := fmt33 49 code (by decide) hi _ rfl
  refine ⟨_, rfl, b0, ?_⟩
  clear b0; revert e1 g f0; generalize (49 * 67108864 + code : Nat) = x; intro e1 g f0
  show decodeSq x = _
  rw [decodeSq, if_neg (not_void e1 (by decide) (by decide))]; simp only [e1]
  rw [if_pos g, f0]

theorem sqEnd : Statement (.sqEnd) := by rintro u _ ⟨⟩; exact ⟨_, rfl, by decide, rfl⟩

theorem sqYield : Statement (.sqYield) := by rintro u _ ⟨⟩; exact ⟨_, rfl, by decide, rfl⟩

theorem lcRd (sd : Nat) (lev : Nat) : Statement (.lcRd sd lev) := by
  rintro u hi ⟨⟩
  replace hi : sd < 32 ∧ lev < 8 ∧ lev ≤ 5 := hi
  have ⟨b0, e1, e2, g, f0, f1⟩ := fmt34 52 0 sd lev (by decide) (by decide) hi _ rfl
  refine ⟨_, rfl, b0, ?_⟩
  clear b0; revert e1 e2 g f0 f1; generalize (52 * 67108864 + 0 * 131072 + sd * 2097152 + lev * 262144 : Nat) = x; intro e1 e2 g f0 f1
  show decodeSq x = _
  rw [decodeSq34_top e1, decodeSq34]; simp only [e2]
  rw [if_pos g, f0, f1]

theorem lcIt (sd : Nat) (lev : Nat) : Statement (.lcIt sd lev) := by
  rintro u hi ⟨⟩
  replace hi : sd < 32 ∧ lev < 8 ∧ lev ≤ 5 := hi
  have ⟨b0, e1, e2, g, f0, f1⟩ := fmt34 52 1 sd lev (by decide) (by decide) hi _ rfl
  refine ⟨_, rfl, b0, ?_⟩
  clear b0; revert e1 e2 g f0 f1; generalize (52 * 67108864 + 1 * 131072 + sd * 2097152 + lev * 262144 : Nat) = x; intro e1 e2 g f0 f1
  show decodeSq x = _
  rw [decodeSq34_top e1, decodeSq34]; simp only [e2]
  rw [if_pos g, f0, f1]

theorem pfxImm (imm : Nat) : Statement (.pfxImm imm) := by
  rintro u hi ⟨⟩
  replace hi : imm < 1048576 := hi
  have ⟨b0, e1, e2, g, f0⟩ := fmt35 62 0 imm (by decide) (by decide) hi _ rfl
  refine ⟨_, rfl, b0, ?_⟩
  clear b0; revert e1 e2 g f0; generalize (62 * 67108864 + 0 * 16777216 + imm : Nat) = x; intro e1 e2 g f0
  show decodeSq x = _
  rw [decodeSq3E_top e1, decodeSq3E]; simp only [e2]
  rw [if_pos g, f0]

theorem pfxOrd (cls : Nat) (ord : Nat) (scope : Nat) : Statement (.pfxOrd cls ord scope) := by
  rintro u hi ⟨⟩
  replace hi : cls < 16 ∧ ord < 8 ∧ scope < 8 ∧ ord ≤ 3 ∧ scope ≤ 4 ∧ (ord ≠ 0 ∨ scope = 0) := hi
  have ⟨b0, e1, e2, g, f0, f1, f2⟩ := fmt36 62 1 cls ord scope (by decide) (by decide) hi _ rfl
  refine ⟨_, rfl, b0, ?_⟩
  clear b0; revert e1 e2 g f0 f1 f2; generalize (62 * 67108864 + 1 * 16777216 + cls * 256 + ord * 32 + scope * 4 : Nat) = x; intro e1 e2 g f0 f1 f2
  show decodeSq x = _
  rw [decodeSq3E_top e1, decodeSq3E]; simp only [e2]
  rw [if_pos g, f0, f1, f2]

theorem vadd (stop : Nat) (vd : Nat) (va : Nat) (vb : Nat) (pg : Nat) : Statement (.vadd stop vd va vb pg) := by
  rintro u hi ⟨⟩
  replace hi : stop < 2 ∧ vd < 128 ∧ va < 128 ∧ vb < 128 ∧ pg < 16 := hi
  have ⟨b0, e1, f0, f1, f2, f3, f4⟩ := fmt37 1 stop vd va vb pg (by decide) hi _ rfl
  refine ⟨_, rfl, b0, ?_⟩
  clear b0; revert e1 f0 f1 f2 f3 f4; generalize (1 * 33554432 + stop * 2147483648 + vd * 262144 + va * 2048 + vb * 16 + pg : Nat) = x; intro e1 f0 f1 f2 f3 f4
  show decodeVe x = _
  rw [decodeVe, if_neg (not_void e1 (by decide) (by decide))]; simp only [e1]
  rw [f0, f1, f2, f3, f4]

theorem vsub (stop : Nat) (vd : Nat) (va : Nat) (vb : Nat) (pg : Nat) : Statement (.vsub stop vd va vb pg) := by
  rintro u hi ⟨⟩
  replace hi : stop < 2 ∧ vd < 128 ∧ va < 128 ∧ vb < 128 ∧ pg < 16 := hi
  have ⟨b0, e1, f0, f1, f2, f3, f4⟩ := fmt37 2 stop vd va vb pg (by decide) hi _ rfl
  refine ⟨_, rfl, b0, ?_⟩
  clear b0; revert e1 f0 f1 f2 f3 f4; generalize (2 * 33554432 + stop * 2147483648 + vd * 262144 + va * 2048 + vb * 16 + pg : Nat) = x; intro e1 f0 f1 f2 f3 f4
  show decodeVe x = _
  rw [decodeVe, if_neg (not_void e1 (by decide) (by decide))]; simp only [e1]
  rw [f0, f1, f2, f3, f4]

theorem vmul (stop : Nat) (vd : Nat) (va : Nat) (vb : Nat) (pg : Nat) : Statement (.vmul stop vd va vb pg) := by
  rintro u hi ⟨⟩
  replace hi : stop < 2 ∧ vd < 128 ∧ va < 128 ∧ vb < 128 ∧ pg < 16 := hi
  have ⟨b0, e1, f0, f1, f2, f3, f4⟩ := fmt37 3 stop vd va vb pg (by decide) hi _ rfl
  refine ⟨_, rfl, b0, ?_⟩
  clear b0; revert e1 f0 f1 f2 f3 f4; generalize (3 * 33554432 + stop * 2147483648 + vd * 262144 + va * 2048 + vb * 16 + pg : Nat) = x; intro e1 f0 f1 f2 f3 f4
  show decodeVe x = _
  rw [decodeVe, if_neg (not_void e1 (by decide) (by decide))]; simp only [e1]
  rw [f0, f1, f2, f3, f4]

theorem vfma (stop : Nat) (vd : Nat) (va : Nat) (vb : Nat) (pg : Nat) : Statement (.vfma stop vd va vb pg) := by
  rintro u hi ⟨⟩
  replace hi : stop < 2 ∧ vd < 128 ∧ va < 128 ∧ vb < 128 ∧ pg < 16 := hi
  have ⟨b0, e1, f0, f1, f2, f3, f4⟩ := fmt37 4 stop vd va vb pg (by decide) hi _ rfl
  refine ⟨_, rfl, b0, ?_⟩
  clear b0; revert e1 f0 f1 f2 f3 f4; generalize (4 * 33554432 + stop * 2147483648 + vd * 262144 + va * 2048 + vb * 16 + pg : Nat) = x; intro e1 f0 f1 f2 f3 f4
  show decodeVe x = _
  rw [decodeVe, if_neg (not_void e1 (by decide) (by decide))]; simp only [e1]
  rw [f0, f1, f2, f3, f4]

theorem vfmaR (stop : Nat) (vd : Nat) (va : Nat) (vb : Nat) (pg : Nat) : Statement (.vfmaR stop vd va vb pg) := by
  rintro u hi ⟨⟩
  replace hi : stop < 2 ∧ vd < 128 ∧ va < 128 ∧ vb < 128 ∧ pg < 16 := hi
  have ⟨b0, e1, f0, f1, f2, f3, f4⟩ := fmt37 5 stop vd va vb pg (by decide) hi _ rfl
  refine ⟨_, rfl, b0, ?_⟩
  clear b0; revert e1 f0 f1 f2 f3 f4; generalize (5 * 33554432 + stop * 2147483648 + vd * 262144 + va * 2048 + vb * 16 + pg : Nat) = x; intro e1 f0 f1 f2 f3 f4
  show decodeVe x = _
  rw [decodeVe, if_neg (not_void e1 (by decide) (by decide))]; simp only [e1]
  rw [f0, f1, f2, f3, f4]

theorem vfms (stop : Nat) (vd : Nat) (va : Nat) (vb : Nat) (pg : Nat) : Statement (.vfms stop vd va vb pg) := by
  rintro u hi ⟨⟩
  replace hi : stop < 2 ∧ vd < 128 ∧ va < 128 ∧ vb < 128 ∧ pg < 16 := hi
  have ⟨b0, e1, f0, f1, f2, f3, f4⟩ := fmt37 6 stop vd va vb pg (by decide) hi _ rfl
  refine ⟨_, rfl, b0, ?_⟩
  clear b0; revert e1 f0 f1 f2 f3 f4; generalize (6 * 33554432 + stop * 2147483648 + vd * 262144 + va * 2048 + vb * 16 + pg : Nat) = x; intro e1 f0 f1 f2 f3 f4
  show decodeVe x = _
  rw [decodeVe, if_neg (not_void e1 (by decide) (by decide))]; simp only [e1]
  rw [f0, f1, f2, f3, f4]

theorem vfmsR (stop : Nat) (vd : Nat) (va : Nat) (vb : Nat) (pg : Nat) : Statement (.vfmsR stop vd va vb pg) := by
  rintro u hi ⟨⟩
  replace hi : stop < 2 ∧ vd < 128 ∧ va < 128 ∧ vb < 128 ∧ pg < 16 := hi
  have ⟨b0, e1, f0, f1, f2, f3, f4⟩ := fmt37 7 stop vd va vb pg (by decide) hi _ rfl
  refine ⟨_, rfl, b0, ?_⟩
  clear b0; revert e1 f0 f1 f2 f3 f4; generalize (7 * 33554432 + stop * 2147483648 + vd * 262144 + va * 2048 + vb * 16 + pg : Nat) = x; intro e1 f0 f1 f2 f3 f4
  show decodeVe x = _
  rw [decodeVe, if_neg (not_void e1 (by decide) (by decide))]; simp only [e1]
  rw [f0, f1, f2, f3, f4]

theorem vmin (stop : Nat) (vd : Nat) (va : Nat) (vb : Nat) (pg : Nat) : Statement (.vmin stop vd va vb pg) := by
  rintro u hi ⟨⟩
  replace hi : stop < 2 ∧ vd < 128 ∧ va < 128 ∧ vb < 128 ∧ pg < 16 := hi
  have ⟨b0, e1, f0, f1, f2, f3, f4⟩ := fmt37 8 stop vd va vb pg (by decide) hi _ rfl
  refine ⟨_, rfl, b0, ?_⟩
  clear b0; revert e1 f0 f1 f2 f3 f4; generalize (8 * 33554432 + stop * 2147483648 + vd * 262144 + va * 2048 + vb * 16 + pg : Nat) = x; intro e1 f0 f1 f2 f3 f4
  show decodeVe x = _
  rw [decodeVe, if_neg (not_void e1 (by decide) (by decide))]; simp only [e1]
  rw [f0, f1, f2, f3, f4]

theorem vmax (stop : Nat) (vd : Nat) (va : Nat) (vb : Nat) (pg : Nat) : Statement (.vmax stop vd va vb pg) := by
  rintro u hi ⟨⟩
  replace hi : stop < 2 ∧ vd < 128 ∧ va < 128 ∧ vb < 128 ∧ pg < 16 := hi
  have ⟨b0, e1, f0, f1, f2, f3, f4⟩ := fmt37 9 stop vd va vb pg (by decide) hi _ rfl
  refine ⟨_, rfl, b0, ?_⟩
  clear b0; revert e1 f0 f1 f2 f3 f4; generalize (9 * 33554432 + stop * 2147483648 + vd * 262144 + va * 2048 + vb * 16 + pg : Nat) = x; intro e1 f0 f1 f2 f3 f4
  show decodeVe x = _
  rw [decodeVe, if_neg (not_void e1 (by decide) (by decide))]; simp only [e1]
  rw [f0, f1, f2, f3, f4]

theorem vand (stop : Nat) (vd : Nat) (va : Nat) (vb : Nat) (pg : Nat) : Statement (.vand stop vd va vb pg) := by
  rintro u hi ⟨⟩
  replace hi : stop < 2 ∧ vd < 128 ∧ va < 128 ∧ vb < 128 ∧ pg < 16 := hi
  have ⟨b0, e1, f0, f1, f2, f3, f4⟩ := fmt37 10 stop vd va vb pg (by decide) hi _ rfl
  refine ⟨_, rfl, b0, ?_⟩
  clear b0; revert e1 f0 f1 f2 f3 f4; generalize (10 * 33554432 + stop * 2147483648 + vd * 262144 + va * 2048 + vb * 16 + pg : Nat) = x; intro e1 f0 f1 f2 f3 f4
  show decodeVe x = _
  rw [decodeVe, if_neg (not_void e1 (by decide) (by decide))]; simp only [e1]
  rw [f0, f1, f2, f3, f4]

theorem vor (stop : Nat) (vd : Nat) (va : Nat) (vb : Nat) (pg : Nat) : Statement (.vor stop vd va vb pg) := by
  rintro u hi ⟨⟩
  replace hi : stop < 2 ∧ vd < 128 ∧ va < 128 ∧ vb < 128 ∧ pg < 16 := hi
  have ⟨b0, e1, f0, f1, f2, f3, f4⟩ := fmt37 11 stop vd va vb pg (by decide) hi _ rfl
  refine ⟨_, rfl, b0, ?_⟩
  clear b0; revert e1 f0 f1 f2 f3 f4; generalize (11 * 33554432 + stop * 2147483648 + vd * 262144 + va * 2048 + vb * 16 + pg : Nat) = x; intro e1 f0 f1 f2 f3 f4
  show decodeVe x = _
  rw [decodeVe, if_neg (not_void e1 (by decide) (by decide))]; simp only [e1]
  rw [f0, f1, f2, f3, f4]

theorem vxor (stop : Nat) (vd : Nat) (va : Nat) (vb : Nat) (pg : Nat) : Statement (.vxor stop vd va vb pg) := by
  rintro u hi ⟨⟩
  replace hi : stop < 2 ∧ vd < 128 ∧ va < 128 ∧ vb < 128 ∧ pg < 16 := hi
  have ⟨b0, e1, f0, f1, f2, f3, f4⟩ := fmt37 12 stop vd va vb pg (by decide) hi _ rfl
  refine ⟨_, rfl, b0, ?_⟩
  clear b0; revert e1 f0 f1 f2 f3 f4; generalize (12 * 33554432 + stop * 2147483648 + vd * 262144 + va * 2048 + vb * 16 + pg : Nat) = x; intro e1 f0 f1 f2 f3 f4
  show decodeVe x = _
  rw [decodeVe, if_neg (not_void e1 (by decide) (by decide))]; simp only [e1]
  rw [f0, f1, f2, f3, f4]

theorem vshl (stop : Nat) (vd : Nat) (va : Nat) (vb : Nat) (pg : Nat) : Statement (.vshl stop vd va vb pg) := by
  rintro u hi ⟨⟩
  replace hi : stop < 2 ∧ vd < 128 ∧ va < 128 ∧ vb < 128 ∧ pg < 16 := hi
  have ⟨b0, e1, f0, f1, f2, f3, f4⟩ := fmt37 13 stop vd va vb pg (by decide) hi _ rfl
  refine ⟨_, rfl, b0, ?_⟩
  clear b0; revert e1 f0 f1 f2 f3 f4; generalize (13 * 33554432 + stop * 2147483648 + vd * 262144 + va * 2048 + vb * 16 + pg : Nat) = x; intro e1 f0 f1 f2 f3 f4
  show decodeVe x = _
  rw [decodeVe, if_neg (not_void e1 (by decide) (by decide))]; simp only [e1]
  rw [f0, f1, f2, f3, f4]

theorem vshr (stop : Nat) (vd : Nat) (va : Nat) (vb : Nat) (pg : Nat) : Statement (.vshr stop vd va vb pg) := by
  rintro u hi ⟨⟩
  replace hi : stop < 2 ∧ vd < 128 ∧ va < 128 ∧ vb < 128 ∧ pg < 16 := hi
  have ⟨b0, e1, f0, f1, f2, f3, f4⟩ := fmt37 14 stop vd va vb pg (by decide) hi _ rfl
  refine ⟨_, rfl, b0, ?_⟩
  clear b0; revert e1 f0 f1 f2 f3 f4; generalize (14 * 33554432 + stop * 2147483648 + vd * 262144 + va * 2048 + vb * 16 + pg : Nat) = x; intro e1 f0 f1 f2 f3 f4
  show decodeVe x = _
  rw [decodeVe, if_neg (not_void e1 (by decide) (by decide))]; simp only [e1]
  rw [f0, f1, f2, f3, f4]

theorem vqadd (stop : Nat) (vd : Nat) (va : Nat) (vb : Nat) (pg : Nat) : Statement (.vqadd stop vd va vb pg) := by
  rintro u hi ⟨⟩
  replace hi : stop < 2 ∧ vd < 128 ∧ va < 128 ∧ vb < 128 ∧ pg < 16 := hi
  have ⟨b0, e1, f0, f1, f2, f3, f4⟩ := fmt37 15 stop vd va vb pg (by decide) hi _ rfl
  refine ⟨_, rfl, b0, ?_⟩
  clear b0; revert e1 f0 f1 f2 f3 f4; generalize (15 * 33554432 + stop * 2147483648 + vd * 262144 + va * 2048 + vb * 16 + pg : Nat) = x; intro e1 f0 f1 f2 f3 f4
  show decodeVe x = _
  rw [decodeVe, if_neg (not_void e1 (by decide) (by decide))]; simp only [e1]
  rw [f0, f1, f2, f3, f4]

theorem vqsub (stop : Nat) (vd : Nat) (va : Nat) (vb : Nat) (pg : Nat) : Statement (.vqsub stop vd va vb pg) := by
  rintro u hi ⟨⟩
  replace hi : stop < 2 ∧ vd < 128 ∧ va < 128 ∧ vb < 128 ∧ pg < 16 := hi
  have ⟨b0, e1, f0, f1, f2, f3, f4⟩ := fmt37 16 stop vd va vb pg (by decide) hi _ rfl
  refine ⟨_, rfl, b0, ?_⟩
  clear b0; revert e1 f0 f1 f2 f3 f4; generalize (16 * 33554432 + stop * 2147483648 + vd * 262144 + va * 2048 + vb * 16 + pg : Nat) = x; intro e1 f0 f1 f2 f3 f4
  show decodeVe x = _
  rw [decodeVe, if_neg (not_void e1 (by decide) (by decide))]; simp only [e1]
  rw [f0, f1, f2, f3, f4]

theorem vsel (stop : Nat) (vd : Nat) (va : Nat) (vb : Nat) (pg : Nat) : Statement (.vsel stop vd va vb pg) := by
  rintro u hi ⟨⟩
  replace hi : stop < 2 ∧ vd < 128 ∧ va < 128 ∧ vb < 128 ∧ pg < 16 := hi
  have ⟨b0, e1, f0, f1, f2, f3, f4⟩ := fmt37 17 stop vd va vb pg (by decide) hi _ rfl
  refine ⟨_, rfl, b0, ?_⟩
  clear b0; revert e1 f0 f1 f2 f3 f4; generalize (17 * 33554432 + stop * 2147483648 + vd * 262144 + va * 2048 + vb * 16 + pg : Nat) = x; intro e1 f0 f1 f2 f3 f4
  show decodeVe x = _
  rw [decodeVe, if_neg (not_void e1 (by decide) (by decide))]; simp only [e1]
  rw [f0, f1, f2, f3, f4]

theorem vcmpEq (stop : Nat) (pd : Nat) (va : Nat) (vb : Nat) (pg : Nat) : Statement (.vcmpEq stop pd va vb pg) := by
  rintro u hi ⟨⟩
  replace hi : stop < 2 ∧ pd < 16 ∧ va < 128 ∧ vb < 128 ∧ pg < 16 := hi
  have ⟨b0, e1, e2, f0, f1, f2, f3, f4⟩ := fmt38 18 0 stop pd va vb pg (by decide) (by decide) hi _ rfl
  refine ⟨_, rfl, b0, ?_⟩
  clear b0; revert e1 e2 f0 f1 f2 f3 f4; generalize (18 * 33554432 + 0 * 262144 + stop * 2147483648 + pd * 2097152 + va * 2048 + vb * 16 + pg : Nat) = x; intro e1 e2 f0 f1 f2 f3 f4
  show decodeVe x = _
  rw [decodeVe12_top e1, decodeVe12]; simp only [e2]
  rw [f0, f1, f2, f3, f4]

theorem vcmpNe (stop : Nat) (pd : Nat) (va : Nat) (vb : Nat) (pg : Nat) : Statement (.vcmpNe stop pd va vb pg) := by
  rintro u hi ⟨⟩
  replace hi : stop < 2 ∧ pd < 16 ∧ va < 128 ∧ vb < 128 ∧ pg < 16 := hi
  have ⟨b0, e1, e2, f0, f1, f2, f3, f4⟩ := fmt38 18 1 stop pd va vb pg (by decide) (by decide) hi _ rfl
  refine ⟨_, rfl, b0, ?_⟩
  clear b0; revert e1 e2 f0 f1 f2 f3 f4; generalize (18 * 33554432 + 1 * 262144 + stop * 2147483648 + pd * 2097152 + va * 2048 + vb * 16 + pg : Nat) = x; intro e1 e2 f0 f1 f2 f3 f4
  show decodeVe x = _
  rw [decodeVe12_top e1, decodeVe12]; simp only [e2]
  rw [f0, f1, f2, f3, f4]

theorem vcmpLt (stop : Nat) (pd : Nat) (va : Nat) (vb : Nat) (pg : Nat) : Statement (.vcmpLt stop pd va vb pg) := by
  rintro u hi ⟨⟩
  replace hi : stop < 2 ∧ pd < 16 ∧ va < 128 ∧ vb < 128 ∧ pg < 16 := hi
  have ⟨b0, e1, e2, f0, f1, f2, f3, f4⟩ := fmt38 18 2 stop pd va vb pg (by decide) (by decide) hi _ rfl
  refine ⟨_, rfl, b0, ?_⟩
  clear b0; revert e1 e2 f0 f1 f2 f3 f4; generalize (18 * 33554432 + 2 * 262144 + stop * 2147483648 + pd * 2097152 + va * 2048 + vb * 16 + pg : Nat) = x; intro e1 e2 f0 f1 f2 f3 f4
  show decodeVe x = _
  rw [decodeVe12_top e1, decodeVe12]; simp only [e2]
  rw [f0, f1, f2, f3, f4]

theorem vcmpLe (stop : Nat) (pd : Nat) (va : Nat) (vb : Nat) (pg : Nat) : Statement (.vcmpLe stop pd va vb pg) := by
  rintro u hi ⟨⟩
  replace hi : stop < 2 ∧ pd < 16 ∧ va < 128 ∧ vb < 128 ∧ pg < 16 := hi
  have ⟨b0, e1, e2, f0, f1, f2, f3, f4⟩ := fmt38 18 3 stop pd va vb pg (by decide) (by decide) hi _ rfl
  refine ⟨_, rfl, b0, ?_⟩
  clear b0; revert e1 e2 f0 f1 f2 f3 f4; generalize (18 * 33554432 + 3 * 262144 + stop * 2147483648 + pd * 2097152 + va * 2048 + vb * 16 + pg : Nat) = x; intro e1 e2 f0 f1 f2 f3 f4
  show decodeVe x = _
  rw [decodeVe12_top e1, decodeVe12]; simp only [e2]
  rw [f0, f1, f2, f3, f4]

theorem vcmpGt (stop : Nat) (pd : Nat) (va : Nat) (vb : Nat) (pg : Nat) : Statement (.vcmpGt stop pd va vb pg) := by
  rintro u hi ⟨⟩
  replace hi : stop < 2 ∧ pd < 16 ∧ va < 128 ∧ vb < 128 ∧ pg < 16 := hi
  have ⟨b0, e1, e2, f0, f1, f2, f3, f4⟩ := fmt38 18 4 stop pd va vb pg (by decide) (by decide) hi _ rfl
  refine ⟨_, rfl, b0, ?_⟩
  clear b0; revert e1 e2 f0 f1 f2 f3 f4; generalize (18 * 33554432 + 4 * 262144 + stop * 2147483648 + pd * 2097152 + va * 2048 + vb * 16 + pg : Nat) = x; intro e1 e2 f0 f1 f2 f3 f4
  show decodeVe x = _
  rw [decodeVe12_top e1, decodeVe12]; simp only [e2]
  rw [f0, f1, f2, f3, f4]

theorem vcmpGe (stop : Nat) (pd : Nat) (va : Nat) (vb : Nat) (pg : Nat) : Statement (.vcmpGe stop pd va vb pg) := by
  rintro u hi ⟨⟩
  replace hi : stop < 2 ∧ pd < 16 ∧ va < 128 ∧ vb < 128 ∧ pg < 16 := hi
  have ⟨b0, e1, e2, f0, f1, f2, f3, f4⟩ := fmt38 18 5 stop pd va vb pg (by decide) (by decide) hi _ rfl
  refine ⟨_, rfl, b0, ?_⟩
  clear b0; revert e1 e2 f0 f1 f2 f3 f4; generalize (18 * 33554432 + 5 * 262144 + stop * 2147483648 + pd * 2097152 + va * 2048 + vb * 16 + pg : Nat) = x; intro e1 e2 f0 f1 f2 f3 f4
  show decodeVe x = _
  rw [decodeVe12_top e1, decodeVe12]; simp only [e2]
  rw [f0, f1, f2, f3, f4]

theorem vcmpUnord (stop : Nat) (pd : Nat) (va : Nat) (vb : Nat) (pg : Nat) : Statement (.vcmpUnord stop pd va vb pg) := by
  rintro u hi ⟨⟩
  replace hi : stop < 2 ∧ pd < 16 ∧ va < 128 ∧ vb < 128 ∧ pg < 16 := hi
  have ⟨b0, e1, e2, f0, f1, f2, f3, f4⟩ := fmt38 18 6 stop pd va vb pg (by decide) (by decide) hi _ rfl
  refine ⟨_, rfl, b0, ?_⟩
  clear b0; revert e1 e2 f0 f1 f2 f3 f4; generalize (18 * 33554432 + 6 * 262144 + stop * 2147483648 + pd * 2097152 + va * 2048 + vb * 16 + pg : Nat) = x; intro e1 e2 f0 f1 f2 f3 f4
  show decodeVe x = _
  rw [decodeVe12_top e1, decodeVe12]; simp only [e2]
  rw [f0, f1, f2, f3, f4]

theorem vaddVs (stop : Nat) (vd : Nat) (va : Nat) (ar : Nat) (pg : Nat) : Statement (.vaddVs stop vd va ar pg) := by
  rintro u hi ⟨⟩
  replace hi : stop < 2 ∧ vd < 128 ∧ va < 128 ∧ ar < 16 ∧ pg < 16 := hi
  have ⟨b0, e1, e2, f0, f1, f2, f3, f4⟩ := fmt39 19 0 stop vd va ar pg (by decide) (by decide) hi _ rfl
  refine ⟨_, rfl, b0, ?_⟩
  clear b0; revert e1 e2 f0 f1 f2 f3 f4; generalize (19 * 33554432 + 0 * 16 + stop * 2147483648 + vd * 262144 + va * 2048 + ar * 128 + pg : Nat) = x; intro e1 e2 f0 f1 f2 f3 f4
  show decodeVe x = _
  rw [decodeVe13_top e1, decodeVe13]; simp only [e2]
  rw [f0, f1, f2, f3, f4]

theorem vsubVs (stop : Nat) (vd : Nat) (va : Nat) (ar : Nat) (pg : Nat) : Statement (.vsubVs stop vd va ar pg) := by
  rintro u hi ⟨⟩
  replace hi : stop < 2 ∧ vd < 128 ∧ va < 128 ∧ ar < 16 ∧ pg < 16 := hi
  have ⟨b0, e1, e2, f0, f1, f2, f3, f4⟩ := fmt39 19 1 stop vd va ar pg (by decide) (by decide) hi _ rfl
  refine ⟨_, rfl, b0, ?_⟩
  clear b0; revert e1 e2 f0 f1 f2 f3 f4; generalize (19 * 33554432 + 1 * 16 + stop * 2147483648 + vd * 262144 + va * 2048 + ar * 128 + pg : Nat) = x; intro e1 e2 f0 f1 f2 f3 f4
  show decodeVe x = _
  rw [decodeVe13_top e1, decodeVe13]; simp only [e2]
  rw [f0, f1, f2, f3, f4]

theorem vmulVs (stop : Nat) (vd : Nat) (va : Nat) (ar : Nat) (pg : Nat) : Statement (.vmulVs stop vd va ar pg) := by
  rintro u hi ⟨⟩
  replace hi : stop < 2 ∧ vd < 128 ∧ va < 128 ∧ ar < 16 ∧ pg < 16 := hi
  have ⟨b0, e1, e2, f0, f1, f2, f3, f4⟩ := fmt39 19 2 stop vd va ar pg (by decide) (by decide) hi _ rfl
  refine ⟨_, rfl, b0, ?_⟩
  clear b0; revert e1 e2 f0 f1 f2 f3 f4; generalize (19 * 33554432 + 2 * 16 + stop * 2147483648 + vd * 262144 + va * 2048 + ar * 128 + pg : Nat) = x; intro e1 e2 f0 f1 f2 f3 f4
  show decodeVe x = _
  rw [decodeVe13_top e1, decodeVe13]; simp only [e2]
  rw [f0, f1, f2, f3, f4]

theorem vminVs (stop : Nat) (vd : Nat) (va : Nat) (ar : Nat) (pg : Nat) : Statement (.vminVs stop vd va ar pg) := by
  rintro u hi ⟨⟩
  replace hi : stop < 2 ∧ vd < 128 ∧ va < 128 ∧ ar < 16 ∧ pg < 16 := hi
  have ⟨b0, e1, e2, f0, f1, f2, f3, f4⟩ := fmt39 19 3 stop vd va ar pg (by decide) (by decide) hi _ rfl
  refine ⟨_, rfl, b0, ?_⟩
  clear b0; revert e1 e2 f0 f1 f2 f3 f4; generalize (19 * 33554432 + 3 * 16 + stop * 2147483648 + vd * 262144 + va * 2048 + ar * 128 + pg : Nat) = x; intro e1 e2 f0 f1 f2 f3 f4
  show decodeVe x = _
  rw [decodeVe13_top e1, decodeVe13]; simp only [e2]
  rw [f0, f1, f2, f3, f4]

theorem vmaxVs (stop : Nat) (vd : Nat) (va : Nat) (ar : Nat) (pg : Nat) : Statement (.vmaxVs stop vd va ar pg) := by
  rintro u hi ⟨⟩
  replace hi : stop < 2 ∧ vd < 128 ∧ va < 128 ∧ ar < 16 ∧ pg < 16 := hi
  have ⟨b0, e1, e2, f0, f1, f2, f3, f4⟩ := fmt39 19 4 stop vd va ar pg (by decide) (by decide) hi _ rfl
  refine ⟨_, rfl, b0, ?_⟩
  clear b0; revert e1 e2 f0 f1 f2 f3 f4; generalize (19 * 33554432 + 4 * 16 + stop * 2147483648 + vd * 262144 + va * 2048 + ar * 128 + pg : Nat) = x; intro e1 e2 f0 f1 f2 f3 f4
  show decodeVe x = _
  rw [decodeVe13_top e1, decodeVe13]; simp only [e2]
  rw [f0, f1, f2, f3, f4]

theorem vfmaVs (stop : Nat) (vd : Nat) (va : Nat) (ar : Nat) (pg : Nat) : Statement (.vfmaVs stop vd va ar pg) := by
  rintro u hi ⟨⟩
  replace hi : stop < 2 ∧ vd < 128 ∧ va < 128 ∧ ar < 16 ∧ pg < 16 := hi
  have ⟨b0, e1, e2, f0, f1, f2, f3, f4⟩ := fmt39 19 5 stop vd va ar pg (by decide) (by decide) hi _ rfl
  refine ⟨_, rfl, b0, ?_⟩
  clear b0; revert e1 e2 f0 f1 f2 f3 f4; generalize (19 * 33554432 + 5 * 16 + stop * 2147483648 + vd * 262144 + va * 2048 + ar * 128 + pg : Nat) = x; intro e1 e2 f0 f1 f2 f3 f4
  show decodeVe x = _
  rw [decodeVe13_top e1, decodeVe13]; simp only [e2]
  rw [f0, f1, f2, f3, f4]

theorem vrsub (stop : Nat) (vd : Nat) (va : Nat) (ar : Nat) (pg : Nat) : Statement (.vrsub stop vd va ar pg) := by
  rintro u hi ⟨⟩
  replace hi : stop < 2 ∧ vd < 128 ∧ va < 128 ∧ ar < 16 ∧ pg < 16 := hi
  have ⟨b0, e1, e2, f0, f1, f2, f3, f4⟩ := fmt39 19 6 stop vd va ar pg (by decide) (by decide) hi _ rfl
  refine ⟨_, rfl, b0, ?_⟩
  clear b0; revert e1 e2 f0 f1 f2 f3 f4; generalize (19 * 33554432 + 6 * 16 + stop * 2147483648 + vd * 262144 + va * 2048 + ar * 128 + pg : Nat) = x; intro e1 e2 f0 f1 f2 f3 f4
  show decodeVe x = _
  rw [decodeVe13_top e1, decodeVe13]; simp only [e2]
  rw [f0, f1, f2, f3, f4]

theorem vbcast (stop : Nat) (vd : Nat) (ar : Nat) (pg : Nat) : Statement (.vbcast stop vd ar pg) := by
  rintro u hi ⟨⟩
  replace hi : stop < 2 ∧ vd < 128 ∧ ar < 16 ∧ pg < 16 := hi
  have ⟨b0, e1, e2, g, f0, f1, f2, f3⟩ := fmt40 19 7 stop vd ar pg (by decide) (by decide) hi _ rfl
  refine ⟨_, rfl, b0, ?_⟩
  clear b0; revert e1 e2 g f0 f1 f2 f3; generalize (19 * 33554432 + 7 * 16 + stop * 2147483648 + vd * 262144 + ar * 128 + pg : Nat) = x; intro e1 e2 g f0 f1 f2 f3
  show decodeVe x = _
  rw [decodeVe13_top e1, decodeVe13]; simp only [e2]
  rw [if_pos g, f0, f1, f2, f3]

theorem vmov (stop : Nat) (vd : Nat) (va : Nat) (pg : Nat) : Statement (.vmov stop vd va pg) := by
  rintro u hi ⟨⟩
  replace hi : stop < 2 ∧ vd < 128 ∧ va < 128 ∧ pg < 16 := hi
  have ⟨b0, e1, e2, g, f0, f1, f2, f3⟩ := fmt41 20 0 stop vd va pg (by decide) (by decide) hi _ rfl
  refine ⟨_, rfl, b0, ?_⟩
  clear b0; revert e1 e2 g f0 f1 f2 f3; generalize (20 * 33554432 + 0 * 64 + stop * 2147483648 + vd * 262144 + va * 2048 + pg : Nat) = x; intro e1 e2 g f0 f1 f2 f3
  show decodeVe x = _
  rw [decodeVe14_top e1, decodeVe14]; simp only [e2]
  rw [if_pos g, f0, f1, f2, f3]

theorem vneg (stop : Nat) (vd : Nat) (va : Nat) (pg : Nat) : Statement (.vneg stop vd va pg) := by
  rintro u hi ⟨⟩
  replace hi : stop < 2 ∧ vd < 128 ∧ va < 128 ∧ pg < 16 := hi
  have ⟨b0, e1, e2, g, f0, f1, f2, f3⟩ := fmt41 20 1 stop vd va pg (by decide) (by decide) hi _ rfl
  refine ⟨_, rfl, b0, ?_⟩
  clear b0; revert e1 e2 g f0 f1 f2 f3; generalize (20 * 33554432 + 1 * 64 + stop * 2147483648 + vd * 262144 + va * 2048 + pg : Nat) = x; intro e1 e2 g f0 f1 f2 f3
  show decodeVe x = _
  rw [decodeVe14_top e1, decodeVe14]; simp only [e2]
  rw [if_pos g, f0, f1, f2, f3]

theorem vabs (stop : Nat) (vd : Nat) (va : Nat) (pg : Nat) : Statement (.vabs stop vd va pg) := by
  rintro u hi ⟨⟩
  replace hi : stop < 2 ∧ vd < 128 ∧ va < 128 ∧ pg < 16 := hi
  have ⟨b0, e1, e2, g, f0, f1, f2, f3⟩ := fmt41 20 2 stop vd va pg (by decide) (by decide) hi _ rfl
  refine ⟨_, rfl, b0, ?_⟩
  clear b0; revert e1 e2 g f0 f1 f2 f3; generalize (20 * 33554432 + 2 * 64 + stop * 2147483648 + vd * 262144 + va * 2048 + pg : Nat) = x; intro e1 e2 g f0 f1 f2 f3
  show decodeVe x = _
  rw [decodeVe14_top e1, decodeVe14]; simp only [e2]
  rw [if_pos g, f0, f1, f2, f3]

theorem vnot (stop : Nat) (vd : Nat) (va : Nat) (pg : Nat) : Statement (.vnot stop vd va pg) := by
  rintro u hi ⟨⟩
  replace hi : stop < 2 ∧ vd < 128 ∧ va < 128 ∧ pg < 16 := hi
  have ⟨b0, e1, e2, g, f0, f1, f2, f3⟩ := fmt41 20 3 stop vd va pg (by decide) (by decide) hi _ rfl
  refine ⟨_, rfl, b0, ?_⟩
  clear b0; revert e1 e2 g f0 f1 f2 f3; generalize (20 * 33554432 + 3 * 64 + stop * 2147483648 + vd * 262144 + va * 2048 + pg : Nat) = x; intro e1 e2 g f0 f1 f2 f3
  show decodeVe x = _
  rw [decodeVe14_top e1, decodeVe14]; simp only [e2]
  rw [if_pos g, f0, f1, f2, f3]

theorem vclz (stop : Nat) (vd : Nat) (va : Nat) (pg : Nat) : Statement (.vclz stop vd va pg) := by
  rintro u hi ⟨⟩
  replace hi : stop < 2 ∧ vd < 128 ∧ va < 128 ∧ pg < 16 := hi
  have ⟨b0, e1, e2, g, f0, f1, f2, f3⟩ := fmt41 20 4 stop vd va pg (by decide) (by decide) hi _ rfl
  refine ⟨_, rfl, b0, ?_⟩
  clear b0; revert e1 e2 g f0 f1 f2 f3; generalize (20 * 33554432 + 4 * 64 + stop * 2147483648 + vd * 262144 + va * 2048 + pg : Nat) = x; intro e1 e2 g f0 f1 f2 f3
  show decodeVe x = _
  rw [decodeVe14_top e1, decodeVe14]; simp only [e2]
  rw [if_pos g, f0, f1, f2, f3]

theorem vpopc (stop : Nat) (vd : Nat) (va : Nat) (pg : Nat) : Statement (.vpopc stop vd va pg) := by
  rintro u hi ⟨⟩
  replace hi : stop < 2 ∧ vd < 128 ∧ va < 128 ∧ pg < 16 := hi
  have ⟨b0, e1, e2, g, f0, f1, f2, f3⟩ := fmt41 20 5 stop vd va pg (by decide) (by decide) hi _ rfl
  refine ⟨_, rfl, b0, ?_⟩
  clear b0; revert e1 e2 g f0 f1 f2 f3; generalize (20 * 33554432 + 5 * 64 + stop * 2147483648 + vd * 262144 + va * 2048 + pg : Nat) = x; intro e1 e2 g f0 f1 f2 f3
  show decodeVe x = _
  rw [decodeVe14_top e1, decodeVe14]; simp only [e2]
  rw [if_pos g, f0, f1, f2, f3]

theorem vrnd (stop : Nat) (vd : Nat) (va : Nat) (pg : Nat) : Statement (.vrnd stop vd va pg) := by
  rintro u hi ⟨⟩
  replace hi : stop < 2 ∧ vd < 128 ∧ va < 128 ∧ pg < 16 := hi
  have ⟨b0, e1, e2, g, f0, f1, f2, f3⟩ := fmt41 20 6 stop vd va pg (by decide) (by decide) hi _ rfl
  refine ⟨_, rfl, b0, ?_⟩
  clear b0; revert e1 e2 g f0 f1 f2 f3; generalize (20 * 33554432 + 6 * 64 + stop * 2147483648 + vd * 262144 + va * 2048 + pg : Nat) = x; intro e1 e2 g f0 f1 f2 f3
  show decodeVe x = _
  rw [decodeVe14_top e1, decodeVe14]; simp only [e2]
  rw [if_pos g, f0, f1, f2, f3]

theorem vcvt (stop : Nat) (vd : Nat) (va : Nat) (sty : Nat) (dty : Nat) (part : Nat) : Statement (.vcvt stop vd va sty dty part) := by
  rintro u hi ⟨⟩
  replace hi : stop < 2 ∧ vd < 128 ∧ va < 128 ∧ sty < 16 ∧ dty < 16 ∧ part < 4 ∧ cvtOk sty dty part = true := hi
  have ⟨b0, e1, g0, f0, f1, f2, f3, f4, f5⟩ := fmt42 21 stop vd va sty dty part (by decide) ⟨hi.1, hi.2.1, hi.2.2.1, hi.2.2.2.1, hi.2.2.2.2.1, hi.2.2.2.2.2.1⟩ _ rfl
  refine ⟨_, rfl, b0, ?_⟩
  clear b0; revert e1 g0 f0 f1 f2 f3 f4 f5; generalize (21 * 33554432 + stop * 2147483648 + vd * 262144 + va * 2048 + sty * 128 + dty * 8 + part * 2 : Nat) = x; intro e1 g0 f0 f1 f2 f3 f4 f5
  show decodeVe x = _
  rw [decodeVe, if_neg (not_void e1 (by decide) (by decide))]; simp only [e1]
  rw [f0, f1, f2, f3, f4, f5]
  rw [if_pos ⟨g0, by simp_all⟩]

theorem vrcp (stop : Nat) (vd : Nat) (va : Nat) (pg : Nat) : Statement (.vrcp stop vd va pg) := by
  rintro u hi ⟨⟩
  replace hi : stop < 2 ∧ vd < 128 ∧ va < 128 ∧ pg < 16 := hi
  have ⟨b0, e1, e2, g, f0, f1, f2, f3⟩ := fmt41 32 0 stop vd va pg (by decide) (by decide) hi _ rfl
  refine ⟨_, rfl, b0, ?_⟩
  clear b0; revert e1 e2 g f0 f1 f2 f3; generalize (32 * 33554432 + 0 * 64 + stop * 2147483648 + vd * 262144 + va * 2048 + pg : Nat) = x; intro e1 e2 g f0 f1 f2 f3
  show decodeVe x = _
  rw [decodeVe20_top e1, decodeVe20]; simp only [e2]
  rw [if_pos g, f0, f1, f2, f3]

theorem vrsqrt (stop : Nat) (vd : Nat) (va : Nat) (pg : Nat) : Statement (.vrsqrt stop vd va pg) := by
  rintro u hi ⟨⟩
  replace hi : stop < 2 ∧ vd < 128 ∧ va < 128 ∧ pg < 16 := hi
  have ⟨b0, e1, e2, g, f0, f1, f2, f3⟩ := fmt41 32 1 stop vd va pg (by decide) (by decide) hi _ rfl
  refine ⟨_, rfl, b0, ?_⟩
  clear b0; revert e1 e2 g f0 f1 f2 f3; generalize (32 * 33554432 + 1 * 64 + stop * 2147483648 + vd * 262144 + va * 2048 + pg : Nat) = x; intro e1 e2 g f0 f1 f2 f3
  show decodeVe x = _
  rw [decodeVe20_top e1, decodeVe20]; simp only [e2]
  rw [if_pos g, f0, f1, f2, f3]

theorem vsqrt (stop : Nat) (vd : Nat) (va : Nat) (pg : Nat) : Statement (.vsqrt stop vd va pg) := by
  rintro u hi ⟨⟩
  replace hi : stop < 2 ∧ vd < 128 ∧ va < 128 ∧ pg < 16 := hi
  have ⟨b0, e1, e2, g, f0, f1, f2, f3⟩ := fmt41 32 2 stop vd va pg (by decide) (by decide) hi _ rfl
  refine ⟨_, rfl, b0, ?_⟩
  clear b0; revert e1 e2 g f0 f1 f2 f3; generalize (32 * 33554432 + 2 * 64 + stop * 2147483648 + vd * 262144 + va * 2048 + pg : Nat) = x; intro e1 e2 g f0 f1 f2 f3
  show decodeVe x = _
  rw [decodeVe20_top e1, decodeVe20]; simp only [e2]
  rw [if_pos g, f0, f1, f2, f3]

theorem vexp2 (stop : Nat) (vd : Nat) (va : Nat) (pg : Nat) : Statement (.vexp2 stop vd va pg) := by
  rintro u hi ⟨⟩
  replace hi : stop < 2 ∧ vd < 128 ∧ va < 128 ∧ pg < 16 := hi
  have ⟨b0, e1, e2, g, f0, f1, f2, f3⟩ := fmt41 32 3 stop vd va pg (by decide) (by decide) hi _ rfl
  refine ⟨_, rfl, b0, ?_⟩
  clear b0; revert e1 e2 g f0 f1 f2 f3; generalize (32 * 33554432 + 3 * 64 + stop * 2147483648 + vd * 262144 + va * 2048 + pg : Nat) = x; intro e1 e2 g f0 f1 f2 f3
  show decodeVe x = _
  rw [decodeVe20_top e1, decodeVe20]; simp only [e2]
  rw [if_pos g, f0, f1, f2, f3]

theorem vlog2 (stop : Nat) (vd : Nat) (va : Nat) (pg : Nat) : Statement (.vlog2 stop vd va pg) := by
  rintro u hi ⟨⟩
  replace hi : stop < 2 ∧ vd < 128 ∧ va < 128 ∧ pg < 16 := hi
  have ⟨b0, e1, e2, g, f0, f1, f2, f3⟩ := fmt41 32 4 stop vd va pg (by decide) (by decide) hi _ rfl
  refine ⟨_, rfl, b0, ?_⟩
  clear b0; revert e1 e2 g f0 f1 f2 f3; generalize (32 * 33554432 + 4 * 64 + stop * 2147483648 + vd * 262144 + va * 2048 + pg : Nat) = x; intro e1 e2 g f0 f1 f2 f3
  show decodeVe x = _
  rw [decodeVe20_top e1, decodeVe20]; simp only [e2]
  rw [if_pos g, f0, f1, f2, f3]

theorem vexp (stop : Nat) (vd : Nat) (va : Nat) (pg : Nat) : Statement (.vexp stop vd va pg) := by
  rintro u hi ⟨⟩
  replace hi : stop < 2 ∧ vd < 128 ∧ va < 128 ∧ pg < 16 := hi
  have ⟨b0, e1, e2, g, f0, f1, f2, f3⟩ := fmt41 32 5 stop vd va pg (by decide) (by decide) hi _ rfl
  refine ⟨_, rfl, b0, ?_⟩
  clear b0; revert e1 e2 g f0 f1 f2 f3; generalize (32 * 33554432 + 5 * 64 + stop * 2147483648 + vd * 262144 + va * 2048 + pg : Nat) = x; intro e1 e2 g f0 f1 f2 f3
  show decodeVe x = _
  rw [decodeVe20_top e1, decodeVe20]; simp only [e2]
  rw [if_pos g, f0, f1, f2, f3]

theorem vtanh (stop : Nat) (vd : Nat) (va : Nat) (pg : Nat) : Statement (.vtanh stop vd va pg) := by
  rintro u hi ⟨⟩
  replace hi : stop < 2 ∧ vd < 128 ∧ va < 128 ∧ pg < 16 := hi
  have ⟨b0, e1, e2, g, f0, f1, f2, f3⟩ := fmt41 32 6 stop vd va pg (by decide) (by decide) hi _ rfl
  refine ⟨_, rfl, b0, ?_⟩
  clear b0; revert e1 e2 g f0 f1 f2 f3; generalize (32 * 33554432 + 6 * 64 + stop * 2147483648 + vd * 262144 + va * 2048 + pg : Nat) = x; intro e1 e2 g f0 f1 f2 f3
  show decodeVe x = _
  rw [decodeVe20_top e1, decodeVe20]; simp only [e2]
  rw [if_pos g, f0, f1, f2, f3]

theorem vsigm (stop : Nat) (vd : Nat) (va : Nat) (pg : Nat) : Statement (.vsigm stop vd va pg) := by
  rintro u hi ⟨⟩
  replace hi : stop < 2 ∧ vd < 128 ∧ va < 128 ∧ pg < 16 := hi
  have ⟨b0, e1, e2, g, f0, f1, f2, f3⟩ := fmt41 32 7 stop vd va pg (by decide) (by decide) hi _ rfl
  refine ⟨_, rfl, b0, ?_⟩
  clear b0; revert e1 e2 g f0 f1 f2 f3; generalize (32 * 33554432 + 7 * 64 + stop * 2147483648 + vd * 262144 + va * 2048 + pg : Nat) = x; intro e1 e2 g f0 f1 f2 f3
  show decodeVe x = _
  rw [decodeVe20_top e1, decodeVe20]; simp only [e2]
  rw [if_pos g, f0, f1, f2, f3]

theorem vdiv (stop : Nat) (vd : Nat) (va : Nat) (vb : Nat) (pg : Nat) : Statement (.vdiv stop vd va vb pg) := by
  rintro u hi ⟨⟩
  replace hi : stop < 2 ∧ vd < 128 ∧ va < 128 ∧ vb < 128 ∧ pg < 16 := hi
  have ⟨b0, e1, f0, f1, f2, f3, f4⟩ := fmt37 33 stop vd va vb pg (by decide) hi _ rfl
  refine ⟨_, rfl, b0, ?_⟩
  clear b0; revert e1 f0 f1 f2 f3 f4; generalize (33 * 33554432 + stop * 2147483648 + vd * 262144 + va * 2048 + vb * 16 + pg : Nat) = x; intro e1 f0 f1 f2 f3 f4
  show decodeVe x = _
  rw [decodeVe, if_neg (not_void e1 (by decide) (by decide))]; simp only [e1]
  rw [f0, f1, f2, f3, f4]

theorem vredSum (stop : Nat) (ad : Nat) (va : Nat) (pg : Nat) : Statement (.vredSum stop ad va pg) := by
  rintro u hi ⟨⟩
  replace hi : stop < 2 ∧ ad < 16 ∧ va < 128 ∧ pg < 16 := hi
  have ⟨b0, e1, e2, g, f0, f1, f2, f3⟩ := fmt43 34 0 stop ad va pg (by decide) (by decide) hi _ rfl
  refine ⟨_, rfl, b0, ?_⟩
  clear b0; revert e1 e2 g f0 f1 f2 f3; generalize (34 * 33554432 + 0 * 128 + stop * 2147483648 + ad * 2097152 + va * 16384 + pg : Nat) = x; intro e1 e2 g f0 f1 f2 f3
  show decodeVe x = _
  rw [decodeVe22_top e1, decodeVe22]; simp only [e2]
  rw [if_pos g, f0, f1, f2, f3]

theorem vredMin (stop : Nat) (ad : Nat) (va : Nat) (pg : Nat) : Statement (.vredMin stop ad va pg) := by
  rintro u hi ⟨⟩
  replace hi : stop < 2 ∧ ad < 16 ∧ va < 128 ∧ pg < 16 := hi
  have ⟨b0, e1, e2, g, f0, f1, f2, f3⟩ := fmt43 34 1 stop ad va pg (by decide) (by decide) hi _ rfl
  refine ⟨_, rfl, b0, ?_⟩
  clear b0; revert e1 e2 g f0 f1 f2 f3; generalize (34 * 33554432 + 1 * 128 + stop * 2147483648 + ad * 2097152 + va * 16384 + pg : Nat) = x; intro e1 e2 g f0 f1 f2 f3
  show decodeVe x = _
  rw [decodeVe22_top e1, decodeVe22]; simp only [e2]
  rw [if_pos g, f0, f1, f2, f3]

theorem vredMax (stop : Nat) (ad : Nat) (va : Nat) (pg : Nat) : Statement (.vredMax stop ad va pg) := by
  rintro u hi ⟨⟩
  replace hi : stop < 2 ∧ ad < 16 ∧ va < 128 ∧ pg < 16 := hi
  have ⟨b0, e1, e2, g, f0, f1, f2, f3⟩ := fmt43 34 2 stop ad va pg (by decide) (by decide) hi _ rfl
  refine ⟨_, rfl, b0, ?_⟩
  clear b0; revert e1 e2 g f0 f1 f2 f3; generalize (34 * 33554432 + 2 * 128 + stop * 2147483648 + ad * 2097152 + va * 16384 + pg : Nat) = x; intro e1 e2 g f0 f1 f2 f3
  show decodeVe x = _
  rw [decodeVe22_top e1, decodeVe22]; simp only [e2]
  rw [if_pos g, f0, f1, f2, f3]

theorem vredAnd (stop : Nat) (ad : Nat) (va : Nat) (pg : Nat) : Statement (.vredAnd stop ad va pg) := by
  rintro u hi ⟨⟩
  replace hi : stop < 2 ∧ ad < 16 ∧ va < 128 ∧ pg < 16 := hi
  have ⟨b0, e1, e2, g, f0, f1, f2, f3⟩ := fmt43 34 3 stop ad va pg (by decide) (by decide) hi _ rfl
  refine ⟨_, rfl, b0, ?_⟩
  clear b0; revert e1 e2 g f0 f1 f2 f3; generalize (34 * 33554432 + 3 * 128 + stop * 2147483648 + ad * 2097152 + va * 16384 + pg : Nat) = x; intro e1 e2 g f0 f1 f2 f3
  show decodeVe x = _
  rw [decodeVe22_top e1, decodeVe22]; simp only [e2]
  rw [if_pos g, f0, f1, f2, f3]

theorem vredOr (stop : Nat) (ad : Nat) (va : Nat) (pg : Nat) : Statement (.vredOr stop ad va pg) := by
  rintro u hi ⟨⟩
  replace hi : stop < 2 ∧ ad < 16 ∧ va < 128 ∧ pg < 16 := hi
  have ⟨b0, e1, e2, g, f0, f1, f2, f3⟩ := fmt43 34 4 stop ad va pg (by decide) (by decide) hi _ rfl
  refine ⟨_, rfl, b0, ?_⟩
  clear b0; revert e1 e2 g f0 f1 f2 f3; generalize (34 * 33554432 + 4 * 128 + stop * 2147483648 + ad * 2097152 + va * 16384 + pg : Nat) = x; intro e1 e2 g f0 f1 f2 f3
  show decodeVe x = _
  rw [decodeVe22_top e1, decodeVe22]; simp only [e2]
  rw [if_pos g, f0, f1, f2, f3]

theorem vredXor (stop : Nat) (ad : Nat) (va : Nat) (pg : Nat) : Statement (.vredXor stop ad va pg) := by
  rintro u hi ⟨⟩
  replace hi : stop < 2 ∧ ad < 16 ∧ va < 128 ∧ pg < 16 := hi
  have ⟨b0, e1, e2, g, f0, f1, f2, f3⟩ := fmt43 34 5 stop ad va pg (by decide) (by decide) hi _ rfl
  refine ⟨_, rfl, b0, ?_⟩
  clear b0; revert e1 e2 g f0 f1 f2 f3; generalize (34 * 33554432 + 5 * 128 + stop * 2147483648 + ad * 2097152 + va * 16384 + pg : Nat) = x; intro e1 e2 g f0 f1 f2 f3
  show decodeVe x = _
  rw [decodeVe22_top e1, decodeVe22]; simp only [e2]
  rw [if_pos g, f0, f1, f2, f3]

theorem vperm (stop : Nat) (vd : Nat) (va : Nat) (vb : Nat) (pg : Nat) : Statement (.vperm stop vd va vb pg) := by
  rintro u hi ⟨⟩
  replace hi : stop < 2 ∧ vd < 128 ∧ va < 128 ∧ vb < 128 ∧ pg < 16 := hi
  have ⟨b0, e1, f0, f1, f2, f3, f4⟩ := fmt37 35 stop vd va vb pg (by decide) hi _ rfl
  refine ⟨_, rfl, b0, ?_⟩
  clear b0; revert e1 f0 f1 f2 f3 f4; generalize (35 * 33554432 + stop * 2147483648 + vd * 262144 + va * 2048 + vb * 16 + pg : Nat) = x; intro e1 f0 f1 f2 f3 f4
  show decodeVe x = _
  rw [decodeVe, if_neg (not_void e1 (by decide) (by decide))]; simp only [e1]
  rw [f0, f1, f2, f3, f4]

theorem vcompress (stop : Nat) (vd : Nat) (va : Nat) (ad : Nat) (pg : Nat) : Statement (.vcompress stop vd va ad pg) := by
  rintro u hi ⟨⟩
  replace hi : stop < 2 ∧ vd < 128 ∧ va < 128 ∧ ad < 16 ∧ pg < 16 := hi
  have ⟨b0, e1, g, f0, f1, f2, f3, f4⟩ := fmt44 36 stop vd va ad pg (by decide) hi _ rfl
  refine ⟨_, rfl, b0, ?_⟩
  clear b0; revert e1 g f0 f1 f2 f3 f4; generalize (36 * 33554432 + stop * 2147483648 + vd * 262144 + va * 2048 + ad * 128 + pg : Nat) = x; intro e1 g f0 f1 f2 f3 f4
  show decodeVe x = _
  rw [decodeVe, if_neg (not_void e1 (by decide) (by decide))]; simp only [e1]
  rw [if_pos g, f0, f1, f2, f3, f4]

theorem vexpand (stop : Nat) (vd : Nat) (va : Nat) (pg : Nat) : Statement (.vexpand stop vd va pg) := by
  rintro u hi ⟨⟩
  replace hi : stop < 2 ∧ vd < 128 ∧ va < 128 ∧ pg < 16 := hi
  have ⟨b0, e1, g, f0, f1, f2, f3⟩ := fmt45 37 stop vd va pg (by decide) hi _ rfl
  refine ⟨_, rfl, b0, ?_⟩
  clear b0; revert e1 g f0 f1 f2 f3; generalize (37 * 33554432 + stop * 2147483648 + vd * 262144 + va * 2048 + pg : Nat) = x; intro e1 g f0 f1 f2 f3
  show decodeVe x = _
  rw [decodeVe, if_neg (not_void e1 (by decide) (by decide))]; simp only [e1]
  rw [if_pos g, f0, f1, f2, f3]

theorem vslup (stop : Nat) (vd : Nat) (va : Nat) (ar : Nat) (pg : Nat) : Statement (.vslup stop vd va ar pg) := by
  rintro u hi ⟨⟩
  replace hi : stop < 2 ∧ vd < 128 ∧ va < 128 ∧ ar < 16 ∧ pg < 16 := hi
  have ⟨b0, e1, e2, f0, f1, f2, f3, f4⟩ := fmt39 38 0 stop vd va ar pg (by decide) (by decide) hi _ rfl
  refine ⟨_, rfl, b0, ?_⟩
  clear b0; revert e1 e2 f0 f1 f2 f3 f4; generalize (38 * 33554432 + 0 * 16 + stop * 2147483648 + vd * 262144 + va * 2048 + ar * 128 + pg : Nat) = x; intro e1 e2 f0 f1 f2 f3 f4
  show decodeVe x = _
  rw [decodeVe26_top e1, decodeVe26]; simp only [e2]
  rw [f0, f1, f2, f3, f4]

theorem vsldn (stop : Nat) (vd : Nat) (va : Nat) (ar : Nat) (pg : Nat) : Statement (.vsldn stop vd va ar pg) := by
  rintro u hi ⟨⟩
  replace hi : stop < 2 ∧ vd < 128 ∧ va < 128 ∧ ar < 16 ∧ pg < 16 := hi
  have ⟨b0, e1, e2, f0, f1, f2, f3, f4⟩ := fmt39 38 1 stop vd va ar pg (by decide) (by decide) hi _ rfl
  refine ⟨_, rfl, b0, ?_⟩
  clear b0; revert e1 e2 f0 f1 f2 f3 f4; generalize (38 * 33554432 + 1 * 16 + stop * 2147483648 + vd * 262144 + va * 2048 + ar * 128 + pg : Nat) = x; intro e1 e2 f0 f1 f2 f3 f4
  show decodeVe x = _
  rw [decodeVe26_top e1, decodeVe26]; simp only [e2]
  rw [f0, f1, f2, f3, f4]

theorem vbcastl (stop : Nat) (vd : Nat) (va : Nat) (ar : Nat) (pg : Nat) : Statement (.vbcastl stop vd va ar pg) := by
  rintro u hi ⟨⟩
  replace hi : stop < 2 ∧ vd < 128 ∧ va < 128 ∧ ar < 16 ∧ pg < 16 := hi
  have ⟨b0, e1, e2, f0, f1, f2, f3, f4⟩ := fmt39 38 2 stop vd va ar pg (by decide) (by decide) hi _ rfl
  refine ⟨_, rfl, b0, ?_⟩
  clear b0; revert e1 e2 f0 f1 f2 f3 f4; generalize (38 * 33554432 + 2 * 16 + stop * 2147483648 + vd * 262144 + va * 2048 + ar * 128 + pg : Nat) = x; intro e1 e2 f0 f1 f2 f3 f4
  show decodeVe x = _
  rw [decodeVe26_top e1, decodeVe26]; simp only [e2]
  rw [f0, f1, f2, f3, f4]

theorem vext (stop : Nat) (ad : Nat) (va : Nat) (ar : Nat) : Statement (.vext stop ad va ar) := by
  rintro u hi ⟨⟩
  replace hi : stop < 2 ∧ ad < 16 ∧ va < 128 ∧ ar < 16 := hi
  have ⟨b0, e1, e2, g, f0, f1, f2, f3⟩ := fmt46 38 3 stop ad va ar (by decide) (by decide) hi _ rfl
  refine ⟨_, rfl, b0, ?_⟩
  clear b0; revert e1 e2 g f0 f1 f2 f3; generalize (38 * 33554432 + 3 * 16 + stop * 2147483648 + ad * 262144 + va * 2048 + ar * 128 : Nat) = x; intro e1 e2 g f0 f1 f2 f3
  show decodeVe x = _
  rw [decodeVe26_top e1, decodeVe26]; simp only [e2]
  rw [if_pos g, f0, f1, f2, f3]

theorem vins (stop : Nat) (vd : Nat) (av : Nat) (ar : Nat) : Statement (.vins stop vd av ar) := by
  rintro u hi ⟨⟩
  replace hi : stop < 2 ∧ vd < 128 ∧ av < 16 ∧ ar < 16 := hi
  have ⟨b0, e1, e2, g, f0, f1, f2, f3⟩ := fmt47 38 4 stop vd av ar (by decide) (by decide) hi _ rfl
  refine ⟨_, rfl, b0, ?_⟩
  clear b0; revert e1 e2 g f0 f1 f2 f3; generalize (38 * 33554432 + 4 * 16 + stop * 2147483648 + vd * 262144 + av * 16384 + ar * 128 : Nat) = x; intro e1 e2 g f0 f1 f2 f3
  show decodeVe x = _
  rw [decodeVe26_top e1, decodeVe26]; simp only [e2]
  rw [if_pos g, f0, f1, f2, f3]

theorem vld (stop : Nat) (vd : Nat) (ab : Nat) (off : Nat) : Statement (.vld stop vd ab off) := by
  rintro u hi ⟨⟩
  replace hi : stop < 2 ∧ vd < 128 ∧ ab < 16 ∧ off < 16384 := hi
  have ⟨b0, e1, f0, f1, f2, f3⟩ := fmt48 44 stop vd ab off (by decide) hi _ rfl
  refine ⟨_, rfl, b0, ?_⟩
  clear b0; revert e1 f0 f1 f2 f3; generalize (44 * 33554432 + stop * 2147483648 + vd * 262144 + ab * 16384 + off : Nat) = x; intro e1 f0 f1 f2 f3
  show decodeVe x = _
  rw [decodeVe, if_neg (not_void e1 (by decide) (by decide))]; simp only [e1]
  rw [f0, f1, f2, f3]

theorem vst (stop : Nat) (va : Nat) (ab : Nat) (off : Nat) : Statement (.vst stop va ab off) := by
  rintro u hi ⟨⟩
  replace hi : stop < 2 ∧ va < 128 ∧ ab < 16 ∧ off < 16384 := hi
  have ⟨b0, e1, f0, f1, f2, f3⟩ := fmt48 45 stop va ab off (by decide) hi _ rfl
  refine ⟨_, rfl, b0, ?_⟩
  clear b0; revert e1 f0 f1 f2 f3; generalize (45 * 33554432 + stop * 2147483648 + va * 262144 + ab * 16384 + off : Nat) = x; intro e1 f0 f1 f2 f3
  show decodeVe x = _
  rw [decodeVe, if_neg (not_void e1 (by decide) (by decide))]; simp only [e1]
  rw [f0, f1, f2, f3]

theorem vldx (stop : Nat) (vd : Nat) (ab : Nat) (vb : Nat) (pg : Nat) : Statement (.vldx stop vd ab vb pg) := by
  rintro u hi ⟨⟩
  replace hi : stop < 2 ∧ vd < 128 ∧ ab < 16 ∧ vb < 128 ∧ pg < 16 := hi
  have ⟨b0, e1, g, f0, f1, f2, f3, f4⟩ := fmt49 46 stop vd ab vb pg (by decide) hi _ rfl
  refine ⟨_, rfl, b0, ?_⟩
  clear b0; revert e1 g f0 f1 f2 f3 f4; generalize (46 * 33554432 + stop * 2147483648 + vd * 262144 + ab * 16384 + vb * 128 + pg : Nat) = x; intro e1 g f0 f1 f2 f3 f4
  show decodeVe x = _
  rw [decodeVe, if_neg (not_void e1 (by decide) (by decide))]; simp only [e1]
  rw [if_pos g, f0, f1, f2, f3, f4]

theorem vstp (stop : Nat) (va : Nat) (ab : Nat) (pg : Nat) : Statement (.vstp stop va ab pg) := by
  rintro u hi ⟨⟩
  replace hi : stop < 2 ∧ va < 128 ∧ ab < 16 ∧ pg < 16 := hi
  have ⟨b0, e1, g, f0, f1, f2, f3⟩ := fmt50 47 stop va ab pg (by decide) hi _ rfl
  refine ⟨_, rfl, b0, ?_⟩
  clear b0; revert e1 g f0 f1 f2 f3; generalize (47 * 33554432 + stop * 2147483648 + va * 262144 + ab * 16384 + pg : Nat) = x; intro e1 g f0 f1 f2 f3
  show decodeVe x = _
  rw [decodeVe, if_neg (not_void e1 (by decide) (by decide))]; simp only [e1]
  rw [if_pos g, f0, f1, f2, f3]

theorem vstx (stop : Nat) (va : Nat) (ab : Nat) (vb : Nat) (pg : Nat) : Statement (.vstx stop va ab vb pg) := by
  rintro u hi ⟨⟩
  replace hi : stop < 2 ∧ va < 128 ∧ ab < 16 ∧ vb < 128 ∧ pg < 16 := hi
  have ⟨b0, e1, g, f0, f1, f2, f3, f4⟩ := fmt49 48 stop va ab vb pg (by decide) hi _ rfl
  refine ⟨_, rfl, b0, ?_⟩
  clear b0; revert e1 g f0 f1 f2 f3 f4; generalize (48 * 33554432 + stop * 2147483648 + va * 262144 + ab * 16384 + vb * 128 + pg : Nat) = x; intro e1 g f0 f1 f2 f3 f4
  show decodeVe x = _
  rw [decodeVe, if_neg (not_void e1 (by decide) (by decide))]; simp only [e1]
  rw [if_pos g, f0, f1, f2, f3, f4]

theorem pand (stop : Nat) (pd : Nat) (pa : Nat) (pb : Nat) : Statement (.pand stop pd pa pb) := by
  rintro u hi ⟨⟩
  replace hi : stop < 2 ∧ pd < 16 ∧ pa < 16 ∧ pb < 16 := hi
  have ⟨b0, e1, e2, g, f0, f1, f2, f3⟩ := fmt51 52 0 stop pd pa pb (by decide) (by decide) hi _ rfl
  refine ⟨_, rfl, b0, ?_⟩
  clear b0; revert e1 e2 g f0 f1 f2 f3; generalize (52 * 33554432 + 0 * 1024 + stop * 2147483648 + pd * 2097152 + pa * 131072 + pb * 8192 : Nat) = x; intro e1 e2 g f0 f1 f2 f3
  show decodeVe x = _
  rw [decodeVe34_top e1, decodeVe34]; simp only [e2]
  rw [if_pos g, f0, f1, f2, f3]

theorem por (stop : Nat) (pd : Nat) (pa : Nat) (pb : Nat) : Statement (.por stop pd pa pb) := by
  rintro u hi ⟨⟩
  replace hi : stop < 2 ∧ pd < 16 ∧ pa < 16 ∧ pb < 16 := hi
  have ⟨b0, e1, e2, g, f0, f1, f2, f3⟩ := fmt51 52 1 stop pd pa pb (by decide) (by decide) hi _ rfl
  refine ⟨_, rfl, b0, ?_⟩
  clear b0; revert e1 e2 g f0 f1 f2 f3; generalize (52 * 33554432 + 1 * 1024 + stop * 2147483648 + pd * 2097152 + pa * 131072 + pb * 8192 : Nat) = x; intro e1 e2 g f0 f1 f2 f3
  show decodeVe x = _
  rw [decodeVe34_top e1, decodeVe34]; simp only [e2]
  rw [if_pos g, f0, f1, f2, f3]

theorem pxor (stop : Nat) (pd : Nat) (pa : Nat) (pb : Nat) : Statement (.pxor stop pd pa pb) := by
  rintro u hi ⟨⟩
  replace hi : stop < 2 ∧ pd < 16 ∧ pa < 16 ∧ pb < 16 := hi
  have ⟨b0, e1, e2, g, f0, f1, f2, f3⟩ := fmt51 52 2 stop pd pa pb (by decide) (by decide) hi _ rfl
  refine ⟨_, rfl, b0, ?_⟩
  clear b0; revert e1 e2 g f0 f1 f2 f3; generalize (52 * 33554432 + 2 * 1024 + stop * 2147483648 + pd * 2097152 + pa * 131072 + pb * 8192 : Nat) = x; intro e1 e2 g f0 f1 f2 f3
  show decodeVe x = _
  rw [decodeVe34_top e1, decodeVe34]; simp only [e2]
  rw [if_pos g, f0, f1, f2, f3]

theorem pandn (stop : Nat) (pd : Nat) (pa : Nat) (pb : Nat) : Statement (.pandn stop pd pa pb) := by
  rintro u hi ⟨⟩
  replace hi : stop < 2 ∧ pd < 16 ∧ pa < 16 ∧ pb < 16 := hi
  have ⟨b0, e1, e2, g, f0, f1, f2, f3⟩ := fmt51 52 3 stop pd pa pb (by decide) (by decide) hi _ rfl
  refine ⟨_, rfl, b0, ?_⟩
  clear b0; revert e1 e2 g f0 f1 f2 f3; generalize (52 * 33554432 + 3 * 1024 + stop * 2147483648 + pd * 2097152 + pa * 131072 + pb * 8192 : Nat) = x; intro e1 e2 g f0 f1 f2 f3
  show decodeVe x = _
  rw [decodeVe34_top e1, decodeVe34]; simp only [e2]
  rw [if_pos g, f0, f1, f2, f3]

theorem pnot (stop : Nat) (pd : Nat) (pa : Nat) : Statement (.pnot stop pd pa) := by
  rintro u hi ⟨⟩
  replace hi : stop < 2 ∧ pd < 16 ∧ pa < 16 := hi
  have ⟨b0, e1, e2, g, f0, f1, f2⟩ := fmt52 52 4 stop pd pa (by decide) (by decide) hi _ rfl
  refine ⟨_, rfl, b0, ?_⟩
  clear b0; revert e1 e2 g f0 f1 f2; generalize (52 * 33554432 + 4 * 1024 + stop * 2147483648 + pd * 2097152 + pa * 131072 : Nat) = x; intro e1 e2 g f0 f1 f2
  show decodeVe x = _
  rw [decodeVe34_top e1, decodeVe34]; simp only [e2]
  rw [if_pos g, f0, f1, f2]

theorem pset (stop : Nat) (pd : Nat) : Statement (.pset stop pd) := by
  rintro u hi ⟨⟩
  replace hi : stop < 2 ∧ pd < 16 := hi
  have ⟨b0, e1, e2, g, f0, f1⟩ := fmt53 52 5 stop pd (by decide) (by decide) hi _ rfl
  refine ⟨_, rfl, b0, ?_⟩
  clear b0; revert e1 e2 g f0 f1; generalize (52 * 33554432 + 5 * 1024 + stop * 2147483648 + pd * 2097152 : Nat) = x; intro e1 e2 g f0 f1
  show decodeVe x = _
  rw [decodeVe34_top e1, decodeVe34]; simp only [e2]
  rw [if_pos g, f0, f1]

theorem pclr (stop : Nat) (pd : Nat) : Statement (.pclr stop pd) := by
  rintro u hi ⟨⟩
  replace hi : stop < 2 ∧ pd < 16 := hi
  have ⟨b0, e1, e2, g, f0, f1⟩ := fmt53 52 6 stop pd (by decide) (by decide) hi _ rfl
  refine ⟨_, rfl, b0, ?_⟩
  clear b0; revert e1 e2 g f0 f1; generalize (52 * 33554432 + 6 * 1024 + stop * 2147483648 + pd * 2097152 : Nat) = x; intro e1 e2 g f0 f1
  show decodeVe x = _
  rw [decodeVe34_top e1, decodeVe34]; simp only [e2]
  rw [if_pos g, f0, f1]

theorem pmov (stop : Nat) (pd : Nat) (pa : Nat) : Statement (.pmov stop pd pa) := by
  rintro u hi ⟨⟩
  replace hi : stop < 2 ∧ pd < 16 ∧ pa < 16 := hi
  have ⟨b0, e1, e2, g, f0, f1, f2⟩ := fmt52 52 7 stop pd pa (by decide) (by decide) hi _ rfl
  refine ⟨_, rfl, b0, ?_⟩
  clear b0; revert e1 e2 g f0 f1 f2; generalize (52 * 33554432 + 7 * 1024 + stop * 2147483648 + pd * 2097152 + pa * 131072 : Nat) = x; intro e1 e2 g f0 f1 f2
  show decodeVe x = _
  rw [decodeVe34_top e1, decodeVe34]; simp only [e2]
  rw [if_pos g, f0, f1, f2]

theorem pcount (stop : Nat) (ad : Nat) (pa : Nat) : Statement (.pcount stop ad pa) := by
  rintro u hi ⟨⟩
  replace hi : stop < 2 ∧ ad < 16 ∧ pa < 16 := hi
  have ⟨b0, e1, e2, g, f0, f1, f2⟩ := fmt54 53 0 stop ad pa (by decide) (by decide) hi _ rfl
  refine ⟨_, rfl, b0, ?_⟩
  clear b0; revert e1 e2 g f0 f1 f2; generalize (53 * 33554432 + 0 * 16384 + stop * 2147483648 + ad * 2097152 + pa * 131072 : Nat) = x; intro e1 e2 g f0 f1 f2
  show decodeVe x = _
  rw [decodeVe35_top e1, decodeVe35]; simp only [e2]
  rw [if_pos g, f0, f1, f2]

theorem pfirst (stop : Nat) (ad : Nat) (pa : Nat) : Statement (.pfirst stop ad pa) := by
  rintro u hi ⟨⟩
  replace hi : stop < 2 ∧ ad < 16 ∧ pa < 16 := hi
  have ⟨b0, e1, e2, g, f0, f1, f2⟩ := fmt54 53 1 stop ad pa (by decide) (by decide) hi _ rfl
  refine ⟨_, rfl, b0, ?_⟩
  clear b0; revert e1 e2 g f0 f1 f2; generalize (53 * 33554432 + 1 * 16384 + stop * 2147483648 + ad * 2097152 + pa * 131072 : Nat) = x; intro e1 e2 g f0 f1 f2
  show decodeVe x = _
  rw [decodeVe35_top e1, decodeVe35]; simp only [e2]
  rw [if_pos g, f0, f1, f2]

theorem pwhile (stop : Nat) (ad : Nat) (pa : Nat) : Statement (.pwhile stop ad pa) := by
  rintro u hi ⟨⟩
  replace hi : stop < 2 ∧ ad < 16 ∧ pa < 16 := hi
  have ⟨b0, e1, e2, g, f0, f1, f2⟩ := fmt54 53 2 stop ad pa (by decide) (by decide) hi _ rfl
  refine ⟨_, rfl, b0, ?_⟩
  clear b0; revert e1 e2 g f0 f1 f2; generalize (53 * 33554432 + 2 * 16384 + stop * 2147483648 + ad * 2097152 + pa * 131072 : Nat) = x; intro e1 e2 g f0 f1 f2
  show decodeVe x = _
  rw [decodeVe35_top e1, decodeVe35]; simp only [e2]
  rw [if_pos g, f0, f1, f2]

theorem veCrRd (stop : Nat) (ar : Nat) (csel : Nat) : Statement (.veCrRd stop ar csel) := by
  rintro u hi ⟨⟩
  replace hi : stop < 2 ∧ ar < 16 ∧ csel < 256 ∧ csel ∈ [2, 3, 4, 5, 7, 9, 10, 16, 17, 18] := hi
  have ⟨b0, e1, e2, g0, f0, f1, f2⟩ := fmt55 55 0 stop ar csel (by decide) (by decide) ⟨hi.1, hi.2.1, hi.2.2.1⟩ _ rfl
  refine ⟨_, rfl, b0, ?_⟩
  clear b0; revert e1 e2 g0 f0 f1 f2; generalize (55 * 33554432 + 0 * 8388608 + stop * 2147483648 + ar * 524288 + csel * 2048 : Nat) = x; intro e1 e2 g0 f0 f1 f2
  show decodeVe x = _
  rw [decodeVe37_top e1, decodeVe37]; simp only [e2]
  rw [f0, f1, f2]
  rw [if_pos ⟨g0, by simp_all⟩]

theorem veCrRdHi (stop : Nat) (ar : Nat) (csel : Nat) : Statement (.veCrRdHi stop ar csel) := by
  rintro u hi ⟨⟩
  replace hi : stop < 2 ∧ ar < 16 ∧ csel < 256 ∧ csel ∈ [2, 3, 4, 5, 7, 9, 10, 16, 17, 18] := hi
  have ⟨b0, e1, e2, g0, f0, f1, f2⟩ := fmt55 55 1 stop ar csel (by decide) (by decide) ⟨hi.1, hi.2.1, hi.2.2.1⟩ _ rfl
  refine ⟨_, rfl, b0, ?_⟩
  clear b0; revert e1 e2 g0 f0 f1 f2; generalize (55 * 33554432 + 1 * 8388608 + stop * 2147483648 + ar * 524288 + csel * 2048 : Nat) = x; intro e1 e2 g0 f0 f1 f2
  show decodeVe x = _
  rw [decodeVe37_top e1, decodeVe37]; simp only [e2]
  rw [f0, f1, f2]
  rw [if_pos ⟨g0, by simp_all⟩]

theorem veCrWr (stop : Nat) (ar : Nat) (csel : Nat) : Statement (.veCrWr stop ar csel) := by
  rintro u hi ⟨⟩
  replace hi : stop < 2 ∧ ar < 16 ∧ csel < 256 ∧ csel ∈ [2, 3, 4, 5, 16, 17, 18] := hi
  have ⟨b0, e1, e2, g0, f0, f1, f2⟩ := fmt55 55 2 stop ar csel (by decide) (by decide) ⟨hi.1, hi.2.1, hi.2.2.1⟩ _ rfl
  refine ⟨_, rfl, b0, ?_⟩
  clear b0; revert e1 e2 g0 f0 f1 f2; generalize (55 * 33554432 + 2 * 8388608 + stop * 2147483648 + ar * 524288 + csel * 2048 : Nat) = x; intro e1 e2 g0 f0 f1 f2
  show decodeVe x = _
  rw [decodeVe37_top e1, decodeVe37]; simp only [e2]
  rw [f0, f1, f2]
  rw [if_pos ⟨g0, by simp_all⟩]

theorem veLbr (stop : Nat) (lev : Nat) (off : Nat) : Statement (.veLbr stop lev off) := by
  rintro u hi ⟨⟩
  replace hi : stop < 2 ∧ lev < 8 ∧ off < 65536 ∧ lev ≤ 5 := hi
  have ⟨b0, e1, g, f0, f1, f2⟩ := fmt56 56 stop lev off (by decide) hi _ rfl
  refine ⟨_, rfl, b0, ?_⟩
  clear b0; revert e1 g f0 f1 f2; generalize (56 * 33554432 + stop * 2147483648 + lev * 4194304 + off : Nat) = x; intro e1 g f0 f1 f2
  show decodeVe x = _
  rw [decodeVe, if_neg (not_void e1 (by decide) (by decide))]; simp only [e1]
  rw [if_pos g, f0, f1, f2]

theorem veSemSig (stop : Nat) (sem : Nat) : Statement (.veSemSig stop sem) := by
  rintro u hi ⟨⟩
  replace hi : stop < 2 ∧ sem < 64 := hi
  have ⟨b0, e1, e2, g, f0, f1⟩ := fmt57 57 0 stop sem (by decide) (by decide) hi _ rfl
  refine ⟨_, rfl, b0, ?_⟩
  clear b0; revert e1 e2 g f0 f1; generalize (57 * 33554432 + 0 * 8388608 + stop * 2147483648 + sem : Nat) = x; intro e1 e2 g f0 f1
  show decodeVe x = _
  rw [decodeVe39_top e1, decodeVe39]; simp only [e2]
  rw [if_pos g, f0, f1]

theorem veSemWait (stop : Nat) (sem : Nat) : Statement (.veSemWait stop sem) := by
  rintro u hi ⟨⟩
  replace hi : stop < 2 ∧ sem < 64 := hi
  have ⟨b0, e1, e2, g, f0, f1⟩ := fmt57 57 1 stop sem (by decide) (by decide) hi _ rfl
  refine ⟨_, rfl, b0, ?_⟩
  clear b0; revert e1 e2 g f0 f1; generalize (57 * 33554432 + 1 * 8388608 + stop * 2147483648 + sem : Nat) = x; intro e1 e2 g f0 f1
  show decodeVe x = _
  rw [decodeVe39_top e1, decodeVe39]; simp only [e2]
  rw [if_pos g, f0, f1]

theorem veTlWait (stop : Nat) (tl : Nat) (aa : Nat) : Statement (.veTlWait stop tl aa) := by
  rintro u hi ⟨⟩
  replace hi : stop < 2 ∧ tl < 8 ∧ aa < 16 := hi
  have ⟨b0, e1, e2, g, f0, f1, f2⟩ := fmt58 57 2 stop tl aa (by decide) (by decide) hi _ rfl
  refine ⟨_, rfl, b0, ?_⟩
  clear b0; revert e1 e2 g f0 f1 f2; generalize (57 * 33554432 + 2 * 8388608 + stop * 2147483648 + tl * 1048576 + aa * 65536 : Nat) = x; intro e1 e2 g f0 f1 f2
  show decodeVe x = _
  rw [decodeVe39_top e1, decodeVe39]; simp only [e2]
  rw [if_pos g, f0, f1, f2]

theorem veEnd (stop : Nat) : Statement (.veEnd stop) := by
  rintro u hi ⟨⟩
  replace hi : stop < 2 := hi
  have ⟨b0, e1, e2, g, f0⟩ := fmt59 58 0 stop (by decide) (by decide) hi _ rfl
  refine ⟨_, rfl, b0, ?_⟩
  clear b0; revert e1 e2 g f0; generalize (58 * 33554432 + 0 * 8388608 + stop * 2147483648 : Nat) = x; intro e1 e2 g f0
  show decodeVe x = _
  rw [decodeVe3A_top e1, decodeVe3A]; simp only [e2]
  rw [if_pos g, f0]

theorem veTrap (stop : Nat) (code : Nat) : Statement (.veTrap stop code) := by
  rintro u hi ⟨⟩
  replace hi : stop < 2 ∧ code < 65536 := hi
  have ⟨b0, e1, e2, g, f0, f1⟩ := fmt60 58 1 stop code (by decide) (by decide) hi _ rfl
  refine ⟨_, rfl, b0, ?_⟩
  clear b0; revert e1 e2 g f0 f1; generalize (58 * 33554432 + 1 * 8388608 + stop * 2147483648 + code : Nat) = x; intro e1 e2 g f0 f1
  show decodeVe x = _
  rw [decodeVe3A_top e1, decodeVe3A]; simp only [e2]
  rw [if_pos g, f0, f1]

theorem veYield (stop : Nat) : Statement (.veYield stop) := by
  rintro u hi ⟨⟩
  replace hi : stop < 2 := hi
  have ⟨b0, e1, e2, g, f0⟩ := fmt59 58 2 stop (by decide) (by decide) hi _ rfl
  refine ⟨_, rfl, b0, ?_⟩
  clear b0; revert e1 e2 g f0; generalize (58 * 33554432 + 2 * 8388608 + stop * 2147483648 : Nat) = x; intro e1 e2 g f0
  show decodeVe x = _
  rw [decodeVe3A_top e1, decodeVe3A]; simp only [e2]
  rw [if_pos g, f0]

theorem bz (stop : Nat) (ar : Nat) (off : Nat) : Statement (.bz stop ar off) := by
  rintro u hi ⟨⟩
  replace hi : stop < 2 ∧ ar < 16 ∧ off < 65536 := hi
  have ⟨b0, e1, e2, g, f0, f1, f2⟩ := fmt61 59 0 stop ar off (by decide) (by decide) hi _ rfl
  refine ⟨_, rfl, b0, ?_⟩
  clear b0; revert e1 e2 g f0 f1 f2; generalize (59 * 33554432 + 0 * 16777216 + stop * 2147483648 + ar * 1048576 + off : Nat) = x; intro e1 e2 g f0 f1 f2
  show decodeVe x = _
  rw [decodeVe3B_top e1, decodeVe3B]; simp only [e2]
  rw [if_pos g, f0, f1, f2]

theorem bnz (stop : Nat) (ar : Nat) (off : Nat) : Statement (.bnz stop ar off) := by
  rintro u hi ⟨⟩
  replace hi : stop < 2 ∧ ar < 16 ∧ off < 65536 := hi
  have ⟨b0, e1, e2, g, f0, f1, f2⟩ := fmt61 59 1 stop ar off (by decide) (by decide) hi _ rfl
  refine ⟨_, rfl, b0, ?_⟩
  clear b0; revert e1 e2 g f0 f1 f2; generalize (59 * 33554432 + 1 * 16777216 + stop * 2147483648 + ar * 1048576 + off : Nat) = x; intro e1 e2 g f0 f1 f2
  show decodeVe x = _
  rw [decodeVe3B_top e1, decodeVe3B]; simp only [e2]
  rw [if_pos g, f0, f1, f2]

theorem aAdd (stop : Nat) (ad : Nat) (aa : Nat) (ab : Nat) : Statement (.aAdd stop ad aa ab) := by
  rintro u hi ⟨⟩
  replace hi : stop < 2 ∧ ad < 16 ∧ aa < 16 ∧ ab < 16 := hi
  have ⟨b0, e1, e2, g, f0, f1, f2, f3⟩ := fmt62 60 0 stop ad aa ab (by decide) (by decide) hi _ rfl
  refine ⟨_, rfl, b0, ?_⟩
  clear b0; revert e1 e2 g f0 f1 f2 f3; generalize (60 * 33554432 + 0 * 256 + stop * 2147483648 + ad * 2097152 + aa * 131072 + ab * 8192 : Nat) = x; intro e1 e2 g f0 f1 f2 f3
  show decodeVe x = _
  rw [decodeVe3C_top e1, decodeVe3C]; simp only [e2]
  rw [if_pos g, f0, f1, f2, f3]

theorem aSub (stop : Nat) (ad : Nat) (aa : Nat) (ab : Nat) : Statement (.aSub stop ad aa ab) := by
  rintro u hi ⟨⟩
  replace hi : stop < 2 ∧ ad < 16 ∧ aa < 16 ∧ ab < 16 := hi
  have ⟨b0, e1, e2, g, f0, f1, f2, f3⟩ := fmt62 60 1 stop ad aa ab (by decide) (by decide) hi _ rfl
  refine ⟨_, rfl, b0, ?_⟩
  clear b0; revert e1 e2 g f0 f1 f2 f3; generalize (60 * 33554432 + 1 * 256 + stop * 2147483648 + ad * 2097152 + aa * 131072 + ab * 8192 : Nat) = x; intro e1 e2 g f0 f1 f2 f3
  show decodeVe x = _
  rw [decodeVe3C_top e1, decodeVe3C]; simp only [e2]
  rw [if_pos g, f0, f1, f2, f3]

theorem aMul (stop : Nat) (ad : Nat) (aa : Nat) (ab : Nat) : Statement (.aMul stop ad aa ab) := by
  rintro u hi ⟨⟩
  replace hi : stop < 2 ∧ ad < 16 ∧ aa < 16 ∧ ab < 16 := hi
  have ⟨b0, e1, e2, g, f0, f1, f2, f3⟩ := fmt62 60 2 stop ad aa ab (by decide) (by decide) hi _ rfl
  refine ⟨_, rfl, b0, ?_⟩
  clear b0; revert e1 e2 g f0 f1 f2 f3; generalize (60 * 33554432 + 2 * 256 + stop * 2147483648 + ad * 2097152 + aa * 131072 + ab * 8192 : Nat) = x; intro e1 e2 g f0 f1 f2 f3
  show decodeVe x = _
  rw [decodeVe3C_top e1, decodeVe3C]; simp only [e2]
  rw [if_pos g, f0, f1, f2, f3]

theorem aAnd (stop : Nat) (ad : Nat) (aa : Nat) (ab : Nat) : Statement (.aAnd stop ad aa ab) := by
  rintro u hi ⟨⟩
  replace hi : stop < 2 ∧ ad < 16 ∧ aa < 16 ∧ ab < 16 := hi
  have ⟨b0, e1, e2, g, f0, f1, f2, f3⟩ := fmt62 60 3 stop ad aa ab (by decide) (by decide) hi _ rfl
  refine ⟨_, rfl, b0, ?_⟩
  clear b0; revert e1 e2 g f0 f1 f2 f3; generalize (60 * 33554432 + 3 * 256 + stop * 2147483648 + ad * 2097152 + aa * 131072 + ab * 8192 : Nat) = x; intro e1 e2 g f0 f1 f2 f3
  show decodeVe x = _
  rw [decodeVe3C_top e1, decodeVe3C]; simp only [e2]
  rw [if_pos g, f0, f1, f2, f3]

theorem aOr (stop : Nat) (ad : Nat) (aa : Nat) (ab : Nat) : Statement (.aOr stop ad aa ab) := by
  rintro u hi ⟨⟩
  replace hi : stop < 2 ∧ ad < 16 ∧ aa < 16 ∧ ab < 16 := hi
  have ⟨b0, e1, e2, g, f0, f1, f2, f3⟩ := fmt62 60 4 stop ad aa ab (by decide) (by decide) hi _ rfl
  refine ⟨_, rfl, b0, ?_⟩
  clear b0; revert e1 e2 g f0 f1 f2 f3; generalize (60 * 33554432 + 4 * 256 + stop * 2147483648 + ad * 2097152 + aa * 131072 + ab * 8192 : Nat) = x; intro e1 e2 g f0 f1 f2 f3
  show decodeVe x = _
  rw [decodeVe3C_top e1, decodeVe3C]; simp only [e2]
  rw [if_pos g, f0, f1, f2, f3]

theorem aXor (stop : Nat) (ad : Nat) (aa : Nat) (ab : Nat) : Statement (.aXor stop ad aa ab) := by
  rintro u hi ⟨⟩
  replace hi : stop < 2 ∧ ad < 16 ∧ aa < 16 ∧ ab < 16 := hi
  have ⟨b0, e1, e2, g, f0, f1, f2, f3⟩ := fmt62 60 5 stop ad aa ab (by decide) (by decide) hi _ rfl
  refine ⟨_, rfl, b0, ?_⟩
  clear b0; revert e1 e2 g f0 f1 f2 f3; generalize (60 * 33554432 + 5 * 256 + stop * 2147483648 + ad * 2097152 + aa * 131072 + ab * 8192 : Nat) = x; intro e1 e2 g f0 f1 f2 f3
  show decodeVe x = _
  rw [decodeVe3C_top e1, decodeVe3C]; simp only [e2]
  rw [if_pos g, f0, f1, f2, f3]

theorem aSll (stop : Nat) (ad : Nat) (aa : Nat) (ab : Nat) : Statement (.aSll stop ad aa ab) := by
  rintro u hi ⟨⟩
  replace hi : stop < 2 ∧ ad < 16 ∧ aa < 16 ∧ ab < 16 := hi
  have ⟨b0, e1, e2, g, f0, f1, f2, f3⟩ := fmt62 60 6 stop ad aa ab (by decide) (by decide) hi _ rfl
  refine ⟨_, rfl, b0, ?_⟩
  clear b0; revert e1 e2 g f0 f1 f2 f3; generalize (60 * 33554432 + 6 * 256 + stop * 2147483648 + ad * 2097152 + aa * 131072 + ab * 8192 : Nat) = x; intro e1 e2 g f0 f1 f2 f3
  show decodeVe x = _
  rw [decodeVe3C_top e1, decodeVe3C]; simp only [e2]
  rw [if_pos g, f0, f1, f2, f3]

theorem aSrl (stop : Nat) (ad : Nat) (aa : Nat) (ab : Nat) : Statement (.aSrl stop ad aa ab) := by
  rintro u hi ⟨⟩
  replace hi : stop < 2 ∧ ad < 16 ∧ aa < 16 ∧ ab < 16 := hi
  have ⟨b0, e1, e2, g, f0, f1, f2, f3⟩ := fmt62 60 7 stop ad aa ab (by decide) (by decide) hi _ rfl
  refine ⟨_, rfl, b0, ?_⟩
  clear b0; revert e1 e2 g f0 f1 f2 f3; generalize (60 * 33554432 + 7 * 256 + stop * 2147483648 + ad * 2097152 + aa * 131072 + ab * 8192 : Nat) = x; intro e1 e2 g f0 f1 f2 f3
  show decodeVe x = _
  rw [decodeVe3C_top e1, decodeVe3C]; simp only [e2]
  rw [if_pos g, f0, f1, f2, f3]

theorem aSra (stop : Nat) (ad : Nat) (aa : Nat) (ab : Nat) : Statement (.aSra stop ad aa ab) := by
  rintro u hi ⟨⟩
  replace hi : stop < 2 ∧ ad < 16 ∧ aa < 16 ∧ ab < 16 := hi
  have ⟨b0, e1, e2, g, f0, f1, f2, f3⟩ := fmt62 60 8 stop ad aa ab (by decide) (by decide) hi _ rfl
  refine ⟨_, rfl, b0, ?_⟩
  clear b0; revert e1 e2 g f0 f1 f2 f3; generalize (60 * 33554432 + 8 * 256 + stop * 2147483648 + ad * 2097152 + aa * 131072 + ab * 8192 : Nat) = x; intro e1 e2 g f0 f1 f2 f3
  show decodeVe x = _
  rw [decodeVe3C_top e1, decodeVe3C]; simp only [e2]
  rw [if_pos g, f0, f1, f2, f3]

theorem aMin (stop : Nat) (ad : Nat) (aa : Nat) (ab : Nat) : Statement (.aMin stop ad aa ab) := by
  rintro u hi ⟨⟩
  replace hi : stop < 2 ∧ ad < 16 ∧ aa < 16 ∧ ab < 16 := hi
  have ⟨b0, e1, e2, g, f0, f1, f2, f3⟩ := fmt62 60 9 stop ad aa ab (by decide) (by decide) hi _ rfl
  refine ⟨_, rfl, b0, ?_⟩
  clear b0; revert e1 e2 g f0 f1 f2 f3; generalize (60 * 33554432 + 9 * 256 + stop * 2147483648 + ad * 2097152 + aa * 131072 + ab * 8192 : Nat) = x; intro e1 e2 g f0 f1 f2 f3
  show decodeVe x = _
  rw [decodeVe3C_top e1, decodeVe3C]; simp only [e2]
  rw [if_pos g, f0, f1, f2, f3]

theorem aMax (stop : Nat) (ad : Nat) (aa : Nat) (ab : Nat) : Statement (.aMax stop ad aa ab) := by
  rintro u hi ⟨⟩
  replace hi : stop < 2 ∧ ad < 16 ∧ aa < 16 ∧ ab < 16 := hi
  have ⟨b0, e1, e2, g, f0, f1, f2, f3⟩ := fmt62 60 10 stop ad aa ab (by decide) (by decide) hi _ rfl
  refine ⟨_, rfl, b0, ?_⟩
  clear b0; revert e1 e2 g f0 f1 f2 f3; generalize (60 * 33554432 + 10 * 256 + stop * 2147483648 + ad * 2097152 + aa * 131072 + ab * 8192 : Nat) = x; intro e1 e2 g f0 f1 f2 f3
  show decodeVe x = _
  rw [decodeVe3C_top e1, decodeVe3C]; simp only [e2]
  rw [if_pos g, f0, f1, f2, f3]

theorem aMinu (stop : Nat) (ad : Nat) (aa : Nat) (ab : Nat) : Statement (.aMinu stop ad aa ab) := by
  rintro u hi ⟨⟩
  replace hi : stop < 2 ∧ ad < 16 ∧ aa < 16 ∧ ab < 16 := hi
  have ⟨b0, e1, e2, g, f0, f1, f2, f3⟩ := fmt62 60 11 stop ad aa ab (by decide) (by decide) hi _ rfl
  refine ⟨_, rfl, b0, ?_⟩
  clear b0; revert e1 e2 g f0 f1 f2 f3; generalize (60 * 33554432 + 11 * 256 + stop * 2147483648 + ad * 2097152 + aa * 131072 + ab * 8192 : Nat) = x; intro e1 e2 g f0 f1 f2 f3
  show decodeVe x = _
  rw [decodeVe3C_top e1, decodeVe3C]; simp only [e2]
  rw [if_pos g, f0, f1, f2, f3]

theorem aMaxu (stop : Nat) (ad : Nat) (aa : Nat) (ab : Nat) : Statement (.aMaxu stop ad aa ab) := by
  rintro u hi ⟨⟩
  replace hi : stop < 2 ∧ ad < 16 ∧ aa < 16 ∧ ab < 16 := hi
  have ⟨b0, e1, e2, g, f0, f1, f2, f3⟩ := fmt62 60 12 stop ad aa ab (by decide) (by decide) hi _ rfl
  refine ⟨_, rfl, b0, ?_⟩
  clear b0; revert e1 e2 g f0 f1 f2 f3; generalize (60 * 33554432 + 12 * 256 + stop * 2147483648 + ad * 2097152 + aa * 131072 + ab * 8192 : Nat) = x; intro e1 e2 g f0 f1 f2 f3
  show decodeVe x = _
  rw [decodeVe3C_top e1, decodeVe3C]; simp only [e2]
  rw [if_pos g, f0, f1, f2, f3]

theorem aSlt (stop : Nat) (ad : Nat) (aa : Nat) (ab : Nat) : Statement (.aSlt stop ad aa ab) := by
  rintro u hi ⟨⟩
  replace hi : stop < 2 ∧ ad < 16 ∧ aa < 16 ∧ ab < 16 := hi
  have ⟨b0, e1, e2, g, f0, f1, f2, f3⟩ := fmt62 60 13 stop ad aa ab (by decide) (by decide) hi _ rfl
  refine ⟨_, rfl, b0, ?_⟩
  clear b0; revert e1 e2 g f0 f1 f2 f3; generalize (60 * 33554432 + 13 * 256 + stop * 2147483648 + ad * 2097152 + aa * 131072 + ab * 8192 : Nat) = x; intro e1 e2 g f0 f1 f2 f3
  show decodeVe x = _
  rw [decodeVe3C_top e1, decodeVe3C]; simp only [e2]
  rw [if_pos g, f0, f1, f2, f3]

theorem aSltu (stop : Nat) (ad : Nat) (aa : Nat) (ab : Nat) : Statement (.aSltu stop ad aa ab) := by
  rintro u hi ⟨⟩
  replace hi : stop < 2 ∧ ad < 16 ∧ aa < 16 ∧ ab < 16 := hi
  have ⟨b0, e1, e2, g, f0, f1, f2, f3⟩ := fmt62 60 14 stop ad aa ab (by decide) (by decide) hi _ rfl
  refine ⟨_, rfl, b0, ?_⟩
  clear b0; revert e1 e2 g f0 f1 f2 f3; generalize (60 * 33554432 + 14 * 256 + stop * 2147483648 + ad * 2097152 + aa * 131072 + ab * 8192 : Nat) = x; intro e1 e2 g f0 f1 f2 f3
  show decodeVe x = _
  rw [decodeVe3C_top e1, decodeVe3C]; simp only [e2]
  rw [if_pos g, f0, f1, f2, f3]

theorem aLc (stop : Nat) (ad : Nat) (lev : Nat) : Statement (.aLc stop ad lev) := by
  rintro u hi ⟨⟩
  replace hi : stop < 2 ∧ ad < 16 ∧ lev < 16 ∧ lev ≤ 5 := hi
  have ⟨b0, e1, e2, g, f0, f1, f2⟩ := fmt63 60 15 stop ad lev (by decide) (by decide) hi _ rfl
  refine ⟨_, rfl, b0, ?_⟩
  clear b0; revert e1 e2 g f0 f1 f2; generalize (60 * 33554432 + 15 * 256 + stop * 2147483648 + ad * 2097152 + lev * 8192 : Nat) = x; intro e1 e2 g f0 f1 f2
  show decodeVe x = _
  rw [decodeVe3C_top e1, decodeVe3C]; simp only [e2]
  rw [if_pos g, f0, f1, f2]

theorem aIt (stop : Nat) (ad : Nat) (lev : Nat) : Statement (.aIt stop ad lev) := by
  rintro u hi ⟨⟩
  replace hi : stop < 2 ∧ ad < 16 ∧ lev < 16 ∧ lev ≤ 5 := hi
  have ⟨b0, e1, e2, g, f0, f1, f2⟩ := fmt63 60 16 stop ad lev (by decide) (by decide) hi _ rfl
  refine ⟨_, rfl, b0, ?_⟩
  clear b0; revert e1 e2 g f0 f1 f2; generalize (60 * 33554432 + 16 * 256 + stop * 2147483648 + ad * 2097152 + lev * 8192 : Nat) = x; intro e1 e2 g f0 f1 f2
  show decodeVe x = _
  rw [decodeVe3C_top e1, decodeVe3C]; simp only [e2]
  rw [if_pos g, f0, f1, f2]

theorem aAddi (stop : Nat) (ad : Nat) (aa : Nat) (imm : Nat) : Statement (.aAddi stop ad aa imm) := by
  rintro u hi ⟨⟩
  replace hi : stop < 2 ∧ ad < 16 ∧ aa < 16 ∧ imm < 65536 := hi
  have ⟨b0, e1, e2, f0, f1, f2, f3⟩ := fmt64 61 0 stop ad aa imm (by decide) (by decide) hi _ rfl
  refine ⟨_, rfl, b0, ?_⟩
  clear b0; revert e1 e2 f0 f1 f2 f3; generalize (61 * 33554432 + 0 * 65536 + stop * 2147483648 + ad * 2097152 + aa * 131072 + imm : Nat) = x; intro e1 e2 f0 f1 f2 f3
  show decodeVe x = _
  rw [decodeVe3D_top e1, decodeVe3D]; simp only [e2]
  rw [f0, f1, f2, f3]

theorem aLui (stop : Nat) (ad : Nat) (imm : Nat) : Statement (.aLui stop ad imm) := by
  rintro u hi ⟨⟩
  replace hi : stop < 2 ∧ ad < 16 ∧ imm < 65536 := hi
  have ⟨b0, e1, e2, g, f0, f1, f2⟩ := fmt65 61 1 stop ad imm (by decide) (by decide) hi _ rfl
  refine ⟨_, rfl, b0, ?_⟩
  clear b0; revert e1 e2 g f0 f1 f2; generalize (61 * 33554432 + 1 * 65536 + stop * 2147483648 + ad * 2097152 + imm : Nat) = x; intro e1 e2 g f0 f1 f2
  show decodeVe x = _
  rw [decodeVe3D_top e1, decodeVe3D]; simp only [e2]
  rw [if_pos g, f0, f1, f2]

theorem mPass (afmt : Nat) (asrc : Nat) (aga : Nat) (agc : Nat) (rowsM1 : Nat) (z : Nat) (stg : Nat) : Statement (.mPass afmt asrc aga agc rowsM1 z stg) := by
  rintro u hi ⟨⟩
  replace hi : afmt < 8 ∧ asrc < 4 ∧ aga < 8 ∧ agc < 8 ∧ rowsM1 < 128 ∧ z < 2 ∧ stg < 4 ∧ afmt ≤ 6 ∧ asrc ≤ 2 ∧ (asrc = 0 ∨ aga = 0) := hi
  have ⟨b0, e1, g, f0, f1, f2, f3, f4, f5, f6⟩ := fmt66 1 afmt asrc aga agc rowsM1 z stg (by decide) hi _ rfl
  refine ⟨_, rfl, b0, ?_⟩
  clear b0; revert e1 g f0 f1 f2 f3 f4 f5 f6; generalize (1 * 67108864 + afmt * 8388608 + asrc * 2097152 + aga * 262144 + agc * 32768 + rowsM1 * 256 + z * 128 + stg * 32 : Nat) = x; intro e1 g f0 f1 f2 f3 f4 f5 f6
  show decodeMe x = _
  rw [decodeMe, if_neg (not_void e1 (by decide) (by decide))]; simp only [e1]
  rw [if_pos g, f0, f1, f2, f3, f4, f5, f6]

theorem mPassi (afmt : Nat) (asrc : Nat) (aga : Nat) (agc : Nat) (rowsM1 : Nat) (z : Nat) (stg : Nat) : Statement (.mPassi afmt asrc aga agc rowsM1 z stg) := by
  rintro u hi ⟨⟩
  replace hi : afmt < 8 ∧ asrc < 4 ∧ aga < 8 ∧ agc < 8 ∧ rowsM1 < 128 ∧ z < 2 ∧ stg < 4 ∧ afmt ≤ 6 ∧ asrc ≤ 2 ∧ (asrc = 0 ∨ aga = 0) := hi
  have ⟨b0, e1, g, f0, f1, f2, f3, f4, f5, f6⟩ := fmt66 2 afmt asrc aga agc rowsM1 z stg (by decide) hi _ rfl
  refine ⟨_, rfl, b0, ?_⟩
  clear b0; revert e1 g f0 f1 f2 f3 f4 f5 f6; generalize (2 * 67108864 + afmt * 8388608 + asrc * 2097152 + aga * 262144 + agc * 32768 + rowsM1 * 256 + z * 128 + stg * 32 : Nat) = x; intro e1 g f0 f1 f2 f3 f4 f5 f6
  show decodeMe x = _
  rw [decodeMe, if_neg (not_void e1 (by decide) (by decide))]; simp only [e1]
  rw [if_pos g, f0, f1, f2, f3, f4, f5, f6]

theorem mGpass (afmt : Nat) (asrc : Nat) (aga : Nat) (agg : Nat) (rowsM1 : Nat) (stg : Nat) : Statement (.mGpass afmt asrc aga agg rowsM1 stg) := by
  rintro u hi ⟨⟩
  replace hi : afmt < 8 ∧ asrc < 4 ∧ aga < 8 ∧ agg < 8 ∧ rowsM1 < 128 ∧ stg < 4 ∧ afmt ≤ 6 ∧ asrc ≤ 2 ∧ (asrc = 0 ∨ aga = 0) := hi
  have ⟨b0, e1, g, f0, f1, f2, f3, f4, f5⟩ := fmt67 16 afmt asrc aga agg rowsM1 stg (by decide) hi _ rfl
  refine ⟨_, rfl, b0, ?_⟩
  clear b0; revert e1 g f0 f1 f2 f3 f4 f5; generalize (16 * 67108864 + afmt * 8388608 + asrc * 2097152 + aga * 262144 + agg * 32768 + rowsM1 * 256 + stg * 32 : Nat) = x; intro e1 g f0 f1 f2 f3 f4 f5
  show decodeMe x = _
  rw [decodeMe, if_neg (not_void e1 (by decide) (by decide))]; simp only [e1]
  rw [if_pos g, f0, f1, f2, f3, f4, f5]

theorem gSum (agg : Nat) (agi : Nat) (agc : Nat) (z : Nat) (rowsM1 : Nat) (stg : Nat) : Statement (.gSum agg agi agc z rowsM1 stg) := by
  rintro u hi ⟨⟩
  replace hi : agg < 8 ∧ agi < 8 ∧ agc < 8 ∧ z < 2 ∧ rowsM1 < 256 ∧ stg < 4 := hi
  have ⟨b0, e1, g, f0, f1, f2, f3, f4, f5⟩ := fmt68 17 agg agi agc z rowsM1 stg (by decide) hi _ rfl
  refine ⟨_, rfl, b0, ?_⟩
  clear b0; revert e1 g f0 f1 f2 f3 f4 f5; generalize (17 * 67108864 + agg * 8388608 + agi * 1048576 + agc * 131072 + z * 65536 + rowsM1 * 256 + stg * 64 : Nat) = x; intro e1 g f0 f1 f2 f3 f4 f5
  show decodeMe x = _
  rw [decodeMe, if_neg (not_void e1 (by decide) (by decide))]; simp only [e1]
  rw [if_pos g, f0, f1, f2, f3, f4, f5]

theorem mConv (afmt : Nat) (agp : Nat) (agc : Nat) (rowsM1 : Nat) (z : Nat) (stg : Nat) (tap : Nat) : Statement (.mConv afmt agp agc rowsM1 z stg tap) := by
  rintro u hi ⟨⟩
  replace hi : afmt < 8 ∧ agp < 8 ∧ agc < 8 ∧ rowsM1 < 64 ∧ z < 2 ∧ stg < 4 ∧ tap < 256 ∧ afmt ≤ 6 := hi
  have ⟨b0, e1, g, f0, f1, f2, f3, f4, f5, f6⟩ := fmt69 24 afmt agp agc rowsM1 z stg tap (by decide) hi _ rfl
  refine ⟨_, rfl, b0, ?_⟩
  clear b0; revert e1 g f0 f1 f2 f3 f4 f5 f6; generalize (24 * 67108864 + afmt * 8388608 + agp * 1048576 + agc * 131072 + rowsM1 * 2048 + z * 1024 + stg * 256 + tap : Nat) = x; intro e1 g f0 f1 f2 f3 f4 f5 f6
  show decodeMe x = _
  rw [decodeMe, if_neg (not_void e1 (by decide) (by decide))]; simp only [e1]
  rw [if_pos g, f0, f1, f2, f3, f4, f5, f6]

theorem mShape (off : Nat) : Statement (.mShape off) := by
  rintro u hi ⟨⟩
  replace hi : off < 65536 := hi
  have ⟨b0, e1, g, f0⟩ := fmt33 25 off (by decide) hi _ rfl
  refine ⟨_, rfl, b0, ?_⟩
  clear b0; revert e1 g f0; generalize (25 * 67108864 + off : Nat) = x; intro e1 g f0
  show decodeMe x = _
  rw [decodeMe, if_neg (not_void e1 (by decide) (by decide))]; simp only [e1]
  rw [if_pos g, f0]

theorem mClr (agc : Nat) (rowsM1 : Nat) (stg : Nat) : Statement (.mClr agc rowsM1 stg) := by
  rintro u hi ⟨⟩
  replace hi : agc < 8 ∧ rowsM1 < 128 ∧ stg < 4 := hi
  have ⟨b0, e1, g, f0, f1, f2⟩ := fmt70 26 agc rowsM1 stg (by decide) hi _ rfl
  refine ⟨_, rfl, b0, ?_⟩
  clear b0; revert e1 g f0 f1 f2; generalize (26 * 67108864 + agc * 32768 + rowsM1 * 256 + stg * 32 : Nat) = x; intro e1 g f0 f1 f2
  show decodeMe x = _
  rw [decodeMe, if_neg (not_void e1 (by decide) (by decide))]; simp only [e1]
  rw [if_pos g, f0, f1, f2]

theorem mTq (sel : Nat) (off : Nat) : Statement (.mTq sel off) := by
  rintro u hi ⟨⟩
  replace hi : sel < 4 ∧ off < 65536 ∧ sel ≤ 2 := hi
  have ⟨b0, e1, g, f0, f1⟩ := fmt71 32 sel off (by decide) hi _ rfl
  refine ⟨_, rfl, b0, ?_⟩
  clear b0; revert e1 g f0 f1; generalize (32 * 67108864 + sel * 16777216 + off : Nat) = x; intro e1 g f0 f1
  show decodeMe x = _
  rw [decodeMe, if_neg (not_void e1 (by decide) (by decide))]; simp only [e1]
  rw [if_pos g, f0, f1]

theorem mCrLd (csel : Nat) (off : Nat) : Statement (.mCrLd csel off) := by
  rintro u hi ⟨⟩
  replace hi : csel < 256 ∧ off < 65536 ∧ meCselW csel = true := hi
  have ⟨b0, e1, e2, f0, f1⟩ := fmt72 40 0 csel off (by decide) (by decide) ⟨hi.1, hi.2.1⟩ _ rfl
  refine ⟨_, rfl, b0, ?_⟩
  clear b0; revert e1 e2 f0 f1; generalize (40 * 67108864 + 0 * 16777216 + csel * 65536 + off : Nat) = x; intro e1 e2 f0 f1
  show decodeMe x = _
  rw [decodeMe28_top e1, decodeMe28]; simp only [e2]
  rw [f0, f1]
  rw [if_pos (by simp_all)]

theorem mCrSt (csel : Nat) (off : Nat) : Statement (.mCrSt csel off) := by
  rintro u hi ⟨⟩
  replace hi : csel < 256 ∧ off < 65536 ∧ meCsel csel = true := hi
  have ⟨b0, e1, e2, f0, f1⟩ := fmt72 40 1 csel off (by decide) (by decide) ⟨hi.1, hi.2.1⟩ _ rfl
  refine ⟨_, rfl, b0, ?_⟩
  clear b0; revert e1 e2 f0 f1; generalize (40 * 67108864 + 1 * 16777216 + csel * 65536 + off : Nat) = x; intro e1 e2 f0 f1
  show decodeMe x = _
  rw [decodeMe28_top e1, decodeMe28]; simp only [e2]
  rw [f0, f1]
  rw [if_pos (by simp_all)]

theorem mCrImm (csel : Nat) (imm : Nat) : Statement (.mCrImm csel imm) := by
  rintro u hi ⟨⟩
  replace hi : csel < 256 ∧ imm < 65536 ∧ meCselW csel = true := hi
  have ⟨b0, e1, e2, f0, f1⟩ := fmt72 40 2 csel imm (by decide) (by decide) ⟨hi.1, hi.2.1⟩ _ rfl
  refine ⟨_, rfl, b0, ?_⟩
  clear b0; revert e1 e2 f0 f1; generalize (40 * 67108864 + 2 * 16777216 + csel * 65536 + imm : Nat) = x; intro e1 e2 f0 f1
  show decodeMe x = _
  rw [decodeMe28_top e1, decodeMe28]; simp only [e2]
  rw [f0, f1]
  rw [if_pos (by simp_all)]

theorem meSemSig (sem : Nat) : Statement (.meSemSig sem) := by
  rintro u hi ⟨⟩
  replace hi : sem < 64 := hi
  have ⟨b0, e1, e2, g, f0⟩ := fmt73 41 0 sem (by decide) (by decide) hi _ rfl
  refine ⟨_, rfl, b0, ?_⟩
  clear b0; revert e1 e2 g f0; generalize (41 * 67108864 + 0 * 16777216 + sem : Nat) = x; intro e1 e2 g f0
  show decodeMe x = _
  rw [decodeMe29_top e1, decodeMe29]; simp only [e2]
  rw [if_pos g, f0]

theorem meSemWait (sem : Nat) : Statement (.meSemWait sem) := by
  rintro u hi ⟨⟩
  replace hi : sem < 64 := hi
  have ⟨b0, e1, e2, g, f0⟩ := fmt73 41 1 sem (by decide) (by decide) hi _ rfl
  refine ⟨_, rfl, b0, ?_⟩
  clear b0; revert e1 e2 g f0; generalize (41 * 67108864 + 1 * 16777216 + sem : Nat) = x; intro e1 e2 g f0
  show decodeMe x = _
  rw [decodeMe29_top e1, decodeMe29]; simp only [e2]
  rw [if_pos g, f0]

theorem meTlWait (tl : Nat) (inc : Nat) : Statement (.meTlWait tl inc) := by
  rintro u hi ⟨⟩
  replace hi : tl < 8 ∧ inc < 65536 := hi
  have ⟨b0, e1, e2, g, f0, f1⟩ := fmt74 41 2 tl inc (by decide) (by decide) hi _ rfl
  refine ⟨_, rfl, b0, ?_⟩
  clear b0; revert e1 e2 g f0 f1; generalize (41 * 67108864 + 2 * 16777216 + tl * 2097152 + inc : Nat) = x; intro e1 e2 g f0 f1
  show decodeMe x = _
  rw [decodeMe29_top e1, decodeMe29]; simp only [e2]
  rw [if_pos g, f0, f1]

theorem meLbr (lev : Nat) (off : Nat) : Statement (.meLbr lev off) := by
  rintro u hi ⟨⟩
  replace hi : lev < 8 ∧ off < 65536 ∧ lev ≤ 5 := hi
  have ⟨b0, e1, g, f0, f1⟩ := fmt21 42 lev off (by decide) hi _ rfl
  refine ⟨_, rfl, b0, ?_⟩
  clear b0; revert e1 g f0 f1; generalize (42 * 67108864 + lev * 8388608 + off : Nat) = x; intro e1 g f0 f1
  show decodeMe x = _
  rw [decodeMe, if_neg (not_void e1 (by decide) (by decide))]; simp only [e1]
  rw [if_pos g, f0, f1]

theorem meEnd : Statement (.meEnd) := by rintro u _ ⟨⟩; exact ⟨_, rfl, by decide, rfl⟩

theorem meTrap (code : Nat) : Statement (.meTrap code) := by
  rintro u hi ⟨⟩
  replace hi : code < 65536 := hi
  have ⟨b0, e1, e2, g, f0⟩ := fmt75 43 1 code (by decide) (by decide) hi _ rfl
  refine ⟨_, rfl, b0, ?_⟩
  clear b0; revert e1 e2 g f0; generalize (43 * 67108864 + 1 * 16777216 + code : Nat) = x; intro e1 e2 g f0
  show decodeMe x = _
  rw [decodeMe2B_top e1, decodeMe2B]; simp only [e2]
  rw [if_pos g, f0]

theorem meYield : Statement (.meYield) := by rintro u _ ⟨⟩; exact ⟨_, rfl, by decide, rfl⟩

theorem mB (off : Nat) : Statement (.mB off) := by
  rintro u hi ⟨⟩
  replace hi : off < 65536 := hi
  have ⟨b0, e1, g, f0⟩ := fmt33 44 off (by decide) hi _ rfl
  refine ⟨_, rfl, b0, ?_⟩
  clear b0; revert e1 g f0; generalize (44 * 67108864 + off : Nat) = x; intro e1 g f0
  show decodeMe x = _
  rw [decodeMe, if_neg (not_void e1 (by decide) (by decide))]; simp only [e1]
  rw [if_pos g, f0]

theorem xlLd (h : Nat) (cc : Nat) (cbf : Nat) (rec : Nat) (cb : Nat) (fo : Nat) (bar : Nat) : Statement (.xlLd h cc cbf rec cb fo bar) := by
  rintro u hi ⟨⟩
  replace hi : h < 16 ∧ cc < 16 ∧ cbf < 16 ∧ rec < 1024 ∧ cb < 2 ∧ fo < 2 ∧ bar < 2 := hi
  have ⟨b0, e1, g, f0, f1, f2, f3, f4, f5, f6⟩ := fmt76 1 h cc cbf rec cb fo bar (by decide) hi _ rfl
  refine ⟨_, rfl, b0, ?_⟩
  clear b0; revert e1 g f0 f1 f2 f3 f4 f5 f6; generalize (1 * 67108864 + h * 4194304 + cc * 262144 + cbf * 16384 + rec * 16 + cb * 4 + fo * 2 + bar : Nat) = x; intro e1 g f0 f1 f2 f3 f4 f5 f6
  show decodeXl x = _
  rw [decodeXl, if_neg (by rw [e1]; decide)]
  rw [decodeXf, if_neg (not_void e1 (by decide) (by decide))]; simp only [e1]
  rw [if_pos g, f0, f1, f2, f3, f4, f5, f6]

theorem xlGather (h : Nat) (cc : Nat) (cbf : Nat) (rec : Nat) (cb : Nat) (fo : Nat) (bar : Nat) : Statement (.xlGather h cc cbf rec cb fo bar) := by
  rintro u hi ⟨⟩
  replace hi : h < 16 ∧ cc < 16 ∧ cbf < 16 ∧ rec < 1024 ∧ cb < 2 ∧ fo < 2 ∧ bar < 2 := hi
  have ⟨b0, e1, g, f0, f1, f2, f3, f4, f5, f6⟩ := fmt76 2 h cc cbf rec cb fo bar (by decide) hi _ rfl
  refine ⟨_, rfl, b0, ?_⟩
  clear b0; revert e1 g f0 f1 f2 f3 f4 f5 f6; generalize (2 * 67108864 + h * 4194304 + cc * 262144 + cbf * 16384 + rec * 16 + cb * 4 + fo * 2 + bar : Nat) = x; intro e1 g f0 f1 f2 f3 f4 f5 f6
  show decodeXl x = _
  rw [decodeXl, if_neg (by rw [e1]; decide)]
  rw [decodeXf, if_neg (not_void e1 (by decide) (by decide))]; simp only [e1]
  rw [if_pos g, f0, f1, f2, f3, f4, f5, f6]

theorem xlGather8 (h : Nat) (cc : Nat) (cbf : Nat) (rec : Nat) (cb : Nat) (bar : Nat) : Statement (.xlGather8 h cc cbf rec cb bar) := by
  rintro u hi ⟨⟩
  replace hi : h < 16 ∧ cc < 16 ∧ cbf < 16 ∧ rec < 1024 ∧ cb < 2 ∧ bar < 2 := hi
  have ⟨b0, e1, g, f0, f1, f2, f3, f4, f5⟩ := fmt77 3 h cc cbf rec cb bar (by decide) hi _ rfl
  refine ⟨_, rfl, b0, ?_⟩
  clear b0; revert e1 g f0 f1 f2 f3 f4 f5; generalize (3 * 67108864 + h * 4194304 + cc * 262144 + cbf * 16384 + rec * 16 + cb * 4 + bar : Nat) = x; intro e1 g f0 f1 f2 f3 f4 f5
  show decodeXl x = _
  rw [decodeXl, if_neg (by rw [e1]; decide)]
  rw [decodeXf, if_neg (not_void e1 (by decide) (by decide))]; simp only [e1]
  rw [if_pos g, f0, f1, f2, f3, f4, f5]

theorem xlFeed (h : Nat) (cc : Nat) (rec : Nat) (ff : Nat) (fo : Nat) : Statement (.xlFeed h cc rec ff fo) := by
  rintro u hi ⟨⟩
  replace hi : h < 16 ∧ cc < 16 ∧ rec < 1024 ∧ ff < 2 ∧ fo < 2 := hi
  have ⟨b0, e1, g, f0, f1, f2, f3, f4⟩ := fmt78 4 h cc rec ff fo (by decide) hi _ rfl
  refine ⟨_, rfl, b0, ?_⟩
  clear b0; revert e1 g f0 f1 f2 f3 f4; generalize (4 * 67108864 + h * 4194304 + cc * 262144 + rec * 16 + ff * 4 + fo * 2 : Nat) = x; intro e1 g f0 f1 f2 f3 f4
  show decodeXl x = _
  rw [decodeXl, if_neg (by rw [e1]; decide)]
  rw [decodeXf, if_neg (not_void e1 (by decide) (by decide))]; simp only [e1]
  rw [if_pos g, f0, f1, f2, f3, f4]

theorem xlPlatenDense (h : Nat) (cc : Nat) (cbf : Nat) (rec : Nat) : Statement (.xlPlatenDense h cc cbf rec) := by
  rintro u hi ⟨⟩
  replace hi : h < 16 ∧ cc < 16 ∧ cbf < 16 ∧ rec < 1024 := hi
  have ⟨b0, e1, e2, g, f0, f1, f2, f3⟩ := fmt79 5 0 h cc cbf rec (by decide) (by decide) hi _ rfl
  refine ⟨_, rfl, b0, ?_⟩
  clear b0; revert e1 e2 g f0 f1 f2 f3; generalize (5 * 67108864 + 0 * 4 + h * 4194304 + cc * 262144 + cbf * 16384 + rec * 16 : Nat) = x; intro e1 e2 g f0 f1 f2 f3
  show decodeXl x = _
  rw [decodeXl, if_neg (by rw [e1]; decide)]
  rw [decodeXf05_top e1, decodeXf05]; simp only [e2]
  rw [if_pos g, f0, f1, f2, f3]

theorem xlPlatenCw (h : Nat) (cc : Nat) (cbf : Nat) (rec : Nat) : Statement (.xlPlatenCw h cc cbf rec) := by
  rintro u hi ⟨⟩
  replace hi : h < 16 ∧ cc < 16 ∧ cbf < 16 ∧ rec < 1024 := hi
  have ⟨b0, e1, e2, g, f0, f1, f2, f3⟩ := fmt79 5 1 h cc cbf rec (by decide) (by decide) hi _ rfl
  refine ⟨_, rfl, b0, ?_⟩
  clear b0; revert e1 e2 g f0 f1 f2 f3; generalize (5 * 67108864 + 1 * 4 + h * 4194304 + cc * 262144 + cbf * 16384 + rec * 16 : Nat) = x; intro e1 e2 g f0 f1 f2 f3
  show decodeXl x = _
  rw [decodeXl, if_neg (by rw [e1]; decide)]
  rw [decodeXf05_top e1, decodeXf05]; simp only [e2]
  rw [if_pos g, f0, f1, f2, f3]

theorem xlPlatenImage (h : Nat) (cc : Nat) (cbf : Nat) (rec : Nat) : Statement (.xlPlatenImage h cc cbf rec) := by
  rintro u hi ⟨⟩
  replace hi : h < 16 ∧ cc < 16 ∧ cbf < 16 ∧ rec < 1024 := hi
  have ⟨b0, e1, e2, g, f0, f1, f2, f3⟩ := fmt79 5 2 h cc cbf rec (by decide) (by decide) hi _ rfl
  refine ⟨_, rfl, b0, ?_⟩
  clear b0; revert e1 e2 g f0 f1 f2 f3; generalize (5 * 67108864 + 2 * 4 + h * 4194304 + cc * 262144 + cbf * 16384 + rec * 16 : Nat) = x; intro e1 e2 g f0 f1 f2 f3
  show decodeXl x = _
  rw [decodeXl, if_neg (by rw [e1]; decide)]
  rw [decodeXf05_top e1, decodeXf05]; simp only [e2]
  rw [if_pos g, f0, f1, f2, f3]

theorem xlCase (h : Nat) (cc : Nat) (cbf : Nat) : Statement (.xlCase h cc cbf) := by
  rintro u hi ⟨⟩
  replace hi : h < 16 ∧ cc < 16 ∧ cbf < 16 := hi
  have ⟨b0, e1, e2, g, f0, f1, f2⟩ := fmt80 6 0 h cc cbf (by decide) (by decide) hi _ rfl
  refine ⟨_, rfl, b0, ?_⟩
  clear b0; revert e1 e2 g f0 f1 f2; generalize (6 * 67108864 + 0 * 4 + h * 4194304 + cc * 262144 + cbf * 16384 : Nat) = x; intro e1 e2 g f0 f1 f2
  show decodeXl x = _
  rw [decodeXl, if_neg (by rw [e1]; decide)]
  rw [decodeXf06_top e1, decodeXf06]; simp only [e2]
  rw [if_pos g, f0, f1, f2]

theorem xlCaseAuto (h : Nat) (cc : Nat) : Statement (.xlCaseAuto h cc) := by
  rintro u hi ⟨⟩
  replace hi : h < 16 ∧ cc < 16 := hi
  have ⟨b0, e1, e2, g, f0, f1⟩ := fmt81 6 1 h cc (by decide) (by decide) hi _ rfl
  refine ⟨_, rfl, b0, ?_⟩
  clear b0; revert e1 e2 g f0 f1; generalize (6 * 67108864 + 1 * 4 + h * 4194304 + cc * 262144 : Nat) = x; intro e1 e2 g f0 f1
  show decodeXl x = _
  rw [decodeXl, if_neg (by rw [e1]; decide)]
  rw [decodeXf06_top e1, decodeXf06]; simp only [e2]
  rw [if_pos g, f0, f1]

theorem xlExpand (h : Nat) (cc : Nat) (cbf : Nat) (rec : Nat) (cb : Nat) (fo : Nat) (bar : Nat) : Statement (.xlExpand h cc cbf rec cb fo bar) := by
  rintro u hi ⟨⟩
  replace hi : h < 16 ∧ cc < 16 ∧ cbf < 16 ∧ rec < 1024 ∧ cb < 2 ∧ fo < 2 ∧ bar < 2 := hi
  have ⟨b0, e1, e2, f0, f1, f2, f3, f4, f5, f6⟩ := fmt82 7 0 h cc cbf rec cb fo bar (by decide) (by decide) hi _ rfl
  refine ⟨_, rfl, b0, ?_⟩
  clear b0; revert e1 e2 f0 f1 f2 f3 f4 f5 f6; generalize (7 * 67108864 + 0 * 4 + h * 4194304 + cc * 262144 + cbf * 16384 + rec * 16 + cb * 8 + fo * 2 + bar : Nat) = x; intro e1 e2 f0 f1 f2 f3 f4 f5 f6
  show decodeXl x = _
  rw [decodeXl, if_neg (by rw [e1]; decide)]
  rw [decodeXf07_top e1, decodeXf07]; simp only [e2]
  rw [f0, f1, f2, f3, f4, f5, f6]

theorem xlExpandAuto (h : Nat) (cc : Nat) (cbf : Nat) (rec : Nat) (cb : Nat) (fo : Nat) (bar : Nat) : Statement (.xlExpandAuto h cc cbf rec cb fo bar) := by
  rintro u hi ⟨⟩
  replace hi : h < 16 ∧ cc < 16 ∧ cbf < 16 ∧ rec < 1024 ∧ cb < 2 ∧ fo < 2 ∧ bar < 2 := hi
  have ⟨b0, e1, e2, f0, f1, f2, f3, f4, f5, f6⟩ := fmt82 7 1 h cc cbf rec cb fo bar (by decide) (by decide) hi _ rfl
  refine ⟨_, rfl, b0, ?_⟩
  clear b0; revert e1 e2 f0 f1 f2 f3 f4 f5 f6; generalize (7 * 67108864 + 1 * 4 + h * 4194304 + cc * 262144 + cbf * 16384 + rec * 16 + cb * 8 + fo * 2 + bar : Nat) = x; intro e1 e2 f0 f1 f2 f3 f4 f5 f6
  show decodeXl x = _
  rw [decodeXl, if_neg (by rw [e1]; decide)]
  rw [decodeXf07_top e1, decodeXf07]; simp only [e2]
  rw [f0, f1, f2, f3, f4, f5, f6]

theorem xlRoute (h : Nat) (cc : Nat) (rec : Nat) : Statement (.xlRoute h cc rec) := by
  rintro u hi ⟨⟩
  replace hi : h < 16 ∧ cc < 16 ∧ rec < 1024 := hi
  have ⟨b0, e1, g, f0, f1, f2⟩ := fmt83 8 h cc rec (by decide) hi _ rfl
  refine ⟨_, rfl, b0, ?_⟩
  clear b0; revert e1 g f0 f1 f2; generalize (8 * 67108864 + h * 4194304 + cc * 262144 + rec * 16 : Nat) = x; intro e1 g f0 f1 f2
  show decodeXl x = _
  rw [decodeXl, if_neg (by rw [e1]; decide)]
  rw [decodeXf, if_neg (not_void e1 (by decide) (by decide))]; simp only [e1]
  rw [if_pos g, f0, f1, f2]

theorem xlAcflush (cc : Nat) (rec : Nat) (last : Nat) : Statement (.xlAcflush cc rec last) := by
  rintro u hi ⟨⟩
  replace hi : cc < 16 ∧ rec < 1024 ∧ last < 2 := hi
  have ⟨b0, e1, g, f0, f1, f2⟩ := fmt84 9 cc rec last (by decide) hi _ rfl
  refine ⟨_, rfl, b0, ?_⟩
  clear b0; revert e1 g f0 f1 f2; generalize (9 * 67108864 + cc * 262144 + rec * 16 + last * 4 : Nat) = x; intro e1 g f0 f1 f2
  show decodeXl x = _
  rw [decodeXl, if_neg (by rw [e1]; decide)]
  rw [decodeXf, if_neg (not_void e1 (by decide) (by decide))]; simp only [e1]
  rw [if_pos g, f0, f1, f2]

theorem xsSt (h : Nat) (cc : Nat) (cbf : Nat) (rec : Nat) (cb : Nat) : Statement (.xsSt h cc cbf rec cb) := by
  rintro u hi ⟨⟩
  replace hi : h < 16 ∧ cc < 16 ∧ cbf < 16 ∧ rec < 1024 ∧ cb < 2 := hi
  have ⟨b0, e1, g, f0, f1, f2, f3, f4⟩ := fmt85 10 h cc cbf rec cb (by decide) hi _ rfl
  refine ⟨_, rfl, b0, ?_⟩
  clear b0; revert e1 g f0 f1 f2 f3 f4; generalize (10 * 67108864 + h * 4194304 + cc * 262144 + cbf * 16384 + rec * 16 + cb * 4 : Nat) = x; intro e1 g f0 f1 f2 f3 f4
  show decodeXs x = _
  rw [decodeXs, if_neg (by rw [e1]; decide)]
  rw [decodeXf, if_neg (not_void e1 (by decide) (by decide))]; simp only [e1]
  rw [if_pos g, f0, f1, f2, f3, f4]

theorem xsStash (h : Nat) (cc : Nat) (cbf : Nat) (rec : Nat) (cb : Nat) : Statement (.xsStash h cc cbf rec cb) := by
  rintro u hi ⟨⟩
  replace hi : h < 16 ∧ cc < 16 ∧ cbf < 16 ∧ rec < 1024 ∧ cb < 2 := hi
  have ⟨b0, e1, g, f0, f1, f2, f3, f4⟩ := fmt85 11 h cc cbf rec cb (by decide) hi _ rfl
  refine ⟨_, rfl, b0, ?_⟩
  clear b0; revert e1 g f0 f1 f2 f3 f4; generalize (11 * 67108864 + h * 4194304 + cc * 262144 + cbf * 16384 + rec * 16 + cb * 4 : Nat) = x; intro e1 g f0 f1 f2 f3 f4
  show decodeXs x = _
  rw [decodeXs, if_neg (by rw [e1]; decide)]
  rw [decodeXf, if_neg (not_void e1 (by decide) (by decide))]; simp only [e1]
  rw [if_pos g, f0, f1, f2, f3, f4]

theorem xsTopk (cc : Nat) (cbf : Nat) (rec : Nat) (merge : Nat) : Statement (.xsTopk cc cbf rec merge) := by
  rintro u hi ⟨⟩
  replace hi : cc < 16 ∧ cbf < 16 ∧ rec < 1024 ∧ merge < 2 := hi
  have ⟨b0, e1, g, f0, f1, f2, f3⟩ := fmt86 12 cc cbf rec merge (by decide) hi _ rfl
  refine ⟨_, rfl, b0, ?_⟩
  clear b0; revert e1 g f0 f1 f2 f3; generalize (12 * 67108864 + cc * 262144 + cbf * 16384 + rec * 16 + merge * 4 : Nat) = x; intro e1 g f0 f1 f2 f3
  show decodeXs x = _
  rw [decodeXs, if_neg (by rw [e1]; decide)]
  rw [decodeXf, if_neg (not_void e1 (by decide) (by decide))]; simp only [e1]
  rw [if_pos g, f0, f1, f2, f3]

theorem xsUpd (h : Nat) (cc : Nat) (cbf : Nat) (rec : Nat) (cbg : Nat) : Statement (.xsUpd h cc cbf rec cbg) := by
  rintro u hi ⟨⟩
  replace hi : h < 16 ∧ cc < 16 ∧ cbf < 16 ∧ rec < 1024 ∧ cbg < 2 := hi
  have ⟨b0, e1, g, f0, f1, f2, f3, f4⟩ := fmt85 13 h cc cbf rec cbg (by decide) hi _ rfl
  refine ⟨_, rfl, b0, ?_⟩
  clear b0; revert e1 g f0 f1 f2 f3 f4; generalize (13 * 67108864 + h * 4194304 + cc * 262144 + cbf * 16384 + rec * 16 + cbg * 4 : Nat) = x; intro e1 g f0 f1 f2 f3 f4
  show decodeXs x = _
  rw [decodeXs, if_neg (by rw [e1]; decide)]
  rw [decodeXf, if_neg (not_void e1 (by decide) (by decide))]; simp only [e1]
  rw [if_pos g, f0, f1, f2, f3, f4]

theorem xsScatter (h : Nat) (cc : Nat) (cbf : Nat) (rec : Nat) (cb : Nat) (acc : Nat) : Statement (.xsScatter h cc cbf rec cb acc) := by
  rintro u hi ⟨⟩
  replace hi : h < 16 ∧ cc < 16 ∧ cbf < 16 ∧ rec < 1024 ∧ cb < 2 ∧ acc < 2 := hi
  have ⟨b0, e1, g, f0, f1, f2, f3, f4, f5⟩ := fmt87 14 h cc cbf rec cb acc (by decide) hi _ rfl
  refine ⟨_, rfl, b0, ?_⟩
  clear b0; revert e1 g f0 f1 f2 f3 f4 f5; generalize (14 * 67108864 + h * 4194304 + cc * 262144 + cbf * 16384 + rec * 16 + cb * 8 + acc * 4 : Nat) = x; intro e1 g f0 f1 f2 f3 f4 f5
  show decodeXs x = _
  rw [decodeXs, if_neg (by rw [e1]; decide)]
  rw [decodeXf, if_neg (not_void e1 (by decide) (by decide))]; simp only [e1]
  rw [if_pos g, f0, f1, f2, f3, f4, f5]

theorem xsReidx (h : Nat) (cc : Nat) (cbf : Nat) (rec : Nat) : Statement (.xsReidx h cc cbf rec) := by
  rintro u hi ⟨⟩
  replace hi : h < 16 ∧ cc < 16 ∧ cbf < 16 ∧ rec < 1024 := hi
  have ⟨b0, e1, g, f0, f1, f2, f3⟩ := fmt88 15 h cc cbf rec (by decide) hi _ rfl
  refine ⟨_, rfl, b0, ?_⟩
  clear b0; revert e1 g f0 f1 f2 f3; generalize (15 * 67108864 + h * 4194304 + cc * 262144 + cbf * 16384 + rec * 16 : Nat) = x; intro e1 g f0 f1 f2 f3
  show decodeXs x = _
  rw [decodeXs, if_neg (by rw [e1]; decide)]
  rw [decodeXf, if_neg (not_void e1 (by decide) (by decide))]; simp only [e1]
  rw [if_pos g, f0, f1, f2, f3]

theorem xsRinv (h : Nat) (cc : Nat) (rec : Nat) : Statement (.xsRinv h cc rec) := by
  rintro u hi ⟨⟩
  replace hi : h < 16 ∧ cc < 16 ∧ rec < 1024 := hi
  have ⟨b0, e1, g, f0, f1, f2⟩ := fmt83 32 h cc rec (by decide) hi _ rfl
  refine ⟨_, rfl, b0, ?_⟩
  clear b0; revert e1 g f0 f1 f2; generalize (32 * 67108864 + h * 4194304 + cc * 262144 + rec * 16 : Nat) = x; intro e1 g f0 f1 f2
  show decodeXs x = _
  rw [decodeXs, if_neg (by rw [e1]; decide)]
  rw [decodeXf, if_neg (not_void e1 (by decide) (by decide))]; simp only [e1]
  rw [if_pos g, f0, f1, f2]

theorem xlsBarInit (ca : Nat) (cb : Nat) : Statement (.xlsBarInit ca cb) := by
  rintro u hi ⟨⟩
  replace hi : ca < 16 ∧ cb < 16 := hi
  have ⟨b0, e1, g, f0, f1⟩ := fmt89 33 ca cb (by decide) hi _ rfl
  refine ⟨_, rfl, b0, ?_⟩
  clear b0; revert e1 g f0 f1; generalize (33 * 67108864 + ca * 262144 + cb * 16384 : Nat) = x; intro e1 g f0 f1
  show decodeXl x = _
  rw [decodeXl, if_neg (by rw [e1]; decide)]
  rw [decodeXf, if_neg (not_void e1 (by decide) (by decide))]; simp only [e1]
  rw [if_pos g, f0, f1]

theorem xlsBarWait (cd : Nat) (ca : Nat) : Statement (.xlsBarWait cd ca) := by
  rintro u hi ⟨⟩
  replace hi : cd < 16 ∧ ca < 16 := hi
  have ⟨b0, e1, g, f0, f1⟩ := fmt90 34 cd ca (by decide) hi _ rfl
  refine ⟨_, rfl, b0, ?_⟩
  clear b0; revert e1 g f0 f1; generalize (34 * 67108864 + cd * 4194304 + ca * 262144 : Nat) = x; intro e1 g f0 f1
  show decodeXl x = _
  rw [decodeXl, if_neg (by rw [e1]; decide)]
  rw [decodeXf, if_neg (not_void e1 (by decide) (by decide))]; simp only [e1]
  rw [if_pos g, f0, f1]

theorem xsColl (h : Nat) (rec : Nat) : Statement (.xsColl h rec) := by
  rintro u hi ⟨⟩
  replace hi : h < 16 ∧ rec < 1024 := hi
  have ⟨b0, e1, g, f0, f1⟩ := fmt91 36 h rec (by decide) hi _ rfl
  refine ⟨_, rfl, b0, ?_⟩
  clear b0; revert e1 g f0 f1; generalize (36 * 67108864 + h * 4194304 + rec * 16 : Nat) = x; intro e1 g f0 f1
  show decodeXs x = _
  rw [decodeXs, if_neg (by rw [e1]; decide)]
  rw [decodeXf, if_neg (not_void e1 (by decide) (by decide))]; simp only [e1]
  rw [if_pos g, f0, f1]

theorem cAdd (cd : Nat) (ca : Nat) (cb : Nat) : Statement (.cAdd cd ca cb) := by
  rintro u hi ⟨⟩
  replace hi : cd < 16 ∧ ca < 16 ∧ cb < 16 := hi
  have ⟨b0, e1, e2, g, f0, f1, f2⟩ := fmt92 48 0 cd ca cb (by decide) (by decide) hi _ rfl
  refine ⟨_, rfl, b0, ?_⟩
  clear b0; revert e1 e2 g f0 f1 f2; generalize (48 * 67108864 + 0 * 512 + cd * 4194304 + ca * 262144 + cb * 16384 : Nat) = x; intro e1 e2 g f0 f1 f2
  show decodeXl x = _
  rw [decodeXl, if_neg (by rw [e1]; decide)]
  rw [decodeXf30_top e1, decodeXf30]; simp only [e2]
  rw [if_pos g, f0, f1, f2]

theorem cSub (cd : Nat) (ca : Nat) (cb : Nat) : Statement (.cSub cd ca cb) := by
  rintro u hi ⟨⟩
  replace hi : cd < 16 ∧ ca < 16 ∧ cb < 16 := hi
  have ⟨b0, e1, e2, g, f0, f1, f2⟩ := fmt92 48 1 cd ca cb (by decide) (by decide) hi _ rfl
  refine ⟨_, rfl, b0, ?_⟩
  clear b0; revert e1 e2 g f0 f1 f2; generalize (48 * 67108864 + 1 * 512 + cd * 4194304 + ca * 262144 + cb * 16384 : Nat) = x; intro e1 e2 g f0 f1 f2
  show decodeXl x = _
  rw [decodeXl, if_neg (by rw [e1]; decide)]
  rw [decodeXf30_top e1, decodeXf30]; simp only [e2]
  rw [if_pos g, f0, f1, f2]

theorem cMul (cd : Nat) (ca : Nat) (cb : Nat) : Statement (.cMul cd ca cb) := by
  rintro u hi ⟨⟩
  replace hi : cd < 16 ∧ ca < 16 ∧ cb < 16 := hi
  have ⟨b0, e1, e2, g, f0, f1, f2⟩ := fmt92 48 2 cd ca cb (by decide) (by decide) hi _ rfl
  refine ⟨_, rfl, b0, ?_⟩
  clear b0; revert e1 e2 g f0 f1 f2; generalize (48 * 67108864 + 2 * 512 + cd * 4194304 + ca * 262144 + cb * 16384 : Nat) = x; intro e1 e2 g f0 f1 f2
  show decodeXl x = _
  rw [decodeXl, if_neg (by rw [e1]; decide)]
  rw [decodeXf30_top e1, decodeXf30]; simp only [e2]
  rw [if_pos g, f0, f1, f2]

theorem cAnd (cd : Nat) (ca : Nat) (cb : Nat) : Statement (.cAnd cd ca cb) := by
  rintro u hi ⟨⟩
  replace hi : cd < 16 ∧ ca < 16 ∧ cb < 16 := hi
  have ⟨b0, e1, e2, g, f0, f1, f2⟩ := fmt92 48 3 cd ca cb (by decide) (by decide) hi _ rfl
  refine ⟨_, rfl, b0, ?_⟩
  clear b0; revert e1 e2 g f0 f1 f2; generalize (48 * 67108864 + 3 * 512 + cd * 4194304 + ca * 262144 + cb * 16384 : Nat) = x; intro e1 e2 g f0 f1 f2
  show decodeXl x = _
  rw [decodeXl, if_neg (by rw [e1]; decide)]
  rw [decodeXf30_top e1, decodeXf30]; simp only [e2]
  rw [if_pos g, f0, f1, f2]

theorem cOr (cd : Nat) (ca : Nat) (cb : Nat) : Statement (.cOr cd ca cb) := by
  rintro u hi ⟨⟩
  replace hi : cd < 16 ∧ ca < 16 ∧ cb < 16 := hi
  have ⟨b0, e1, e2, g, f0, f1, f2⟩ := fmt92 48 4 cd ca cb (by decide) (by decide) hi _ rfl
  refine ⟨_, rfl, b0, ?_⟩
  clear b0; revert e1 e2 g f0 f1 f2; generalize (48 * 67108864 + 4 * 512 + cd * 4194304 + ca * 262144 + cb * 16384 : Nat) = x; intro e1 e2 g f0 f1 f2
  show decodeXl x = _
  rw [decodeXl, if_neg (by rw [e1]; decide)]
  rw [decodeXf30_top e1, decodeXf30]; simp only [e2]
  rw [if_pos g, f0, f1, f2]

theorem cXor (cd : Nat) (ca : Nat) (cb : Nat) : Statement (.cXor cd ca cb) := by
  rintro u hi ⟨⟩
  replace hi : cd < 16 ∧ ca < 16 ∧ cb < 16 := hi
  have ⟨b0, e1, e2, g, f0, f1, f2⟩ := fmt92 48 5 cd ca cb (by decide) (by decide) hi _ rfl
  refine ⟨_, rfl, b0, ?_⟩
  clear b0; revert e1 e2 g f0 f1 f2; generalize (48 * 67108864 + 5 * 512 + cd * 4194304 + ca * 262144 + cb * 16384 : Nat) = x; intro e1 e2 g f0 f1 f2
  show decodeXl x = _
  rw [decodeXl, if_neg (by rw [e1]; decide)]
  rw [decodeXf30_top e1, decodeXf30]; simp only [e2]
  rw [if_pos g, f0, f1, f2]

theorem cSll (cd : Nat) (ca : Nat) (cb : Nat) : Statement (.cSll cd ca cb) := by
  rintro u hi ⟨⟩
  replace hi : cd < 16 ∧ ca < 16 ∧ cb < 16 := hi
  have ⟨b0, e1, e2, g, f0, f1, f2⟩ := fmt92 48 6 cd ca cb (by decide) (by decide) hi _ rfl
  refine ⟨_, rfl, b0, ?_⟩
  clear b0; revert e1 e2 g f0 f1 f2; generalize (48 * 67108864 + 6 * 512 + cd * 4194304 + ca * 262144 + cb * 16384 : Nat) = x; intro e1 e2 g f0 f1 f2
  show decodeXl x = _
  rw [decodeXl, if_neg (by rw [e1]; decide)]
  rw [decodeXf30_top e1, decodeXf30]; simp only [e2]
  rw [if_pos g, f0, f1, f2]

theorem cSrl (cd : Nat) (ca : Nat) (cb : Nat) : Statement (.cSrl cd ca cb) := by
  rintro u hi ⟨⟩
  replace hi : cd < 16 ∧ ca < 16 ∧ cb < 16 := hi
  have ⟨b0, e1, e2, g, f0, f1, f2⟩ := fmt92 48 7 cd ca cb (by decide) (by decide) hi _ rfl
  refine ⟨_, rfl, b0, ?_⟩
  clear b0; revert e1 e2 g f0 f1 f2; generalize (48 * 67108864 + 7 * 512 + cd * 4194304 + ca * 262144 + cb * 16384 : Nat) = x; intro e1 e2 g f0 f1 f2
  show decodeXl x = _
  rw [decodeXl, if_neg (by rw [e1]; decide)]
  rw [decodeXf30_top e1, decodeXf30]; simp only [e2]
  rw [if_pos g, f0, f1, f2]

theorem cSra (cd : Nat) (ca : Nat) (cb : Nat) : Statement (.cSra cd ca cb) := by
  rintro u hi ⟨⟩
  replace hi : cd < 16 ∧ ca < 16 ∧ cb < 16 := hi
  have ⟨b0, e1, e2, g, f0, f1, f2⟩ := fmt92 48 8 cd ca cb (by decide) (by decide) hi _ rfl
  refine ⟨_, rfl, b0, ?_⟩
  clear b0; revert e1 e2 g f0 f1 f2; generalize (48 * 67108864 + 8 * 512 + cd * 4194304 + ca * 262144 + cb * 16384 : Nat) = x; intro e1 e2 g f0 f1 f2
  show decodeXl x = _
  rw [decodeXl, if_neg (by rw [e1]; decide)]
  rw [decodeXf30_top e1, decodeXf30]; simp only [e2]
  rw [if_pos g, f0, f1, f2]

theorem cMin (cd : Nat) (ca : Nat) (cb : Nat) : Statement (.cMin cd ca cb) := by
  rintro u hi ⟨⟩
  replace hi : cd < 16 ∧ ca < 16 ∧ cb < 16 := hi
  have ⟨b0, e1, e2, g, f0, f1, f2⟩ := fmt92 48 9 cd ca cb (by decide) (by decide) hi _ rfl
  refine ⟨_, rfl, b0, ?_⟩
  clear b0; revert e1 e2 g f0 f1 f2; generalize (48 * 67108864 + 9 * 512 + cd * 4194304 + ca * 262144 + cb * 16384 : Nat) = x; intro e1 e2 g f0 f1 f2
  show decodeXl x = _
  rw [decodeXl, if_neg (by rw [e1]; decide)]
  rw [decodeXf30_top e1, decodeXf30]; simp only [e2]
  rw [if_pos g, f0, f1, f2]

theorem cMax (cd : Nat) (ca : Nat) (cb : Nat) : Statement (.cMax cd ca cb) := by
  rintro u hi ⟨⟩
  replace hi : cd < 16 ∧ ca < 16 ∧ cb < 16 := hi
  have ⟨b0, e1, e2, g, f0, f1, f2⟩ := fmt92 48 10 cd ca cb (by decide) (by decide) hi _ rfl
  refine ⟨_, rfl, b0, ?_⟩
  clear b0; revert e1 e2 g f0 f1 f2; generalize (48 * 67108864 + 10 * 512 + cd * 4194304 + ca * 262144 + cb * 16384 : Nat) = x; intro e1 e2 g f0 f1 f2
  show decodeXl x = _
  rw [decodeXl, if_neg (by rw [e1]; decide)]
  rw [decodeXf30_top e1, decodeXf30]; simp only [e2]
  rw [if_pos g, f0, f1, f2]

theorem cMinu (cd : Nat) (ca : Nat) (cb : Nat) : Statement (.cMinu cd ca cb) := by
  rintro u hi ⟨⟩
  replace hi : cd < 16 ∧ ca < 16 ∧ cb < 16 := hi
  have ⟨b0, e1, e2, g, f0, f1, f2⟩ := fmt92 48 11 cd ca cb (by decide) (by decide) hi _ rfl
  refine ⟨_, rfl, b0, ?_⟩
  clear b0; revert e1 e2 g f0 f1 f2; generalize (48 * 67108864 + 11 * 512 + cd * 4194304 + ca * 262144 + cb * 16384 : Nat) = x; intro e1 e2 g f0 f1 f2
  show decodeXl x = _
  rw [decodeXl, if_neg (by rw [e1]; decide)]
  rw [decodeXf30_top e1, decodeXf30]; simp only [e2]
  rw [if_pos g, f0, f1, f2]

theorem cMaxu (cd : Nat) (ca : Nat) (cb : Nat) : Statement (.cMaxu cd ca cb) := by
  rintro u hi ⟨⟩
  replace hi : cd < 16 ∧ ca < 16 ∧ cb < 16 := hi
  have ⟨b0, e1, e2, g, f0, f1, f2⟩ := fmt92 48 12 cd ca cb (by decide) (by decide) hi _ rfl
  refine ⟨_, rfl, b0, ?_⟩
  clear b0; revert e1 e2 g f0 f1 f2; generalize (48 * 67108864 + 12 * 512 + cd * 4194304 + ca * 262144 + cb * 16384 : Nat) = x; intro e1 e2 g f0 f1 f2
  show decodeXl x = _
  rw [decodeXl, if_neg (by rw [e1]; decide)]
  rw [decodeXf30_top e1, decodeXf30]; simp only [e2]
  rw [if_pos g, f0, f1, f2]

theorem cSlt (cd : Nat) (ca : Nat) (cb : Nat) : Statement (.cSlt cd ca cb) := by
  rintro u hi ⟨⟩
  replace hi : cd < 16 ∧ ca < 16 ∧ cb < 16 := hi
  have ⟨b0, e1, e2, g, f0, f1, f2⟩ := fmt92 48 13 cd ca cb (by decide) (by decide) hi _ rfl
  refine ⟨_, rfl, b0, ?_⟩
  clear b0; revert e1 e2 g f0 f1 f2; generalize (48 * 67108864 + 13 * 512 + cd * 4194304 + ca * 262144 + cb * 16384 : Nat) = x; intro e1 e2 g f0 f1 f2
  show decodeXl x = _
  rw [decodeXl, if_neg (by rw [e1]; decide)]
  rw [decodeXf30_top e1, decodeXf30]; simp only [e2]
  rw [if_pos g, f0, f1, f2]

theorem cSltu (cd : Nat) (ca : Nat) (cb : Nat) : Statement (.cSltu cd ca cb) := by
  rintro u hi ⟨⟩
  replace hi : cd < 16 ∧ ca < 16 ∧ cb < 16 := hi
  have ⟨b0, e1, e2, g, f0, f1, f2⟩ := fmt92 48 14 cd ca cb (by decide) (by decide) hi _ rfl
  refine ⟨_, rfl, b0, ?_⟩
  clear b0; revert e1 e2 g f0 f1 f2; generalize (48 * 67108864 + 14 * 512 + cd * 4194304 + ca * 262144 + cb * 16384 : Nat) = x; intro e1 e2 g f0 f1 f2
  show decodeXl x = _
  rw [decodeXl, if_neg (by rw [e1]; decide)]
  rw [decodeXf30_top e1, decodeXf30]; simp only [e2]
  rw [if_pos g, f0, f1, f2]

theorem cLc (cd : Nat) (lev : Nat) : Statement (.cLc cd lev) := by
  rintro u hi ⟨⟩
  replace hi : cd < 16 ∧ lev < 16 ∧ lev ≤ 5 := hi
  have ⟨b0, e1, e2, g, f0, f1⟩ := fmt93 48 15 cd lev (by decide) (by decide) hi _ rfl
  refine ⟨_, rfl, b0, ?_⟩
  clear b0; revert e1 e2 g f0 f1; generalize (48 * 67108864 + 15 * 512 + cd * 4194304 + lev * 16384 : Nat) = x; intro e1 e2 g f0 f1
  show decodeXl x = _
  rw [decodeXl, if_neg (by rw [e1]; decide)]
  rw [decodeXf30_top e1, decodeXf30]; simp only [e2]
  rw [if_pos g, f0, f1]

theorem cIt (cd : Nat) (lev : Nat) : Statement (.cIt cd lev) := by
  rintro u hi ⟨⟩
  replace hi : cd < 16 ∧ lev < 16 ∧ lev ≤ 5 := hi
  have ⟨b0, e1, e2, g, f0, f1⟩ := fmt93 48 16 cd lev (by decide) (by decide) hi _ rfl
  refine ⟨_, rfl, b0, ?_⟩
  clear b0; revert e1 e2 g f0 f1; generalize (48 * 67108864 + 16 * 512 + cd * 4194304 + lev * 16384 : Nat) = x; intro e1 e2 g f0 f1
  show decodeXl x = _
  rw [decodeXl, if_neg (by rw [e1]; decide)]
  rw [decodeXf30_top e1, decodeXf30]; simp only [e2]
  rw [if_pos g, f0, f1]

theorem hMv (cd : Nat) (ca : Nat) : Statement (.hMv cd ca) := by
  rintro u hi ⟨⟩
  replace hi : cd < 16 ∧ ca < 16 := hi
  have ⟨b0, e1, e2, g, f0, f1⟩ := fmt94 48 17 cd ca (by decide) (by decide) hi _ rfl
  refine ⟨_, rfl, b0, ?_⟩
  clear b0; revert e1 e2 g f0 f1; generalize (48 * 67108864 + 17 * 512 + cd * 4194304 + ca * 262144 : Nat) = x; intro e1 e2 g f0 f1
  show decodeXl x = _
  rw [decodeXl, if_neg (by rw [e1]; decide)]
  rw [decodeXf30_top e1, decodeXf30]; simp only [e2]
  rw [if_pos g, f0, f1]

theorem cHmv (cd : Nat) (ca : Nat) : Statement (.cHmv cd ca) := by
  rintro u hi ⟨⟩
  replace hi : cd < 16 ∧ ca < 16 := hi
  have ⟨b0, e1, e2, g, f0, f1⟩ := fmt94 48 18 cd ca (by decide) (by decide) hi _ rfl
  refine ⟨_, rfl, b0, ?_⟩
  clear b0; revert e1 e2 g f0 f1; generalize (48 * 67108864 + 18 * 512 + cd * 4194304 + ca * 262144 : Nat) = x; intro e1 e2 g f0 f1
  show decodeXl x = _
  rw [decodeXl, if_neg (by rw [e1]; decide)]
  rw [decodeXf30_top e1, decodeXf30]; simp only [e2]
  rw [if_pos g, f0, f1]

theorem cAddi (cd : Nat) (ca : Nat) (imm : Nat) : Statement (.cAddi cd ca imm) := by
  rintro u hi ⟨⟩
  replace hi : cd < 16 ∧ ca < 16 ∧ imm < 65536 := hi
  have ⟨b0, e1, e2, f0, f1, f2⟩ := fmt95 49 0 cd ca imm (by decide) (by decide) hi _ rfl
  refine ⟨_, rfl, b0, ?_⟩
  clear b0; revert e1 e2 f0 f1 f2; generalize (49 * 67108864 + 0 * 65536 + cd * 4194304 + ca * 262144 + imm : Nat) = x; intro e1 e2 f0 f1 f2
  show decodeXl x = _
  rw [decodeXl, if_neg (by rw [e1]; decide)]
  rw [decodeXf31_top e1, decodeXf31]; simp only [e2]
  rw [f0, f1, f2]

theorem cLui (cd : Nat) (imm : Nat) : Statement (.cLui cd imm) := by
  rintro u hi ⟨⟩
  replace hi : cd < 16 ∧ imm < 65536 := hi
  have ⟨b0, e1, e2, g, f0, f1⟩ := fmt96 49 1 cd imm (by decide) (by decide) hi _ rfl
  refine ⟨_, rfl, b0, ?_⟩
  clear b0; revert e1 e2 g f0 f1; generalize (49 * 67108864 + 1 * 65536 + cd * 4194304 + imm : Nat) = x; intro e1 e2 g f0 f1
  show decodeXl x = _
  rw [decodeXl, if_neg (by rw [e1]; decide)]
  rw [decodeXf31_top e1, decodeXf31]; simp only [e2]
  rw [if_pos g, f0, f1]

theorem hLi (cd : Nat) (imm : Nat) : Statement (.hLi cd imm) := by
  rintro u hi ⟨⟩
  replace hi : cd < 16 ∧ imm < 65536 := hi
  have ⟨b0, e1, e2, g, f0, f1⟩ := fmt96 49 2 cd imm (by decide) (by decide) hi _ rfl
  refine ⟨_, rfl, b0, ?_⟩
  clear b0; revert e1 e2 g f0 f1; generalize (49 * 67108864 + 2 * 65536 + cd * 4194304 + imm : Nat) = x; intro e1 e2 g f0 f1
  show decodeXl x = _
  rw [decodeXl, if_neg (by rw [e1]; decide)]
  rw [decodeXf31_top e1, decodeXf31]; simp only [e2]
  rw [if_pos g, f0, f1]

theorem cBeq (ca : Nat) (cb : Nat) (off : Nat) : Statement (.cBeq ca cb off) := by
  rintro u hi ⟨⟩
  replace hi : ca < 16 ∧ cb < 16 ∧ off < 65536 := hi
  have ⟨b0, e1, e2, f0, f1, f2⟩ := fmt97 50 0 ca cb off (by decide) (by decide) hi _ rfl
  refine ⟨_, rfl, b0, ?_⟩
  clear b0; revert e1 e2 f0 f1 f2; generalize (50 * 67108864 + 0 * 16777216 + ca * 1048576 + cb * 65536 + off : Nat) = x; intro e1 e2 f0 f1 f2
  show decodeXl x = _
  rw [decodeXl, if_neg (by rw [e1]; decide)]
  rw [decodeXf32_top e1, decodeXf32]; simp only [e2]
  rw [f0, f1, f2]

theorem cBne (ca : Nat) (cb : Nat) (off : Nat) : Statement (.cBne ca cb off) := by
  rintro u hi ⟨⟩
  replace hi : ca < 16 ∧ cb < 16 ∧ off < 65536 := hi
  have ⟨b0, e1, e2, f0, f1, f2⟩ := fmt97 50 1 ca cb off (by decide) (by decide) hi _ rfl
  refine ⟨_, rfl, b0, ?_⟩
  clear b0; revert e1 e2 f0 f1 f2; generalize (50 * 67108864 + 1 * 16777216 + ca * 1048576 + cb * 65536 + off : Nat) = x; intro e1 e2 f0 f1 f2
  show decodeXl x = _
  rw [decodeXl, if_neg (by rw [e1]; decide)]
  rw [decodeXf32_top e1, decodeXf32]; simp only [e2]
  rw [f0, f1, f2]

theorem cBltu (ca : Nat) (cb : Nat) (off : Nat) : Statement (.cBltu ca cb off) := by
  rintro u hi ⟨⟩
  replace hi : ca < 16 ∧ cb < 16 ∧ off < 65536 := hi
  have ⟨b0, e1, e2, f0, f1, f2⟩ := fmt97 50 2 ca cb off (by decide) (by decide) hi _ rfl
  refine ⟨_, rfl, b0, ?_⟩
  clear b0; revert e1 e2 f0 f1 f2; generalize (50 * 67108864 + 2 * 16777216 + ca * 1048576 + cb * 65536 + off : Nat) = x; intro e1 e2 f0 f1 f2
  show decodeXl x = _
  rw [decodeXl, if_neg (by rw [e1]; decide)]
  rw [decodeXf32_top e1, decodeXf32]; simp only [e2]
  rw [f0, f1, f2]

theorem cBgeu (ca : Nat) (cb : Nat) (off : Nat) : Statement (.cBgeu ca cb off) := by
  rintro u hi ⟨⟩
  replace hi : ca < 16 ∧ cb < 16 ∧ off < 65536 := hi
  have ⟨b0, e1, e2, f0, f1, f2⟩ := fmt97 50 3 ca cb off (by decide) (by decide) hi _ rfl
  refine ⟨_, rfl, b0, ?_⟩
  clear b0; revert e1 e2 f0 f1 f2; generalize (50 * 67108864 + 3 * 16777216 + ca * 1048576 + cb * 65536 + off : Nat) = x; intro e1 e2 f0 f1 f2
  show decodeXl x = _
  rw [decodeXl, if_neg (by rw [e1]; decide)]
  rw [decodeXf32_top e1, decodeXf32]; simp only [e2]
  rw [f0, f1, f2]

theorem xlsLbr (lev : Nat) (off : Nat) : Statement (.xlsLbr lev off) := by
  rintro u hi ⟨⟩
  replace hi : lev < 8 ∧ off < 65536 ∧ lev ≤ 5 := hi
  have ⟨b0, e1, g, f0, f1⟩ := fmt21 51 lev off (by decide) hi _ rfl
  refine ⟨_, rfl, b0, ?_⟩
  clear b0; revert e1 g f0 f1; generalize (51 * 67108864 + lev * 8388608 + off : Nat) = x; intro e1 g f0 f1
  show decodeXl x = _
  rw [decodeXl, if_neg (by rw [e1]; decide)]
  rw [decodeXf, if_neg (not_void e1 (by decide) (by decide))]; simp only [e1]
  rw [if_pos g, f0, f1]

theorem xlsSemSig (sem : Nat) : Statement (.xlsSemSig sem) := by
  rintro u hi ⟨⟩
  replace hi : sem < 64 := hi
  have ⟨b0, e1, e2, g, f0⟩ := fmt73 52 0 sem (by decide) (by decide) hi _ rfl
  refine ⟨_, rfl, b0, ?_⟩
  clear b0; revert e1 e2 g f0; generalize (52 * 67108864 + 0 * 16777216 + sem : Nat) = x; intro e1 e2 g f0
  show decodeXl x = _
  rw [decodeXl, if_neg (by rw [e1]; decide)]
  rw [decodeXf34_top e1, decodeXf34]; simp only [e2]
  rw [if_pos g, f0]

theorem xlsSemWait (sem : Nat) : Statement (.xlsSemWait sem) := by
  rintro u hi ⟨⟩
  replace hi : sem < 64 := hi
  have ⟨b0, e1, e2, g, f0⟩ := fmt73 52 1 sem (by decide) (by decide) hi _ rfl
  refine ⟨_, rfl, b0, ?_⟩
  clear b0; revert e1 e2 g f0; generalize (52 * 67108864 + 1 * 16777216 + sem : Nat) = x; intro e1 e2 g f0
  show decodeXl x = _
  rw [decodeXl, if_neg (by rw [e1]; decide)]
  rw [decodeXf34_top e1, decodeXf34]; simp only [e2]
  rw [if_pos g, f0]

theorem xlsTlWait (tl : Nat) (ca : Nat) : Statement (.xlsTlWait tl ca) := by
  rintro u hi ⟨⟩
  replace hi : tl < 8 ∧ ca < 16 := hi
  have ⟨b0, e1, e2, g, f0, f1⟩ := fmt98 52 2 tl ca (by decide) (by decide) hi _ rfl
  refine ⟨_, rfl, b0, ?_⟩
  clear b0; revert e1 e2 g f0 f1; generalize (52 * 67108864 + 2 * 16777216 + tl * 2097152 + ca * 131072 : Nat) = x; intro e1 e2 g f0 f1
  show decodeXl x = _
  rw [decodeXl, if_neg (by rw [e1]; decide)]
  rw [decodeXf34_top e1, decodeXf34]; simp only [e2]
  rw [if_pos g, f0, f1]

theorem xlsCrRd (cr : Nat) (csel : Nat) : Statement (.xlsCrRd cr csel) := by
  rintro u hi ⟨⟩
  replace hi : cr < 16 ∧ csel < 256 ∧ csel ∈ [1, 2, 3, 4, 5, 7, 9, 10] := hi
  have ⟨b0, e1, e2, g0, f0, f1⟩ := fmt99 53 0 cr csel (by decide) (by decide) ⟨hi.1, hi.2.1⟩ _ rfl
  refine ⟨_, rfl, b0, ?_⟩
  clear b0; revert e1 e2 g0 f0 f1; generalize (53 * 67108864 + 0 * 16777216 + cr * 1048576 + csel * 4096 : Nat) = x; intro e1 e2 g0 f0 f1
  show decodeXl x = _
  rw [decodeXl, if_neg (by rw [e1]; decide)]
  rw [decodeXf35_top e1, decodeXf35]; simp only [e2]
  rw [f0, f1]
  rw [if_pos ⟨g0, by simp_all⟩]

theorem xlsCrRdHi (cr : Nat) (csel : Nat) : Statement (.xlsCrRdHi cr csel) := by
  rintro u hi ⟨⟩
  replace hi : cr < 16 ∧ csel < 256 ∧ csel ∈ [1, 2, 3, 4, 5, 7, 9, 10] := hi
  have ⟨b0, e1, e2, g0, f0, f1⟩ := fmt99 53 1 cr csel (by decide) (by decide) ⟨hi.1, hi.2.1⟩ _ rfl
  refine ⟨_, rfl, b0, ?_⟩
  clear b0; revert e1 e2 g0 f0 f1; generalize (53 * 67108864 + 1 * 16777216 + cr * 1048576 + csel * 4096 : Nat) = x; intro e1 e2 g0 f0 f1
  show decodeXl x = _
  rw [decodeXl, if_neg (by rw [e1]; decide)]
  rw [decodeXf35_top e1, decodeXf35]; simp only [e2]
  rw [f0, f1]
  rw [if_pos ⟨g0, by simp_all⟩]

theorem xlsCrWr (cr : Nat) (csel : Nat) : Statement (.xlsCrWr cr csel) := by
  rintro u hi ⟨⟩
  replace hi : cr < 16 ∧ csel < 256 ∧ csel ∈ [1, 2, 3, 4, 5] := hi
  have ⟨b0, e1, e2, g0, f0, f1⟩ := fmt99 53 2 cr csel (by decide) (by decide) ⟨hi.1, hi.2.1⟩ _ rfl
  refine ⟨_, rfl, b0, ?_⟩
  clear b0; revert e1 e2 g0 f0 f1; generalize (53 * 67108864 + 2 * 16777216 + cr * 1048576 + csel * 4096 : Nat) = x; intro e1 e2 g0 f0 f1
  show decodeXl x = _
  rw [decodeXl, if_neg (by rw [e1]; decide)]
  rw [decodeXf35_top e1, decodeXf35]; simp only [e2]
  rw [f0, f1]
  rw [if_pos ⟨g0, by simp_all⟩]

theorem xlsEnd : Statement (.xlsEnd) := by rintro u _ ⟨⟩; exact ⟨_, rfl, by decide, rfl⟩

theorem xlsTrap (code : Nat) : Statement (.xlsTrap code) := by
  rintro u hi ⟨⟩
  replace hi : code < 65536 := hi
  have ⟨b0, e1, e2, g, f0⟩ := fmt75 54 1 code (by decide) (by decide) hi _ rfl
  refine ⟨_, rfl, b0, ?_⟩
  clear b0; revert e1 e2 g f0; generalize (54 * 67108864 + 1 * 16777216 + code : Nat) = x; intro e1 e2 g f0
  show decodeXl x = _
  rw [decodeXl, if_neg (by rw [e1]; decide)]
  rw [decodeXf36_top e1, decodeXf36]; simp only [e2]
  rw [if_pos g, f0]

theorem xlsYield : Statement (.xlsYield) := by rintro u _ ⟨⟩; exact ⟨_, rfl, by decide, rfl⟩

theorem sqLoadReturn (core : Nat) (slot : Nat) : Statement (.sqLoadReturn core slot) := by rintro u _ ⟨⟩

theorem waitSatisfied (core : Nat) (slot : Nat) (stream : Nat) : Statement (.waitSatisfied core slot stream) := by rintro u _ ⟨⟩

theorem commandQueueRoom (core : Nat) (slot : Nat) (stream : Nat) : Statement (.commandQueueRoom core slot stream) := by rintro u _ ⟨⟩

theorem xlXsCommandComplete (core : Nat) (slot : Nat) (unit : Nat) (num : Nat) : Statement (.xlXsCommandComplete core slot unit num) := by rintro u _ ⟨⟩

theorem cxCopyComplete (core : Nat) (slot : Nat) (cx : Nat) (num : Nat) : Statement (.cxCopyComplete core slot cx num) := by rintro u _ ⟨⟩

theorem asgRunStart (core : Nat) (slot : Nat) : Statement (.asgRunStart core slot) := by rintro u _ ⟨⟩

theorem asgRound (core : Nat) (slot : Nat) : Statement (.asgRound core slot) := by rintro u _ ⟨⟩

theorem asgFinish (core : Nat) (slot : Nat) : Statement (.asgFinish core slot) := by rintro u _ ⟨⟩

theorem asgPriceCommandComplete (core : Nat) (slot : Nat) : Statement (.asgPriceCommandComplete core slot) := by rintro u _ ⟨⟩

theorem cleChunkMessage (core : Nat) (slot : Nat) (num : Nat) (chunk : Nat) (rank : Nat) (result : Bool) (bytes : List (BitVec 8)) (poison : List Nat) : Statement (.cleChunkMessage core slot num chunk rank result bytes poison) := by rintro u _ ⟨⟩

theorem cleMemberTimeout (core : Nat) (slot : Nat) (num : Nat) : Statement (.cleMemberTimeout core slot num) := by rintro u _ ⟨⟩

theorem cleCollectiveComplete (core : Nat) (slot : Nat) (num : Nat) : Statement (.cleCollectiveComplete core slot num) := by rintro u _ ⟨⟩

theorem streamRetire (core : Nat) (slot : Nat) (stream : Nat) : Statement (.streamRetire core slot stream) := by rintro u _ ⟨⟩

theorem placementRetire (core : Nat) (slot : Nat) : Statement (.placementRetire core slot) := by rintro u _ ⟨⟩

theorem l2Eviction (die : Nat) (line : Nat) : Statement (.l2Eviction die line) := by rintro u _ ⟨⟩

theorem caseFillGrant (core : Nat) (slot : Nat) (num : Nat) : Statement (.caseFillGrant core slot num) := by rintro u _ ⟨⟩

theorem caseFillLanded (core : Nat) (slot : Nat) (num : Nat) : Statement (.caseFillLanded core slot num) := by rintro u _ ⟨⟩

theorem caseScrub (core : Nat) (cslot : Nat) (bad : Option Nat) : Statement (.caseScrub core cslot bad) := by rintro u _ ⟨⟩

theorem caseFillRechoose (core : Nat) (slot : Nat) (num : Nat) : Statement (.caseFillRechoose core slot num) := by rintro u _ ⟨⟩

theorem preemptRequest (core : Nat) (slot : Nat) : Statement (.preemptRequest core slot) := by rintro u _ ⟨⟩

theorem drainEnd (core : Nat) (slot : Nat) : Statement (.drainEnd core slot) := by rintro u _ ⟨⟩

theorem drainBudgetExpired (core : Nat) (slot : Nat) : Statement (.drainBudgetExpired core slot) := by rintro u _ ⟨⟩

theorem contextHalted (core : Nat) (slot : Nat) : Statement (.contextHalted core slot) := by rintro u _ ⟨⟩

theorem pageFault (core : Nat) (slot : Nat) (unit : Nat) : Statement (.pageFault core slot unit) := by rintro u _ ⟨⟩

theorem pfqRoomAppend (core : Nat) (slot : Nat) (unit : Nat) : Statement (.pfqRoomAppend core slot unit) := by rintro u _ ⟨⟩

theorem pfansOk (part : Nat) (ftag : Nat) : Statement (.pfansOk part ftag) := by rintro u _ ⟨⟩

theorem pfansFail (part : Nat) (ftag : Nat) : Statement (.pfansFail part ftag) := by rintro u _ ⟨⟩

theorem priResponse (part : Nat) (ftag : Nat) (code : Nat) : Statement (.priResponse part ftag code) := by rintro u _ ⟨⟩

theorem ttcinvTiles (port : Nat) (part : Nat) (tensor : Nat) (first : Nat) (count : Nat) : Statement (.ttcinvTiles port part tensor first count) := by rintro u _ ⟨⟩

theorem ttcinvTensor (port : Nat) (part : Nat) (tensor : Nat) : Statement (.ttcinvTensor port part tensor) := by rintro u _ ⟨⟩

theorem ttcinvPartition (port : Nat) (part : Nat) : Statement (.ttcinvPartition port part) := by rintro u _ ⟨⟩

theorem ttcinvDone (port : Nat) (part : Nat) : Statement (.ttcinvDone port part) := by rintro u _ ⟨⟩

theorem atsInvalidate (part : Nat) (iova : Nat) (pages : Nat) : Statement (.atsInvalidate part iova pages) := by rintro u _ ⟨⟩

theorem armdb (vf : Nat) (value : Nat) : Statement (.armdb vf value) := by rintro u _ ⟨⟩

theorem armqEntryWrite (die : Nat) (part : Nat) : Statement (.armqEntryWrite die part) := by rintro u _ ⟨⟩

theorem postSub (die : Nat) (part : Nat) (value : Nat) : Statement (.postSub die part value) := by rintro u _ ⟨⟩

theorem postSubdone (die : Nat) (part : Nat) (value : Nat) : Statement (.postSubdone die part value) := by rintro u _ ⟨⟩

theorem ldone (die : Nat) (part : Nat) (value : Nat) : Statement (.ldone die part value) := by rintro u _ ⟨⟩

theorem scmdValidate (core : Nat) (value : Nat) : Statement (.scmdValidate core value) := by rintro u _ ⟨⟩

theorem scmdCancel (core : Nat) (value : Nat) : Statement (.scmdCancel core value) := by rintro u _ ⟨⟩

theorem scmdPreempt (core : Nat) (value : Nat) : Statement (.scmdPreempt core value) := by rintro u _ ⟨⟩

theorem scmdKill (core : Nat) (value : Nat) : Statement (.scmdKill core value) := by rintro u _ ⟨⟩

theorem scmdStart (core : Nat) (value : Nat) : Statement (.scmdStart core value) := by rintro u _ ⟨⟩

theorem bind (core : Nat) (slot : Nat) : Statement (.bind core slot) := by rintro u _ ⟨⟩

theorem resumeBind (core : Nat) (slot : Nat) : Statement (.resumeBind core slot) := by rintro u _ ⟨⟩

theorem sliceExpiry (core : Nat) (slot : Nat) : Statement (.sliceExpiry core slot) := by rintro u _ ⟨⟩

theorem layoutCheck (secure : Bool) : Statement (.layoutCheck secure) := by rintro u _ ⟨⟩

theorem layoutCommit (secure : Bool) : Statement (.layoutCommit secure) := by rintro u _ ⟨⟩

theorem layoutAbort : Statement (.layoutAbort) := by rintro u _ ⟨⟩

theorem shadowWrite (secure : Bool) (addr : Nat) (value : Nat) : Statement (.shadowWrite secure addr value) := by rintro u _ ⟨⟩

theorem quiesceDone : Statement (.quiesceDone) := by rintro u _ ⟨⟩

theorem layoutTick : Statement (.layoutTick) := by rintro u _ ⟨⟩

theorem residentWrite (vf : Nat) (value : Nat) : Statement (.residentWrite vf value) := by rintro u _ ⟨⟩

theorem attreq (vf : Nat) (value : Nat) : Statement (.attreq vf value) := by rintro u _ ⟨⟩

theorem attestDone (vf : Nat) : Statement (.attestDone vf) := by rintro u _ ⟨⟩

theorem powerOnReset (failed : List Nat) (chans : List Nat) : Statement (.powerOnReset failed chans) := by rintro u _ ⟨⟩

theorem bootgo (value : Nat) : Statement (.bootgo value) := by rintro u _ ⟨⟩

theorem maListen (part : Nat) : Statement (.maListen part) := by rintro u _ ⟨⟩

theorem maFreeze (part : Nat) (peerListens : Bool) : Statement (.maFreeze part peerListens) := by rintro u _ ⟨⟩

theorem maRelease (part : Nat) : Statement (.maRelease part) := by rintro u _ ⟨⟩

theorem maCancel (part : Nat) (peerPhase : Nat) : Statement (.maCancel part peerPhase) := by rintro u _ ⟨⟩

theorem freezeCleGraceExpiry (part : Nat) : Statement (.freezeCleGraceExpiry part) := by rintro u _ ⟨⟩

theorem freezeDone (part : Nat) : Statement (.freezeDone part) := by rintro u _ ⟨⟩

theorem stateTransferDone (part : Nat) (vd : VdState) : Statement (.stateTransferDone part vd) := by rintro u _ ⟨⟩

theorem pullReceived (part : Nat) (tensor : Nat) (tile : Nat) : Statement (.pullReceived part tensor tile) := by rintro u _ ⟨⟩

theorem pushSelect (part : Nat) : Statement (.pushSelect part) := by rintro u _ ⟨⟩

theorem pushFirstFlit (part : Nat) (tensor : Nat) (tile : Nat) : Statement (.pushFirstFlit part tensor tile) := by rintro u _ ⟨⟩

theorem tileLanded (part : Nat) (tensor : Nat) (tile : Nat) (data : List (Nat × BitVec 8)) (poison : List Nat) : Statement (.tileLanded part tensor tile data poison) := by rintro u _ ⟨⟩

theorem migrationAck (part : Nat) (tensor : Nat) (tile : Nat) (frame : Nat) : Statement (.migrationAck part tensor tile frame) := by rintro u _ ⟨⟩

theorem transferFail (part : Nat) (tensor : Nat) (tile : Nat) : Statement (.transferFail part tensor tile) := by rintro u _ ⟨⟩

theorem pullTimeout (part : Nat) (tensor : Nat) (tile : Nat) : Statement (.pullTimeout part tensor tile) := by rintro u _ ⟨⟩

theorem redirectReceived (core : Nat) (slot : Nat) (unit : Nat) (old new : Nat × Nat) : Statement (.redirectReceived core slot unit old new) := by rintro u _ ⟨⟩

theorem hostDma (write : Bool) (addr : Nat) (bytes : List (BitVec 8)) : Statement (.hostDma write addr bytes) := by rintro u _ ⟨⟩

theorem peerRequest (req : PeerReq) : Statement (.peerRequest req) := by rintro u _ ⟨⟩

theorem laneFail (port : Nat) (lane : Nat) : Statement (.laneFail port lane) := by rintro u _ ⟨⟩

theorem retrainDone (port : Nat) (lgood : Nat) (peerPkg : Nat) (peerPort : Nat) : Statement (.retrainDone port lgood peerPkg peerPort) := by rintro u _ ⟨⟩

theorem flitCrcError (port : Nat) : Statement (.flitCrcError port) := by rintro u _ ⟨⟩

theorem pkgidWrite (value : Nat) : Statement (.pkgidWrite value) := by rintro u _ ⟨⟩

theorem patrolScrub (addr : Nat) (outcome : Nat) : Statement (.patrolScrub addr outcome) := by rintro u _ ⟨⟩

theorem l2TagParity (die : Nat) (way : Nat) (line : Nat) : Statement (.l2TagParity die way line) := by rintro u _ ⟨⟩

theorem powerWindow (watts : Nat) : Statement (.powerWindow watts) := by rintro u _ ⟨⟩

theorem registerWrite (secure : Bool) (addr : Nat) (value : Nat) : Statement (.registerWrite secure addr value) := by rintro u _ ⟨⟩

theorem illegalInstruction (cause : Cause) : Statement (.illegalInstruction cause) := by rintro u _ ⟨⟩

theorem sqMemoryResponse (core : Nat) (slot : Nat) : Statement (.sqMemoryResponse core slot) := by rintro u _ ⟨⟩

theorem meStepComplete (core : Nat) (slot : Nat) : Statement (.meStepComplete core slot) := by rintro u _ ⟨⟩

theorem atsTranslationCompletion (part : Nat) (page : Nat) (hpa : Nat) (perms : Nat) : Statement (.atsTranslationCompletion part page hpa perms) := by rintro u _ ⟨⟩

theorem powerOff : Statement (.powerOff) := by rintro u _ ⟨⟩

theorem peerPortRetrain (port : Nat) (num : Nat) : Statement (.peerPortRetrain port num) := by rintro u _ ⟨⟩

end Sys2Proof.Laws.RoundTrip
end

