-- ==== Sys2Proof/Laws/Stuck.lean ====
section
/-!
SUPPORT. The shared operations that never stop a step: releases, acquires, the halt of a context, the effects of a VE group; and what
a word of a VE group can do (R162).
-/
set_option Elab.async false
namespace Sys2Proof.Machine
open Sys2Proof

theorem foldl_stuck {α : Type} {f : State → α → State} (h : ∀ s a, (f s a).stuck = s.stuck) :
    ∀ (l : List α) (s : State), (l.foldl f s).stuck = s.stuck
  | [], _ => rfl
  | a :: l, s => by rw [List.foldl_cons, foldl_stuck h l, h]

theorem homeWrite_stuck (key n v : Nat) (s : State) : (s.homeWrite key n v).stuck = s.stuck := by
  unfold State.homeWrite; split <;> rfl

theorem sendTo_stuck (pkg : Nat) (m : Msg) (s : State) : (s.sendTo pkg m).stuck = s.stuck := by
  unfold State.sendTo; split <;> rfl

theorem startPull_stuck (part tensor tile at0 : Nat) (s : State) : (startPull part tensor tile at0 s).stuck = s.stuck := by
  unfold startPull; dsimp only; split
  · rw [sendTo_stuck, modPart_stuck, homeWrite_stuck]
  · rfl

theorem pullFrame_stuck (frame : Nat) (s : State) : (pullFrame frame s).stuck = s.stuck := by
  unfold pullFrame; split
  · exact startPull_stuck _ _ _ _ _
  · rfl

theorem homePut_stuck (key n v : Nat) (bad : Bool) (s : State) : (s.homePut key n v bad).stuck = s.stuck := by
  unfold State.homePut; split
  · simp [State.homePoison, homeWrite_stuck]
  · exact homeWrite_stuck _ _ _ _

theorem countRedirect_stuck (pkg frame : Nat) (s : State) : (countRedirect pkg frame s).stuck = s.stuck := rfl

/-- A write of this package reaches its home, waits or follows its tile; it stops nothing. -/
theorem cleanWrite_stuck (key n v : Nat) (bad : Bool) (s : State) : (s.cleanWrite key n v bad).stuck = s.stuck := by
  unfold State.cleanWrite
  dsimp only
  generalize (if homeKind key = 0 then s.frameState (key / 65536) else 0) = m
  split
  · split
    · rfl
    · rw [countRedirect_stuck, homePut_stuck]
  · rfl
  · rw [modPkg_stuck, pullFrame_stuck]
  · exact homePut_stuck _ _ _ _ _

theorem cleanWords_stuck (l : L2Line) : ∀ (n : Nat) (s : State), (cleanWords l n s).stuck = s.stuck
  | 0, _ => rfl
  | n + 1, s => by
    have ih := cleanWords_stuck l n s
    simp only [cleanWords]
    repeat' split
    all_goals simp [cleanWrite_stuck, ih]

theorem followRedirect_stuck (line : Nat) (s : State) : (followRedirect line s).stuck = s.stuck := rfl

theorem cleanLine_stuck (l : L2Line) (s : State) : (cleanLine l s).stuck = s.stuck := by
  unfold cleanLine; split
  · rfl
  · rw [cleanWords_stuck, followRedirect_stuck]

theorem l2Clean_stuck (die : Nat) (p : L2Line → Bool) (s : State) : (l2Clean die p s).stuck = s.stuck := by
  simp only [l2Clean, modDie_stuck]
  exact foldl_stuck (fun s l => by split; exacts [cleanLine_stuck _ _, rfl]) _ _

theorem l2Drop_stuck (die : Nat) (p : L2Line → Bool) (s : State) : (l2Drop die p s).stuck = s.stuck := by
  simp only [l2Drop, modDie_stuck]
  exact foldl_stuck (fun s l => by split; exacts [cleanLine_stuck _ _, rfl]) _ _

/-- A release stops nothing. -/
theorem release_stuck (ck scope : Nat) (m : BitVec 16) (s : State) : (release ck scope m s).stuck = s.stuck := by
  unfold release; split
  · rfl
  · exact l2Clean_stuck _ _ _

/-- An acquire stops nothing. -/
theorem acquire_stuck (ck scope : Nat) (m : BitVec 16) (s : State) : (acquire ck scope m s).stuck = s.stuck := by
  unfold acquire; split
  · rfl
  · dsimp only
    split
    · rfl
    · rw [l2Drop_stuck]; rfl

theorem collectPend_stuck (ck : Nat) (s : State) : (collectPend ck s).stuck = s.stuck := by
  unfold collectPend
  split
  · rename_i wr sd v line mask scope _
    cases line <;> cases scope <;> simp [acquire_stuck, l1Drop]
  · rfl
  · simp

theorem flushDrains_stuck (ck : Nat) (s : State) : (flushDrains ck s).stuck = s.stuck := by
  simp only [flushDrains, modRegs_stuck]
  exact foldl_stuck (f := fun s d => applyDrain ck d s) (fun s d => rfl) _ _

theorem noteCause_stuck (ck : Nat) (u : StreamId) (c : Cause) (a : Option Nat) (s : State) :
    (noteCause ck u c a s).stuck = s.stuck := rfl

theorem hardStop_stuck (ck : Nat) (s : State) : (hardStop ck s).stuck = s.stuck := by
  unfold hardStop
  dsimp only
  simp only [modCore_stuck]
  split <;> simp [noteCause_stuck, flushDrains_stuck, collectPend_stuck]

/-- Taking an exception stops nothing. -/
theorem takeTrap_stuck (ck : Nat) (u : StreamId) (c : Cause) (code faddr auxf elog : Nat) (r : Bool) (s : State) :
    (takeTrap ck u c code faddr auxf elog r s).stuck = s.stuck := by
  simp [takeTrap, stopContext, hardStop_stuck, noteCause_stuck]

theorem stopWord_stuck (ck : Nat) (u : StreamId) (x : Stop) (s : State) : (stopWord ck u x s).stuck = s.stuck := by
  cases x <;> simp [stopWord, takeTrap_stuck, blockOn]

theorem trapInv_stuck (ck : Nat) (u : StreamId) (a : Nat) (s : State) : (trapInv ck u a s).stuck = s.stuck := by
  simp [trapInv, takeTrap_stuck, noteCause_stuck]

/-! ### Words of a VE group -/

/-- A row that holds unpoisoned bytes answers its lanes. -/
theorem atRead_self {s : State} (h : s.early = []) (slot : VeSlot) (o : Nat) : s.atRead slot o = s := by
  cases s
  subst h
  rfl

theorem lanesRead_ok {s : State} {k x : Nat} (he : s.early = []) (h : s.rowHas k x) (slot : VeSlot) (o : Nat) :
    runOp (lanesRead s slot o k) s = (.ok (s.lanes x), s) := by
  obtain ⟨h1, h2⟩ := h
  unfold lanesRead rowRead rowIn
  rw [runOp_bind, runOp_bind, runOp_failIf_ok (by simpa [State.rowsIn] using h1)]
  simp only [atRead_self he, h2]
  rw [runOp_bind_ok (runOp_failIf_ok rfl _ _)]
  rfl

/-- The effects of a group stop nothing. -/
theorem applyEff_stuck (ck vwin : Nat) (e : VeEff) (s : State) : (applyEff ck vwin s e).stuck = s.stuck := by
  cases e <;> rfl

theorem leaveLevel_stuck (ck : Nat) (u : StreamId) (lev : Nat) (s : State) : (leaveLevel ck u lev s).stuck = s.stuck := by
  unfold leaveLevel
  dsimp only
  repeat' split
  all_goals simp

theorem veCrWrite_stuck (ck csel : Nat) (v : BitVec 32) (s : State) : (veCrWrite ck csel v s).stuck = s.stuck := by
  unfold veCrWrite crWrite
  repeat' split
  all_goals rfl

theorem veControl_stuck (ck : Nat) (ctl : VeCtl) (next lanes : Nat) (inv : Bool) (s : State) :
    (veControl ck ctl next lanes inv s).stuck = s.stuck := by
  unfold veControl trapAfter semSignal loopClose
  cases ctl <;> dsimp only
  all_goals repeat' split
  all_goals simp_all [takeTrap_stuck, trapInv_stuck, veEndAt, endUnit, semTake, retire, leaveLevel_stuck, veRotate]

/-- A group without a trap of its own stops nothing. -/
theorem veCommit_stuck {ck : Nat} {s : State} (h : (s.ctx ck).r.ve.group.trap = none) : (veCommit ck s).stuck = s.stuck := by
  unfold veCommit
  simp only [h]
  split
  · simp [veBlock, blockOn]
  · rw [veControl_stuck]
    simp only [addFlags, modRegs_stuck]
    split
    · rw [veCrWrite_stuck, foldl_stuck (fun s e => applyEff_stuck _ _ e s)]
    · rw [foldl_stuck (fun s e => applyEff_stuck _ _ e s)]

/-- A word of VE whose type fits and whose part succeeds joins the group. -/
theorem veWord_joins {s : State} (hs : s.veReady) {stop : Nat} {slot : VeSlot} {ok : ETy → Bool} (hok : ok s.veTy = true)
    {o : Op VeOut} {v : VeOut} {t : State} {f : State → State} (hf : f s = veWord stop slot ok o s)
    (h : runOp o s = (.ok v, t)) : run f s = s.veJoins stop slot v := by
  rw [show run f s = run (veWord stop slot ok o) s by simp only [run, hf]]
  clear hf f
  obtain ⟨⟨h1, h2, h3⟩, h4, -⟩ := hs
  have h4' : s.c.r.veGroup.trap = none := by unfold Regs.veGroup; split <;> exact h4
  have key : s.c.r.veGroup.add slot (!ok s.veTy) (runOp o s).1 = { s.c.r.veGroup with
      count := s.c.r.veGroup.count + 1
      aslots := if slot = .a then s.c.r.veGroup.aslots + 1 else s.c.r.veGroup.aslots
      effs := s.c.r.veGroup.effs ++
        v.effs.map fun e => ((match slot with | .a => min s.c.r.veGroup.aslots 1 | .s => 2 | .m => 3), e)
      flags := s.c.r.veGroup.flags ||| v.flags
      ctl := if v.ctl = .none then s.c.r.veGroup.ctl else v.ctl } := by
    simp only [hok, h, VeGroup.add, VeGroup.slotNo, Bool.not_true, if_neg Bool.false_ne_true]
    all_goals (cases slot <;> simp)
  have hn : (veWord stop slot ok o s).stuck = none := by
    unfold veWord
    simp only [key]
    split
    · simpa using h3
    · rw [veCommit_stuck]
      · simpa using h3
      · simpa [State.ck, State.c] using h4'
  rw [run_next hn]
  unfold veWord State.veJoins
  simp only [key]
  split
  · rw [settle_self] <;> simp [h1, h2]
    all_goals rfl
  · rfl

end Sys2Proof.Machine
end

