-- ==== Sys2Proof/Tests/Slice0.lean ====
section
/-!
SUPPORT. The model's own tests: ill-formed terms that well-formedness refuses; the decoding of a word of every constructor, written
from the spec's encoding tables; the worked examples of the spec; and, for every statement with hypotheses, a concrete state and
operands that meet them (test_hyps_…), clause by clause.
-/
namespace Sys2Proof.Tests
open Sys2Proof Sys2Proof.Machine
set_option Elab.async false

/-- Context slot 0 of core 0 runs stream `u`, with AB blocks 0 and 1, CB tiles 0 to 31, platens 0 and 1, case slots 0 and 1 and
galley quarter 0. -/
def on (u : StreamId) (r : Regs := {}) : State :=
  { ctxs := [(0, { st := .run, r := r, ctxbuf := 0x0020400600062000#64 })], who := ⟨0, 0, u⟩ }

/-- The value of a part that answers one. -/
def ok {α : Type} (x : Except Stop α × State) : Option α := match x.1 with | .ok a => some a | .error _ => none

theorem ok_eq {α : Type} {x : Except Stop α × State} {a : α} (h : ok x = some a) : x = (.ok a, x.2) := by
  obtain ⟨e, s⟩ := x
  cases e <;> simp_all [ok]

/-- Memory with a LINEAR tensor 1 of 65,536 bytes (codebook 8 or 12) in frame 64; its table at 0x100000, its tile entry at 0x200000.
The partition holds ways 0 and 1 of die 0's L2. -/
def mem0 : State → State := fun s =>
  let d : Nat := 0x200000 + 8 * 2 ^ 64 + 65536 * 2 ^ 128 + (1 + 2 ^ 32 + 2 ^ 64 + 2 ^ 96) * 2 ^ 192 + 1 * 2 ^ (8 * 0x2D) + 0xB * 2 ^ (8 * 0x2F)
    + 1 * 2 ^ (8 * 0x30)
  let e : Nat := 7 * 2 ^ 8 + 64 * 2 ^ 80
  { s with
    mem := commit [] (cellsOf 0x200000 16 e ++ cellsOf 0x100040 64 d ++ cellsOf 0x400000 8 0x8877665544332211)
    parts := [(0, { active := { ttab := 0x100001, ctl := 0x8000000000000001#64 } })]
    dies := [(0, { active := [(0, { ways := 3 })] })] }

/-- A register file of SQ. -/
def sregs (l : List (Nat × Nat)) : Regs :=
  { s := l.foldl (fun v x => vset v x.1 (BitVec.ofNat 64 x.2)) (Vector.replicate 32 0) }

/-! ### The worked examples of the spec -/

/-- R422: SHAKE256 as FIPS 202 defines it: the published output for the empty message begins so. -/
theorem test_shake256 : (shake256 []).take 4 = [0x46, 0xb9, 0xdd, 0x2b] := by decide +kernel

/-- The default numeric state, and the one with E4SAT set (R48). -/
def num0 : NumMode := ⟨0, 0, 0⟩
def numSat : NumMode := ⟨8, 0, 0⟩

/-- R44: 300.0, 460.0 and 470.0 to e4m3. -/
theorem test_e4m3_conversion :
    (laneCvt (etyOf 0) (etyOf 7) numSat 0x43960000 = (0x79, fNX) ∧ laneCvt (etyOf 0) (etyOf 7) numSat 0x43E60000 = (0x7E, fNX))
    ∧ laneCvt (etyOf 0) (etyOf 7) numSat 0x43EB0000 = (0x7E, fOF ||| fNX)
    ∧ laneCvt (etyOf 0) (etyOf 7) num0 0x43EB0000 = (0x7F, fOF ||| fNX) := by decide +kernel

/-- R39: twelve ix3 indices in two words. -/
theorem test_index_packing : joinBits 3 [1, 2, 3, 4, 5, 6, 7, 0, 1, 2, 5, 3] = 0x7511F58D1 := by decide +kernel

/-- R46: 3.0 and −0.1 in an MXINT8 block. -/
theorem test_mx_encoding : encodeMX num0 8 [FFmt.f32.decode 0x40400000, FFmt.f32.decode 0xBDCCCCCD] = (0x80, [96, 0xFD], fNX) := by
  decide +kernel

/-- R54: one BF16 pass under NBL 0 and NBL 1. -/
theorem test_bf16_pass :
    (let p (nbl : BitVec 2) := accumulate ⟨0, 0, nbl⟩ false (.flt .bf16) (.flt .bf16) ⟨[0x4700, 0x4100, 0x3F00], []⟩
        ⟨[0x4700, 0x4100, 0x3F80], []⟩ 0
     p 0 = (0x4E800001, fNX) ∧ p 1 = (0x4E800000, fNX)) := by decide +kernel

/-- A column of 192 elements that is zero but at depths 0 and 32. -/
def depths (x y : Nat) : List Nat := x :: List.replicate 31 0 ++ y :: List.replicate 159 0

/-- R213: one MXINT8 column, scaled and as integers. -/
theorem test_mx_pass :
    (let a : Elems := ⟨depths 96 0xFD, [0x80, 0x7E, 0, 0, 0, 0]⟩
     let b : Elems := ⟨depths 64 32, [0x7F, 0x7F, 0, 0, 0, 0]⟩
     accumulate num0 false (.mx 8) (.mx 8) a b 0x3F800000 = (0x407F4000, 0)
     ∧ accumulate num0 true (.mx 8) (.mx 8) a b 10 = (6058, 0)) := by decide +kernel

/-- R217: the input pixels of a 3 by 3 convolution with paddings of 1. -/
theorem test_conv_pixels :
    (let x : Shape := ⟨5000, 1, 4, 4, 96, 3, 3, 1, 1, 1, 1, 1, 1, 1, 1, 0⟩
     convPixel x 16 0 0 = none ∧ convPixel x 16 4 0 = some 5000 ∧ convPixel x 16 8 5 = some 6920) := by decide +kernel

/-- R75: the search of four segments. -/
theorem test_segment_search :
    (let tab := [[0, 0], [0x3C00, 0], [0, 0x3C00], [0x7E00, 0x7E00]].map fun l => l.map FFmt.f16.decode
     let find (x y : Nat) := searchSeg 0 3 tab [FFmt.f32.decode x, FFmt.f32.decode y]
     find 0x3F000000 0x3E800000 = (0, 0) ∧ find 0x3F400000 0 = (1, 0) ∧ find 0x7FC00000 0x3F800000 = (3, fSRCH)
     ∧ find 0x7F000000 0x7F000000 = (0, fOF)) := by decide +kernel

/-- R256: the three best of a row, and their merge with a second row. -/
theorem test_topk :
    (let first := bestPairs 3 [(0x3FC00000, 100), (0x40000000, 101), (0xBF800000, 102), (0x40000000, 103), (0x7FC00000, 104),
        (0x3F000000, 105), (0x40200000, 106), (0x80000000, 107)]
     first = [(0x40200000, 106), (0x40000000, 101), (0x40000000, 103)]
     ∧ bestPairs 3 (first ++ [(0x40000000, 108), (0xFF800000, 109), (0x40400000, 110), (0x3F800000, 111)])
       = [(0x40400000, 110), (0x40200000, 106), (0x40000000, 101)]) := by decide +kernel

/-- What a step of context slot 0 leaves in register `n` of SQ. -/
def sAfter (n : Nat) (o : Host.Outcome State Fault Refusal) : Option Nat :=
  match o with | .next t => some ((t.ctx 0).r.s[n]!).toNat | _ => none

/-- R112: `lui`, `orhi`, and `addi` under `pfx.imm`. -/
theorem test_lui_orhi_addi :
    sAfter 6 (exec (.lui 6 0x1234) (on .sq)) = some 0x12340000
    ∧ sAfter 6 (exec (.orhi 6 6 0xABCD) (on .sq (sregs [(6, 0x12340000)]))) = some 0x0000ABCD12340000
    ∧ sAfter 5 (match exec (.pfxImm 0x12) (on .sq) with | .next t => exec (.addi 5 0 0x3456) t | o => o) = some 0x123456 := by
  decide +kernel

/-- R280: the cut of the worked example, level 1 with lc1 = 20, its five streams at the iterations given. -/
def cutRegs (iters : List Nat) : Regs :=
  let r : Regs := { levels := [⟨1, false, [0, 0, 0, 0, 0], [0, 0, 0, 0, 0], []⟩, ⟨0, true, [40, 60, 96, 50, 70], [0, 1, 1, 0, 2], []⟩] }
  let st (n : Nat) : Stream := { inside := vset (Vector.replicate 6 false) 1 true, iter := vset (Vector.replicate 6 0) 1 (BitVec.ofNat 32 n) }
  { r with lc := vset (Vector.replicate 6 0) 1 20#32, streams := (List.range 5).foldl (fun v u => vset v u (st (iters.getD u 0))) r.streams }

theorem test_cut :
    (let r := cutRegs [5, 4, 6, 7, 3]
     r.cutLevel = some 1 ∧ r.cutIter 1 = 8 ∧ r.cutCost 1 8 = 490)
    ∧ (let r := cutRegs [5, 4, 6, 14, 0]
       r.cutIter 1 = 15 ∧ r.cutCost 1 15 = 1190) := by decide +kernel

/-! ### Well-formedness: one ill-formed term for each check -/

theorem test_wf_sq :
    ([.add 32 0 0, .add 0 32 0, .add 0 0 32, .addi 0 0 65536, .slli 0 0 64, .ld 0 0 8 0, .ld 0 0 0 8192, .st 0 0 4 0,
      .amoAdd 0 0 0 2 0 0, .amoAdd 0 0 0 0 4 0, .amoAdd 0 0 0 0 0 5, .fenceC 65536, .fenceAcq 5 0, .sqSemSig 3 0, .sqSemSig 0 64,
      .semSigr 0 0 64, .sqTlWait 8 0, .beq 0 0 65536, .jal 0 524288, .jalr 0 0 16384, .sqLbr 6 0, .lrPatch 0 0 0 7, .asgWr 0 4,
      .asgRd 0 6, .cxCopy 0 0 4, .cxProg 0 4, .sqCrRd 0 0, .sqCrRd 0 11, .sqCrWr 0 7, .sqTrap 65536, .lcRd 0 6, .lcIt 0 6,
      .pfxImm 1048576, .pfxOrd 16 0 0, .pfxOrd 0 4 0, .pfxOrd 0 1 5, .pfxOrd 0 0 1] : List Instr).all (fun i => !i.wf) = true := by
  decide +kernel

theorem test_wf_ve :
    ([.vadd 2 0 0 0 0, .vadd 0 128 0 0 0, .vadd 0 0 128 0 0, .vadd 0 0 0 128 0, .vadd 0 0 0 0 16, .vcmpEq 0 16 0 0 0,
      .vaddVs 0 0 0 16 0, .vcvt 0 0 0 11 0 0, .vcvt 0 0 0 0 11 0, .vcvt 0 0 0 0 0 1, .vcvt 0 0 0 0 4 2, .vredSum 0 16 0 0,
      .vins 0 0 16 0, .vld 0 0 16 0, .vld 0 0 0 16384, .pand 0 0 16 0, .pand 0 0 0 16, .veCrRd 0 0 1, .veCrRdHi 0 0 6,
      .veCrWr 0 0 7, .veLbr 0 6 0, .veSemSig 0 64, .veTlWait 0 8 0, .veTrap 0 65536, .bz 0 0 65536, .aAdd 0 0 16 0,
      .aLc 0 0 6, .aAddi 0 0 0 65536] : List Instr).all (fun i => !i.wf) = true := by
  decide +kernel

theorem test_wf_me :
    ([.mPass 7 0 0 0 0 0 0, .mPass 0 3 0 0 0 0 0, .mPass 0 1 1 0 0 0 0, .mPass 0 0 8 0 0 0 0, .mPass 0 0 0 8 0 0 0,
      .mPass 0 0 0 0 128 0 0, .mPass 0 0 0 0 0 2 0, .mPass 0 0 0 0 0 0 4, .mPassi 0 2 7 0 0 0 0, .mGpass 7 0 0 0 0 0, .gSum 0 0 0 0 256 0,
      .mConv 7 0 0 0 0 0 0, .mConv 0 0 0 64 0 0 0, .mConv 0 0 0 0 0 0 256, .mShape 65536, .mTq 3 0, .mCrLd 7 0, .mCrSt 0x24 0,
      .mCrImm 0x3B 0, .meSemSig 64, .meTlWait 8 0, .meLbr 6 0, .meTrap 65536, .mB 65536] : List Instr).all (fun i => !i.wf) = true := by
  decide +kernel

theorem test_wf_transfer :
    ([.xlLd 16 0 0 0 0 0 0, .xlLd 0 16 0 0 0 0 0, .xlLd 0 0 16 0 0 0 0, .xlLd 0 0 0 1024 0 0 0, .xlLd 0 0 0 0 2 0 0, .xlLd 0 0 0 0 0 2 0,
      .xlLd 0 0 0 0 0 0 2, .xlFeed 0 0 0 2 0, .xlAcflush 0 0 2, .xsTopk 0 0 0 2, .xsUpd 0 0 0 0 2, .xsScatter 0 0 0 0 0 2, .cAdd 16 0 0,
      .cLc 0 6, .cAddi 0 0 65536, .cBeq 0 0 65536, .xlsLbr 6 0, .xlsSemSig 64, .xlsTlWait 8 0, .xlsCrRd 0 6, .xlsCrWr 0 7,
      .xlsTrap 65536] : List Instr).all (fun i => !i.wf) = true := by
  decide +kernel

theorem test_wf_events :
    ([.sqLoadReturn 384 0, .sqLoadReturn 0 4, .waitSatisfied 0 0 5, .l2Eviction 8 0, .pfansOk 64 0, .armdb 0 0, .armdb 65 0,
      .peerPortRetrain 36 default] : List Instr).all (fun i => !i.wf) = true := by
  decide +kernel

/-! ### Decoding

A word for every constructor that has one, written from the match value and the field places of the opcode table, and the
instruction it stands for. -/

noncomputable def sqWords0 : List (Nat × Instr) :=
  [(0x07FBA000, .add 31 27 20), (0x0795D840, .sub 28 21 27), (0x06338080, .and 17 19 16), (0x06FEA8C0, .or 23 30 21),
    (0x0752C900, .xor 26 18 25), (0x07B19940, .sll 29 17 19), (0x077CC980, .srl 27 28 25), (0x0714B1C0, .sra 24 20 22),
    (0x069ABA00, .slt 20 26 23), (0x073D9240, .sltu 25 29 18), (0x063EC280, .min 17 30 24), (0x069982C0, .max 20 25 16),
    (0x07128B00, .minu 24 18 17), (0x069FE340, .maxu 20 31 28), (0x061F0380, .sextI8 16 31), (0x07B403C0, .sextI16 29 20),
    (0x065D0400, .sextI32 18 29), (0x061C0440, .zextN8 16 28), (0x075F0480, .zextN16 26 31), (0x079A04C0, .zextN32 28 26),
    (0x07F10500, .clz 31 17), (0x067C0540, .ctz 19 28), (0x06130580, .popc 16 19), (0x0B54C800, .mul 26 20 25),
    (0x0A9FB840, .mulh 20 31 23), (0x0A15E080, .mulhu 16 21 28), (0x0BB098C0, .div 29 16 19), (0x0B9A9100, .divu 28 26 18),
    (0x0A72B940, .rem 19 18 23), (0x0BF3A180, .remu 31 19 20), (0x0E7A9E3C, .addi 19 26 40508), (0x12559E24, .andi 18 21 40484),
    (0x17D6AABD, .ori 30 22 43709), (0x1A9DCC23, .xori 20 29 52259), (0x1E1EF592, .slti 16 30 62866), (0x22B0EC3B, .sltiu 21 16 60475),
    (0x27560038, .slli 26 22 56), (0x275F4027, .srli 26 31 39), (0x263A803F, .srai 17 26 63), (0x2B60F0E7, .lui 27 61671)]

noncomputable def sqWords1 : List (Nat × Instr) :=
  [(0x2E93B754, .orhi 20 19 46932), (0x42F497A8, .ld 23 20 4 6056), (0x47757130, .st 27 21 3 4400), (0x4B95C400, .ldx 28 21 24 4),
    (0x4FF28A00, .stx 31 18 17 2), (0x621FA068, .amoAdd 16 31 20 1 2 4), (0x62FBA8F8, .amoAnd 23 27 21 1 3 4),
    (0x6353C178, .amoOr 26 19 24 1 3 4), (0x6377E9F8, .amoXor 27 23 29 1 3 4), (0x62B39278, .amoMin 21 19 18 1 3 4),
    (0x633C92F8, .amoMax 25 28 18 1 3 4), (0x63989368, .amoMinu 28 24 18 1 2 4), (0x62F0D3E8, .amoMaxu 23 16 26 1 2 4),
    (0x62BB9C78, .amoSwap 21 27 19 1 3 4), (0x6698D068, .amoCas 20 24 26 1 2 4), (0x7000A946, .fenceC 43334),
    (0x7018EE31, .fenceAcq 4 60977), (0x70289235, .fenceRel 4 37429), (0x7038DAA8, .fenceAcqrel 4 55976), (0x74200039, .sqSemSig 1 57),
    (0x7520003C, .sqSemWait 1 60), (0x761DC038, .semSigr 29 24 56), (0x78FB0000, .sqTlWait 7 27), (0x7980A800, .tlRd 4 21),
    (0x7AC09000, .tlRdi 6 18), (0x7BA0D800, .tlErr 5 27), (0x7C1D8800, .sqBarInit 29 17), (0x7D1E07C0, .sqBarWait 30 31),
    (0x7E18E800, .rinv 24 29), (0x8310BF58, .beq 24 16 48984), (0x863BE028, .bne 17 27 57384), (0x8BBFB145, .blt 29 31 45381),
    (0x8EBCFCEF, .bge 21 28 64751), (0x92F3B38C, .bltu 23 19 45964), (0x961EF556, .bgeu 16 30 62806), (0x98D50E54, .jal 26 331348),
    (0x99AE33FA, .jalr 21 24 13306), (0x9A946F19, .jtab 18 17 12057), (0x9E80FFEE, .sqLbr 5 65518), (0xA0EC6E00, .cbPub 29 17 23)]

noncomputable def sqWords2 : List (Nat × Instr) :=
  [(0xA1AEE800, .cbPin 21 27 20), (0xA2D62000, .cbUnpin 26 24 16), (0xA48F3C05, .lrPatch 17 28 30 5), (0xA5967E00, .lrArm 18 25 31),
    (0xB01B0020, .asgWr 27 2), (0xB3200130, .asgRd 25 3), (0xB2900200, .asgPget 20 16), (0xB01DAB00, .asgPput 29 21),
    (0xB0130400, .asgPfill 19), (0xB7F70000, .asgRun 31 23), (0xB61DE100, .asgPld 16 29 28), (0xB798BA00, .asgPst 28 24 23),
    (0xBAF58000, .cxCopy 23 21 2), (0xBE808000, .cxProg 20 2), (0xC1E07000, .sqCrRd 30 7), (0xC3504000, .sqCrWr 21 4),
    (0xC400F230, .sqTrap 62000), (0xC8000000, .sqEnd), (0xCC000000, .sqYield), (0xD3D00000, .lcRd 30 4), (0xD3960000, .lcIt 28 5),
    (0xF8080AF1, .pfxImm 527089), (0xF9000E30, .pfxOrd 14 1 4)]

theorem test_decode_sq0 : (sqWords0.map fun p => decode .sq p.1) = sqWords0.map fun p => .ok p.2 := by decide +kernel

theorem test_decode_sq1 : (sqWords1.map fun p => decode .sq p.1) = sqWords1.map fun p => .ok p.2 := by decide +kernel

theorem test_decode_sq2 : (sqWords2.map fun p => decode .sq p.1) = sqWords2.map fun p => .ok p.2 := by decide +kernel

noncomputable def veWords0 : List (Nat × Instr) :=
  [(0x83CF2D4A, .vadd 1 115 101 84 10), (0x85D7B40B, .vsub 1 117 118 64 11), (0x87F33728, .vmul 1 124 102 114 8),
    (0x89AE7C5D, .vfma 1 107 79 69 13), (0x8BF6C7AD, .vfmaR 1 125 88 122 13), (0x8D5F0FCE, .vfms 1 87 97 124 14),
    (0x8F625C6B, .vfmsR 1 88 75 70 11), (0x91620D9B, .vmin 1 88 65 89 11), (0x935E9E5F, .vmax 1 87 83 101 15),
    (0x954385FE, .vand 1 80 112 95 14), (0x9716961F, .vor 1 69 82 97 15), (0x99A20DFC, .vxor 1 104 65 95 12),
    (0x9B0F7C7B, .vshl 1 67 111 71 11), (0x9DBE0FCC, .vshr 1 111 65 124 12), (0x9FA294CD, .vqadd 1 104 82 76 13),
    (0xA15B7E6D, .vqsub 1 86 111 102 13), (0xA3A73D7D, .vsel 1 105 103 87 13), (0xA5C21FED, .vcmpEq 1 14 67 126 13),
    (0xA5C7BC49, .vcmpNe 1 14 119 68 9), (0xA56BD76D, .vcmpLt 1 11 122 118 13), (0xA54E3F8C, .vcmpLe 1 10 71 120 12),
    (0xA5D2D438, .vcmpGt 1 14 90 67 8), (0xA517A5CA, .vcmpGe 1 8 116 92 10), (0xA53A542D, .vcmpUnord 1 9 74 66 13),
    (0xA7926708, .vaddVs 1 100 76 14 8), (0xA7AA9D9C, .vsubVs 1 106 83 11 12), (0xA76B7DAF, .vmulVs 1 90 111 11 15),
    (0xA75A453D, .vminVs 1 86 72 10 13), (0xA79F054B, .vmaxVs 1 103 96 10 11), (0xA78BBFDB, .vfmaVs 1 98 119 15 11),
    (0xA7260F6C, .vrsub 1 73 65 14 12), (0xA7B00778, .vbcast 1 108 14 8), (0xA906580D, .vmov 1 65 75 13),
    (0xA91E304E, .vneg 1 71 70 14), (0xA96BC88D, .vabs 1 90 121 13), (0xA97E10CF, .vnot 1 95 66 15), (0xA9A7F10B, .vclz 1 105 126 11),
    (0xA9F2B14F, .vpopc 1 124 86 15), (0xA95E598F, .vrnd 1 87 75 15), (0xAB3B3956, .vcvt 1 78 103 2 10 3)]

noncomputable def veWords1 : List (Nat × Instr) :=
  [(0xC1475809, .vrcp 1 81 107 9), (0xC10A6049, .vrsqrt 1 66 76 9), (0xC137E08D, .vsqrt 1 77 124 13), (0xC14A40CD, .vexp2 1 82 72 13),
    (0xC193790D, .vlog2 1 100 111 13), (0xC1AA014A, .vexp 1 106 64 10), (0xC103C18F, .vtanh 1 64 120 15),
    (0xC12E31CF, .vsigm 1 75 70 15), (0xC3EB960C, .vdiv 1 122 114 96 12), (0xC5BCC008, .vredSum 1 13 115 8),
    (0xC516C08B, .vredMin 1 8 91 11), (0xC5F6010E, .vredMax 1 15 88 14), (0xC5F0C18A, .vredAnd 1 15 67 10),
    (0xC573020A, .vredOr 1 11 76 10), (0xC571028A, .vredXor 1 11 68 10), (0xC76EE59C, .vperm 1 91 92 89 12),
    (0xC9AAF70D, .vcompress 1 106 94 14 13), (0xCB2E1008, .vexpand 1 75 66 8), (0xCDB3F68F, .vslup 1 108 126 13 15),
    (0xCDA3759D, .vsldn 1 104 110 11 13), (0xCD6FE72B, .vbcastl 1 91 124 14 11), (0xCC2BA5B0, .vext 1 10 116 11),
    (0xCD1A86C0, .vins 1 70 10 13), (0xD9D630A5, .vld 1 117 8 12453), (0xDB77AAFC, .vst 1 93 14 11004),
    (0xDD66E68A, .vldx 1 89 11 77 10), (0xDFA3C00E, .vstp 1 104 15 14), (0xE17FEB8B, .vstx 1 95 15 87 11),
    (0xE9536000, .pand 1 10 9 11), (0xE99D0400, .por 1 12 14 8), (0xE9D78800, .pxor 1 14 11 12), (0xE9370C00, .pandn 1 9 11 8),
    (0xE9FA1000, .pnot 1 15 13), (0xE9601400, .pset 1 11), (0xE9201800, .pclr 1 9), (0xE91C1C00, .pmov 1 8 14),
    (0xEB580000, .pcount 1 10 12), (0xEBB04000, .pfirst 1 13 8), (0xEBD28000, .pwhile 1 14 9), (0xEE782000, .veCrRd 1 15 4)]

noncomputable def veWords2 : List (Nat × Instr) :=
  [(0xEEE04800, .veCrRdHi 1 12 9), (0xEF788800, .veCrWr 1 15 17), (0xF140F8FF, .veLbr 1 5 63743), (0xF200002C, .veSemSig 1 44),
    (0xF2800035, .veSemWait 1 53), (0xF37A0000, .veTlWait 1 7 10), (0xF4000000, .veEnd 1), (0xF4809F4E, .veTrap 1 40782),
    (0xF5000000, .veYield 1), (0xF6C0EF02, .bz 1 12 61186), (0xF7F0A8E6, .bnz 1 15 43238), (0xF9DF0000, .aAdd 1 14 15 8),
    (0xF9314100, .aSub 1 9 8 10), (0xF939C200, .aMul 1 9 12 14), (0xF973E300, .aAnd 1 11 9 15), (0xF95D6400, .aOr 1 10 14 11),
    (0xF9318500, .aXor 1 9 8 12), (0xF9570600, .aSll 1 10 11 8), (0xF9972700, .aSrl 1 12 11 9), (0xF9178800, .aSra 1 8 11 12),
    (0xF97D4900, .aMin 1 11 14 10), (0xF9DFAA00, .aMax 1 14 15 13), (0xF95D6B00, .aMinu 1 10 14 11), (0xF9BD8C00, .aMaxu 1 13 14 12),
    (0xF93B4D00, .aSlt 1 9 13 10), (0xF95BEE00, .aSltu 1 10 13 15), (0xF9A06F00, .aLc 1 13 3), (0xF9809000, .aIt 1 12 4),
    (0xFBD0F0CF, .aAddi 1 14 8 61647), (0xFB41E5F2, .aLui 1 10 58866)]

theorem test_decode_ve0 : (veWords0.map fun p => decode .ve p.1) = veWords0.map fun p => .ok p.2 := by decide +kernel

theorem test_decode_ve1 : (veWords1.map fun p => decode .ve p.1) = veWords1.map fun p => .ok p.2 := by decide +kernel

theorem test_decode_ve2 : (veWords2.map fun p => decode .ve p.1) = veWords2.map fun p => .ok p.2 := by decide +kernel

noncomputable def meWords0 : List (Nat × Instr) :=
  [(0x061EE8C0, .mPass 4 0 7 5 104 1 2), (0x0B1658E0, .mPassi 6 0 5 4 88 1 3), (0x42C3F060, .mGpass 5 2 0 7 112 3),
    (0x47EBE480, .gSum 7 6 5 1 228 2), (0x627B4FC1, .mConv 4 7 5 41 1 3 193), (0x6400F4F8, .mShape 62712), (0x6802DA40, .mClr 5 90 2),
    (0x8200F7BF, .mTq 2 63423), (0xA0059D3A, .mCrLd 5 40250), (0xA12B8DE4, .mCrSt 43 36324), (0xA2208DC7, .mCrImm 32 36295),
    (0xA4000037, .meSemSig 55), (0xA5000025, .meSemWait 37), (0xA6A0D956, .meTlWait 5 55638), (0xAA00DBBC, .meLbr 4 56252),
    (0xAC000000, .meEnd), (0xAD00F586, .meTrap 62854), (0xAE000000, .meYield), (0xB0008711, .mB 34577)]

theorem test_decode_me0 : (meWords0.map fun p => decode .me p.1) = meWords0.map fun p => .ok p.2 := by decide +kernel

noncomputable def xlWords0 : List (Nat × Instr) :=
  [(0x06B3A4A6, .xlLd 10 12 14 586 1 1 0), (0x0BB6F6D6, .xlGather 14 13 11 877 1 1 0), (0x0F27F6B1, .xlGather8 12 9 15 875 0 1),
    (0x13242452, .xlFeed 12 9 581 0 1), (0x176F2E10, .xlPlatenDense 13 11 12 737), (0x16AFB264, .xlPlatenCw 10 11 14 806),
    (0x166362A8, .xlPlatenImage 9 8 13 554), (0x1BF20000, .xlCase 15 12 8), (0x1B200004, .xlCaseAuto 12 8),
    (0x1F36A1D3, .xlExpand 12 13 10 541 0 1 1), (0x1F3A7237, .xlExpandAuto 12 14 9 803 0 1 1), (0x23A82E00, .xlRoute 14 10 736),
    (0x24203814, .xlAcflush 8 897 1)]

theorem test_decode_xl0 : (xlWords0.map fun p => decode .xl p.1) = xlWords0.map fun p => .ok p.2 := by decide +kernel

noncomputable def xsWords0 : List (Nat × Instr) :=
  [(0x2BB722A4, .xsSt 14 13 12 554 1), (0x2EE6A464, .xsStash 11 9 10 582 1), (0x303B28E4, .xsTopk 14 12 654 1),
    (0x37B23404, .xsUpd 14 12 8 832 1), (0x3ABA3B38, .xsScatter 10 14 8 947 1 0), (0x3EAE21F0, .xsReidx 10 11 8 543),
    (0x822C3460, .xsRinv 8 11 838), (0x92C02C50, .xsColl 11 709)]

theorem test_decode_xs0 : (xsWords0.map fun p => decode .xs p.1) = xsWords0.map fun p => .ok p.2 := by decide +kernel

noncomputable def xfWords0 : List (Nat × Instr) :=
  [(0x843A0000, .xlsBarInit 14 8), (0x8B700000, .xlsBarWait 13 12), (0xC22A4000, .cAdd 8 10 9), (0xC2BAC200, .cSub 10 14 11),
    (0xC3F24400, .cMul 15 12 9), (0xC2A6C600, .cAnd 10 9 11), (0xC2A7C800, .cOr 10 9 15), (0xC2BACA00, .cXor 10 14 11),
    (0xC2A2CC00, .cSll 10 8 11), (0xC3FA8E00, .cSrl 15 14 10), (0xC2BB1000, .cSra 10 14 12), (0xC2A71200, .cMin 10 9 12),
    (0xC2A7D400, .cMax 10 9 15), (0xC3FB1600, .cMinu 15 14 12), (0xC36A5800, .cMaxu 13 10 9), (0xC2369A00, .cSlt 8 13 10),
    (0xC326DC00, .cSltu 12 9 11), (0xC3C09E00, .cLc 15 2), (0xC2406000, .cIt 9 1), (0xC3AC2200, .hMv 14 11), (0xC2B42400, .cHmv 10 13),
    (0xC734E19B, .cAddi 12 13 57755), (0xC781D4AD, .cLui 14 54445), (0xC7C280B0, .hLi 15 32944), (0xC88ACC88, .cBeq 8 10 52360),
    (0xC98E9583, .cBne 8 14 38275), (0xCA8D901A, .cBltu 8 13 36890), (0xCB9FF353, .cBgeu 9 15 62291), (0xCE00F07F, .xlsLbr 4 61567),
    (0xD0000030, .xlsSemSig 48), (0xD1000034, .xlsSemWait 52), (0xD2960000, .xlsTlWait 4 11), (0xD4D02000, .xlsCrRd 13 2),
    (0xD5C05000, .xlsCrRdHi 12 5), (0xD6B02000, .xlsCrWr 11 2), (0xD8000000, .xlsEnd), (0xD9008C3B, .xlsTrap 35899),
    (0xDA000000, .xlsYield)]

theorem test_decode_xf0_asxl : (xfWords0.map fun p => decode .xl p.1) = xfWords0.map fun p => .ok p.2 := by decide +kernel

theorem test_decode_xf0_asxs : (xfWords0.map fun p => decode .xs p.1) = xfWords0.map fun p => .ok p.2 := by decide +kernel

/-- Words that the spec writes out itself (R112, R135), and words that no stream takes. -/
theorem test_decode_spec_words :
    decode .sq 0x28C01234 = .ok (.lui 6 0x1234) ∧ decode .sq 0x2CC6ABCD = .ok (.orhi 6 6 0xABCD)
    ∧ decode .sq 0x0CA03456 = .ok (.addi 5 0 0x3456) := by decide +kernel

/-- R94, R96: an opcode of the other stream, a nonzero reserved bit, a reserved code, and the two words no stream takes. -/
theorem test_decode_refused :
    (∀ u ∈ [StreamId.sq, .ve, .me, .xl, .xs], decode u 0 = .error .illWord ∧ decode u 0xFFFFFFFF = .error .illWord)
    ∧ decode .sq 0x04611001 = .error .illRsv ∧ decode .xs 0x0448C055 = .error .illOp
    ∧ decode .sq 0xF4000000 = .error .illOp := by decide +kernel

/-! ### Witnesses: words of SQ -/

/-- s1 = 2^44 + 8, s2 = 1, s3 = 0x1234, s4 = 2^64 - 1, s5 = 2^63, s6 = 2^45 - 4, s7 = 2^44 + 1; s0 and the others 0. -/
def sq0 : State := mem0 (on .sq (sregs [(1, 2 ^ 44 + 8), (2, 1), (3, 0x1234), (4, 2 ^ 64 - 1), (5, 2 ^ 63), (6, 2 ^ 45 - 4), (7, 2 ^ 44 + 1)]))

theorem test_hyps_SqRegisterFormsWriteTheirResult : sq0.calm ∧ sq0.fits .sq false 0 := by
  unfold State.calm State.fits; decide +kernel

theorem test_hyps_SqBitCountsAndDivisions : sq0.calm ∧ sq0.fits .sq false 0 ∧ sGet sq0 0 = 0 ∧ sGet sq0 2 ≠ 0
    ∧ sGet sq0 5 = 0x8000000000000000#64 ∧ sGet sq0 4 = 0xFFFFFFFFFFFFFFFF#64 := by
  unfold State.calm State.fits; decide +kernel

theorem test_hyps_SqImmediateFormsWriteTheirResult : sq0.calm ∧ sq0.fits .sq true 0 ∧ sq0.fits .sq false 0 := by
  unfold State.calm State.fits; decide +kernel

theorem test_hyps_SqArithmeticRaisesNothing : sqArith (.add 3 1 2) = some false ∧ sqArith (.addi 3 1 2) = some true
    ∧ sq0.calm ∧ sq0.fits .sq false 0 ∧ sq0.fits .sq true 0 := by
  unfold State.calm State.fits; decide +kernel

theorem test_hyps_SqRegisterZeroIsHardWired : (1 ≠ 0 ∧ 1 < 32) ∧ (31 ≠ 0 ∧ 31 < 32) ∧ 30 ≠ 31 := by decide

theorem test_hyps_SqLoadsWriteTheirValue : ∃ s1 s2 : State, sq0.calm ∧ sq0.slow = false ∧ sq0.fits .sq true 2 ∧ sq0.fits .sq false 2
    ∧ (sGet sq0 1 + sqImm sq0 13 8 true).toNat = 2 ^ 44 + 16 ∧ (sGet sq0 1 + sGet sq0 2 * 8).toNat = 2 ^ 44 + 16
    ∧ runOp (flatKey (sq0.requester 0 0 0) (2 ^ 44 + 16) 8 1) sq0 = (.ok 0x400010, s1)
    ∧ runOp (loadAt 0 (2 ^ 44 + 16) 0x400010 8 0 0 0) s1 = (.ok 0, s2) ∧ s2.stuck = none ∧ s1.stuck = none
    ∧ (let t := { sq0 with slow := true }
       t.slow = true ∧ ok (runOp (flatKey (t.requester 0 0 0) (2 ^ 44 + 16) 8 1) t) = some 0x400010) := by
  refine ⟨_, _, ?_, ?_, ?_, ?_, ?_, ?_, ok_eq ?_, ok_eq ?_, ?_, ?_, ?_⟩ <;> first | decide +kernel | (unfold State.calm; decide +kernel) | (unfold State.fits; decide +kernel)


theorem test_hyps_SqStoresMakeTheirAccess : let x := runOp (flatKey (sq0.requester 0 0 0) (2 ^ 44 + 16) 8 2) sq0
    sq0.calm ∧ sq0.fits .sq true 3 ∧ sq0.fits .sq false 3 ∧ sq0.ck = 0
    ∧ (sGet sq0 1 + sqImm sq0 13 8 true).toNat = 2 ^ 44 + 16 ∧ (sGet sq0 1 + sGet sq0 2 * 8).toNat = 2 ^ 44 + 16
    ∧ ok x = some 0x400010 ∧ ok (runOp (storeAt 0 0x400010 8 0x1234 0 0 0) x.2) = some ()
    ∧ (runOp (storeAt 0 0x400010 8 0x1234 0 0 0) x.2).2.stuck = none := by
  unfold State.calm State.fits; decide +kernel

theorem test_hyps_SqBadAddressesTrap : sq0.calm ∧ sq0.fits .sq true 2 ∧ sq0.fits .sq true 3
    ∧ (sGet sq0 6 + sqImm sq0 13 8 true).toNat / 2 ^ 44 ≠ (sGet sq0 6).toNat / 2 ^ 44
    ∧ (sGet sq0 7 + sqImm sq0 13 0 true).toNat / 2 ^ 44 = (sGet sq0 7).toNat / 2 ^ 44
    ∧ (sGet sq0 7 + sqImm sq0 13 0 true).toNat % tyBytes 2 ≠ 0
    ∧ sq0.fits .sq false 1 ∧ sq0.fits .sq false 2 ∧ sq0.fits .sq false 3 ∧ (sGet sq0 7).toNat % 4 ≠ 0
    ∧ (sGet sq0 7 + sGet sq0 2 * BitVec.ofNat 64 (tyBytes 2)).toNat / 2 ^ 44 = (sGet sq0 7).toNat / 2 ^ 44
    ∧ (sGet sq0 6 + sGet sq0 2 * BitVec.ofNat 64 (tyBytes 2)).toNat / 2 ^ 44 ≠ (sGet sq0 6).toNat / 2 ^ 44
    ∧ (sGet sq0 7 + sGet sq0 2 * BitVec.ofNat 64 (tyBytes 2)).toNat % tyBytes 2 ≠ 0 := by
  unfold State.calm State.fits; decide +kernel

/-- A line with no copy in the die's L2, and an empty way of the partition. -/
theorem test_l2Has : sq0.l2Has 0 0 0x8000 := .inr ⟨0, by decide, rfl⟩

theorem test_hyps_StoresAndLoadsOfOneLineAgree : let x := runOp (storeAt 0 0x40007C 4 0x1234 0 0 0) sq0
    sq0.mem.wf = true ∧ sq0.wbuf = [] ∧ 0x40007C % 128 + 4 ≤ 128 ∧ sq0.channelOff 0x40007C = false ∧ ok x = some ()
    ∧ ok (runOp (loadAt 0 (2 ^ 44 + 124) 0x40007C 4 0 0 0) x.2) = some 0x1234 := by decide +kernel

theorem test_hyps_SqAtomics : let x := runOp (flatKey (sq0.requester 0 0 0) (2 ^ 44 + 8) 8 4) sq0
    sq0.calm ∧ sq0.slow = false ∧ sq0.fits .sq false 1 ∧ (sGet sq0 1).toNat % 8 = 0 ∧ homeKind 0x400008 ≠ 2 ∧ ok x = some 0x400008
    ∧ ((List.range 10).all fun op => decide (ok (runOp (amoAt 0 0 0x400000 8 op 1 1 0 0) x.2) = some 0x8877665544332211
      ∧ (runOp (amoAt 0 0 0x400000 8 op 1 1 0 0) x.2).2.stuck = none)) = true
    ∧ ({ sq0 with slow := true } : State).slow = true ∧ (release 0 3 allClasses x.2).stuck = none
    ∧ ok (runOp (amoAt 0 0 0x400000 4 9 1 0x44332211 0 0) sq0) = some 0x44332211
    ∧ sq0.mem.wf = true ∧ sq0.wbuf = [] ∧ sq0.channelOff 0x400000 = false ∧ x.2.noRoute 0 3 allClasses = false := by
  unfold State.calm State.fits; decide +kernel

/-- One dirty and one clean line of class 0 in the die L2. -/
def sqL2 : State := (runOp (do
  storeAt 0 0x400000 8 7 0 0 0
  let _ ← loadAt 0 (2 ^ 44 + 128) 0x400080 8 0 0 0) sq0).2

/-- A dirty line of package 5 in the die L2, and no port that reaches it. -/
def farL2 : State := { on .sq with dies := [(0, { l2 := [⟨peerKey 5 0 / 128, 7, 1, 1, 0, 0, 0⟩] })] }

theorem test_hyps_SqFencesReleaseAndAcquire : sqL2.calm ∧ sqL2.slow = false ∧ sqL2.fits .sq false 0
    ∧ ((sqL2.die 0).l2.map fun l => (l.line, l.cmask, decide (l.dirty = 0))) = [(0x8001, 1, true), (0x8000, 1, false)]
    ∧ ((sqL2.core 0).l1.map fun l => (l.line, l.cls)) = [(0x8001, 0)]
    ∧ sqL2.noRoute 0 4 allClasses = false ∧ farL2.calm ∧ farL2.slow = false ∧ farL2.fits .sq false 0 ∧ farL2.noRoute 0 3 1 = true := by
  unfold State.calm State.fits; decide +kernel

/-- Semaphore 1 counts 1 and semaphore 63 counts 65,535; s1 names slot 0 of core 0 under instance 5, s2 another instance. -/
def sqSem (n : Nat) : State :=
  let s := on .sq { sregs [(1, 5 * 65536), (2, 6 * 65536)] with sem := vset (vset (Vector.replicate 64 0) 1 1) n 0xFFFF }
  s.modCtx 0 fun c => { c with linst := 5 }

theorem test_hyps_SqSemaphoreWords : let s := sqSem 63
    s.calm ∧ s.slow = false ∧ s.fits .sq false 0 ∧ vget 0 s.c.r.sem 0 = 0 ∧ vget 0 s.c.r.sem 1 = 1 ∧ vget 0 s.c.r.sem 63 = 0xFFFF#16
    ∧ (let v := (sGet s 1).toNat
       v / 2 ^ 32 = 0 ∧ v / 2 ^ 11 % 32 = 0 ∧ v % 512 ≤ 383 ∧ v % 512 * 4 + v / 512 % 4 = 0 ∧ s.c.st = .run
       ∧ s.c.linst.toNat % 65536 = v / 65536 % 65536 ∧ s.c.bind.secure = false)
    ∧ s.c.linst.toNat % 65536 ≠ (sGet s 2).toNat / 65536 % 65536
    ∧ (let t : State := { s with ctxs := setAt 4 { st := .run, linst := 9, bind := { secure := true } } s.ctxs }
       (t.ctx 4).bind.secure = true ∧ t.c.bind.secure = false ∧ (t.ctx 4).st = .run) := by
  unfold State.calm State.fits; decide +kernel

/-- TL2 has completed 1 of 2; AB holds a barrier of 2 with 1 arrival at offset 0, of 2 with 2 at 16; s1 = 16, s2 = 1, s3 = 2, s4 = 2^17. -/
def sqBar : State :=
  let s := on .sq { sregs [(1, 16), (2, 1), (3, 2), (4, 2 ^ 17)] with tl := vset (Vector.replicate 8 {}) 2 { issued := 2, done := 1 } }
  settle s (winWrite 0 0 16 8 (2 + 2 * 2 ^ 32) (winWrite 0 0 0 8 (2 + 2 ^ 32) s))

theorem test_hyps_SqTimelineAndBarrierWords : sqBar.calm ∧ sqBar.fits .sq false 0
    ∧ (sGet sqBar 2).toNat ≤ (sqBar.timeline 0 2).done.toNat ∧ (sqBar.timeline 0 2).done.toNat < (sGet sqBar 3).toNat
    ∧ inWindow sqBar.c 0 0 16 = true ∧ winRead 0 0 0 16 sqBar = (2 + 2 ^ 32, false)
    ∧ inWindow sqBar.c 0 16 16 = true ∧ winRead 0 0 16 16 sqBar = (2 + 2 * 2 ^ 32, false)
    ∧ (sGet sqBar 2).toNat % 16 ≠ 0 ∧ (sGet sqBar 4).toNat % 16 = 0 ∧ inWindow sqBar.c 0 (sGet sqBar 4).toNat 16 = false
    ∧ (let t := { sqBar with bpoison := [winKey 0 sqBar.c 0 16 / 8] }
       t.calm ∧ t.fits .sq false 0 ∧ (winRead 0 0 16 16 t).2 = true
       ∧ (errorLog (dieOf 0) 0 0 (whoOf (coreOf 0) 0) t.c.linst.toNat 0 t).2.stuck = none) := by
  unfold State.calm State.fits; decide +kernel

theorem test_hyps_SqRinvDropsItsRange : sq0.calm ∧ sq0.fits .sq false 0 ∧ (sGet sq0 0).toNat = 0 ∧ (sGet sq0 2).toNat ≠ 0
    ∧ ((sGet sq0 1).toNat + 1 - 1) / 2 ^ 44 = (sGet sq0 1).toNat / 2 ^ 44
    ∧ ((sGet sq0 6).toNat + 5 - 1) / 2 ^ 44 ≠ (sGet sq0 6).toNat / 2 ^ 44 := by
  unfold State.calm State.fits; decide +kernel

theorem test_hyps_SqBranches : sq0.calm ∧ sq0.fits .sq false 0 ∧ 0xFFFF < 2 ^ 16 := by
  unfold State.calm State.fits; decide +kernel

/-- A jump table of two bounds (3, 9) at address 4 after the word at 0; one loop level of bound 2; s1 = 9, s2 = 10. -/
def sqJump (it : BitVec 32) : State :=
  on .sq { sregs [(1, 9), (2, 10), (3, 2)] with
    streams := vset (Vector.replicate 5 {}) 0 { code := [0, 2, 3, 9, 0, 4], iter := vset (Vector.replicate 6 0) 0 it }
    levels := [{ kind := 0, drain := false, bound := [], epi := [0, 0, 0, 0, 0], live := [] }]
    lc := vset (Vector.replicate 6 0) 0 2 }

theorem test_hyps_SqJumpsAndLoopWords : let s := sqJump 0
    let st := s.c.stream .sq
    s.calm ∧ s.fits .sq false 0 ∧ st.fetch 4 = 2 ∧ st.fetch 8 = 3 ∧ st.fetch 12 = 9 ∧ st.fetch 16 = 0 ∧ st.fetch 20 = 4
    ∧ 4 + 8 * 2 + 4 ≤ 4 * st.code.length ∧ ((4 * 1 : Int) % 2 ^ 32).toNat = 4
    ∧ (sGet s 1).toNat ≤ st.fetch 12 ∧ st.fetch 8 < (sGet s 1).toNat ∧ st.fetch 12 < (sGet s 2).toNat
    ∧ (sGet s 0).toNat % 4 = 0 ∧ (sGet s 3).toNat % 4 ≠ 0 ∧ 0 < s.c.r.levels.length ∧ s.c.r.levels.length ≤ 1
    ∧ (vget 0 st.iter 0).toNat + 1 < (vget 0 s.c.r.lc 0).toNat + s.c.r.epi 0 StreamId.sq.code
    ∧ (let t := sqJump 1
       (vget 0 t.c.r.lc 0).toNat + t.c.r.epi 0 StreamId.sq.code ≤ (vget 0 (t.c.stream .sq).iter 0).toNat + 1 ∧ t.c.cutAt .sq 0 = false)
    ∧ (on .xs).calm ∧ (on .xs).xu = .xs ∧ (on .xs).fits .xs false 0 := by
  unfold State.calm State.fits; decide +kernel

/-- R280: a stream that leaves the level of the cut in force is drained there. -/
theorem test_cut_drains : let s := (sqJump 1).modCtx 0 fun c => { c with
      st := .halting
      r := { c.r with levels := [⟨0, false, [1, 1, 1, 0, 0], [0, 0, 0, 0, 0], []⟩], cut := some ⟨0, 0, 0, 0⟩ } }
    s.calm ∧ s.fits .sq false 0 ∧ s.c.cutAt .sq 0 = true ∧ s.c.cutAt .ve 0 = true ∧ s.c.cutAt .me 0 = true ∧ s.c.cutAt .xl 0 = false ∧ s.c.st ≠ .run
    ∧ (nextOf (exec (.sqLbr 0 0) s)).any (fun t => (t.c.stream .sq).drained) = true := by
  unfold State.calm State.fits; decide +kernel

theorem test_hyps_SqControlRegisters : let s := on .sq (sregs [(1, 16), (2, 4), (3, 5), (4, 1001), (5, 1000), (6, 0x40), (7, 0xF83F)])
    s.calm ∧ s.fits .sq false 0 ∧ (sGet s 2).toNat < 16 ∧ ¬ (sGet s 1).toNat < 16 ∧ (sGet s 2).toNat % 8 ≤ 4
    ∧ ¬ (sGet s 3).toNat % 8 ≤ 4 ∧ (sGet s 5).toNat ≤ 1000 ∧ ¬ (sGet s 4).toNat ≤ 1000 ∧ (sGet s 6).toNat / 2 ^ 6 % 2 ^ 5 ≠ 0
    ∧ (sGet s 7).toNat < 2 ^ 16 ∧ (sGet s 7).toNat / 2 ^ 6 % 2 ^ 5 = 0 := by
  unfold State.calm State.fits; decide +kernel

/-- ME with one step that has not drained. -/
def meDraining : State := on .me { me := { drains := [⟨0, none, [], [(0, 7)], 1, false⟩] } }
/-- A copy that has not completed. -/
def oneCopy : CxCmd := { num := 1, cls := 0, src := 0, dst := 128, len := 8, srcAb := true, dstAb := true, bar := none, sdesc := 0, ddesc := 0 }

theorem test_hyps_SystemWords : let s := on .sq
    let t := on .sq { cxQ := vset (Vector.replicate 4 []) 0 [oneCopy] }
    s.calm ∧ s.fits .sq false 0 ∧ (∀ l ∈ s.c.r.cxQ.toList, l = []) ∧ s.c.r.asg.queue = [] ∧ s.c.r.asg.run = none
    ∧ t.calm ∧ t.fits .sq false 0 ∧ ¬ (∀ l ∈ t.c.r.cxQ.toList, l = [])
    ∧ (on .xl).calm ∧ (on .xl).fits (on .xl).xu false 0 ∧ (on .xl).xu = .xl ∧ (on .xl).c.r.xlQ = []
    ∧ (on .xs).xu = .xs ∧ (on .xs).c.r.xsQ = [] ∧ (on .xs).c.r.coll = []
    ∧ (on .me).calm ∧ (on .me).fits .me false 0 ∧ (on .me).c.r.me.drains = []
    ∧ meDraining.calm ∧ meDraining.fits .me false 0 ∧ meDraining.c.r.me.drains ≠ [] := by
  unfold State.calm State.fits; decide +kernel

/-- A stream that has latched both prefixes. -/
def pfxd (i : Option Nat) (o : Option (Nat × Nat × Nat)) : State :=
  on .sq { streams := vset (Vector.replicate 5 {}) 0 { pfxImm := i, pfxOrd := o, pfxLen := 1 } }

theorem test_hyps_PrefixesLatchOrTrap : (pfxd none none).calm ∧ ((pfxd none none).c.stream .sq).pfxImm = none
    ∧ ((pfxd (some 1) none).c.stream .sq).pfxImm ≠ none ∧ ((pfxd none none).c.stream .sq).pfxOrd = none
    ∧ ((pfxd none (some (1, 0, 0))).c.stream .sq).pfxOrd ≠ none
    ∧ sqPrefixes (.add 3 1 2) = some (false, 0) ∧ ((pfxd (some 1) none).c.stream .sq).unfit false 0 = true
    ∧ sqPrefixes (.ld 3 1 0 2) = some (true, 2) ∧ ((pfxd none (some (1, 2, 0))).c.stream .sq).unfit true 2 = true
    ∧ sqPrefixes (.st 3 1 0 2) = some (true, 3) ∧ ((pfxd none (some (1, 1, 0))).c.stream .sq).unfit true 3 = true
    ∧ sqPrefixes (.amoAdd 1 2 3 1 0 0) = some (false, 1) ∧ ((pfxd none (some (1, 1, 0))).c.stream .sq).unfit false 1 = true := by
  unfold State.calm; decide +kernel

theorem test_hyps_IllegalWordTraps : sq0.calm := ⟨rfl, rfl, rfl⟩

theorem test_hyps_TrapEntryHaltsTheContext : (sq0.ctx 0).halt = none ∧ (sq0.ctx 0).r.pend = none
    ∧ ((sq0.modCtx 0 fun c => { c with halt := some { kind := 2, cause := 3 } }).ctx 0).halt = some { kind := 2, cause := 3 } := by
  decide +kernel

theorem test_hyps_FaultFrameLayout : let h : Halt := { kind := 2, cause := 255, code := 2 ^ 32 - 1, faddr := 2 ^ 64 - 1, auxf := 1, elog := 1 }
    ({ halt := some h } : Ctx).halt = some h ∧ h.kind = 2 ∧ h.cause < 2 ^ 8 ∧ h.code < 2 ^ 32 ∧ h.faddr < 2 ^ 64 ∧ h.auxf < 2 ^ 32
    ∧ h.elog < 2 ^ 64 ∧ ({ halt := some h } : Ctx).r.me.rowdone < 2 ^ 32 ∧ ({ halt := some h } : Ctx).r.cut = none
    ∧ (let c : Ctx := { halt := some { h with kind := 4 }, r := { cut := some ⟨5, 2 ^ 32 - 1, 7, 0⟩ } }
       c.r.cut = some ⟨5, 2 ^ 32 - 1, 7, 0⟩ ∧ fieldOf (faultFrame c) 4 1 = 0 ∧ fieldOf (faultFrame c) 60 4 = 5) := by
  decide +kernel

/-- A frame at 0x500000 of a context saved as number 1 by a hard stop (KIND 1). -/
def saved : State :=
  { on .sq with mem := commit [] (cellsOf (0x500000 + frStreams) 8 1 ++ cellsOf 0x500004 1 1), saves := [(1, sregs [(9, 5)])] }

theorem test_hyps_ResumeRestoresTheSavedRegisters : 0x500000 + 0x450000 ≤ dramEnd ∧ (physRead (0x500000 + frStreams) 8 saved).1 = 1
    ∧ (physRead 0x500000 256 saved).1 / 2 ^ 32 % 256 ≠ 0 ∧ (getAt {} 1 saved.saves).cut = none ∧ saved.Wf = true ∧ saved.mapBase = none
    ∧ 0 < saved.c.abBytes ∧ saved.c.abBytes ≤ 0x300000 ∧ 0 < saved.c.cbBytes ∧ saved.c.cbBytes ≤ 0x100000
    ∧ 65536 * abBase saved.c.ctxbuf + saved.c.abBytes ≤ 2 ^ 28 ∧ 32768 * ctBase saved.c.ctxbuf + saved.c.cbBytes ≤ 2 ^ 28
    ∧ (let r : Regs := { sregs [] with
         levels := [⟨0, false, [1, 1, 1, 0, 0], [0, 0, 0, 0, 0], []⟩], cut := some ⟨0, 3, 5, 0⟩
         streams := Vector.replicate 5 { drained := true, head := vset (Vector.replicate 6 4294967296) 0 8 } }
       r.allDrained 0 = true ∧ r.takesPart 0 StreamId.sq.code = true ∧ r.takesPart 0 StreamId.xl.code = false
       ∧ (resumeContext 0 0x500000 { saved with saves := [(1, r)] }).c.r.cut = none
       ∧ ((resumeContext 0 0x500000 { saved with saves := [(1, r)] }).c.stream .sq).pc = 8) := by decide +kernel

/-! ### Witnesses: codebooks, launches, copies and assignments -/

/-- A launch pool at 3 MiB: record 1 is built, accepts patches of fields 0 and 1 (maximum 10) and has one bucket of 16; record 2 is
secure, and record 3 armed; record 0 is not built. s5 to s9 are 1, 2, 3, 4,096 and 17. -/
def sqLr : State :=
  let r : Nat := 0x31 * 2 ^ (8 * 0x20) + 16 * 2 ^ (8 * 0x30) + 10 * 2 ^ (8 * 0x68)
  { on .sq (sregs [(5, 1), (6, 2), (7, 3), (8, 4096), (9, 17), (10, 64)]) with
    mem := commit [] (cellsOf 0x300100 256 r ++ cellsOf 0x300200 256 (r + 4 * 2 ^ (8 * 0x20)) ++ cellsOf 0x300300 256 (r + 2 ^ (8 * 0x88)))
    parts := [(0, { active := { lrpool := 0x300000 } })] }

theorem test_hyps_SqLaunchWordsAnswerTheirStatus : let s := sqLr
    let r (i : Nat) := (physRead (lrAddr s 0 i) 256 s).1
    s.calm ∧ s.slow = false ∧ s.fits .sq false 0 ∧ 2 ^ 12 ≤ (sGet s 8).toNat
    ∧ ((List.range 4).all fun i => decide (lrAddr s 0 i + 256 ≤ dramEnd ∧ (physRead (lrAddr s 0 i) 256 s).2.1 = false)) = true
    ∧ lrBuilt (r 0) = false ∧ lrBuilt (r 1) = true ∧ lrSecure (r 1) = false ∧ lrArmed (r 1) = false ∧ lrSecure (r 2) = true
    ∧ s.c.bind.secure = false ∧ lrBuilt (r 2) = true ∧ lrBuilt (r 3) = true ∧ lrArmed (r 3) = true ∧ lrSecure (r 3) = false
    ∧ lrPatchBit (r 1) 2 = false ∧ lrPatchBit (r 1) 0 = true ∧ lrPatchBit (r 1) 1 = true ∧ fieldOf (r 1) 0x68 4 = 10
    ∧ (sGet s 10).toNat % 64 = 0 ∧ (sGet s 9).toNat % 64 ≠ 0 ∧ 10 < (sGet s 9).toNat ∧ (sGet s 5).toNat ≤ 10 := by
  unfold State.calm State.fits; decide +kernel

theorem test_hyps_SqArmWord : let s := sqLr
    let rel := release 0 2 allClasses s
    let armed (i x : Nat) := armRecord 0 false 0 i x none rel
    let full : State := { s with dies := [(0, { mc := [(0, { base := 2 ^ 44, head := 12287 })] })] }
    s.calm ∧ s.slow = false ∧ s.fits .sq false 0 ∧ lrAddr s 0 1 + 256 ≤ dramEnd ∧ (physRead (lrAddr s 0 1) 256 rel).2.1 = false
    ∧ (armed 1 16).2.stuck = none ∧ (armed 1 16).1 = 0 ∧ (armed 1 17).1 = 6 ∧ (armed 0 1).1 = 2 ∧ (armed 2 1).1 = 7 ∧ (armed 3 1).1 = 5
    ∧ s.frozen 0 = false ∧ (({ s with parts := [(0, { ma := { source := true, phase := .serving } })] } : State).frozen 0) = true
    ∧ (armqPull 0 0 (physRead (lrAddr s 0 1) 256 (release 0 2 allClasses full)).2.2).stuck = none
    ∧ lrHome (physRead (lrAddr s 0 1) 256 rel).1 = 0 ∧ armqRoom 0 0 rel = true ∧ armqRoom 0 0 (release 0 2 allClasses full) = false := by
  unfold State.calm State.fits; decide +kernel

/-- A codebook table at 2^44 of 17 descriptors: descriptor 16 has version 1, two codewords of one f32. s1 = 16, s2 = 15,
s3 = 2^16, s4 = 128, s5 = 1, s6 = 2^32. -/
def sqCb : State :=
  let s := mem0 (on .sq (sregs [(1, 16), (2, 15), (3, 2 ^ 16), (4, 128), (5, 1), (6, 2 ^ 32)]))
  { s with
    parts := s.parts.map fun p => (p.1, { p.2 with active := { p.2.active with cbtab := 2 ^ 44 + 17 } })
    mem := commit s.mem (cellsOf (0x400000 + 128 * 16) 128
      (16 + 2 ^ 16 + 2 ^ 32 + 2 ^ 96 + (1 + 2 ^ 32 + 2 ^ 44 * 2 ^ 64) * 2 ^ 128)) }

theorem test_hyps_SqCodebookWordsAnswerTheirStatus : let s := sqCb
    let rel := release 0 2 allClasses s
    s.calm ∧ s.slow = false ∧ s.fits .sq false 0 ∧ 2 ^ 16 ≤ (sGet s 3).toNat ∧ (sGet s 2).toNat < 16
    ∧ 16 ≤ (sGet s 1).toNat ∧ (sGet s 1).toNat < 2 ^ 16 ∧ (sGet s 5).toNat % 128 ≠ 0 ∧ (sGet s 4).toNat % 128 = 0
    ∧ 2 ^ 32 ≤ (sGet s 6).toNat ∧ (sGet s 4).toNat < 2 ^ 32
    ∧ ok (runOp (cbPublish 0 0 16 128) rel) = some 0 ∧ (runOp (cbPublish 0 0 16 128) rel).2.stuck = none
    ∧ ok (runOp (cbPinWord 0 0 true 16 1) s) = some 0 ∧ (runOp (cbPinWord 0 0 true 16 1) s).2.stuck = none
    ∧ ok (runOp (cbPinWord 0 0 false 16 128) s) = some 4 := by
  unfold State.calm State.fits; decide +kernel

/-- The copy record at 2^44: 8 bytes of AB from 0 to 128, without a barrier; s1 = 2^44. -/
def sqCx : State :=
  let s := mem0 (on .sq (sregs [(1, 2 ^ 44)]))
  { s with mem := commit s.mem (cellsOf 0x400000 32 (0 + 128 * 2 ^ 64 + 8 * 2 ^ 128 + (1 + 2 ^ 8) * 2 ^ 192)) }

theorem test_hyps_SqCopyWords : sqCx.calm ∧ sqCx.fits .sq false 1 ∧ sqCx.fits .sq false 0 ∧ sqCx.slow = false
    ∧ sqCx.c.r.pend = none
    ∧ ok (runOp (cxCopyIssue 2 1 3 sqCx) sqCx) = some () ∧ (runOp (cxCopyIssue 2 1 3 sqCx) sqCx).2.stuck = none
    ∧ (let s := sqCx.modRegs 0 fun r => { r with pend := some (.copy 2 3 oneCopy) }
       s.calm ∧ s.fits .sq false 1 ∧ s.c.r.pend = some (.copy 2 3 oneCopy) ∧ (vget [] s.c.r.cxQ 3).length < 8) := by
  unfold State.calm State.fits; decide +kernel

/-- AB holds a run record of 1 row and 2 columns at offset 0; s1 = 1.0, s2 = infinity, s3 = 2^32, s4 = 255, s5 = 256, s6 = 2, s7 = 2^31. -/
def sqAsg : State :=
  let s := on .sq (sregs [(1, 0x3F800000), (2, 0x7F800000), (3, 2 ^ 32), (4, 255), (5, 256), (6, 2), (7, 2 ^ 31)])
  settle s (winWrite 0 0 0 32 (1 + 2 * 2 ^ 16 + 64 * 2 ^ 64 + 128 * 2 ^ 96 + 0xFFFFFFFF * 2 ^ 128 + 192 * 2 ^ 160) s)

theorem test_hyps_SqAssignmentWords : let s := sqAsg
    let special (w : BitVec 32) : Prop := w &&& 0x7F800000#32 = 0x7F800000#32
    s.calm ∧ s.fits .sq false 0 ∧ s.c.r.asg.queue = [] ∧ s.c.r.asg.run = none
    ∧ (sGet s 1).toNat < 2 ^ 32 ∧ ¬ special ((sGet s 1).setWidth 32) ∧ ((sGet s 1).setWidth 32).getLsbD 31 = false
    ∧ special ((sGet s 2).setWidth 32) ∧ (sGet s 2).toNat % 2 ^ 31 ≤ 0x7F800000 ∧ 2 ^ 32 ≤ (sGet s 3).toNat
    ∧ (sGet s 4).toNat < 256 ∧ 256 ≤ (sGet s 5).toNat ∧ (sGet s 1).setWidth 32 ≠ 0
    ∧ 0 % 4 = 0 ∧ inWindow s.c 0 0 (4 * 2) = true ∧ 0 < (sGet s 6).toNat ∧ (sGet s 6).toNat ≤ 256
    ∧ inWindow s.c 0 0 32 = true ∧ (winRead 0 0 0 32 s).2 = false ∧ asgRecBad (winRead 0 0 0 32 s).1 = false
    ∧ asgRangeBad s.c (winRead 0 0 0 32 s).1 = false ∧ s.c.r.pend = none
    ∧ (∀ n ∈ [0, 4], let t := s.modRegs 0 fun r => { r with
         pend := some (.asg 2 1 0 1 0), asg := { r.asg with queue := List.replicate n ⟨1, 1, 0, 1, 0, 0, []⟩ } }
       t.calm ∧ t.fits .sq false 0 ∧ t.c.r.pend = some (.asg 2 1 0 1 0) ∧ t.c.r.asg.queue.length = n)
    ∧ (let t := s.modRegs 0 fun r => { r with asg := { r.asg with queue := [⟨1, 1, 0, 1, 0, 0, []⟩] } }
       t.calm ∧ t.fits .sq false 0 ∧ ¬ (t.c.r.asg.queue = [] ∧ t.c.r.asg.run = none) ∧ t.c.r.asg.queue.length < 4)
    ∧ (let t := s.modRegs 0 fun r => { r with asg := { r.asg with queue := List.replicate 4 ⟨1, 1, 0, 1, 0, 0, []⟩ } }
       t.calm ∧ t.fits .sq false 0 ∧ 4 ≤ t.c.r.asg.queue.length)
    ∧ (sGet s 6).toNat % 4 ≠ 0 ∧ (sGet s 6).toNat % 32 ≠ 0 ∧ (sGet s 3).toNat % 32 = 0 ∧ ¬ (sGet s 3).toNat < 2 ^ 22 ∧ (sGet s 0).toNat = 0
    ∧ asgRecBad (winRead 0 0 32 32 s).1 = true
    ∧ asgRecBad ((winRead 0 0 0 32 s).1 + (2 ^ 20 - 64) * 2 ^ 64) = false ∧ asgRangeBad s.c ((winRead 0 0 0 32 s).1 + (2 ^ 20 - 64) * 2 ^ 64) = true
    ∧ (let t := { s with bpoison := [winKey 0 s.c 0 0 / 8] }
       t.calm ∧ t.fits .sq false 0 ∧ (winRead 0 0 0 32 t).2 = true
       ∧ (errorLog (dieOf 0) 0 9 (whoOf (coreOf 0) 0) t.c.linst.toNat 0 t).2.stuck = none) := by
  unfold State.calm State.fits; decide +kernel

/-! ### Witnesses: words of VE -/

/-- VE with a lane type, a1 = 4, a2 = 3, a3 = 11, rows v0 (bytes 0 and 1 hold 7) and v1 (byte 0 holds 2), and the others 0. -/
def ve0 (t : BitVec 4) : State :=
  let s := on .ve { ve := { vshape := t, a := vset (vset (vset (Vector.replicate 16 0) 1 4) 2 3) 3 0xB } }
  settle s (winWrite 0 1 (rowOff 0 0) 256 (7 + 7 * 256) (winWrite 0 1 (rowOff 0 1) 256 2 s))

theorem test_hyps_VeTwoRowWords : (∀ t ∈ ([10, 0] : List (BitVec 4)), (ve0 t).veReady ∧ (ve0 t).rowHas 0 (7 + 7 * 256) ∧ (ve0 t).rowHas 1 2)
    ∧ (ve0 10).veTy.isInt = true ∧ (ve0 0).veTy.isInt = false ∧ (ve0 0).c.halt = none ∧ ((ve0 0).c.stream .ve).cause = 0 := by
  unfold State.veReady State.rowHas State.rowsIn State.calm; decide +kernel

theorem test_hyps_VeLaneWords : ∀ t ∈ ([10, 0] : List (BitVec 4)), (ve0 t).veReady ∧ (ve0 t).rowHas 0 (7 + 7 * 256) ∧ (ve0 t).rowHas 1 2
    ∧ (ve0 t).rowHas 2 0 ∧ (ve0 t).veTy.isInt = decide (t = 10) ∧ (ve0 t).c.halt = none ∧ ((ve0 t).c.stream .ve).cause = 0 := by
  unfold State.veReady State.rowHas State.rowsIn State.calm; decide +kernel

theorem test_hyps_VeSelectReduceAndMoveWords : (ve0 9).veReady ∧ (ve0 9).rowHas 0 (7 + 7 * 256) ∧ (ve0 9).rowHas 1 2 ∧ 10 < 11 := by
  unfold State.veReady State.rowHas State.rowsIn State.calm; decide +kernel

theorem test_hyps_VePredicateAndRegisterWords :
    let s := (ve0 0).modRegs 0 fun r => { r with ve := { r.ve with p := vset r.ve.p 1 4 }, levels := [⟨0, false, [], [], []⟩] }
    s.veReady ∧ s.pred 2 = 0 ∧ 2 < s.veTy.lanes ∧ s.active 1 2 = true ∧ s.active 1 1 = false ∧ s.active 1 0 = false
    ∧ 0 < s.c.r.levels.length ∧ s.c.r.levels.length ≤ 5 ∧ s.c.halt = none ∧ (s.c.stream .ve).cause = 0 := by
  unfold State.veReady State.calm; decide +kernel

/-- VE with a-registers, LC of level 0, semaphore 1 at 1 and 2 at 65,535, and TL2 at 1. -/
def veA (l : List (Nat × Nat)) (lc : Nat) : State :=
  on .ve { ve := { a := l.foldl (fun v x => vset v x.1 (BitVec.ofNat 32 x.2)) (Vector.replicate 16 0) }
           levels := [⟨0, false, [], [], []⟩], lc := vset (Vector.replicate 6 0) 0 (BitVec.ofNat 32 lc)
           sem := vset (vset (Vector.replicate 64 0) 1 1) 2 0xFFFF, tl := vset (Vector.replicate 8 {}) 2 { issued := 2, done := 1 } }

theorem test_hyps_VeControlWords :
    let s := veA [(1, 0xA), (2, 0xB), (3, 31), (4, 32), (5, 95), (6, 96), (7, 1), (8, 2)] 0
    let v (k : Nat) := (s.aReg k).toNat
    let short := s.modCtx 0 fun c => { c with ctxbuf := c.ctxbuf - 1#64 <<< 41 }
    s.veReady ∧ v 1 ≤ 0xA ∧ 0xA < v 2 ∧ v 3 < 32 ∧ v 3 < ctCount s.c.ctxbuf ∧ 32 ≤ v 4 ∧ short.veReady ∧ (short.aReg 3).toNat < 32
    ∧ ctCount short.c.ctxbuf ≤ (short.aReg 3).toNat ∧ v 5 ≤ 95 ∧ 95 < v 6 ∧ crBad 1 (v 1) = false ∧ crBad 1 (v 3) = true
    ∧ 0 < s.c.r.levels.length ∧ s.c.r.levels.length ≤ 5 ∧ s.aReg 0 = 0 ∧ s.aReg 1 ≠ 0 ∧ s.c.r.ve.group = {} ∧ s.c.cutAt .ve 0 = false
    ∧ ¬ ((vget 0 (s.c.stream .ve).iter 0).toNat + 1 < (vget 0 s.c.r.lc 0).toNat + s.c.r.epi 0 1)
    ∧ (let t := veA [] 2
       t.veReady ∧ (vget 0 (t.c.stream .ve).iter 0).toNat + 1 < (vget 0 t.c.r.lc 0).toNat + t.c.r.epi 0 1)
    ∧ vget 0 s.c.r.sem 2 = 0xFFFF#16 ∧ vget 0 s.c.r.sem 1 ≠ 0xFFFF#16 ∧ s.semFree 0 .ve 1 = true ∧ s.semFree 0 .ve 0 = false
    ∧ v 7 ≤ (s.timeline 0 2).done.toNat ∧ (s.timeline 0 2).done.toNat < v 8 ∧ s.c.halt = none ∧ (s.c.stream .ve).cause = 0
    ∧ veBlocked 0 s s.c.r.ve.group.ctl = none := by
  unfold State.veReady State.calm; decide +kernel

theorem test_hyps_VeMemoryWords : let s := ve0 10
    let t := (ve0 0).modRegs 0 fun r => { r with ve := { r.ve with a := vset r.ve.a 4 0x7FFFFF00 } }
    s.veReady ∧ s.rowHas 0 (7 + 7 * 256) ∧ s.rowHas 1 2
    ∧ (s.aReg 1 + 4 * (BitVec.ofNat 14 1).signExtend 32).toNat = 8 ∧ inWindow s.c 0 8 256 = true ∧ winRead 0 0 8 256 s = (0, false)
    ∧ (s.aReg 2 + 4 * (BitVec.ofNat 14 0).signExtend 32).toNat % 4 ≠ 0 ∧ s.c.halt = none ∧ (s.c.stream .ve).cause = 0
    ∧ (List.range s.veTy.lanes).filter (s.active 0) = List.range 256 ∧ (s.aReg 1).toNat % s.veTy.bytes = 0
    ∧ ((List.range 256).all fun i => inWindow s.c 0 (4 + i) 1 && inWindow s.c 0 (4 + (s.lanes 2)[i]?.getD 0) 1
        && decide (winRead 0 0 (4 + (s.lanes 2)[i]?.getD 0) 1 s = (0, false))) = true
    ∧ t.veReady ∧ t.rowHas 0 (7 + 7 * 256) ∧ t.rowHas 1 2 ∧ (t.aReg 2).toNat % t.veTy.bytes ≠ 0 ∧ (t.aReg 4).toNat % t.veTy.bytes = 0
    ∧ (t.aReg 4 + 4 * (BitVec.ofNat 14 0).signExtend 32).toNat % 4 = 0 ∧ inWindow t.c 0 (t.aReg 4).toNat 256 = false
    ∧ 0 ∈ (List.range t.veTy.lanes).filter (t.active 0) ∧ inWindow t.c 0 (t.aReg 4).toNat 4 = false
    ∧ inWindow t.c 0 ((t.aReg 4).toNat + 4 * (t.lanes 2)[0]?.getD 0) 4 = false ∧ t.c.halt = none ∧ (t.c.stream .ve).cause = 0
    ∧ veBlocked 0 t t.c.r.ve.group.ctl = none := by
  unfold State.veReady State.rowHas State.rowsIn State.calm; decide +kernel

/-- Every control of a group, on the state of `veA`: semaphore 1 is free and 2 full, TL2 has reached 1. -/
def controls : List VeCtl :=
  [.none, .semWait 1, .tlWait 2 1, .semSig 1, .semSig 2, .branch 8, .lbr 0 8, .finish, .trap 7, .yield, .crWr 0x10 3, .crWr 0x11 3, .crWr 0x12 3,
    .crWr 1 3, .crWr 2 3, .crWr 3 3, .crWr 4 1, .crWr 5 1, .crWr 6 3]

theorem test_hyps_VeGroupCommits : let g (x : VeGroup) := (veA [] 2).modRegs 0 fun r => { r with ve := { r.ve with group := x } }
    (g {}).buf.wf = true ∧ (g { ctl := .semWait 0 }).semFree 0 .ve 0 = false ∧ ((g { ctl := .tlWait 2 2 }).timeline 0 2).done.toNat < 2
    ∧ (∀ n : Nat, n ∈ [0, 1] → ((g { count := n }).ctx 0).r.ve.group.count = n)
    ∧ (let w := (encode (.veSemWait 1 3)).getD 0
       let s := on .ve { streams := vset (Vector.replicate 5 {}) 1 { code := [BitVec.ofNat 32 w] } }
       (s.ctx 0).r.ve.group.count = 0 ∧ veGroupWords ((s.ctx 0).stream .ve) 4 ((s.ctx 0).stream .ve).at = [w]
       ∧ decodeVe w = .ok (.veSemWait 1 3))
    ∧ (let x : VeGroup := { ctl := .semWait 0, held := some 0, trap := some (0, .veType) }
       ((g x).ctx 0).r.ve.group.held = some 0 ∧ veBlocked 0 (g x) x.ctl = none ∧ vget 0 ((g x).ctx 0).r.sem 0 ≠ 0xFFFF)
    ∧ ((g { trap := some (0, .veType) }).ctx 0).r.ve.group.trap = some (0, .veType) ∧ Cause.veType ≠ .memUe ∧ veBlocked 0 (g {}) .none = none
    ∧ (∀ x ∈ controls, ((g { ctl := x }).ctx 0).r.ve.group.ctl = x ∧ veBlocked 0 (g { ctl := x }) x = none)
    ∧ ((g {}).ctx 0).r.ve.group.trap = none ∧ ((g {}).ctx 0).r.me.drains = [] ∧ ((g {}).ctx 0).cutAt .ve 0 = false ∧ ((g {}).ctx 0).halt = none
    ∧ (((g {}).ctx 0).stream .ve).cause = 0
    ∧ (let x : VeGroup := { flags := 1, inve := true }
       ((g x).ctx 0).r.ve.group.inve = true ∧ ((g x).ctx 0).r.ve.group.flags.getLsbD 0 = true)
    ∧ (let n (lc : Nat) := (vget 0 ((veA [] lc).c.stream .ve).iter 0).toNat + 1
       n 2 < (vget 0 (veA [] 2).c.r.lc 0).toNat + (veA [] 2).c.r.epi 0 1 ∧ ¬ n 0 < (vget 0 (veA [] 0).c.r.lc 0).toNat + (veA [] 0).c.r.epi 0 1) := by
  decide +kernel

theorem test_hyps_VeIntegerLanes : (0#8).toNat = 0 ∧ (255#8).toNat ≠ 0 ∧ 8 = 8 ∧ ¬ 255 + 1 < 2 ^ 8 ∧ ¬ 1 ≤ 0
    ∧ (0x80#8).toInt + (0xFF#8).toInt < -(2 ^ 7) ∧ (2 ^ 7 : Int) ≤ (0x7F#8).toInt + (1#8).toInt := by decide

/-! ### Witnesses: words of ME -/

/-- PCFG names platen 0 and bf16; FIFO 0 holds two rows; SHAPE is a 2 by 2 image of two channels under a 1 by 1 kernel. -/
def me0 : State :=
  let r : Regs := {
    me := { pcfg := 0x10002, shape := Vector.ofFn fun i : Fin 4 => BitVec.ofNat 64 (meShape / 2 ^ (64 * i.val)) }
    ff := vset (Vector.replicate 2 []) 0 [1, 2], sem := vset (vset (Vector.replicate 64 0) 1 1) 2 0xFFFF
    tq := vset (vset (Vector.replicate 2 []) 0 [0]) 1 [BitVec.ofNat 160 0x05000000] }
  let s := on .me r
  settle s (winWrite 0 0 32 32 meShape s)
where
  meShape : Nat := 2 ^ 32 + 2 * 2 ^ 48 + 2 * 2 ^ 64 + 2 * 2 ^ 80 + 2 ^ 96 + 2 ^ 104 + 2 ^ 112 + 2 ^ 120 + 2 ^ 128 + 2 ^ 136


theorem test_hyps_MeDensePasses : ∃ g, me0.meQuiet ∧ runOp (meActive me0 0) me0 = (.ok true, me0) ∧ runOp (meSet me0 {} 2 false) me0 = (.ok g, me0)
    ∧ meGen me0 0 0 = some 0 ∧ inWindow me0.c 1 0 (2 * (4 * g.nout)) = true ∧ bitsAt me0.c.me.pcfg 32 16 % 4 = 0
    ∧ inWindow me0.c 0 0 ((2 - 1) * ((rowBytes g.ta g.kt + 3) / 4 * 4) + rowBytes g.ta g.kt) = true
    ∧ 2 * ((rowBytes g.ta g.kt + 255) / 256) ≤ (vget [] me0.c.r.ff 0).length ∧ g.ta.isMx = false
    ∧ (let x := shapeOf (shapeBits me0.c.me)
       0 < x.kh * x.kw ∧ x.c ≤ g.kt ∧ ((0 + 2 : Nat) : Int) ≤ x.n * x.oh * x.ow ∧ x.c * g.ta.width / 8 % 4 = 0
       ∧ convPixel x g.ta.width 0 0 = some 0 ∧ convPixel x g.ta.width 0 1 = some 4 ∧ inWindow me0.c 0 0 4 = true ∧ inWindow me0.c 0 4 4 = true) := by
  refine ⟨⟨mfmtOf 2, mfmtOf 2, [0], false, 96, 64⟩, ?_, rfl, rfl, ?_⟩
  · unfold State.meQuiet; decide +kernel
  · decide +kernel

/-- The integer pass: MXINT8 on both sides. -/
def meMx : State := me0.modRegs 0 fun r => { r with me := { r.me with pcfg := 0x10004 } }

theorem test_hyps_MeDensePasses_integer : ∃ g, meMx.meQuiet ∧ runOp (meActive meMx 0) meMx = (.ok true, meMx)
    ∧ runOp (meSet meMx {} 4 true) meMx = (.ok g, meMx) ∧ inWindow meMx.c 1 0 (1 * (4 * g.nout)) = true := by
  refine ⟨⟨mfmtOf 4, mfmtOf 4, [0], false, _, 64⟩, ?_, rfl, rfl, ?_⟩
  · unfold State.meQuiet; decide +kernel
  · decide +kernel

/-- Stage 1 of a loop whose first iteration runs. -/
def meIdle : State := me0.modRegs 0 fun r => { r with me := { r.me with mectl := 0 }, levels := [⟨0, false, [], [], []⟩] }

theorem test_hyps_MeGatherPassesAndClears : ∃ g, me0.meQuiet ∧ meIdle.meQuiet ∧ runOp (meActive meIdle 1) meIdle = (.ok false, meIdle)
    ∧ runOp (meActive me0 0) me0 = (.ok true, me0) ∧ meGen me0 0 0 = some 0 ∧ inWindow me0.c 1 0 (256 * 2) = true
    ∧ (let w := gIxw me0.c.me
       inWindow me0.c 0 0 (2 * (4 * ((gJ me0.c.me * w + 31) / 32))) = true ∧ inWindow me0.c 1 0 (4 * 2) = true
       ∧ 0 + gJ me0.c.me * gNcw me0.c.me ≤ me0.c.galleyEntries)
    ∧ runOp (meSet me0 {} 2 false) me0 = (.ok g, me0) ∧ g.ta = .flt .bf16 ∧ g.tb = .flt .bf16 ∧ g.gangK = false
    ∧ gNcw me0.c.me ≤ 64 * g.phys.length ∧ 0 + 2 * gNcw me0.c.me * (g.tb.depth / gDlen me0.c.me) ≤ me0.c.galleyEntries
    ∧ inWindow me0.c 0 0 ((2 - 1) * ((rowBytes g.ta g.kt + 3) / 4 * 4) + rowBytes g.ta g.kt) = true
    ∧ 2 * ((rowBytes g.ta g.kt + 255) / 256) ≤ (vget [] me0.c.r.ff 0).length := by
  refine ⟨⟨mfmtOf 2, mfmtOf 2, [0], false, 96, 64⟩, ?_, ?_, rfl, rfl, ?_, ?_, ?_, rfl, rfl, rfl, rfl, ?_⟩
  · unfold State.meQuiet; decide +kernel
  · unfold State.meQuiet; decide +kernel
  all_goals decide +kernel

theorem test_hyps_MeControlWords : let st := me0.c.stream .me
    me0.meQuiet ∧ 0x37 < 0x38 ∧ inWindow me0.c 0 0 8 = true ∧ winRead 0 0 0 8 me0 = (0, false)
    ∧ meCrBad 0x22 0 = true ∧ meCrBad 0x23 0 = false ∧ meCrBad 0x37 (BitVec.ofNat 64 0xFFFF) = false
    ∧ inWindow me0.c 0 32 32 = true ∧ shapeBad (winRead 0 0 32 32 me0).1 = false
    ∧ vget 0 me0.c.r.sem 0 = 0 ∧ vget 0 me0.c.r.sem 1 ≠ 0 ∧ vget 0 me0.c.r.sem 1 ≠ 0xFFFF#16
    ∧ (vget 0 me0.c.me.tlx 0 + 0).toNat ≤ (me0.timeline 0 0).done.toNat ∧ (me0.timeline 0 0).done.toNat < (vget 0 me0.c.me.tlx 0 + 1).toNat
    ∧ st.unfit false 0 = false ∧ 0 < meIdle.c.r.levels.length ∧ meIdle.c.cutAt .me 0 = false ∧ meIdle.meQuiet
    ∧ (vget 0 meIdle.c.r.lc 0).toNat + meIdle.c.r.epi 0 2 ≤ (vget 0 (meIdle.c.stream .me).iter 0).toNat + 1
    ∧ (let t := meIdle.modRegs 0 fun r => { r with lc := vset r.lc 0 2 }
       t.meQuiet ∧ (vget 0 (t.c.stream .me).iter 0).toNat + 1 < (vget 0 t.c.r.lc 0).toNat + t.c.r.epi 0 2)
    ∧ vget [] me0.c.r.tq 0 = [0] ∧ vget [] me0.c.r.tq 1 = [BitVec.ofNat 160 0x05000000]
    ∧ (let took := me0.modRegs 0 fun r => { r with tq := vset r.tq 1 [], me := { r.me with popped := some (BitVec.ofNat 160 0x05000000) } }
       ok (runOp (tqRun (BitVec.ofNat 160 0x05000000)) took) = some () ∧ (runOp (tqRun (BitVec.ofNat 160 0x05000000)) took).2.stuck = none
       ∧ ((runOp (tqRun (BitVec.ofNat 160 0x05000000)) took).2.ctx 0).r.me.drains = []) := by
  unfold State.meQuiet
  repeat' apply And.intro
  all_goals decide +kernel

/-! ### Witnesses: words of XL and XS -/

/-- c1 = 1, c2 = 2, c3 = 16, c4 = 2^17; semaphore 1 counts 1, 2 counts 65,535; AB holds a barrier of 2 with 1 arrival at 0 and of 2 with 2 at 16. -/
def x0 (u : StreamId) : State :=
  let c : Vector (BitVec 32) 16 := vset (vset (vset (vset (Vector.replicate 16 0) 1 1) 2 2) 3 16) 4 (2 ^ 17)
  let s := on u { xlC := c, xsC := c, sem := vset (vset (Vector.replicate 64 0) 1 1) 2 0xFFFF
                  tl := vset (Vector.replicate 8 {}) 2 { issued := 2, done := 1 } }
  settle s (winWrite 0 0 16 8 (2 + 2 * 2 ^ 32) (winWrite 0 0 0 8 (2 + 2 ^ 32) s))

/-- An issued command. -/
def oneCmd (op : CmdOp) (num : Nat) : Cmd :=
  { num := num, op := op, pc := 0, cls := 0, rmode := 8, flush := 0, nbl := 0, inve := false, h := 0, h1 := 0, h2 := 0, coord := [0, 0, 0, 0, 0]
    space := 0, buf := 0, opt := 0, fo := false, bar := false, rcd := 0 }

theorem test_hyps_TransferControlWords : (∀ u ∈ ([.xl, .xs] : List StreamId), let s := x0 u
      let o (k : Nat) := (cGet s k).toNat
      s.calm ∧ s.xu = u ∧ s.fits u true 0 ∧ s.fits u false 0 ∧ crBad 1 (o 1) = false ∧ crBad 1 (o 3) = true
      ∧ (if u = .xs then s.c.r.xsQ = [] ∧ s.c.r.coll = [] else s.c.r.xlQ = [])
      ∧ vget 0 s.c.r.sem 0 = 0 ∧ vget 0 s.c.r.sem 1 = 1 ∧ vget 0 s.c.r.sem 2 = 0xFFFF#16
      ∧ o 1 ≤ (s.timeline 0 2).done.toNat ∧ (s.timeline 0 2).done.toNat < o 2
      ∧ o 0 % 16 = 0 ∧ inWindow s.c 0 (o 0) 16 = true ∧ winRead 0 0 (o 0) 16 s = (2 + 2 ^ 32, false)
      ∧ o 3 % 16 = 0 ∧ inWindow s.c 0 (o 3) 16 = true ∧ winRead 0 0 (o 3) 16 s = (2 + 2 * 2 ^ 32, false) ∧ o 1 % 16 ≠ 0)
    ∧ (let s := (x0 .xl).modRegs 0 fun r => { r with xlQ := [oneCmd .ld 1] }
       s.calm ∧ s.xu = .xl ∧ s.fits .xl false 0 ∧ s.c.r.xlQ ≠ []) := by
  unfold State.calm State.fits; decide +kernel

/-- A tensor table at 0x100000: 1 is 65,536 bytes; 2, 3 and 4 are 32 by 32 elements of e4m3; 5 is 100 words of 64 bits; 6 and 7 are 32 by 32
indices of the codebooks 16 (one table) and 17 (a family), whose table is at tensor 1. h[k] holds k. AB holds the records below. -/
def xfer (u : StreamId) : State :=
  let desc (tt bind d0 d1 rank : Nat) : Nat := tt + bind * 2 ^ 64 + d0 * 2 ^ 128 + (d1 + 2 ^ 32 + 2 ^ 64 + 2 ^ 96) * 2 ^ 192
    + rank * 2 ^ (8 * 0x2D) + 0xB * 2 ^ (8 * 0x2F) + 2 ^ (8 * 0x30)
  let book (id fam : Nat) : Nat := id + 2 ^ 16 + 2 ^ 32 + fam * 2 ^ 63 + 2 ^ 96 + (1 + 2 ^ 32 + 2 ^ 44 * 2 ^ 64) * 2 ^ 128
  let learned (id : Nat) : Nat := id + 2 ^ 25 + 2 ^ 32
  let rows : Nat := 1 + 2 ^ 16 + 2 ^ 32 + 2 ^ 48 + 2 ^ 64
  let h : Vector (BitVec 32) 16 := Vector.ofFn fun i : Fin 16 => BitVec.ofNat 32 i.val
  let s : State := { on u { xlH := h, xsH := h } with
    parts := [(0, { active := { ttab := 0x100007, cbtab := 2 ^ 44 + 18, ctl := 0x8000000000000001#64 } })]
    mem := commit [] ([(1, desc 0x200000 8 65536 1 1), (2, desc 0x200040 3 32 32 2), (3, desc 0x200080 3 32 32 2), (4, desc 0x2000C0 3 32 32 2),
      (5, desc 0x200100 11 100 1 1), (6, desc 0x200140 (learned 16) 32 32 2), (7, desc 0x200180 (learned 17) 32 32 2)].flatMap
        (fun x => cellsOf (0x100000 + 64 * x.1) 64 x.2) ++ cellsOf 0x400800 128 (book 16 0) ++ cellsOf 0x400880 128 (book 17 1)
      ++ (List.range 8).flatMap (fun i => cellsOf (0x200000 + 64 * i) 16 (7 * 2 ^ 8 + (64 + i) * 2 ^ 80))) }
  settle s (s.bufBytes ([(0, rows + 2 ^ 80), (1, rows), (3, 4 + 2 ^ 16 + 2 ^ 32 + 2 ^ 48 + 2 ^ 64 + 2 ^ 80 + 2 ^ 88 + 0xFFFFFFFF * 2 ^ 192 + 512 * 2 ^ 224),
      (5, 0), (6, rows), (7, 2 ^ 64 + 512 * 2 ^ 128 + 2 ^ 160)].flatMap
        fun x => cellsOf (winKey 0 s.c 0 (32 * x.1)) 32 x.2))

/-- The issue of each command word of XL, and of XS. -/
def xlw (s : State) : List (String × Op Unit) := [
  ("ld", loadIssue .ld 0 2 0 0 false false (fun _ => false) (fun _ => false) [] (some (0, (cGet s 8).toNat)) id (fun _ => []) (fun _ => false) s),
  ("ga", loadIssue .gather 0 2 0 0 false false (fun r => !r.flat)
        (fun d => decide (d.rank < 2)) [1] (some (0, (cGet s 8).toNat)) id (fun r => [(r.aux, 4 * r.ext 1)]) (fun _ => false) s),
  ("fe", loadIssue .feed 0 2 0 0 false false (fun _ => false) (fun _ => false) [] none
        (fun r => { r with rstr := 0 }) (fun _ => []) (fun _ => false) s),
  ("ro", loadIssue .route 0 2 0 0 false false (fun r => decide (r.sb ≠ 0))
        (fun d => decide (d.rank < 2)) [1] none (fun r => { r with rstr := 0 })
        (fun r => [(r.aux, 16 * r.ext 1), (r.aux2, 256)]) (fun r => decide (r.aux2 % 32 ≠ 0)) s),
  ("de", xlPlatenDenseIssue 2 0 8 1 s), ("cw", xlPlatenCwIssue 6 0 8 1 s), ("ca", caseIssue false 7 0 0 s), ("caa", caseIssue true 7 0 0 s),
  ("ex", expandIssue false 6 0 8 0 0 0 0 s), ("exa", expandIssue true 7 0 8 0 0 0 0 s), ("ac", xlAcflushIssue 0 8 0 s),
  ("g8", xlGather8Issue 5 0 8 1 0 0 s), ("im", xlPlatenImageIssue 0 8 8 s)]

def xsw (s : State) : List (String × Op Unit) := [("st", xsStIssue 2 0 8 0 0 s), ("stash", xsStashIssue 2 0 8 0 0 s), ("topk", xsTopkIssue 0 8 3 0 s), ("upd", xsUpdIssue 2 0 8 5 0 s),
  ("sc", xsScatterIssue 2 0 8 0 0 0 s), ("re", xsReidxIssue 2 0 0 1 s), ("ri", xsRinvIssue 2 0 1 s), ("coll", xsCollIssue 1 7 s)]

/-- Whether a part answers without a stop. -/
def fine (o : Op Unit) (s : State) : Bool := decide (ok (runOp o s) = some () ∧ (runOp o s).2.stuck = none)

theorem test_hyps_TransferCommandsIssue : let s := xfer .xl
    let t := xfer .xs
    s.calm ∧ s.who.stream = .xl ∧ s.fits .xl false 0 ∧ s.fits .xl false 1 ∧ (xlw s).all (fun o => fine o.2 s) = true
    ∧ t.calm ∧ t.who.stream = .xs ∧ t.fits .xs false 0 ∧ t.fits .xs false 1 ∧ (xsw t).all (fun o => fine o.2 t) = true
    ∧ (∀ u ∈ ([.xl, .xs] : List StreamId), let x := (xfer u).modRegs 0 fun r => { r with xlQ := (List.range 16).map (oneCmd .ld)
                                                                                         xsQ := (List.range 16).map (oneCmd .st) }
       x.calm ∧ x.who.stream = u ∧ 16 ≤ (x.c.r.xq u).length ∧ x.fits u false 0 ∧ x.fits u false 1) := by
  unfold State.calm State.fits; decide +kernel

/-! ### Witnesses: events of a context -/

/-- After a command has issued. -/
def issued (o : State → Op Unit) (u : StreamId) : State := settle (xfer u) (runOp (o (xfer u)) (xfer u)).2

/-- Whether command 1 of a unit may run and does all its work. -/
def completes (u : StreamId) (s : State) : Bool :=
  match findCmd 0 u 1 s with
  | none => false
  | some q =>
    let x := runOp (if u = .xs then xsBody 0 q else xlBody 0 q) (modCmd 0 u 1 (fun q => { q with wait := none }) s)
    decide (q.op ≠ .case) && cmdMayRun 0 u q s && decide (ok x = some ()) && decide ((cmdComplete 0 u 1 x.2).stuck = none)
      && match findCmd 0 u 1 x.2 with | some q' => !q'.inve | none => false

theorem test_hyps_ResponsesAndWaitsEnd :
    let wait (w : Wait) (r : Regs) : State := mem0 (on .sq { r with streams := vset r.streams 0 { wait := some w } })
    let s := wait .load { pend := some (.load 3 (2 ^ 44) 8 6 0 0 0) }
    let x := runOp (flatKey (s.requester 0 0 0) (2 ^ 44) 8 1) (s.modRegs 0 fun r => { r with pend := none })
    let d : MeDrain := ⟨4, none, [], [(0, 7)], 1, false⟩
    s.calm ∧ 0 < 4 ∧ (s.ctx 0).active = true ∧ ((s.ctx 0).stream .sq).wait = some .load ∧ (s.ctx 0).r.pend = some (.load 3 (2 ^ 44) 8 6 0 0 0)
    ∧ ok x = some 0x400000 ∧ ok (runOp (loadAt 0 (2 ^ 44) 0x400000 8 0 0 0) x.2) = some 0x8877665544332211
    ∧ (runOp (loadAt 0 (2 ^ 44) 0x400000 8 0 0 0) x.2).2.stuck = none
    ∧ (let s := wait .resp { pend := some (.resp true 31 5 (some 7) 0 none) }
       s.calm ∧ (s.ctx 0).active = true ∧ ((s.ctx 0).stream .sq).wait = some .resp ∧ (s.ctx 0).r.pend = some (.resp true 31 5 (some 7) 0 none)
       ∧ respReady 0 s = true)
    ∧ (∀ w ∈ ([.tl 0 0, .cmdRoom, .retire] : List Wait), (wait w {}).calm ∧ ((wait w {}).ctx 0).active = true
       ∧ ((wait w {}).ctx 0).stream (StreamId.ofCode 0) = { wait := some w } ∧ (wait w {}).lock = none ∧ waitMet 0 .sq w (wait w {}) = true
       ∧ (w ≠ .retire → (grantAt 0 .sq (wait w {})).map (·.1) = some 0 ∧ ((wait w {}).ctx 0).cmdHalted .sq = false ∧ slotOpen 0 0 (wait w {}) = true))
    ∧ ∀ l ∈ ([[d], [{ d with inve := true }]] : List (List MeDrain)), let s := on .me { me := { drains := l } }
       s.calm ∧ (s.ctx 0).active = true ∧ (s.ctx 0).r.me.drains = l ∧ ((s.ctx 0).stream .me).cause = 0 := by
  unfold State.calm; decide +kernel

/-- After an assignment command of a kind has issued, with the record of `sqAsg`. -/
def asgAt (kind : Nat) (run : Option AsgRun) : State :=
  sqAsg.modRegs 0 fun r => { r with asg := { r.asg with queue := [⟨1, kind, 0, 1, BitVec.ofNat 256 (winRead 0 0 0 32 sqAsg).1, 0, []⟩], run := run } }

/-- A case fill that has issued to slot 0 (`auto` false) or to a slot of the unit's choice. -/
def fill (auto : Bool) (step : Nat) : State :=
  modCmd 0 .xl 1 (fun q => { q with step := step }) (issued (caseIssue auto 7 0 0) .xl)

/-- A collective of one chunk among four members, of which this is rank 1. -/
def coll0 (state : Nat) : State := on .xs { coll := [{
  num := 1, cls := 0, kind := 0, rop := 0, root := 0, count := 4, stat := 0, h := 1, h1 := 1, desc := 0, desc1 := 0, rmode := 8, flush := 0
  rank := 1, members := [(0, 0, 0), (0, 0, 1), (0, 0, 2), (0, 0, 3)], status := 0, chunks := [{ state := state }] }] }

theorem test_hyps_CommandsComplete :
    (((List.range 13).filter fun i => decide (i ∉ [6, 7, 9])).all fun i =>
        completes .xl (issued (fun s => ((xlw s)[i]?.map (·.2)).getD (pure ())) .xl)) = true
    ∧ ((List.range 7).all fun i => completes .xs (issued (fun s => ((xsw s)[i]?.map (·.2)).getD (pure ())) .xs)) = true
    ∧ (let s := on .sq { cxQ := vset (Vector.replicate 4 []) 3 [oneCopy] }
       s.calm ∧ (s.ctx 0).active = true ∧ ((vget [] (s.ctx 0).r.cxQ 3).take 4).find? (fun x => x.num = 1) = some oneCopy
       ∧ s.rows = none ∧ oneCopy.halted = none ∧ ((vget [] (s.ctx 0).r.cxQ 3).takeWhile fun y => y.num ≠ 1).any (fun y => conflict y.ranges oneCopy.ranges) = false
       ∧ fine (cxMove 0 3 1 (s.requester 0 3 8) (oneCopy.len + 1)) s = true)
    ∧ (∀ k ∈ [0, 1, 2], (asgAt k none).calm ∧ ((asgAt k none).ctx 0).active = true ∧ (asgGrant 0 (asgAt k none)).map (·.1) = some 0)
    ∧ (∀ st ∈ ([none, some 1] : List (Option Nat)), let r : AsgRun := ⟨[[0, 0]], [1, 1], [none], [none, none], [0, 0], 0, 0, st, false⟩
       ((asgAt 0 (some r)).ctx 0).r.asg.run = some r ∧ (asgAt 0 (some r)).calm ∧ ((asgAt 0 (some r)).ctx 0).active = true
       ∧ (st = none → (asgGrant 0 (asgAt 0 (some r))).map (·.1) = some 0))
    ∧ winRead 0 0 0 4 (asgAt 1 none) = (0x20001, false) ∧ f32Special 0x20001#32 = false
    ∧ (∀ auto ∈ [false, true], (fill auto 0).calm ∧ ((fill auto 0).ctx 0).active = true
       ∧ (fillCmd 0 1 (fill auto 0)).map (fun q => (q.step, q.opt, q.coord[0]?.getD 0)) = some (0, if auto then 1 else 0, 0))
    ∧ chooseSlot 0 17 0 1 none (fill true 0) = some (0, false) ∧ (fillCmd 0 1 (fill true 2)).map (·.step) = some 2
    ∧ chooseSlot 0 17 0 1 none (fill true 2) = some (0, false)
    ∧ (let s := fill false 1
       (fillCmd 0 1 s).map (fun q => (q.step, (q.bnd 0 0).pin.cwptr, (q.bnd 0 0).head.stride, (q.bnd 0 0).head.bytes)) = some (1, 2 ^ 44, 128, 8)
       ∧ (fillOf 0 1 s).map (·.data) = some none ∧ (ok (runOp (cwRead (xReq 0 .xl s) 0 ⟨17, 1, 2 ^ 44, false, 0x400880⟩ (128 * 0) 128) s)) = some 0)
    ∧ (let s := modCmd 0 .xl 1 (fun q => { q with data := some 5 }) (fill false 1)
       (fillCmd 0 1 s).map (fun q => (q.step, q.data, q.slot)) = some (1, some 5, 0)
       ∧ (cmdComplete 0 .xl 1 (caseTouch 0 0 (modCase 0 0 (fun x => { x with state := 2, bad := [], landed := s.cycle.toNat })
          ((zeroBuf (caseKey 0 0) 2048 s).bufWrite (caseKey 0 0) 128 5)))).stuck = none)
    ∧ (let s := modCase 0 1 (fun x => { x with state := 2, cbid := 17, version := 1, auto := true }) (fill true 0)
       (fillCmd 0 1 s).map (fun q => (q.step, q.opt)) = some (0, 1) ∧ chooseSlot 0 17 0 1 none s = some (1, true)
       ∧ (cmdComplete 0 .xl 1 s).stuck = none)
    ∧ (let s : State := { on .sq with cores := [(0, { cases := vset (Vector.replicate 16 {}) 15 { state := 2, auto := true } })] }
       s.calm ∧ (s.ctx 0).active = true ∧ (vget {} (s.core 0).cases 15).state = 2#2 ∧ (vget {} (s.core 0).cases 15).auto = true ∧ (s.die 0).elBase = 0)
    ∧ (coll0 0).calm ∧ ((coll0 0).ctx 0).active = true
    ∧ (findColl 0 1 (coll0 0)).map (fun q => (q.status, q.chunks.map (·.halted), q.reducer 0, q.rank, q.resultBytes 0)) = some (0, [none], 0, 1, 4)
    ∧ (findColl 0 1 (coll0 1)).map (fun q => (q.done, ((coll0 1).ctx 0).r.collHeld q)) = some (true, false) := by
  unfold State.calm
  repeat' apply And.intro
  all_goals decide +kernel

/-! ### Witnesses: slots, faults and launches -/

/-- Slot 0 of core 0 with a context as `f` makes it. -/
def slot0 (f : Ctx → Ctx) : State := (on .sq).modCtx 0 f

/-- A FREE slot 0 whose pending entry 7 is a record with an image at 2^44: one variant, no code, no loop; `ctxb` its buffers. -/
def bindable (ctxb : Nat) : State :=
  let s := mem0 (slot0 fun c => { c with st := .free })
  { s with mem := commit s.mem (cellsOf 0x400000 12 (0x494B5A56 + 2 ^ 32 + 2 ^ 64) ++ cellsOf 0x40000C 16 0)
           dies := [(0, { active := [(0, { cores := 0xFFFFFFFFFFFF })] })]
           cores := [(0, { pending := vset (Vector.replicate 8 {}) 7 { valid := true, bits := BitVec.ofNat 512 (2 ^ 44 * 2 ^ 384 + ctxb * 2 ^ 192) } })] }

/-- The slot once the bind has begun. -/
def binding (ctxb : Nat) : State :=
  let s := bindable ctxb
  let r := bindRec (vget {} (s.core 0).pending 7).bits.toNat
  (modPending 0 7 (fun x => { x with valid := false }) s).setCtx 0 { s.ctx 0 with
    bind := r, st := .binding, entry := 7, bseq := 1, linst := r.linst, sqHalt := none, halt := none, preempt := false
    binding := some { bind := {}, ctxbuf := (s.ctx 0).ctxbuf, linst := 0 }
    ctxbuf := BitVec.ofNat 64 (r.ctxb.toNat / 2 ^ 13 * 2 ^ 13) }

/-- A context inside a drainable level at iteration 1 of 5; its other streams have retired. -/
def looping (halt : Option Halt) (cut : Option Cut) (drained : Bool) : State := slot0 fun c => { c with
  st := .halting, preempt := halt.isNone, halt := halt
  r := { c.r with
    levels := [⟨0, true, [7, 0, 0, 0, 0], [0, 0, 0, 0, 0], []⟩], lc := vset c.r.lc 0 5, cut := cut
    streams := vset (Vector.replicate 5 { retired := true }) 0 { code := [0x84000000#32], iter := vset (Vector.replicate 6 0) 0 1
                                                                 inside := vset (Vector.replicate 6 false) 0 true
                                                                 head := vset (Vector.replicate 6 4294967296) 0 0
                                                                 drained := drained } } }


/-- How the bind of slot 0 ends: 0, or the status that it posts. -/
def bindEnds (s : State) : Option Nat := match (bindSteps 0).run.run s with
  | (.ok _, t) => if t.stuck = none then some 0 else none
  | (.error (.fail f), t) => if t.stuck = none then some f else none
  | _ => none

theorem test_hyps_SlotEvents :
    (on .sq).calm ∧ fieldOf (vget {} ((on .sq).core 0).pending 7).bits.toNat 0 4 = 0x70 / 2 ^ 32 % 2 ^ 32
    ∧ fieldOf (vget {} ((on .sq).core 0).pending 0).bits.toNat 0 4 ≠ 2 ^ 32 / 2 ^ 32 % 2 ^ 32
    ∧ (∀ x ∈ [0, 1], let s : State := { on .sq with cores := [(0, { pending := vset (Vector.replicate 8 {}) 7 { cancelled := x } })] }
       s.calm ∧ decide ((vget {} (s.core 0).pending 7).cancelled = s.cycle.toNat + 1) = decide (x = 1))
    ∧ (∀ st ∈ ([.run, .gated, .retiring] : List SlotState), ((slot0 fun c => { c with st := st }).ctx 0).st = st ∧ ((on .sq).ctx 0).linst.toNat = 0)
    ∧ (let s : State := { slot0 (fun c => { c with bind := { slice := 9 } }) with cycle := 9 }
       s.calm ∧ s.c.st = .run ∧ s.c.bind.slice ≠ 0 ∧ s.c.bind.slice ≤ (s.cycle - s.c.sliceStart).toNat ∧ nextEntry 0 0 s = none
       ∧ nextEntry 0 0 { s with cores := (bindable 0).cores } = some 7)
    ∧ (let s := looping none none false
       s.calm ∧ s.c.preempt = true ∧ s.c.st = .halting ∧ s.c.halt = none ∧ s.c.r.me.drains.any (·.inve) = false ∧ s.c.unitHalted = false ∧ s.c.r.cut = none
       ∧ (s.core 0).draining = none ∧ s.c.r.cutLevel = some 0 ∧ (∀ k < 4, k ≠ 0 → (s.ctx k).st = .free)
       ∧ s.c.r.cutCost 0 (s.c.r.cutIter 0) ≤ s.c.r.budget.toNat ∧ s.c.r.budget ≠ 0 ∧ (s.modRegs 0 fun r => { r with budget := 0 }).c.r.budget = 0)
    ∧ (let s := (looping none none false).modRegs 0 fun r => { r with budget := 0, pend := some (.fault .atomicHost 8 4) }
       s.calm ∧ s.c.preempt = true ∧ s.c.halt = none ∧ s.c.r.pend = some (.fault .atomicHost 8 4) ∧ s.c.r.budget = 0)
    ∧ (∀ c ∈ [looping none none false, looping (some { kind := 1 }) (some ⟨0, 2, 5, 0⟩) true], c.c.r.pend = none)
    ∧ (let s := looping none (some ⟨0, 2, 5, 0⟩) false
       s.calm ∧ s.c.preempt = true ∧ s.c.halt = none ∧ s.c.r.cut ≠ none)
    ∧ (looping (some { kind := 1 }) (some ⟨0, 2, 5, 0⟩) true).calm ∧ (looping (some { kind := 1 }) (some ⟨0, 2, 5, 0⟩) true).c.drainOver = true
    ∧ drainLate 0 (looping (some { kind := 1 }) (some ⟨0, 2, 5, 0⟩) false) = true
    ∧ (let s := looping (some { kind := 0 }) none false
       s.calm ∧ s.c.stopped = true ∧ postsNow 0 s = true ∧ (haltDone 0 s).stuck = none)
    ∧ (let s := slot0 fun c => { c with r := { c.r with streams := Vector.replicate 5 { retired := true } } }
       let t := s.modCtx 0 fun c => { c with st := .retiring }
       s.calm ∧ s.c.retired = true ∧ t.calm ∧ retireReady 0 t = true ∧ lrAddr t 0 0 + 256 ≤ dramEnd ∧ (t.mcSet 0 0).base = 0)
    ∧ (let s := bindable 0
       s.calm ∧ s.c.st = .free ∧ nextEntry 0 0 s = some 7 ∧ bindAllowed 0 s = true)
    ∧ bindEnds (binding 0) = some 0 ∧ bindEnds (binding (2 ^ 58 - 2 ^ 52)) = some 1 ∧ ((binding 0).mcSet 0 0).base = 0 := by
  unfold State.calm
  repeat' apply And.intro
  all_goals decide +kernel

/-- SQ of slot 0 is halted on tile 3 of tensor 2; VF 1 serves partition 0, with a page-fault queue of 2^n records at 7 MiB. -/
def faulted (why n : Nat) (posted : Bool) (since : Nat) (st : SlotState) : State :=
  { slot0 (fun c => { c with st := st, sqHalt := some ⟨2, 1, 3, why, posted, 0, since⟩ }) with
    parts := [(0, { active := { pfq := BitVec.ofNat 64 (0x700000 + n), ctl := 0x8000000000000001#64 } })]
    vfs := [(1, { resident := true, pri := [0] })] }

theorem test_hyps_FaultRecordsAndAnswers :
    (∀ x ∈ ([(0, false), (1, true)] : List (Nat × Bool)), ∀ why ∈ [0, 3], ∀ masked ∈ [true, false],
      let s := (faulted why 5 false x.1 .run).modVf 1 fun v => { v with msix := vset v.msix 1 { masked := masked } }
      s.Wf = true ∧ s.c.st ≠ .binding
      ∧ (s.c.halts 0).find? (fun h => h.toPost && (decide (h.since ≠ 0) == x.2)) = some ⟨2, 1, 3, why, false, 0, x.1⟩
      ∧ pfqRoom 0 s = true ∧ 0x700000 + 32 ≤ dramEnd ∧ s.channelOff 0x700000 = false ∧ s.frameState 0x70 < 2 ^ 62 ∧ s.vfOf 0 = 1
      ∧ (s.vf 1).resident = true ∧ (vget {} (s.vf 1).msix 1).masked = masked ∧ (s.vf 1).pri.length < 512)
    ∧ postRoom 0 ⟨2, 1, 3, 0, false, 0, 0⟩ (faulted 0 0 false 0 .run) = false
    ∧ (let s := faulted 0 5 true 0 .run
       s.c.bound = true ∧ s.c.bseq.toNat = 0 / 2048 % 2 ^ 21 ∧ s.c.bind.part = 0 ∧ s.c.unitHalted = true ∧ s.c.st ≠ .halting
       ∧ (s.vf (s.vfOf 0)).pri.contains 0 = true ∧ s.c.halt = none ∧ s.c.r.me.drains = [] ∧ s.c.firstHalt = some (some .sq, ⟨2, 1, 3, 0, true, 0, 0⟩))
    ∧ (on .sq).c.unitHalted = false ∧ (on .sq).c.halts 10 = [] := by
  repeat' apply And.intro
  all_goals decide +kernel

/-- Port 35 is UP, and the route to package 5 or 7 names it. -/
def routed (s : State) : State :=
  { s with pkg := { s.pkg with route := vset (vset s.pkg.route 5 0x800000000) 7 0x800000000, ports := vset s.pkg.ports 35 { up := true } } }

/-- The tile table names package 5 for tile 0 of tensor 1; the peer answers SQ's next access there with a redirect to package `p`. -/
def peered (p : Nat) : State :=
  let s := mem0 (on .sq)
  routed { s with mem := commit s.mem (cellsOf 0x200000 16 (7 * 2 ^ 8 + 2 ^ 11 + 5 * 2 ^ 64 + 64 * 2 ^ 80)), redirects := [⟨0, 0, 5, 64, p, 65, false⟩]
                  pkg := { dmemb := vset (Vector.replicate 4 0) 0 0xA1 } }

theorem test_hyps_InvalidationsAndRedirects :
    (∀ p ∈ [0, 7], let s := peered p
      let d := descOf 1 (s.word (0x100000 + 64 * 1) 64)
      let e := s.word (d.ttbase + 16 * 0) 16
      s.Wf = true ∧ s.redirects = [⟨0, 0, 5, 64, p, 65, false⟩] ∧ s.mapBase = none ∧ d.ttbase + 16 * 0 + 16 ≤ dramEnd ∧ s.channelOff (d.ttbase + 16 * 0) = false
      ∧ teState e = 0 ∧ teLoc e = 1 ∧ tePkg e = 5 ∧ teFrame e = 0x400000 / 65536 ∧ s.pkg.num.toNat = 0 ∧ s.upPorts 7 ≠ []
      ∧ (s.requester 0 0 0).ck = 0 ∧ (s.requester 0 0 0).unit = 0 ∧ (s.requester 0 0 0).secure = false)
    ∧ (let s := peered 0
       s.invAt 0 0 = none ∧ s.vfOf 0 = 1 ∧ s.vfOf 0 < 65 ∧ s.partOfVf 1 = some 0 ∧ s.invAt 8 63 = none
       ∧ (modInv 0 0 id (some (1, 1, 0, 0)) s).invAt 0 0 = some (1, 1, 0, 0)) := by decide +kernel

/-- The launch pool of `sqLr`, served by VF 1: record 4 adds to a counter in tensor 2, a host tile without a translation. Die 0 has a
queue at 2^44 with a held entry, of the doorbell when `who` says so. -/
def posting (source : Bool) (who : Option Nat) : State :=
  let s := mem0 sqLr
  let d : Nat := 0x200040 + 8 * 2 ^ 64 + 65536 * 2 ^ 128 + (1 + 2 ^ 32 + 2 ^ 64 + 2 ^ 96) * 2 ^ 192 + 1 * 2 ^ (8 * 0x2D) + 0xB * 2 ^ (8 * 0x2F)
    + 1 * 2 ^ (8 * 0x30)
  { s with
    mem := commit s.mem (sqLr.mem ++ cellsOf 0x100080 64 d ++ cellsOf 0x200040 16 (7 * 2 ^ 8 + 2 * 2 ^ 11 + 64 * 2 ^ 80)
      ++ cellsOf 0x300400 256 (1 * 2 ^ (8 * 0x20) + 2 ^ 17 * 2 ^ (8 * 0x20) + 2 ^ 45 * 2 ^ (8 * 0x10)))
    parts := [(0, { active := { ttab := 0x100002, lrpool := 0x300000, ctl := 0x8000000000000001#64 }
                    ma := { source := source, phase := if source then .freezing else .idle } })]
    vfs := [(1, { armBusy := who.isSome })]
    dies := [(0, { active := [(0, { ways := 3 })], mc := [(0, { base := 2 ^ 44, head := 4094, tail := 1, held := [(5, who)] })] })] }

theorem test_hyps_LaunchEvents : let s := posting false none
    let m := s.mcSet 0 0
    let full := s.modMc 0 0 fun m => { m with tail := 4095 }
    s.Wf = true ∧ s.partOfVf 1 = some 0 ∧ 2 ^ 31 / 2 ^ 12 % 2 ^ 20 ≠ 0 ∧ (1 + 16 * 2 ^ 32) / 2 ^ 12 % 2 ^ 20 = 0 ∧ s.frozen 0 = false
    ∧ (s.vf 1).armBusy = false ∧ ((posting false (some 1)).vf 1).armBusy = true
    ∧ (posting true none).frozen 0 = true ∧ (posting true none).Wf = true ∧ ((posting true none).vf 1).armBusy = false
    ∧ (armRecord 0 false 0 1 16 (some 1) s).1 = 0 ∧ (armRecord 0 false 0 1 16 (some 1) s).2.stuck = none
    ∧ (∀ who ∈ [none, some 1], let s := posting false who
       let m := s.mcSet 0 0
       m.held = [(5, who)] ∧ armqFree 0 0 s = true ∧ s.mapBase = none ∧ (armqKey 0 0 s).1 = some (0x400000 + 16 * 4094)
       ∧ homeKind (0x400000 + 16 * 4094) = 0 ∧ 0x400000 + 16 * 4094 + 16 ≤ dramEnd ∧ s.channelOff (0x400000 + 16 * 4094) = false
       ∧ s.mcBlocked 0 (0x400000 + 16 * 4094) = false ∧ (s.vf 1).armWait = [])
    ∧ m.base ≠ 0 ∧ (full.mcSet 0 0).base ≠ 0 ∧ armqRoom 0 0 full = false ∧ full.Wf = true ∧ (full.mcSet 0 0).held ≠ []
    ∧ armqFree 0 0 full = false ∧ (armqPull 0 0 full).stuck = none
    ∧ lrAddr s 0 4095 + 256 ≤ dramEnd ∧ s.mcBlocked 0 (lrAddr s 0 1) = false ∧ (postArmq 0 0 5 none s).stuck = none
    ∧ lrLinst (s.word (lrAddr s 0 1) 256) ≠ 1 ∧ lrLinst (s.word (lrAddr s 0 1) 256) = 0
    ∧ fieldOf (s.word (lrAddr s 0 1) 256) 0x10 8 = 0 ∧ fieldOf (s.word (lrAddr s 0 1) 256) 0x18 8 < 2 ^ 63
    ∧ lrIntr (s.word (lrAddr s 0 1) 256) = false ∧ s.channelOff (lrAddr s 0 1) = false
    ∧ (let r := s.word (lrAddr s 0 4) 256
       let x := doneAdd 0 0 (lrSecure r) (fieldOf r 0x10 8) (lrDscope r) (physWrite (lrAddr s 0 4 + 0x88) 1 (fieldOf r 0x88 1 % 16 + 0 * 16) s)
       lrLinst r = 0 ∧ s.channelOff (lrAddr s 0 4) = false ∧ fieldOf r 0x10 8 ≠ 0
       ∧ (match x.1 with | .error w => some w | .ok _ => none) = some 2 ∧ x.2.stuck = none) := by
  decide +kernel

/-! ### Witnesses: the layout, the device and the fleet -/

/-- The package with its layout controller in a state. -/
def laid (l : LayoutState) : State := { on .sq with pkg := { lstate := l, affect := 1 } }

theorem test_hyps_LayoutEvents : (on .sq).calm ∧ 7 < 8 ∧ 63 < 64 ∧ 5 < 6 ∧ layoutStatus (on .sq) false = 0
    ∧ layoutStatus (laid .staged) false = 6 ∧ (laid .staged).calm ∧ (laid .staged).pkg.lstate = .staged
    ∧ ((laid .staged).ctxs.map (·.1)).Nodup ∧ (on .sq).pkg.lstate = .idle ∧ (laid .tick).pkg.lstate = .tick
    ∧ (on .sq).pkg.world.mcw.getLsbD 7 = true ∧ ((on .sq).part 63).shadow.isSecure ≠ decide (bitsOf (2 ^ 62) 62 1 = 1)
    ∧ (let s : State := { laid .quiesce with
         ctxs := [], dies := [(7, { active := [(0, { ways := 3 })], shadow := [(0, { ways := 1 })] })] }
       s.calm ∧ s.quiet = true ∧ s.loseWaits = false ∧ s.pkg.affect.getLsbD 0 = true ∧ (s.dieActive 7 0).ways &&& ~~~((s.dieShadow 7 0).ways) ≠ 0) := by
  unfold State.calm
  repeat' apply And.intro
  all_goals decide +kernel

/-- VF 64 serves partition 0; its attestation waits at host page 16, whose three pages are translated. -/
def attesting (fuses : Nat) : State :=
  { on .sq with
    parts := [(0, { active := { ctl := 0x8000000000000040#64 } })]
    vfs := [(64, { resident := true, attReq := some 0x10000 })]
    ats := [⟨0, 16, 0x1000, 3⟩, ⟨0, 17, 0x2000, 3⟩, ⟨0, 18, 0x3000, 3⟩]
    pkg := { fuses := fuses, attQueue := [64] } }

/-- The host has written a firmware image of 16 bytes, version 0, to the boot window. -/
def booting : State :=
  let s : State := { on .sq with pkg := { svnFloor := 0 } }
  settle s (s.bufWrite bootWindow 12 (0x4D57465A + 16 * 2 ^ 64))

theorem test_hyps_DeviceEvents : let s := attesting 1023
    s.Wf = true ∧ 4 % 8 ≠ 0 ∧ s.partOfVf 64 = some 0 ∧ 1 ≤ 64 ∧ 64 ≤ 64 ∧ (s.vf 64).attReq = some 0x10000
    ∧ ({ s with vfs := [] } : State).partOfVf 64 = some 0 ∧ (({ s with vfs := [] } : State).vf 64).attReq = none
    ∧ s.pkg.sigIndex < 1024 ∧ s.pkg.attQueue.head? = some 64 ∧ (s.vf 64).resident = true ∧ 1024 ≤ (attesting 1024).pkg.fuses ∧ s.pkg.fuses < 1024
    ∧ (∀ j < 3, ((s.ats.find? fun y => decide (y.part = 0 ∧ y.page = 0x10000 / 4096 + j)).map fun x => (x.perms, x.hpa % 4096)) = some (3, 0))
    ∧ s.ats.map (·.hpa) = [0x1000, 0x2000, 0x3000] ∧ booting.Wf = true ∧ booting.pkg.boot ≠ 1
    ∧ bootImage (on .sq) = (2, 0, []) ∧ (on .sq).pkg.boot ≠ 1 ∧ ((on .sq).bufRead bootWindow 4).1 ≠ 0x4D57465A := by
  repeat' apply And.intro
  all_goals decide +kernel

/-- An image whose signature the ROM accepts starts: whether it does rests on the root key, which the spec does not give (log 4). -/
theorem test_hyps_DeviceEvents_boot : ∃ image sig, imageSigned image sig = true → bootImage booting = (1, 0, image) := by
  refine ⟨bytesOf 16 (booting.bufRead bootWindow 16).1, bytesOf 9732 (booting.bufRead (bootWindow + 16) 9732).1, fun h => ?_⟩
  have h1 : (booting.bufRead (bootWindow + 8) 4).1 = 16 := by decide +kernel
  have h2 : (booting.bufRead (bootWindow + 0) 4).1 = 0x4D57465A := by decide +kernel
  have h3 : (booting.bufRead (bootWindow + 4) 4).1 = 0 := by decide +kernel
  have h4 : booting.pkg.svnFloor = 0 := by decide +kernel
  simp only [bootImage, h1, h2, h3, h4]
  simp [h, bootWindowSize]

/-- Port 35 is UP, with 65,535 retrainings counted. -/
def ported (up training : Bool) : State :=
  { on .sq with pkg := { ports := vset (Vector.replicate 36 {}) 35 { up := up, retraining := training, retrains := 0xFFFF } } }

/-- Partition 0 holds way 0 of die 7; no launch is armed. -/
def tagged : State :=
  { on .sq with parts := [(0, { active := { ctl := 0x8000000000000000#64 } })], dies := [(7, { active := [(0, { ways := 1 })] })] }

theorem test_hyps_FleetEvents : (ported true false).Wf = true ∧ (vget {} (ported true false).pkg.ports 35).en = true
    ∧ (vget {} (ported true false).pkg.ports 35).up = true ∧ (vget {} (ported false true).pkg.ports 35).retraining = true ∧ 4 < 5 ∧ 31 < 32
    ∧ (ported true false).pkg.held = [] ∧ (vget {} (ported true false).pkg.ports 35).retraining = false
    ∧ (mem0 (on .sq)).anyValid = true ∧ (on .sq).anyValid = false
    ∧ dramEnd - 1 < dramEnd ∧ (on .sq).channelOff (dramEnd - 1) = false ∧ ((on .sq).die (channelOf (dramEnd - 1) / 48)).elBase = 0
    ∧ ((on .sq).die 7).elBase = 0 ∧ (∀ q < 64, ((on .sq).dieActive 7 q).ways.getLsbD 0 = false)
    ∧ tagged.Wf = true ∧ (tagged.dieActive 7 0).ways.getLsbD 0 = true ∧ (tagged.part 0).active.isValid = true
    ∧ (tagged.ctx 0).bind.part = 0 ∧ (tagged.ctx 0).st ≠ .free := by
  repeat' apply And.intro
  all_goals decide +kernel

set_option maxRecDepth 20000 in
/-- The tag error of a partition's way ends in a next state. -/
theorem test_hyps_FleetEvents_tag : goesOn (exec (.l2TagParity 7 0 0) tagged) = true := by decide +kernel

/-! ### Witnesses: migration and accesses from outside -/

/-- Partition 0 (served by VF 1) in a phase of its migration with package 5: its frame map is at 128 MiB, its one free frame is 100,
and the entry of tile 0 of tensor 1, at 0x200000, is in state `st` of frame 64, whose map entry is `mst`. -/
def moving (phase : Phase) (source : Bool) (st mst left : Nat) : State :=
  let s := mem0 (slot0 fun c => { c with st := if phase = .freezing then .free else .run })
  routed { s with
    mem := commit s.mem (cellsOf 0x200000 16 (7 * 2 ^ 8 + st * 2 ^ 13 + (if st = 4 then 5 else 0) * 2 ^ 64 + 64 * 2 ^ 80)
      ++ cellsOf 0x300000 8 (100 * 65536) ++ cellsOf (0x8000000 + 8 * 64) 8 (if mst = 3 then mapEntry 3 5 64 else mst * 2 ^ 61))
    parts := (s.parts.map fun p => (p.1, { p.2 with ma := {
      phase := phase, source := source, ppkg := 5, mbase := 0x8000000, fbase := 0x300000, fcount := 1, rbase := 0x10000000, rsize := 100
      left := left, inFlight := if st = 3 then [(1, 0, false)] else [], contexts := [(0, 0)], pulls := source } }))
      ++ (List.range 63).map fun i => (i + 1, { ma := { mbase := 0x8000000 } })
    pkg := { dmemb := vset (Vector.replicate 4 0) 0 0x21 } }

theorem on_channels {s : State} (h : ∀ d, (s.die d).chok = 0xFFFFFFFFFFFF#48) (a : Nat) : s.channelOff a = false := by
  have hb : ∀ k, k < 48 → (0xFFFFFFFFFFFF#48).getLsbD k = true := by decide
  simp [State.channelOff, h, hb (channelOf a % 48) (Nat.mod_lt _ (by decide))]

theorem moving_channels (phase : Phase) (source : Bool) (st mst left a : Nat) : (moving phase source st mst left).channelOff a = false := by
  refine on_channels (fun d => ?_) a
  show (getAt {} d [(0, ({ active := [(0, { ways := 3 })] } : Die))]).chok = _
  simp only [getAt]
  split <;> rfl

theorem readRange_above (m : Memory) (a n : Nat) (h : ∀ c ∈ m, c.1 < a) : readRange m [] a n = 0 := by
  simp only [readRange, List.foldr_nil]
  generalize 0 = v
  induction m generalizing v with
  | nil => rfl
  | cons c l ih =>
    have hc : ¬ a ≤ c.1 := by have := h c (by simp); omega
    simpa [hc] using ih (fun d hd => h d (List.mem_cons_of_mem _ hd)) v

/-- The map's own frames are those from 2,048 to 3,199, and none of them moves. -/
theorem test_mapIn (phase : Phase) (source : Bool) (st mst left : Nat)
    (hb : (moving phase source st mst left).mapBase = none ∨ (moving phase source st mst left).mapBase = some 0x8000000)
    (hm : ∀ c ∈ (moving phase source st mst left).mem, c.1 < 0x8004000) : (moving phase source st mst left).mapIn 0 := by
  have ha : (moving phase source st mst left).mapAt 0 = 0x8000000 := by
    simp only [State.mapAt, show ((moving phase source st mst left).part 0).ma.mbase = 0x8000000#64 from rfl]; decide
  refine ⟨by rw [ha]; decide, by rw [ha]; exact hb, fun f h => ⟨moving_channels .., ?_⟩⟩
  have hw : (moving phase source st mst left).wbuf = [] := rfl
  rcases hb with hb | hb
  · simp [State.frameState, hb]
  · simp only [State.frameState, hb, State.mapPlace, ha, State.homeRead, hw]
    rw [readRange_above _ _ _ fun c hc => by have := hm c hc; omega]
    decide

/-- A virtual device without contexts, of one tensor of one tile. -/
def vd0 (status : Nat) (secure : Bool) : VdState :=
  { secure := secure, peer := 5, contexts := [], descs := [0], tiles := [[0]], cbCount := 1, cbtab := [], lrpool := [], pfqK := 5, pfq := []
    pfqHead := 0, pfqTail := 0, ilogK := 5, ilog := [], ilogHead := 0, ilogTail := 0, fw := [], status := status }

theorem test_hyps_MigrationCommands :
    (let s := moving .idle true 0 0 0
     s.Wf = true ∧ s.mapBase = none ∧ (∀ c ∈ s.mem, c.1 < 0x8004000) ∧ s.maCount < 4 ∧ mapDiffers 0 s = false ∧ freeFrames 0 s = [100]
     ∧ 100 < 9437184 ∧ 100 * 65536 + 65536 ≤ 0x8000000 ∧ s.mapAt 0 = 0x8000000 ∧ (s.part 0).active.isValid = true ∧ s.isMember 5 = true
     ∧ ((s.tilesOf 0).any fun t => decide (2 ≤ teState t.2.2)) = false ∧ s.upPorts ((s.part 0).ma.ppkg.toNat) ≠ [])
    ∧ (∀ p ∈ ([.released, .done, .serving, .drained, .held, .listen, .receiving, .staged, .sending] : List Phase), ∀ src ∈ [true, false],
      let s := moving p src 0 0 0
      s.Wf = true ∧ (s.part 0).undoing = none ∧ (s.part 0).ma.phase = p ∧ (s.part 0).ma.source = src ∧ s.mapBase = some 0x8000000 ∧ (∀ c ∈ s.mem, c.1 < 0x8004000)
      ∧ s.pkg.held = [] ∧ (∀ e ∈ s.tilesOf 0, teFrame e.2.2 < 9437184))
    ∧ (let s := moving .drained true 4 3 0
       s.Wf = true ∧ s.mapBase = some 0x8000000 ∧ (∀ c ∈ s.mem, c.1 < 0x8004000) ∧ (1, 0, s.word 0x200000 16) ∈ s.tilesOf 0
       ∧ teState (s.word 0x200000 16) = 4 ∧ s.word (s.mapPlace 0 64) 8 = mapEntry 3 (tePkg (s.word 0x200000 16)) (teFrame (s.word 0x200000 16)))
    ∧ (0 : Nat) ∈ [10, 0, 9] ∧ ([(3, {})] : List (Nat × Regs)).find? (fun x => decide (x.1 = 3)) = some (3, {})
    ∧ (let s := moving .freezing true 0 1 1
       s.Wf = true ∧ s.mapBase = some 0x8000000 ∧ (∀ c ∈ s.mem, c.1 < 0x8004000) ∧ frozenStill 0 s = true ∧ clePending 0 s = false
       ∧ (s.part 0).ma.slots = [0] ∧ (s.ctx 0).bind.frame + 0x450000 ≤ s.mapAt 0 ∧ s.saves = [] ∧ (s.die 0).l2 = []
       ∧ (∀ e ∈ s.tilesOf 0, teFrame e.2.2 < 9437184))
    ∧ (∀ st ∈ ([.idle, .staged] : List LayoutState), let u : MaUndo := ⟨{ ctl := 1 }, 1, 2, 3, 4, 5⟩
       let s := moving .staged false 0 0 0
       let s := { s with pkg := { s.pkg with lstate := st } }.modPart 0 fun p => { p with ma := { p.ma with undo := some u }, undoing := some u }
       s.Wf = true ∧ (s.part 0).ma.phase = .staged ∧ (s.part 0).ma.undo = some u ∧ (s.part 0).undoing = some u ∧ s.pkg.held = []
       ∧ s.pkg.lstate = st ∧ s.mapBase = some 0x8000000 ∧ (∀ c ∈ s.mem, c.1 < 0x8004000))
    ∧ (let s := moving .sending true 0 1 1
       s.Wf = true ∧ s.mapBase = some 0x8000000 ∧ (∀ c ∈ s.mem, c.1 < 0x8004000) ∧ (s.part 0).ma.left ≠ 0)
    ∧ (let s := moving .receiving false 0 0 0
       s.pkg.lstate = .idle ∧ (s.part 0).undoing = none ∧ vdStatus 0 (vd0 0 true) s = 7 ∧ vdStatus 0 (vd0 0 false) s = 0 ∧ freeFrames 0 s = [100]
       ∧ (putVdRecord 0 0x10000000 (vd0 0 false) (putVd 0 0 0x10000000 (freeFrames 0 s) (vd0 0 false) s)).stuck = none) := by
  repeat' apply And.intro
  all_goals decide +kernel

/-- The states of a tile on the move: the phase, the side, the states of its entry and of its frame's map entry, and LEFT. -/
def onTheMove : List (Phase × Bool × Nat × Nat × Nat) :=
  [(.serving, true, 0, 1, 1), (.serving, true, 0, 2, 0), (.serving, false, 0, 2, 0), (.pulling, false, 2, 4, 1), (.pulling, false, 3, 4, 1),
    (.serving, true, 3, 2, 1)]

theorem test_hyps_TilesOnTheMove : (∀ x ∈ onTheMove,
      let s := moving x.1 x.2.1 x.2.2.1 x.2.2.2.1 x.2.2.2.2
      s.Wf = true ∧ s.mapBase = some 0x8000000 ∧ (∀ c ∈ s.mem, c.1 < 0x8004000) ∧ s.tileAt 0 1 0 = 0x200000 ∧ 0x200000 + 16 ≤ dramEnd
      ∧ s.frameState (0x200000 / 65536) < 2 ^ 62 ∧ teFrame (s.tileEntry 0 1 0) = 64
      ∧ s.mapAt 0 = 0x8000000 ∧ s.pkg.held = [] ∧ s.upPorts ((s.part 0).ma.ppkg.toNat) ≠ [] ∧ (s.part 0).ma.phase = x.1
      ∧ teState (s.tileEntry 0 1 0) = x.2.2.1 ∧ (frameBytes 64 s).2 = []
      ∧ (s.part 0).ma.left = x.2.2.2.2 ∧ (s.part 0).ma.sends = decide (x.1 = .serving ∧ x.2.1 = true)
      ∧ ((s.part 0).ma.inFlight.any fun y => decide (y.1 = 1 ∧ y.2.1 = 0)) = decide (x.2.2.1 = 3))
    ∧ stillOwned ((moving .serving true 0 1 1).tileEntry 0 1 0) (moving .serving true 0 1 1) = true
    ∧ (((moving .serving true 0 1 1).part 0).ma.inFlight.filter fun x => x.2.2).length < ((moving .serving true 0 1 1).part 0).ma.push.toNat
    ∧ (((moving .serving true 0 1 1).tilesOf 0).find? fun t => stillOwned t.2.2 (moving .serving true 0 1 1)).map (fun t => (t.1, t.2.1)) = some (1, 0)
    ∧ 0x200000 + 16 ≤ 64 * 65536 ∧ 64 * 65536 + 65536 ≤ 0x8000000 ∧ 0x100000 + 64 * 1 + 64 ≤ 64 * 65536 := by
  repeat' apply And.intro
  all_goals decide +kernel

/-- Frames 64 to 65 are secure when `sec`; packages 0 and 5 are members. -/
def outside (sec : Bool) : State :=
  { mem0 (on .sq) with
    pkg := { dmemb := vset (Vector.replicate 4 0) 0 0x21, world := { rng := vset (Vector.replicate 16 0) 15 (if sec then 1 + 64 * 2 ^ 16 + 65 * 2 ^ 40 else 0) } } }

/-- A request of 8 bytes from package 5 or 6. -/
def asked (pkg op : Nat) : PeerReq :=
  { pkg := pkg, core := 0, op := op, aop := 0, addr := 0x400000, size := 8, value := 7, compare := 0, poison := 0, sync := false, scope := 0 }

theorem test_hyps_OutsideAccesses : let s := outside false
    s.Wf = true ∧ (0x40FFFE % 65536 + ([1, 2] : List (BitVec 8)).length ≤ 65536) ∧ 0x40FFFE + 2 ≤ dramEnd ∧ s.channelOff 0x40FFFE = false
    ∧ s.secureFrame (0x40FFFE / 65536) = false ∧ s.frameState (0x40FFFE / 65536) < 2 ^ 62 ∧ (outside true).secureFrame (0x40FFFE / 65536) = true
    ∧ (outside true).Wf = true ∧ s.isMember (asked 6 0).pkg = false ∧ s.isMember (asked 5 0).pkg = true ∧ s.isMember (asked 5 1).pkg = true
    ∧ (5 : Nat) ≠ s.pkg.num.toNat ∧ s.upPorts 5 = [] ∧ (routed s).Wf = true ∧ (routed s).upPorts 5 ≠ [] ∧ (routed s).isMember 5 = true
    ∧ (routed s).frameState 64 < 2 ^ 62
    ∧ (asked 5 1).addr + (asked 5 1).size ≤ dramEnd ∧ s.channelOff (asked 5 1).addr = false ∧ s.frameState ((asked 5 1).addr / 65536) < 2 ^ 62
    ∧ (∀ mst ∈ [2, 3], let s := moving .serving true 4 mst 1
       s.Wf = true ∧ s.isMember 5 = true ∧ (5 : Nat) ≠ s.pkg.num.toNat ∧ mapMst (s.frameState ((asked 5 0).addr / 65536)) = mst ∧ s.upPorts 5 ≠ []) := by
  repeat' apply And.intro
  all_goals decide +kernel

/-! ### Acts of one cycle (R21, R59, R215, R404) -/

/-- The context of slot 0 of core 0 after a step that makes acts at once, the second of which writes some words before the first does. -/
noncomputable def raced (s : State) (l : List Act) (lost : List (Nat × Nat)) : Option State :=
  nextOf (step { s with tape := [.race ((enum l).map fun x => ⟨x.2, [], if x.1 = 1 then lost else []⟩)] })

/-- CX0 and CX1 copy the words 0, 1 and the words 1, 0 to the words at AB offset 128, which hold 0, 0. -/
def twoCopies : State :=
  let s := on .sq { cxQ := vset (vset (Vector.replicate 4 []) 0 [oneCopy]) 1 [{ oneCopy with src := 8 }] }
  settle s (s.bufBytes (cellsOf (winKey 0 s.c 0 0) 16 (2 ^ 32 + 2 ^ 64)))

/-- R21: each word holds what one of the two copies wrote there, each on its own. -/
theorem test_race_words : ∀ x ∈ ([([], 1), ([0], 0), ([1], 2 ^ 32 + 1), ([0, 1], 2 ^ 32)] : List (List Nat × Nat)),
    (raced twoCopies [.ev (.cxCopyComplete 0 0 0 1) none, .ev (.cxCopyComplete 0 0 1 1) none]
      (x.1.map fun i => (1, winKey 0 twoCopies.c 0 128 / 4 + i))).map (fun t => (winRead 0 0 128 8 t).1) = some x.2 := by
  decide +kernel

/-- SQ and VE with one word each: s1 is 3, a1 is 1, and row 1 holds a signalling NaN. -/
noncomputable def twoWords (i j : Instr) : State :=
  let code (i : Instr) : Stream := { code := [BitVec.ofNat 32 ((encode i).getD 0)] }
  let s := on .sq { streams := vset (vset (Vector.replicate 5 {}) 1 (code j)) 0 (code i), flags := 0x20
                    s := vset (Vector.replicate 32 0) 1 3, ve := { a := vset (Vector.replicate 16 0) 1 1 } }
  settle s (winWrite 0 1 (rowOff 0 1) 4 0x7F800001 s)

/-- R404: the context stops with the cause of SQ, whose word stands second in the schedule; both streams have executed their words and
record their own causes. -/
theorem test_race_causes :
    (raced (twoWords (.sqTrap 5) (.veTrap 1 7)) [.run 0 .ve false none none, .run 0 .sq false none none] []).map (fun t =>
      let c := t.ctx 0
      (c.st, c.halt.map fun h => (h.cause, h.code), (c.stream .sq).cause, (c.stream .ve).cause, (c.stream .sq).pc, (c.stream .ve).pc))
      = some (.halting, some (Cause.swTrap.code, 5), Cause.swTrap.code, Cause.swTrap.code, 4, 4) := by
  decide +kernel

/-- R59: of two writes of FLAGS in a cycle that of VE stays, and a flag that VE sets stays over a write of SQ. -/
theorem test_race_flags :
    (raced (twoWords (.sqCrWr 1 5) (.veCrWr 1 1 5)) [.run 0 .ve false none none, .run 0 .sq false none none] []).map
      (fun t => (t.ctx 0).r.flags) = some 1
    ∧ (raced (twoWords (.sqCrWr 1 5) (.vadd 1 2 0 1 0)) [.run 0 .ve false none none, .run 0 .sq false none none] []).map
      (fun t => (t.ctx 0).r.flags) = some 3 := by
  constructor <;> decide +kernel

/-- R215: a row of +0 gives S = +0 and no flag against an infinity and a NaN. -/
theorem test_zero_row : colSum ({} : Stream).num (.flt .f32) (.flt .f32) ⟨[0, 0], []⟩ ⟨[0x7F800000, 0x7FC00000], []⟩ = (.zero false, 0) := by
  decide +kernel

/-! ### Witnesses: the step, the invariant and the encodings -/

/-- The machine that fetches `add s3, s1, s2`, and the same turn on the schedule. -/
noncomputable def fetching : State := State.reset.withFetchWord 32 0x04611000

theorem test_hyps_StepRunsTheDecodedInstruction : let a : Agent := ⟨0, 0, .sq⟩
    let s : State := { fetching with lock := none }
    let t (w : Turn) : State := { tick { s with tape := [w] } with tape := [] }
    let e : Act := .ev (.registerWrite false 4 0) none
    fetching.lock = some a ∧ ready a (tick fetching) = true ∧ fetching.tape = [] ∧ ready a (tick { fetching with ctxs := [] }) = false
    ∧ s.lock = none ∧ (grantAt 0 .sq (t (.act (.run 0 .sq false none none)))).map (·.1) = some 0
    ∧ (grantAt 1 .sq (t (.act (.run 1 .sq false none none)))).map (·.1) = none
    ∧ Instr.isEvent (.contextHalted 0 0) = true ∧ s.tape = [] ∧ autoNext (tick s) = none ∧ (grant (tick s)).map (·.1) = some a
    ∧ (let x := t (.race [⟨e, [], []⟩, ⟨e, [], []⟩]); (nextOf (wholeAct e x)).isSome = true ∧ (e.traps x).isNone = true ∧ e.writesFlags x = false)
    ∧ decode .sq (((s.ctx 0).stream .sq).fetch 0) = .ok (.add 3 1 2) ∧ (grant (tick State.reset)).map (·.1) = none
    ∧ autoNext (tick State.reset) = none ∧ (autoNext (tick (looping (some { kind := 0 }) none false))).isSome = true := by
  repeat' apply And.intro
  all_goals decide +kernel

/-- A race of two register writes that name no register: each acts, and both together leave a well-formed state. -/
theorem test_hyps_StepRunsTheDecodedInstruction_race : ∃ x y z : State, let e : Act := .ev (.registerWrite false 4 0) none
    let t : State := { fetching with lock := none }
    wholeAct e t = .next x ∧ wholeAct e t = .next y ∧ wholeAct e y = .next z ∧ z.Wf = true := by
  refine ⟨_, _, _, rfl, rfl, rfl, ?_⟩
  decide +kernel

/-- Groups of VE: one that traps as a whole (two memory words), and one that waits at its first word (a semaphore of 0). -/
theorem test_hyps_StepRunsTheDecodedInstruction_group :
    (let s := on .ve { streams := vset (Vector.replicate 5 {}) 1 { code := [0, 0x80000000] } }
     (veGroupBad (s.ctx 0)).isSome = true)
    ∧ (let w := BitVec.ofNat 32 ((encode (.veSemWait 1 0)).getD 0)
       let s := on .ve { streams := vset (Vector.replicate 5 {}) 1 { code := [w] } }
       veGroupBad (s.ctx 0) = none ∧ veGroupBlocked 0 s = some (.sem 0)) := by decide +kernel

theorem test_hyps_StepKeepsTheCanonicalForm : State.reset.Wf = true ∧ goesOn (step State.reset) = true := by
  constructor <;> decide +kernel

theorem test_hyps_EncodedInstructionsDecode : Instr.WellFormed (.beq 31 0 0xFFFF) ∧ streamOf (.beq 31 0 0xFFFF) = some .sq :=
  ⟨by simp [Instr.WellFormed], rfl⟩

theorem test_hyps_DecodedWordsAreLegal : 0x04611000 < 2 ^ 32 ∧ decode .sq 0x04611000 = .ok (.add 3 1 2) := ⟨by decide, rfl⟩

end Sys2Proof.Tests
end

/-!
The state after reset (O55): what each part of `State.reset` holds. `State.reset` lists no context, core, die or partition, so each of
them is the part with its default registers, and an entry of a register vector is the one value that the vector repeats.
-/
namespace Sys2Proof.Machine
open Sys2Proof

/-! ### Entries of a vector that repeats one value -/

/-- Inside a vector of copies of `x` a read gives `x`, beyond its end the default. -/
theorem vget_replicate {α : Type} (d x : α) (n i : Nat) :
    vget d (Vector.replicate n x) i = if i < n then x else d := by
  by_cases h : i < n <;> simp [vget, h]

@[simp] theorem vget_replicate_default {α : Type} (d : α) (n i : Nat) : vget d (Vector.replicate n d) i = d := by
  rw [vget_replicate, ite_self]

theorem vget_replicate_of_lt {α : Type} (d x : α) {n i : Nat} (h : i < n) : vget d (Vector.replicate n x) i = x := by
  rw [vget_replicate, if_pos h]

/-! ### The parts of the machine after reset -/

@[simp] theorem ctx_reset (k : Nat) : State.reset.ctx k = {} := rfl
@[simp] theorem core_reset (n : Nat) : State.reset.core n = {} := rfl
@[simp] theorem die_reset (d : Nat) : State.reset.die d = {} := rfl
@[simp] theorem part_reset (p : Nat) : State.reset.part p = {} := rfl
@[simp] theorem pkg_reset : State.reset.pkg = {} := rfl

/-- A context with its default registers has five streams alike. -/
@[simp] theorem stream_default (u : StreamId) : ({} : Ctx).stream u = {} := Vector.getElem_replicate _

/-- No byte is listed, no write is pending and nothing has stopped the machine. -/
theorem reset_wf : State.reset.Wf = true := rfl

/-- R58: no flag is raised and no INV trap is enabled. -/
theorem flagsReg_default : flagsReg {} = 0 := rfl

/-- R24: every semaphore counts 0. -/
theorem sem_default (n : Nat) : vget 0 ({} : Regs).sem n = 0 := vget_replicate_default 0 64 n

/-- R203: each address generator of ME holds its reset value. -/
theorem ag_default {n : Nat} (h : n < 8) : vget 0 ({} : MeRegs).ag n = 0xC000000000000000 := vget_replicate_of_lt 0 _ h

/-- R300: every case slot is EMPTY, with its record cleared. -/
theorem cases_default (j : Nat) : vget {} ({} : Core).cases j = {} := vget_replicate_default _ 16 j

/-- R370: every pending entry of a core is empty. -/
theorem pending_default (j : Nat) : vget {} ({} : Core).pending j = {} := vget_replicate_default _ 8 j

/-- R440: each fabric port holds its reset value. -/
theorem ports_default (k : Nat) : vget {} ({} : Pkg).ports k = {} := vget_replicate_default _ 36 k

/-- Settles O55: each part of the machine is the one with its default registers, whose values are those of the rules. -/
theorem resetState : Obligations.ResetState := by
  refine ⟨reset_wf, rfl, rfl, fun k => ?slot, fun n j => ?core, fun d => ?die, fun p => ?part, ?pkg⟩
  case slot =>
    rw [ctx_reset]
    refine ⟨rfl, rfl, rfl, flagsReg_default, rfl, sem_default, fun u => ?_, rfl, rfl, rfl, fun n => ag_default, rfl, rfl, rfl⟩
    rw [stream_default]
    exact ⟨rfl, rfl, rfl, rfl⟩
  case core =>
    rw [core_reset, cases_default, pending_default]
    exact ⟨rfl, rfl⟩
  case die =>
    rw [die_reset]
    exact ⟨rfl, rfl, rfl, rfl, rfl⟩
  case part =>
    rw [part_reset]
    exact ⟨rfl, rfl, rfl, rfl, rfl, rfl⟩
  case pkg =>
    rw [pkg_reset]
    refine ⟨rfl, rfl, rfl, rfl, rfl, rfl, rfl, fun k _ => ?_⟩
    rw [ports_default]
    exact ⟨rfl, rfl⟩

end Sys2Proof.Machine

/-!
Words and instructions (O59, O60, O56): the round trips in both directions, and the word of O56 that is refused.
-/
namespace Sys2Proof.Machine
open Sys2Proof Laws

/-! ### From instructions to words (O59) -/

/-- Every instruction's word is read back: the words one by one, an event has none. -/
theorem roundTrip (i : Instr) : RoundTrip.Statement i := by
  cases i with
  | add => exact RoundTrip.add _ _ _ | sub => exact RoundTrip.sub _ _ _ | and => exact RoundTrip.and _ _ _
  | or => exact RoundTrip.or _ _ _ | xor => exact RoundTrip.xor _ _ _ | sll => exact RoundTrip.sll _ _ _
  | srl => exact RoundTrip.srl _ _ _ | sra => exact RoundTrip.sra _ _ _ | slt => exact RoundTrip.slt _ _ _
  | sltu => exact RoundTrip.sltu _ _ _ | min => exact RoundTrip.min _ _ _ | max => exact RoundTrip.max _ _ _
  | minu => exact RoundTrip.minu _ _ _ | maxu => exact RoundTrip.maxu _ _ _ | sextI8 => exact RoundTrip.sextI8 _ _
  | sextI16 => exact RoundTrip.sextI16 _ _ | sextI32 => exact RoundTrip.sextI32 _ _ | zextN8 => exact RoundTrip.zextN8 _ _
  | zextN16 => exact RoundTrip.zextN16 _ _ | zextN32 => exact RoundTrip.zextN32 _ _ | clz => exact RoundTrip.clz _ _
  | ctz => exact RoundTrip.ctz _ _ | popc => exact RoundTrip.popc _ _ | mul => exact RoundTrip.mul _ _ _
  | mulh => exact RoundTrip.mulh _ _ _ | mulhu => exact RoundTrip.mulhu _ _ _ | div => exact RoundTrip.div _ _ _
  | divu => exact RoundTrip.divu _ _ _ | rem => exact RoundTrip.rem _ _ _ | remu => exact RoundTrip.remu _ _ _
  | addi => exact RoundTrip.addi _ _ _ | andi => exact RoundTrip.andi _ _ _ | ori => exact RoundTrip.ori _ _ _
  | xori => exact RoundTrip.xori _ _ _ | slti => exact RoundTrip.slti _ _ _ | sltiu => exact RoundTrip.sltiu _ _ _
  | slli => exact RoundTrip.slli _ _ _ | srli => exact RoundTrip.srli _ _ _ | srai => exact RoundTrip.srai _ _ _
  | lui => exact RoundTrip.lui _ _ | orhi => exact RoundTrip.orhi _ _ _ | ld => exact RoundTrip.ld _ _ _ _
  | st => exact RoundTrip.st _ _ _ _ | ldx => exact RoundTrip.ldx _ _ _ _ | stx => exact RoundTrip.stx _ _ _ _
  | amoAdd => exact RoundTrip.amoAdd _ _ _ _ _ _ | amoAnd => exact RoundTrip.amoAnd _ _ _ _ _ _
  | amoOr => exact RoundTrip.amoOr _ _ _ _ _ _ | amoXor => exact RoundTrip.amoXor _ _ _ _ _ _
  | amoMin => exact RoundTrip.amoMin _ _ _ _ _ _ | amoMax => exact RoundTrip.amoMax _ _ _ _ _ _
  | amoMinu => exact RoundTrip.amoMinu _ _ _ _ _ _ | amoMaxu => exact RoundTrip.amoMaxu _ _ _ _ _ _
  | amoSwap => exact RoundTrip.amoSwap _ _ _ _ _ _ | amoCas => exact RoundTrip.amoCas _ _ _ _ _ _
  | fenceC => exact RoundTrip.fenceC _ | fenceAcq => exact RoundTrip.fenceAcq _ _ | fenceRel => exact RoundTrip.fenceRel _ _
  | fenceAcqrel => exact RoundTrip.fenceAcqrel _ _ | sqSemSig => exact RoundTrip.sqSemSig _ _
  | sqSemWait => exact RoundTrip.sqSemWait _ _ | semSigr => exact RoundTrip.semSigr _ _ _
  | sqTlWait => exact RoundTrip.sqTlWait _ _ | tlRd => exact RoundTrip.tlRd _ _ | tlRdi => exact RoundTrip.tlRdi _ _
  | tlErr => exact RoundTrip.tlErr _ _ | sqBarInit => exact RoundTrip.sqBarInit _ _ | sqBarWait => exact RoundTrip.sqBarWait _ _
  | rinv => exact RoundTrip.rinv _ _ | beq => exact RoundTrip.beq _ _ _ | bne => exact RoundTrip.bne _ _ _
  | blt => exact RoundTrip.blt _ _ _ | bge => exact RoundTrip.bge _ _ _ | bltu => exact RoundTrip.bltu _ _ _
  | bgeu => exact RoundTrip.bgeu _ _ _ | jal => exact RoundTrip.jal _ _ | jalr => exact RoundTrip.jalr _ _ _
  | jtab => exact RoundTrip.jtab _ _ _ | sqLbr => exact RoundTrip.sqLbr _ _ | cbPub => exact RoundTrip.cbPub _ _ _
  | cbPin => exact RoundTrip.cbPin _ _ _ | cbUnpin => exact RoundTrip.cbUnpin _ _ _ | lrPatch => exact RoundTrip.lrPatch _ _ _ _
  | lrArm => exact RoundTrip.lrArm _ _ _ | asgWr => exact RoundTrip.asgWr _ _ | asgRd => exact RoundTrip.asgRd _ _
  | asgPget => exact RoundTrip.asgPget _ _ | asgPput => exact RoundTrip.asgPput _ _ | asgPfill => exact RoundTrip.asgPfill _
  | asgRun => exact RoundTrip.asgRun _ _ | asgPld => exact RoundTrip.asgPld _ _ _ | asgPst => exact RoundTrip.asgPst _ _ _
  | cxCopy => exact RoundTrip.cxCopy _ _ _ | cxProg => exact RoundTrip.cxProg _ _ | sqCrRd => exact RoundTrip.sqCrRd _ _
  | sqCrWr => exact RoundTrip.sqCrWr _ _ | sqTrap => exact RoundTrip.sqTrap _ | sqEnd => exact RoundTrip.sqEnd
  | sqYield => exact RoundTrip.sqYield | lcRd => exact RoundTrip.lcRd _ _ | lcIt => exact RoundTrip.lcIt _ _
  | pfxImm => exact RoundTrip.pfxImm _ | pfxOrd => exact RoundTrip.pfxOrd _ _ _ | vadd => exact RoundTrip.vadd _ _ _ _ _
  | vsub => exact RoundTrip.vsub _ _ _ _ _ | vmul => exact RoundTrip.vmul _ _ _ _ _ | vfma => exact RoundTrip.vfma _ _ _ _ _
  | vfmaR => exact RoundTrip.vfmaR _ _ _ _ _ | vfms => exact RoundTrip.vfms _ _ _ _ _ | vfmsR => exact RoundTrip.vfmsR _ _ _ _ _
  | vmin => exact RoundTrip.vmin _ _ _ _ _ | vmax => exact RoundTrip.vmax _ _ _ _ _ | vand => exact RoundTrip.vand _ _ _ _ _
  | vor => exact RoundTrip.vor _ _ _ _ _ | vxor => exact RoundTrip.vxor _ _ _ _ _ | vshl => exact RoundTrip.vshl _ _ _ _ _
  | vshr => exact RoundTrip.vshr _ _ _ _ _ | vqadd => exact RoundTrip.vqadd _ _ _ _ _ | vqsub => exact RoundTrip.vqsub _ _ _ _ _
  | vsel => exact RoundTrip.vsel _ _ _ _ _ | vcmpEq => exact RoundTrip.vcmpEq _ _ _ _ _
  | vcmpNe => exact RoundTrip.vcmpNe _ _ _ _ _ | vcmpLt => exact RoundTrip.vcmpLt _ _ _ _ _
  | vcmpLe => exact RoundTrip.vcmpLe _ _ _ _ _ | vcmpGt => exact RoundTrip.vcmpGt _ _ _ _ _
  | vcmpGe => exact RoundTrip.vcmpGe _ _ _ _ _ | vcmpUnord => exact RoundTrip.vcmpUnord _ _ _ _ _
  | vaddVs => exact RoundTrip.vaddVs _ _ _ _ _ | vsubVs => exact RoundTrip.vsubVs _ _ _ _ _
  | vmulVs => exact RoundTrip.vmulVs _ _ _ _ _ | vminVs => exact RoundTrip.vminVs _ _ _ _ _
  | vmaxVs => exact RoundTrip.vmaxVs _ _ _ _ _ | vfmaVs => exact RoundTrip.vfmaVs _ _ _ _ _
  | vrsub => exact RoundTrip.vrsub _ _ _ _ _ | vbcast => exact RoundTrip.vbcast _ _ _ _ | vmov => exact RoundTrip.vmov _ _ _ _
  | vneg => exact RoundTrip.vneg _ _ _ _ | vabs => exact RoundTrip.vabs _ _ _ _ | vnot => exact RoundTrip.vnot _ _ _ _
  | vclz => exact RoundTrip.vclz _ _ _ _ | vpopc => exact RoundTrip.vpopc _ _ _ _ | vrnd => exact RoundTrip.vrnd _ _ _ _
  | vcvt => exact RoundTrip.vcvt _ _ _ _ _ _ | vrcp => exact RoundTrip.vrcp _ _ _ _ | vrsqrt => exact RoundTrip.vrsqrt _ _ _ _
  | vsqrt => exact RoundTrip.vsqrt _ _ _ _ | vexp2 => exact RoundTrip.vexp2 _ _ _ _ | vlog2 => exact RoundTrip.vlog2 _ _ _ _
  | vexp => exact RoundTrip.vexp _ _ _ _ | vtanh => exact RoundTrip.vtanh _ _ _ _ | vsigm => exact RoundTrip.vsigm _ _ _ _
  | vdiv => exact RoundTrip.vdiv _ _ _ _ _ | vredSum => exact RoundTrip.vredSum _ _ _ _
  | vredMin => exact RoundTrip.vredMin _ _ _ _ | vredMax => exact RoundTrip.vredMax _ _ _ _
  | vredAnd => exact RoundTrip.vredAnd _ _ _ _ | vredOr => exact RoundTrip.vredOr _ _ _ _
  | vredXor => exact RoundTrip.vredXor _ _ _ _ | vperm => exact RoundTrip.vperm _ _ _ _ _
  | vcompress => exact RoundTrip.vcompress _ _ _ _ _ | vexpand => exact RoundTrip.vexpand _ _ _ _
  | vslup => exact RoundTrip.vslup _ _ _ _ _ | vsldn => exact RoundTrip.vsldn _ _ _ _ _
  | vbcastl => exact RoundTrip.vbcastl _ _ _ _ _ | vext => exact RoundTrip.vext _ _ _ _ | vins => exact RoundTrip.vins _ _ _ _
  | vld => exact RoundTrip.vld _ _ _ _ | vst => exact RoundTrip.vst _ _ _ _ | vldx => exact RoundTrip.vldx _ _ _ _ _
  | vstp => exact RoundTrip.vstp _ _ _ _ | vstx => exact RoundTrip.vstx _ _ _ _ _ | pand => exact RoundTrip.pand _ _ _ _
  | por => exact RoundTrip.por _ _ _ _ | pxor => exact RoundTrip.pxor _ _ _ _ | pandn => exact RoundTrip.pandn _ _ _ _
  | pnot => exact RoundTrip.pnot _ _ _ | pset => exact RoundTrip.pset _ _ | pclr => exact RoundTrip.pclr _ _
  | pmov => exact RoundTrip.pmov _ _ _ | pcount => exact RoundTrip.pcount _ _ _ | pfirst => exact RoundTrip.pfirst _ _ _
  | pwhile => exact RoundTrip.pwhile _ _ _ | veCrRd => exact RoundTrip.veCrRd _ _ _ | veCrRdHi => exact RoundTrip.veCrRdHi _ _ _
  | veCrWr => exact RoundTrip.veCrWr _ _ _ | veLbr => exact RoundTrip.veLbr _ _ _ | veSemSig => exact RoundTrip.veSemSig _ _
  | veSemWait => exact RoundTrip.veSemWait _ _ | veTlWait => exact RoundTrip.veTlWait _ _ _ | veEnd => exact RoundTrip.veEnd _
  | veTrap => exact RoundTrip.veTrap _ _ | veYield => exact RoundTrip.veYield _ | bz => exact RoundTrip.bz _ _ _
  | bnz => exact RoundTrip.bnz _ _ _ | aAdd => exact RoundTrip.aAdd _ _ _ _ | aSub => exact RoundTrip.aSub _ _ _ _
  | aMul => exact RoundTrip.aMul _ _ _ _ | aAnd => exact RoundTrip.aAnd _ _ _ _ | aOr => exact RoundTrip.aOr _ _ _ _
  | aXor => exact RoundTrip.aXor _ _ _ _ | aSll => exact RoundTrip.aSll _ _ _ _ | aSrl => exact RoundTrip.aSrl _ _ _ _
  | aSra => exact RoundTrip.aSra _ _ _ _ | aMin => exact RoundTrip.aMin _ _ _ _ | aMax => exact RoundTrip.aMax _ _ _ _
  | aMinu => exact RoundTrip.aMinu _ _ _ _ | aMaxu => exact RoundTrip.aMaxu _ _ _ _ | aSlt => exact RoundTrip.aSlt _ _ _ _
  | aSltu => exact RoundTrip.aSltu _ _ _ _ | aLc => exact RoundTrip.aLc _ _ _ | aIt => exact RoundTrip.aIt _ _ _
  | aAddi => exact RoundTrip.aAddi _ _ _ _ | aLui => exact RoundTrip.aLui _ _ _ | mPass => exact RoundTrip.mPass _ _ _ _ _ _ _
  | mPassi => exact RoundTrip.mPassi _ _ _ _ _ _ _ | mGpass => exact RoundTrip.mGpass _ _ _ _ _ _
  | gSum => exact RoundTrip.gSum _ _ _ _ _ _ | mConv => exact RoundTrip.mConv _ _ _ _ _ _ _ | mShape => exact RoundTrip.mShape _
  | mClr => exact RoundTrip.mClr _ _ _ | mTq => exact RoundTrip.mTq _ _ | mCrLd => exact RoundTrip.mCrLd _ _
  | mCrSt => exact RoundTrip.mCrSt _ _ | mCrImm => exact RoundTrip.mCrImm _ _ | meSemSig => exact RoundTrip.meSemSig _
  | meSemWait => exact RoundTrip.meSemWait _ | meTlWait => exact RoundTrip.meTlWait _ _ | meLbr => exact RoundTrip.meLbr _ _
  | meEnd => exact RoundTrip.meEnd | meTrap => exact RoundTrip.meTrap _ | meYield => exact RoundTrip.meYield
  | mB => exact RoundTrip.mB _ | xlLd => exact RoundTrip.xlLd _ _ _ _ _ _ _ | xlGather => exact RoundTrip.xlGather _ _ _ _ _ _ _
  | xlGather8 => exact RoundTrip.xlGather8 _ _ _ _ _ _ | xlFeed => exact RoundTrip.xlFeed _ _ _ _ _
  | xlPlatenDense => exact RoundTrip.xlPlatenDense _ _ _ _ | xlPlatenCw => exact RoundTrip.xlPlatenCw _ _ _ _
  | xlPlatenImage => exact RoundTrip.xlPlatenImage _ _ _ _ | xlCase => exact RoundTrip.xlCase _ _ _
  | xlCaseAuto => exact RoundTrip.xlCaseAuto _ _ | xlExpand => exact RoundTrip.xlExpand _ _ _ _ _ _ _
  | xlExpandAuto => exact RoundTrip.xlExpandAuto _ _ _ _ _ _ _ | xlRoute => exact RoundTrip.xlRoute _ _ _
  | xlAcflush => exact RoundTrip.xlAcflush _ _ _ | xsSt => exact RoundTrip.xsSt _ _ _ _ _
  | xsStash => exact RoundTrip.xsStash _ _ _ _ _ | xsTopk => exact RoundTrip.xsTopk _ _ _ _
  | xsUpd => exact RoundTrip.xsUpd _ _ _ _ _ | xsScatter => exact RoundTrip.xsScatter _ _ _ _ _ _
  | xsReidx => exact RoundTrip.xsReidx _ _ _ _ | xsRinv => exact RoundTrip.xsRinv _ _ _
  | xlsBarInit => exact RoundTrip.xlsBarInit _ _ | xlsBarWait => exact RoundTrip.xlsBarWait _ _
  | xsColl => exact RoundTrip.xsColl _ _ | cAdd => exact RoundTrip.cAdd _ _ _ | cSub => exact RoundTrip.cSub _ _ _
  | cMul => exact RoundTrip.cMul _ _ _ | cAnd => exact RoundTrip.cAnd _ _ _ | cOr => exact RoundTrip.cOr _ _ _
  | cXor => exact RoundTrip.cXor _ _ _ | cSll => exact RoundTrip.cSll _ _ _ | cSrl => exact RoundTrip.cSrl _ _ _
  | cSra => exact RoundTrip.cSra _ _ _ | cMin => exact RoundTrip.cMin _ _ _ | cMax => exact RoundTrip.cMax _ _ _
  | cMinu => exact RoundTrip.cMinu _ _ _ | cMaxu => exact RoundTrip.cMaxu _ _ _ | cSlt => exact RoundTrip.cSlt _ _ _
  | cSltu => exact RoundTrip.cSltu _ _ _ | cLc => exact RoundTrip.cLc _ _ | cIt => exact RoundTrip.cIt _ _
  | hMv => exact RoundTrip.hMv _ _ | cHmv => exact RoundTrip.cHmv _ _ | cAddi => exact RoundTrip.cAddi _ _ _
  | cLui => exact RoundTrip.cLui _ _ | hLi => exact RoundTrip.hLi _ _ | cBeq => exact RoundTrip.cBeq _ _ _
  | cBne => exact RoundTrip.cBne _ _ _ | cBltu => exact RoundTrip.cBltu _ _ _ | cBgeu => exact RoundTrip.cBgeu _ _ _
  | xlsLbr => exact RoundTrip.xlsLbr _ _ | xlsSemSig => exact RoundTrip.xlsSemSig _ | xlsSemWait => exact RoundTrip.xlsSemWait _
  | xlsTlWait => exact RoundTrip.xlsTlWait _ _ | xlsCrRd => exact RoundTrip.xlsCrRd _ _
  | xlsCrRdHi => exact RoundTrip.xlsCrRdHi _ _ | xlsCrWr => exact RoundTrip.xlsCrWr _ _ | xlsEnd => exact RoundTrip.xlsEnd
  | xlsTrap => exact RoundTrip.xlsTrap _ | xlsYield => exact RoundTrip.xlsYield
  | _ => rintro u - ⟨⟩

/-- Settles O59, by the round trip of each word. -/
theorem encodedInstructionsDecode : Obligations.EncodedInstructionsDecode := fun i u hw hu => roundTrip i u hw hu

/-! ### From words to instructions (O60) -/

/-- The field of `n` values at the bit of value `a`, and what stands above it, are all that stands from that bit on. -/
theorem field_add (w a n : Nat) : w / a % n + n * (w / (a * n)) = w / a := by
  rw [← Nat.div_div_eq_div_mul, Nat.mod_add_div]

/-- What a decoder answers to `w` is no instruction, or a well-formed one whose word is `w`. -/
def Legal (w : Nat) (r : Except Cause Instr) : Prop := ∀ i, r = .ok i → i.WellFormed ∧ encode i = some w

theorem legal_error (w : Nat) (e : Cause) : Legal w (.error e) := nofun

theorem legal_ok {w : Nat} {i : Instr} : Legal w (.ok i) ↔ i.WellFormed ∧ encode i = some w :=
  ⟨fun h => h i rfl, by rintro h _ ⟨⟩; exact h⟩

/-! Each map, opcode by opcode. The operands that a row reads are fields of the word, so each is in its range; the fields and the
opcodes are all the bits of the word, so that `field_add` puts it together again from the lowest field up. -/

theorem decodeSq01_legal {w : Nat} (hw : w / 2 ^ 32 = 0) (h : w / 67108864 % 64 = 1) : Legal w (decodeSq01 w) := by
  simp only [decodeSq01]
  repeat' split
  any_goals exact legal_error w _
  all_goals simp only [legal_ok, Instr.WellFormed, encode, Option.some.injEq, Nat.mod_lt, Nat.ofNat_pos, true_and]
  all_goals grind -lia [field_add, Nat.mod_add_div]

theorem decodeVe20_legal {w : Nat} (hw : w / 2 ^ 32 = 0) (h : w / 33554432 % 64 = 32) : Legal w (decodeVe20 w) := by
  simp only [decodeVe20]
  repeat' split
  any_goals exact legal_error w _
  all_goals simp only [legal_ok, Instr.WellFormed, encode, Option.some.injEq, Nat.mod_lt, Nat.ofNat_pos, true_and]
  all_goals grind -lia [field_add, Nat.mod_add_div]

theorem decodeVe3C_legal {w : Nat} (hw : w / 2 ^ 32 = 0) (h : w / 33554432 % 64 = 60) : Legal w (decodeVe3C w) := by
  simp only [decodeVe3C]
  repeat' split
  any_goals exact legal_error w _
  all_goals simp only [legal_ok, Instr.WellFormed, encode, Option.some.injEq, Nat.mod_lt, Nat.ofNat_pos, true_and]
  all_goals grind -lia [field_add, Nat.mod_add_div]

theorem decodeMe_legal {w : Nat} (hw : w / 2 ^ 32 = 0) : Legal w (decodeMe w) := by
  simp only [decodeMe, decodeMe28, decodeMe29, decodeMe2B]
  repeat' split
  any_goals exact legal_error w _
  all_goals simp only [legal_ok, Instr.WellFormed, encode, Option.some.injEq, Nat.mod_lt, Nat.ofNat_pos, true_and]
  all_goals grind -lia [field_add, Nat.mod_add_div]

theorem decodeXf_legal {w : Nat} (hw : w / 2 ^ 32 = 0) : Legal w (decodeXf w) := by
  simp only [decodeXf, decodeXf05, decodeXf06, decodeXf07, decodeXf30, decodeXf31, decodeXf32, decodeXf34, decodeXf35,
    decodeXf36, decodeXf3E]
  repeat' split
  any_goals exact legal_error w _
  all_goals simp only [legal_ok, Instr.WellFormed, encode, Option.some.injEq, Nat.mod_lt, Nat.ofNat_pos, true_and]
  all_goals grind -lia [field_add, Nat.mod_add_div]

theorem decodeSq_legal {w : Nat} (hw : w / 2 ^ 32 = 0) : Legal w (decodeSq w) := by
  simp only [decodeSq, decodeSq02, decodeSq09, decodeSq18, decodeSq1C, decodeSq1D, decodeSq1E, decodeSq1F, decodeSq26,
    decodeSq28, decodeSq29, decodeSq2C, decodeSq2D, decodeSq30, decodeSq34, decodeSq3E]
  repeat' split
  any_goals exact legal_error w _
  any_goals exact decodeSq01_legal hw ‹_›
  all_goals simp only [legal_ok, Instr.WellFormed, encode, Option.some.injEq, Nat.mod_lt, Nat.ofNat_pos, true_and]
  all_goals grind -lia [field_add, Nat.mod_add_div]

theorem decodeVe_legal {w : Nat} (hw : w / 2 ^ 32 = 0) : Legal w (decodeVe w) := by
  simp only [decodeVe, decodeVe12, decodeVe13, decodeVe14, decodeVe22, decodeVe26, decodeVe34, decodeVe35, decodeVe37,
    decodeVe39, decodeVe3A, decodeVe3B, decodeVe3D]
  repeat' split
  any_goals exact legal_error w _
  any_goals exact decodeVe20_legal hw ‹_›
  any_goals exact decodeVe3C_legal hw ‹_›
  all_goals simp only [legal_ok, Instr.WellFormed, encode, Option.some.injEq, Nat.mod_lt, Nat.ofNat_pos, true_and]
  all_goals grind -lia [field_add, Nat.mod_add_div]

/-- A transfer stream's map is that of both without the steps of the other side. -/
theorem decode_legal {w : Nat} (u : StreamId) (hw : w / 2 ^ 32 = 0) : Legal w (decode u w) := by
  cases u with
  | sq => exact decodeSq_legal hw
  | ve => exact decodeVe_legal hw
  | me => exact decodeMe_legal hw
  | xl =>
    dsimp only [decode, decodeXl]
    split
    · exact legal_error w _
    · exact decodeXf_legal hw
  | xs =>
    dsimp only [decode, decodeXs]
    split
    · exact legal_error w _
    · exact decodeXf_legal hw

/-- Settles O60, by the legality of each stream's map. -/
theorem decodedWordsAreLegal : Obligations.DecodedWordsAreLegal :=
  fun u _ i hw h => decode_legal u (Nat.div_eq_of_lt hw) i h

/-! ### A word that is refused (O56) -/

/-- Refutes O56: the word 0x052E7FC0 of ME has ASRC = 1 with AGA = 3, a reserved combination (R213), so that it is refused. -/
theorem not_decodeWords : ¬ Obligations.DecodeWords := by
  rintro ⟨-, -, -, -, -, -, -, hpass, -⟩
  have hrsv : decode .me 0x052E7FC0 = .error .illRsv := rfl
  rw [hrsv] at hpass
  cases hpass

end Sys2Proof.Machine

/-!
Units and prefixes (O6, O20, O21): what the end of a unit writes, the words of prefixes, and the trap of a word whose prefixes do not fit,
which each word of SQ takes before it does anything.
-/
namespace Sys2Proof.Machine
open Sys2Proof

/-! ### The end of a unit (O6) -/

/-- The context in which a unit ends is as it was but for the stream that moves on. -/
theorem endUnit_ctx (ck : Nat) (u : StreamId) (pc : Nat) (s : State) :
    (endUnit ck u pc s).ctx ck = { s.ctx ck with r := (s.ctx ck).r.modStream u fun st => { st.noPfx with
      pc := pc, wait := if u = .sq ∧ (s.ctx ck).r.pend.isSome then some .resp else none } } :=
  ctx_modStream _ _ _ _

/-- Settles O6: the stream is the one of `endUnit_stream`, every other part of the state is not written. -/
theorem unitEndClearsPrefixes : Obligations.UnitEndClearsPrefixes := by
  intro s ck u pc
  dsimp only
  rw [endUnit_stream]
  refine ⟨rfl, rfl, rfl, rfl, rfl, rfl, fun v hv => ?_, ?_, fun k hk => ctx_modStream_other _ hk _ _, rfl, rfl, rfl⟩
  · rw [endUnit_ctx]
    exact regs_stream_modStream_other _ hv _
  · rw [endUnit_ctx]
    rfl

/-! ### Traps of a whole word (O20, O21) -/

/-- A word that only traps ends its step in that trap. -/
theorem run_takeTrap {f : State → State} {s : State} {u : StreamId} {c : Cause} (hs : s.calm)
    (h : f s = takeTrap s.ck u c 0 0 0 0 true s) : run f s = s.traps u c 0 0 s := by
  obtain ⟨-, -, hn⟩ := hs
  rw [run_next (by rw [h, takeTrap_stuck, hn]), h]
  rfl

/-- Settles O21: the illegal word is the trap of a whole word. -/
theorem illegalWordTraps : Obligations.IllegalWordTraps := fun _ _ hs => run_takeTrap hs rfl

/-- A word of PFX whose field is latched traps. -/
theorem latchPfx_none {f : Stream → Option Stream} {s : State} (hs : s.calm) (h : f (s.c.stream s.who.stream) = none) :
    run (latchPfx f) s = s.traps s.who.stream .illPfx 0 0 s :=
  run_takeTrap hs (by simp only [latchPfx, h])

/-- A word of PFX whose field is free latches it, and its stream keeps the engine. -/
theorem latchPfx_some {f : Stream → Option Stream} {s : State} {st : Stream} (hs : s.calm)
    (h : f (s.c.stream s.who.stream) = some st) :
    run (latchPfx f) s = .next { s.modStream s.ck s.who.stream fun _ => { st with pfxLen := st.pfxLen + 1 } with
      lock := some s.who } := by
  obtain ⟨hw, hb, hn⟩ := hs
  have hf : latchPfx f s = { s.modStream s.ck s.who.stream fun _ => { st with pfxLen := st.pfxLen + 1 } with
      lock := some s.who } := by simp only [latchPfx, h]
  rw [run_next (by rw [hf]; exact hn), hf]
  exact congrArg _ (settle_self rfl rfl hw hb)

/-- A word that writes one register of SQ, and whose prefixes do not fit. -/
theorem sqWrite_unfit {imm : Bool} {s : State} (sd : Nat) (f : State → BitVec 64)
    (hu : (s.c.stream .sq).unfit imm 0 = true) : sqWrite imm sd f s = takeTrap s.ck .sq .illPfx 0 0 0 0 true s :=
  unitNext_unfit _ hu

/-- R105, for the words of the opcodes 0x01 to 0x0B. -/
theorem sqArith_illPfx {i : Instr} {x : Bool} {s : State} (h : sqArith i = some x) (hs : s.calm)
    (hu : (s.c.stream .sq).unfit x 0 = true) : exec i s = s.traps .sq .illPfx 0 0 s := by
  cases i <;> cases h <;> exact run_takeTrap hs (sqWrite_unfit _ _ hu)

/-- A word of SQ that is one unit, and whose prefixes do not fit. -/
theorem run_unitStep_unfit {imm : Bool} {ord : Nat} {s : State} (o : State → Op Nat) (hs : s.calm)
    (hu : (s.c.stream .sq).unfit imm ord = true) :
    run (fun s => unitStep .sq imm ord (o s) s) s = s.traps .sq .illPfx 0 0 s :=
  run_takeTrap hs (unitStep_unfit _ hu)

/-- A word of SQ that is one unit and goes on at the next word, and whose prefixes do not fit. -/
theorem run_unitNext_unfit {imm : Bool} {ord : Nat} {s : State} (o : State → Op Unit) (hs : s.calm)
    (hu : (s.c.stream .sq).unfit imm ord = true) :
    run (fun s => unitNext .sq imm ord (o s) s) s = s.traps .sq .illPfx 0 0 s :=
  run_takeTrap hs (unitNext_unfit _ hu)

/-- A word of the opcodes 0x01 to 0x0B takes PFX_IMM or none. -/
theorem sqPrefixes_of_sqArith {i : Instr} {x : Bool} (h : sqArith i = some x) : sqPrefixes i = some (x, 0) := by
  unfold sqPrefixes
  rw [h]

/-- R105: a word of SQ that its latched prefixes do not fit traps with ILL_PFX: each tests them before anything else. -/
theorem sqPrefixes_illPfx {i : Instr} {x : Bool} {o : Nat} {s : State} (h : sqPrefixes i = some (x, o)) (hs : s.calm)
    (hu : (s.c.stream .sq).unfit x o = true) : exec i s = s.traps .sq .illPfx 0 0 s := by
  cases ha : sqArith i with
  | some y =>
    rw [sqPrefixes_of_sqArith ha] at h
    cases h
    exact sqArith_illPfx ha hs hu
  | none =>
    cases i
    case sqLbr | sqTrap | sqEnd | sqSemSig =>
      cases h
      dsimp only [exec]
      exact run_takeTrap hs (if_pos hu)
    case fenceC =>
      cases h
      dsimp only [exec, execFenceC]
      exact run_unitNext_unfit _ hs hu
    case beq | bne | blt | bge | bltu | bgeu | jal | jalr | jtab =>
      cases h
      dsimp only [exec]
      exact run_unitStep_unfit _ hs hu
    all_goals
      cases ha <;> cases h
    all_goals
      dsimp only [exec]
      exact run_unitNext_unfit _ hs hu

/-- Settles O20: the words of PFX by `latchPfx`, the words of SQ by `sqPrefixes_illPfx`. -/
theorem prefixesLatchOrTrap : Obligations.PrefixesLatchOrTrap := by
  refine ⟨fun s imm cls ord scope hs => ⟨fun h => ?_, fun h => ?_, fun h => ?_, fun h => ?_⟩,
    fun _ _ _ _ => sqPrefixes_illPfx⟩
  · dsimp only [exec, execPfxImm]
    rw [latchPfx_some hs (by rw [h]; rfl)]
  · exact latchPfx_none hs (if_pos (Option.isSome_iff_ne_none.2 h))
  · dsimp only [exec, execPfxOrd]
    rw [latchPfx_some hs (by rw [h]; rfl)]
  · exact latchPfx_none hs (if_pos (Option.isSome_iff_ne_none.2 h))

end Sys2Proof.Machine

/-!
The step (O57): what time leaves as it is, the word that a stream runs, a turn that meets a tile on the move, the cases of `step`,
and a race of acts without views.
-/
namespace Sys2Proof.Machine
open Sys2Proof

/-! ### The passing of time (log 5, log 7) -/

theorem passYields_schedule (s : State) : (passYields s).lock = s.lock ∧ (passYields s).tape = s.tape := by
  unfold passYields
  split <;> exact ⟨rfl, rfl⟩

theorem countWaits_schedule (n : Nat) (s : State) : (countWaits n s).lock = s.lock ∧ (countWaits n s).tape = s.tape := by
  dsimp only [countWaits]
  split <;> split <;> exact ⟨rfl, rfl⟩

theorem undoTransfer_schedule (p : Nat) (s : State) : (undoTransfer p s).lock = s.lock ∧ (undoTransfer p s).tape = s.tape := by
  unfold undoTransfer
  split
  · exact ⟨rfl, rfl⟩
  · split <;> exact ⟨rfl, rfl⟩

theorem foldl_undoTransfer_schedule (l : List (Nat × Part)) (s : State) :
    (l.foldl (fun s p => undoTransfer p.1 s) s).lock = s.lock ∧ (l.foldl (fun s p => undoTransfer p.1 s) s).tape = s.tape := by
  induction l generalizing s with
  | nil => exact ⟨rfl, rfl⟩
  | cons p l ih =>
    obtain ⟨hl, ht⟩ := undoTransfer_schedule p.1 s
    obtain ⟨hl', ht'⟩ := ih (undoTransfer p.1 s)
    exact ⟨hl'.trans hl, ht'.trans ht⟩

/-- Time leaves the unit in progress as it is. -/
theorem tick_lock (s : State) : (tick s).lock = s.lock := by
  dsimp only [tick]
  rw [(foldl_undoTransfer_schedule _ _).1, (passYields_schedule _).1, (countWaits_schedule _ _).1]

/-- Time leaves the schedule as it is. -/
theorem tick_tape (s : State) : (tick s).tape = s.tape := by
  dsimp only [tick]
  rw [(foldl_undoTransfer_schedule _ _).2, (passYields_schedule _).2, (countWaits_schedule _ _).2]

theorem tick_early (s : State) : (tick s).early = [] := rfl

theorem tick_awaits (s : State) : (tick s).awaits = none := rfl

/-! ### One word of a stream (R94 to R96, R162) -/

/-- The word of the stream that has begun, as the instruction that it decodes to. -/
theorem execWord_ok {u : StreamId} {w : Nat} {i : Instr} (h : decode u w = .ok i) (s : State) : execWord u w s = exec i s := by
  unfold execWord
  rw [h]

/-- A word that decodes to none is the illegal-instruction trap (R96). -/
theorem execWord_error {u : StreamId} {w : Nat} {c : Cause} (h : decode u w = .error c) (s : State) :
    execWord u w s = exec (.illegalInstruction c) s := by
  unfold execWord
  rw [h]
  rfl

section
variable {a : Agent} {x : State}

/-- A stream that begins stands where it stood. -/
theorem begin_pc : (((begin a x).ctx (a.core * 4 + a.slot)).stream a.stream).pc
    = ((x.ctx (a.core * 4 + a.slot)).stream a.stream).pc := by
  have h : ((begin a x).ctx (a.core * 4 + a.slot)).stream a.stream
      = enterHeads { (x.ctx (a.core * 4 + a.slot)).stream a.stream with wait := none } := by
    change ((x.modStream _ _ _).ctx _).stream _ = _
    rw [ctx_modStream, regs_stream_modStream]
  rw [h]
  unfold enterHeads
  split <;> rfl

/-- A group that may not run traps at its first word (R96, R97). -/
theorem runAgent_bad (hu : a.stream = .ve) {e : Cause} (h : veGroupBad ((begin a x).ctx (a.core * 4 + a.slot)) = some e) :
    runAgent a x = exec (.illegalInstruction e) (begin a x) := by
  dsimp only [runAgent]
  rw [if_pos hu, h]
  rfl

/-- A group waits at its first word (R162). -/
theorem runAgent_blocked (hu : a.stream = .ve) {w : Wait} (h : veGroupBad ((begin a x).ctx (a.core * 4 + a.slot)) = none)
    (hw : veGroupBlocked (a.core * 4 + a.slot) (begin a x) = some w) :
    runAgent a x = run (veBlock (a.core * 4 + a.slot) w) (begin a x) := by
  dsimp only [runAgent]
  rw [if_pos hu, h, if_pos hu, hw]

/-- A word runs from the state of `begin`; a group has taken its count. -/
theorem runAgent_word (h : a.stream = .ve → veGroupBad ((begin a x).ctx (a.core * 4 + a.slot)) = none
      ∧ veGroupBlocked (a.core * 4 + a.slot) (begin a x) = none) :
    runAgent a x = execWord a.stream
      ((((begin a x).ctx (a.core * 4 + a.slot)).stream a.stream).fetch (((begin a x).ctx (a.core * 4 + a.slot)).stream a.stream).at)
      (if a.stream = .ve then veGroupTake (a.core * 4 + a.slot) (begin a x) else begin a x) := by
  dsimp only [runAgent]
  by_cases hu : a.stream = .ve
  · rw [if_pos hu, (h hu).1, if_pos hu, (h hu).2]
  · rw [if_neg hu, if_neg hu]

end

/-! ### A turn that meets a tile on the move (R436) -/

/-- The machine with another schedule. -/
def withTape (q : List Turn) (s : State) : State := { s with tape := q }

theorem homeWrite_withTape (q : List Turn) (key n v : Nat) (s : State) :
    (withTape q s).homeWrite key n v = withTape q (s.homeWrite key n v) := by
  have hc : (withTape q s).channelOff key = s.channelOff key := rfl
  unfold State.homeWrite
  rw [hc]
  split <;> rfl

theorem sendTo_withTape (q : List Turn) (pkg : Nat) (m : Msg) (s : State) :
    (withTape q s).sendTo pkg m = withTape q (s.sendTo pkg m) := by
  have hc : (withTape q s).upPorts pkg = s.upPorts pkg := rfl
  unfold State.sendTo
  rw [hc]
  split <;> rfl

theorem modPart_withTape (q : List Turn) (p : Nat) (f : Part → Part) (s : State) :
    (withTape q s).modPart p f = withTape q (s.modPart p f) := rfl

theorem startPull_withTape (q : List Turn) (part tensor tile at0 : Nat) (s : State) :
    startPull part tensor tile at0 (withTape q s) = withTape q (startPull part tensor tile at0 s) := by
  by_cases h : (s.part part).ma.phase = .pulling ∧ teState (s.homeRead at0 16).1 = 2
  · have h' : ((withTape q s).part part).ma.phase = .pulling ∧ teState ((withTape q s).homeRead at0 16).1 = 2 := h
    rw [startPull, startPull, if_pos h, if_pos h', homeWrite_withTape]
    dsimp only
    rw [modPart_withTape, sendTo_withTape]
    rfl
  · have h' : ¬ (((withTape q s).part part).ma.phase = .pulling ∧ teState ((withTape q s).homeRead at0 16).1 = 2) := h
    rw [startPull, startPull, if_neg h, if_neg h']

theorem pullFrame_withTape (q : List Turn) (f : Nat) (s : State) : pullFrame f (withTape q s) = withTape q (pullFrame f s) := by
  have hf : (withTape q s).findTile f = s.findTile f := rfl
  unfold pullFrame
  rw [hf]
  split
  · exact startPull_withTape ..
  · rfl

/-- What a turn that waits leaves does not depend on the rest of the schedule. -/
theorem heldUp_withTape (w : Option Turn) (f : Nat) (q : List Turn) (s : State) :
    heldUp w f (withTape q s) = withTape q (heldUp w f s) := by
  have hb : (withTape q s).beyond f = s.beyond f := rfl
  unfold heldUp
  rw [hb]
  split
  · exact congrArg (settle s) (pullFrame_withTape q f { s with strays := (f, w) :: s.strays })
  · exact congrArg (settle s) (pullFrame_withTape q f s)

/-- A turn that waits stands at the end of the schedule, whatever the schedule is while it meets the tile. -/
theorem orAwait_withTape (w : Option Turn) (s : State) (o : Host.Outcome State Fault Refusal) (r q : List Turn) :
    (orAwait w s o fun u => .next { u with tape := q })
      = orAwait w { s with tape := r } o fun u => .next { u with tape := q } := by
  have hq (f : Nat) : withTape q (heldUp w f (withTape r s)) = withTape q (heldUp w f s) := by rw [heldUp_withTape]; rfl
  unfold orAwait
  split
  · split
    · exact congrArg _ (hq _).symm
    · rfl
  · rfl

/-- What meets no tile on the move happens. -/
theorem orAwait_next {w : Option Turn} {s u : State} {k : State → Host.Outcome State Fault Refusal} (hu : u.awaits = none) :
    orAwait w s (.next u) k = .next u := by
  dsimp only [orAwait]
  rw [hu]

/-- What meets one does not happen. -/
theorem orAwait_held {w : Option Turn} {s u : State} {f : Nat} {k : State → Host.Outcome State Fault Refusal}
    (hu : u.awaits = some f) : orAwait w s (.next u) k = k (heldUp w f s) := by
  dsimp only [orAwait]
  rw [hu]

/-! ### What a step does, by the unit in progress and the schedule -/

section
variable {s : State}

theorem turnNow_tape {e : Turn} {r : List Turn} (hl : s.lock = none) (ht : s.tape = e :: r) : s.turnNow = some e := by
  unfold State.turnNow
  rw [hl, ht]

theorem turnNow_none (hl : s.lock = none) (ht : s.tape = []) : s.turnNow = none := by
  unfold State.turnNow
  rw [hl, ht]

/-- A unit in progress, and an act within it. -/
theorem step_amid {a : Agent} {b : Act} {views : List View} {rows : Option Nat} {r : List Turn} (hl : s.lock = some a)
    (ht : s.tape = .amid b views rows :: r) :
    step s = orAwait s.turnNow { tick s with tape := r } (amidAct a b views rows { tick s with tape := r })
      fun u => .next { u with tape := r ++ [.act b] } := by
  rw [← orAwait_withTape]
  dsimp only [step]
  rw [tick_lock, tick_tape, hl, ht]

/-- A unit in progress goes on while its stream may. -/
theorem step_lock {a : Agent} (hl : s.lock = some a) (ht : ∀ b views rows r, s.tape ≠ .amid b views rows :: r) :
    step s = if ready a (tick s) then orAwait s.turnNow (tick s) (runAgent a (tick s)) fun u => .next { u with lock := none }
      else .next { tick s with lock := none } := by
  rw [← tick_lock] at hl
  rw [← tick_tape] at ht
  dsimp only [step]
  split
  next ht' => exact absurd ht' (ht _ _ _ _)
  next hl' _ =>
    cases hl.symm.trans hl'
    rfl
  all_goals
    rename_i hl' _
    cases hl.symm.trans hl'

/-- No unit is in progress: the schedule's next entry. -/
theorem step_tape {e : Turn} {r : List Turn} (hl : s.lock = none) (ht : s.tape = e :: r) :
    step s = orAwait s.turnNow (tick s) (runTurn e { tick s with tape := r }) fun u => .next { u with tape := r ++ [e] } := by
  dsimp only [step]
  rw [tick_lock, tick_tape, hl, ht]

/-- The schedule is empty: what the machine does by itself. -/
theorem step_auto {e : Auto} (hl : s.lock = none) (ht : s.tape = []) (he : autoNext (tick s) = some e) :
    step s = orAwait none (tick s) (exec e.instr (tick s)) stepGrant := by
  rw [← turnNow_none hl ht, ← Auto.exec_eq]
  dsimp only [step]
  rw [tick_lock, tick_tape, hl, ht, he]

/-- Nothing is due: the next word of the stream that is granted its engine. -/
theorem step_grant (hl : s.lock = none) (ht : s.tape = []) (he : autoNext (tick s) = none) : step s = stepGrant (tick s) := by
  dsimp only [step]
  rw [tick_lock, tick_tape, hl, ht, he]

end

/-! ### A race of acts that see every word as it stands (log 32) -/

/-- A state that meets the invariant has no write pending. -/
theorem settle_of_wf {y : State} (hy : y.Wf = true) : settle y { y with early := [] } = { y with early := [] } := by
  simp only [State.Wf, Bool.and_eq_true, List.isEmpty_iff] at hy
  obtain ⟨⟨⟨-, hw⟩, hb⟩, -⟩ := hy
  exact settle_self rfl rfl hw hb

/-- An act without views is made as it is. -/
theorem viewedAct_nil {f : State → Host.Outcome State Fault Refusal} {hist : List State} {s y : State} (he : s.early = [])
    (hf : f s = .next y) (hy : y.Wf = true) : viewedAct f [] [] hist s = .next { y with early := [] } := by
  have hs : ({ s with early := [] } : State) = s := by rw [← he]
  simp only [viewedAct, List.filter_nil, List.flatMap_nil, List.foldl_nil, List.map_nil, List.append_nil, List.all_nil,
    if_true]
  rw [hs, hf]
  exact congrArg _ (settle_of_wf hy)

/-- While no context has stopped, each act of a race is made. -/
theorem over_of_no_stop {g : RaceLog} (hg : g.stops = []) (s : State) (a : Act) : g.over s a = false := by
  cases a with
  | ev i rows => rfl
  | run core u slow par rows =>
    dsimp only [RaceLog.over]
    rw [hg]
    cases grantAt core u s <;> rfl

/-- An act of a race that stops no context and writes no FLAGS, without views, and the acts after it. -/
theorem raceRun_cons {s0 s y : State} {b : Act} {l : List Racer} {g : RaceLog} (hg : g.stops = []) (hb : b.traps s0 = none)
    (he : s.early = []) (hy : wholeAct b s = .next y) (hw : y.Wf = true) :
    ∃ g' : RaceLog, g'.stops = [] ∧ g'.flags = []
      ∧ raceRun s0 false (⟨b, [], []⟩ :: l) g s = raceRun s0 false l g' { y with early := [] } := by
  rw [raceRun, over_of_no_stop hg, if_neg Bool.false_ne_true]
  dsimp only [List.filter_nil]
  rw [viewedAct_nil he hy hw, hb]
  refine ⟨_, ?_, ?_, rfl⟩
  · exact hg
  · rfl

theorem raceRun_nil {s0 s : State} {m : Bool} {g : RaceLog} (hg : g.stops = []) (hf : g.flags = []) :
    raceRun s0 m [] g s = .next s := by
  rw [raceRun, hg, hf]
  rfl

/-- Racers that are not named stay where they stand. -/
theorem inPlace_none {p : Racer → Bool} {x y : Racer} (hx : p x = false) (hy : p y = false) : inPlace p [x, y] = [x, y] := by
  simp [inPlace, inPlace.go, hx, hy]

/-- Two acts in a race, in which each sees every word as it stands, are one act after the other. -/
theorem raceActs_pair {s y z : State} {b c : Act} (he : s.early = []) (hb : b.traps s = none) (hc : c.traps s = none)
    (hbf : b.writesFlags s = false) (hcf : c.writesFlags s = false) (hy : wholeAct b s = .next y) (hyw : y.Wf = true)
    (hz : wholeAct c { y with early := [] } = .next z) (hzw : z.Wf = true) :
    raceActs [⟨b, [], []⟩, ⟨c, [], []⟩] s = .next { z with early := [] } := by
  have hr : raceActs [⟨b, [], []⟩, ⟨c, [], []⟩] s
      = raceRun s (b.writesFlags s || (c.writesFlags s || false))
        (inPlace (fun r => (r.act.traps s).isSome) [⟨b, [], []⟩, ⟨c, [], []⟩]) { hist := [s] } s := rfl
  obtain ⟨g, hgs, -, hfst⟩ := raceRun_cons (l := [⟨c, [], []⟩]) (g := { hist := [s] }) rfl hb he hy hyw
  obtain ⟨g', hgs', hgf', hsnd⟩ := raceRun_cons (l := []) hgs hc (s := { y with early := [] }) rfl hz hzw
  rw [hr, hbf, hcf, inPlace_none (congrArg _ hb) (congrArg _ hc)]
  exact hfst.trans (hsnd.trans (raceRun_nil hgs' hgf'))

/-! ### The instruction of a step (O57) -/

/-- A step that runs the next word of `a` from `x`, in the terms of O57: the word's instruction or its trap, after its group's check and
wait; `k` follows where it meets a tile on the move. -/
def RunsWord (s : State) (a : Agent) (x : State) (k : State → Host.Outcome State Fault Refusal) : Prop :=
  let ck := a.core * 4 + a.slot
  let y := begin a x
  let z := if a.stream = .ve then veGroupTake ck y else y
  let c := y.ctx ck
  let st := c.stream a.stream
  ((a.stream = .ve → veGroupBad c = none ∧ veGroupBlocked ck y = none) →
    (∀ i, decode a.stream (st.fetch st.at) = .ok i → step s = orAwait s.turnNow (tick s) (exec i z) k)
    ∧ ∀ e, decode a.stream (st.fetch st.at) = .error e → step s = orAwait s.turnNow (tick s) (exec (.illegalInstruction e) z) k)
  ∧ (∀ e, a.stream = .ve → veGroupBad c = some e → step s = orAwait s.turnNow (tick s) (exec (.illegalInstruction e) y) k)
  ∧ (∀ w, a.stream = .ve → veGroupBad c = none → veGroupBlocked ck y = some w →
    step s = orAwait s.turnNow (tick s) (run (veBlock ck w) y) k)
  ∧ st.pc = ((x.ctx ck).stream a.stream).pc ∧ y.who = a ∧ y.mem = x.mem ∧ y.buf = x.buf

/-- A step that is `runAgent` runs the word, by what `runAgent` does. -/
theorem runsWord_of_step {s x : State} {a : Agent} {k : State → Host.Outcome State Fault Refusal}
    (h : step s = orAwait s.turnNow (tick s) (runAgent a x) k) : RunsWord s a x k := by
  refine ⟨fun hg => ⟨fun i hi => ?_, fun e he => ?_⟩, fun e hu hb => ?_, fun w hu hb hw => ?_, begin_pc, rfl, rfl, rfl⟩
  · rw [h, runAgent_word hg, execWord_ok hi]
  · rw [h, runAgent_word hg, execWord_error he]
  · rw [h, runAgent_bad hu hb]
  · rw [h, runAgent_blocked hu hb hw]

/-- Settles O57, from what `step` does by the unit in progress and the schedule, and from `runAgent`. -/
theorem stepRunsTheDecodedInstruction : Obligations.StepRunsTheDecodedInstruction := by
  intro s a
  refine ⟨fun hl => ⟨fun b views rows r ht => step_amid hl ht, fun ht => ⟨fun hr => ?_, fun hr => ?_⟩⟩,
    fun hl => ⟨?tape, ?run, ?event, ?race, ?note, ?alone⟩⟩
  · refine runsWord_of_step ?_
    rw [step_lock hl ht, if_pos hr]
  · rw [step_lock hl ht, hr]
    rfl
  case tape =>
    intro e r ht
    have hs : step s = orAwait (some e) { tick s with tape := r } (runTurn e { tick s with tape := r })
        fun u => .next { u with tape := r ++ [e] } := by
      rw [step_tape hl ht, turnNow_tape hl ht, orAwait_withTape]
    exact ⟨fun u hu ha => by rw [hs, hu, orAwait_next ha], fun u f hu ha => by rw [hs, hu, orAwait_held ha]⟩
  case run =>
    intro slow par rows r ht
    refine ⟨fun x hx => runsWord_of_step ?_, fun hx => ?_⟩
    · rw [step_tape hl ht]
      dsimp only [runTurn, startAct]
      rw [hx]
    · rw [step_tape hl ht]
      dsimp only [runTurn, startAct]
      rw [hx]
      exact orAwait_next (tick_awaits s)
  case event =>
    intro i rows r ht hi
    rw [step_tape hl ht, orAwait_withTape]
    dsimp only [runTurn, startAct]
    rw [if_pos hi]
  case race =>
    intro b c r y z ht hb hc hbf hcf hy hyw hz hzw
    rw [step_tape hl ht, orAwait_withTape]
    exact congrArg (orAwait _ _ · _) (raceActs_pair (tick_early s) hb hc hbf hcf hy hyw hz hzw)
  case note =>
    intro n r ht
    rw [step_tape hl ht, orAwait_withTape]
    rfl
  case alone =>
    intro ht
    refine ⟨fun e he => step_auto hl ht he, fun he => ⟨fun x hx => runsWord_of_step ?_, fun hx => ?_⟩⟩
    · rw [step_grant hl ht he, turnNow_none hl ht, stepGrant, hx]
    · rw [step_grant hl ht he, stepGrant, hx]

end Sys2Proof.Machine

/-!
Words of SQ that are one unit (O1 to O5, O16): how such a word ends, the results of the integer words, and the branches.
-/
namespace Sys2Proof.Machine
open Sys2Proof

/-! ### How a word of one unit ends -/

section
variable {u : StreamId} {imm : Bool} {ord : Nat} {s t : State} {f : State → State}

/-- A word whose part succeeds goes on at the next word. -/
theorem run_onward {o : Op Unit} (hf : f s = unitNext u imm ord o s) (hfit : s.fits u imm ord)
    (ho : runOp o s = (.ok (), t)) (hn : t.stuck = none) : run f s = s.onward u t := by
  have h : f s = endUnit s.ck u (s.c.stream u).next t := hf.trans (unitNext_ok hfit ho)
  rw [run_next (by rw [h]; exact hn), h]
  rfl

/-- A word whose part answers an address goes on there. -/
theorem run_goesTo {o : Op Nat} {pc : Nat} (hf : f s = unitStep u imm ord o s) (hfit : s.fits u imm ord)
    (ho : runOp o s = (.ok pc, t)) (hn : t.stuck = none) : run f s = s.goesTo u pc t := by
  have h : f s = endUnit s.ck u pc t := hf.trans (unitStep_ok hfit ho)
  rw [run_next (by rw [h]; exact hn), h]
  rfl

/-- A word whose part stops leaves by its stop. -/
theorem run_stopWord {o : Op Unit} {x : Stop} (hf : f s = unitNext u imm ord o s) (hfit : s.fits u imm ord)
    (ho : runOp o s = (.error x, t)) (hn : t.stuck = none) : run f s = .next (settle s (stopWord s.ck u x t)) := by
  have h : f s = stopWord s.ck u x t := hf.trans (unitNext_error hfit ho)
  rw [run_next (by rw [h, stopWord_stuck, hn]), h]

/-- A word whose part waits. -/
theorem run_blocks {o : Op Unit} {w : Wait} (hf : f s = unitNext u imm ord o s) (hfit : s.fits u imm ord)
    (ho : runOp o s = (.error (.wait w), t)) (hn : t.stuck = none) : run f s = .next (settle s (blockOn s.ck u w t)) :=
  run_stopWord hf hfit ho hn

/-- A word whose part traps. -/
theorem run_traps {o : Op Unit} {c : Cause} {code faddr : Nat} (hf : f s = unitNext u imm ord o s) (hfit : s.fits u imm ord)
    (ho : runOp o s = (.error (.trap c code faddr 0 0), t)) (hn : t.stuck = none) : run f s = s.traps u c code faddr t :=
  run_stopWord hf hfit ho hn

/-- A word whose part stops with an entry in the error log. -/
theorem run_stop_logged {o : Op Unit} {c : Cause} {elog : Nat} (hf : f s = unitNext u imm ord o s) (hfit : s.fits u imm ord)
    (ho : runOp o s = (.error (.trap c 0 0 0 elog), t)) (hn : t.stuck = none) :
    run f s = .next (settle s (takeTrap s.ck u c 0 0 0 elog true t)) :=
  run_stopWord hf hfit ho hn

/-- A word that answers an address, and traps. -/
theorem run_traps_step {o : Op Nat} {c : Cause} {code faddr : Nat} (hf : f s = unitStep u imm ord o s) (hfit : s.fits u imm ord)
    (ho : runOp o s = (.error (.trap c code faddr 0 0), t)) (hn : t.stuck = none) : run f s = s.traps u c code faddr t := by
  have h : f s = stopWord s.ck u (.trap c code faddr 0 0) t := hf.trans (unitStep_error hfit ho)
  rw [run_next (by rw [h, stopWord_stuck, hn]), h]
  rfl

/-- Nothing of a calm state is left to write. -/
theorem settle_calm (hs : s.calm) (hm : t.mem = s.mem) (hb : t.buf = s.buf) (hw : t.wbuf = s.wbuf) (hv : t.bbuf = s.bbuf) :
    settle s t = t := by
  obtain ⟨hws, hbs, -⟩ := hs
  exact settle_self hm hb (hw.trans hws) (hv.trans hbs)

/-- A word that waits, having done nothing. -/
theorem run_waits {o : Op Unit} {w : Wait} (hs : s.calm) (hf : f s = unitNext u imm ord o s) (hfit : s.fits u imm ord)
    (ho : runOp o s = (.error (.wait w), s)) : run f s = s.waits u w := by
  rw [run_stopWord hf hfit ho hs.2.2]
  exact congrArg _ (settle_calm hs rfl rfl rfl rfl)

end

/-! ### Words that write one register (R111 to R115) -/

/-- A word of SQ's arithmetic writes its result to s[sd] and goes on. -/
theorem run_sqWrite_onward {imm : Bool} {sd : Nat} {f : State → BitVec 64} {s : State} (hs : s.calm) (hf : s.fits .sq imm 0) :
    run (sqWrite imm sd f) s = s.onward .sq (sSet sd (f s) s) :=
  run_onward rfl hf (runOp_upd _ _) ((sPut_stuck _ _ _ _).trans hs.2.2)

/-- The same, with the result in another form. -/
theorem run_sqWrite_eq {imm : Bool} {sd : Nat} {f : State → BitVec 64} {s : State} {v : BitVec 64} (hs : s.calm)
    (hf : s.fits .sq imm 0) (hv : f s = v) : run (sqWrite imm sd f) s = s.onward .sq (sSet sd v s) :=
  hv ▸ run_sqWrite_onward hs hf

section
variable (a b : BitVec 64)

theorem bit_slt : (bit (a.slt b) : BitVec 64) = if a.toInt < b.toInt then 1 else 0 := by
  simp [bit, BitVec.slt]

theorem bit_ult : (bit (a.ult b) : BitVec 64) = if a.toNat < b.toNat then 1 else 0 := by
  simp [bit, BitVec.ult]

theorem bvMin_eq : bvMin a b = if a.toInt < b.toInt then a else b := by simp [bvMin, BitVec.slt]
theorem bvMax_eq : bvMax a b = if a.toInt < b.toInt then b else a := by simp [bvMax, BitVec.slt]
theorem bvMinu_eq : bvMinu a b = if a.toNat < b.toNat then a else b := by simp [bvMinu, BitVec.ult]
theorem bvMaxu_eq : bvMaxu a b = if a.toNat < b.toNat then b else a := by simp [bvMaxu, BitVec.ult]

/-- The low bits of a word, extended by zeros. -/
theorem setWidth_setWidth_64 (n : Nat) : (a.setWidth n).setWidth 64 = BitVec.ofNat 64 (a.toNat % 2 ^ n) := by
  apply BitVec.eq_of_toNat_eq
  simp

theorem aluMul_eq : aluMul a b = BitVec.ofNat 64 (a.toNat * b.toNat) := by
  apply BitVec.eq_of_toNat_eq
  simp [aluMul]

end

/-- Settles O1, each form by what it writes. -/
theorem sqRegisterFormsWriteTheirResult : Obligations.SqRegisterFormsWriteTheirResult := by
  intro s sd sa sb hs hf
  refine ⟨run_sqWrite_onward hs hf, run_sqWrite_onward hs hf, run_sqWrite_onward hs hf, run_sqWrite_onward hs hf,
    run_sqWrite_onward hs hf, run_sqWrite_onward hs hf, run_sqWrite_onward hs hf, run_sqWrite_onward hs hf,
    run_sqWrite_eq hs hf (bit_slt _ _), run_sqWrite_eq hs hf (bit_ult _ _), run_sqWrite_eq hs hf (bvMin_eq _ _),
    run_sqWrite_eq hs hf (bvMax_eq _ _), run_sqWrite_eq hs hf (bvMinu_eq _ _), run_sqWrite_eq hs hf (bvMaxu_eq _ _),
    run_sqWrite_onward hs hf, run_sqWrite_onward hs hf, run_sqWrite_onward hs hf,
    run_sqWrite_eq hs hf (setWidth_setWidth_64 _ _), run_sqWrite_eq hs hf (setWidth_setWidth_64 _ _),
    run_sqWrite_eq hs hf (setWidth_setWidth_64 _ _), run_sqWrite_eq hs hf (aluMul_eq _ _), run_sqWrite_onward hs hf,
    run_sqWrite_onward hs hf⟩


/-! ### Counts of bits (R111) -/

/-- `bvClz` counts the zero bits above the highest one. -/
theorem bvClz_spec {w : Nat} (x : BitVec w) : bvClz x ≤ w ∧ (∀ i, i < bvClz x → x.getLsbD (w - 1 - i) = false)
    ∧ (bvClz x < w → x.getLsbD (w - 1 - bvClz x) = true) := by
  unfold bvClz
  split
  · rename_i h
    have hx : x = 0 := BitVec.eq_of_toNat_eq (by simpa using h)
    exact ⟨Nat.le_refl _, fun i _ => by simp [hx], fun h => absurd h (Nat.lt_irrefl _)⟩
  · rename_i h
    have hlog : Nat.log2 x.toNat < w := (Nat.log2_lt h).2 x.isLt
    refine ⟨by omega, fun i hi => ?_, fun _ => ?_⟩
    · exact Nat.testBit_lt_two_pow (Nat.lt_of_lt_of_le Nat.lt_log2_self (Nat.pow_le_pow_right (by decide) (by omega)))
    · rw [show w - 1 - (w - 1 - Nat.log2 x.toNat) = Nat.log2 x.toNat by omega]
      exact Nat.testBit_log2 h

/-- `ctzNat` counts the zero bits below the lowest one. -/
theorem ctzNat_spec : ∀ n v : Nat, ctzNat n v ≤ n ∧ (∀ i, i < ctzNat n v → v.testBit i = false)
    ∧ (ctzNat n v < n → v.testBit (ctzNat n v) = true)
  | 0, v => ⟨Nat.le_refl _, fun _ h => absurd h (Nat.not_lt_zero _), fun h => absurd h (Nat.lt_irrefl _)⟩
  | n + 1, v => by
    obtain ⟨hle, hlow, hone⟩ := ctzNat_spec n (v / 2)
    unfold ctzNat
    split
    · rename_i h
      exact ⟨by omega, fun _ h => absurd h (Nat.not_lt_zero _), fun _ => by simp [Nat.testBit_zero, h]⟩
    · rename_i h
      refine ⟨by omega, fun i hi => ?_, fun hlt => ?_⟩
      · cases i with
        | zero => simp [Nat.testBit_zero, h]
        | succ i => rw [Nat.testBit_succ]; exact hlow i (by omega)
      · rw [Nat.add_comm, Nat.testBit_succ]
        exact hone (by omega)

/-- `popNat` counts the one bits. -/
theorem popNat_eq : ∀ n v : Nat, popNat n v = ((List.range n).filter fun i => v.testBit i).length
  | 0, _ => rfl
  | n + 1, v => by
    have htail : ((List.range n).map Nat.succ).filter (fun i => v.testBit i)
        = ((List.range n).filter fun i => (v / 2).testBit i).map Nat.succ := by
      rw [List.filter_map]
      exact congrArg (List.map Nat.succ) (List.filter_congr fun i _ => Nat.testBit_succ v i)
    rw [List.range_succ_eq_map, List.filter_cons, htail, popNat, popNat_eq n (v / 2), Nat.testBit_zero]
    rcases Nat.mod_two_eq_zero_or_one v with h | h <;> simp [h, Nat.add_comm]

/-! ### Divisions (R112) -/

section
variable {a b : BitVec 64}

theorem div_by_zero (hb : b = 0) : aluDiv a b = 0xFFFFFFFFFFFFFFFF#64 ∧ aluDivu a b = 0xFFFFFFFFFFFFFFFF#64
    ∧ aluRem a b = a ∧ aluRemu a b = a :=
  ⟨if_pos hb, if_pos hb, if_pos hb, if_pos hb⟩

theorem div_by_nonzero (hb : b ≠ 0) : aluDiv a b = BitVec.ofInt 64 (a.toInt.tdiv b.toInt)
    ∧ aluDivu a b = BitVec.ofNat 64 (a.toNat / b.toNat) ∧ aluRem a b = BitVec.ofInt 64 (a.toInt.tmod b.toInt)
    ∧ aluRemu a b = BitVec.ofNat 64 (a.toNat % b.toNat) :=
  ⟨if_neg hb, if_neg hb, if_neg hb, if_neg hb⟩

/-- The one quotient that does not fit. -/
theorem div_overflow (ha : a = 0x8000000000000000#64) (hb : b = 0xFFFFFFFFFFFFFFFF#64) :
    aluDiv a b = 0x8000000000000000#64 ∧ aluRem a b = 0 := by
  subst ha hb
  decide

end

/-- Settles O2: the counts by `bvClz_spec`, `ctzNat_spec` and `popNat_eq`, the divisions by the cases of the table. -/
theorem sqBitCountsAndDivisions : Obligations.SqBitCountsAndDivisions := by
  refine ⟨fun s sd sa hs hf => ?_, fun s sd sa sb hs hf => ⟨fun hb => ?_, fun hb => ?_, fun ha hb => ?_⟩⟩
  · obtain ⟨hl, hlz, hlo⟩ := bvClz_spec (sGet s sa)
    obtain ⟨ht, htz, hto⟩ := ctzNat_spec 64 (sGet s sa).toNat
    exact ⟨bvClz (sGet s sa), ctzNat 64 (sGet s sa).toNat, popNat 64 (sGet s sa).toNat, run_sqWrite_onward hs hf,
      run_sqWrite_onward hs hf, run_sqWrite_onward hs hf, hl, hlz, hlo, ht, htz, hto, popNat_eq 64 _⟩
  · obtain ⟨hd, hdu, hr, hru⟩ := div_by_zero (a := sGet s sa) hb
    exact ⟨run_sqWrite_eq hs hf hd, run_sqWrite_eq hs hf hdu, run_sqWrite_eq hs hf hr, run_sqWrite_eq hs hf hru⟩
  · obtain ⟨hd, hdu, hr, hru⟩ := div_by_nonzero (a := sGet s sa) hb
    exact ⟨run_sqWrite_eq hs hf hd, run_sqWrite_eq hs hf hdu, run_sqWrite_eq hs hf hr, run_sqWrite_eq hs hf hru⟩
  · obtain ⟨hd, hr⟩ := div_overflow ha hb
    exact ⟨run_sqWrite_eq hs hf hd, run_sqWrite_eq hs hf hr⟩

/-! ### Immediate forms (R114, R115) -/

/-- `lui` moves the immediate up by 16 bits. -/
theorem shiftLeft_16 (x : BitVec 64) : x <<< 16 = BitVec.ofNat 64 (x.toNat * 2 ^ 16) := by
  apply BitVec.eq_of_toNat_eq
  simp [Nat.shiftLeft_eq]

/-- `orhi` joins two halves. -/
theorem orhi_halves (a x : BitVec 64) : (a.setWidth 32).setWidth 64 + (x <<< 32)
    = BitVec.ofNat 64 (a.toNat % 2 ^ 32 + x.toNat % 2 ^ 32 * 2 ^ 32) := by
  apply BitVec.eq_of_toNat_eq
  simp [Nat.shiftLeft_eq]
  omega

/-- Settles O3, each form by what it writes. -/
theorem sqImmediateFormsWriteTheirResult : Obligations.SqImmediateFormsWriteTheirResult := by
  intro s sd sa imm sh hs
  refine ⟨fun hf => ⟨run_sqWrite_onward hs hf, run_sqWrite_onward hs hf, run_sqWrite_onward hs hf, run_sqWrite_onward hs hf,
    run_sqWrite_eq hs hf (bit_slt _ _), run_sqWrite_eq hs hf (bit_ult _ _), run_sqWrite_eq hs hf (shiftLeft_16 _),
    run_sqWrite_eq hs hf (orhi_halves _ _)⟩,
    fun hf => ⟨run_sqWrite_onward hs hf, run_sqWrite_onward hs hf, run_sqWrite_onward hs hf⟩⟩

/-! ### What a word of SQ leaves (R106, R113) -/

/-- The running context, where the running stream is known. -/
theorem c_of_who {s t : State} (h : t.who = s.who) : t.c = t.ctx s.ck := congrArg (fun a : Agent => t.ctx (a.core * 4 + a.slot)) h

theorem ck_of_who {s t : State} (h : t.who = s.who) : t.ck = s.ck := congrArg (fun a : Agent => a.core * 4 + a.slot) h

theorem keepsForSq_refl (s : State) : s.keepsForSq s := ⟨rfl, fun _ _ => rfl, rfl, fun _ _ => rfl⟩

/-- A write of the registers that a word of SQ may change. -/
theorem keepsForSq_modRegs {s t : State} {f : Regs → Regs} (h : s.keepsForSq t)
    (hf : ∀ r q : Regs, ({ f r with s := q.s, streams := q.streams, pend := q.pend } : Regs)
      = { r with s := q.s, streams := q.streams, pend := q.pend })
    (hu : ∀ (c : Ctx) u, u ≠ .sq → ({ c with r := f c.r } : Ctx).stream u = c.stream u) : s.keepsForSq (t.modRegs s.ck f) := by
  obtain ⟨hw, hc, hr, hst⟩ := h
  have hx : (t.modRegs s.ck f).c = { t.c with r := f t.c.r } := by
    rw [c_of_who hw, c_of_who (t := t.modRegs s.ck f) hw, ctx_modRegs]
  refine ⟨hw, fun k hk => (ctx_modRegs_other t hk f).trans (hc k hk), ?_, fun u hu' => ?_⟩
  · rw [hx]
    exact (hf _ _).trans hr
  · rw [hx]
    exact (hu _ _ hu').trans (hst u hu')

theorem keepsForSq_sPut {s t : State} (h : s.keepsForSq t) (n : Nat) (v : BitVec 64) : s.keepsForSq (sPut s.ck n v t) := by
  unfold sPut
  split
  · exact h
  · exact keepsForSq_modRegs h (fun _ _ => rfl) fun _ _ _ => rfl

theorem keepsForSq_endUnit {s t : State} (h : s.keepsForSq t) (pc : Nat) : s.keepsForSq (endUnit s.ck .sq pc t) :=
  keepsForSq_modRegs h (fun _ _ => rfl) fun _ _ hu => regs_stream_modStream_other _ hu _

/-- A word of the opcodes 0x01 to 0x0B writes one register of SQ. -/
theorem exec_of_sqArith {i : Instr} {x : Bool} {s : State} (h : sqArith i = some x) (hs : s.calm) (hf : s.fits .sq x 0) :
    ∃ sd v, exec i s = s.onward .sq (sSet sd v s) := by
  cases i <;> cases h <;> exact ⟨_, _, run_sqWrite_onward hs hf⟩

/-- A write of an SQ register leaves what is no register of SQ. -/
theorem ctx_sPut (ck n : Nat) (v : BitVec 64) (s : State) :
    ∃ x, (sPut ck n v s).ctx ck = { s.ctx ck with r := { (s.ctx ck).r with s := x } } := by
  unfold sPut
  split
  · exact ⟨_, rfl⟩
  · exact ⟨_, ctx_modRegs _ _ _⟩

/-- Settles O4, from the one register that such a word writes. -/
theorem sqArithmeticRaisesNothing : Obligations.SqArithmeticRaisesNothing := by
  intro i x s h hs hf
  obtain ⟨sd, v, he⟩ := exec_of_sqArith h hs hf
  obtain ⟨y, hy⟩ := ctx_sPut s.ck sd v s
  have hk := keepsForSq_endUnit (keepsForSq_sPut (keepsForSq_refl s) sd v) (s.c.stream .sq).next
  have hc := (c_of_who hk.1).trans (endUnit_ctx s.ck .sq (s.c.stream .sq).next (sPut s.ck sd v s))
  rw [hy] at hc
  refine ⟨_, he, (congrArg flagsReg hk.2.2.1 :), hk, (congrArg Ctx.st hc :), (congrArg Ctx.halt hc :), ?_, ?_⟩
  · rw [settle_calm hs] <;> simp [sSet]
  · rw [settle_calm hs] <;> simp [sSet]

/-- Settles O5, from what a register reads after a write. -/
theorem sqRegisterZeroIsHardWired : Obligations.SqRegisterZeroIsHardWired :=
  fun s n v => ⟨rfl, rfl, fun hn h => ⟨(sGet_sSet_same n v s h).trans (if_neg hn), fun _ hk => sGet_sSet_other hk v s⟩⟩

/-! ### Branches (R134) -/

/-- A field of `n` bits, read as two's complement. -/
theorem signedOf_of_lt {n v : Nat} (h : v < 2 ^ n) :
    signedOf n v = if v < 2 ^ (n - 1) then (v : Int) else (v : Int) - 2 ^ n := by
  unfold signedOf
  rw [Nat.mod_eq_of_lt h]
  by_cases hv : v < 2 ^ (n - 1)
  · rw [if_neg (Nat.not_le.2 hv), if_pos hv]
  · rw [if_pos (Nat.not_lt.1 hv), if_neg hv]
    push_cast
    rfl

/-- The address after the running word, from the word's own. -/
theorem next_eq_at (st : Stream) : st.next = (st.at + 4) % 2 ^ 32 := by
  unfold Stream.next Stream.at
  omega

/-- The target of a branch with an offset of `n` bits. -/
theorem wordTarget_of_lt {n off : Nat} (h : off < 2 ^ n) (pc : Nat) : wordTarget pc n off
    = (((pc : Int) + 4 * (if off < 2 ^ (n - 1) then (off : Int) else (off : Int) - 2 ^ n)) % 2 ^ 32).toNat := by
  rw [wordTarget, signedOf_of_lt h]
  rfl

/-- A conditional branch goes where its condition says. -/
theorem run_sqBranch {cond : BitVec 64 → BitVec 64 → Bool} {p : Prop} [Decidable p] {s : State} {sa sb off : Nat}
    (hs : s.calm) (hf : s.fits .sq false 0) (hoff : off < 2 ^ 16) (h : cond (sGet s sa) (sGet s sb) = true ↔ p) :
    run (sqBranch cond sa sb off) s = s.goesTo .sq (if p then
      ((((s.c.stream .sq).at : Int) + 4 * (if off < 2 ^ 15 then (off : Int) else (off : Int) - 2 ^ 16)) % 2 ^ 32).toNat
      else ((s.c.stream .sq).at + 4) % 2 ^ 32) s := by
  rw [run_goesTo (f := sqBranch cond sa sb off) rfl hf (runOp_pure _ _) hs.2.2]
  congr 1
  rw [if_congr h rfl rfl, next_eq_at, wordTarget_of_lt hoff]

/-- Settles O16, each branch by its comparison. -/
theorem sqBranches : Obligations.SqBranches := by
  intro s sa sb off hs hf hoff
  refine ⟨run_sqBranch hs hf hoff ?_, run_sqBranch hs hf hoff ?_, run_sqBranch hs hf hoff ?_, run_sqBranch hs hf hoff ?_,
    run_sqBranch hs hf hoff ?_, run_sqBranch hs hf hoff ?_⟩
  all_goals simp [BitVec.slt, BitVec.ult]

end Sys2Proof.Machine

/-!
Words of SQ that read and write registers, wait, and branch (O14, O15, O17, O18, O19).
-/
namespace Sys2Proof.Machine
open Sys2Proof

/-! ### Control registers (R150 to R153) -/

theorem crWrite_stuck (ck : Nat) (u : StreamId) (csel v : Nat) (s : State) : (crWrite ck u csel v s).stuck = s.stuck := by
  unfold crWrite
  split <;> rfl

/-- A read of a control register. -/
theorem run_sqCrRd {s : State} (hs : s.calm) (hf : s.fits .sq false 0) (sd csel : Nat) :
    exec (.sqCrRd sd csel) s = s.onward .sq (sSet sd (crRead s .sq csel) s) :=
  run_onward rfl hf (runOp_upd _ _) ((sPut_stuck _ _ _ _).trans hs.2.2)

/-- A check, and then an update. -/
theorem runOp_failIf_upd_ok {b : Bool} (h : b = false) (c : Cause) (f : State → State) (s : State) :
    runOp (do failIf b c; upd f) s = (.ok (), f s) :=
  (runOp_bind_ok (runOp_failIf_ok h c s)).trans (runOp_upd f s)

theorem runOp_failIf_bad {α : Type} {b : Bool} (h : b = true) (c : Cause) (o : Op α) (s : State) :
    runOp (do failIf b c; o) s = (.error (.trap c 0 0 0 0), s) :=
  runOp_bind_error (by rw [runOp_failIf, if_pos h])

/-- A write of a control register: a legal value is stored, any other traps. -/
theorem run_sqCrWr {s : State} (hs : s.calm) (hf : s.fits .sq false 0) {sa csel : Nat} {ok : Prop}
    (hok : crBad csel (sGet s sa).toNat = false ↔ ok) :
    (ok → exec (.sqCrWr sa csel) s = s.onward .sq (crWrite s.ck .sq csel (sGet s sa).toNat s))
    ∧ (¬ ok → exec (.sqCrWr sa csel) s = s.traps .sq .crValue 0 0 s) := by
  dsimp only [exec, execSqCrWr]
  refine ⟨fun h => ?_, fun h => ?_⟩
  · exact run_onward rfl hf (runOp_failIf_upd_ok (hok.2 h) _ _ _) ((crWrite_stuck _ _ _ _ _).trans hs.2.2)
  · exact run_traps rfl hf (runOp_failIf_bad (Bool.eq_true_of_not_eq_false (mt hok.1 h)) _ _ _) hs.2.2

/-- Settles O18, from the reads and the values that `crBad` refuses. -/
theorem sqControlRegisters : Obligations.SqControlRegisters := by
  intro s sd sa hs hf
  refine ⟨run_sqCrRd hs hf sd 1, run_sqCrRd hs hf sd 2, run_sqCrRd hs hf sd 3, run_sqCrRd hs hf sd 4, run_sqCrRd hs hf sd 5,
    run_sqCrRd hs hf sd 6, run_sqCrRd hs hf sd 7, run_sqCrRd hs hf sd 8, run_sqCrRd hs hf sd 9, run_sqCrRd hs hf sd 10,
    run_sqCrWr hs hf ?_, run_sqCrWr hs hf ?_, run_sqCrWr hs hf ?_, run_sqCrWr hs hf ?_, run_sqCrWr hs hf ?_, run_sqCrWr hs hf ?_⟩
  · simp [crBad]
  · simp [crBad, rmodeBad]
  · simp [crBad, flushBad]
  · simp [crBad, nblBad]
  · simp only [crBad, flagsReserved, Bool.or_eq_false_iff, decide_eq_false_iff_not, not_not]
    refine and_congr_left' ?_
    omega
  · simp [crBad]

/-! ### `rinv` (R132) -/

/-- Settles O15, by the length of the range. -/
theorem sqRinvDropsItsRange : Obligations.SqRinvDropsItsRange := by
  intro s sa sb hs hf
  dsimp only [exec, execRinv]
  refine ⟨fun hn => ?_, fun hn ht => ?_, fun hn ht => ?_⟩
  · exact run_onward rfl hf (by rw [if_pos hn]; exact runOp_pure () s) hs.2.2
  · have hdrop (l : L1Line) : decide (l.flat < (sGet s sa).toNat / 128 ∨ ((sGet s sa).toNat + (sGet s sb).toNat - 1) / 128 < l.flat)
        = !decide ((sGet s sa).toNat / 128 ≤ l.flat ∧ l.flat ≤ ((sGet s sa).toNat + (sGet s sb).toNat - 1) / 128) := by
      rw [← decide_not, decide_eq_decide]
      omega
    simp only [hdrop]
    exact run_onward rfl hf (by rw [if_neg hn]; exact runOp_failIf_upd_ok (by simpa using ht) _ _ _) hs.2.2
  · exact run_traps rfl hf (by rw [if_neg hn]; exact runOp_failIf_bad (by simpa using ht) _ _ _) hs.2.2

/-! ### Timelines and barrier objects (R129 to R133) -/

section
variable {s : State} {ck off : Nat}

theorem runOp_trapLogged {α : Type} (ck : Nat) (c : Cause) (kind unit line auxf : Nat) (s : State) :
    runOp (trapLogged ck c kind unit line auxf : Op α) s
      = let e := errorLog (dieOf ck) kind unit (whoOf (coreOf ck) (ck % 4)) (s.ctx ck).linst.toNat line s
        (.error (.trap c 0 0 auxf e.1), e.2) := rfl

/-- R133: an aligned offset in the window. -/
theorem runOp_barCheck_ok (ha : off % 16 = 0) (hi : inWindow (s.ctx ck) 0 off 16 = true) :
    runOp (barCheck ck off) s = (.ok (), s) := by
  unfold barCheck
  rw [runOp_bind_ok (runOp_getS s), runOp_bind_ok (runOp_failIf_ok (by simpa using ha) _ _)]
  exact runOp_failIf_ok (by simp [hi]) _ _

theorem runOp_barCheck_misaligned (ha : off % 16 ≠ 0) : runOp (barCheck ck off) s = (.error (.trap .barAlign 0 0 0 0), s) := by
  unfold barCheck
  rw [runOp_bind_ok (runOp_getS s)]
  refine runOp_bind_error ?_
  rw [runOp_failIf, if_pos (by simpa using ha)]

theorem runOp_barCheck_outside (ha : off % 16 = 0) (hi : inWindow (s.ctx ck) 0 off 16 = false) :
    runOp (barCheck ck off) s = (.error (.trap .bufRange 0 0 0 0), s) := by
  unfold barCheck
  rw [runOp_bind_ok (runOp_getS s), runOp_bind_ok (runOp_failIf_ok (by simpa using ha) _ _), runOp_failIf,
    if_pos (by simp [hi])]

/-- R130: an object without a poisoned word. -/
theorem runOp_barRead_ok {unit : Nat} (hp : (winRead ck 0 off 16 s).2 = false) :
    runOp (barRead ck unit off) s = (.ok (winRead ck 0 off 16 s).1, s) := by
  unfold barRead
  rw [runOp_bind_ok (runOp_getS s)]
  dsimp only
  rw [hp]
  rfl

theorem runOp_barRead_poisoned {unit : Nat} (hp : (winRead ck 0 off 16 s).2 = true) :
    runOp (barRead ck unit off) s = runOp (trapLogged ck .memUe 0 unit 0 0) s := by
  unfold barRead
  rw [runOp_bind_ok (runOp_getS s)]
  dsimp only
  rw [hp, if_pos rfl, runOp_bind]
  rfl

/-- A stop of a check is the stop of a barrier word. -/
theorem runOp_bar_error {unit n : Nat} {x : Stop} {t : State} (h : runOp (barCheck ck off) s = (.error x, t)) :
    runOp (barInit ck unit off n) s = (.error x, t) ∧ runOp (barWait ck unit off) s = (.error x, t) :=
  ⟨runOp_bind_error h, runOp_bind_error h⟩

end

/-- A wait of SQ for a completion value. -/
theorem runOp_tlWait (tl v : Nat) (s : State) :
    runOp (do let s ← getS; if (s.timeline s.ck tl).done.toNat < v then waitFor (.tl tl v)) s
      = if (s.timeline s.ck tl).done.toNat < v then (.error (.wait (.tl tl v)), s) else (.ok (), s) := by
  rw [runOp_bind_ok (runOp_getS s)]
  split <;> rfl

/-- `barInit` at an object that it may write. -/
theorem runOp_barInit_ok {s : State} {ck unit off n : Nat} (ha : off % 16 = 0) (hi : inWindow (s.ctx ck) 0 off 16 = true)
    (hp : (winRead ck 0 off 16 s).2 = false) : runOp (barInit ck unit off n) s
      = (.ok (), winWrite ck 0 off 12 (n % 2 ^ 32 + ((winRead ck 0 off 16 s).1 / 2 ^ 64 + 1) % 2 ^ 32 * 2 ^ 64) s) := by
  unfold barInit
  rw [runOp_bind_ok (runOp_barCheck_ok ha hi), runOp_bind_ok (runOp_barRead_ok hp)]
  rfl

/-- `barWait` at an object that it may read: it waits while fewer bytes have arrived than are expected. -/
theorem runOp_barWait_ok {s : State} {ck unit off : Nat} (ha : off % 16 = 0) (hi : inWindow (s.ctx ck) 0 off 16 = true)
    (hp : (winRead ck 0 off 16 s).2 = false) : runOp (barWait ck unit off) s
      = if (winRead ck 0 off 16 s).1 / 2 ^ 32 % 2 ^ 32 < (winRead ck 0 off 16 s).1 % 2 ^ 32 then (.error (.wait (.bar off)), s)
        else (.ok ((winRead ck 0 off 16 s).1 / 2 ^ 64 % 2 ^ 32), s) := by
  unfold barWait
  rw [runOp_bind_ok (runOp_barCheck_ok ha hi), runOp_bind_ok (runOp_barRead_ok hp)]
  split <;> rfl

/-- Both barrier words stop with MEM_UE at a poisoned object (R448). -/
theorem runOp_bar_poisoned {s : State} {ck unit off n : Nat} (ha : off % 16 = 0) (hi : inWindow (s.ctx ck) 0 off 16 = true)
    (hp : (winRead ck 0 off 16 s).2 = true) :
    let e := errorLog (dieOf ck) 0 unit (whoOf (coreOf ck) (ck % 4)) (s.ctx ck).linst.toNat 0 s
    runOp (barInit ck unit off n) s = (.error (.trap .memUe 0 0 0 e.1), e.2)
      ∧ runOp (barWait ck unit off) s = (.error (.trap .memUe 0 0 0 e.1), e.2) := by
  have hr : runOp (barRead ck unit off) s = _ := (runOp_barRead_poisoned hp).trans (runOp_trapLogged ck .memUe 0 unit 0 0 s)
  unfold barInit barWait
  rw [runOp_bind_ok (runOp_barCheck_ok ha hi), runOp_bind_ok (runOp_barCheck_ok ha hi)]
  exact ⟨runOp_bind_error hr, runOp_bind_error hr⟩

/-- Settles O14: the timelines by what they hold, the barrier words by the checks of R133. -/
theorem sqTimelineAndBarrierWords : Obligations.SqTimelineAndBarrierWords := by
  refine ⟨fun s tl sa sd hs hf => ?_, fun s sa sb sd hs hf => ?_⟩
  · dsimp only [exec, execSqTlWait, execTlRd, execTlRdi, execTlErr]
    refine ⟨fun h => ?_, fun h => ?_, ?_, ?_, ?_⟩
    · have ho := runOp_tlWait tl (sGet s sa).toNat s
      rw [if_neg (Nat.not_lt.2 h)] at ho
      exact run_onward rfl hf ho hs.2.2
    · have ho := runOp_tlWait tl (sGet s sa).toNat s
      rw [if_pos h] at ho
      exact run_waits hs rfl hf ho
    · exact run_onward rfl hf (runOp_upd _ _) ((sPut_stuck _ _ _ _).trans hs.2.2)
    · exact run_onward rfl hf (runOp_upd _ _) ((sPut_stuck _ _ _ _).trans hs.2.2)
    · exact run_onward rfl hf (runOp_upd _ _) ((sPut_stuck _ _ _ _).trans hs.2.2)
  · dsimp only [exec, execSqBarInit, execSqBarWait, State.logsMemUe]
    refine ⟨fun ⟨ha, hi⟩ hp => ⟨?_, fun h => ?_, fun h => ?_⟩, fun ⟨ha, hi⟩ hp hn i hmem => ?_, fun ha => ⟨?_, ?_⟩,
      fun ha hi => ⟨?_, ?_⟩⟩
    · refine run_onward rfl hf ?_ hs.2.2
      rw [runOp_barInit_ok ha hi hp, Nat.mod_mod]
    · refine run_onward rfl hf ?_ ((sPut_stuck _ _ _ _).trans hs.2.2)
      rw [runOp_bind_ok ((runOp_barWait_ok ha hi hp).trans (if_neg (Nat.not_lt.2 h)))]
      rfl
    · exact run_waits hs rfl hf (runOp_bind_error ((runOp_barWait_ok ha hi hp).trans (if_pos h)))
    · obtain rfl | rfl : i = .sqBarInit sa sb ∨ i = .sqBarWait sa sd := by simpa using hmem
      · dsimp only [exec, execSqBarInit]
        exact run_stop_logged rfl hf (runOp_bar_poisoned ha hi hp).1 hn
      · dsimp only [exec, execSqBarWait]
        exact run_stop_logged rfl hf (runOp_bind_error (runOp_bar_poisoned (n := 0) ha hi hp).2) hn
    · exact run_traps rfl hf (runOp_bar_error (runOp_barCheck_misaligned ha)).1 hs.2.2
    · exact run_traps rfl hf (runOp_bind_error (runOp_bar_error (n := 0) (runOp_barCheck_misaligned ha)).2) hs.2.2
    · exact run_traps rfl hf (runOp_bar_error (runOp_barCheck_outside ha hi)).1 hs.2.2
    · exact run_traps rfl hf (runOp_bind_error (runOp_bar_error (n := 0) (runOp_barCheck_outside ha hi)).2) hs.2.2

end Sys2Proof.Machine

/-!
Jumps, loops and system words (O17, O19).
-/
namespace Sys2Proof.Machine
open Sys2Proof

/-! ### Jump tables (R136) -/

theorem ascending_iff_isChain : ∀ l : List Nat, ascending l = true ↔ l.IsChain (· < ·)
  | [] => by simp [ascending]
  | [_] => by simp [ascending]
  | a :: b :: r => by
    rw [ascending, Bool.and_eq_true, decide_eq_true_iff, ascending_iff_isChain (b :: r), List.isChain_cons_cons]

/-- A table whose entries `b` names is ascending when each is below the next. -/
theorem ascending_map_range (b : Nat → Nat) (n : Nat) :
    ascending ((List.range n).map b) = true ↔ ∀ j, j + 1 < n → b j < b (j + 1) := by
  rw [ascending_iff_isChain, List.isChain_iff_getElem]
  simp

/-- The first entry that covers a count. -/
theorem firstBucket_some {count j : Nat} : ∀ {l : List Nat} {j0 : Nat} (h : j < l.length), count ≤ l[j] →
    (∀ k (hk : k < j), l[k]'(by omega) < count) → firstBucket count j0 l = some (j0 + j)
  | [], _, h, _, _ => absurd h (Nat.not_lt_zero _)
  | b :: r, j0, h, hc, hb => by
    cases j with
    | zero => exact if_pos hc
    | succ j =>
      have hlt : ¬ count ≤ b := Nat.not_le.2 (hb 0 (Nat.succ_pos j))
      rw [firstBucket, if_neg hlt, firstBucket_some (l := r) (j := j) (Nat.lt_of_succ_lt_succ h) hc
        fun k hk => hb (k + 1) (Nat.succ_lt_succ hk)]
      congr 1
      omega

/-- No entry covers the count. -/
theorem firstBucket_none {count : Nat} : ∀ {l : List Nat} {j0 : Nat}, firstBucket count j0 l = none ↔ ∀ b ∈ l, b < count
  | [], _ => by simp [firstBucket]
  | b :: r, j0 => by
    by_cases h : count ≤ b
    · simp [firstBucket, h]
    · simp [firstBucket, h, firstBucket_none (l := r), Nat.not_le.1 h]

/-- The check of a table (R136), as it is written out. -/
theorem jtab_check {n h len : Nat} {b g : Nat → Nat} {t : Nat} :
    (decide (n = 0 ∨ 8 < n) || decide (h / 16 ≠ 0) || !ascending ((List.range n).map b)
      || ((List.range n).map g).any (fun x => decide (x % 4 ≠ 0)) || decide (4 * len < t + 8 * n + 4)) = false
    ↔ 1 ≤ n ∧ n ≤ 8 ∧ h / 16 = 0 ∧ (∀ j, j + 1 < n → b j < b (j + 1)) ∧ (∀ j, j < n → g j % 4 = 0) ∧ t + 8 * n + 4 ≤ 4 * len := by
  simp only [Bool.or_eq_false_iff, decide_eq_false_iff_not, Bool.not_eq_false', ascending_map_range, List.any_eq_false,
    List.mem_map, List.mem_range, decide_eq_true_iff, not_not, forall_exists_index, and_imp, forall_apply_eq_imp_iff₂]
  constructor
  · rintro ⟨⟨⟨⟨hn, hh⟩, hb⟩, hg⟩, hl⟩
    exact ⟨by omega, by omega, hh, hb, hg, by omega⟩
  · rintro ⟨h1, h8, hh, hb, hg, hl⟩
    exact ⟨⟨⟨⟨by omega, hh⟩, hb⟩, hg⟩, by omega⟩

/-- R136: whether a table stands at `t`. -/
def Stream.tableAt (st : Stream) (t : Nat) : Prop :=
  let n := st.fetch t % 16
  1 ≤ n ∧ n ≤ 8 ∧ st.fetch t / 16 = 0 ∧ (∀ j, j + 1 < n → st.fetch (t + 4 + 4 * j) < st.fetch (t + 4 + 4 * (j + 1)))
    ∧ (∀ j, j < n → st.fetch (t + 4 * n + 4 + 4 * j) % 4 = 0) ∧ t + 8 * n + 4 ≤ 4 * st.code.length

section
variable {s : State} {sd sa off t : Nat}

/-- `jtab` at a table goes by the first bucket that covers the count. -/
theorem run_jtab_some (hs : s.calm) (hf : s.fits .sq false 0) (ht : t = wordTarget (s.c.stream .sq).at 14 off)
    (hgood : (s.c.stream .sq).tableAt t) {j : Nat} (hj : j < (s.c.stream .sq).fetch t % 16)
    (hc : (sGet s sa).toNat ≤ (s.c.stream .sq).fetch (t + 4 + 4 * j))
    (hb : ∀ k, k < j → (s.c.stream .sq).fetch (t + 4 + 4 * k) < (sGet s sa).toNat) :
    exec (.jtab sd sa off) s = s.goesTo .sq ((s.c.stream .sq).fetch (t + 4 * ((s.c.stream .sq).fetch t % 16) + 4 + 4 * j))
      (sSet sd (BitVec.ofNat 64 j) s) := by
  subst ht
  dsimp only [exec, execJtab]
  refine run_goesTo rfl hf ?_ ((sPut_stuck _ _ _ _).trans hs.2.2)
  rw [runOp_bind_ok (runOp_failIf_ok (jtab_check.2 hgood) _ _),
    firstBucket_some (j := j) (by simpa using hj) (by simpa using hc) (by simpa using hb), Nat.zero_add]
  dsimp only
  rw [runOp_bind_ok (runOp_upd _ _), runOp_pure, List.getElem?_map, List.getElem?_range hj]
  rfl

/-- `jtab` at a table whose every bucket is below the count goes on. -/
theorem run_jtab_none (hs : s.calm) (hf : s.fits .sq false 0) (ht : t = wordTarget (s.c.stream .sq).at 14 off)
    (hgood : (s.c.stream .sq).tableAt t)
    (hb : ∀ j, j < (s.c.stream .sq).fetch t % 16 → (s.c.stream .sq).fetch (t + 4 + 4 * j) < (sGet s sa).toNat) :
    exec (.jtab sd sa off) s = s.onward .sq (sSet sd (BitVec.allOnes 64) s) := by
  subst ht
  dsimp only [exec, execJtab]
  refine run_goesTo rfl hf ?_ ((sPut_stuck _ _ _ _).trans hs.2.2)
  rw [runOp_bind_ok (runOp_failIf_ok (jtab_check.2 hgood) _ _), firstBucket_none.2 (by simpa using hb)]
  rfl

/-- `jtab` where no table stands traps. -/
theorem run_jtab_bad (hs : s.calm) (hf : s.fits .sq false 0) (ht : t = wordTarget (s.c.stream .sq).at 14 off)
    (hbad : ¬ (s.c.stream .sq).tableAt t) : exec (.jtab sd sa off) s = s.traps .sq .jtabFmt 0 0 s := by
  subst ht
  dsimp only [exec, execJtab]
  exact run_traps_step rfl hf (runOp_failIf_bad (Bool.eq_true_of_not_eq_false (mt jtab_check.1 hbad)) _ _ _) hs.2.2

/-- `jalr` links and goes to a word address; any other traps. -/
theorem run_jalr (hs : s.calm) (hf : s.fits .sq false 0) (ht : t = (sGet s sa + BitVec.ofInt 64 (signedOf 14 off)).toNat) :
    (t % 4 = 0 → t < 2 ^ 32 →
      exec (.jalr sd sa off) s = s.goesTo .sq t (sSet sd (BitVec.ofNat 64 ((s.c.stream .sq).at + 4)) s))
    ∧ (t % 4 ≠ 0 ∨ 2 ^ 32 ≤ t → exec (.jalr sd sa off) s = s.traps .sq .pcAlign 0 0 s) := by
  subst ht
  dsimp only [exec, execJalr]
  refine ⟨fun ha hb => run_goesTo rfl hf ?_ ((sPut_stuck _ _ _ _).trans hs.2.2),
    fun hbad => run_traps_step rfl hf (runOp_failIf_bad ?_ _ _ _) hs.2.2⟩
  · have hok := Bool.or_eq_false_iff.2 ⟨decide_eq_false (not_not.2 ha), decide_eq_false (Nat.not_le.2 hb)⟩
    rw [runOp_bind_ok (runOp_failIf_ok hok _ _), runOp_bind_ok (runOp_upd _ _)]
    rfl
  · rw [Bool.or_eq_true, decide_eq_true_iff, decide_eq_true_iff]
    exact hbad

/-- `jal` links and goes to its target. -/
theorem run_jal (hs : s.calm) (hf : s.fits .sq false 0) :
    exec (.jal sd off) s = s.goesTo .sq (wordTarget (s.c.stream .sq).at 19 off)
      (sSet sd (BitVec.ofNat 64 ((s.c.stream .sq).at + 4)) s) := by
  dsimp only [exec, execJal]
  exact run_goesTo rfl hf ((runOp_bind_ok (runOp_upd _ _)).trans (runOp_pure _ _)) ((sPut_stuck _ _ _ _).trans hs.2.2)

end

/-! ### Loop words (R137, R138) -/

/-- A write of a stream after a write of it. -/
theorem regs_modStream_modStream (r : Regs) (u : StreamId) (f g : Stream → Stream) :
    (r.modStream u f).modStream u g = r.modStream u (g ∘ f) := by
  simp [Regs.modStream]

/-- A stream that is outside level `lev`. -/
def Stream.outside (lev : Nat) (st : Stream) : Stream := { st with inside := vset st.inside lev false }

/-- What a write of a stream leaves of its context. -/
theorem modStream_leaves (s : State) (ck : Nat) (u : StreamId) (f : Stream → Stream) :
    ((s.modStream ck u f).ctx ck).r.cut = (s.ctx ck).r.cut
      ∧ ((s.modStream ck u f).ctx ck).r.takesPart = (s.ctx ck).r.takesPart
      ∧ ((s.modStream ck u f).ctx ck).st = (s.ctx ck).st := by
  rw [ctx_modStream]
  exact ⟨rfl, rfl, rfl⟩

theorem leaveLevel_uncut {ck : Nat} {u : StreamId} {lev : Nat} {s : State} (h : (s.ctx ck).cutAt u lev = false) :
    leaveLevel ck u lev s = s.modStream ck u (Stream.outside lev) := by
  obtain ⟨hcut, hpart, -⟩ := modStream_leaves s ck u (Stream.outside lev)
  rw [Ctx.cutAt, ← hcut, ← hpart] at h
  unfold leaveLevel
  change (match ((s.modStream ck u (Stream.outside lev)).ctx ck).r.cut with | some cut => _ | none => _) = _
  cases hc : ((s.modStream ck u (Stream.outside lev)).ctx ck).r.cut with
  | none => rfl
  | some x =>
    rw [hc] at h
    have hx : ¬ (x.lev = lev ∧ ((s.modStream ck u (Stream.outside lev)).ctx ck).r.takesPart lev u.code = true) := by simpa using h
    exact if_neg hx

theorem leaveLevel_cut {ck : Nat} {u : StreamId} {lev : Nat} {s : State} (h : (s.ctx ck).cutAt u lev = true)
    (hst : (s.ctx ck).st ≠ .run) : leaveLevel ck u lev s
      = (s.modStream ck u (Stream.outside lev)).modStream ck u fun st => { st with drained := true } := by
  obtain ⟨hcut, hpart, hrun⟩ := modStream_leaves s ck u (Stream.outside lev)
  obtain ⟨-, -, hrun'⟩ := modStream_leaves (s.modStream ck u (Stream.outside lev)) ck u fun st => { st with drained := true }
  rw [Ctx.cutAt, ← hcut, ← hpart] at h
  unfold leaveLevel
  change (match ((s.modStream ck u (Stream.outside lev)).ctx ck).r.cut with | some cut => _ | none => _) = _
  cases hc : ((s.modStream ck u (Stream.outside lev)).ctx ck).r.cut with
  | none => rw [hc] at h; cases h
  | some x =>
    rw [hc] at h
    have hx : x.lev = lev ∧ ((s.modStream ck u (Stream.outside lev)).ctx ck).r.takesPart lev u.code = true := by simpa using h
    refine (if_pos hx).trans (if_neg fun hr => hst ?_)
    rw [← hrun, ← hrun']
    exact hr.1

/-- A stream that has left a level: outside it, and drained where a cut stops it there (R280). A context that runs sets its loop
up again once all have drained (R401), which is left aside here. -/
theorem leaveLevel_ctx {ck : Nat} {u : StreamId} {lev : Nat} {s : State} (h : (s.ctx ck).cutAt u lev = true → (s.ctx ck).st ≠ .run) :
    (leaveLevel ck u lev s).ctx ck = { s.ctx ck with r := (s.ctx ck).r.modStream u fun st =>
      { st.outside lev with drained := st.drained || (s.ctx ck).cutAt u lev } } := by
  cases hc : (s.ctx ck).cutAt u lev with
  | false =>
    rw [leaveLevel_uncut hc, ctx_modStream]
    simp only [Bool.or_false]
    rfl
  | true =>
    rw [leaveLevel_cut hc (h hc), ctx_modStream, ctx_modStream, regs_modStream_modStream]
    simp only [Bool.or_true]
    rfl

/-- Leaving a level writes no memory. -/
theorem leaveLevel_fields (ck : Nat) (u : StreamId) (lev : Nat) (s : State) :
    (leaveLevel ck u lev s).who = s.who ∧ (leaveLevel ck u lev s).mem = s.mem ∧ (leaveLevel ck u lev s).buf = s.buf
      ∧ (leaveLevel ck u lev s).wbuf = s.wbuf ∧ (leaveLevel ck u lev s).bbuf = s.bbuf := by
  unfold leaveLevel
  dsimp only
  repeat' split
  all_goals exact ⟨rfl, rfl, rfl, rfl, rfl⟩

section
variable {s : State} {u : StreamId} {lev off : Nat}

theorem loopClose_taken {target : Nat}
    (h : (vget 0 (s.c.stream u).iter lev).toNat + 1 < (vget 0 s.c.r.lc lev).toNat + s.c.r.epi lev u.code) :
    loopClose s.ck u lev target s = (true, s.modStream s.ck u fun st =>
      { st with iter := vset st.iter lev (BitVec.ofNat 32 ((vget 0 (s.c.stream u).iter lev).toNat + 1))
                head := vset st.head lev target }) :=
  if_pos h

theorem loopClose_left {target : Nat}
    (h : (vget 0 s.c.r.lc lev).toNat + s.c.r.epi lev u.code ≤ (vget 0 (s.c.stream u).iter lev).toNat + 1) :
    loopClose s.ck u lev target s = (false, s.modStream s.ck u fun st => { st with iter := vset st.iter lev 0 }) :=
  if_neg (Nat.not_lt.2 h)

/-- An `lbr` that is taken goes to its target, which it names as the loop head. -/
theorem run_lbrWord_taken (hs : s.calm) (hf : s.fits u false 0) (hl : lev < s.c.r.levels.length)
    (h : (vget 0 (s.c.stream u).iter lev).toNat + 1 < (vget 0 s.c.r.lc lev).toNat + s.c.r.epi lev u.code) :
    run (lbrWord u lev off) s = s.goesTo u (wordTarget (s.c.stream u).at 16 off) (s.modStream s.ck u fun st =>
      { st with iter := vset st.iter lev (BitVec.ofNat 32 ((vget 0 (s.c.stream u).iter lev).toNat + 1))
                head := vset st.head lev (wordTarget (s.c.stream u).at 16 off) }) := by
  have hw : lbrWord u lev off s = endUnit s.ck u (wordTarget (s.c.stream u).at 16 off) (s.modStream s.ck u fun st =>
      { st with iter := vset st.iter lev (BitVec.ofNat 32 ((vget 0 (s.c.stream u).iter lev).toNat + 1))
                head := vset st.head lev (wordTarget (s.c.stream u).at 16 off) }) := by
    have hfit : (s.c.stream u).unfit false 0 = false := hf
    have hlev : s.c.r.hasLevel lev = true := decide_eq_true hl
    unfold lbrWord
    rw [hfit, hlev, if_neg Bool.false_ne_true, if_neg (by decide)]
    dsimp only
    rw [loopClose_taken h]
    rfl
  rw [run_next (by rw [hw]; exact hs.2.2), hw]
  rfl

/-- What an `lbr` that falls through makes of its stream. -/
def Stream.fallsThrough (lev : Nat) (w : Option Wait) (cut : Bool) (st : Stream) : Stream :=
  { ({ st.noPfx with iter := vset st.iter lev 0, pc := st.next, wait := w } : Stream).outside lev with drained := st.drained || cut }

/-- An `lbr` that is not taken leaves the level. -/
theorem run_lbrWord_left (hs : s.calm) (hf : s.fits u false 0) (hl : lev < s.c.r.levels.length)
    (h : (vget 0 s.c.r.lc lev).toNat + s.c.r.epi lev u.code ≤ (vget 0 (s.c.stream u).iter lev).toNat + 1)
    (hcut : s.c.cutAt u lev = true → s.c.st ≠ .run) :
    ∃ t w, run (lbrWord u lev off) s = .next t ∧ t.mem = s.mem ∧ t.buf = s.buf
      ∧ t.c = { s.c with r := s.c.r.modStream u (Stream.fallsThrough lev w (s.c.cutAt u lev)) } := by
  let y := endUnit s.ck u (s.c.stream u).next (s.modStream s.ck u fun st => { st with iter := vset st.iter lev 0 })
  have hw : lbrWord u lev off s = leaveLevel s.ck u lev y := by
    have hfit : (s.c.stream u).unfit false 0 = false := hf
    have hlev : s.c.r.hasLevel lev = true := decide_eq_true hl
    unfold lbrWord
    rw [hfit, hlev, if_neg Bool.false_ne_true, if_neg (by decide)]
    dsimp only
    rw [loopClose_left h]
    rfl
  have hy : y.ctx s.ck = { s.c with r := s.c.r.modStream u fun st => { ({ st with iter := vset st.iter lev 0 } : Stream).noPfx with
      pc := (s.c.stream u).next, wait := if u = .sq ∧ s.c.r.pend.isSome then some .resp else none } } := by
    rw [endUnit_ctx, ctx_modStream, regs_modStream_modStream]
    rfl
  have hc : (y.ctx s.ck).cutAt u lev = s.c.cutAt u lev := by
    rw [hy]
    rfl
  have hst : (y.ctx s.ck).st = s.c.st := (congrArg Ctx.st hy :)
  obtain ⟨hwho, hmem, hbuf, hwb, hbb⟩ := leaveLevel_fields s.ck u lev y
  refine ⟨_, if u = .sq ∧ s.c.r.pend.isSome then some .resp else none,
    run_next (by rw [hw, leaveLevel_stuck]; exact hs.2.2), ?_, ?_, ?_⟩
  · rw [hw, settle_calm hs hmem hbuf hwb hbb]
    exact hmem
  · rw [hw, settle_calm hs hmem hbuf hwb hbb]
    exact hbuf
  · rw [hw, settle_calm hs hmem hbuf hwb hbb, c_of_who (s := s) hwho,
      leaveLevel_ctx (by rw [hc, hst]; exact hcut), hc, hy, regs_modStream_modStream]
    simp only [Regs.modStream]
    rfl

/-- An `lbr` at a level that the loop table does not define. -/
theorem run_lbrWord_undefined (hs : s.calm) (hf : s.fits u false 0) (hl : s.c.r.levels.length ≤ lev) :
    run (lbrWord u lev off) s = s.traps u .loopLev 0 0 s := by
  have hfit : (s.c.stream u).unfit false 0 = false := hf
  have hlev : s.c.r.hasLevel lev = false := decide_eq_false (Nat.not_lt.2 hl)
  refine run_takeTrap hs ?_
  unfold lbrWord
  rw [hfit, hlev, if_neg Bool.false_ne_true, if_pos rfl]

/-- A word that reads a register of a level. -/
theorem run_levelRead {f g : State → State} (hs : s.calm) (hf : s.fits u false 0)
    (h : f s = unitNext u false 0 (do failIf (!s.c.r.hasLevel lev) .loopLev; upd g) s) (hg : (g s).stuck = none) :
    (lev < s.c.r.levels.length → run f s = s.onward u (g s))
    ∧ (s.c.r.levels.length ≤ lev → run f s = s.traps u .loopLev 0 0 s) := by
  refine ⟨fun hl => run_onward h hf (runOp_failIf_upd_ok ?_ _ _ _) hg, fun hl => run_traps h hf (runOp_failIf_bad ?_ _ _ _) hs.2.2⟩
  · simpa [Regs.hasLevel] using hl
  · simpa [Regs.hasLevel] using hl

end

theorem cSet_stuck (n : Nat) (v : BitVec 32) (s : State) : (cSet n v s).stuck = s.stuck := by
  unfold cSet
  split <;> rfl

/-- Settles O17: jumps and tables by their checks, the loop words of both kinds of stream by the level's counts. -/
theorem sqJumpsAndLoopWords : Obligations.SqJumpsAndLoopWords := by
  refine ⟨fun s sd sa off off14 hs hf hoff hoff14 => ?jumps, fun s u i rd it put d lev off hs hf hlev hoff hu => ?loops⟩
  case jumps =>
    have htab := (wordTarget_of_lt hoff14 (s.c.stream .sq).at).symm
    have hdest := congrArg (fun x => (sGet s sa + BitVec.ofInt 64 x).toNat) (signedOf_of_lt hoff14).symm
    obtain ⟨hgo, htrap⟩ := run_jalr (sd := sd) hs hf hdest
    refine ⟨(run_jal hs hf).trans ?_, hgo, htrap, fun hgood j hj hc hb => run_jtab_some hs hf htab hgood hj hc hb,
      fun hgood hb => run_jtab_none hs hf htab hgood hb, fun hbad => run_jtab_bad hs hf htab hbad⟩
    rw [wordTarget_of_lt hoff]
  case loops =>
    have htarget := wordTarget_of_lt hoff (s.c.stream u).at
    obtain ⟨hi, hrd, hit⟩ : exec i s = run (lbrWord u lev off) s
        ∧ ((lev < s.c.r.levels.length → exec rd s = s.onward u (put (vget 0 s.c.r.lc lev)))
          ∧ (s.c.r.levels.length ≤ lev → exec rd s = s.traps u .loopLev 0 0 s))
        ∧ ((lev < s.c.r.levels.length → exec it s = s.onward u (put (vget 0 (s.c.stream u).iter lev)))
          ∧ (s.c.r.levels.length ≤ lev → exec it s = s.traps u .loopLev 0 0 s)) := by
      obtain ⟨rfl, rfl, rfl, rfl, rfl⟩ | ⟨rfl, rfl, rfl, rfl, rfl⟩ := hu
      · dsimp only [exec, execSqLbr, execLcRd, execLcIt]
        exact ⟨rfl, run_levelRead hs hf rfl ((sPut_stuck _ _ _ _).trans hs.2.2),
          run_levelRead hs hf rfl ((sPut_stuck _ _ _ _).trans hs.2.2)⟩
      · dsimp only [exec, execXlsLbr, execCLc, execCIt]
        exact ⟨rfl, run_levelRead hs hf rfl ((cSet_stuck _ _ _).trans hs.2.2),
          run_levelRead hs hf rfl ((cSet_stuck _ _ _).trans hs.2.2)⟩
    refine ⟨fun hl => ⟨hrd.1 hl, hit.1 hl, fun h => ?_, fun h hcut => ?_⟩,
      fun hl => ⟨hi.trans (run_lbrWord_undefined hs hf hl), hrd.2 hl, hit.2 hl⟩⟩
    · rw [hi, run_lbrWord_taken hs hf hl h, htarget]
    · obtain ⟨t, w, ht, hmem, hbuf, hc⟩ := run_lbrWord_left (off := off) hs hf hl h hcut
      refine ⟨t, hi.trans ht, ?_, ?_, ?_, ?_, ?_, hmem, hbuf⟩
      · rw [hc, regs_stream_modStream]
        rfl
      · rw [hc, regs_stream_modStream]
        exact vget_vset_same _ _ hlev _
      · rw [hc, regs_stream_modStream]
        rfl
      · rw [hc, regs_stream_modStream]
        exact vget_vset_same _ _ hlev _
      · rw [hc]
        rfl

/-! ### System words (R154 to R156, R227, R270) -/

section
variable {s : State} {u : StreamId}

/-- A step depends on what its word makes of the state. -/
theorem run_congr {f g : State → State} (h : f s = g s) : run f s = run g s := by
  unfold run
  rw [h]

/-- SW_TRAP is taken after its word. -/
theorem run_trapWord (hs : s.calm) (hf : s.fits u false 0) (code : Nat) :
    run (trapWord u code) s = s.traps u .swTrap code 0 (endUnit s.ck u (s.c.stream u).next s) := by
  have hfit : (s.c.stream u).unfit false 0 = false := hf
  have h : trapWord u code s = takeTrap s.ck u .swTrap code 0 0 0 true (endUnit s.ck u (s.c.stream u).next s) := by
    unfold trapWord
    rw [hfit, if_neg Bool.false_ne_true]
    rfl
  rw [run_next (by rw [h, takeTrap_stuck]; exact hs.2.2), h]
  rfl

/-- What retirement leaves: the stream's place, the other streams and registers, and memory. -/
theorem retire_frame (s : State) (u : StreamId) : ((retire s.ck u s).c.stream u).retired = true
    ∧ ((retire s.ck u s).c.stream u).pc = (s.c.stream u).pc ∧ (∀ v, v ≠ u → (retire s.ck u s).c.stream v = s.c.stream v)
    ∧ { (retire s.ck u s).c.r with streams := s.c.r.streams } = s.c.r := by
  have hc : (retire s.ck u s).c = { s.c with r := s.c.r.modStream u fun st => { st.noPfx with retired := true, wait := none } } :=
    (c_of_who rfl).trans (ctx_modStream _ _ _ _)
  rw [hc, regs_stream_modStream]
  exact ⟨rfl, rfl, fun v hv => regs_stream_modStream_other _ hv _, rfl⟩

/-- `end` retires its stream once its work is done, and waits until then. -/
theorem run_endWord (hs : s.calm) (hf : s.fits u false 0) {done : Prop} (hd : s.c.r.workDone u = true ↔ done) :
    (done → ∃ t, run (endWord u) s = .next t ∧ (t.c.stream u).retired = true ∧ (t.c.stream u).pc = (s.c.stream u).pc
      ∧ (∀ v, v ≠ u → t.c.stream v = s.c.stream v) ∧ { t.c.r with streams := s.c.r.streams } = s.c.r ∧ t.mem = s.mem)
    ∧ (¬ done → run (endWord u) s = s.waits u .retire) := by
  have hfit : (s.c.stream u).unfit false 0 = false := hf
  refine ⟨fun h => ?_, fun h => ?_⟩
  · have he : endWord u s = retire s.ck u s := by
      unfold endWord
      rw [hfit, if_neg Bool.false_ne_true, if_pos (hd.2 h)]
    obtain ⟨hret, hpc, hother, hregs⟩ := retire_frame s u
    refine ⟨_, run_next (by rw [he]; exact hs.2.2), ?_⟩
    rw [he, settle_calm (t := retire s.ck u s) hs rfl rfl rfl rfl]
    exact ⟨hret, hpc, hother, hregs, rfl⟩
  · have he : endWord u s = blockOn s.ck u .retire s := by
      unfold endWord
      rw [hfit, if_neg Bool.false_ne_true, if_neg (mt hd.1 h)]
    rw [run_next (by rw [he]; exact hs.2.2), he, settle_calm (t := blockOn s.ck u .retire s) hs rfl rfl rfl rfl]
    rfl

/-- A word that waits, in a state that it leaves as it is. -/
theorem run_blockOn {f : State → State} {w : Wait} (hs : s.calm) (hf : f s = blockOn s.ck u w s) : run f s = s.waits u w := by
  rw [run_next (by rw [hf]; exact hs.2.2), hf, settle_calm (t := blockOn s.ck u w s) hs rfl rfl rfl rfl]
  rfl

theorem workDone_sq : s.c.r.workDone .sq = true
    ↔ (∀ l ∈ s.c.r.cxQ.toList, l = []) ∧ s.c.r.asg.queue = [] ∧ s.c.r.asg.run = none := by
  simp only [Regs.workDone, Bool.and_eq_true, List.all_eq_true, List.isEmpty_iff, Option.isNone_iff_eq_none, and_assoc]

theorem workDone_xu : s.c.r.workDone s.xu = true
    ↔ if s.xu = .xs then s.c.r.xsQ = [] ∧ s.c.r.coll = [] else s.c.r.xlQ = [] := by
  unfold State.xu
  split <;> simp [Regs.workDone]

theorem workDone_me : s.c.r.workDone .me = true ↔ s.c.me.drains = [] := List.isEmpty_iff

/-- A word of ME after which no step is in flight ends as any unit does. -/
theorem meNext_quiet {o : Op Unit} {t : State} (ho : runOp o s = (.ok (), t)) (hd : (t.ctx s.ck).me.drains = []) :
    meNext o s = endUnit s.ck .me (s.c.stream .me).next t := by
  have hd' : ((endUnit s.ck .me (s.c.stream .me).next t).ctx s.ck).me.drains = [] := by
    rw [endUnit_ctx]
    exact hd
  unfold meNext meWord
  rw [runOp_bind_ok ho, runOp_pure]
  dsimp only
  rw [hd']
  rfl

theorem run_meYield (hs : s.calm) (hd : s.c.me.drains = []) : exec .meYield s = s.onward .me (yieldSlot .me s) := by
  have hm : meNext (upd (yieldSlot .me)) s = endUnit s.ck .me (s.c.stream .me).next (yieldSlot .me s) := by
    refine meNext_quiet (runOp_upd _ _) ?_
    rw [yieldSlot, ctx_modStream]
    exact hd
  dsimp only [exec, execMeYield]
  rw [run_next (by rw [hm]; exact hs.2.2), hm]
  rfl

theorem run_meTrap (hs : s.calm) (hf : s.fits .me false 0) (code : Nat) :
    (s.c.me.drains = [] → exec (.meTrap code) s = s.traps .me .swTrap code 0 (endUnit s.ck .me (s.c.stream .me).next s))
    ∧ (s.c.me.drains ≠ [] → exec (.meTrap code) s = s.waits .me .drained) := by
  dsimp only [exec, execMeTrap]
  refine ⟨fun hd => ?_, fun hd => run_blockOn hs (if_pos hd)⟩
  rw [← run_trapWord hs hf code]
  exact run_congr (if_neg (not_not.2 hd))

theorem run_sqYield (hs : s.calm) (hf : s.fits .sq false 0) : exec .sqYield s = s.onward .sq (yieldSlot .sq s) :=
  run_onward rfl hf (runOp_upd _ _) hs.2.2

/-- `trap` of the transfer stream that runs. -/
theorem run_xlsTrap (hs : s.calm) (hf : s.fits s.xu false 0) (code : Nat) : exec (.xlsTrap code) s
    = s.traps s.xu .swTrap code 0 (endUnit s.ck s.xu (s.c.stream s.xu).next s) := by
  have h : execXlsTrap code s = run (trapWord s.xu code) s := run_congr (f := fun s => trapWord s.xu code s) rfl
  exact h.trans (run_trapWord hs hf code)

theorem run_xlsYield (hs : s.calm) (hf : s.fits s.xu false 0) : exec .xlsYield s = s.onward s.xu (yieldSlot s.xu s) :=
  run_onward rfl hf ((runOp_bind_ok (runOp_getS s)).trans (runOp_upd _ _)) hs.2.2

end

/-- Settles O19: `trap` after its word, `yield` by its mark, `end` by the work of its stream. -/
theorem systemWords : Obligations.SystemWords := by
  intro s code hs
  refine ⟨fun hf => ⟨run_trapWord hs hf code, run_sqYield hs hf, run_endWord hs hf workDone_sq⟩,
    fun hf => ⟨run_xlsTrap hs hf code, run_xlsYield hs hf, run_endWord hs hf workDone_xu⟩,
    fun hf hd => ⟨(run_meTrap hs hf code).1 hd, run_meYield hs hd, run_endWord hs hf (iff_true_intro (workDone_me.2 hd))⟩,
    fun hf hd => ⟨(run_meTrap hs hf code).2 hd, (run_endWord hs hf workDone_me).2 hd⟩⟩

end Sys2Proof.Machine

/-!
Loads and stores of SQ (O7, O8, O9): the flat address, and what a load or a store does when each of its parts succeeds.
-/
namespace Sys2Proof.Machine
open Sys2Proof

/-! ### Parts that rename a stop (R107, R397) -/

section
variable {α : Type} {o : Op α} {s t : State}

theorem runOp_tryCatch_ok {a : α} {h : Stop → Op α} (ho : runOp o s = (.ok a, t)) : runOp (tryCatch o h) s = (.ok a, t) := by
  unfold runOp at ho ⊢
  simp only [tryCatch, tryCatchThe, MonadExceptOf.tryCatch, ExceptT.tryCatch, ExceptT.run, ExceptT.mk, bind, StateT.bind, StateT.run] at ho ⊢
  rw [ho]
  rfl

theorem runOp_tryCatch_error {x : Stop} {h : Stop → Op α} (ho : runOp o s = (.error x, t)) :
    runOp (tryCatch o h) s = runOp (h x) t := by
  unfold runOp at ho ⊢
  simp only [tryCatch, tryCatchThe, MonadExceptOf.tryCatch, ExceptT.tryCatch, ExceptT.run, ExceptT.mk, bind, StateT.bind, StateT.run] at ho ⊢
  rw [ho]

/-- A part that succeeds names no address. -/
theorem runOp_atFaddr_ok {a : α} (x : Nat) (ho : runOp o s = (.ok a, t)) : runOp (atFaddr x o) s = (.ok a, t) :=
  runOp_tryCatch_ok ho

/-- A part that succeeds has no late trap. -/
theorem runOp_lateTrap_ok {a : α} (ho : runOp o s = (.ok a, t)) : runOp (lateTrap o) s = (.ok (some a), t) :=
  (runOp_bind_ok (runOp_getS s)).trans (runOp_tryCatch_ok ((runOp_bind_ok ho).trans (runOp_pure _ _)))

end

/-! ### Flat addresses (R116) -/

section
variable {base disp : BitVec 64} {n : Nat} {s : State}

theorem runOp_flatAddr_ok (hc : (base + disp).toNat / 2 ^ 44 = base.toNat / 2 ^ 44) (ha : (base + disp).toNat % n = 0) :
    runOp (flatAddr base.toNat disp.toNat n) s = (.ok (base + disp).toNat, s) := by
  rw [BitVec.toNat_add] at hc ha ⊢
  unfold flatAddr
  dsimp only
  rw [if_neg (not_not.2 hc), if_neg (not_not.2 ha), runOp_pure]

theorem runOp_flatAddr_carry (hc : (base + disp).toNat / 2 ^ 44 ≠ base.toNat / 2 ^ 44) :
    runOp (flatAddr base.toNat disp.toNat n) s = (.error (.trap .flatCarry 0 (base + disp).toNat 0 0), s) := by
  rw [BitVec.toNat_add] at hc ⊢
  unfold flatAddr
  dsimp only
  rw [if_pos hc, runOp_trapAt]

theorem runOp_flatAddr_misaligned (hc : (base + disp).toNat / 2 ^ 44 = base.toNat / 2 ^ 44) (ha : (base + disp).toNat % n ≠ 0) :
    runOp (flatAddr base.toNat disp.toNat n) s = (.error (.trap .misalign 0 (base + disp).toNat 0 0), s) := by
  rw [BitVec.toNat_add] at hc ha ⊢
  unfold flatAddr
  dsimp only
  rw [if_neg (not_not.2 hc), if_pos ha, runOp_trapAt]

/-- An address without a displacement carries nowhere. -/
theorem runOp_flatAddr_zero (ha : base.toNat % n = 0) : runOp (flatAddr base.toNat 0 n) s = (.ok base.toNat, s) := by
  have h := runOp_flatAddr_ok (base := base) (disp := 0) (n := n) (s := s) (by rw [add_zero]) (by rwa [add_zero])
  rwa [add_zero] at h

end

/-! ### Loads and stores (R118) -/

section
variable {s s1 s2 : State} {sd ty key v : Nat} {base disp : BitVec 64}

/-- A stop at the address is the stop of the load, and of the store. -/
theorem runOp_sqLoad_error {x : Stop} {t : State} (h : runOp (flatAddr base.toNat disp.toNat (tyBytes ty)) s = (.error x, t)) :
    runOp (sqLoad sd base disp ty) s = (.error x, t) ∧ runOp (sqStore sd base disp ty) s = (.error x, t) :=
  ⟨(runOp_bind_ok (runOp_getS s)).trans (runOp_bind_error h), (runOp_bind_ok (runOp_getS s)).trans (runOp_bind_error h)⟩

/-- A load in a turn that is not slow writes its value. -/
theorem runOp_sqLoad_ok (hslow : s.slow = false) (hc : (base + disp).toNat / 2 ^ 44 = base.toNat / 2 ^ 44)
    (ha : (base + disp).toNat % tyBytes ty = 0)
    (hk : runOp (flatKey (s.requester s.ck 0 0) (base + disp).toNat (tyBytes ty) 1) s = (.ok key, s1))
    (hl : runOp (loadAt s.ck (base + disp).toNat key (tyBytes ty) (s.c.stream .sq).accCls (s.c.stream .sq).accOrd
      (s.c.stream .sq).accScope) s1 = (.ok v, s2)) :
    runOp (sqLoad sd base disp ty) s = (.ok (), sPut s.ck sd (tyExtend ty v) s2) := by
  unfold sqLoad
  rw [runOp_bind_ok (runOp_getS s)]
  dsimp only
  rw [runOp_bind_ok (runOp_flatAddr_ok hc ha), runOp_bind_ok hk, hslow, if_neg Bool.false_ne_true]
  exact (runOp_bind_ok (runOp_atFaddr_ok _ hl)).trans (runOp_upd _ _)

/-- A load in a slow turn is in flight. -/
theorem runOp_sqLoad_slow (hslow : s.slow = true) (hc : (base + disp).toNat / 2 ^ 44 = base.toNat / 2 ^ 44)
    (ha : (base + disp).toNat % tyBytes ty = 0)
    (hk : runOp (flatKey (s.requester s.ck 0 0) (base + disp).toNat (tyBytes ty) 1) s = (.ok key, s1)) :
    runOp (sqLoad sd base disp ty) s = (.error (.wait .load), s1.modRegs s1.ck fun r => { r with
      pend := some (.load sd (base + disp).toNat (tyBytes ty) ty (s.c.stream .sq).accCls (s.c.stream .sq).accOrd
        (s.c.stream .sq).accScope) }) := by
  unfold sqLoad
  rw [runOp_bind_ok (runOp_getS s)]
  dsimp only
  rw [runOp_bind_ok (runOp_flatAddr_ok hc ha), runOp_bind_ok hk, hslow, if_pos rfl]
  exact (runOp_bind_ok (runOp_upd _ _)).trans (runOp_waitFor _ _)

/-- A store makes its access. -/
theorem runOp_sqStore_ok (hc : (base + disp).toNat / 2 ^ 44 = base.toNat / 2 ^ 44) (ha : (base + disp).toNat % tyBytes ty = 0)
    (hk : runOp (flatKey (s.requester s.ck 0 0) (base + disp).toNat (tyBytes ty) 2) s = (.ok key, s1))
    (hst : runOp (storeAt s.ck key (tyBytes ty) ((sGet s sd).toNat % 2 ^ (8 * tyBytes ty)) (s.c.stream .sq).accCls
      (s.c.stream .sq).accOrd (s.c.stream .sq).accScope) s1 = (.ok (), s2)) :
    runOp (sqStore sd base disp ty) s = (.ok (), s2) := by
  unfold sqStore
  rw [runOp_bind_ok (runOp_getS s)]
  dsimp only
  rw [runOp_bind_ok (runOp_flatAddr_ok hc ha), runOp_bind_ok hk, runOp_bind_ok (runOp_lateTrap_ok (runOp_atFaddr_ok _ hst))]
  rfl

end

/-- Settles O7: each form of load by the parts of `sqLoad`. -/
theorem sqLoadsWriteTheirValue : Obligations.SqLoadsWriteTheirValue := by
  intro s s1 s2 sd sa sb ty off key v hs
  dsimp only [exec, execLd, execLdx]
  refine ⟨fun hslow => ⟨fun hf ⟨⟨hc, ha, hk⟩, hl, hn⟩ => ?_, fun hf ⟨⟨hc, ha, hk⟩, hl, hn⟩ => ?_⟩,
    fun hslow hn => ⟨fun hf ⟨hc, ha, hk⟩ => ?_, fun hf ⟨hc, ha, hk⟩ => ?_⟩⟩
  · exact run_onward rfl hf (runOp_sqLoad_ok hslow hc ha hk hl) ((sPut_stuck _ _ _ _).trans hn)
  · exact run_onward rfl hf (runOp_sqLoad_ok hslow hc ha hk hl) ((sPut_stuck _ _ _ _).trans hn)
  · exact run_blocks rfl hf (runOp_sqLoad_slow hslow hc ha hk) hn
  · exact run_blocks rfl hf (runOp_sqLoad_slow hslow hc ha hk) hn

/-- Settles O8: each form of store by the parts of `sqStore`. -/
theorem sqStoresMakeTheirAccess : Obligations.SqStoresMakeTheirAccess := by
  intro s s1 s2 sv sa sb ty off key hs
  dsimp only [exec, execSt, execStx]
  refine ⟨fun hf ⟨hc, ha, hk, hst, hn⟩ => ?_, fun hf ⟨hc, ha, hk, hst, hn⟩ => ?_⟩
  · exact run_onward rfl hf (runOp_sqStore_ok hc ha hk hst) hn
  · exact run_onward rfl hf (runOp_sqStore_ok hc ha hk hst) hn

/-- An atomic stops at an address that is no multiple of its width. -/
theorem runOp_sqAmo_misaligned {s : State} (op sd sb ord sc : Nat) {sa w : Nat} (ha : (sGet s sa).toNat % (if w = 1 then 8 else 4) ≠ 0) :
    runOp (sqAmo op sd sa sb w ord sc) s = (.error (.trap .misalign 0 (sGet s sa).toNat 0 0), s) := by
  have h := runOp_flatAddr_misaligned (base := sGet s sa) (disp := 0) (n := if w = 1 then 8 else 4) (s := s)
    (by rw [add_zero]) (by rwa [add_zero])
  rw [add_zero] at h
  exact (runOp_bind_ok (runOp_getS s)).trans (runOp_bind_error h)

/-- Settles O9: the address is formed before anything else is done. -/
theorem sqBadAddressesTrap : Obligations.SqBadAddressesTrap := by
  intro s sd sa sb ty off w ord sc hs
  dsimp only [exec, execLd, execLdx, execSt, execStx]
  refine ⟨⟨fun hc => ?_, fun hc ha => ?_⟩, ⟨fun hc => ?_, fun hc ha => ?_⟩, fun hf ha i hi => ?_⟩
  · have h := runOp_sqLoad_error (sd := sd) (runOp_flatAddr_carry hc (n := tyBytes ty) (s := s))
    exact ⟨fun hf => run_traps rfl hf h.1 hs.2.2, fun hf => run_traps rfl hf h.2 hs.2.2⟩
  · have h := runOp_sqLoad_error (sd := sd) (runOp_flatAddr_misaligned hc ha (s := s))
    exact ⟨fun hf => run_traps rfl hf h.1 hs.2.2, fun hf => run_traps rfl hf h.2 hs.2.2⟩
  · have h := runOp_sqLoad_error (sd := sd) (runOp_flatAddr_carry hc (n := tyBytes ty) (s := s))
    exact ⟨fun hf => run_traps rfl hf h.1 hs.2.2, fun hf => run_traps rfl hf h.2 hs.2.2⟩
  · have h := runOp_sqLoad_error (sd := sd) (runOp_flatAddr_misaligned hc ha (s := s))
    exact ⟨fun hf => run_traps rfl hf h.1 hs.2.2, fun hf => run_traps rfl hf h.2 hs.2.2⟩
  · simp only [List.mem_cons, List.not_mem_nil, or_false] at hi
    rcases hi with rfl | rfl | rfl | rfl | rfl | rfl | rfl | rfl | rfl | rfl
    all_goals
      dsimp only [exec, execAmoAdd, execAmoAnd, execAmoOr, execAmoXor, execAmoMin, execAmoMax, execAmoMinu, execAmoMaxu,
        execAmoSwap, execAmoCas]
      exact run_traps rfl hf (runOp_sqAmo_misaligned _ _ _ _ _ ha) hs.2.2

end Sys2Proof.Machine

/-!
What an operation on the homes of memory leaves alone: a clean, a release and an acquire read and write memory, the dies, the partitions
and the package, and nothing else of the machine.
-/
namespace Sys2Proof.Machine
open Sys2Proof

/-! ### Operations on the homes of memory -/

/-- The machine `o` with the homes of memory as `s` has them: memory, its poison and its pending writes, the dies, the partitions, the
package's registers and the redirects that have come. -/
def State.withHomes (o s : State) : State :=
  { o with mem := s.mem, poison := s.poison, wbuf := s.wbuf, dies := s.dies, parts := s.parts, pkg := s.pkg, redirects := s.redirects }

/-- Every partition's active record and next instance are those of `s`. -/
def State.sameRecords (s t : State) : Prop :=
  ∀ p, (t.part p).active = (s.part p).active ∧ (t.part p).nextInst = (s.part p).nextInst

/-- An operation that neither reads nor writes what is no home of memory, and that leaves the partitions' records. -/
structure OnHomes (f : State → State) : Prop where
  comm : ∀ o s : State, f (o.withHomes s) = o.withHomes (f s)
  records : ∀ s : State, s.sameRecords (f s)

/-- One that leaves the dies too, as the cleaning of words does. -/
structure Cleans (f : State → State) : Prop extends OnHomes f where
  dies : ∀ s : State, (f s).dies = s.dies

theorem sameRecords_refl (s : State) : s.sameRecords s := fun _ => ⟨rfl, rfl⟩

theorem sameRecords_trans {s t u : State} (h : s.sameRecords t) (h' : t.sameRecords u) : s.sameRecords u :=
  fun p => ⟨(h' p).1.trans (h p).1, (h' p).2.trans (h p).2⟩

/-- What is no home of memory stays. -/
theorem OnHomes.rest {f : State → State} (hf : OnHomes f) (s : State) : f s = s.withHomes (f s) := hf.comm s s

section
variable {f g : State → State}

theorem OnHomes.comp (hf : OnHomes f) (hg : OnHomes g) : OnHomes fun s => f (g s) :=
  ⟨fun o s => (congrArg f (hg.comm o s)).trans (hf.comm o (g s)), fun s => sameRecords_trans (hg.records s) (hf.records (g s))⟩

/-- An operation with an operand that it reads at the homes. -/
theorem OnHomes.of_read {α : Type} {a : State → α} {g : α → State → State} (ha : ∀ o s : State, a (o.withHomes s) = a s)
    (hg : ∀ x, OnHomes (g x)) : OnHomes fun s => g (a s) s :=
  ⟨fun o s => (congrArg (fun x => g x (o.withHomes s)) (ha o s)).trans ((hg (a s)).comm o s), fun s => (hg (a s)).records s⟩

theorem Cleans.id : Cleans fun s => s := ⟨⟨fun _ _ => rfl, sameRecords_refl⟩, fun _ => rfl⟩

theorem Cleans.comp (hf : Cleans f) (hg : Cleans g) : Cleans fun s => f (g s) :=
  ⟨hf.toOnHomes.comp hg.toOnHomes, fun s => (hf.dies (g s)).trans (hg.dies s)⟩

theorem Cleans.of_read {α : Type} {a : State → α} {g : α → State → State} (ha : ∀ o s : State, a (o.withHomes s) = a s)
    (hg : ∀ x, Cleans (g x)) : Cleans fun s => g (a s) s :=
  ⟨OnHomes.of_read ha fun x => (hg x).toOnHomes, fun s => (hg (a s)).dies s⟩

/-- A choice that is made by what the homes hold. -/
theorem Cleans.ite {c : State → Prop} [∀ s, Decidable (c s)] (hc : ∀ o s : State, c (o.withHomes s) = c s) (hf : Cleans f) (hg : Cleans g) :
    Cleans fun s => if c s then f s else g s := by
  refine ⟨⟨fun o s => ?_, fun s => ?_⟩, fun s => ?_⟩
  · simp only [hc, hf.comm, hg.comm]
    split <;> rfl
  · split
    exacts [hf.records s, hg.records s]
  · split
    exacts [hf.dies s, hg.dies s]

theorem Cleans.foldl {α : Type} {f : State → α → State} (hf : ∀ a, Cleans fun s => f s a) : ∀ l : List α, Cleans fun s => l.foldl f s
  | [] => Cleans.id
  | a :: l => (Cleans.foldl hf l).comp (hf a)

end

/-! ### Words reach their homes (R436, R448) -/

theorem homeWrite_cleans (key n v : Nat) : Cleans (State.homeWrite key n v) :=
  Cleans.ite (c := fun s => s.channelOff key = true) (fun _ _ => rfl) Cleans.id ⟨⟨fun _ _ => rfl, sameRecords_refl⟩, fun _ => rfl⟩

theorem homePoison_cleans (key : Nat) : Cleans (State.homePoison key) := ⟨⟨fun _ _ => rfl, sameRecords_refl⟩, fun _ => rfl⟩

theorem homePut_cleans (key n v : Nat) (bad : Bool) : Cleans (State.homePut key n v bad) := by
  unfold State.homePut
  cases bad
  · exact homeWrite_cleans key n v
  · exact (homePoison_cleans key).comp (homeWrite_cleans key n v)

theorem modPkg_cleans (f : Pkg → Pkg) : Cleans (State.modPkg f) := ⟨⟨fun _ _ => rfl, sameRecords_refl⟩, fun _ => rfl⟩

theorem sendTo_cleans (pkg : Nat) (m : Msg) : Cleans (State.sendTo pkg m) :=
  Cleans.ite (c := fun s => (s.upPorts pkg).isEmpty = true) (fun _ _ => rfl) (modPkg_cleans _) (modPkg_cleans _)

/-- A partition that changes in its migration alone. -/
theorem modPart_ma_cleans (n : Nat) (f : Part → Ma) : Cleans (State.modPart n fun p => { p with ma := f p }) := by
  refine ⟨⟨fun _ _ => rfl, fun s p => ?_⟩, fun _ => rfl⟩
  by_cases hp : p = n
  · subst hp
    rw [part_modPart]
    exact ⟨rfl, rfl⟩
  · have h : (s.modPart n fun p => { p with ma := f p }).part p = s.part p := getAt_setAt_other _ hp _ _
    rw [h]
    exact ⟨rfl, rfl⟩

theorem startPull_cleans (part tensor tile at0 : Nat) : Cleans (startPull part tensor tile at0) := by
  have hpull (x : Ma × Nat) : Cleans fun s => ((s.homeWrite at0 16 (teSetState x.2 3)).modPart part fun p =>
      { p with ma := { p.ma with inFlight := (tensor, tile, false) :: p.ma.inFlight } }).sendTo
        x.1.ppkg.toNat (.pull x.1.ppkg.toNat x.1.ppart.toNat tensor tile) :=
    (sendTo_cleans _ _).comp ((modPart_ma_cleans _ _).comp (homeWrite_cleans _ _ _))
  exact Cleans.ite (c := fun s => (s.part part).ma.phase = .pulling ∧ teState (s.homeRead at0 16).1 = 2) (fun _ _ => rfl)
    (Cleans.of_read (a := fun s => ((s.part part).ma, (s.homeRead at0 16).1)) (fun _ _ => rfl) hpull) Cleans.id

theorem pullFrame_cleans (frame : Nat) : Cleans (pullFrame frame) := by
  refine Cleans.of_read (a := fun s => s.findTile frame) (g := fun x s => match x with
    | some x => startPull x.1 x.2.1.index x.2.2 (x.2.1.ttbase + 16 * x.2.2) s
    | none => s) (fun _ _ => rfl) fun x => ?_
  cases x with
  | none => exact Cleans.id
  | some x => exact startPull_cleans _ _ _ _

/-- A part that is changed where its key and its value say so. -/
theorem getAt_map_ite {α : Type} (d : α) (k : Nat) (c : Nat × α → Bool) (g : Nat × α → α) :
    ∀ l : List (Nat × α), getAt d k (l.map fun p => if c p then (p.1, g p) else p) = getAt d k l
      ∨ ∃ p ∈ l, getAt d k l = p.2 ∧ getAt d k (l.map fun p => if c p then (p.1, g p) else p) = g p
  | [] => .inl rfl
  | p :: l => by
    by_cases hk : p.1 = k
    · have hl : getAt d k (p :: l) = p.2 := if_pos hk
      rw [List.map_cons, hl]
      cases hc : c p with
      | true => exact .inr ⟨p, List.mem_cons_self, rfl, if_pos hk⟩
      | false => exact .inl (if_pos hk)
    · have hl : getAt d k (p :: l) = getAt d k l := if_neg hk
      have hkey : (if c p then (p.1, g p) else p).1 = p.1 := by split <;> rfl
      have hm : getAt d k ((p :: l).map fun p => if c p then (p.1, g p) else p)
          = getAt d k (l.map fun p => if c p then (p.1, g p) else p) := if_neg (hkey.trans_ne hk)
      rw [hl, hm]
      rcases getAt_map_ite d k c g l with h | ⟨q, hq, h⟩
      · exact .inl h
      · exact .inr ⟨q, List.mem_cons_of_mem _ hq, h⟩

theorem countRedirect_cleans (pkg frame : Nat) : Cleans (countRedirect pkg frame) := by
  refine ⟨⟨fun _ _ => rfl, fun s p => ?_⟩, fun _ => rfl⟩
  rcases getAt_map_ite ({} : Part) p _ _ s.parts with h | ⟨q, -, hq, h⟩
  · exact ⟨congrArg Part.active h, congrArg Part.nextInst h⟩
  · have hs : s.part p = q.2 := hq
    rw [hs]
    exact ⟨(congrArg Part.active h :), (congrArg Part.nextInst h :)⟩

/-- The write of a word that a home slice holds until its tile has moved (R436). -/
def holdWrite (key n v : Nat) (bad : Bool) : State → State :=
  State.modPkg fun p => { p with held := p.held ++ [{ frame := key / 65536, dma := false, req :=
    { pkg := p.num.toNat, core := 0, op := 1, aop := 0, addr := key, size := n, value := v, compare := 0
      poison := if bad then 1 else 0, sync := false, scope := 0 } }] }

/-- R436: the cases of a write that reaches its home, by the state of its frame. -/
theorem cleanWrite_eq (key n v : Nat) (bad : Bool) (s : State) :
    s.cleanWrite key n v bad = (fun m =>
      if mapMst m = 3 then
        if s.beyond (key / 65536) then holdWrite key n v bad s
        else countRedirect (mapPkg m) (mapFrame m) (s.homePut (s.movedKey m key) n v bad)
      else if mapMst m = 2 then holdWrite key n v bad s
      else if mapMst m = 4 then holdWrite key n v bad (pullFrame (key / 65536) s)
      else s.homePut key n v bad) (if homeKind key = 0 then s.frameState (key / 65536) else 0) := by
  unfold State.cleanWrite
  dsimp only
  generalize (if homeKind key = 0 then s.frameState (key / 65536) else 0) = m
  split
  next h => rw [h]; rfl
  next h => rw [h]; rfl
  next h => rw [h]; rfl
  next h3 h2 h4 => rw [if_neg h3, if_neg h2, if_neg h4]

theorem cleanWrite_cleans (key n v : Nat) (bad : Bool) : Cleans (State.cleanWrite key n v bad) := by
  have hhold : Cleans (holdWrite key n v bad) := modPkg_cleans _
  have hmoved (m : Nat) : Cleans fun s => countRedirect (mapPkg m) (mapFrame m) (s.homePut (s.movedKey m key) n v bad) :=
    (countRedirect_cleans _ _).comp (Cleans.of_read (a := fun s => s.movedKey m key) (fun _ _ => rfl) fun k => homePut_cleans k n v bad)
  have hcases (m : Nat) : Cleans fun s =>
      if mapMst m = 3 then
        if s.beyond (key / 65536) then holdWrite key n v bad s
        else countRedirect (mapPkg m) (mapFrame m) (s.homePut (s.movedKey m key) n v bad)
      else if mapMst m = 2 then holdWrite key n v bad s
      else if mapMst m = 4 then holdWrite key n v bad (pullFrame (key / 65536) s)
      else s.homePut key n v bad := by
    refine Cleans.ite (fun _ _ => rfl) (Cleans.ite (c := fun s => s.beyond (key / 65536) = true) (fun _ _ => rfl) hhold (hmoved m)) ?_
    refine Cleans.ite (fun _ _ => rfl) hhold (Cleans.ite (fun _ _ => rfl) (hhold.comp (pullFrame_cleans _)) (homePut_cleans _ _ _ _))
  have h := Cleans.of_read (a := fun s => if homeKind key = 0 then s.frameState (key / 65536) else 0) (fun _ _ => rfl) hcases
  have he : State.cleanWrite key n v bad = _ := funext (cleanWrite_eq key n v bad)
  rw [he]
  exact h

/-! ### Lines are cleaned and dropped (R314) -/

theorem cleanWords_cleans (l : L2Line) : ∀ n, Cleans (cleanWords l n)
  | 0 => Cleans.id
  | n + 1 => by
    have hn := cleanWords_cleans l n
    have hstep : Cleans fun s =>
        if l.dirty.getLsbD (2 * n) && l.dirty.getLsbD (2 * n + 1) then
          s.cleanWrite (l.line * 128 + 8 * n) 8 (lineBytes l.data (8 * n) 8) (l.poison.getLsbD n)
        else if l.dirty.getLsbD (2 * n) then s.cleanWrite (l.line * 128 + 8 * n) 4 (lineBytes l.data (8 * n) 4) (l.poison.getLsbD n)
        else if l.dirty.getLsbD (2 * n + 1) then
          s.cleanWrite (l.line * 128 + 8 * n + 4) 4 (lineBytes l.data (8 * n + 4) 4) (l.poison.getLsbD n)
        else s :=
      Cleans.ite (fun _ _ => rfl) (cleanWrite_cleans _ _ _ _) (Cleans.ite (fun _ _ => rfl) (cleanWrite_cleans _ _ _ _)
        (Cleans.ite (fun _ _ => rfl) (cleanWrite_cleans _ _ _ _) Cleans.id))
    exact hstep.comp hn

theorem followRedirect_cleans (line : Nat) : Cleans (followRedirect line) := ⟨⟨fun _ _ => rfl, sameRecords_refl⟩, fun _ => rfl⟩

theorem cleanLine_cleans (l : L2Line) : Cleans (cleanLine l) :=
  Cleans.ite (c := fun _ => l.dirty = 0) (fun _ _ => rfl) Cleans.id
    (Cleans.of_read (a := fun s => s.cleanAt l.line) (fun _ _ => rfl)
      fun x => (cleanWords_cleans { l with line := x } 16).comp (followRedirect_cleans l.line))

/-- The cleaning of the lines that `q` names. -/
theorem cleanLines_cleans (q : L2Line → Bool) (l : List L2Line) :
    Cleans fun s => l.foldl (fun s l => if q l then cleanLine l s else s) s :=
  Cleans.foldl (fun _ => Cleans.ite (fun _ _ => rfl) (cleanLine_cleans _) Cleans.id) l

theorem modDie_onHomes (n : Nat) (f : Die → Die) : OnHomes (State.modDie n f) := ⟨fun _ _ => rfl, sameRecords_refl⟩

theorem l2Clean_onHomes (die : Nat) (p : L2Line → Bool) : OnHomes (l2Clean die p) :=
  OnHomes.of_read (a := fun s => ((fun l => p l && !s.waitsRoute l : L2Line → Bool), (s.die die).l2)) (fun _ _ => rfl)
    (g := fun x s => (x.2.foldl (fun s l => if x.1 l then cleanLine l s else s) s).modDie die fun d =>
      { d with l2 := d.l2.map fun l => if x.1 l then { l with dirty := 0 } else l })
    fun x => (modDie_onHomes die _).comp (cleanLines_cleans x.1 x.2).toOnHomes

theorem l2Drop_onHomes (die : Nat) (p : L2Line → Bool) : OnHomes (l2Drop die p) :=
  OnHomes.of_read (a := fun s => ((fun l => p l && !s.waitsRoute l : L2Line → Bool), (s.die die).l2)) (fun _ _ => rfl)
    (g := fun x s => (x.2.foldl (fun s l => if x.1 l then cleanLine l s else s) s).modDie die fun d =>
      { d with l2 := d.l2.filter fun l => !x.1 l })
    fun x => (modDie_onHomes die _).comp (cleanLines_cleans x.1 x.2).toOnHomes

theorem release_onHomes (ck scope : Nat) (m : BitVec 16) : OnHomes (release ck scope m) := by
  unfold release
  split
  · exact Cleans.id.toOnHomes
  · exact l2Clean_onHomes _ _

/-- The lines of a die's L2 after a clean (R315). -/
theorem die_l2Clean (die : Nat) (p : L2Line → Bool) (s : State) : (l2Clean die p s).die die = { s.die die with
    l2 := (s.die die).l2.map fun l => if p l && !s.waitsRoute l then { l with dirty := 0 } else l } := by
  unfold l2Clean
  rw [die_modDie]
  unfold State.die
  rw [(cleanLines_cleans _ _).dies]

/-- The lines of a die's L2 after a drop (R316). -/
theorem die_l2Drop (die : Nat) (p : L2Line → Bool) (s : State) : (l2Drop die p s).die die = { s.die die with
    l2 := (s.die die).l2.filter fun l => !(p l && !s.waitsRoute l) } := by
  unfold l2Drop
  rw [die_modDie]
  unfold State.die
  rw [(cleanLines_cleans _ _).dies]

end Sys2Proof.Machine

/-!
The fences of SQ (O12): what a release and an acquire do to the caches, and the word that halts for want of a route.
-/
namespace Sys2Proof.Machine
open Sys2Proof

/-! ### The contexts stay -/

/-- The running stream, the schedule's turn and the contexts are those of `s`. -/
structure SameCtxs (s t : State) : Prop where
  who : t.who = s.who
  slow : t.slow = s.slow
  ctxs : t.ctxs = s.ctxs

/-- So are the partitions' records. -/
structure Keeps (s t : State) : Prop extends SameCtxs s t where
  records : s.sameRecords t

section
variable {s t u : State}

theorem Keeps.refl (s : State) : Keeps s s := ⟨⟨rfl, rfl, rfl⟩, sameRecords_refl s⟩

theorem SameCtxs.trans (h : SameCtxs s t) (h' : SameCtxs t u) : SameCtxs s u :=
  ⟨h'.who.trans h.who, h'.slow.trans h.slow, h'.ctxs.trans h.ctxs⟩

theorem Keeps.trans (h : Keeps s t) (h' : Keeps t u) : Keeps s u :=
  ⟨h.toSameCtxs.trans h'.toSameCtxs, sameRecords_trans h.records h'.records⟩

theorem SameCtxs.ctx (h : SameCtxs s t) (k : Nat) : t.ctx k = s.ctx k := congrArg (getAt ({} : Ctx) k) h.ctxs

theorem SameCtxs.ck (h : SameCtxs s t) : t.ck = s.ck := ck_of_who h.who

theorem SameCtxs.c (h : SameCtxs s t) : t.c = s.c := (c_of_who h.who).trans (h.ctx _)

theorem SameCtxs.keepsForSq (h : SameCtxs s t) : s.keepsForSq t :=
  ⟨h.who, fun k _ => h.ctx k, by rw [h.c], fun _ _ => by rw [h.c]⟩

theorem OnHomes.keeps {f : State → State} (hf : OnHomes f) (s : State) : Keeps s (f s) :=
  ⟨⟨(congrArg State.who (hf.rest s) :), (congrArg State.slow (hf.rest s) :), (congrArg State.ctxs (hf.rest s) :)⟩, hf.records s⟩

/-- An operation on the homes does not read the contexts. -/
theorem OnHomes.withCtxs {f : State → State} (hf : OnHomes f) (s : State) (x : List (Nat × Ctx)) :
    f { s with ctxs := x } = { f s with ctxs := x } :=
  (hf.comm { s with ctxs := x } s).trans (congrArg (fun t : State => { t with ctxs := x }) (hf.rest s)).symm

end

theorem keepsForSq_of_keeps {s t u : State} (h : s.keepsForSq t) (hk : SameCtxs t u) : s.keepsForSq u := by
  obtain ⟨hw, hc, hr, hst⟩ := h
  exact ⟨hk.who.trans hw, fun k hne => (hk.ctx k).trans (hc k hne), by rw [hk.c]; exact hr, fun u hu => by rw [hk.c]; exact hst u hu⟩

/-- What the end of a unit of SQ leaves. -/
theorem onward_keeps {s t : State} (h : s.keepsForSq t) (pc : Nat) :
    let x := settle s (endUnit s.ck .sq pc t)
    (x.c.stream .sq).pc = pc ∧ s.keepsForSq x ∧ (∀ k, sGet x k = sGet t k) ∧ x.c.r.pend = t.c.r.pend := by
  intro x
  have hw : (endUnit s.ck .sq pc t).who = s.who := h.1
  have hx : x.c = (endUnit s.ck .sq pc t).ctx s.ck := (c_of_who hw :)
  have ht : t.c = t.ctx s.ck := c_of_who h.1
  refine ⟨?_, keepsForSq_endUnit h pc, fun k => ?_, ?_⟩
  · rw [hx, endUnit_stream]
  · unfold sGet
    rw [hx, ht, endUnit_ctx]
    rfl
  · rw [hx, ht, endUnit_ctx]
    rfl

theorem release_near {scope : Nat} (h : scope < 2) (ck : Nat) (m : BitVec 16) (s : State) : release ck scope m s = s := if_pos h

/-! ### Acquires (R316) -/

theorem acquire_zero (ck : Nat) (m : BitVec 16) (s : State) : acquire ck 0 m s = s := rfl

/-- An acquire within the core or the die drops lines of the core's L1D. -/
theorem acquire_near {scope : Nat} (h0 : scope ≠ 0) (h2 : scope < 2) (ck : Nat) (m : BitVec 16) (s : State) :
    acquire ck scope m s = l1Drop (coreOf ck) (fun l => m.getLsbD l.cls) s := by
  unfold acquire
  rw [if_neg h0]
  exact if_pos h2

/-- An acquire at package scope and beyond drops lines of the die's L2 too. -/
theorem acquire_far {scope : Nat} (h2 : 2 ≤ scope) (ck : Nat) (m : BitVec 16) (s : State) :
    acquire ck scope m s = l2Drop (dieOf ck) (fun l => decide ((l.cmask &&& m) ≠ 0) && covers scope l.line)
      (l1Drop (coreOf ck) (fun l => m.getLsbD l.cls) s) := by
  unfold acquire
  rw [if_neg (by omega)]
  exact if_neg (by omega)

theorem scope_cases (scope : Nat) : scope = 0 ∨ scope ≠ 0 ∧ scope < 2 ∨ 2 ≤ scope := by omega

/-- An acquire does not read the contexts. -/
theorem acquire_withCtxs (ck scope : Nat) (m : BitVec 16) (s : State) (x : List (Nat × Ctx)) :
    acquire ck scope m { s with ctxs := x } = { acquire ck scope m s with ctxs := x } := by
  rcases scope_cases scope with rfl | ⟨h0, h2⟩ | h2
  · rfl
  · rw [acquire_near h0 h2, acquire_near h0 h2]
    rfl
  · rw [acquire_far h2, acquire_far h2]
    exact (l2Drop_onHomes _ _).withCtxs (l1Drop _ _ s) x

theorem acquire_keeps (ck scope : Nat) (m : BitVec 16) (s : State) : Keeps s (acquire ck scope m s) := by
  rcases scope_cases scope with rfl | ⟨h0, h2⟩ | h2
  · exact Keeps.refl s
  · rw [acquire_near h0 h2]
    exact ⟨⟨rfl, rfl, rfl⟩, sameRecords_refl s⟩
  · rw [acquire_far h2]
    exact Keeps.trans (t := l1Drop _ _ s) ⟨⟨rfl, rfl, rfl⟩, sameRecords_refl s⟩ ((l2Drop_onHomes _ _).keeps _)

/-- The L1D of the core after an acquire. -/
theorem core_acquire {scope : Nat} (h : 1 ≤ scope) (ck : Nat) (m : BitVec 16) (s : State) :
    ((acquire ck scope m s).core (coreOf ck)).l1 = (s.core (coreOf ck)).l1.filter fun l => !m.getLsbD l.cls := by
  have hd : (l1Drop (coreOf ck) (fun l => m.getLsbD l.cls) s).core (coreOf ck) = { s.core (coreOf ck) with
      l1 := (s.core (coreOf ck)).l1.filter fun l => !m.getLsbD l.cls } := core_modCore _ _ _
  rcases scope_cases scope with h0 | ⟨h0, h2⟩ | h2
  · omega
  · rw [acquire_near h0 h2, hd]
  · rw [acquire_far h2, (l2Drop_onHomes _ _).rest]
    exact congrArg Core.l1 hd

/-! ### The response of an instruction that has issued (R107) -/

theorem setAt_setAt {α : Type} (k : Nat) (v w : α) : ∀ l : List (Nat × α), setAt k v (setAt k w l) = setAt k v l
  | [] => by simp [setAt]
  | (j, x) :: l => by
    rcases Nat.lt_trichotomy k j with h | rfl | h
    · simp [setAt, h, Nat.ne_of_gt h]
    · simp [setAt]
    · simp [setAt, Nat.ne_of_lt h, Nat.not_lt.2 (Nat.le_of_lt h), setAt_setAt k v w l]

theorem modRegs_modRegs (s : State) (k : Nat) (f g : Regs → Regs) : (s.modRegs k f).modRegs k g = s.modRegs k fun r => g (f r) := by
  have h : (s.modRegs k f).ctx k = _ := ctx_modRegs s k f
  show ({ s with ctxs := setAt k { (s.modRegs k f).ctx k with r := g ((s.modRegs k f).ctx k).r } (setAt k _ s.ctxs) } : State) = _
  rw [setAt_setAt, h]
  rfl

/-- The register that a response writes; nothing is pending any more. -/
def collected (ck : Nat) (wr : Bool) (sd : Nat) (v : BitVec 64) (s : State) : State :=
  s.modRegs ck fun r => { r with s := if wr ∧ sd ≠ 0 then vset r.s sd v else r.s, pend := none }

/-- The effects of a response on the caches. -/
def respCaches (ck : Nat) (line : Option Nat) (m : BitVec 16) (scope : Option Nat) (s : State) : State :=
  let s := match line with | some l => l1Drop (coreOf ck) (fun x => x.line = l) s | none => s
  match scope with | some sc => acquire ck sc m s | none => s

theorem collectPend_resp {s : State} {ck sd : Nat} {wr : Bool} {v : BitVec 64} {line : Option Nat} {m : BitVec 16} {scope : Option Nat}
    (h : (s.ctx ck).r.pend = some (.resp wr sd v line m scope)) :
    collectPend ck s = respCaches ck line m scope (collected ck wr sd v s) := by
  unfold collectPend
  rw [h]
  rfl

/-- In a turn that is not slow, the effects of a word come with it. -/
theorem runOp_respond {s : State} (hslow : s.slow = false) (wr : Bool) (sd : Nat) (v : BitVec 64) (line : Option Nat) (m : BitVec 16)
    (scope : Option Nat) :
    runOp (respond wr sd v line m scope) s = (.ok (), respCaches s.ck line m scope (collected s.ck wr sd v s)) := by
  have hp : ((s.modRegs s.ck fun r => { r with pend := some (.resp wr sd v line m scope) }).ctx s.ck).r.pend
      = some (.resp wr sd v line m scope) := by rw [ctx_modRegs]
  have hc : collectPend s.ck (s.modRegs s.ck fun r => { r with pend := some (.resp wr sd v line m scope) })
      = respCaches s.ck line m scope (collected s.ck wr sd v s) := by
    rw [collectPend_resp hp, collected, modRegs_modRegs]
    rfl
  unfold respond
  refine (runOp_bind_ok (runOp_upd _ s)).trans ((runOp_bind_ok (runOp_getS _)).trans ?_)
  refine (congrArg (fun o => runOp o _) (if_neg (by show ¬ s.slow = true; rw [hslow]; decide))).trans ?_
  exact (runOp_upd _ _).trans (congrArg (Prod.mk _) hc)

/-! ### Routes (R444) -/

theorem runOp_needRoute_ok {s : State} {ck scope : Nat} {m : BitVec 16} (h : s.noRoute ck scope m = false) :
    runOp (needRoute ck scope m) s = (.ok (), s) := by
  unfold needRoute
  refine (runOp_bind_ok (runOp_getS s)).trans ?_
  rw [h]
  rfl

/-- What a context whose word finds no route waits for. -/
def routeHalt : Halted := { tensor := 0, access := 2, tile := 0, why := 4, posted := false }

/-- A stream whose word waits for a page. -/
def pageWait (st : Stream) : Stream := { st.noPfx with wait := some .page }

theorem runOp_needRoute_halt {s : State} {ck scope : Nat} {m : BitVec 16} (h : s.noRoute ck scope m = true) :
    runOp (needRoute ck scope m) s = (.error (.halt routeHalt), s) := by
  unfold needRoute
  refine (runOp_bind_ok (runOp_getS s)).trans ?_
  rw [h]
  rfl

/-- No redirect answers a line of this package. -/
theorem cleanAt_local {s : State} {line : Nat} (h : homeKind (line * 128) = 0) : s.cleanAt line = line := by
  have hlt : line * 128 < 2 ^ 56 := by
    by_contra hc
    unfold homeKind at h
    rw [if_neg hc] at h
    split at h <;> exact absurd h (by decide)
  have hnone : s.redirects.find? (·.ofLine line) = none := by
    refine List.find?_eq_none.2 fun r _ hr => ?_
    obtain ⟨-, hk⟩ := of_decide_eq_true hr
    unfold peerKey at hk
    omega
  unfold State.cleanAt
  rw [hnone]

/-- With a route for every line, no named line waits for one. -/
theorem waitsRoute_of_noRoute {s : State} {ck scope : Nat} {m : BitVec 16} (h : s.noRoute ck scope m = false) {l : L2Line}
    (hl : l ∈ (s.die (dieOf ck)).l2) (hp : (decide ((l.cmask &&& m) ≠ 0) && covers scope l.line) = true) : s.waitsRoute l = false := by
  by_cases h3 : 3 ≤ scope
  · unfold State.noRoute at h
    rw [decide_eq_true h3, Bool.true_and, List.any_eq_false] at h
    by_contra hw
    exact h l hl (by rw [hp, Bool.eq_true_of_not_eq_false hw]; rfl)
  · have hk : homeKind (l.line * 128) = 0 := by
      have hc := (Bool.and_eq_true_iff.1 hp).2
      rw [covers, decide_eq_true_eq] at hc
      omega
    have hr : s.reaches l.line = true := by
      unfold State.reaches
      dsimp only
      rw [cleanAt_local hk, hk]
      rfl
    rw [State.waitsRoute, hr]
    exact Bool.and_false _

/-- What a release leaves of the die's L2. -/
theorem clean_of_release {s : State} {ck scope : Nat} {m : BitVec 16} (h : s.noRoute ck scope m = false) (h2 : 2 ≤ scope)
    {l : L2Line} (hl : l ∈ ((release ck scope m s).die (dieOf ck)).l2) (hm : (l.cmask &&& m) ≠ 0) (hc : covers scope l.line = true) :
    l.dirty = 0 := by
  unfold release at hl
  rw [if_neg (by omega), die_l2Clean] at hl
  obtain ⟨x, hx, rfl⟩ := List.mem_map.1 hl
  split
  · rfl
  next hq =>
    rw [if_neg hq] at hm hc
    have hp : (decide ((x.cmask &&& m) ≠ 0) && covers scope x.line) = true := by rw [decide_eq_true hm, hc]; rfl
    rw [hp, waitsRoute_of_noRoute h hx hp] at hq
    exact absurd rfl hq

/-- What an acquire leaves of the die's L2. -/
theorem l2_of_acquire {s : State} {ck scope : Nat} {m : BitVec 16} (h : s.noRoute ck scope m = false) (h2 : 2 ≤ scope) :
    ((acquire ck scope m s).die (dieOf ck)).l2
      = (s.die (dieOf ck)).l2.filter fun l => !(decide ((l.cmask &&& m) ≠ 0) && covers scope l.line) := by
  rw [acquire_far h2, die_l2Drop]
  refine List.filter_congr fun l hl => congrArg _ ?_
  cases hp : decide ((l.cmask &&& m) ≠ 0) && covers scope l.line with
  | false => rfl
  | true =>
    have hw : (l1Drop (coreOf ck) (fun l => m.getLsbD l.cls) s).waitsRoute l = false := waitsRoute_of_noRoute h hl hp
    rw [hw]
    rfl

/-! ### The fences (R124) -/

section
variable {s : State} {scope : Nat} {m : BitVec 16}

/-- A word of SQ that finds no route halts, having done nothing. -/
theorem routeless_of_needRoute {i : Instr} {o : State → Unit → Op Unit} (hs : s.calm) (hfit : s.fits .sq false 0)
    (h : s.noRoute s.ck scope m = true)
    (hi : exec i s = run (fun s => unitNext .sq false 0 (needRoute s.ck scope m >>= o s) s) s) : s.routeless .sq i := by
  have hx := hi.trans (run_stopWord rfl hfit (runOp_bind_error (runOp_needRoute_halt h)) hs.2.2)
  have hc : ((blockOn s.ck .sq .page s).modCtx s.ck (Ctx.putHalt .sq routeHalt)).ctx s.ck
      = { s.ctx s.ck with r := (s.ctx s.ck).r.modStream .sq pageWait, sqHalt := some routeHalt } :=
    (ctx_modCtx _ _ _).trans (congrArg (Ctx.putHalt .sq routeHalt) (ctx_modStream s s.ck .sq pageWait))
  have hst := regs_stream_modStream { s.ctx s.ck with sqHalt := some routeHalt } .sq pageWait
  refine ⟨_, routeHalt, hx.trans (congrArg _ (settle_calm hs rfl rfl rfl rfl)), ?_, ?_, ?_, rfl, rfl, rfl, rfl, ?_⟩
  · exact (congrArg (fun c => (Ctx.stream c .sq).wait) hc).trans (congrArg Stream.wait hst :)
  · exact (congrArg (fun c => (Ctx.stream c .sq).pc) hc).trans (congrArg Stream.pc hst :)
  · exact congrArg Ctx.sqHalt hc
  · exact (congrArg (fun c : Ctx => c.r.s) hc :)

/-- What an acquire that comes with its fence leaves. -/
theorem acts_of_acquire {i : Instr} {t : State} (ht : SameCtxs s t)
    (hi : exec i s = s.onward .sq (acquire s.ck scope m (collected s.ck false 0 0 t))) :
    ∃ x, exec i s = .next x ∧ x.cores = (acquire s.ck scope m t).cores ∧ x.dies = (acquire s.ck scope m t).dies
      ∧ x.mem = (settle s (acquire s.ck scope m t)).mem ∧ x.pkg = (acquire s.ck scope m t).pkg
      ∧ (x.c.stream .sq).pc = (s.c.stream .sq).next ∧ s.keepsForSq x ∧ ∀ k, sGet x k = sGet s k := by
  have hr : acquire s.ck scope m (collected s.ck false 0 0 t)
      = { acquire s.ck scope m t with ctxs := (collected s.ck false 0 0 t).ctxs } :=
    acquire_withCtxs s.ck scope m t (collected s.ck false 0 0 t).ctxs
  have hk : s.keepsForSq (collected s.ck false 0 0 t) := keepsForSq_modRegs ht.keepsForSq (fun _ _ => rfl) fun _ _ _ => rfl
  have ha := acquire_keeps s.ck scope m (collected s.ck false 0 0 t)
  obtain ⟨hpc, hkeep, hreg, -⟩ := onward_keeps (keepsForSq_of_keeps hk ha.toSameCtxs) (s.c.stream .sq).next
  refine ⟨_, hi, (congrArg State.cores hr :), (congrArg State.dies hr :), (congrArg (fun y => (settle s y).mem) hr :),
    (congrArg State.pkg hr :), hpc, hkeep, fun k => (hreg k).trans ?_⟩
  have hc : (collected s.ck false 0 0 t).ctx s.ck = { t.ctx s.ck with r := { (t.ctx s.ck).r with pend := none } } := ctx_modRegs _ _ _
  unfold sGet
  rw [ha.c, c_of_who (t := collected s.ck false 0 0 t) ht.who, hc, ht.ctx]
  rfl

/-- `fence.rel` (R124, R315). -/
theorem run_fenceRel (hs : s.calm) (hf : s.fits .sq false 0) {mask : Nat} (h : s.noRoute s.ck scope (BitVec.ofNat 16 mask) = false) :
    exec (.fenceRel scope mask) s = s.onward .sq (release s.ck scope (BitVec.ofNat 16 mask) s) := by
  dsimp only [exec, execFenceRel]
  exact run_onward rfl hf ((runOp_bind_ok (runOp_needRoute_ok h)).trans (runOp_upd _ _)) ((release_stuck _ _ _ _).trans hs.2.2)

/-- `fence.acq` (R124, R316). -/
theorem run_fenceAcq (hs : s.calm) (hslow : s.slow = false) (hf : s.fits .sq false 0) {mask : Nat}
    (h : s.noRoute s.ck scope (BitVec.ofNat 16 mask) = false) :
    exec (.fenceAcq scope mask) s = s.onward .sq (acquire s.ck scope (BitVec.ofNat 16 mask) (collected s.ck false 0 0 s)) := by
  dsimp only [exec, execFenceAcq]
  exact run_onward rfl hf ((runOp_bind_ok (runOp_needRoute_ok h)).trans (runOp_respond hslow _ _ _ _ _ _))
    ((acquire_stuck _ _ _ _).trans hs.2.2)

/-- `fence.acqrel`: the release, then the acquire (R124). -/
theorem run_fenceAcqrel (hs : s.calm) (hslow : s.slow = false) (hf : s.fits .sq false 0) {mask : Nat}
    (h : s.noRoute s.ck scope (BitVec.ofNat 16 mask) = false) :
    exec (.fenceAcqrel scope mask) s = s.onward .sq (acquire s.ck scope (BitVec.ofNat 16 mask)
      (collected s.ck false 0 0 (release s.ck scope (BitVec.ofNat 16 mask) s))) := by
  have hk : Keeps s (release s.ck scope (BitVec.ofNat 16 mask) s) := (release_onHomes _ _ _).keeps s
  have ho := runOp_respond (hk.slow.trans hslow) false 0 0 none (BitVec.ofNat 16 mask) (some scope)
  rw [hk.ck] at ho
  dsimp only [exec, execFenceAcqrel]
  exact run_onward rfl hf ((runOp_bind_ok (runOp_needRoute_ok h)).trans ((runOp_bind_ok (runOp_upd _ _)).trans ho))
    ((acquire_stuck _ _ _ _).trans ((release_stuck _ _ _ _).trans hs.2.2))

/-- A fence whose lines have no route (R444). -/
theorem fences_routeless (hs : s.calm) (hf : s.fits .sq false 0) {mask : Nat}
    (h : s.noRoute s.ck scope (BitVec.ofNat 16 mask) = true) : s.routeless .sq (.fenceRel scope mask)
      ∧ s.routeless .sq (.fenceAcq scope mask) ∧ s.routeless .sq (.fenceAcqrel scope mask) := by
  refine ⟨routeless_of_needRoute (o := fun s _ => upd (release s.ck scope (BitVec.ofNat 16 mask))) hs hf h ?_,
    routeless_of_needRoute (o := fun _ _ => respond false 0 0 none (BitVec.ofNat 16 mask) (some scope)) hs hf h ?_,
    routeless_of_needRoute (o := fun s _ => do
      upd (release s.ck scope (BitVec.ofNat 16 mask))
      respond false 0 0 none (BitVec.ofNat 16 mask) (some scope)) hs hf h ?_⟩
  · dsimp only [exec, execFenceRel]
  · dsimp only [exec, execFenceAcq]
  · dsimp only [exec, execFenceAcqrel]

end

/-- Settles O12, by the lines that a release and an acquire name. -/
theorem sqFencesReleaseAndAcquire : Obligations.SqFencesReleaseAndAcquire := by
  refine ⟨fun s scope mask hs hslow hf => ⟨?_, fun h => ⟨run_fenceRel hs hf h, ?_, ?_⟩, fun h i hi => ?_⟩, fun s ck scope m h => ?_⟩
  · dsimp only [exec, execFenceC]
    exact run_onward rfl hf (runOp_pure () s) hs.2.2
  · exact acts_of_acquire (Keeps.refl s).toSameCtxs (run_fenceAcq hs hslow hf h)
  · exact acts_of_acquire ((release_onHomes _ _ _).keeps s).toSameCtxs (run_fenceAcqrel hs hslow hf h)
  · obtain ⟨hrel, hacq, hboth⟩ := fences_routeless hs hf h
    simp only [List.mem_cons, List.not_mem_nil, or_false] at hi
    obtain rfl | rfl | rfl := hi
    exacts [hrel, hacq, hboth]
  · refine ⟨fun h2 l hl hm hc => clean_of_release h h2 hl hm hc, fun h1 => core_acquire h1 ck m s, l2_of_acquire h,
      fun h2 => ⟨?_, release_near h2 ck m s⟩, fun h0 => by rw [h0, acquire_zero]⟩
    by_cases h0 : scope = 0
    · rw [h0, acquire_zero]
    · rw [acquire_near h0 h2]
      rfl

end Sys2Proof.Machine

/-!
The semaphore words of SQ (O13): counts, waits, and the status of a remote signal.
-/
namespace Sys2Proof.Machine
open Sys2Proof

/-! ### A word that answers in s[sd] -/

theorem ctx_collected (s : State) (ck : Nat) (wr : Bool) (sd : Nat) (v : BitVec 64) : (collected ck wr sd v s).ctx ck = { s.ctx ck with
    r := { (s.ctx ck).r with s := if wr ∧ sd ≠ 0 then vset (s.ctx ck).r.s sd v else (s.ctx ck).r.s, pend := none } } :=
  ctx_modRegs _ _ _

/-- The registers of SQ after such a word, whose other changes are those of `t`, and whose response has come. -/
theorem onward_answers {s t y : State} (hw : t.who = s.who) {sd : Nat} (hsd : sd < 32) (v : BitVec 64)
    (hy : SameCtxs (collected s.ck true sd v t) y) (pc : Nat) :
    let x := settle s (endUnit s.ck .sq pc y)
    (x.c.stream .sq).pc = pc ∧ sGet x sd = (if sd = 0 then 0 else v) ∧ (∀ k, k ≠ sd → sGet x k = sGet t k) ∧ x.c.r.pend = none := by
  intro x
  have hyw : (endUnit s.ck .sq pc y).who = s.who := hy.who.trans hw
  have hx : x.c = (endUnit s.ck .sq pc y).ctx s.ck := (c_of_who hyw :)
  have ht : t.c = t.ctx s.ck := c_of_who hw
  have hr : ((endUnit s.ck .sq pc y).ctx s.ck).r.s = if sd ≠ 0 then vset (t.ctx s.ck).r.s sd v else (t.ctx s.ck).r.s := by
    rw [endUnit_ctx, hy.ctx, ctx_collected]
    simp [Regs.modStream]
  refine ⟨?_, ?_, fun k hk => ?_, ?_⟩
  · rw [hx, endUnit_stream]
  · unfold sGet
    split
    · rfl
    next h => rw [hx, hr, if_pos h, vget_vset_same _ _ hsd]
  · unfold sGet
    split
    · rfl
    · rw [hx, ht, hr]
      split
      · exact vget_vset_other _ _ hk _
      · rfl
  · rw [hx, endUnit_ctx, hy.ctx, ctx_collected]
    rfl

/-- What the end of a unit and a response leave of the semaphores. -/
theorem sem_onward_collected (s t : State) (ck sd : Nat) (wr : Bool) (v : BitVec 64) (pc k : Nat) :
    ((settle s (endUnit ck .sq pc (collected ck wr sd v t))).ctx k).r.sem = (t.ctx k).r.sem := by
  by_cases hk : k = ck
  · subst hk
    exact (congrArg (fun c : Ctx => c.r.sem) ((endUnit_ctx _ _ _ _).trans (congrArg (fun c : Ctx => ({ c with r := c.r.modStream .sq _ } : Ctx)) (ctx_collected t k wr sd v))) :)
  · exact (congrArg (fun c : Ctx => c.r.sem) ((ctx_modStream_other _ hk _ _).trans (ctx_modRegs_other _ hk _)) :)

/-! ### Signals and waits (R24, R126) -/

theorem semSignal_lost {s : State} {ck n : Nat} (h : vget 0 (s.ctx ck).r.sem n = 0xFFFF#16) : semSignal ck n s = (true, s) := if_pos h

theorem semSignal_counts {s : State} {ck n : Nat} (h : vget 0 (s.ctx ck).r.sem n ≠ 0xFFFF#16) : semSignal ck n s
    = (false, s.modRegs ck fun r => { r with sem := vset r.sem n (vget 0 (s.ctx ck).r.sem n + 1) }) := if_neg h

/-- No stream comes before SQ in the service order. -/
theorem semFree_sq (s : State) (ck n : Nat) : s.semFree ck .sq n = decide (vget 0 (s.ctx ck).r.sem n ≠ 0) := by
  have h0 : s.semAhead ck .sq n = 0 := rfl
  rw [State.semFree, h0, State.semCount, decide_eq_decide, Nat.pos_iff_ne_zero]
  exact BitVec.toNat_ne_iff_ne (y := 0)

theorem signalWord_counts {u : StreamId} {n : Nat} {t : State} (hc : vget 0 (t.ctx t.ck).r.sem n ≠ 0xFFFF#16) :
    signalWord u n t = endUnit t.ck u (t.c.stream u).next
      (t.modRegs t.ck fun r => { r with sem := vset r.sem n (vget 0 (t.ctx t.ck).r.sem n + 1) }) := by
  unfold signalWord
  rw [semSignal_counts hc]
  rfl

theorem signalWord_lost {u : StreamId} {n : Nat} {t : State} (hc : vget 0 (t.ctx t.ck).r.sem n = 0xFFFF#16) :
    signalWord u n t = takeTrap t.ck u .semOverflow 0 0 0 0 true (endUnit t.ck u (t.c.stream u).next t) := by
  unfold signalWord
  rw [semSignal_lost hc]
  rfl

section
variable {s : State} {scope n : Nat}

/-- `sem.sig`: the release, then the signal (R126). -/
theorem run_sqSemSig {t : State} (hf : s.fits .sq false 0) (ht : signalWord .sq n (release s.ck scope allClasses s) = t)
    (hn : t.stuck = none) : exec (.sqSemSig scope n) s = .next (settle s t) := by
  dsimp only [exec, execSqSemSig]
  have hx : (if (s.c.stream .sq).unfit false 0 then takeTrap s.ck .sq .illPfx 0 0 0 0 true s
      else signalWord .sq n (release s.ck scope allClasses s)) = t := by
    rw [hf, ← ht]
    rfl
  rw [run_next (by rw [hx]; exact hn), hx]

theorem run_sqSemSig_counts (hs : s.calm) (hf : s.fits .sq false 0) (hc : vget 0 s.c.r.sem n ≠ 0xFFFF#16) :
    exec (.sqSemSig scope n) s = s.onward .sq ((release s.ck scope allClasses s).modRegs s.ck fun r =>
      { r with sem := vset r.sem n (vget 0 s.c.r.sem n + 1) }) := by
  have hk := (release_onHomes s.ck scope allClasses).keeps s
  have hg : signalWord .sq n (release s.ck scope allClasses s) = _ := signalWord_counts (by rw [hk.ck, hk.ctx]; exact hc)
  rw [hk.ck, hk.c, hk.ctx] at hg
  exact run_sqSemSig hf hg ((release_stuck _ _ _ _).trans hs.2.2)

theorem run_sqSemSig_lost (hs : s.calm) (hf : s.fits .sq false 0) (hc : vget 0 s.c.r.sem n = 0xFFFF#16) :
    exec (.sqSemSig scope n) s
      = s.traps .sq .semOverflow 0 0 (endUnit s.ck .sq (s.c.stream .sq).next (release s.ck scope allClasses s)) := by
  have hk := (release_onHomes s.ck scope allClasses).keeps s
  have hg : signalWord .sq n (release s.ck scope allClasses s) = _ := signalWord_lost (by rw [hk.ck, hk.ctx]; exact hc)
  rw [hk.ck, hk.c] at hg
  exact run_sqSemSig hf hg ((takeTrap_stuck ..).trans ((release_stuck _ _ _ _).trans hs.2.2))

/-- `sem.wait` at a count of 0. -/
theorem run_sqSemWait_waits (hs : s.calm) (hf : s.fits .sq false 0) (hc : vget 0 s.c.r.sem n = 0) :
    exec (.sqSemWait scope n) s = s.waits .sq (.sem n) := by
  have hfree : s.semFree s.ck .sq n = false := (semFree_sq s s.ck n).trans (decide_eq_false (not_not.2 hc))
  dsimp only [exec, execSqSemWait]
  refine run_waits hs rfl hf ((runOp_bind_ok (runOp_getS s)).trans ?_)
  rw [hfree]
  exact runOp_bind_error rfl

/-- `sem.wait` at a count that is not 0: it takes 1, and acquires. -/
theorem run_sqSemWait_takes (hs : s.calm) (hf : s.fits .sq false 0) (hc : vget 0 s.c.r.sem n ≠ 0) :
    exec (.sqSemWait scope n) s = s.onward .sq (acquire s.ck scope allClasses (semTake s.ck n s)) := by
  have hfree : s.semFree s.ck .sq n = true := (semFree_sq s s.ck n).trans (decide_eq_true hc)
  dsimp only [exec, execSqSemWait]
  refine run_onward rfl hf ((runOp_bind_ok (runOp_getS s)).trans ?_) ((acquire_stuck _ _ _ _).trans hs.2.2)
  rw [hfree]
  exact runOp_upd _ s

end

/-! ### The remote signal (R127) -/

/-- The operand of `sem.sigr` names a bound context of the sender's partition, under its instance. -/
def namesTarget (part v : Nat) (c : Ctx) : Prop :=
  v / 2 ^ 32 = 0 ∧ v / 2 ^ 11 % 32 = 0 ∧ v % 512 ≤ 383 ∧ c.st ≠ .free ∧ c.st ≠ .binding
    ∧ c.linst.toNat % 65536 = v / 65536 % 65536 ∧ c.bind.part = part

section
variable {part v n : Nat} {secure : Bool} {s : State}

theorem namesTarget_iff {c : Ctx} : namesTarget part v c ↔ ¬ (v / 2 ^ 32 ≠ 0 ∨ v / 2 ^ 11 % 32 ≠ 0 ∨ v % 512 > 383 ∨ c.bound = false
    ∨ c.linst.toNat % 65536 ≠ v / 65536 % 65536 ∨ c.bind.part ≠ part) := by
  have hb : c.bound = false ↔ ¬ (c.st ≠ .free ∧ c.st ≠ .binding) := by simp [Ctx.bound, imp_iff_not_or]
  rw [hb]
  unfold namesTarget
  simp only [not_or, not_not, not_lt]
  tauto

theorem deliverSignal_noTarget (h : ¬ namesTarget part v (s.ctx (v % 512 * 4 + v / 512 % 4))) : deliverSignal part secure v n s = (1, s) :=
  if_pos (not_not.1 (mt namesTarget_iff.2 h))

theorem deliverSignal_world (h : namesTarget part v (s.ctx (v % 512 * 4 + v / 512 % 4))) (hw : secure = false)
    (hc : (s.ctx (v % 512 * 4 + v / 512 % 4)).bind.secure = true) : deliverSignal part secure v n s = (3, s) :=
  (if_neg (namesTarget_iff.1 h)).trans (if_pos ⟨by rw [hw]; decide, hc⟩)

theorem deliverSignal_delivers (h : namesTarget part v (s.ctx (v % 512 * 4 + v / 512 % 4)))
    (hw : ¬ (secure = false ∧ (s.ctx (v % 512 * 4 + v / 512 % 4)).bind.secure = true)) : deliverSignal part secure v n s
      = ((if (semSignal (v % 512 * 4 + v / 512 % 4) n s).1 then 2 else 0), (semSignal (v % 512 * 4 + v / 512 % 4) n s).2) :=
  (if_neg (namesTarget_iff.1 h)).trans (if_neg fun hx => hw ⟨Bool.eq_false_of_not_eq_true hx.1, hx.2⟩)

/-- `sem.sigr`, by what the delivery of its signal answers and leaves. -/
theorem run_semSigr {sa sd st : Nat} {t : State} (hf : s.fits .sq false 0)
    (hd : deliverSignal s.c.bind.part s.c.bind.secure (sGet s sa).toNat n (release s.ck 2 allClasses s) = (st, t))
    (hw : t.who = s.who) (hts : t.slow = false) (hn : t.stuck = none) :
    exec (.semSigr sa sd n) s = s.onward .sq (collected s.ck true sd (BitVec.ofNat 64 st) t) := by
  have hk := (release_onHomes s.ck 2 allClasses).keeps s
  have hreg : sGet (release s.ck 2 allClasses s) sa = sGet s sa := by unfold sGet; rw [hk.c]
  have ho := runOp_respond hts true sd (BitVec.ofNat 64 st) none 0 none
  rw [ck_of_who hw] at ho
  dsimp only [exec, execSemSigr]
  refine run_onward rfl hf ((runOp_bind_ok (runOp_getS s)).trans ((runOp_bind_ok (runOp_upd _ s)).trans
    ((runOp_bind_ok (runOp_getS _)).trans ?_))) hn
  rw [hk.c, hreg, hd]
  exact (runOp_bind_ok (runOp_upd _ _)).trans ho

/-- What it leaves: the status in s[sd], the semaphores as the delivery left them, and the other registers. -/
theorem semSigr_leaves {sa sd st : Nat} {t : State} (hf : s.fits .sq false 0) (hsd : sd < 32)
    (hd : deliverSignal s.c.bind.part s.c.bind.secure (sGet s sa).toNat n (release s.ck 2 allClasses s) = (st, t))
    (hw : t.who = s.who) (hts : t.slow = false) (hn : t.stuck = none) (hr : (t.ctx s.ck).r.s = (s.ctx s.ck).r.s) :
    ∃ x, exec (.semSigr sa sd n) s = .next x ∧ (x.c.stream .sq).pc = (s.c.stream .sq).next
      ∧ (sd ≠ 0 → sGet x sd = BitVec.ofNat 64 st) ∧ (∀ k, (x.ctx k).r.sem = (t.ctx k).r.sem) ∧ ∀ k, k ≠ sd → sGet x k = sGet s k := by
  obtain ⟨hpc, hst, hreg, -⟩ := onward_answers hw hsd (BitVec.ofNat 64 st) (Keeps.refl _).toSameCtxs (s.c.stream .sq).next
  refine ⟨_, run_semSigr hf hd hw hts hn, hpc, fun h => by rw [hst, if_neg h], sem_onward_collected s t s.ck sd true _ _, fun k hk => ?_⟩
  rw [hreg k hk]
  unfold sGet
  rw [c_of_who hw, hr]
  rfl

end

/-- Settles O13, by the count, and by what the delivery answers. -/
theorem sqSemaphoreWords : Obligations.SqSemaphoreWords := by
  refine ⟨fun s scope n hs hf hn => ⟨run_sqSemSig_counts hs hf, run_sqSemSig_lost hs hf, run_sqSemWait_waits hs hf,
    run_sqSemWait_takes hs hf⟩, fun s sa sd n hs hslow hf hsd hn => ?_⟩
  intro rel v ck c target world
  have hk : Keeps s rel := (release_onHomes s.ck 2 allClasses).keeps s
  have hstuck : rel.stuck = none := (release_stuck _ _ _ _).trans hs.2.2
  have hrel {st : Nat} (hd : deliverSignal s.c.bind.part s.c.bind.secure v n rel = (st, rel)) :=
    semSigr_leaves hf hsd hd hk.who (hk.slow.trans hslow) hstuck (by rw [hk.ctx])
  by_cases ht : target
  · by_cases hw : world
    · obtain ⟨x, hx, hpc, hst, hsem, hreg⟩ := hrel (deliverSignal_world ht hw.1 hw.2)
      exact ⟨x, hx, hpc, fun h => absurd ht h, fun _ _ => ⟨hst, by rw [hsem]⟩, fun _ h => absurd hw h, fun _ h => absurd hw h, hreg⟩
    · have hd := deliverSignal_delivers (n := n) ht hw
      by_cases hc : vget 0 c.r.sem n = 0xFFFF#16
      · rw [semSignal_lost hc] at hd
        obtain ⟨x, hx, hpc, hst, hsem, hreg⟩ := hrel hd
        exact ⟨x, hx, hpc, fun h => absurd ht h, fun _ h => absurd h hw, fun _ _ _ => ⟨hst, by rw [hsem]; exact hc⟩,
          fun _ _ h => absurd hc h, hreg⟩
      · rw [semSignal_counts hc] at hd
        have hr : ((rel.modRegs ck fun r => { r with sem := vset r.sem n (vget 0 (rel.ctx ck).r.sem n + 1) }).ctx s.ck).r.s
            = (s.ctx s.ck).r.s := by
          rw [← hk.ctx s.ck]
          by_cases hck : s.ck = ck
          · rw [hck, ctx_modRegs]
          · rw [ctx_modRegs_other _ hck]
        obtain ⟨x, hx, hpc, hst, hsem, hreg⟩ := semSigr_leaves hf hsd hd hk.who (hk.slow.trans hslow) hstuck hr
        refine ⟨x, hx, hpc, fun h => absurd ht h, fun _ h => absurd h hw, fun _ _ h => absurd h hc, fun _ _ _ => ⟨hst, ?_⟩, hreg⟩
        rw [hsem, ctx_modRegs]
        exact vget_vset_same _ _ hn _
  · obtain ⟨x, hx, hpc, hst, hsem, hreg⟩ := hrel (deliverSignal_noTarget ht)
    exact ⟨x, hx, hpc, fun _ => ⟨hst, by rw [hsem]⟩, fun h => absurd h ht, fun h => absurd h ht, fun h => absurd h ht, hreg⟩

end Sys2Proof.Machine

/-!
What an access leaves: an operation on memory leaves the contexts and the partitions' records, and the one that translates an address
does not read what a frame on the move makes its step wait for.
-/
namespace Sys2Proof.Machine
open Sys2Proof

/-! ### Parts of a word that leave the contexts -/

section
variable {α β : Type} {s : State}

/-- A part that is run from a state leaves the contexts, whether it stops or not. -/
def KeepsAt (o : Op α) (s : State) : Prop := Keeps s (runOp o s).2

theorem keepsAt_pure (a : α) (s : State) : KeepsAt (pure a) s := Keeps.refl s

theorem keepsAt_throw (x : Stop) (s : State) : KeepsAt (throw x : Op α) s := Keeps.refl s

theorem keepsAt_upd {f : State → State} (h : Keeps s (f s)) : KeepsAt (upd f) s := h

theorem keepsAt_getS {f : State → Op α} (h : KeepsAt (f s) s) : KeepsAt (getS >>= f) s := h

theorem keepsAt_bind {o : Op α} {f : α → Op β} (ho : KeepsAt o s) (hf : ∀ a t, Keeps s t → KeepsAt (f a) t) :
    KeepsAt (o >>= f) s := by
  unfold KeepsAt at ho ⊢
  rw [runOp_bind]
  rcases h : runOp o s with ⟨_ | a, t⟩
  · rw [h] at ho
    exact ho
  · rw [h] at ho
    exact ho.trans (hf a t ho)

theorem keepsAt_upd_bind {g : State → State} {f : Unit → Op α} (hg : Keeps s (g s)) (hf : KeepsAt (f ()) (g s)) :
    KeepsAt (upd g >>= f) s := hg.trans hf

theorem keepsAt_ite {c : Prop} [Decidable c] {o p : Op α} (ho : c → KeepsAt o s) (hp : ¬ c → KeepsAt p s) :
    KeepsAt (if c then o else p) s := by
  split
  next h => exact ho h
  next h => exact hp h

theorem keepsAt_failIf (b : Bool) (c : Cause) (s : State) : KeepsAt (failIf b c) s := by
  cases b
  · exact Keeps.refl s
  · exact Keeps.refl s

theorem keepsAt_tryCatch {o : Op α} {h : Stop → Op α} (ho : KeepsAt o s) (hh : ∀ x t, KeepsAt (h x) t) :
    KeepsAt (tryCatch o h) s := by
  have ho' : Keeps s (runOp o s).2 := ho
  unfold KeepsAt
  rcases hx : runOp o s with ⟨x | a, t⟩
  · rw [hx] at ho'
    rw [runOp_tryCatch_error hx]
    exact ho'.trans (hh x t)
  · rw [hx] at ho'
    rw [runOp_tryCatch_ok hx]
    exact ho'

theorem keepsAt_atFaddr {o : Op α} (ho : KeepsAt o s) (a : Nat) : KeepsAt (atFaddr a o) s := by
  refine keepsAt_tryCatch ho fun x t => ?_
  cases x with
  | trap c code fa auxf elog => exact Keeps.refl t
  | halt h => exact Keeps.refl t
  | wait w => exact Keeps.refl t

theorem KeepsAt.of_ok {o : Op α} {t : State} {a : α} (h : KeepsAt o s) (ho : runOp o s = (.ok a, t)) : Keeps s t := by
  have hk : Keeps s (runOp o s).2 := h
  rw [ho] at hk
  exact hk

end

/-! ### What the shared actions leave -/

section
variable (s : State)

theorem stop_keeps (f : Fault) : Keeps s (s.stop f) := ⟨⟨rfl, rfl, rfl⟩, sameRecords_refl s⟩

theorem await_keeps (a : Nat) : Keeps s (s.await a) := by
  unfold State.await
  dsimp only
  split
  · exact ⟨⟨rfl, rfl, rfl⟩, sameRecords_refl s⟩
  · exact Keeps.refl s

theorem awaitKey_keeps (k : Nat) : Keeps s (s.awaitKey k) := by
  unfold State.awaitKey
  split
  · exact await_keeps s k
  · exact Keeps.refl s

theorem physRead_keeps (a n : Nat) : Keeps s (physRead a n s).2.2 := by
  unfold physRead
  split
  · exact await_keeps s a
  · exact stop_keeps s _

theorem physWrite_keeps (a n v : Nat) : Keeps s (physWrite a n v s) := by
  unfold physWrite
  split
  · exact (cleanWrite_cleans a n v false).keeps s
  · exact stop_keeps s _

theorem modDie_keeps (n : Nat) (f : Die → Die) : Keeps s (s.modDie n f) := ⟨⟨rfl, rfl, rfl⟩, sameRecords_refl s⟩

theorem modCore_keeps (n : Nat) (f : Core → Core) : Keeps s (s.modCore n f) := ⟨⟨rfl, rfl, rfl⟩, sameRecords_refl s⟩

theorem errorLog_keeps (die kind unit who linst line : Nat) : Keeps s (errorLog die kind unit who linst line s).2 := by
  unfold errorLog
  dsimp only
  split
  · exact ⟨⟨rfl, rfl, rfl⟩, sameRecords_refl s⟩
  · exact (physWrite_keeps s _ _ _).trans ⟨⟨rfl, rfl, rfl⟩, sameRecords_refl _⟩

theorem keepsAt_memUeIf (ck unit key : Nat) (p : Bool) : KeepsAt (memUeIf ck unit key p) s := by
  cases p
  · exact Keeps.refl s
  · exact errorLog_keeps s _ _ _ _ _ _

end

/-! ### What a step waits for is not read -/

/-- The same machine, whose step waits for other frames. -/
def State.awaiting (a : Option Nat) (s : State) : State := { s with awaits := a }

/-- Two machines that differ at most in what their step waits for. -/
def Alike (s t : State) : Prop := ∃ a, t = s.awaiting a

theorem Alike.refl (s : State) : Alike s s := ⟨s.awaits, rfl⟩

theorem alike_awaiting (s : State) (a : Option Nat) : Alike s (s.awaiting a) := ⟨a, rfl⟩

/-- An operation on the homes does not read it. -/
theorem OnHomes.awaiting {f : State → State} (hf : OnHomes f) (s : State) (a : Option Nat) : f (s.awaiting a) = (f s).awaiting a :=
  (hf.comm (s.awaiting a) s).trans (congrArg (State.awaiting a) (hf.rest s)).symm

/-- Two runs of a part, from machines that are alike: they answer the same, leave machines that are alike, and leave the contexts. -/
structure Par {α : Type} (s : State) (x y : Except Stop α × State) : Prop where
  same : y.1 = x.1
  alike : Alike x.2 y.2
  keeps : Keeps s x.2

section
variable {α β : Type} {s s' : State}

theorem Par.trans_keeps {t : State} {x y : Except Stop α × State} (h : Par t x y) (hk : Keeps s t) : Par s x y :=
  ⟨h.same, h.alike, hk.trans h.keeps⟩

theorem par_pure (h : Alike s s') (a : α) : Par s (runOp (pure a) s) (runOp (pure a) s') := ⟨rfl, h, Keeps.refl s⟩

theorem par_throw (h : Alike s s') (x : Stop) : Par s (runOp (throw x : Op α) s) (runOp (throw x : Op α) s') := ⟨rfl, h, Keeps.refl s⟩

theorem par_bind {o o' : Op α} {f f' : α → Op β} (ho : Par s (runOp o s) (runOp o' s'))
    (hf : ∀ a t t', Alike t t' → Par t (runOp (f a) t) (runOp (f' a) t')) : Par s (runOp (o >>= f) s) (runOp (o' >>= f') s') := by
  obtain ⟨hs, ha, hk⟩ := ho
  rw [runOp_bind, runOp_bind]
  rcases hx : runOp o s with ⟨x | a, t⟩ <;> rcases hy : runOp o' s' with ⟨y | b, t'⟩ <;> rw [hx] at hs ha hk <;> rw [hy] at hs ha
  · cases hs
    exact ⟨rfl, ha, hk⟩
  · cases hs
  · cases hs
  · cases hs
    exact (hf a t t' ha).trans_keeps hk

theorem par_upd_bind {f f' : State → State} {o o' : Unit → Op α} (hk : Keeps s (f s))
    (ho : Par (f s) (runOp (o ()) (f s)) (runOp (o' ()) (f' s'))) : Par s (runOp (upd f >>= o) s) (runOp (upd f' >>= o') s') :=
  ho.trans_keeps hk

theorem par_failIf (h : Alike s s') (b : Bool) (c : Cause) : Par s (runOp (failIf b c) s) (runOp (failIf b c) s') := by
  cases b
  · exact par_pure h ()
  · exact par_throw h _

theorem par_tryCatch {o o' : Op α} {f : Stop → Op α} (ho : Par s (runOp o s) (runOp o' s'))
    (hf : ∀ x t t', Alike t t' → Par t (runOp (f x) t) (runOp (f x) t')) : Par s (runOp (tryCatch o f) s) (runOp (tryCatch o' f) s') := by
  obtain ⟨hs, ha, hk⟩ := ho
  rcases hx : runOp o s with ⟨x | a, t⟩ <;> rcases hy : runOp o' s' with ⟨y | b, t'⟩ <;> rw [hx] at hs ha hk <;> rw [hy] at hs ha
  · cases hs
    rw [runOp_tryCatch_error hx, runOp_tryCatch_error hy]
    exact (hf x t t' ha).trans_keeps hk
  · cases hs
  · cases hs
  · cases hs
    rw [runOp_tryCatch_ok hx, runOp_tryCatch_ok hy]
    exact ⟨rfl, ha, hk⟩

theorem par_atFaddr {o o' : Op α} (ho : Par s (runOp o s) (runOp o' s')) (a : Nat) :
    Par s (runOp (atFaddr a o) s) (runOp (atFaddr a o') s') := by
  refine par_tryCatch ho fun x t t' ht => ?_
  cases x with
  | trap c code fa auxf elog => exact par_throw ht _
  | halt h => exact par_throw ht _
  | wait w => exact par_throw ht _

theorem par_ite {c c' : Prop} [Decidable c] [Decidable c'] {o o' p p' : Op α} (hc : c' ↔ c)
    (ho : Par s (runOp o s) (runOp o' s')) (hp : Par s (runOp p s) (runOp p' s')) :
    Par s (runOp (if c then o else p) s) (runOp (if c' then o' else p') s') := by
  by_cases h : c
  · rw [if_pos h, if_pos (hc.2 h)]
    exact ho
  · rw [if_neg h, if_neg (mt hc.1 h)]
    exact hp

end

section
variable (s : State) (b : Option Nat)

theorem stop_alike (f : Fault) : Alike (s.stop f) ((s.awaiting b).stop f) := ⟨b, rfl⟩

theorem await_alike (a : Nat) : Alike (s.await a) ((s.awaiting b).await a) := by
  by_cases h : mapMst (s.frameState (a / 65536)) = 2 ∨ mapMst (s.frameState (a / 65536)) = 4 ∨ s.beyond (a / 65536) = true
  · have h1 : s.await a = { s with awaits := some (s.awaits.getD (a / 65536)) } := if_pos h
    have h2 : (s.awaiting b).await a = { s with awaits := some (b.getD (a / 65536)) } := if_pos h
    rw [h1, h2]
    exact ⟨_, rfl⟩
  · have h1 : s.await a = s := if_neg h
    have h2 : (s.awaiting b).await a = s.awaiting b := if_neg h
    rw [h1, h2]
    exact alike_awaiting s b

theorem physRead_alike (a n : Nat) : Alike (physRead a n s).2.2 (physRead a n (s.awaiting b)).2.2 := by
  unfold physRead
  split
  · exact await_alike s b a
  · exact stop_alike s b _

theorem physRead_awaiting (a n : Nat) : (physRead a n (s.awaiting b)).1 = (physRead a n s).1
    ∧ (physRead a n (s.awaiting b)).2.1 = (physRead a n s).2.1 := by
  unfold physRead
  split
  · exact ⟨rfl, rfl⟩
  · exact ⟨rfl, rfl⟩

theorem physWrite_awaiting (a n v : Nat) : physWrite a n v (s.awaiting b) = (physWrite a n v s).awaiting b := by
  unfold physWrite
  split
  · exact (cleanWrite_cleans a n v false).awaiting s b
  · rfl

theorem modDie_awaiting (n : Nat) (f : Die → Die) : (s.awaiting b).modDie n f = (s.modDie n f).awaiting b := rfl

theorem errorLog_awaiting (die kind unit who linst line : Nat) : errorLog die kind unit who linst line (s.awaiting b)
    = ((errorLog die kind unit who linst line s).1, (errorLog die kind unit who linst line s).2.awaiting b) := by
  have hd : (s.awaiting b).die die = s.die die := rfl
  unfold errorLog
  dsimp only
  rw [hd, physWrite_awaiting, modDie_awaiting]
  split
  · exact congrArg (Prod.mk 0) (modDie_awaiting s b die fun x => { x with counters := vset x.counters 3 (satAdd (vget 0 x.counters 3) 1) })
  · rfl

end

theorem par_memUeIf {s s' : State} (h : Alike s s') (ck unit key : Nat) (p : Bool) :
    Par s (runOp (memUeIf ck unit key p) s) (runOp (memUeIf ck unit key p) s') := by
  obtain ⟨b, rfl⟩ := h
  cases p
  · exact par_pure (alike_awaiting s b) ()
  · unfold memUeIf
    rw [if_pos rfl, runOp_trapLogged, runOp_trapLogged]
    rw [show ((s.awaiting b).ctx ck).linst = (s.ctx ck).linst from rfl, errorLog_awaiting]
    exact ⟨rfl, alike_awaiting _ b, errorLog_keeps s _ _ _ _ _ _⟩

/-! ### Translation (R386, R387, R436, R437) -/

theorem modUnit_keeps (s : State) (core ui : Nat) (f : LayoutUnit → LayoutUnit) : Keeps s (modUnit core ui f s) :=
  ⟨⟨rfl, rfl, rfl⟩, sameRecords_refl s⟩

theorem modUnit_alike {s s' : State} (h : Alike s s') (core ui : Nat) (f : LayoutUnit → LayoutUnit) :
    Alike (modUnit core ui f s) (modUnit core ui f s') := by
  obtain ⟨b, rfl⟩ := h
  exact ⟨b, rfl⟩

/-- What two alike machines read by a physical address. -/
theorem physRead_par (s : State) (b : Option Nat) (a n : Nat) : ∃ v p t t', physRead a n s = (v, p, t)
    ∧ physRead a n (s.awaiting b) = (v, p, t') ∧ Alike t t' ∧ Keeps s t := by
  obtain ⟨hv, hp⟩ := physRead_awaiting s b a n
  exact ⟨(physRead a n s).1, (physRead a n s).2.1, (physRead a n s).2.2, (physRead a n (s.awaiting b)).2.2, rfl,
    Prod.ext hv (Prod.ext hp rfl), physRead_alike s b a n, physRead_keeps s a n⟩

section
variable {α : Type} {s s' : State}

theorem par_modUnit_bind (h : Alike s s') (core ui : Nat) (f : LayoutUnit → LayoutUnit) {o o' : Unit → Op α}
    (ho : ∀ t t', Alike t t' → Par t (runOp (o ()) t) (runOp (o' ()) t')) :
    Par s (runOp (upd (modUnit core ui f) >>= o) s) (runOp (upd (modUnit core ui f) >>= o') s') :=
  par_upd_bind (modUnit_keeps s core ui f) (ho _ _ (modUnit_alike h core ui f))

/-- The check before a read changes nothing. -/
theorem par_failBeyond_bind (h : Alike s s') (i t acc a : Nat) {o o' : Unit → Op α} (ho : Par s (runOp (o ()) s) (runOp (o' ()) s')) :
    Par s (runOp (failBeyond i t acc a >>= o) s) (runOp (failBeyond i t acc a >>= o') s') := by
  obtain ⟨b, rfl⟩ := h
  by_cases hb : s.beyond (a / 65536) = true
  · have hx (r : State) (hr : r.beyond (a / 65536) = true) : runOp (failBeyond i t acc a) r
        = (.error (.halt { tensor := i, access := acc, tile := t, why := 4, posted := false }), r) := by
      show runOp (if r.beyond (a / 65536) = true then _ else _) r = _
      rw [if_pos hr]
      rfl
    rw [runOp_bind_error (hx s hb), runOp_bind_error (hx (s.awaiting b) hb)]
    exact ⟨rfl, alike_awaiting s b, Keeps.refl s⟩
  · have hx (r : State) (hr : ¬ r.beyond (a / 65536) = true) : runOp (failBeyond i t acc a) r = (.ok (), r) := by
      show runOp (if r.beyond (a / 65536) = true then _ else _) r = _
      rw [if_neg hr]
      rfl
    rw [runOp_bind_ok (hx s hb), runOp_bind_ok (hx (s.awaiting b) hb)]
    exact ho

theorem par_readDesc (h : Alike s s') (q : Requester) (i acc : Nat) :
    Par s (runOp (readDesc q i acc) s) (runOp (readDesc q i acc) s') := by
  obtain ⟨b, rfl⟩ := h
  have h := alike_awaiting s b
  unfold readDesc
  rw [runOp_bind_ok (runOp_getS s), runOp_bind_ok (runOp_getS (s.awaiting b))]
  rw [show (s.awaiting b).core = s.core from rfl, show (s.awaiting b).part = s.part from rfl]
  dsimp only
  cases (vget {} (s.core (coreOf q.ck)).units q.ui).descs.find? fun e => e.part = q.part ∧ e.desc = i with
  | some e => exact par_modUnit_bind h _ _ _ fun t t' ht => par_pure ht _
  | none =>
    obtain ⟨v, p, t, t', hx, hy, ht, hk⟩ := physRead_par s b ((s.part q.part).active.ttab.toNat / 65536 * 65536 + 64 * i) 64
    refine par_failBeyond_bind h _ _ _ _ ?_
    rw [hx, hy]
    refine par_upd_bind (f := fun _ => t) (f' := fun _ => t') hk (par_bind (par_memUeIf ht _ _ _ _) fun _ t t' ht => ?_)
    by_cases hu : q.ui < 4
    · rw [if_pos hu]
      exact par_modUnit_bind ht _ _ _ fun t t' ht => par_pure ht _
    · rw [if_neg hu]
      exact par_pure ht _

theorem par_lookupDesc (h : Alike s s') (q : Requester) (n acc : Nat) :
    Par s (runOp (lookupDesc q n acc) s) (runOp (lookupDesc q n acc) s') := by
  obtain ⟨b, rfl⟩ := h
  have h := alike_awaiting s b
  unfold lookupDesc
  rw [runOp_bind_ok (runOp_getS s), runOp_bind_ok (runOp_getS (s.awaiting b))]
  rw [show (s.awaiting b).part = s.part from rfl]
  refine par_bind (par_failIf h _ _) fun _ t t' ht => par_bind (par_readDesc ht _ _ _) fun raw t t' ht => ?_
  refine par_bind (par_failIf ht _ _) fun _ t t' ht => par_bind (par_failIf ht _ _) fun _ t t' ht => ?_
  exact par_bind (par_failIf ht _ _) fun _ t t' ht => par_pure ht _

theorem par_flatDesc (h : Alike s s') (q : Requester) (ea size acc : Nat) :
    Par s (runOp (flatDesc q ea size acc) s) (runOp (flatDesc q ea size acc) s') := by
  unfold flatDesc
  refine par_bind (par_failIf h _ _) fun _ t t' ht => par_bind (par_lookupDesc ht _ _ _) fun d t t' ht => ?_
  refine par_bind (par_failIf ht _ _) fun _ t t' ht => par_bind (par_failIf ht _ _) fun _ t t' ht => ?_
  exact par_bind (par_failIf ht _ _) fun _ t t' ht => par_pure ht _

theorem par_readEntry (h : Alike s s') (q : Requester) (d : Desc) (n acc : Nat) :
    Par s (runOp (readEntry q d n acc) s) (runOp (readEntry q d n acc) s') := by
  obtain ⟨b, rfl⟩ := h
  have h := alike_awaiting s b
  unfold readEntry
  rw [runOp_bind_ok (runOp_getS s), runOp_bind_ok (runOp_getS (s.awaiting b))]
  rw [show (s.awaiting b).core = s.core from rfl]
  dsimp only
  cases (vget {} (s.core (coreOf q.ck)).units q.ui).ttc.find? fun x => decide (x.part = q.part ∧ x.desc = d.index ∧ x.tile = n) with
  | some e => exact par_modUnit_bind h _ _ _ fun t t' ht => par_pure ht _
  | none =>
    obtain ⟨v, p, t, t', hx, hy, ht, hk⟩ := physRead_par s b (d.ttbase + 16 * n) 16
    refine par_failBeyond_bind h _ _ _ _ ?_
    rw [hx, hy]
    refine par_upd_bind (f := fun _ => t) (f' := fun _ => t') hk (par_bind (par_memUeIf ht _ _ _ _) fun _ t t' ht => ?_)
    by_cases hu : q.ui < 4 ∧ teState v = 0
    · rw [if_pos hu]
      exact par_modUnit_bind ht _ _ _ fun t t' ht => par_pure ht _
    · rw [if_neg hu]
      exact par_pure ht _

theorem redirectEntry_keeps (q : Requester) (d : Desc) (n from_ old pkg frame : Nat) (s : State) :
    Keeps s (redirectEntry q d n from_ old pkg frame s) := by
  have hk := physRead_keeps s (d.ttbase + 16 * n) 16
  unfold redirectEntry
  dsimp only
  split
  · exact hk.trans ((physWrite_keeps _ _ _ _).trans ⟨⟨rfl, rfl, rfl⟩, sameRecords_refl _⟩)
  · exact hk.trans ⟨⟨rfl, rfl, rfl⟩, sameRecords_refl _⟩

theorem redirectEntry_alike (h : Alike s s') (q : Requester) (d : Desc) (n from_ old pkg frame : Nat) :
    Alike (redirectEntry q d n from_ old pkg frame s) (redirectEntry q d n from_ old pkg frame s') := by
  obtain ⟨b, rfl⟩ := h
  obtain ⟨v, p, t, t', hx, hy, ⟨c, rfl⟩, hk⟩ := physRead_par s b (d.ttbase + 16 * n) 16
  unfold redirectEntry
  dsimp only
  rw [hx, hy]
  dsimp only
  rw [show (t.awaiting c).pkg = t.pkg from rfl, physWrite_awaiting]
  refine modUnit_alike ?_ _ _ _
  split
  · exact alike_awaiting _ c
  · exact alike_awaiting _ c

theorem par_haltOn {α : Type} (h : Alike s s') (d : Desc) (n acc why page : Nat) :
    Par s (runOp (haltOn d n acc why page : Op α) s) (runOp (haltOn d n acc why page : Op α) s') := par_throw h _

theorem par_stopAt {α : Type} (h : Alike s s') (c : Cause) (d : Desc) (n : Nat) :
    Par s (runOp (stopAt c d n : Op α) s) (runOp (stopAt c d n : Op α) s') := par_throw h _

/-- A part that stops, with whatever would have come after it. -/
theorem par_throw_bind {α β : Type} (h : Alike s s') (x : Stop) {f f' : α → Op β} :
    Par s (runOp ((throw x : Op α) >>= f) s) (runOp ((throw x : Op α) >>= f') s') := ⟨rfl, h, Keeps.refl s⟩

theorem par_fabricKey (h : Alike s s') (q : Requester) (d : Desc) (n acc pkg a : Nat) :
    Par s (runOp (fabricKey q d n acc pkg a) s) (runOp (fabricKey q d n acc pkg a) s') := by
  obtain ⟨b, rfl⟩ := h
  have h := alike_awaiting s b
  unfold fabricKey
  rw [runOp_bind_ok (runOp_getS s), runOp_bind_ok (runOp_getS (s.awaiting b))]
  rw [show (s.awaiting b).pkg = s.pkg from rfl, show (s.awaiting b).upPorts = s.upPorts from rfl]
  dsimp only
  refine par_ite Iff.rfl (par_pure h _) ?_
  cases (s.upPorts pkg)[a / 128 % max (s.upPorts pkg).length 1]? with
  | none => exact par_haltOn h _ _ _ _ _
  | some k => exact par_ite Iff.rfl (par_stopAt h _ _ _) (par_pure h _)

theorem par_atSlice (h : Alike s s') (q : Requester) (d : Desc) (n acc a : Nat) :
    Par s (runOp (atSlice q d n acc a) s) (runOp (atSlice q d n acc a) s') := by
  obtain ⟨b, rfl⟩ := h
  have h := alike_awaiting s b
  unfold atSlice
  rw [runOp_bind_ok (runOp_getS s), runOp_bind_ok (runOp_getS (s.awaiting b))]
  rw [show (s.awaiting b).frameState = s.frameState from rfl]
  dsimp only
  split
  · exact par_haltOn h _ _ _ _ _
  · have hr := redirectEntry_alike h q d n s.pkg.num.toNat (a / 65536) (mapPkg (s.frameState (a / 65536))) (mapFrame (s.frameState (a / 65536)))
    have hrk := redirectEntry_keeps q d n s.pkg.num.toNat (a / 65536) (mapPkg (s.frameState (a / 65536))) (mapFrame (s.frameState (a / 65536))) s
    refine par_upd_bind (hrk.trans ((countRedirect_cleans _ _).keeps _)) (par_fabricKey ?_ _ _ _ _ _ _)
    obtain ⟨c, hc⟩ := hr
    exact ⟨c, (congrArg (countRedirect _ _) hc).trans ((countRedirect_cleans _ _).awaiting _ c)⟩
  · refine par_upd_bind ((pullFrame_cleans _).keeps _) (par_haltOn ?_ _ _ _ _ _)
    exact ⟨b, (pullFrame_cleans _).awaiting s b⟩
  · exact par_pure h _

theorem par_peerAccess (h : Alike s s') (q : Requester) (d : Desc) (n acc pkg a : Nat) :
    Par s (runOp (peerAccess q d n acc pkg a) s) (runOp (peerAccess q d n acc pkg a) s') := by
  obtain ⟨b, rfl⟩ := h
  have h := alike_awaiting s b
  unfold peerAccess
  rw [runOp_bind_ok (runOp_getS s), runOp_bind_ok (runOp_getS (s.awaiting b))]
  rw [show (s.awaiting b).redirects = s.redirects from rfl, show (s.awaiting b).pkg = s.pkg from rfl]
  cases s.redirects.find? fun r => r.ck = q.ck ∧ r.unit = q.unit ∧ r.source = pkg ∧ r.old = a / 65536 with
  | none => exact par_fabricKey h _ _ _ _ _ _
  | some r =>
    have hrk := redirectEntry_keeps q d n pkg (a / 65536) r.pkg r.frame s
    obtain ⟨c, hc⟩ := redirectEntry_alike h q d n pkg (a / 65536) r.pkg r.frame
    have ha : Alike ({ redirectEntry q d n pkg (a / 65536) r.pkg r.frame s with redirects := s.redirects.filter fun x => x ≠ r } : State)
        { redirectEntry q d n pkg (a / 65536) r.pkg r.frame (s.awaiting b) with redirects := s.redirects.filter fun x => x ≠ r } := by
      rw [hc]
      exact ⟨c, rfl⟩
    refine par_upd_bind ⟨⟨hrk.who, hrk.slow, hrk.ctxs⟩, hrk.records⟩ ?_
    exact par_ite Iff.rfl (par_atSlice ha _ _ _ _ _) (par_fabricKey ha _ _ _ _ _ _)

theorem par_translate (h : Alike s s') (q : Requester) (d : Desc) (n off acc : Nat) :
    Par s (runOp (translate q d n off acc) s) (runOp (translate q d n off acc) s') := by
  unfold translate
  refine par_bind (par_readEntry h _ _ _ _) fun e t t' ht => ?_
  obtain ⟨b, rfl⟩ := ht
  have h := alike_awaiting t b
  rw [runOp_bind_ok (runOp_getS t), runOp_bind_ok (runOp_getS (t.awaiting b))]
  rw [show (t.awaiting b).part = t.part from rfl, show (t.awaiting b).pkg = t.pkg from rfl, show (t.awaiting b).ats = t.ats from rfl,
    show (t.awaiting b).isMember = t.isMember from rfl, show (t.awaiting b).secureFrame = t.secureFrame from rfl]
  refine par_ite Iff.rfl (par_throw_bind h _) ?_
  refine par_ite Iff.rfl (par_throw_bind h _) ?_
  refine par_ite Iff.rfl (par_throw_bind h _) ?_
  refine par_ite Iff.rfl (par_throw_bind h _) ?_
  refine par_ite Iff.rfl (par_ite Iff.rfl ?_ (par_throw_bind h _)) (par_ite Iff.rfl (par_throw_bind h _) ?_)
  · refine par_upd_bind ((startPull_cleans _ _ _ _).keeps t) (par_throw_bind ?_ _)
    exact ⟨b, (startPull_cleans _ _ _ _).awaiting t b⟩
  refine par_ite Iff.rfl (par_atSlice h _ _ _ _ _) (par_ite Iff.rfl (par_ite Iff.rfl (par_stopAt h _ _ _)
    (par_ite Iff.rfl (par_atSlice h _ _ _ _ _) (par_peerAccess h _ _ _ _ _ _))) ?_)
  cases t.ats.find? fun x => x.part = q.part ∧ x.page = (teFrame e * 65536 + off) / 4096 with
  | none => exact par_haltOn h _ _ _ _ _
  | some x => exact par_ite Iff.rfl (par_haltOn h _ _ _ _ _) (par_pure h _)

/-- A flat address translates from machines that are alike to the same key, or stops them alike. -/
theorem par_flatKey (h : Alike s s') (q : Requester) (ea size acc : Nat) :
    Par s (runOp (flatKey q ea size acc) s) (runOp (flatKey q ea size acc) s') :=
  par_atFaddr (par_bind (par_flatDesc h _ _ _ _) fun _ _ _ ht => par_translate ht _ _ _ _ _) _

theorem keepsAt_flatKey (s : State) (q : Requester) (ea size acc : Nat) : KeepsAt (flatKey q ea size acc) s :=
  (par_flatKey (Alike.refl s) q ea size acc).keeps

end

end Sys2Proof.Machine

/-!
The codebook words and the launch words of SQ (O25 to O27): the status that they answer, and what they leave of memory.
-/
namespace Sys2Proof.Machine
open Sys2Proof

/-! ### Words that answer a status -/

section
variable {s t : State} {sd n : Nat}

theorem SameCtxs.sGet (h : SameCtxs s t) (k : Nat) : sGet t k = Machine.sGet s k := by
  unfold Machine.sGet
  rw [h.c]

theorem runOp_statusTo (hk : SameCtxs s t) (hslow : s.slow = false) (sd n : Nat) :
    runOp (statusTo sd n) t = (.ok (), collected s.ck true sd (BitVec.ofNat 64 n) t) := by
  rw [← hk.ck]
  exact runOp_respond (hk.slow.trans hslow) true sd (BitVec.ofNat 64 n) none 0 none

/-- A word of SQ has answered a status, and otherwise left what `t` is. -/
def answersStatus (s : State) (i : Instr) (sd n : Nat) (t : State) : Prop :=
  exec i s = s.onward .sq (collected s.ck true sd (BitVec.ofNat 64 n) t)

/-- What such a word leaves. -/
theorem answersStatus_leaves {i : Instr} (hk : SameCtxs s t) (hsd : sd < 32) (hx : answersStatus s i sd n t) : ∃ x, exec i s = .next x
    ∧ sGet x sd = (if sd = 0 then 0 else BitVec.ofNat 64 n) ∧ (∀ k, k ≠ sd → sGet x k = sGet s k)
    ∧ (x.c.stream .sq).pc = (s.c.stream .sq).next ∧ x.mem = (settle s t).mem ∧ x.dies = t.dies ∧ x.parts = t.parts := by
  obtain ⟨hpc, hst, hreg, -⟩ := onward_answers hk.who hsd (BitVec.ofNat 64 n) (Keeps.refl _).toSameCtxs (s.c.stream .sq).next
  exact ⟨_, hx, hst, fun k hne => (hreg k hne).trans (hk.sGet k), hpc, rfl, rfl, rfl⟩

/-- The part of `answersStatus_leaves` that the codebook words and `lr.patch` state. -/
theorem answersStatus_done {i : Instr} (hk : Keeps s t) (hsd : sd < 32) (hx : answersStatus s i sd n t) : ∃ x, exec i s = .next x
    ∧ sGet x sd = (if sd = 0 then 0 else BitVec.ofNat 64 n) ∧ (∀ k, k ≠ sd → sGet x k = sGet s k)
    ∧ (x.c.stream .sq).pc = (s.c.stream .sq).next ∧ x.mem = (settle s t).mem := by
  obtain ⟨x, hx, hst, hreg, hpc, hm, -⟩ := answersStatus_leaves hk.toSameCtxs hsd hx
  exact ⟨x, hx, hst, hreg, hpc, hm⟩

/-- A word whose part ends in its status. -/
theorem run_answers {f : State → State} {o : Op Unit} (hfit : s.fits .sq false 0) (hk : SameCtxs s t) (hslow : s.slow = false)
    (hn : t.stuck = none) (hf : f s = unitNext .sq false 0 o s) (ho : runOp o s = runOp (statusTo sd n) t) :
    run f s = s.onward .sq (collected s.ck true sd (BitVec.ofNat 64 n) t) :=
  run_onward hf hfit (ho.trans (runOp_statusTo hk hslow sd n)) hn

end

/-! ### Codebook words (R69, R140) -/

theorem keepsAt_flatAddr (s : State) (base disp size : Nat) : KeepsAt (flatAddr base disp size) s := by
  unfold flatAddr
  exact keepsAt_ite (fun _ => keepsAt_throw _ s) fun _ => keepsAt_ite (fun _ => keepsAt_throw _ s) fun _ => keepsAt_pure _ s

theorem keepsAt_cbKey (s : State) (ck unit part id : Nat) : KeepsAt (cbKey ck unit part id) s := by
  unfold cbKey
  refine keepsAt_getS ?_
  dsimp only
  refine keepsAt_ite (fun _ => keepsAt_pure _ s) fun _ => keepsAt_bind (keepsAt_flatAddr s _ _ _)
    fun _ t _ => keepsAt_flatKey t _ _ _ _

theorem keepsAt_cbLookup (s : State) (ck unit part id : Nat) : KeepsAt (cbLookup ck unit part id) s := by
  unfold cbLookup
  refine keepsAt_getS (keepsAt_ite (fun _ => keepsAt_pure _ s) fun _ => keepsAt_bind (keepsAt_cbKey s _ _ _ _) fun key t _ => ?_)
  refine keepsAt_upd_bind (awaitKey_keeps t key) (keepsAt_getS ?_)
  refine keepsAt_bind (keepsAt_memUeIf _ _ _ _ _) fun _ u _ => ?_
  exact keepsAt_ite (fun _ => keepsAt_pure _ u) fun _ => keepsAt_pure _ u

theorem cbStore_keeps (s : State) (key d : Nat) : Keeps s (cbStore key d s) := by
  have hw (i : Nat) (old : Nat) : Cleans fun s : State =>
      let a := key + 8 * i
      let lo := decide (fieldOf old (8 * i) 4 ≠ fieldOf d (8 * i) 4)
      let hi := decide (fieldOf old (8 * i + 4) 4 ≠ fieldOf d (8 * i + 4) 4)
      if lo && hi then s.cleanWrite a 8 (fieldOf d (8 * i) 8) false
      else if lo then s.cleanWrite a 4 (fieldOf d (8 * i) 4) false
      else if hi then s.cleanWrite (a + 4) 4 (fieldOf d (8 * i + 4) 4) false
      else s :=
    Cleans.ite (fun _ _ => rfl) (cleanWrite_cleans _ _ _ _) (Cleans.ite (fun _ _ => rfl) (cleanWrite_cleans _ _ _ _)
      (Cleans.ite (fun _ _ => rfl) (cleanWrite_cleans _ _ _ _) Cleans.id))
  exact (Cleans.foldl (fun i => hw i (s.keyRead key 128).1) (List.range 16)).keeps s

theorem keepsAt_cbPublish (s : State) (ck part id ptr : Nat) : KeepsAt (cbPublish ck part id ptr) s := by
  unfold cbPublish
  refine keepsAt_ite (fun _ => keepsAt_pure _ s) fun _ => keepsAt_bind (keepsAt_cbLookup s _ _ _ _) fun x t _ => ?_
  cases x with
  | error c => exact keepsAt_pure _ t
  | ok x =>
    refine keepsAt_ite (fun _ => keepsAt_pure _ t) fun _ => ?_
    cases (List.range 7).find? fun i => cbState x.2 i = 0 with
    | none => exact keepsAt_pure _ t
    | some f => exact keepsAt_upd_bind (cbStore_keeps t _ _) (keepsAt_pure _ _)

theorem keepsAt_cbPinWord (s : State) (ck part : Nat) (add : Bool) (id ver : Nat) : KeepsAt (cbPinWord ck part add id ver) s := by
  unfold cbPinWord
  refine keepsAt_bind (keepsAt_cbLookup s _ _ _ _) fun x t _ => ?_
  cases x with
  | error c => exact keepsAt_pure _ t
  | ok x =>
    obtain ⟨key, d⟩ := x
    dsimp only
    cases cbFind d ver with
    | none => exact keepsAt_pure _ t
    | some i =>
      refine keepsAt_ite (fun _ => keepsAt_ite (fun _ => keepsAt_pure _ t) fun _ => ?_)
        fun _ => keepsAt_ite (fun _ => keepsAt_pure _ t) fun _ => ?_
      · exact keepsAt_upd_bind (cbStore_keeps t _ _) (keepsAt_pure _ _)
      · exact keepsAt_upd_bind (cbStore_keeps t _ _) (keepsAt_pure _ _)

section
variable {s u : State} {sd sa sb n : Nat}

/-- `cb.pin` and `cb.unpin`: the checks before R69, then what R69 answers. -/
theorem runOp_cbPinChecked (add : Bool) :
    (2 ^ 16 ≤ (sGet s sa).toNat → runOp (cbPinChecked add sd sa sb s) s = runOp (statusTo sd 6) s)
    ∧ ((sGet s sa).toNat < 16 → runOp (cbPinChecked add sd sa sb s) s = runOp (statusTo sd 1) s)
    ∧ (16 ≤ (sGet s sa).toNat → (sGet s sa).toNat < 2 ^ 16 → 2 ^ 32 ≤ (sGet s sb).toNat →
      runOp (cbPinChecked add sd sa sb s) s = runOp (statusTo sd 4) s)
    ∧ (16 ≤ (sGet s sa).toNat → (sGet s sa).toNat < 2 ^ 16 → (sGet s sb).toNat < 2 ^ 32 →
      runOp (cbPinWord s.ck s.c.bind.part add (sGet s sa).toNat (sGet s sb).toNat) s = (.ok n, u) →
      runOp (cbPinChecked add sd sa sb s) s = runOp (statusTo sd n) u) := by
  unfold cbPinChecked
  dsimp only
  refine ⟨fun h => ?_, fun h => ?_, fun h h' hx => ?_, fun h h' hx ho => ?_⟩
  · rw [if_pos (show 65536 ≤ (sGet s sa).toNat by omega)]
  · rw [if_neg (by omega), if_pos h]
  · rw [if_neg (by omega), if_neg (by omega), if_pos hx]
  · rw [if_neg (by omega), if_neg (by omega), if_neg (by omega)]
    exact runOp_bind_ok ho

/-- R140: an identifier of a lattice codebook is not published. -/
theorem runOp_cbPublish_lattice {id : Nat} (h : id < 16) (ck part ptr : Nat) (s : State) :
    runOp (cbPublish ck part id ptr) s = (.ok 1, s) := by
  unfold cbPublish
  rw [if_pos h]
  rfl

/-- `cb.pub`: its checks, then the release and what R69 answers. -/
theorem cbPub_answers (hs : s.calm) (hslow : s.slow = false) (hf : s.fits .sq false 0) :
    (2 ^ 16 ≤ (sGet s sa).toNat → answersStatus s (.cbPub sd sa sb) sd 6 s)
    ∧ ((sGet s sa).toNat < 2 ^ 16 → (sGet s sb).toNat % 128 ≠ 0 → answersStatus s (.cbPub sd sa sb) sd 8 s)
    ∧ ((sGet s sa).toNat < 2 ^ 16 → (sGet s sb).toNat % 128 = 0 → Keeps (release s.ck 2 allClasses s) u → u.stuck = none →
      runOp (cbPublish s.ck s.c.bind.part (sGet s sa).toNat (sGet s sb).toNat) (release s.ck 2 allClasses s) = (.ok n, u) →
      answersStatus s (.cbPub sd sa sb) sd n u) := by
  dsimp only [answersStatus, exec, execCbPub]
  refine ⟨fun h => ?_, fun h hx => ?_, fun h hx hk hn ho => ?_⟩
  · refine run_answers hf (Keeps.refl s).toSameCtxs hslow hs.2.2 rfl ?_
    rw [if_pos (show 65536 ≤ (sGet s sa).toNat by omega)]
  · refine run_answers hf (Keeps.refl s).toSameCtxs hslow hs.2.2 rfl ?_
    rw [if_neg (by omega), if_pos hx]
  · refine run_answers hf (((release_onHomes s.ck 2 allClasses).keeps s).trans hk).toSameCtxs hslow hn rfl ?_
    rw [if_neg (by omega), if_neg (not_not.2 hx)]
    exact (runOp_bind_ok (runOp_upd _ s)).trans (runOp_bind_ok ho)

end

/-- Settles O25, by the first check that answers, and by R69 where none does. -/
theorem sqCodebookWordsAnswerTheirStatus : Obligations.SqCodebookWordsAnswerTheirStatus := by
  intro s s2 sd sa sb n hs hslow hf hsd id x rel done pin
  obtain ⟨h6, h8, hpub⟩ := cbPub_answers (u := s2) (sd := sd) (sa := sa) (sb := sb) (n := n) hs hslow hf
  have hrel : Keeps s rel := (release_onHomes s.ck 2 allClasses).keeps s
  have hpin (i : Instr) (add : Bool) (hi : exec i s = run (fun s => unitNext .sq false 0 (cbPinChecked add sd sa sb s) s) s) : pin i add := by
    obtain ⟨h6, h1, h4, hn⟩ := runOp_cbPinChecked (s := s) (u := s2) (sd := sd) (sa := sa) (sb := sb) (n := n) add
    have hdone {m : Nat} {u : State} (hk : Keeps s u) (hn : u.stuck = none)
        (ho : runOp (cbPinChecked add sd sa sb s) s = runOp (statusTo sd m) u) : done i m u :=
      answersStatus_done hk hsd (hi.trans (run_answers hf hk.toSameCtxs hslow hn rfl ho))
    exact ⟨fun h => hdone (Keeps.refl s) hs.2.2 (h6 h), fun h => hdone (Keeps.refl s) hs.2.2 (h1 h),
      fun h h' hx => hdone (Keeps.refl s) hs.2.2 (h4 h h' hx),
      fun h h' hx ho hst => hdone ((keepsAt_cbPinWord s _ _ _ _ _).of_ok ho) hst (hn h h' hx ho)⟩
  refine ⟨fun h => answersStatus_done (Keeps.refl s) hsd (h6 h), fun h hx => answersStatus_done (Keeps.refl s) hsd (h8 h hx),
    fun h hx => answersStatus_done hrel hsd ((cbPub_answers hs hslow hf).2.2 (by omega) hx (Keeps.refl _)
      ((release_stuck _ _ _ _).trans hs.2.2) (runOp_cbPublish_lattice h _ _ _ _)), fun h h' hx ho hst => ?_, hpin _ true rfl, hpin _ false rfl⟩
  have hk := (keepsAt_cbPublish rel _ _ _ _).of_ok ho
  exact answersStatus_done (hrel.trans hk) hsd (hpub h' hx hk hst ho)

/-! ### Launch words (R141 to R143) -/

theorem await_eq_awaiting (s : State) (a : Nat) : ∃ b, s.await a = s.awaiting b := by
  unfold State.await
  dsimp only
  split
  · exact ⟨_, rfl⟩
  · exact ⟨s.awaits, rfl⟩

theorem physRead_inDram {a n : Nat} (h : a + n ≤ dramEnd) (s : State) : (physRead a n s).2.2 = s.await a := by
  unfold physRead
  rw [if_pos h]

theorem physWrite_stuck {a n : Nat} (h : a + n ≤ dramEnd) (v : Nat) (s : State) : (physWrite a n v s).stuck = s.stuck := by
  unfold physWrite
  rw [if_pos h, (cleanWrite_cleans a n v false).rest]
  rfl

/-- A record of DRAM without poison is read. -/
theorem runOp_lrGuard {s : State} {ck part i : Nat} (h : lrAddr s part i + 256 ≤ dramEnd)
    (hp : (physRead (lrAddr s part i) 256 s).2.1 = false) :
    runOp (lrGuard ck part i) s = (.ok (physRead (lrAddr s part i) 256 s).1, s.await (lrAddr s part i)) := by
  have ht := physRead_inDram h s
  unfold lrGuard
  rw [runOp_bind_ok (runOp_getS s)]
  extract_lets a
  have ha : lrAddr s part i = a := rfl
  rw [ha] at hp ht ⊢
  clear_value a
  rcases hx : physRead a 256 s with ⟨r, p, t⟩
  rw [hx] at hp ht
  cases hp
  rw [← ht]
  exact (runOp_bind_ok (runOp_upd _ s)).trans ((runOp_bind_ok (runOp_pure () t)).trans (runOp_pure r t))

/-- What `lr.patch` writes of its record. -/
def patchWrite (a : Nat) (w : Option (Nat × Nat × Nat)) (s : State) : State :=
  match w with
  | some x => physWrite (a + x.1) x.2.1 x.2.2 s
  | none => s

section
variable {s : State} {sd sa sb f n : Nat} {w : Option (Nat × Nat × Nat)}

theorem lrPatch_index (hs : s.calm) (hslow : s.slow = false) (hf : s.fits .sq false 0) (h : 4096 ≤ (sGet s sa).toNat) :
    answersStatus s (.lrPatch sd sa sb f) sd 1 s := by
  dsimp only [answersStatus, exec, execLrPatch]
  refine run_answers hf (Keeps.refl s).toSameCtxs hslow hs.2.2 rfl ?_
  rw [if_pos h]

/-- `lr.patch` on a record that can be read: the status, and what it writes. -/
theorem lrPatch_answers (hs : s.calm) (hslow : s.slow = false) (hf : s.fits .sq false 0) (hi : (sGet s sa).toNat < 4096)
    (ha : lrAddr s s.c.bind.part (sGet s sa).toNat + 256 ≤ dramEnd)
    (hp : (physRead (lrAddr s s.c.bind.part (sGet s sa).toNat) 256 s).2.1 = false)
    (hx : lrPatchStatus s.c.bind.secure (physRead (lrAddr s s.c.bind.part (sGet s sa).toNat) 256 s).1 f (sGet s sb).toNat = (n, w))
    (hw : ∀ x ∈ w, x.1 + x.2.1 ≤ 256) :
    answersStatus s (.lrPatch sd sa sb f) sd n (patchWrite (lrAddr s s.c.bind.part (sGet s sa).toNat) w
      (s.await (lrAddr s s.c.bind.part (sGet s sa).toNat))) := by
  dsimp only [answersStatus, exec, execLrPatch]
  have hk := await_keeps s (lrAddr s s.c.bind.part (sGet s sa).toNat)
  have hn : (s.await (lrAddr s s.c.bind.part (sGet s sa).toNat)).stuck = none := by
    obtain ⟨b, hb⟩ := await_eq_awaiting s (lrAddr s s.c.bind.part (sGet s sa).toNat)
    rw [hb]
    exact hs.2.2
  have hg := runOp_lrGuard (ck := s.ck) ha hp
  cases w with
  | none =>
    refine run_answers hf hk.toSameCtxs hslow hn rfl ?_
    rw [if_neg (by omega), runOp_bind_ok hg, hx]
    exact runOp_bind_ok (runOp_pure () _)
  | some x =>
    have hb := hw x rfl
    refine run_answers (t := physWrite _ _ _ _) hf (hk.trans (physWrite_keeps _ _ _ _)).toSameCtxs hslow
      ((physWrite_stuck (by omega) _ _).trans hn) rfl ?_
    rw [if_neg (by omega), runOp_bind_ok hg, hx]
    exact runOp_bind_ok (runOp_upd _ _)

end

/-- What the record's frame makes the step wait for does not change what is written. -/
theorem patchWrite_await (s t : State) (a c : Nat) (w : Option (Nat × Nat × Nat)) :
    (settle t (patchWrite a w (s.await c))).mem = (settle t (patchWrite a w s)).mem := by
  obtain ⟨b, hb⟩ := await_eq_awaiting s c
  rw [hb]
  cases w with
  | none => rfl
  | some x => exact (congrArg (fun y => (settle t y).mem) (physWrite_awaiting s b (a + x.1) x.2.1 x.2.2) :)

theorem patchWrite_keeps (s : State) (a : Nat) (w : Option (Nat × Nat × Nat)) : Keeps s (patchWrite a w s) := by
  cases w with
  | none => exact Keeps.refl s
  | some x => exact physWrite_keeps s _ _ _

section
variable {secure : Bool} {r f v : Nat}

theorem lrPatchStatus_unbuilt (hb : lrBuilt r = false) : lrPatchStatus secure r f v = (2, none) :=
  if_pos (by rw [hb]; decide)

theorem lrPatchStatus_world (hb : lrBuilt r = true) (hw : lrSecure r = true ∧ secure = false) : lrPatchStatus secure r f v = (7, none) :=
  (if_neg (not_not.2 hb)).trans (if_pos ⟨hw.1, by rw [hw.2]; decide⟩)

theorem lrPatchStatus_built (hb : lrBuilt r = true) (hw : ¬ (lrSecure r = true ∧ secure = false)) : lrPatchStatus secure r f v
    = if lrArmed r then (5, none)
      else if ¬ lrPatchBit r f ∨ (f ≠ 0 ∧ fieldOf r (0x68 + 4 * (f - 1)) 4 = 0) then (3, none)
      else if f = 0 then (if v % 64 ≠ 0 then (4, none) else (0, some (0x08, 8, v)))
      else if v = 0 ∨ fieldOf r (0x68 + 4 * (f - 1)) 4 < v then (4, none)
      else (0, some (0x50 + 4 * (f - 1), 4, v)) :=
  (if_neg (not_not.2 hb)).trans (if_neg fun h => hw ⟨h.1, Bool.eq_false_of_not_eq_true h.2⟩)

end

/-- Settles O26, by the status of the record that was read. -/
theorem sqLaunchWordsAnswerTheirStatus : Obligations.SqLaunchWordsAnswerTheirStatus := by
  intro s sd sa sb f hs hslow hf hsd hf7 i x a r readable world max done
  refine ⟨fun hi => answersStatus_done (Keeps.refl s) hsd (lrPatch_index hs hslow hf hi), fun hi hr => ?_⟩
  have hdone {n : Nat} {w : Option (Nat × Nat × Nat)} (hx : lrPatchStatus s.c.bind.secure r f x = (n, w))
      (hw : ∀ y ∈ w, y.1 + y.2.1 ≤ 256) : done (.lrPatch sd sa sb f) n (patchWrite a w s) := by
    obtain ⟨t, ht, hst, hreg, hpc, hm⟩ := answersStatus_done ((await_keeps s a).trans (patchWrite_keeps _ a w)) hsd
      (lrPatch_answers hs hslow hf hi hr.1 hr.2 hx hw)
    exact ⟨t, ht, hst, hreg, hpc, hm.trans (patchWrite_await s s a a w)⟩
  have hnone {n : Nat} (hx : lrPatchStatus s.c.bind.secure r f x = (n, none)) : done (.lrPatch sd sa sb f) n s :=
    hdone hx fun y hy => absurd hy (Option.not_mem_none y)
  refine ⟨fun hb => hnone (lrPatchStatus_unbuilt hb), fun hb hw => hnone (lrPatchStatus_world hb hw),
    fun hb hw ha => hnone ((lrPatchStatus_built hb hw).trans (if_pos ha)), fun hb hw ha => ?_⟩
  have hst := lrPatchStatus_built (f := f) (v := x) hb hw
  rw [if_neg (by rw [ha]; decide)] at hst
  have hzero (hp : lrPatchBit r f = true) (h0 : f = 0) : ¬ (¬ lrPatchBit r f = true ∨ f ≠ 0 ∧ max = 0) := by
    rintro (h | h)
    exacts [h hp, h.1 h0]
  have hfield (hp : lrPatchBit r f = true) (hm : max ≠ 0) : ¬ (¬ lrPatchBit r f = true ∨ f ≠ 0 ∧ max = 0) := by
    rintro (h | h)
    exacts [h hp, hm h.2]
  refine ⟨fun h => hnone (hst.trans (if_pos (by rwa [Bool.not_eq_true]))), fun hp h0 hx => hnone (hst.trans ?_),
    fun hp h0 hm hx => hnone (hst.trans ?_), fun hp h0 hx => hdone (w := some (8, 8, x)) (hst.trans ?_) ?_, fun hp h0 hm hx hx' => ?_⟩
  · rw [if_neg (hzero hp h0), if_pos h0, if_pos hx]
  · rw [if_neg (hfield hp hm), if_neg h0, if_pos hx]
  · rw [if_neg (hzero hp h0), if_pos h0, if_neg (not_not.2 hx)]
  · rintro y ⟨⟩
    exact (by decide : 8 + 8 ≤ 256)
  · have hw' : done (.lrPatch sd sa sb f) 0 (patchWrite a (some (0x50 + 4 * (f - 1), 4, x)) s) := by
      refine hdone (hst.trans ?_) ?_
      · rw [if_neg (hfield hp hm), if_neg h0, if_neg (not_or.2 ⟨Nat.ne_of_gt hx, Nat.not_lt.2 hx'⟩)]
      · rintro y ⟨⟩
        dsimp only
        omega
    rwa [patchWrite, ← Nat.add_assoc] at hw'

end Sys2Proof.Machine

/-!
`lr.arm` (O27): the arming of a record, the entry that it posts, and the word that waits for room.
-/
namespace Sys2Proof.Machine
open Sys2Proof

/-! ### The arm queue (R366, R367) -/

/-- The place of a queue's next entry does not depend on what the step waits for. -/
theorem armqKey_awaiting (die p : Nat) (s : State) (b : Option Nat) : (armqKey die p (s.awaiting b)).1 = (armqKey die p s).1 := by
  have hs := (par_flatKey (alike_awaiting s b) (agentOf die p ((s.part p).active.ctl.getLsbD 62))
    ((s.mcSet die p).base.toNat + 16 * (s.mcSet die p).head) 16 2).same
  have hm : (s.awaiting b).mcSet die p = s.mcSet die p := rfl
  have hp : (s.awaiting b).part p = s.part p := rfl
  unfold armqKey
  dsimp only
  rw [hm, hp]
  rcases hx : runOp (flatKey (agentOf die p ((s.part p).active.ctl.getLsbD 62)) ((s.mcSet die p).base.toNat + 16 * (s.mcSet die p).head) 16 2) s
    with ⟨x, t⟩
  rcases hy : runOp (flatKey (agentOf die p ((s.part p).active.ctl.getLsbD 62)) ((s.mcSet die p).base.toNat + 16 * (s.mcSet die p).head) 16 2)
    (s.awaiting b) with ⟨y, t'⟩
  rw [hx, hy] at hs
  obtain rfl : y = x := hs
  cases y with
  | ok key => rfl
  | error e => cases e <;> rfl

theorem armqRoom_awaiting (die p : Nat) (s : State) (b : Option Nat) : armqRoom die p (s.awaiting b) = armqRoom die p s := by
  have hm : (s.awaiting b).mcSet die p = s.mcSet die p := rfl
  unfold armqRoom armqFree
  dsimp only
  rw [hm, armqKey_awaiting]

theorem armqKey_keeps (die p : Nat) (s : State) : Keeps s (armqKey die p s).2 := by
  have hk : Keeps s _ := keepsAt_flatKey s (agentOf die p ((s.part p).active.ctl.getLsbD 62))
    ((s.mcSet die p).base.toNat + 16 * (s.mcSet die p).head) 16 2
  unfold armqKey
  dsimp only
  rcases hx : runOp (flatKey (agentOf die p ((s.part p).active.ctl.getLsbD 62)) ((s.mcSet die p).base.toNat + 16 * (s.mcSet die p).head) 16 2) s
    with ⟨x, t⟩
  rw [hx] at hk
  cases x with
  | ok key => exact hk
  | error e =>
    cases e with
    | halt h => exact hk
    | trap c code fa auxf elog => exact Keeps.refl s
    | wait w => exact Keeps.refl s

theorem armqPull_keeps (die p : Nat) (s : State) : Keeps s (armqPull die p s) := by
  unfold armqPull
  dsimp only
  split
  · exact Keeps.refl s
  · exact armqKey_keeps die p s

theorem armqWrite_keeps (die p : Nat) (e : BitVec 128) (s : State) : Keeps s (armqWrite die p e s) := by
  have hk := armqKey_keeps die p s
  unfold armqWrite
  rcases hx : armqKey die p s with ⟨k, t⟩
  rw [hx] at hk
  cases k with
  | none => exact hk
  | some key =>
    refine hk.trans ?_
    dsimp only
    split
    · exact ⟨⟨rfl, rfl, rfl⟩, sameRecords_refl t⟩
    · exact ((cleanWrite_cleans key 16 e.toNat false).keeps t).trans ⟨⟨rfl, rfl, rfl⟩, sameRecords_refl _⟩

/-- A post that no doorbell of a host waits for. -/
theorem postArmq_keeps (die p : Nat) (e : BitVec 128) (s : State) : Keeps s (postArmq die p e none s) := by
  unfold postArmq
  split
  · exact Keeps.refl s
  · split
    · exact armqWrite_keeps die p e s
    · exact (armqPull_keeps die p s).trans ⟨⟨rfl, rfl, rfl⟩, sameRecords_refl _⟩

/-! ### The arming of a record (R365) -/

/-- The instance after one; 0 names none. -/
def nextInstOf (n : BitVec 32) : BitVec 32 := if n + 1 = 0 then 1 else n + 1

/-- What the arming of a record changes: the partition's next instance, the record, and the queue of its home. -/
def armWrite (part src a r i count v : Nat) (s : State) : State :=
  let t := s.modPart part fun p => { p with nextInst := nextInstOf (s.part part).nextInst }
  let t := physWrite (a + 0x80) 4 (s.part part).nextInst.toNat t
  let t := physWrite (a + 0x84) 4 (count % 2 ^ 32) t
  let t := physWrite (a + 0x88) 1 (1 + 2 * v + fieldOf r 0x88 1 / 16 * 16) t
  postArmq (lrHome r) part (armqEntry 0 0 i (s.part part).nextInst.toNat count v 0 src) none t

theorem armRecord_index {i : Nat} (h : 4096 ≤ i) (part : Nat) (secure : Bool) (src count : Nat) (s : State) :
    armRecord part secure src i count none s = (1, s) := if_pos h

/-- What the arming answers and leaves, for a record `r` that was read. -/
def armRead (part : Nat) (secure : Bool) (src a i count r : Nat) (s : State) : Nat × State :=
  if ¬ lrBuilt r then (2, s) else if lrSecure r ∧ ¬ secure then (7, s)
  else if lrArmed r then (5, s)
  else match firstBucket count 0 (lrBuckets r) with
    | none => (6, s)
    | some v => (0, armWrite part src a r i count v s)

theorem armRecord_eq {part i r : Nat} {p : Bool} {s t : State} (hi : i < 4096) (secure : Bool) (src count : Nat)
    (hx : physRead (lrAddr s part i) 256 s = (r, p, t)) :
    armRecord part secure src i count none s = armRead part secure src (lrAddr s part i) i count r t := by
  unfold armRecord
  rw [if_neg (by omega)]
  extract_lets a
  have ha : lrAddr s part i = a := rfl
  rw [ha] at hx ⊢
  clear_value a
  rw [hx]
  rfl

theorem armWrite_ctxs (part src a r i count v : Nat) (s : State) : SameCtxs s (armWrite part src a r i count v s) := by
  have h : SameCtxs s (s.modPart part fun p => { p with nextInst := nextInstOf (s.part part).nextInst }) := ⟨rfl, rfl, rfl⟩
  unfold armWrite
  dsimp only
  exact h.trans (((physWrite_keeps _ _ _ _).trans ((physWrite_keeps _ _ _ _).trans
    ((physWrite_keeps _ _ _ _).trans (postArmq_keeps _ _ _ _)))).toSameCtxs)

/-- The partition's next instance after an arming. -/
theorem armWrite_nextInst (part src a r i count v : Nat) (s : State) :
    ((armWrite part src a r i count v s).part part).nextInst = nextInstOf (s.part part).nextInst := by
  unfold armWrite
  dsimp only
  refine (((physWrite_keeps _ _ _ _).trans ((physWrite_keeps _ _ _ _).trans
    ((physWrite_keeps _ _ _ _).trans (postArmq_keeps _ _ _ _)))).records part).2.trans ?_
  rw [part_modPart]

theorem armRead_ctxs (part : Nat) (secure : Bool) (src a i count r : Nat) (s : State) :
    SameCtxs s (armRead part secure src a i count r s).2 := by
  unfold armRead
  split
  · exact ⟨rfl, rfl, rfl⟩
  · split
    · exact ⟨rfl, rfl, rfl⟩
    · split
      · exact ⟨rfl, rfl, rfl⟩
      · split
        · exact ⟨rfl, rfl, rfl⟩
        next v _ =>
          dsimp only
          exact armWrite_ctxs part src a r i count v s

/-- The status of an arming (R143). -/
theorem armRead_status (part : Nat) (secure : Bool) (src a i count r : Nat) (s : State) :
    (armRead part secure src a i count r s).1 = if lrBuilt r = false then 2 else if lrSecure r = true ∧ secure = false then 7
      else if lrArmed r = true then 5 else if (lrBuckets r).all (fun b => decide (b < count)) then 6 else 0 := by
  have hall : (lrBuckets r).all (fun b => decide (b < count)) = true ↔ firstBucket count 0 (lrBuckets r) = none := by
    rw [firstBucket_none, List.all_eq_true]
    simp only [decide_eq_true_eq]
  unfold armRead
  simp only [Bool.not_eq_true]
  split
  · rfl
  · split
    · rfl
    · split
      · rfl
      · split
        next h => rw [if_pos (hall.2 h)]
        next v h => rw [if_neg (by rw [hall, h]; exact Option.some_ne_none v)]

/-- An arming that answers OK has armed the record. -/
theorem armRead_ok {part : Nat} {secure : Bool} {src a i count r : Nat} {s : State}
    (h : (armRead part secure src a i count r s).1 = 0) :
    ∃ v, (armRead part secure src a i count r s).2 = armWrite part src a r i count v s := by
  unfold armRead at h ⊢
  split at h
  · exact absurd h (Nat.succ_ne_zero 1)
  next hb =>
    split at h
    · exact absurd h (Nat.succ_ne_zero 6)
    next hw =>
      split at h
      · exact absurd h (Nat.succ_ne_zero 4)
      next ha =>
        split at h
        · exact absurd h (Nat.succ_ne_zero 5)
        next v _ =>
          refine ⟨v, ?_⟩
          rw [if_neg hb, if_neg hw, if_neg ha]

/-! ### `lr.arm` (R142) -/

/-- A step that waits for a frame already waits for it still. -/
theorem await_await (s : State) (a : Nat) : (s.await a).await a = s.await a := by
  by_cases h : mapMst (s.frameState (a / 65536)) = 2 ∨ mapMst (s.frameState (a / 65536)) = 4 ∨ s.beyond (a / 65536) = true
  · have h1 : s.await a = { s with awaits := some (s.awaits.getD (a / 65536)) } := if_pos h
    rw [h1]
    exact if_pos h
  · have h1 : s.await a = s := if_neg h
    rw [h1, h1]

/-- A record that has been read is read again alike. -/
theorem physRead_await {a n : Nat} (h : a + n ≤ dramEnd) (s : State) : physRead a n (s.await a) = physRead a n s := by
  obtain ⟨b, hb⟩ := await_eq_awaiting s a
  obtain ⟨hv, hp⟩ := physRead_awaiting s b a n
  rw [← hb] at hv hp
  refine Prod.ext hv (Prod.ext hp ?_)
  rw [physRead_inDram h, physRead_inDram h, await_await]

theorem physRead_eq {a n : Nat} {s : State} (h : a + n ≤ dramEnd) (hp : (physRead a n s).2.1 = false) :
    physRead a n s = ((physRead a n s).1, false, s.await a) :=
  Prod.ext rfl (Prod.ext hp (physRead_inDram h s))

theorem armRecord_await {part i : Nat} {s : State} (h : lrAddr s part i + 256 ≤ dramEnd) (hi : i < 4096) (secure : Bool) (src count : Nat) :
    armRecord part secure src i count none (s.await (lrAddr s part i)) = armRecord part secure src i count none s := by
  obtain ⟨b, hb⟩ := await_eq_awaiting s (lrAddr s part i)
  have hl : lrAddr (s.await (lrAddr s part i)) part i = lrAddr s part i := by rw [hb]; rfl
  have hr := physRead_await h s
  rcases hx : physRead (lrAddr s part i) 256 s with ⟨r, p, t⟩
  have hy : physRead (lrAddr (s.await (lrAddr s part i)) part i) 256 (s.await (lrAddr s part i)) = (r, p, t) := by rw [hl, hr, hx]
  rw [armRecord_eq hi secure src count hx, armRecord_eq hi secure src count hy, hl]

section
variable {s t : State} {sd sa sb st r : Nat} {t' : State}

/-- `lr.arm`, by the record that is read and the arming: the word answers the status of the arming. -/
theorem lrArm_answers (hf : s.fits .sq false 0) (hslow : s.slow = false) (hk : SameCtxs s t') (hn : t'.stuck = none)
    (hg : runOp (if (sGet s sa).toNat < 4096 then lrGuard s.ck s.c.bind.part (sGet s sa).toNat else pure 0)
      (release s.ck 2 allClasses s) = (.ok r, t))
    (ha : armRecord s.c.bind.part s.c.bind.secure (dieOf s.ck) (sGet s sa).toNat (sGet s sb).toNat none t = (st, t'))
    (hw : ¬ (st = 0 ∧ (¬ armqRoom (lrHome r) s.c.bind.part t = true ∨ s.frozen s.c.bind.part = true))) :
    answersStatus s (.lrArm sd sa sb) sd st t' := by
  dsimp only [answersStatus, exec, execLrArm]
  refine run_answers hf hk hslow hn rfl ((runOp_bind_ok (runOp_upd _ s)).trans ?_)
  by_cases hi : (sGet s sa).toNat < 4096
  · rw [if_pos hi] at hg ⊢
    refine (runOp_bind_ok hg).trans ((runOp_bind_ok (runOp_getS t)).trans ?_)
    rw [ha, if_neg hw]
    exact runOp_bind_ok (runOp_upd _ t)
  · rw [if_neg hi] at hg ⊢
    refine (runOp_bind_ok hg).trans ((runOp_bind_ok (runOp_getS t)).trans ?_)
    rw [ha, if_neg hw]
    exact runOp_bind_ok (runOp_upd _ t)

/-- Or the word waits for room in the queue that it posts to. -/
theorem lrArm_waits (hf : s.fits .sq false 0) (hn : (armqPull (lrHome r) s.c.bind.part t).stuck = none)
    (hi : (sGet s sa).toNat < 4096)
    (hg : runOp (lrGuard s.ck s.c.bind.part (sGet s sa).toNat) (release s.ck 2 allClasses s) = (.ok r, t))
    (ha : armRecord s.c.bind.part s.c.bind.secure (dieOf s.ck) (sGet s sa).toNat (sGet s sb).toNat none t = (0, t'))
    (hw : ¬ armqRoom (lrHome r) s.c.bind.part t = true ∨ s.frozen s.c.bind.part = true) :
    exec (.lrArm sd sa sb) s
      = .next (settle s (blockOn s.ck .sq (.armq (lrHome r) s.c.bind.part) (armqPull (lrHome r) s.c.bind.part t))) := by
  dsimp only [exec, execLrArm]
  refine run_blocks rfl hf ((runOp_bind_ok (runOp_upd _ s)).trans ?_) hn
  rw [if_pos hi]
  refine (runOp_bind_ok hg).trans ((runOp_bind_ok (runOp_getS t)).trans ?_)
  rw [ha, if_pos ⟨rfl, hw⟩]
  exact (runOp_bind_ok (runOp_upd _ t)).trans (runOp_bind_error rfl)

end

/-- Settles O27, by the status of the arming and the room in the queue. -/
theorem sqArmWord : Obligations.SqArmWord := by
  intro s sd sa sb hs hslow hf hsd rel i x p a r armed ha hp hn room pulled
  have hrel : Keeps s rel := (release_onHomes s.ck 2 allClasses).keeps s
  have hl : lrAddr rel p i = a := by
    show (rel.part p).active.lrpool.toNat / 2 ^ 20 * 2 ^ 20 + 256 * i = _
    rw [(hrel.records p).1]
    rfl
  have hg : runOp (lrGuard s.ck p i) rel = (.ok r, rel.await a) := by
    have h := runOp_lrGuard (ck := s.ck) (s := rel) (part := p) (i := i) (by rw [hl]; exact ha) (by rw [hl]; exact hp)
    rw [hl] at h
    exact h
  have harm (hi : i < 4096) : armRecord p s.c.bind.secure (dieOf s.ck) i x none (rel.await a) = armed := by
    have h := armRecord_await (s := rel) (part := p) (by rw [hl]; exact ha) hi s.c.bind.secure (dieOf s.ck) x
    rw [hl] at h
    exact h
  have hroom : armqRoom (lrHome r) p (rel.await a) = room := by
    obtain ⟨b, hb⟩ := await_eq_awaiting rel a
    rw [hb, armqRoom_awaiting]
  have hx : physRead (lrAddr rel p i) 256 rel = (r, false, rel.await a) := by
    rw [hl]
    exact physRead_eq ha hp
  have hread (hi : i < 4096) : armed = armRead p s.c.bind.secure (dieOf s.ck) (lrAddr rel p i) i x r (rel.await a) :=
    armRecord_eq hi s.c.bind.secure (dieOf s.ck) x hx
  refine ⟨fun h0 hw hn' => ?_, fun hgo => ?_⟩
  · have hi : i < 4096 := by
      by_contra hc
      have h1 : armed = (1, rel) := armRecord_index (by omega) _ _ _ _ _
      rw [h1] at h0
      exact absurd h0 Nat.one_ne_zero
    have hpull : pulled = armqPull (lrHome r) p (rel.await a) := congrArg (armqPull (lrHome r) p) (physRead_inDram ha rel)
    rw [hpull] at hn' ⊢
    refine lrArm_waits hf hn' hi hg (Prod.ext ((congrArg Prod.fst (harm hi)).trans h0) rfl) ?_
    rw [hroom, Bool.not_eq_true]
    exact hw
  · have hnot : ¬ (armed.1 = 0 ∧ (¬ room = true ∨ s.frozen p = true)) := by
      rintro ⟨h0, hw⟩
      obtain ⟨hr, hfz⟩ := hgo h0
      rw [hr, hfz] at hw
      exact hw.elim (fun h => h rfl) Bool.false_ne_true
    by_cases hi : i < 4096
    · have hctx : SameCtxs (rel.await a) armed.2 := by
        rw [hread hi]
        exact armRead_ctxs p s.c.bind.secure (dieOf s.ck) (lrAddr rel p i) i x r (rel.await a)
      have hsame : SameCtxs s armed.2 := (hrel.trans (await_keeps rel a)).toSameCtxs.trans hctx
      have hans : answersStatus s (.lrArm sd sa sb) sd armed.1 armed.2 := by
        refine lrArm_answers hf hslow hsame hn (by rw [if_pos hi]; exact hg) (harm hi) ?_
        rw [hroom]
        exact hnot
      obtain ⟨t, ht, hst, hreg, hpc, hm, hd, hparts⟩ := answersStatus_leaves hsame hsd hans
      refine ⟨t, ht, hst, hreg, hpc, hm, hd, hparts, ?_, fun h0 => ?_⟩
      · rw [hread hi, armRead_status, if_neg (show ¬ 2 ^ 12 ≤ i by omega)]
      · rw [hread hi] at h0 hparts
        obtain ⟨v, hv⟩ := armRead_ok h0
        rw [hv] at hparts
        have hpart : t.part p = _ := congrArg (getAt ({} : Part) p) hparts
        rw [hpart]
        refine (armWrite_nextInst p (dieOf s.ck) (lrAddr rel p i) r i x v (rel.await a)).trans ?_
        rw [(hrel.trans (await_keeps rel a)).records p |>.2]
        rfl
    · have h1 : armed = (1, rel) := armRecord_index (by omega) _ _ _ _ _
      have hans : answersStatus s (.lrArm sd sa sb) sd armed.1 armed.2 := by
        refine lrArm_answers (r := 0) (t := rel) hf hslow ?_ hn (by rw [if_neg hi]; rfl) rfl ?_
        · rw [h1]
          exact hrel.toSameCtxs
        · rw [h1]
          exact fun h => Nat.one_ne_zero h.1
      obtain ⟨t, ht, hst, hreg, hpc, hm, hd, hparts⟩ := answersStatus_leaves (by rw [h1]; exact hrel.toSameCtxs) hsd hans
      refine ⟨t, ht, hst, hreg, hpc, hm, hd, hparts, ?_, fun h0 => ?_⟩
      · rw [h1, if_pos (show 2 ^ 12 ≤ i by omega)]
      · rw [h1] at h0
        exact absurd h0 Nat.one_ne_zero

end Sys2Proof.Machine

/-!
The accesses of a word to memory leave the contexts: what a load, a store and an atomic change lies in the caches, in memory and in the
scope directories.
-/
namespace Sys2Proof.Machine
open Sys2Proof

/-! ### The scope directories (R327 to R331) -/

/-- Only the directories, counters and registers of the dies and of the package differ: no line of an L2, no way, no channel. -/
structure DirsOnly (s t : State) : Prop where
  rest : t = { s with dies := t.dies, pkg := t.pkg }
  lines : ∀ n, (t.die n).l2 = (s.die n).l2 ∧ (t.die n).active = (s.die n).active ∧ (t.die n).chok = (s.die n).chok

section
variable {s t u : State}

theorem DirsOnly.refl (s : State) : DirsOnly s s := ⟨rfl, fun _ => ⟨rfl, rfl, rfl⟩⟩

theorem DirsOnly.trans (h : DirsOnly s t) (h' : DirsOnly t u) : DirsOnly s u := by
  refine ⟨?_, fun n => ?_⟩
  · rw [h'.rest, h.rest]
  · obtain ⟨h1, h2, h3⟩ := h.lines n
    obtain ⟨h1', h2', h3'⟩ := h'.lines n
    exact ⟨h1'.trans h1, h2'.trans h2, h3'.trans h3⟩

theorem DirsOnly.keeps (h : DirsOnly s t) : Keeps s t := by
  rw [h.rest]
  exact ⟨⟨rfl, rfl, rfl⟩, sameRecords_refl s⟩

theorem modPkg_dirsOnly (s : State) (f : Pkg → Pkg) : DirsOnly s (s.modPkg f) := ⟨rfl, fun _ => ⟨rfl, rfl, rfl⟩⟩

/-- A die that keeps its L2, its ways and its channels. -/
theorem modDie_dirsOnly (s : State) (d : Nat) {f : Die → Die}
    (hf : ∀ x, (f x).l2 = x.l2 ∧ (f x).active = x.active ∧ (f x).chok = x.chok) : DirsOnly s (s.modDie d f) := by
  refine ⟨rfl, fun n => ?_⟩
  by_cases hn : n = d
  · subst hn
    rw [die_modDie]
    exact hf _
  · have h : (s.modDie d f).die n = s.die n := getAt_setAt_other _ hn _ _
    rw [h]
    exact ⟨rfl, rfl, rfl⟩

theorem countDie_dirsOnly (s : State) (d i n : Nat) : DirsOnly s (countDie d i n s) := modDie_dirsOnly s d fun _ => ⟨rfl, rfl, rfl⟩

theorem scopePutDie_dirsOnly (s : State) (d : Nat) (e : ScopeEntry) : DirsOnly s (scopePutDie d e s) :=
  modDie_dirsOnly s d fun _ => ⟨rfl, rfl, rfl⟩

theorem scopeMissDie_dirsOnly (s : State) (d line : Nat) : DirsOnly s (scopeMissDie d line s) := by
  unfold scopeMissDie
  split
  · exact countDie_dirsOnly s _ _ _
  · exact DirsOnly.refl s

theorem scopePutHome_dirsOnly (s : State) (e : ScopeEntry) : DirsOnly s (scopePutHome e s) := by
  unfold scopePutHome
  refine DirsOnly.trans ?_ (modPkg_dirsOnly _ _)
  split
  · refine DirsOnly.trans ?_ (modPkg_dirsOnly _ _)
    split
    · exact countDie_dirsOnly s _ _ _
    · exact DirsOnly.refl s
  · exact DirsOnly.refl s

theorem getAt_map {α : Type} {d : α} {f : α → α} (hd : f d = d) (k : Nat) :
    ∀ l : List (Nat × α), getAt d k (l.map fun p => (p.1, f p.2)) = f (getAt d k l)
  | [] => hd.symm
  | (j, v) :: l => by
    by_cases h : j = k
    · simp [getAt, h]
    · simpa [getAt, h] using getAt_map hd k l

theorem scopeForget_dirsOnly (s : State) (p : Nat → Bool) : DirsOnly s (scopeForget p s) := by
  refine ⟨rfl, fun n => ?_⟩
  have h : (scopeForget p s).die n = { s.die n with
      scopes := (s.die n).scopes.filter fun e => !p e.line, unchecked := (s.die n).unchecked.filter fun l => !p l } :=
    getAt_map (f := fun d : Die => { d with
      scopes := d.scopes.filter fun e => !p e.line, unchecked := d.unchecked.filter fun l => !p l }) rfl n s.dies
  rw [h]
  exact ⟨rfl, rfl, rfl⟩

theorem scopeHome_dirsOnly (s : State) (pkg core scope line : Nat) (reg : Option Nat) : DirsOnly s (scopeHome pkg core scope line reg s).2 := by
  unfold scopeHome
  extract_lets old bad dies
  clear_value bad
  cases bad with
  | true => exact DirsOnly.refl s
  | false =>
    cases reg with
    | some d => exact scopePutHome_dirsOnly s _
    | none => exact (scopeForget_dirsOnly s _).trans (scopePutHome_dirsOnly _ _)

theorem scopeCheck_dirsOnly (s : State) (core scope key : Nat) : DirsOnly s (scopeCheck core scope key s).2 := by
  unfold scopeCheck
  dsimp only
  split
  · exact DirsOnly.refl s
  · split
    · split
      · split
        · exact DirsOnly.refl s
        · exact scopePutDie_dirsOnly s _ _
      · have h := (scopeMissDie_dirsOnly s (core / 48) (key / 128)).trans (scopeHome_dirsOnly _ s.pkg.num.toNat core scope (key / 128) (some (core / 48)))
        split
        · exact h
        · exact h.trans (scopePutDie_dirsOnly _ _ _)
    · exact scopeHome_dirsOnly s _ _ _ _ _

/-- A sync access that raises no SCOPE trap changes the directories. -/
theorem runOp_syncCheck_ok {ck scope key : Nat} {a : Unit} (h : runOp (syncCheck ck scope key) s = (.ok a, t)) : DirsOnly s t := by
  have hd := scopeCheck_dirsOnly s (coreOf ck) scope key
  unfold syncCheck at h
  rw [runOp_bind_ok (runOp_getS s)] at h
  dsimp only at h
  split at h
  · cases h
  · cases h
    exact hd

theorem keepsAt_syncCheck (s : State) (ck scope key : Nat) : KeepsAt (syncCheck ck scope key) s := by
  unfold syncCheck
  refine keepsAt_getS ?_
  dsimp only
  exact keepsAt_ite (fun _ => keepsAt_throw _ s) fun _ => keepsAt_upd (scopeCheck_dirsOnly s _ _ _).keeps

end

/-! ### Loads, stores and atomics -/

theorem keepsAt_needRoute (s : State) (ck scope : Nat) (m : BitVec 16) : KeepsAt (needRoute ck scope m) s := by
  unfold needRoute
  refine keepsAt_getS ?_
  exact keepsAt_ite (fun _ => keepsAt_throw _ s) fun _ => keepsAt_pure _ s

theorem l2Room_keeps (die part line : Nat) (s : State) : Keeps s (s.l2Room die part line).2 := by
  unfold State.l2Room
  dsimp only
  split
  · exact Keeps.refl s
  · split
    · exact Keeps.refl s
    · split
      · exact ⟨⟨rfl, rfl, rfl⟩, sameRecords_refl s⟩
      · exact Keeps.trans (t := s.draw.2) ⟨⟨rfl, rfl, rfl⟩, sameRecords_refl s⟩ ((l2Drop_onHomes _ _).keeps _)

theorem l2Put_keeps (die : Nat) (l : L2Line) (s : State) : Keeps s (s.l2Put die l) := by
  unfold State.l2Put
  split
  · exact modDie_keeps s _ _
  · exact (cleanLine_cleans l).keeps s

theorem l2Get_keeps (die part line cls : Nat) (s : State) : Keeps s (s.l2Get die part line cls).2 := by
  unfold State.l2Get
  split
  · exact Keeps.refl s
  · exact (l2Room_keeps die part line s).trans (l2Put_keeps _ _ _)

theorem l2WriteIn_keeps (die part key n v cls : Nat) (s : State) : Keeps s (s.l2WriteIn die part key n v cls) := by
  unfold State.l2WriteIn
  split
  · exact Keeps.refl s
  · exact (l2Get_keeps die part (key / 128) cls s).trans (l2Put_keeps _ _ _)

theorem l1Fill_keeps (core : Nat) (l : L1Line) (s : State) : Keeps s (l1Fill core l s) := by
  unfold l1Fill
  dsimp only
  split
  · exact modCore_keeps s _ _
  · exact ⟨⟨rfl, rfl, rfl⟩, sameRecords_refl s⟩

theorem keepsAt_loadAt (s : State) (ck ea key n cls ord scope : Nat) : KeepsAt (loadAt ck ea key n cls ord scope) s := by
  unfold loadAt
  refine keepsAt_getS ?_
  extract_lets part m rest
  have hrest (a : Unit) (t : State) : KeepsAt (rest a) t := by
    refine keepsAt_getS ?_
    dsimp only
    split
    · exact keepsAt_bind (keepsAt_memUeIf t _ _ _ _) fun _ u _ => keepsAt_pure _ u
    · exact keepsAt_upd_bind ((l2Get_keeps _ _ _ _ t).trans (l1Fill_keeps _ _ _))
        (keepsAt_bind (keepsAt_memUeIf _ _ _ _ _) fun _ u _ => keepsAt_pure _ u)
  clear_value rest
  refine keepsAt_ite (fun _ => keepsAt_bind (keepsAt_needRoute s _ _ _) fun _ t _ =>
    keepsAt_bind (keepsAt_syncCheck t _ _ _) fun _ u _ => ?_) fun _ => hrest _ s
  exact keepsAt_ite (fun _ => keepsAt_upd_bind ((l2Drop_onHomes _ _).keeps u) (keepsAt_upd_bind (acquire_keeps _ _ _ _) (hrest _ _)))
    fun _ => keepsAt_upd_bind (acquire_keeps _ _ _ _) (hrest _ _)

theorem keepsAt_amoAt (s : State) (ck part key n op b x cls scope : Nat) : KeepsAt (amoAt ck part key n op b x cls scope) s := by
  unfold amoAt
  refine keepsAt_getS (keepsAt_ite (fun _ => ?_) fun _ => ?_)
  · refine keepsAt_upd_bind ((l2Drop_onHomes _ _).keeps s) (keepsAt_getS ?_)
    refine keepsAt_bind (keepsAt_memUeIf _ _ _ _ _) fun _ t _ => keepsAt_bind (keepsAt_syncCheck t _ _ _) fun _ u _ => ?_
    exact keepsAt_ite (fun _ => keepsAt_pure _ u) fun _ => keepsAt_upd_bind ((homeWrite_cleans _ _ _).keeps u) (keepsAt_pure _ _)
  · refine keepsAt_upd_bind (l2Get_keeps (dieOf ck) part (key / 128) cls s) ?_
    refine keepsAt_bind (keepsAt_memUeIf _ _ _ _ _) fun _ t _ => keepsAt_bind (keepsAt_syncCheck t _ _ _) fun _ u _ => ?_
    exact keepsAt_ite (fun _ => keepsAt_pure _ u) fun _ => keepsAt_upd_bind (l2WriteIn_keeps _ _ _ _ _ _ u) (keepsAt_pure _ _)

end Sys2Proof.Machine

/-!
The copy words of SQ (O28): a copy takes its number and its place in the queue of its context.
-/
namespace Sys2Proof.Machine
open Sys2Proof

/-- A part that answers is two parts that answer. -/
theorem runOp_bind_eq_ok {α β : Type} {o : Op α} {f : α → Op β} {s t : State} {b : β} (h : runOp (o >>= f) s = (.ok b, t)) :
    ∃ a u, runOp o s = (.ok a, u) ∧ runOp (f a) u = (.ok b, t) := by
  rw [runOp_bind] at h
  rcases hx : runOp o s with ⟨x | a, u⟩
  · rw [hx] at h
    cases h
  · rw [hx] at h
    exact ⟨a, u, rfl, h⟩

/-! ### The queue of a copy context (R147) -/

/-- The registers of a context in which a copy has taken number `n` and its place. -/
def enqueuedRegs (sd cx n : Nat) (q : CxCmd) (r : Regs) : Regs := { r with
  s := if sd = 0 then r.s else vset r.s sd (BitVec.ofNat 64 n)
  tl := vset r.tl (2 + cx) { vget {} r.tl (2 + cx) with issued := (vget {} r.tl (2 + cx)).issued + 1 }
  pend := none
  cxQ := vset r.cxQ cx (vget [] r.cxQ cx ++ [{ q with num := n }]) }

section
variable {s t u : State} {ck sd cx : Nat} {q : CxCmd}

theorem runOp_cxEnqueue_room (h : (vget [] (s.ctx ck).r.cxQ cx).length < 8) : runOp (cxEnqueue ck sd cx q) s
    = (.ok (), s.modRegs ck (enqueuedRegs sd cx ((s.timeline ck (2 + cx)).issued.toNat + 1) q)) := by
  unfold cxEnqueue
  rw [runOp_bind_ok (runOp_getS s), if_neg (by omega)]
  refine (runOp_bind_ok (runOp_upd _ s)).trans ((runOp_upd _ _).trans (congrArg (Prod.mk _) ?_))
  unfold sPut modTl
  by_cases h0 : sd = 0
  · rw [if_pos h0, modRegs_modRegs]
    exact congrArg (fun f => s.modRegs ck f) (funext fun r => by simp [enqueuedRegs, h0])
  · rw [if_neg h0, modRegs_modRegs, modRegs_modRegs]
    exact congrArg (fun f => s.modRegs ck f) (funext fun r => by simp [enqueuedRegs, h0])

/-- Without room, the word waits. -/
theorem runOp_cxEnqueue_full (h : 8 ≤ (vget [] (s.ctx ck).r.cxQ cx).length) : ∃ t, runOp (cxEnqueue ck sd cx q) s = (.error (.wait (.cxRoom cx)), t) := by
  unfold cxEnqueue
  rw [runOp_bind_ok (runOp_getS s), if_pos h]
  exact ⟨_, (runOp_bind_ok (runOp_upd _ s)).trans (runOp_bind_error rfl)⟩

theorem runOp_cxEnqueue_eq_ok {a : Unit} (h : runOp (cxEnqueue ck sd cx q) s = (.ok a, t)) :
    t = s.modRegs ck (enqueuedRegs sd cx ((s.timeline ck (2 + cx)).issued.toNat + 1) q) := by
  rcases Nat.lt_or_ge (vget [] (s.ctx ck).r.cxQ cx).length 8 with hl | hl
  · rw [runOp_cxEnqueue_room hl] at h
    exact (Prod.mk.inj h).2.symm
  · obtain ⟨t', h'⟩ := runOp_cxEnqueue_full (ck := ck) (sd := sd) (cx := cx) (q := q) hl
    rw [h'] at h
    cases h

theorem keepsAt_cxDesc (s : State) (q : Requester) (isAb : Bool) (ptr len acc : Nat) : KeepsAt (cxDesc q isAb ptr len acc) s := by
  unfold cxDesc
  refine keepsAt_ite (fun _ => keepsAt_pure _ s) fun _ => keepsAt_bind ?_ fun _ t _ => keepsAt_bind ?_ fun _ u _ => keepsAt_pure _ u
  · exact keepsAt_atFaddr (par_flatDesc (Alike.refl s) q ptr len acc).keeps _
  · exact (par_readDesc (Alike.refl t) q _ _).keeps

/-- A record that passes its checks joins the queue. -/
theorem runOp_cxIssue_eq_ok {cls r : Nat} {a : Unit} (h : runOp (cxIssue ck sd cx cls r) s = (.ok a, t)) :
    ∃ q u, Keeps s u ∧ q.prog = 0 ∧ t = u.modRegs ck (enqueuedRegs sd cx ((u.timeline ck (2 + cx)).issued.toNat + 1) q) := by
  unfold cxIssue at h
  dsimp only at h
  obtain ⟨_, s1, h1, h⟩ := runOp_bind_eq_ok h
  obtain ⟨_, s2, h2, h⟩ := runOp_bind_eq_ok h
  obtain ⟨_, s3, h3, h⟩ := runOp_bind_eq_ok h
  obtain ⟨_, s4, h4, h⟩ := runOp_bind_eq_ok h
  obtain ⟨_, s5, h5, h⟩ := runOp_bind_eq_ok h
  have k1 := (keepsAt_failIf _ _ s).of_ok h1
  have k2 := (show KeepsAt getS s1 from Keeps.refl s1).of_ok h2
  have k3 := (keepsAt_failIf _ _ _).of_ok h3
  have k4 := (keepsAt_cxDesc _ _ _ _ _ _).of_ok h4
  have k5 := (keepsAt_cxDesc _ _ _ _ _ _).of_ok h5
  exact ⟨_, s5, k1.trans (k2.trans (k3.trans (k4.trans k5))), rfl, runOp_cxEnqueue_eq_ok h⟩

/-- A copy that waits for nothing reads its record and issues. -/
theorem runOp_cxCopyIssue_eq_ok {sa : Nat} {a : Unit} (hslow : s.slow = false) (hp : ∀ a b q, s.c.r.pend ≠ some (.copy a b q))
    (h : runOp (cxCopyIssue sd sa cx s) s = (.ok a, t)) :
    ∃ q u, Keeps s u ∧ q.prog = 0 ∧ t = u.modRegs s.ck (enqueuedRegs sd cx ((u.timeline s.ck (2 + cx)).issued.toNat + 1) q) := by
  unfold cxCopyIssue at h
  split at h
  next a b q hq => exact absurd hq (hp a b q)
  · dsimp only at h
    obtain ⟨ea, s1, h1, h⟩ := runOp_bind_eq_ok h
    obtain ⟨key, s2, h2, h⟩ := runOp_bind_eq_ok h
    rw [hslow] at h
    obtain ⟨r, s3, h3, h⟩ := runOp_bind_eq_ok h
    have k1 := (keepsAt_flatAddr s _ _ _).of_ok h1
    have k2 := (keepsAt_flatKey s1 _ _ _ _).of_ok h2
    have k3 := (keepsAt_atFaddr (keepsAt_loadAt s2 _ _ _ _ _ _ _) _).of_ok h3
    obtain ⟨q, u, hk, hq, ht⟩ := runOp_cxIssue_eq_ok h
    exact ⟨q, u, k1.trans (k2.trans (k3.trans hk)), hq, ht⟩

theorem ctx_enqueued (u : State) (ck sd cx n : Nat) (q : CxCmd) :
    (u.modRegs ck (enqueuedRegs sd cx n q)).ctx ck = { u.ctx ck with r := enqueuedRegs sd cx n q (u.ctx ck).r } := ctx_modRegs _ _ _

/-- What a copy that has issued leaves. -/
theorem copy_leaves {i : Instr} {n : Nat} (hk : Keeps s u) (hsd : sd < 32) (hcx : cx < 4)
    (hi : exec i s = s.onward .sq (u.modRegs s.ck (enqueuedRegs sd cx n q))) :
    ∃ x, exec i s = .next x ∧ vget [] x.c.r.cxQ cx = vget [] s.c.r.cxQ cx ++ [{ q with num := n }] ∧ x.c.r.pend = none
      ∧ (x.timeline s.ck (2 + cx)).issued = (s.timeline s.ck (2 + cx)).issued + 1
      ∧ sGet x sd = (if sd = 0 then 0 else BitVec.ofNat 64 n) ∧ (∀ k, k ≠ sd → sGet x k = sGet s k)
      ∧ (x.c.stream .sq).pc = (s.c.stream .sq).next := by
  have hw : (endUnit s.ck .sq (s.c.stream .sq).next (u.modRegs s.ck (enqueuedRegs sd cx n q))).who = s.who := hk.who
  have hc : (endUnit s.ck .sq (s.c.stream .sq).next (u.modRegs s.ck (enqueuedRegs sd cx n q))).c
      = (endUnit s.ck .sq (s.c.stream .sq).next (u.modRegs s.ck (enqueuedRegs sd cx n q))).ctx s.ck := c_of_who hw
  have hx := endUnit_ctx s.ck .sq (s.c.stream .sq).next (u.modRegs s.ck (enqueuedRegs sd cx n q))
  have hst := endUnit_stream s.ck .sq (s.c.stream .sq).next (u.modRegs s.ck (enqueuedRegs sd cx n q))
  rw [ctx_enqueued, hk.ctx] at hx
  refine ⟨_, hi, ?_, ?_, ?_, ?_, fun k hne => ?_, ?_⟩
  · show vget [] (endUnit s.ck .sq (s.c.stream .sq).next (u.modRegs s.ck (enqueuedRegs sd cx n q))).c.r.cxQ cx = _
    rw [hc, hx]
    exact vget_vset_same _ _ hcx _
  · show (endUnit s.ck .sq (s.c.stream .sq).next (u.modRegs s.ck (enqueuedRegs sd cx n q))).c.r.pend = _
    rw [hc, hx]
    rfl
  · show (vget {} ((endUnit s.ck .sq (s.c.stream .sq).next (u.modRegs s.ck (enqueuedRegs sd cx n q))).ctx s.ck).r.tl (2 + cx)).issued = _
    rw [hx]
    exact congrArg Timeline.issued (vget_vset_same {} (s.ctx s.ck).r.tl (by omega : 2 + cx < 8) _)
  · show sGet (endUnit s.ck .sq (s.c.stream .sq).next (u.modRegs s.ck (enqueuedRegs sd cx n q))) sd = _
    unfold sGet
    split
    · rfl
    next h0 =>
      rw [hc, hx]
      show vget 0 (if sd = 0 then _ else vset _ sd _) sd = _
      rw [if_neg h0, vget_vset_same _ _ hsd]
  · show sGet (endUnit s.ck .sq (s.c.stream .sq).next (u.modRegs s.ck (enqueuedRegs sd cx n q))) k = _
    unfold sGet
    split
    · rfl
    · rw [hc, hx]
      show vget 0 (if sd = 0 then _ else vset _ sd _) k = _
      split
      · rfl
      · exact vget_vset_other _ _ hne _
  · show ((endUnit s.ck .sq (s.c.stream .sq).next (u.modRegs s.ck (enqueuedRegs sd cx n q))).c.stream .sq).pc = _
    rw [hc, hst]

/-- `cx.copy`, by what its part leaves. -/
theorem run_cxCopy {sa : Nat} (hf : s.fits .sq false 1) (ho : runOp (cxCopyIssue sd sa cx s) s = (.ok (), t)) (hn : t.stuck = none) :
    exec (.cxCopy sd sa cx) s = s.onward .sq t := by
  dsimp only [exec, execCxCopy]
  exact run_onward rfl hf ho hn

end

/-- Settles O28, by the place that a checked copy takes in its queue. -/
theorem sqCopyWords : Obligations.SqCopyWords := by
  intro s s2 sd sa cx hs hsd hcx n
  refine ⟨fun hf hslow hp ho hn => ?_, fun q hf hp hl => ?_, fun hf => ?_⟩
  · obtain ⟨q, u, hk, hq, rfl⟩ := runOp_cxCopyIssue_eq_ok hslow hp ho
    have hi := run_cxCopy hf ho hn
    have hnum : (u.timeline s.ck (2 + cx)).issued.toNat + 1 = n := by
      unfold State.timeline
      rw [hk.ctx]
      rfl
    rw [hnum] at hi
    obtain ⟨t, ht, hc, -, htl, hst, hreg, hpc⟩ := copy_leaves hk hsd hcx hi
    exact ⟨t, _, ht, hc, rfl, hq, htl, hst, hreg, hpc⟩
  · have ho : runOp (cxCopyIssue sd sa cx s) s = (.ok (), s.modRegs s.ck (enqueuedRegs sd cx n q)) := by
      unfold cxCopyIssue
      rw [hp]
      exact runOp_cxEnqueue_room hl
    have hi := run_cxCopy hf ho hs.2.2
    obtain ⟨t, ht, hc, hpend, htl, hst, -, hpc⟩ := copy_leaves (Keeps.refl s) hsd hcx hi
    exact ⟨t, ht, hc, hpend, htl, hst, hpc⟩
  · dsimp only [exec, execCxProg]
    exact run_onward rfl hf (runOp_upd _ s) ((sPut_stuck _ _ _ _).trans hs.2.2)

end Sys2Proof.Machine

/-!
Responses and waits that end (O43): a load and an instruction that has issued answer, a blocked word goes on, a stream retires, and the
oldest step of ME drains.
-/
namespace Sys2Proof.Machine
open Sys2Proof

/-! ### Responses (R107) -/

theorem coreOf_slot {core slot : Nat} (h : slot < 4) : coreOf (core * 4 + slot) = core := by
  unfold coreOf
  omega

theorem respCaches_keeps (ck : Nat) (line : Option Nat) (m : BitVec 16) (scope : Option Nat) (s : State) :
    Keeps s (respCaches ck line m scope s) := by
  have hline (t : State) (l : Nat) : Keeps t (l1Drop (coreOf ck) (fun x => x.line = l) t) := modCore_keeps t _ _
  unfold respCaches
  cases line with
  | none =>
    cases scope with
    | none => exact Keeps.refl s
    | some sc => exact acquire_keeps _ _ _ _
  | some l =>
    cases scope with
    | none => exact hline s l
    | some sc => exact (hline s l).trans (acquire_keeps _ _ _ _)

theorem respCaches_stuck (ck : Nat) (line : Option Nat) (m : BitVec 16) (scope : Option Nat) (s : State) :
    (respCaches ck line m scope s).stuck = s.stuck := by
  unfold respCaches
  cases line <;> cases scope
  · rfl
  · exact acquire_stuck _ _ _ _
  · rfl
  · exact acquire_stuck _ _ _ _

/-- No copy of the line of the access stays in L1D. -/
theorem respCaches_line (ck l : Nat) (m : BitVec 16) (scope : Option Nat) (s : State) :
    ∀ x ∈ ((respCaches ck (some l) m scope s).core (coreOf ck)).l1, x.line ≠ l := by
  have hdrop : ∀ x ∈ ((l1Drop (coreOf ck) (fun x => x.line = l) s).core (coreOf ck)).l1, x.line ≠ l := by
    intro x hx
    have hc : (l1Drop (coreOf ck) (fun x => x.line = l) s).core (coreOf ck) = { s.core (coreOf ck) with
        l1 := (s.core (coreOf ck)).l1.filter fun x => !decide (x.line = l) } := core_modCore _ _ _
    rw [hc] at hx
    simpa using (List.mem_filter.1 hx).2
  cases scope with
  | none => exact hdrop
  | some sc =>
    intro x hx
    by_cases h0 : sc = 0
    · subst h0
      exact hdrop x hx
    · have hc := core_acquire (scope := sc) (by omega) ck m (l1Drop (coreOf ck) (fun x => x.line = l) s)
      have hx' : x ∈ ((acquire ck sc m (l1Drop (coreOf ck) (fun x => x.line = l) s)).core (coreOf ck)).l1 := hx
      rw [hc] at hx'
      exact hdrop x (List.mem_filter.1 hx').1

/-- A step that ends in a state that nothing has stopped. -/
theorem run_of_eq {f : State → State} {s t : State} (h : f s = t) (hn : t.stuck = none) : run f s = .next (settle s t) := by
  rw [run_next (by rw [h]; exact hn), h]

section
variable {s s1 s2 : State} {core slot : Nat}

/-- A load in flight returns. -/
theorem run_sqLoadReturn {sd ea n ty cls ord scope key v : Nat} (ha : (s.ctx (core * 4 + slot)).active = true)
    (hw : ((s.ctx (core * 4 + slot)).stream .sq).wait = some .load)
    (hp : (s.ctx (core * 4 + slot)).r.pend = some (.load sd ea n ty cls ord scope))
    (hk : runOp (flatKey (s.requester (core * 4 + slot) 0 0) ea n 1) (s.modRegs (core * 4 + slot) fun r => { r with pend := none })
      = (.ok key, s1))
    (hl : runOp (loadAt (core * 4 + slot) ea key n cls ord scope) s1 = (.ok v, s2)) (hn : s2.stuck = none) :
    exec (.sqLoadReturn core slot) s = .next (settle s (endUnit (core * 4 + slot) .sq ((s.ctx (core * 4 + slot)).stream .sq).next
      (sPut (core * 4 + slot) sd (tyExtend ty v) s2))) := by
  have ho : runOp (do
      let key ← flatKey (s.requester (core * 4 + slot) 0 0) ea n 1
      loadFinish (core * 4 + slot) sd ea key n ty cls ord scope) (s.modRegs (core * 4 + slot) fun r => { r with pend := none })
      = (.ok (), sPut (core * 4 + slot) sd (tyExtend ty v) s2) :=
    (runOp_bind_ok hk).trans ((runOp_bind_ok (runOp_atFaddr_ok ea hl)).trans (runOp_upd _ s2))
  dsimp only [exec, execSqLoadReturn]
  refine run_of_eq ?_ ((sPut_stuck _ _ _ _).trans hn)
  rw [if_neg (by rw [ha, hw]; simp), hp]
  dsimp only
  rw [ho]

/-- The response of an instruction that has issued. -/
theorem run_sqMemoryResponse (hs : s.calm) {sd : Nat} {wr : Bool} {w : BitVec 64} {line : Option Nat} {mask : BitVec 16} {sc : Option Nat}
    (ha : (s.ctx (core * 4 + slot)).active = true) (hw : ((s.ctx (core * 4 + slot)).stream .sq).wait = some .resp)
    (hp : (s.ctx (core * 4 + slot)).r.pend = some (.resp wr sd w line mask sc)) (hr : respReady (core * 4 + slot) s = true) :
    exec (.sqMemoryResponse core slot) s = .next (settle s
      ((respCaches (core * 4 + slot) line mask sc (collected (core * 4 + slot) wr sd w s)).modStream (core * 4 + slot) .sq
        fun st => { st with wait := none })) := by
  dsimp only [exec, execSqMemoryResponse]
  refine run_of_eq ?_ ((respCaches_stuck _ _ _ _ _).trans hs.2.2)
  rw [if_pos ⟨ha, hw, hr⟩, hp]
  dsimp only
  rw [collectPend_resp hp]

/-- What such a response leaves. -/
theorem memoryResponse_leaves (hs : s.calm) (hslot : slot < 4) {sd : Nat} {wr : Bool} {w : BitVec 64} {line : Option Nat}
    {mask : BitVec 16} {sc : Option Nat} (ha : (s.ctx (core * 4 + slot)).active = true)
    (hw : ((s.ctx (core * 4 + slot)).stream .sq).wait = some .resp)
    (hp : (s.ctx (core * 4 + slot)).r.pend = some (.resp wr sd w line mask sc)) (hr : respReady (core * 4 + slot) s = true) :
    ∃ t, exec (.sqMemoryResponse core slot) s = .next t ∧ (t.ctx (core * 4 + slot)).r.pend = none
      ∧ ((t.ctx (core * 4 + slot)).stream .sq).wait = none
      ∧ (∀ k, k < 32 → vget 0 (t.ctx (core * 4 + slot)).r.s k
        = if wr = true ∧ k = sd ∧ sd ≠ 0 then w else vget 0 (s.ctx (core * 4 + slot)).r.s k)
      ∧ ∀ l, line = some l → ∀ x ∈ (t.core core).l1, x.line ≠ l := by
  have hk := respCaches_keeps (core * 4 + slot) line mask sc (collected (core * 4 + slot) wr sd w s)
  have hc := ctx_modStream (respCaches (core * 4 + slot) line mask sc (collected (core * 4 + slot) wr sd w s)) (core * 4 + slot) .sq
    fun st => { st with wait := none }
  rw [hk.ctx, ctx_collected] at hc
  refine ⟨_, run_sqMemoryResponse hs ha hw hp hr, (congrArg (fun c : Ctx => c.r.pend) hc :), ?_, fun k h32 => ?_, ?_⟩
  · exact ((congrArg (fun c : Ctx => (c.stream .sq).wait) hc).trans (congrArg Stream.wait (regs_stream_modStream _ _ _)) :)
  · refine (congrArg (fun c : Ctx => vget 0 c.r.s k) hc :).trans ?_
    show vget 0 (if wr = true ∧ sd ≠ 0 then vset (s.ctx (core * 4 + slot)).r.s sd w else (s.ctx (core * 4 + slot)).r.s) k = _
    by_cases hsd : wr = true ∧ sd ≠ 0
    · rw [if_pos hsd]
      by_cases hk : k = sd
      · subst hk
        rw [if_pos ⟨hsd.1, rfl, hsd.2⟩, vget_vset_same _ _ h32]
      · rw [if_neg fun h => hk h.2.1, vget_vset_other _ _ hk]
    · rw [if_neg hsd, if_neg fun h => hsd ⟨h.1, h.2.2⟩]
  · rintro l rfl
    have hline := respCaches_line (core * 4 + slot) l mask sc (collected (core * 4 + slot) wr sd w s)
    rw [coreOf_slot hslot] at hline
    exact hline

/-! ### Blocked words (R15, R24, R235) -/

/-- The counts of a grant change the streams alone. -/
theorem grantAt_state {k : Nat} {u : StreamId} {g : State} (h : grantAt core u s = some (k, g)) : ∃ x, g = { s with ctxs := x } := by
  have hfold (f : State → Nat → State) (hf : ∀ t j, (∃ x, t = { s with ctxs := x }) → ∃ x, f t j = { s with ctxs := x }) :
      ∀ (l : List Nat) (t : State), (∃ x, t = { s with ctxs := x }) → ∃ x, l.foldl f t = { s with ctxs := x } := by
    intro l
    induction l with
    | nil => exact fun t ht => ht
    | cons j l ih => exact fun t ht => ih (f t j) (hf t j ht)
  unfold grantAt at h
  obtain ⟨j, -, hj⟩ := Option.map_eq_some_iff.1 h
  obtain ⟨-, rfl⟩ := Prod.mk.inj hj
  refine hfold _ (fun t j ht => ?_) _ s ⟨s.ctxs, rfl⟩
  obtain ⟨x, rfl⟩ := ht
  split
  · exact ⟨_, rfl⟩
  · exact ⟨x, rfl⟩

/-- A blocked word whose wait is met. -/
theorem ready_of_waitMet {u : StreamId} {w : Wait} (ha : (s.ctx (core * 4 + slot)).active = true)
    (hw : ((s.ctx (core * 4 + slot)).stream u).wait = some w) (hret : w ≠ .retire) (hm : waitMet (core * 4 + slot) u w s = true)
    (hc : (s.ctx (core * 4 + slot)).cmdHalted u = false) (hr : ((s.ctx (core * 4 + slot)).stream u).retired = false)
    (hd : ((s.ctx (core * 4 + slot)).stream u).drained = false) (ho : slotOpen core slot s = true) : ready ⟨core, slot, u⟩ s = true := by
  have hover : waitOver (core * 4 + slot) u s = true := by
    unfold waitOver
    rw [hw]
    dsimp only
    rw [hm, decide_eq_true hret]
    rfl
  unfold ready
  dsimp only
  rw [ha, hr, hd, hc, ho, hover]
  rfl

/-- What goes on is the machine with the grant's counts, and the word's wait gone. -/
theorem run_unblock (hs : s.calm) {k : Nat} {u : StreamId} {g : State} {f : State → State} (hg : grantAt core u s = some (k, g))
    (hf : f s = unblock core slot u s) : run f s = .next (if k = slot then
      { g.modStream (core * 4 + slot) u fun st => { st with wait := none } with lock := some ⟨core, slot, u⟩ } else s) := by
  obtain ⟨x, hx⟩ := grantAt_state hg
  have hu : unblock core slot u s = if k = slot then
      { g.modStream (core * 4 + slot) u fun st => { st with wait := none } with lock := some ⟨core, slot, u⟩ } else s := by
    unfold unblock
    rw [hg]
  rw [run_of_eq (hf.trans hu)]
  · congr 1
    split
    · subst hx
      exact settle_calm hs rfl rfl rfl rfl
    · exact settle_calm hs rfl rfl rfl rfl
  · split
    · subst hx
      exact hs.2.2
    · exact hs.2.2

/-- A stream whose `end` has waited retires. -/
theorem streamRetire_leaves (hs : s.calm) {stream : Nat} (ha : (s.ctx (core * 4 + slot)).active = true)
    (hw : ((s.ctx (core * 4 + slot)).stream (StreamId.ofCode stream)).wait = some .retire)
    (hm : waitMet (core * 4 + slot) (StreamId.ofCode stream) .retire s = true) :
    ∃ t, exec (.streamRetire core slot stream) s = .next t
      ∧ ((t.ctx (core * 4 + slot)).stream (StreamId.ofCode stream)).retired = true
      ∧ ((t.ctx (core * 4 + slot)).stream (StreamId.ofCode stream)).wait = none
      ∧ ∀ x, x ≠ StreamId.ofCode stream → (t.ctx (core * 4 + slot)).stream x = (s.ctx (core * 4 + slot)).stream x := by
  have hx : exec (.streamRetire core slot stream) s = .next (settle s (retire (core * 4 + slot) (StreamId.ofCode stream) s)) := by
    dsimp only [exec, execStreamRetire]
    refine run_of_eq ?_ hs.2.2
    rw [if_pos ⟨hw, ha, hm⟩]
  have hc := ctx_modStream s (core * 4 + slot) (StreamId.ofCode stream) fun st => { st.noPfx with retired := true, wait := none }
  have hst := regs_stream_modStream (s.ctx (core * 4 + slot)) (StreamId.ofCode stream)
    fun st => { st.noPfx with retired := true, wait := none }
  refine ⟨_, hx, ?_, ?_, fun x hne => ?_⟩
  · exact ((congrArg (fun c : Ctx => (c.stream (StreamId.ofCode stream)).retired) hc).trans (congrArg Stream.retired hst) :)
  · exact ((congrArg (fun c : Ctx => (c.stream (StreamId.ofCode stream)).wait) hc).trans (congrArg Stream.wait hst) :)
  · exact ((congrArg (fun c : Ctx => c.stream x) hc).trans (regs_stream_modStream_other _ hne _) :)

end

/-! ### The drain of ME (R228, R231, R403) -/

/-- What a step reads of ME is as it was: its stream, its registers and FLAGS. -/
structure MeStands (ck : Nat) (s t : State) : Prop where
  stream : (t.ctx ck).stream .me = (s.ctx ck).stream .me
  flags : (t.ctx ck).r.flags = (s.ctx ck).r.flags
  me : (t.ctx ck).r.me = (s.ctx ck).r.me

section
variable {s t u : State} {ck : Nat}

theorem MeStands.trans (h : MeStands ck s t) (h' : MeStands ck t u) : MeStands ck s u :=
  ⟨h'.stream.trans h.stream, h'.flags.trans h.flags, h'.me.trans h.me⟩

theorem MeStands.of_ctx (h : t.ctx ck = s.ctx ck) : MeStands ck s t := ⟨by rw [h], by rw [h], by rw [h]⟩

theorem modStream_meStands (s : State) {v : StreamId} (h : StreamId.me ≠ v) (f : Stream → Stream) : MeStands ck s (s.modStream ck v f) := by
  have hc := ctx_modStream s ck v f
  refine ⟨?_, by rw [hc]; rfl, by rw [hc]; rfl⟩
  rw [hc]
  exact regs_stream_modStream_other _ h f

/-- The effects of an issued instruction of SQ leave ME as it stands. -/
theorem collectPend_meStands (ck : Nat) (s : State) : MeStands ck s (collectPend ck s) := by
  have hfree : MeStands ck s (s.modRegs ck fun r => { r with pend := none }) := by
    have hc := ctx_modRegs s ck fun r => { r with pend := none }
    exact ⟨by rw [hc]; rfl, by rw [hc], by rw [hc]⟩
  unfold collectPend
  split
  · next wr sd v line m scope hp =>
    have hc := ctx_collected s ck wr sd v
    have h1 : MeStands ck s (collected ck wr sd v s) := ⟨by rw [hc]; rfl, by rw [hc], by rw [hc]⟩
    exact h1.trans (.of_ctx ((respCaches_keeps ck line m scope _).ctx ck))
  · exact (hfree.trans (modStream_meStands _ (by decide) _)).trans (modStream_meStands _ (by decide) _)
  · exact hfree

/-- The draining steps run to their end: ME's stream stands, none is left, and without one FLAGS stands. -/
theorem flushDrains_leaves (ck : Nat) (s : State) : ((flushDrains ck s).ctx ck).stream .me = (s.ctx ck).stream .me
    ∧ ((flushDrains ck s).ctx ck).r.me.drains = []
    ∧ ((s.ctx ck).r.me.drains = [] → ((flushDrains ck s).ctx ck).r.flags = (s.ctx ck).r.flags) := by
  have hfold : ∀ (l : List MeDrain) (t : State),
      ((l.foldl (fun s d => applyDrain ck d s) t).ctx ck).stream .me = (t.ctx ck).stream .me := by
    intro l
    induction l with
    | nil => exact fun t => rfl
    | cons d l ih =>
      intro t
      have hd := ctx_modRegs (t.bufBytes d.cells) ck fun r => { r with flags := r.flags ||| d.flags }
      exact (ih (applyDrain ck d t)).trans (congrArg (fun c : Ctx => c.stream .me) hd :)
  have hc := ctx_modRegs ((s.ctx ck).r.me.drains.foldl (fun s d => applyDrain ck d s) s) ck
    fun r => { r with me := { r.me with drains := [] } }
  refine ⟨?_, (congrArg (fun c : Ctx => c.r.me.drains) hc :), fun hn => ?_⟩
  · exact (congrArg (fun c : Ctx => c.stream .me) hc :).trans (hfold _ s)
  · refine (congrArg (fun c : Ctx => c.r.flags) hc :).trans ?_
    rw [hn]
    rfl

/-- A cause that ME has taken is its first. -/
theorem noteCause_taken {v : StreamId} (h : ((s.ctx ck).stream v).cause ≠ 0) (c : Cause) (a : Option Nat) :
    ((noteCause ck v c a s).ctx ck).stream v = (s.ctx ck).stream v := by
  unfold noteCause
  rw [ctx_modStream, regs_stream_modStream, if_neg h]

theorem noteCause_regs (v : StreamId) (c : Cause) (a : Option Nat) (s : State) :
    ((noteCause ck v c a s).ctx ck).r.flags = (s.ctx ck).r.flags ∧ ((noteCause ck v c a s).ctx ck).r.me = (s.ctx ck).r.me := by
  unfold noteCause
  rw [ctx_modStream]
  exact ⟨rfl, rfl⟩

/-- A hard stop keeps the cause that ME has taken, and ends its draining steps (R403, R404). -/
theorem hardStop_me (h : ((s.ctx ck).stream .me).cause ≠ 0) :
    (((hardStop ck s).ctx ck).stream .me).cause = ((s.ctx ck).stream .me).cause
      ∧ (((hardStop ck s).ctx ck).stream .me).recorded = ((s.ctx ck).stream .me).recorded
      ∧ ((hardStop ck s).ctx ck).r.me.drains = []
      ∧ ((s.ctx ck).r.me.drains = [] → ((hardStop ck s).ctx ck).r.flags = (s.ctx ck).r.flags) := by
  have hp := collectPend_meStands ck s
  obtain ⟨hfs, hfd, hff⟩ := flushDrains_leaves ck (collectPend ck s)
  unfold hardStop
  extract_lets inv a b c e
  have hb := ctx_modRegs a ck fun r => { r with streams := r.streams.map haltStream, ve := { r.ve with group := {} } }
  have hbs : (b.ctx ck).stream .me = haltStream ((s.ctx ck).stream .me) := by
    refine (congrArg (fun c : Ctx => c.stream .me) hb :).trans ?_
    rw [← hp.stream, ← hfs]
    exact Vector.getElem_map _ _
  have hbd : (b.ctx ck).r.me.drains = [] := (congrArg (fun c : Ctx => c.r.me.drains) hb :).trans hfd
  have hbf : (s.ctx ck).r.me.drains = [] → (b.ctx ck).r.flags = (s.ctx ck).r.flags := fun hn =>
    (congrArg (fun c : Ctx => c.r.flags) hb :).trans ((hff (by rw [hp.me, hn])).trans hp.flags)
  change ((c.ctx ck).stream .me).cause = _ ∧ ((c.ctx ck).stream .me).recorded = _ ∧ (c.ctx ck).r.me.drains = []
    ∧ (_ → (c.ctx ck).r.flags = _)
  dsimp only [c]
  clear e c
  clear_value b inv
  cases inv with
  | none => exact ⟨(congrArg Stream.cause hbs :), (congrArg Stream.recorded hbs :), hbd, hbf⟩
  | some d =>
    have hc : ((b.ctx ck).stream .me).cause ≠ 0 := by rw [hbs]; exact h
    have hst := (noteCause_taken hc .arithInv (some d.pc)).trans hbs
    obtain ⟨hnf, hnm⟩ := noteCause_regs (ck := ck) .me .arithInv (some d.pc) b
    exact ⟨(congrArg Stream.cause hst :), (congrArg Stream.recorded hst :), (congrArg MeRegs.drains hnm :).trans hbd,
      fun hn => hnf.trans (hbf hn)⟩

/-- The ARITH_INV of a step of ME halts the context (R60, R231). -/
theorem trapInv_me (ck pc : Nat) (s : State) : ((trapInv ck .me pc s).ctx ck).st = .halting
    ∧ ((trapInv ck .me pc s).ctx ck).r.me.drains = []
    ∧ ((s.ctx ck).r.me.drains = [] → ((trapInv ck .me pc s).ctx ck).r.flags = (s.ctx ck).r.flags)
    ∧ (((s.ctx ck).stream .me).cause = 0 → (((trapInv ck .me pc s).ctx ck).stream .me).cause = Cause.arithInv.code
      ∧ (((trapInv ck .me pc s).ctx ck).stream .me).recorded = some pc) := by
  have hnote (s : State) (a : Option Nat) : ((noteCause ck .me .arithInv a s).ctx ck).stream .me
      = if ((s.ctx ck).stream .me).cause = 0 then { (s.ctx ck).stream .me with cause := Cause.arithInv.code, recorded := a }
        else (s.ctx ck).stream .me := by
    unfold noteCause
    rw [ctx_modStream, regs_stream_modStream]
  have hset (s : State) (a : Option Nat) : (((noteCause ck .me .arithInv a s).ctx ck).stream .me).cause ≠ 0 := by
    rw [hnote]
    split
    · show Cause.arithInv.code ≠ 0
      decide
    · assumption
  have h1 := noteCause_regs (ck := ck) .me .arithInv (some pc) s
  have h2 := noteCause_regs (ck := ck) .me .arithInv none (noteCause ck .me .arithInv (some pc) s)
  have hsame := noteCause_taken (hset s (some pc)) .arithInv none
  obtain ⟨hcause, hrec, hdr, hfl⟩ := hardStop_me (hset (noteCause ck .me .arithInv (some pc) s) none)
  unfold trapInv takeTrap stopContext
  dsimp only
  rw [ctx_modCtx]
  refine ⟨rfl, hdr, fun hn => ?_, fun h0 => ⟨?_, ?_⟩⟩
  · exact (hfl (by rw [h2.2, h1.2, hn])).trans (h2.1.trans h1.1)
  · refine hcause.trans ?_
    rw [hsame, hnote, if_pos h0]
  · refine hrec.trans ?_
    rw [hsame, hnote, if_pos h0]

/-- The oldest step of ME drains. -/
theorem meStepComplete_leaves {core slot : Nat} {d : MeDrain} {l : List MeDrain} (hs : s.calm)
    (hd : (s.ctx (core * 4 + slot)).r.me.drains = d :: l) :
    ∃ t, exec (.meStepComplete core slot) s = .next t
      ∧ (d.inve = false ∨ l = [] → (t.ctx (core * 4 + slot)).r.flags = (s.ctx (core * 4 + slot)).r.flags ||| d.flags)
      ∧ (d.inve = false → t.buf = commit s.buf d.cells.reverse
          ∧ (t.ctx (core * 4 + slot)).r.me = { (s.ctx (core * 4 + slot)).r.me with drains := l }
          ∧ t.mem = s.mem ∧ (t.ctx (core * 4 + slot)).st = (s.ctx (core * 4 + slot)).st)
      ∧ (d.inve = true → (t.ctx (core * 4 + slot)).st = .halting ∧ (t.ctx (core * 4 + slot)).r.me.drains = []
          ∧ (((s.ctx (core * 4 + slot)).stream .me).cause = 0 → ((t.ctx (core * 4 + slot)).stream .me).cause = Cause.arithInv.code
            ∧ ((t.ctx (core * 4 + slot)).stream .me).recorded = some d.pc)) := by
  obtain ⟨hw, hb, hn⟩ := hs
  let a := applyDrain (core * 4 + slot) d (modMe (core * 4 + slot) (fun m => { m with drains := l }) s)
  have hc : a.ctx (core * 4 + slot) = { s.ctx (core * 4 + slot) with r := { (s.ctx (core * 4 + slot)).r with
      flags := (s.ctx (core * 4 + slot)).r.flags ||| d.flags, me := { (s.ctx (core * 4 + slot)).r.me with drains := l } } } := by
    refine (ctx_modRegs _ _ _).trans ?_
    have hm : ((modMe (core * 4 + slot) (fun m => { m with drains := l }) s).bufBytes d.cells).ctx (core * 4 + slot)
        = { s.ctx (core * 4 + slot) with r := { (s.ctx (core * 4 + slot)).r with
            me := { (s.ctx (core * 4 + slot)).r.me with drains := l } } } :=
      ctx_modRegs s _ fun r => { r with me := { r.me with drains := l } }
    rw [hm]
  have hx : run (fun s => match (s.ctx (core * 4 + slot)).me.drains with
      | [] => s
      | d :: l =>
        let s := applyDrain (core * 4 + slot) d (modMe (core * 4 + slot) (fun m => { m with drains := l }) s)
        if d.inve then trapInv (core * 4 + slot) .me d.pc s else s) s
      = .next (settle s (if d.inve then trapInv (core * 4 + slot) .me d.pc a else a)) := by
    refine run_of_eq ?_ ?_
    · rw [show (s.ctx (core * 4 + slot)).me.drains = d :: l from hd]
    · split
      · exact (trapInv_stuck _ _ _ _).trans hn
      · exact hn
  refine ⟨_, hx, ?_⟩
  cases hi : d.inve with
  | false =>
    refine ⟨fun _ => (congrArg (fun c : Ctx => c.r.flags) hc :), fun _ => ⟨?_, (congrArg (fun c : Ctx => c.r.me) hc :), ?_,
      (congrArg Ctx.st hc :)⟩, fun h => absurd h (by decide)⟩
    · show commit s.buf (d.cells.reverse ++ s.bbuf) = _
      rw [hb, List.append_nil]
    · show commit s.mem s.wbuf = _
      rw [hw, commit_nil]
  | true =>
    obtain ⟨hst, hdr, hfl, hca⟩ := trapInv_me (core * 4 + slot) d.pc a
    refine ⟨fun h => ?_, fun h => absurd h (by decide), fun _ => ⟨hst, hdr, fun h0 => hca ?_⟩⟩
    · have hl : l = [] := h.resolve_left (by decide)
      exact (hfl ((congrArg (fun c : Ctx => c.r.me.drains) hc :).trans hl)).trans (congrArg (fun c : Ctx => c.r.flags) hc :)
    · rw [show (a.ctx (core * 4 + slot)).stream .me = (s.ctx (core * 4 + slot)).stream .me from (congrArg (fun c : Ctx => c.stream .me) hc :)]
      exact h0

/-- Settles O43: a part per event, `run_unblock` for the two that let a blocked word go on. -/
theorem responsesAndWaitsEnd : Obligations.ResponsesAndWaitsEnd := by
  intro s s1 s2 core slot stream sd ea n ty cls ord scope key v hs hslot ck c u free ha
  refine ⟨run_sqLoadReturn ha, fun wr w line mask sc hw hp hr => memoryResponse_leaves hs hslot ha hw hp hr,
    fun w k g hw hlock hg => ⟨fun h1 h2 => ?_, fun h => ?_⟩, fun w hw hret hm hc hr hd ho => ready_of_waitMet ha hw hret hm hc hr hd ho,
    streamRetire_leaves hs ha, fun d l hd => meStepComplete_leaves hs hd⟩
  · dsimp only [exec, execWaitSatisfied]
    refine run_unblock hs hg ?_
    rw [hw]
    exact if_pos ⟨h1, h2, hlock⟩
  · dsimp only [exec, execCommandQueueRoom]
    exact run_unblock hs hg (if_pos ⟨hw.trans (congrArg some h), hlock⟩)

end

end Sys2Proof.Machine

/-!
Bytes of numbers, of lines and of memory: what a line whose bytes are replaced holds, and what a line that is read from its home holds.
-/
namespace Sys2Proof.Machine
open Sys2Proof

/-! ### Bytes of numbers -/

/-- Byte `j` of a number. -/
def byteAt (N j : Nat) : Nat := N / 2 ^ (8 * j) % 256

theorem byteAt_mod_two_pow (N : Nat) {j w : Nat} (h : 8 * j + 8 ≤ w) : byteAt (N % 2 ^ w) j = byteAt N j := by
  obtain ⟨k, rfl⟩ : ∃ k, w = 8 * j + (8 + k) := ⟨w - (8 * j + 8), by omega⟩
  unfold byteAt
  rw [pow_add, Nat.mod_mul_right_div_self, pow_add]
  exact Nat.mod_mul_right_mod _ 256 _

theorem byteAt_mod (N : Nat) {j m : Nat} (h : j < m) : byteAt (N % 2 ^ (8 * m)) j = byteAt N j := byteAt_mod_two_pow N (by omega)

theorem byteAt_div (N p j : Nat) : byteAt (N / 2 ^ (8 * p)) j = byteAt N (p + j) := by
  unfold byteAt
  rw [Nat.div_div_eq_div_mul, ← pow_add, ← Nat.mul_add]

/-- The number whose bytes are those of `f`. -/
def ofBytes (f : Nat → Nat) (n : Nat) : Nat := ∑ j ∈ Finset.range n, f j * 2 ^ (8 * j)

theorem ofBytes_succ (f : Nat → Nat) (n : Nat) : ofBytes f (n + 1) = ofBytes f n + f n * 2 ^ (8 * n) := Finset.sum_range_succ _ _

theorem ofBytes_lt {f : Nat → Nat} (hf : ∀ j, f j < 256) : ∀ n, ofBytes f n < 2 ^ (8 * n)
  | 0 => Nat.one_pos
  | n + 1 => by
    have ih := ofBytes_lt hf n
    have h1 : (f n + 1) * 2 ^ (8 * n) ≤ 256 * 2 ^ (8 * n) := Nat.mul_le_mul_right _ (hf n)
    rw [ofBytes_succ, show 8 * (n + 1) = 8 + 8 * n by omega, pow_add]
    rw [Nat.add_mul] at h1
    omega

theorem byteAt_ofBytes {f : Nat → Nat} (hf : ∀ j, f j < 256) {j : Nat} : ∀ {n : Nat}, j < n → byteAt (ofBytes f n) j = f j
  | n + 1, h => by
    have hl := ofBytes_lt hf n
    rw [ofBytes_succ]
    by_cases hj : j = n
    · subst hj
      unfold byteAt
      rw [Nat.add_mul_div_right _ _ (Nat.two_pow_pos _), Nat.div_eq_of_lt hl, Nat.zero_add, Nat.mod_eq_of_lt (hf j)]
    · rw [← byteAt_mod _ (show j < n by omega), Nat.add_mul_mod_self_right, byteAt_mod _ (by omega)]
      exact byteAt_ofBytes hf (by omega)

/-- The low bytes of a number make up its remainder. -/
theorem ofBytes_byteAt (N : Nat) : ∀ n, ofBytes (byteAt N) n = N % 2 ^ (8 * n)
  | 0 => (Nat.mod_one N).symm
  | n + 1 => by
    rw [ofBytes_succ, ofBytes_byteAt N n, show 8 * (n + 1) = 8 * n + 8 by omega, pow_add, Nat.mod_mul, Nat.mul_comm (2 ^ (8 * n))]
    rfl

/-- The sum of bytes as a fold. -/
theorem foldl_bytes (f : Nat → Nat) : ∀ n, (List.range n).foldl (fun a i => a + f i * 2 ^ (8 * i)) 0 = ofBytes f n
  | 0 => rfl
  | n + 1 => by
    rw [List.range_succ, List.foldl_append, foldl_bytes f n, ofBytes_succ]
    rfl

theorem mul_add_lt_mul {a b A B : Nat} (ha : a < A) (hb : b < B) : a * B + b < A * B :=
  calc a * B + b < a * B + B := Nat.add_lt_add_left hb _
    _ = (a + 1) * B := (Nat.succ_mul a B).symm
    _ ≤ A * B := Nat.mul_le_mul_right B ha

/-! ### A number with some of its bytes replaced -/

section
variable (N o n v : Nat)

/-- `n` bytes at byte `o` of a number replaced by those of `v`. -/
def withBytes : Nat := N - N / 2 ^ (8 * o) % 2 ^ (8 * n) * 2 ^ (8 * o) + v % 2 ^ (8 * n) * 2 ^ (8 * o)

/-- The bytes above, the new ones and the bytes below. -/
theorem withBytes_eq : withBytes N o n v
    = (N / 2 ^ (8 * o) / 2 ^ (8 * n) * 2 ^ (8 * n) + v % 2 ^ (8 * n)) * 2 ^ (8 * o) + N % 2 ^ (8 * o) := by
  have h1 := Nat.div_add_mod' N (2 ^ (8 * o))
  have h2 := Nat.div_add_mod' (N / 2 ^ (8 * o)) (2 ^ (8 * n))
  have h3 := congrArg (· * 2 ^ (8 * o)) h2
  simp only [Nat.add_mul] at h3
  unfold withBytes
  rw [Nat.add_mul]
  omega

theorem withBytes_mod : withBytes N o n v % 2 ^ (8 * o) = N % 2 ^ (8 * o) := by
  rw [withBytes_eq, Nat.mul_add_mod', Nat.mod_mod]

theorem withBytes_div : withBytes N o n v / 2 ^ (8 * o) = N / 2 ^ (8 * o) / 2 ^ (8 * n) * 2 ^ (8 * n) + v % 2 ^ (8 * n) := by
  rw [withBytes_eq, Nat.mul_comm, Nat.mul_add_div (Nat.two_pow_pos _), Nat.div_eq_of_lt (Nat.mod_lt _ (Nat.two_pow_pos _)), Nat.add_zero]

theorem byteAt_withBytes (j : Nat) : byteAt (withBytes N o n v) j = if o ≤ j ∧ j < o + n then byteAt v (j - o) else byteAt N j := by
  by_cases hlo : j < o
  · rw [if_neg (by omega), ← byteAt_mod _ hlo, withBytes_mod, byteAt_mod _ hlo]
  · obtain ⟨k, rfl⟩ : ∃ k, j = o + k := ⟨j - o, by omega⟩
    rw [← byteAt_div, withBytes_div, Nat.add_sub_cancel_left]
    by_cases hk : k < n
    · rw [if_pos ⟨by omega, by omega⟩, ← byteAt_mod _ hk, Nat.mul_add_mod', Nat.mod_mod, byteAt_mod _ hk]
    · obtain ⟨m, rfl⟩ : ∃ m, k = n + m := ⟨k - n, by omega⟩
      rw [if_neg (by omega), ← byteAt_div, Nat.mul_comm _ (2 ^ (8 * n)), Nat.mul_add_div (Nat.two_pow_pos _),
        Nat.div_eq_of_lt (Nat.mod_lt _ (Nat.two_pow_pos _)), Nat.add_zero, byteAt_div, byteAt_div]

theorem withBytes_lt {w : Nat} (hN : N < 2 ^ w) (h : 8 * o + 8 * n ≤ w) : withBytes N o n v < 2 ^ w := by
  obtain ⟨k, rfl⟩ : ∃ k, w = k + 8 * n + 8 * o := ⟨w - (8 * o + 8 * n), by omega⟩
  have hq : N / 2 ^ (8 * o) / 2 ^ (8 * n) < 2 ^ k := by
    rw [Nat.div_div_eq_div_mul, ← pow_add, Nat.div_lt_iff_lt_mul (Nat.two_pow_pos _), ← pow_add, Nat.add_comm (8 * o), ← Nat.add_assoc]
    exact hN
  have h1 := mul_add_lt_mul hq (Nat.mod_lt v (Nat.two_pow_pos (8 * n)))
  rw [withBytes_eq, pow_add, pow_add]
  exact mul_add_lt_mul h1 (Nat.mod_lt _ (Nat.two_pow_pos _))

end

theorem toNat_ofNat_withBytes {w : Nat} (d : BitVec w) {o n : Nat} (v : Nat) (h : 8 * o + 8 * n ≤ w) :
    (BitVec.ofNat w (withBytes d.toNat o n v)).toNat = withBytes d.toNat o n v :=
  (BitVec.toNat_ofNat _ _).trans (Nat.mod_eq_of_lt (withBytes_lt d.toNat o n v d.isLt h))

theorem byteAt_toNat_ofNat {w : Nat} (N : Nat) {j : Nat} (h : 8 * j + 8 ≤ w) : byteAt (BitVec.ofNat w N).toNat j = byteAt N j := by
  rw [BitVec.toNat_ofNat, byteAt_mod_two_pow N h]

/-! ### Bytes of a line (R314) -/

section
variable (d : BitVec 1024) {o n : Nat} (v : Nat)

theorem lineSet_toNat (h : o + n ≤ 128) : (lineSet d o n v).toNat = withBytes d.toNat o n v :=
  toNat_ofNat_withBytes d v (by omega)

/-- The bytes that were written. -/
theorem lineBytes_lineSet (h : o + n ≤ 128) : lineBytes (lineSet d o n v) o n = v % 2 ^ (8 * n) := by
  unfold lineBytes
  rw [lineSet_toNat d v h, withBytes_div, Nat.mul_add_mod', Nat.mod_mod]

/-- A byte of a line. -/
def lineByte (j : Nat) : BitVec 8 := BitVec.ofNat 8 (lineBytes d j 1)

theorem lineByte_toNat (j : Nat) : (lineByte d j).toNat = byteAt d.toNat j := by
  show d.toNat / 2 ^ (8 * j) % 2 ^ (8 * 1) % 2 ^ 8 = _
  exact Nat.mod_mod _ _

theorem lineByte_lineSet (h : o + n ≤ 128) (j : Nat) :
    lineByte (lineSet d o n v) j = if o ≤ j ∧ j < o + n then BitVec.ofNat 8 (v / 2 ^ (8 * (j - o))) else lineByte d j := by
  apply BitVec.eq_of_toNat_eq
  rw [lineByte_toNat, lineSet_toNat d v h, byteAt_withBytes]
  split
  · rfl
  · exact (lineByte_toNat d j).symm

theorem lineByte_ofNat (N : Nat) {j : Nat} (hj : j < 128) : (lineByte (BitVec.ofNat 1024 N) j).toNat = byteAt N j := by
  rw [lineByte_toNat, byteAt_toNat_ofNat N (by omega)]

/-- A number of a line is its bytes. -/
theorem lineBytes_eq (o n : Nat) : lineBytes d o n = ofBytes (fun i => (lineByte d (o + i)).toNat) n := by
  have hf : (fun i => (lineByte d (o + i)).toNat) = byteAt (d.toNat / 2 ^ (8 * o)) := by
    funext i
    rw [lineByte_toNat, byteAt_div]
  rw [hf, ofBytes_byteAt]
  rfl

end

/-! ### Bytes of memory -/

/-- A memory's first byte, and the bytes behind it. -/
theorem read_cons_toNat {c : Host.Cell} {m : Memory} (h : Memory.wf (c :: m) = true) (k : Nat) :
    (Memory.read (c :: m) k).toNat = (if c.1 = k then c.2.toNat else 0) + (Memory.read m k).toNat := by
  obtain ⟨a, b⟩ := c
  by_cases hk : a = k
  · subst hk
    have h0 : Memory.read m a = 0#8 := by
      cases m with
      | nil => rfl
      | cons e m =>
        simp only [Memory.wf, Bool.and_eq_true, decide_eq_true_eq] at h
        exact Memory.read_below _ _ h.2 fun x hx => by cases hx; exact h.1.1
    rw [h0]
    simp [Memory.read, getAt]
  · simp [Memory.read, getAt, hk]

theorem Memory.wf_tail {c : Host.Cell} {m : Memory} (h : Memory.wf (c :: m) = true) : Memory.wf m = true := by
  cases m with
  | nil => rfl
  | cons e m =>
    simp only [Memory.wf, Bool.and_eq_true] at h
    exact h.2

/-- The part of `n` bytes at `a` that a cell holds. -/
theorem cell_bytes (a n x b : Nat) : (∑ j ∈ Finset.range n, (if x = a + j then b else 0) * 2 ^ (8 * j))
    = if a ≤ x ∧ x < a + n then b * 2 ^ (8 * (x - a)) else 0 := by
  split
  next h =>
    rw [Finset.sum_eq_single (x - a)]
    · rw [if_pos (by omega)]
    · intro j _ hj
      rw [if_neg (by omega), Nat.zero_mul]
    · intro hx
      exact absurd (Finset.mem_range.2 (by omega)) hx
  next h =>
    refine Finset.sum_eq_zero fun j hj => ?_
    have := Finset.mem_range.1 hj
    rw [if_neg (by omega), Nat.zero_mul]

/-- With no write pending, a range is the bytes of memory. -/
theorem readRange_eq (a n : Nat) (m : Memory) (h : m.wf = true) : readRange m [] a n = ofBytes (fun j => (m.read (a + j)).toNat) n := by
  have hfold (m : Memory) : ∀ v : Nat,
      m.foldl (fun v c => if a ≤ c.1 ∧ c.1 < a + n then v + c.2.toNat * 2 ^ (8 * (c.1 - a)) else v) v = v + readRange m [] a n := by
    induction m with
    | nil => exact fun v => rfl
    | cons c m ih =>
      intro v
      have hr : readRange (c :: m) [] a n = (if a ≤ c.1 ∧ c.1 < a + n then 0 + c.2.toNat * 2 ^ (8 * (c.1 - a)) else 0) + readRange m [] a n :=
        ih _
      rw [hr, List.foldl_cons, ih]
      split <;> omega
  induction m with
  | nil => exact (Finset.sum_eq_zero fun j _ => Nat.zero_mul _).symm
  | cons c m ih =>
    have hr : readRange (c :: m) [] a n = (if a ≤ c.1 ∧ c.1 < a + n then c.2.toNat * 2 ^ (8 * (c.1 - a)) else 0) + readRange m [] a n := by
      refine (hfold m _).trans ?_
      dsimp only
      rw [Nat.zero_add]
    rw [hr, ih (Memory.wf_tail h), ← cell_bytes]
    unfold ofBytes
    rw [← Finset.sum_add_distrib]
    refine Finset.sum_congr rfl fun j _ => ?_
    dsimp only
    rw [read_cons_toNat h, Nat.add_mul]

/-- With no write pending, a line that is read from its home holds the bytes of memory. -/
theorem lineByte_readRange {m : Memory} (hm : m.wf = true) (a : Nat) {j n : Nat} (hj : j < n) (h : n ≤ 128) :
    lineByte (BitVec.ofNat 1024 (readRange m [] a n)) j = m.read (a + j) := by
  apply BitVec.eq_of_toNat_eq
  rw [lineByte_ofNat _ (by omega), readRange_eq a n m hm]
  exact byteAt_ofBytes (fun j => (m.read (a + j)).isLt) hj

end Sys2Proof.Machine

/-!
The lines of a die's L2 (R314): a line that is put there is the one its partition finds, and what the partition's cores see of every
other line stays.
-/
namespace Sys2Proof.Machine
open Sys2Proof

/-! ### A line put in the L2 -/

/-- The lines of a die's L2 with a line put in place of the partition's copies. -/
def putLine (l : L2Line) (ls : List L2Line) : List L2Line :=
  if ls.any (fun x => x.line = l.line ∧ x.owner = l.owner) then
    ls.map fun x => if x.line = l.line ∧ x.owner = l.owner then l else x
  else l :: ls

theorem l2Put_eq {l : L2Line} (h : l.way < 24) (die : Nat) (s : State) :
    s.l2Put die l = s.modDie die fun d => { d with l2 := putLine l d.l2 } := by
  unfold State.l2Put putLine
  rw [if_pos h]
  congr 1
  funext d
  split <;> rfl

section
variable {l : L2Line} (ls : List L2Line) (good : Nat → Bool)

/-- The partition finds the line. -/
theorem find_putLine_own (h : good l.way = true) :
    (putLine l ls).find? (fun x => decide (x.line = l.line ∧ x.owner = l.owner ∧ good x.way = true)) = some l := by
  unfold putLine
  split
  next hany =>
    obtain ⟨y, hy, hm⟩ := List.any_eq_true.1 hany
    have hm' : y.line = l.line ∧ y.owner = l.owner := by simpa using hm
    rw [List.find?_map]
    cases hf : ls.find? ((fun x => decide (x.line = l.line ∧ x.owner = l.owner ∧ good x.way = true))
        ∘ fun x => if x.line = l.line ∧ x.owner = l.owner then l else x) with
    | none =>
      refine absurd (List.find?_eq_none.1 hf y hy) ?_
      simp [hm', h]
    | some z =>
      have hz := List.find?_some hf
      have hsame : z.line = l.line ∧ z.owner = l.owner := by
        by_contra hne
        rw [Function.comp_apply, if_neg hne, decide_eq_true_eq] at hz
        exact hne ⟨hz.1, hz.2.1⟩
      rw [Option.map_some, if_pos hsame]
  next => simp [h]

/-- Every other line is found as before. -/
theorem find_putLine_other {line : Nat} (h : line ≠ l.line) (part : Nat) :
    (putLine l ls).find? (fun x => decide (x.line = line ∧ x.owner = part ∧ good x.way = true))
      = ls.find? fun x => decide (x.line = line ∧ x.owner = part ∧ good x.way = true) := by
  unfold putLine
  split
  next =>
    have hcomp : ((fun x : L2Line => decide (x.line = line ∧ x.owner = part ∧ good x.way = true))
        ∘ fun x => if x.line = l.line ∧ x.owner = l.owner then l else x)
        = fun x => decide (x.line = line ∧ x.owner = part ∧ good x.way = true) := by
      funext x
      rw [Function.comp_apply]
      split
      next hx =>
        rw [decide_eq_false fun hy => h hy.1.symm, decide_eq_false fun hy => h (hy.1.symm.trans hx.1)]
      next => rfl
    rw [List.find?_map, hcomp]
    cases hf : ls.find? (fun x => decide (x.line = line ∧ x.owner = part ∧ good x.way = true)) with
    | none => rfl
    | some y =>
      have hy : y.line = line ∧ y.owner = part ∧ good y.way = true := by simpa using List.find?_some hf
      rw [Option.map_some, if_neg fun hx => h (hy.1.symm.trans hx.1)]
  next => exact List.find?_cons_of_neg (by rw [decide_eq_true_eq]; exact fun hy => h hy.1.symm)

end

/-! ### What a partition's cores see -/

/-- The die's L2 has come to hold the line `l` for its partition; memory, the ways, the channels and the other lines stay. -/
structure HoldsLine (s t : State) (die : Nat) (l : L2Line) : Prop where
  mem : t.mem = s.mem
  wbuf : t.wbuf = s.wbuf
  ways : ∀ part, t.l2Ways die part = s.l2Ways die part
  channels : ∀ key, t.channelOff key = s.channelOff key
  own : t.l2Find die l.owner l.line = some l
  way : (t.l2Ways die l.owner).getLsbD l.way = true
  others : ∀ line, line ≠ l.line → t.l2Find die l.owner line = s.l2Find die l.owner line

section
variable {s t u : State} {die part line : Nat} {l l' : L2Line}

theorem HoldsLine.trans (h : HoldsLine s t die l) (h' : HoldsLine t u die l') (hl : l'.line = l.line) (ho : l'.owner = l.owner) :
    HoldsLine s u die l' := by
  refine ⟨h'.mem.trans h.mem, h'.wbuf.trans h.wbuf, fun p => (h'.ways p).trans (h.ways p), fun k => (h'.channels k).trans (h.channels k),
    h'.own, h'.way, fun line hne => (h'.others line hne).trans ?_⟩
  rw [ho]
  exact h.others line (hl ▸ hne)

/-- The lines of the L2s, the ways and the channels stay under the scope directories. -/
theorem HoldsLine.dirsOnly (h : HoldsLine s t die l) (hd : DirsOnly t u) : HoldsLine s u die l := by
  have hmem : u.mem = t.mem ∧ u.wbuf = t.wbuf := by
    rw [hd.rest]
    exact ⟨rfl, rfl⟩
  have hways (p : Nat) : u.l2Ways die p = t.l2Ways die p := by
    unfold State.l2Ways
    rw [(hd.lines die).2.1]
  have hfind (p line : Nat) : u.l2Find die p line = t.l2Find die p line := by
    unfold State.l2Find
    rw [(hd.lines die).1, hways]
  have hch (k : Nat) : u.channelOff k = t.channelOff k := by
    unfold State.channelOff
    rw [(hd.lines _).2.2]
  exact ⟨hmem.1.trans h.mem, hmem.2.trans h.wbuf, fun p => (hways p).trans (h.ways p), fun k => (hch k).trans (h.channels k),
    (hfind _ _).trans h.own, (congrArg (BitVec.getLsbD · l.way) (hways _)).trans h.way, fun line hne => (hfind _ _).trans (h.others line hne)⟩

/-- A line of a partition's ways that the L2 takes. -/
theorem l2Put_holds (s : State) (h : (s.l2Ways die l.owner).getLsbD l.way = true) : HoldsLine s (s.l2Put die l) die l := by
  have hw : l.way < 24 := by
    by_contra hn
    rw [BitVec.getLsbD_of_ge _ _ (by omega)] at h
    cases h
  rw [l2Put_eq hw]
  have hdie : (s.modDie die fun d => { d with l2 := putLine l d.l2 }).die die = { s.die die with l2 := putLine l (s.die die).l2 } :=
    die_modDie _ _ _
  have hother (n : Nat) (hn : n ≠ die) : (s.modDie die fun d => { d with l2 := putLine l d.l2 }).die n = s.die n :=
    getAt_setAt_other _ hn _ _
  have hways (p : Nat) : (s.modDie die fun d => { d with l2 := putLine l d.l2 }).l2Ways die p = s.l2Ways die p := by
    unfold State.l2Ways
    rw [hdie]
  have hfind (p line : Nat) : (s.modDie die fun d => { d with l2 := putLine l d.l2 }).l2Find die p line
      = (putLine l (s.die die).l2).find? fun x => decide (x.line = line ∧ x.owner = p ∧ (s.l2Ways die p).getLsbD x.way = true) := by
    unfold State.l2Find
    rw [hways, hdie]
  refine ⟨rfl, rfl, hways, fun k => ?_, ?_, ?_, fun line hne => ?_⟩
  · unfold State.channelOff
    by_cases hn : channelOf k / 48 = die
    · rw [hn, hdie]
    · rw [hother _ hn]
  · rw [hfind]
    exact find_putLine_own _ _ h
  · rw [hways]
    exact h
  · rw [hfind]
    exact find_putLine_other _ _ hne _

/-- What a partition finds is its own line, in one of its ways. -/
theorem l2Find_some (h : s.l2Find die part line = some l) :
    l.line = line ∧ l.owner = part ∧ (s.l2Ways die part).getLsbD l.way = true := by
  simpa using List.find?_some h

theorem HoldsLine.of_find (h : s.l2Find die part line = some l) : HoldsLine s s die l := by
  obtain ⟨rfl, rfl, hw⟩ := l2Find_some h
  exact ⟨rfl, rfl, fun _ => rfl, fun _ => rfl, h, hw, fun _ _ => rfl⟩

/-- The way that takes a line without an eviction is one of the partition's. -/
theorem l2Room_way {w : Nat} (hw : w < 24) (h : s.l2Room die part line = (w, s)) : (s.l2Ways die part).getLsbD w = true := by
  have hbit {p : Nat → Bool} {w : Nat} (hf : (setBits (s.l2Ways die part).toNat 24).find? p = some w) :
      (s.l2Ways die part).getLsbD w = true := by
    have hmem := List.mem_of_find?_eq_some hf
    unfold setBits at hmem
    exact (List.mem_filter.1 hmem).2
  unfold State.l2Room at h
  dsimp only at h
  split at h
  next x hf =>
    cases h
    exact hbit hf
  next =>
    split at h
    next x hf =>
      cases h
      exact hbit hf
    next =>
      split at h
      · have hw' := congrArg Prod.fst h
        dsimp only at hw'
        omega
      · next x hx =>
        have hrest := (l2Drop_onHomes die fun y => decide (y.way = x ∧ l2Set y.line = l2Set line)).rest s.draw.2
        have hfresh : (l2Drop die (fun y => decide (y.way = x ∧ l2Set y.line = l2Set line)) s.draw.2).fresh = s.fresh :=
          congrArg (fun p => p.2.fresh) h
        rw [hrest] at hfresh
        exact absurd hfresh (Nat.succ_ne_self s.fresh)

/-- The copy that an access finds or fills. -/
theorem l2Get_holds (h : s.l2Has die part line) (cls : Nat) : HoldsLine s (s.l2Get die part line cls).2 die (s.l2Get die part line cls).1
    ∧ (s.l2Get die part line cls).1.line = line ∧ (s.l2Get die part line cls).1.owner = part
    ∧ (s.l2Find die part line = some (s.l2Get die part line cls).1
      ∨ s.l2Find die part line = none ∧ (s.l2Get die part line cls).1.data = BitVec.ofNat 1024 (s.homeRead (line * 128) 128).1) := by
  unfold State.l2Get
  cases hf : s.l2Find die part line with
  | some l => exact ⟨.of_find hf, (l2Find_some hf).1, (l2Find_some hf).2.1, .inl rfl⟩
  | none =>
    rcases h with ⟨l, hl⟩ | ⟨w, hw, hr⟩
    · cases hl.symm.trans hf
    · dsimp only
      rw [hr]
      exact ⟨l2Put_holds s (l2Room_way hw hr), rfl, rfl, .inr ⟨rfl, rfl⟩⟩

/-- The bytes that a partition's cores see once the die's L2 holds the line `l`. -/
theorem HoldsLine.seen (h : HoldsLine s t die l) (k : Nat) :
    t.seen die l.owner k = if k / 128 = l.line then lineByte l.data (k % 128) else s.seen die l.owner k := by
  unfold State.seen
  by_cases hk : k / 128 = l.line
  · rw [if_pos hk, hk, h.own]
    rfl
  · rw [if_neg hk, h.others _ hk, h.mem]

/-- The copy that an access finds or fills holds the bytes that were seen. -/
theorem seen_l2Get (h : s.l2Has die part line) (hm : s.mem.wf = true) (hw : s.wbuf = []) (cls : Nat) {k : Nat} (hk : k / 128 = line) :
    s.seen die part k = lineByte (s.l2Get die part line cls).1.data (k % 128) := by
  unfold State.seen
  rw [hk]
  obtain ⟨-, -, -, hf | ⟨hf, hd⟩⟩ := l2Get_holds h cls
  · rw [hf]
    rfl
  · have hb := lineByte_readRange hm (line * 128) (j := k % 128) (n := 128) (Nat.mod_lt k (by decide)) (Nat.le_refl _)
    have hr : (s.homeRead (line * 128) 128).1 = readRange s.mem [] (line * 128) 128 := by
      rw [← hw]
      rfl
    rw [hf, hd, hr, hb]
    dsimp only
    congr 1
    omega

/-- So an access that finds or fills a line changes no byte that is seen. -/
theorem l2Get_seen (h : s.l2Has die part line) (hm : s.mem.wf = true) (hw : s.wbuf = []) (cls k : Nat) :
    (s.l2Get die part line cls).2.seen die part k = s.seen die part k := by
  obtain ⟨hh, hl, ho, -⟩ := l2Get_holds h cls
  have hs := hh.seen k
  rw [hl, ho] at hs
  rw [hs]
  split
  next hk => exact (seen_l2Get h hm hw cls hk).symm
  next => rfl

end

end Sys2Proof.Machine

/-!
Stores and loads of one line (O10): what a store writes is in the copy of its line that the die's L2 holds then, and a load reads that
copy or one of L1D that the store has updated.
-/
namespace Sys2Proof.Machine
open Sys2Proof

theorem memUeIf_ok {s t : State} {ck unit key : Nat} {p : Bool} {a : Unit} (h : runOp (memUeIf ck unit key p) s = (.ok a, t)) : t = s := by
  unfold memUeIf at h
  cases p with
  | false =>
    cases h
    rfl
  | true => cases h

section
variable {s t : State} {die part key n v : Nat} {l : L2Line}

/-- A write into the line that the die's L2 has or takes. -/
theorem l2WriteIn_holds (h : s.l2Has die part (key / 128)) (hc : s.channelOff key = false) (n v cls : Nat) :
    ∃ l, HoldsLine s (s.l2WriteIn die part key n v cls) die l ∧ l.line = key / 128 ∧ l.owner = part
      ∧ l.data = lineSet (s.l2Get die part (key / 128) cls).1.data (key % 128) n v := by
  obtain ⟨hh, hl, ho, -⟩ := l2Get_holds h cls
  have hp := l2Put_holds (s.l2Get die part (key / 128) cls).2 (l := { (s.l2Get die part (key / 128) cls).1 with
      data := lineSet (s.l2Get die part (key / 128) cls).1.data (key % 128) n v
      dirty := (s.l2Get die part (key / 128) cls).1.dirty ||| BitVec.ofNat 32 (unitMask (key % 128) n 4)
      cmask := (s.l2Get die part (key / 128) cls).1.cmask ||| clsBit cls
      poison := poisonAfter (s.l2Get die part (key / 128) cls).1.poison (key % 128) n }) hh.way
  have hw : s.l2WriteIn die part key n v cls = _ := if_neg (by rw [hc]; decide)
  rw [hw]
  exact ⟨_, hh.trans hp rfl rfl, hl, ho, rfl⟩

/-- L1D is no part of what is seen. -/
theorem HoldsLine.l1Update (h : HoldsLine s t die l) (core key n v : Nat) : HoldsLine s (l1Update core key n v t) die l :=
  ⟨h.mem, h.wbuf, h.ways, h.channels, h.own, h.way, h.others⟩

/-- The bytes that are seen after a write within a line. -/
theorem seen_of_written (h : HoldsLine s t die l) (hl : l.line = key / 128) {d : BitVec 1024}
    (hd : l.data = lineSet d (key % 128) n v) (hn : key % 128 + n ≤ 128)
    (hb : ∀ k, k / 128 = key / 128 → s.seen die l.owner k = lineByte d (k % 128)) (k : Nat) : t.seen die l.owner k
      = if key ≤ k ∧ k < key + n then BitVec.ofNat 8 (v / 2 ^ (8 * (k - key))) else s.seen die l.owner k := by
  rw [h.seen, hl, hd]
  by_cases hk : k / 128 = key / 128
  · rw [if_pos hk, lineByte_lineSet _ _ hn, hb k hk]
    by_cases hr : key ≤ k ∧ k < key + n
    · rw [if_pos hr, if_pos (by omega), show k % 128 - key % 128 = k - key by omega]
    · rw [if_neg hr, if_neg (by omega)]
  · rw [if_neg hk, if_neg (by omega)]

theorem runOp_storeAt (s : State) (ck key n v cls : Nat) (hc : s.channelOff key = false) : runOp (storeAt ck key n v cls 0 0) s
    = (.ok (), l1Update (coreOf ck) key n v (s.l2WriteIn (dieOf ck) (s.ctx ck).bind.part key n v cls)) := by
  have hrest : runOp (do
      upd fun t => t.l2WriteIn (dieOf ck) (s.ctx ck).bind.part key n v cls
      if s.channelOff key then pure () else upd (l1Update (coreOf ck) key n v)) s
      = (.ok (), l1Update (coreOf ck) key n v (s.l2WriteIn (dieOf ck) (s.ctx ck).bind.part key n v cls)) := by
    rw [hc]
    rfl
  exact hrest

/-- What a classless load of a word answers: the bytes of a copy in L1D, or of the copy in the die's L2. -/
theorem loadAt_ok {ck ea cls w : Nat} (h : runOp (loadAt ck ea key n cls 0 0) s = (.ok w, t)) :
    (∃ x ∈ (s.core (coreOf ck)).l1, x.line = key / 128 ∧ w = lineBytes x.data (key % 128) n ∧ t = s)
    ∨ w = lineBytes (s.l2Get (dieOf ck) (s.ctx ck).bind.part (key / 128) cls).1.data (key % 128) n
      ∧ ∃ c f, t = { (s.l2Get (dieOf ck) (s.ctx ck).bind.part (key / 128) cls).2 with cores := c, fresh := f } := by
  unfold loadAt at h
  rw [runOp_bind_ok (runOp_getS s)] at h
  extract_lets part m rest at h
  have h' : runOp (rest ()) s = (.ok w, t) := h
  dsimp only [rest] at h'
  rw [runOp_bind_ok (runOp_getS s), if_neg (by decide)] at h'
  split at h'
  next x hx =>
    obtain ⟨a, u, hu, hv⟩ := runOp_bind_eq_ok h'
    cases memUeIf_ok hu
    cases hv
    have hmem := List.mem_of_find?_eq_some hx
    have hline : x.flat = ea / 128 ∧ x.line = key / 128 := by simpa using List.find?_some hx
    exact .inl ⟨x, hmem, hline.2, rfl, rfl⟩
  next =>
    have hfill (core : Nat) (x : L1Line) (y : State) : ∃ c f, l1Fill core x y = { y with cores := c, fresh := f } := by
      unfold l1Fill
      dsimp only
      split
      · exact ⟨_, y.fresh, rfl⟩
      · exact ⟨_, _, rfl⟩
    obtain ⟨c, f, hcf⟩ := hfill (coreOf ck) ⟨ea / 128, key / 128, cls, (s.l2Get (dieOf ck) part (key / 128) cls).1.data,
      (s.l2Get (dieOf ck) part (key / 128) cls).1.poison⟩ (s.l2Get (dieOf ck) part (key / 128) cls).2
    rw [runOp_bind_ok (runOp_upd _ s), hcf] at h'
    obtain ⟨a, u, hu, hv⟩ := runOp_bind_eq_ok h'
    cases memUeIf_ok hu
    cases hv
    exact .inr ⟨rfl, c, f, rfl⟩

end

section
variable {s t u : State} {ck ea key n v w cls cls' : Nat}

/-- What a load answers that follows a store of the same bytes. -/
theorem loadAt_storeAt (hn : key % 128 + n ≤ 128) (hc : s.channelOff key = false)
    (hhas : s.l2Has (dieOf ck) (s.ctx ck).bind.part (key / 128)) (h : runOp (storeAt ck key n v cls 0 0) s = (.ok (), t))
    (hload : runOp (loadAt ck ea key n cls' 0 0) t = (.ok w, u)) : w = v % 2 ^ (8 * n) := by
  obtain ⟨l, hh, hl, ho, hd⟩ := l2WriteIn_holds hhas hc n v cls
  have hctx : (s.l2WriteIn (dieOf ck) (s.ctx ck).bind.part key n v cls).ctx ck = s.ctx ck := (l2WriteIn_keeps _ _ _ _ _ _ s).ctx ck
  rw [runOp_storeAt s ck key n v cls hc] at h
  obtain rfl : l1Update (coreOf ck) key n v (s.l2WriteIn (dieOf ck) (s.ctx ck).bind.part key n v cls) = t := congrArg Prod.snd h
  rcases loadAt_ok hload with ⟨x, hx, hline, rfl, -⟩ | ⟨rfl, -⟩
  · have hcore : (l1Update (coreOf ck) key n v (s.l2WriteIn (dieOf ck) (s.ctx ck).bind.part key n v cls)).core (coreOf ck) = _ :=
      core_modCore _ _ _
    rw [hcore] at hx
    obtain ⟨y, -, rfl⟩ := List.mem_map.1 hx
    by_cases hy : y.line = key / 128
    · rw [if_pos hy]
      exact lineBytes_lineSet _ _ hn
    · rw [if_neg hy] at hline
      exact absurd hline hy
  · have hown : (l1Update (coreOf ck) key n v (s.l2WriteIn (dieOf ck) (s.ctx ck).bind.part key n v cls)).l2Find (dieOf ck)
        ((l1Update (coreOf ck) key n v (s.l2WriteIn (dieOf ck) (s.ctx ck).bind.part key n v cls)).ctx ck).bind.part (key / 128)
        = some l := by
      refine (congrArg (fun c : Ctx => (s.l2WriteIn (dieOf ck) (s.ctx ck).bind.part key n v cls).l2Find (dieOf ck) c.bind.part
        (key / 128)) hctx).trans ?_
      have hown := hh.own
      rw [ho, hl] at hown
      exact hown
    unfold State.l2Get
    rw [hown]
    dsimp only
    rw [hd]
    exact lineBytes_lineSet _ _ hn

end

/-- Settles O10: a store leaves the die's L2 with its line (`l2WriteIn_holds`), whose copies in L1D it updates; a load reads one of
these. -/
theorem storesAndLoadsOfOneLineAgree : Obligations.StoresAndLoadsOfOneLineAgree := by
  refine ⟨?_, fun s t u ck ea key n v cls cls' w _ hn hc hhas h hload => loadAt_storeAt hn hc hhas h hload, ?_⟩
  · intro s t ck key n v cls hm hw _ hn hc part hhas h
    rw [runOp_storeAt s ck key n v cls hc] at h
    obtain rfl : l1Update (coreOf ck) key n v (s.l2WriteIn (dieOf ck) part key n v cls) = t := congrArg Prod.snd h
    obtain ⟨l, hh, hl, ho, hd⟩ := l2WriteIn_holds hhas hc n v cls
    have hseen := seen_of_written (hh.l1Update (coreOf ck) key n v) hl hd hn
      fun k hk => by rw [ho]; exact seen_l2Get hhas hm hw cls hk
    rw [ho] at hseen
    exact ⟨hh.mem, hh.wbuf.trans hw, hseen⟩
  · intro s t ck ea key n cls w hm hw _ hn hc part hhas h
    rcases loadAt_ok h with ⟨x, -, -, -, rfl⟩ | ⟨-, c, f, rfl⟩
    · exact ⟨rfl, hw, fun _ => rfl⟩
    · obtain ⟨hh, -⟩ := l2Get_holds hhas cls
      exact ⟨hh.mem, hh.wbuf.trans hw, fun k => l2Get_seen hhas hm hw cls k⟩

end Sys2Proof.Machine

/-!
The atomics (O11): what an instruction does before its access at the home, the access, and the bytes that the die's cores see of it.
-/
namespace Sys2Proof.Machine
open Sys2Proof

/-! ### An atomic issues (R121) -/

/-- Host memory takes an addition, a swap or a comparison at system scope, and no other atomic (R123). -/
abbrev hostRefuses (op scope key : Nat) : Prop := homeKind key = 2 ∧ (scope ≠ 4 ∨ (op ≠ 0 ∧ op ≠ 8 ∧ op ≠ 9))

/-- The access of an atomic of the running context of `s`, and its response. -/
def amoIssued (s : State) (op sd sb w ord scope ea key : Nat) : Op Unit := do
  let r ← lateTrap (do
    if hostRefuses op scope key then trapAt .atomicHost ea
    atFaddr ea (amoAt s.ck s.c.bind.part key (if w = 1 then 8 else 4) op (sGet s sb).toNat (sGet s sd).toNat (s.c.stream .sq).accCls scope))
  match r with
  | none => pure ()
  | some old =>
    respond true sd (if w = 1 then BitVec.ofNat 64 old else BitVec.ofInt 64 (signedOf 32 old)) (some (key / 128)) allClasses
      (if ord = 1 ∨ ord = 3 then some scope else none)

section
variable {s s1 s2 : State} {op sd sa sb w ord scope key old : Nat}

/-- An atomic that host memory refuses stops in a turn that is not slow, before its release. -/
theorem runOp_sqAmo_host (ha : (sGet s sa).toNat % (if w = 1 then 8 else 4) = 0)
    (hk : runOp (flatKey (s.requester s.ck 0 0) (sGet s sa).toNat (if w = 1 then 8 else 4) 4) s = (.ok key, s1))
    (hh : hostRefuses op scope key) (hslow : s.slow = false) :
    runOp (sqAmo op sd sa sb w ord scope) s = (.error (.trap .atomicHost 0 (sGet s sa).toNat 0 0), s1) := by
  unfold sqAmo
  rw [runOp_bind_ok (runOp_getS s)]
  dsimp only
  rw [runOp_bind_ok (runOp_flatAddr_zero ha), runOp_bind_ok hk, if_pos ⟨hh, by rw [hslow]; decide⟩]
  exact runOp_bind_error (runOp_trapAt _ _ _)

/-- Any other makes its release, and issues. -/
theorem runOp_sqAmo_issues (ha : (sGet s sa).toNat % (if w = 1 then 8 else 4) = 0)
    (hk : runOp (flatKey (s.requester s.ck 0 0) (sGet s sa).toNat (if w = 1 then 8 else 4) 4) s = (.ok key, s1))
    (hh : ¬(hostRefuses op scope key ∧ ¬ s.slow = true)) (hr : 1 ≤ ord → s1.noRoute s.ck scope allClasses = false) :
    runOp (sqAmo op sd sa sb w ord scope) s
      = runOp (amoIssued s op sd sb w ord scope (sGet s sa).toNat key) (if 2 ≤ ord then release s.ck scope allClasses s1 else s1) := by
  unfold sqAmo
  rw [runOp_bind_ok (runOp_getS s)]
  dsimp only
  rw [runOp_bind_ok (runOp_flatAddr_zero ha), runOp_bind_ok hk, if_neg hh]
  by_cases h1 : 1 ≤ ord
  · rw [if_pos h1]
    refine (runOp_bind_ok (runOp_needRoute_ok (hr h1))).trans ?_
    by_cases h2 : 2 ≤ ord
    · rw [if_pos h2, if_pos h2]
      exact runOp_bind_ok (runOp_upd _ s1)
    · rw [if_neg h2, if_neg h2]
      rfl
  · have h2 : ¬ 2 ≤ ord := by omega
    rw [if_neg h1, if_neg h2, if_neg h2]
    rfl

/-- Before the access the contexts stand. -/
theorem amo_release_keeps (hk : runOp (flatKey (s.requester s.ck 0 0) (sGet s sa).toNat (if w = 1 then 8 else 4) 4) s = (.ok key, s1)) :
    Keeps s (if 2 ≤ ord then release s.ck scope allClasses s1 else s1) := by
  have h1 : Keeps s s1 := (keepsAt_flatKey s _ _ _ _).of_ok hk
  split
  · exact h1.trans ((release_onHomes _ _ _).keeps s1)
  · exact h1

theorem ofInt_signedOf (old : Nat) : BitVec.ofInt 64 (signedOf 32 old) = (BitVec.ofNat 32 old).signExtend 64 := by
  have h : signedOf 32 old = (BitVec.ofNat 32 old).toInt := by
    unfold signedOf
    rw [BitVec.toInt_eq_toNat_cond, BitVec.toNat_ofNat]
    split <;> split <;> omega
  rw [h]
  rfl

/-- An atomic that its home performs, in a turn that is not slow (R121, R122). -/
theorem amo_leaves {f : State → State} (hf : f s = unitNext .sq false 1 (sqAmo op sd sa sb w ord scope) s) (hslow : s.slow = false)
    (hfit : s.fits .sq false 1) (hsd : sd < 32) (ha : (sGet s sa).toNat % (if w = 1 then 8 else 4) = 0)
    (hk : runOp (flatKey (s.requester s.ck 0 0) (sGet s sa).toNat (if w = 1 then 8 else 4) 4) s = (.ok key, s1))
    (hr : 1 ≤ ord → s1.noRoute s.ck scope allClasses = false)
    (hh : homeKind key = 2 → scope = 4 ∧ (op = 0 ∨ op = 8 ∨ op = 9))
    (hamo : runOp (amoAt s.ck s.c.bind.part key (if w = 1 then 8 else 4) op (sGet s sb).toNat (sGet s sd).toNat (s.c.stream .sq).accCls scope)
      (if 2 ≤ ord then release s.ck scope allClasses s1 else s1) = (.ok old, s2)) (hn : s2.stuck = none) :
    ∃ t, run f s = .next t
      ∧ sGet t sd = (if sd = 0 then 0 else if w = 1 then BitVec.ofNat 64 old else (BitVec.ofNat 32 old).signExtend 64)
      ∧ (∀ k, k ≠ sd → sGet t k = sGet s2 k) ∧ (t.c.stream .sq).pc = (s.c.stream .sq).next ∧ t.c.r.pend = none
      ∧ ∀ l ∈ (t.core (coreOf s.ck)).l1, l.line ≠ key / 128 := by
  have hno : ¬ hostRefuses op scope key := by
    intro h
    have := hh h.1
    have := h.2
    omega
  have hkeep : Keeps s s2 := (amo_release_keeps hk).trans ((keepsAt_amoAt _ _ _ _ _ _ _ _ _ _).of_ok hamo)
  have hissued : runOp (amoIssued s op sd sb w ord scope (sGet s sa).toNat key) (if 2 ≤ ord then release s.ck scope allClasses s1 else s1)
      = (.ok (), respCaches s.ck (some (key / 128)) allClasses (if ord = 1 ∨ ord = 3 then some scope else none)
          (collected s.ck true sd (if w = 1 then BitVec.ofNat 64 old else (BitVec.ofNat 32 old).signExtend 64) s2)) := by
    unfold amoIssued
    rw [if_neg hno]
    refine (runOp_bind_ok (runOp_lateTrap_ok (runOp_atFaddr_ok _ hamo))).trans ?_
    dsimp only
    rw [← hkeep.ck, ofInt_signedOf]
    exact runOp_respond (hkeep.slow.trans hslow) _ _ _ _ _ _
  have ho := (runOp_sqAmo_issues (sb := sb) (sd := sd) ha hk (fun h => hno h.1) hr).trans hissued
  refine ⟨_, run_onward hf hfit ho ((respCaches_stuck _ _ _ _ _).trans hn), ?_⟩
  obtain ⟨hpc, hv, hothers, hpend⟩ := onward_answers hkeep.who hsd (if w = 1 then BitVec.ofNat 64 old else (BitVec.ofNat 32 old).signExtend 64)
    (respCaches_keeps s.ck (some (key / 128)) allClasses (if ord = 1 ∨ ord = 3 then some scope else none) _).toSameCtxs (s.c.stream .sq).next
  exact ⟨hv, hothers, hpc, hpend, respCaches_line s.ck (key / 128) allClasses _ _⟩

/-- One that host memory refuses (R123): it stops, or in a slow turn its response is the trap. -/
theorem amo_refused {f : State → State} (hf : f s = unitNext .sq false 1 (sqAmo op sd sa sb w ord scope) s) (hfit : s.fits .sq false 1)
    (ha : (sGet s sa).toNat % (if w = 1 then 8 else 4) = 0)
    (hk : runOp (flatKey (s.requester s.ck 0 0) (sGet s sa).toNat (if w = 1 then 8 else 4) 4) s = (.ok key, s1))
    (hh : hostRefuses op scope key) :
    (s.slow = false → s1.stuck = none → run f s = s.traps .sq .atomicHost 0 (sGet s sa).toNat s1)
    ∧ (s.slow = true → (1 ≤ ord → s1.noRoute s.ck scope allClasses = false)
      → (if 2 ≤ ord then release s.ck scope allClasses s1 else s1).stuck = none
      → run f s = s.onward .sq ((if 2 ≤ ord then release s.ck scope allClasses s1 else s1).modRegs s.ck fun r => { r with
          pend := some (.fault .atomicHost (sGet s sa).toNat (s.c.stream .sq).pc) })) := by
  refine ⟨fun hslow hn => run_traps hf hfit (runOp_sqAmo_host ha hk hh hslow) hn, fun hslow hr hn => ?_⟩
  have hkeep : Keeps s (if 2 ≤ ord then release s.ck scope allClasses s1 else s1) := amo_release_keeps hk
  have ho := runOp_sqAmo_issues (op := op) (sb := sb) (sd := sd) ha hk (fun h => h.2 hslow) hr
  refine run_onward hf hfit (ho.trans ?_) hn
  generalize (if 2 ≤ ord then release s.ck scope allClasses s1 else s1) = y at hkeep
  have hlate : runOp (lateTrap (do
      if hostRefuses op scope key then trapAt .atomicHost (sGet s sa).toNat
      atFaddr (sGet s sa).toNat (amoAt s.ck s.c.bind.part key (if w = 1 then 8 else 4) op (sGet s sb).toNat (sGet s sd).toNat
        (s.c.stream .sq).accCls scope))) y
      = (.ok none, y.modRegs y.ck fun r => { r with pend := some (.fault .atomicHost (sGet s sa).toNat (y.c.stream .sq).pc) }) := by
    rw [if_pos hh]
    unfold lateTrap
    refine (runOp_bind_ok (runOp_getS y)).trans ?_
    refine (runOp_tryCatch_error (runOp_bind_error (runOp_bind_error (runOp_trapAt _ _ y)))).trans ?_
    dsimp only
    rw [if_pos ⟨hkeep.slow.trans hslow, .inr rfl⟩]
    rfl
  unfold amoIssued
  rw [runOp_bind_ok hlate, hkeep.ck, hkeep.c]
  rfl

end

/-! ### The bytes of an atomic (R120, R121) -/

section
variable {s t : State} {ck part key n op b x cls scope old : Nat}

/-- The operations of R120 on `w` bits. -/
theorem amoValue_eq {w : Nat} (h : op ≤ 8) (hold : old < 2 ^ w) : amoValue op w old b x
    = [(old + b) % 2 ^ w, old &&& b % 2 ^ w, old ||| b % 2 ^ w, old ^^^ b % 2 ^ w,
        (if (BitVec.ofNat w old).toInt < (BitVec.ofNat w b).toInt then old else b % 2 ^ w),
        (if (BitVec.ofNat w old).toInt < (BitVec.ofNat w b).toInt then b % 2 ^ w else old),
        (if old < b % 2 ^ w then old else b % 2 ^ w), (if old < b % 2 ^ w then b % 2 ^ w else old), b % 2 ^ w][op]?.getD 0 := by
  have ho : (BitVec.ofNat w old).toNat = old := Nat.mod_eq_of_lt hold
  have hb : (BitVec.ofNat w b).toNat = b % 2 ^ w := BitVec.toNat_ofNat _ _
  have hpick (c : Bool) (y z : BitVec w) : (if c then y else z).toNat = if c then y.toNat else z.toNat := apply_ite _ _ _ _
  interval_cases op
  · show (BitVec.ofNat w old + BitVec.ofNat w b).toNat = (old + b) % 2 ^ w
    rw [BitVec.toNat_add, ho, hb, Nat.add_mod_mod]
  · show (BitVec.ofNat w old &&& BitVec.ofNat w b).toNat = old &&& b % 2 ^ w
    rw [BitVec.toNat_and, ho, hb]
  · show (BitVec.ofNat w old ||| BitVec.ofNat w b).toNat = old ||| b % 2 ^ w
    rw [BitVec.toNat_or, ho, hb]
  · show (BitVec.ofNat w old ^^^ BitVec.ofNat w b).toNat = old ^^^ b % 2 ^ w
    rw [BitVec.toNat_xor, ho, hb]
  · show (bvMin (BitVec.ofNat w old) (BitVec.ofNat w b)).toNat = if _ then _ else _
    unfold bvMin
    rw [hpick, ho, hb, BitVec.slt_eq_decide]
    simp only [decide_eq_true_eq]
  · show (bvMax (BitVec.ofNat w old) (BitVec.ofNat w b)).toNat = if _ then _ else _
    unfold bvMax
    rw [hpick, ho, hb, BitVec.slt_eq_decide]
    simp only [decide_eq_true_eq]
  · show (bvMinu (BitVec.ofNat w old) (BitVec.ofNat w b)).toNat = if _ then _ else _
    unfold bvMinu
    rw [hpick, ho, hb, BitVec.ult_eq_decide, ho, hb]
    simp only [decide_eq_true_eq]
  · show (bvMaxu (BitVec.ofNat w old) (BitVec.ofNat w b)).toNat = if _ then _ else _
    unfold bvMaxu
    rw [hpick, ho, hb, BitVec.ult_eq_decide, ho, hb]
    simp only [decide_eq_true_eq]
  · exact hb

theorem amoValue_lt {w : Nat} (hold : old < 2 ^ w) : amoValue op w old b x < 2 ^ w := by
  unfold amoValue
  dsimp only
  split
  case h_10 =>
    split
    · exact BitVec.isLt _
    · exact hold
  all_goals exact BitVec.isLt _

/-- The word that is seen at a key, of a line whose bytes are known. -/
theorem word_seen {d : BitVec 1024} {die : Nat} {y : State} (hn : key % 128 + n ≤ 128)
    (hb : ∀ k, k / 128 = key / 128 → y.seen die part k = lineByte d (k % 128)) :
    (List.range n).foldl (fun a i => a + (y.seen die part (key + i)).toNat * 2 ^ (8 * i)) 0 = lineBytes d (key % 128) n := by
  rw [foldl_bytes (fun i => (y.seen die part (key + i)).toNat), lineBytes_eq]
  refine Finset.sum_congr rfl fun i hi => ?_
  have := Finset.mem_range.1 hi
  dsimp only
  rw [hb (key + i) (by omega), show (key + i) % 128 = key % 128 + i by omega]

/-- What an atomic at context or die scope does at its die: it reads the line that the L2 has or takes, and writes it, unless its
comparison fails. -/
theorem amoAt_ok (hscope : scope < 2) (h : runOp (amoAt ck part key n op b x cls scope) s = (.ok old, t)) :
    old = lineBytes (s.l2Get (dieOf ck) part (key / 128) cls).1.data (key % 128) n
    ∧ ∃ u, DirsOnly (s.l2Get (dieOf ck) part (key / 128) cls).2 u
      ∧ t = if op = 9 ∧ old ≠ x % 2 ^ (8 * n) then u else u.l2WriteIn (dieOf ck) part key n (amoValue op (8 * n) old b x) cls := by
  have hnarrow : ¬ wide scope key = true := by
    unfold wide
    rw [decide_eq_false (by omega), Bool.false_and]
    exact Bool.false_ne_true
  unfold amoAt at h
  rw [runOp_bind_ok (runOp_getS s)] at h
  dsimp only at h
  rw [if_neg hnarrow] at h
  obtain ⟨a, u, hu, h⟩ := runOp_bind_eq_ok h
  cases hu
  obtain ⟨a, u, hu, h⟩ := runOp_bind_eq_ok h
  cases memUeIf_ok hu
  obtain ⟨a, u, hu, h⟩ := runOp_bind_eq_ok h
  have hd := runOp_syncCheck_ok hu
  split at h
  next hc =>
    cases h
    exact ⟨rfl, _, hd, (if_pos hc).symm⟩
  next hc =>
    cases h
    exact ⟨rfl, _, hd, (if_neg hc).symm⟩

/-- The bytes that the die's cores see of such an atomic. -/
theorem amoAt_seen (hscope : scope < 2) (hn : key % 128 + n ≤ 128) (hm : s.mem.wf = true) (hw : s.wbuf = []) (hc : s.channelOff key = false)
    (hhas : s.l2Has (dieOf ck) part (key / 128)) (h : runOp (amoAt ck part key n op b x cls scope) s = (.ok old, t)) :
    old < 2 ^ (8 * n) ∧ t.mem = s.mem
    ∧ (List.range n).foldl (fun a i => a + (s.seen (dieOf ck) part (key + i)).toNat * 2 ^ (8 * i)) 0 = old
    ∧ (List.range n).foldl (fun a i => a + (t.seen (dieOf ck) part (key + i)).toNat * 2 ^ (8 * i)) 0
      = if op = 9 ∧ old ≠ x % 2 ^ (8 * n) then old else amoValue op (8 * n) old b x := by
  obtain ⟨hold, u, hd, ht⟩ := amoAt_ok hscope h
  obtain ⟨hl, hline, howner, -⟩ := l2Get_holds hhas cls
  have hu := hl.dirsOnly hd
  have hlt : old < 2 ^ (8 * n) := hold ▸ Nat.mod_lt _ (Nat.two_pow_pos _)
  have hseen {y : State} {l : L2Line} (hy : HoldsLine s y (dieOf ck) l) (hlk : l.line = key / 128) (ho : l.owner = part) :
      (List.range n).foldl (fun a i => a + (y.seen (dieOf ck) part (key + i)).toNat * 2 ^ (8 * i)) 0 = lineBytes l.data (key % 128) n :=
    word_seen hn fun k hk => by
      have hs := hy.seen k
      rwa [if_pos (hk.trans hlk.symm), ho] at hs
  have hbefore := word_seen hn fun k hk => seen_l2Get hhas hm hw cls hk
  by_cases hfail : op = 9 ∧ old ≠ x % 2 ^ (8 * n)
  · rw [if_pos hfail] at ht ⊢
    subst ht
    exact ⟨hlt, hu.mem, hbefore.trans hold.symm, (hseen hu hline howner).trans hold.symm⟩
  · rw [if_neg hfail] at ht ⊢
    have hfound : u.l2Has (dieOf ck) part (key / 128) := by
      have hown := hu.own
      rw [howner, hline] at hown
      exact .inl ⟨_, hown⟩
    obtain ⟨l, hl', hline', howner', hdata⟩ := l2WriteIn_holds hfound ((hu.channels key).trans hc) n (amoValue op (8 * n) old b x) cls
    have hall := hu.trans hl' (hline'.trans hline.symm) (howner'.trans howner.symm)
    subst ht
    refine ⟨hlt, hall.mem, hbefore.trans hold.symm, (hseen hall hline' howner').trans ?_⟩
    rw [hdata, lineBytes_lineSet _ _ hn, Nat.mod_eq_of_lt (amoValue_lt hlt)]

end

/-! ### Every atomic -/

/-- Settles O11: `amo_leaves` and `amo_refused` are over all ten operations, and `amoAt_seen` over the operations at a die. -/
theorem sqAtomics : Obligations.SqAtomics := by
  refine ⟨?_, ?_, ?_⟩
  · intro s s1 s2 sd sa sb w ord scope key old hs hslow hf hsd n ea ha hk hr s1' amo done
    have hdone {op : Nat} {f : State → State} (hop : f s = unitNext .sq false 1 (sqAmo op sd sa sb w ord scope) s) (h : amo op) :=
      amo_leaves hop hslow hf hsd ha hk hr h.1 h.2.1 h.2.2
    dsimp only [done, exec, execAmoAdd, execAmoAnd, execAmoOr, execAmoXor, execAmoMin, execAmoMax, execAmoMinu, execAmoMaxu, execAmoSwap,
      execAmoCas]
    exact ⟨hdone rfl, hdone rfl, hdone rfl, hdone rfl, hdone rfl, hdone rfl, hdone rfl, hdone rfl, hdone rfl, hdone rfl⟩
  · intro s s1 sd sa sb w ord scope key hs hf n ea ha hhost hk s1' stops
    have hstops {op : Nat} {f : State → State} (hop : f s = unitNext .sq false 1 (sqAmo op sd sa sb w ord scope) s)
        (h : scope ≠ 4 ∨ (op ≠ 0 ∧ op ≠ 8 ∧ op ≠ 9)) := amo_refused hop hf ha hk ⟨hhost, h⟩
    dsimp only [stops, exec, execAmoAdd, execAmoAnd, execAmoOr, execAmoXor, execAmoMin, execAmoMax, execAmoMinu, execAmoMaxu, execAmoSwap,
      execAmoCas]
    exact ⟨hstops rfl (.inr (by decide)), hstops rfl (.inr (by decide)), hstops rfl (.inr (by decide)), hstops rfl (.inr (by decide)),
      hstops rfl (.inr (by decide)), hstops rfl (.inr (by decide)), hstops rfl (.inr (by decide)),
      fun h => ⟨hstops rfl (.inl h), hstops rfl (.inl h), hstops rfl (.inl h)⟩⟩
  · intro s t ck part key n op b x cls scope old hscope hnn hkey _ hm hw hc hhas h now word
    have hn : key % 128 + n ≤ 128 := by
      rcases hnn with rfl | rfl <;> omega
    obtain ⟨hlt, hmem, hold, hnew⟩ := amoAt_seen hscope hn hm hw hc hhas h
    refine ⟨hold.symm, hmem, fun hop => ?_, fun hop => ?_⟩
    · refine hnew.trans ?_
      rw [if_neg fun h9 => by omega]
      exact amoValue_eq hop hlt
    · subst hop
      refine hnew.trans ?_
      by_cases hx : old = x % 2 ^ (8 * n)
      · rw [if_neg fun h9 => h9.2 hx, if_pos hx]
        show (if old = x % 2 ^ (8 * n) then (BitVec.ofNat (8 * n) b).toNat else old) = _
        rw [if_pos hx]
        exact BitVec.toNat_ofNat _ _
      · rw [if_pos ⟨rfl, hx⟩, if_neg hx]

end Sys2Proof.Machine

/-!
Integer lanes of VE (O37): a lane is a word of its width, and its operations are those of such words.
-/
namespace Sys2Proof.Machine
open Sys2Proof

/-! ### A lane as a word of its width (R158) -/

theorem wrapInt_eq (w : Nat) (i : Int) : wrapInt w i = (BitVec.ofInt w i).toNat := (BitVec.toNat_ofInt i).symm

section
variable {w : Nat}

theorem readInt_unsigned (a : BitVec w) : readInt w false a.toNat = a.toNat := by simp [readInt]

theorem two_pow_width (hw : 0 < w) : 2 ^ w = 2 * 2 ^ (w - 1) := by
  rw [← Nat.pow_succ', Nat.succ_eq_add_one, Nat.sub_add_cancel hw]

theorem readInt_signed (hw : 0 < w) (a : BitVec w) : readInt w true a.toNat = a.toInt := by
  have hp := two_pow_width hw
  rw [readInt, BitVec.toInt_eq_toNat_cond, Nat.mod_eq_of_lt a.isLt]
  by_cases h : 2 ^ (w - 1) ≤ a.toNat
  · rw [if_pos ⟨rfl, h⟩, if_neg (by omega)]
  · rw [if_neg fun x => h x.2, if_pos (by omega)]

/-- A lane is the word that its value stands for, signed or not. -/
theorem ofInt_readInt (hw : 0 < w) (sg : Bool) (a : BitVec w) : BitVec.ofInt w (readInt w sg a.toNat) = a := by
  cases sg with
  | false => rw [readInt_unsigned, BitVec.ofInt_natCast, BitVec.ofNat_toNat, BitVec.setWidth_eq]
  | true => rw [readInt_signed hw, BitVec.ofInt_toInt]

theorem wrapInt_natCast (n : Nat) : wrapInt w n = n % 2 ^ w := by
  rw [wrapInt_eq, BitVec.ofInt_natCast, BitVec.toNat_ofNat]

theorem wrapInt_of_nonneg {i : Int} (h0 : 0 ≤ i) (h : i < (2 ^ w : Nat)) : wrapInt w i = i.toNat := by
  rw [wrapInt, Int.emod_eq_of_lt h0 h]

theorem wrapInt_of_neg {i : Int} (h0 : i < 0) (h : -((2 ^ w : Nat) : Int) ≤ i) : wrapInt w i = (i + (2 ^ w : Nat)).toNat := by
  rw [wrapInt, ← Int.add_emod_right, Int.emod_eq_of_lt (by omega) (by omega)]

/-! ### Operations modulo 2^w (R171, R174) -/

variable (n : NumMode) (a b : BitVec w) (sg : Bool)

theorem laneAdd_int (hw : 0 < w) : laneAdd n (.int w sg) a.toNat b.toNat = ((a + b).toNat, 0) := by
  show (wrapInt w (readInt w sg a.toNat + readInt w sg b.toNat), (0 : Flags)) = _
  rw [wrapInt_eq, BitVec.ofInt_add, ofInt_readInt hw, ofInt_readInt hw]

theorem laneSub_int (hw : 0 < w) : laneSub n (.int w sg) a.toNat b.toNat = ((a - b).toNat, 0) := by
  show (wrapInt w (readInt w sg a.toNat - readInt w sg b.toNat), (0 : Flags)) = _
  rw [wrapInt_eq, Int.sub_eq_add_neg, BitVec.ofInt_add, BitVec.ofInt_neg, ofInt_readInt hw, ofInt_readInt hw, BitVec.sub_eq_add_neg]

theorem laneMul_int (hw : 0 < w) : laneMul n (.int w sg) a.toNat b.toNat = ((a * b).toNat, 0) := by
  show (wrapInt w (readInt w sg a.toNat * readInt w sg b.toNat), (0 : Flags)) = _
  rw [wrapInt_eq, BitVec.ofInt_mul, ofInt_readInt hw, ofInt_readInt hw]

theorem laneShl_int (y : Nat) : laneShl n (.int w sg) a.toNat y = ((a <<< (y % w)).toNat, 0) := by
  rw [BitVec.toNat_shiftLeft, Nat.shiftLeft_eq]
  rfl

theorem laneShr_unsigned (y : Nat) : laneShr n (.int w false) a.toNat y = ((a >>> (y % w)).toNat, 0) := by
  show (wrapInt w (readInt w false a.toNat / (2 ^ (y % w) : Nat)), (0 : Flags)) = _
  rw [readInt_unsigned, ← Int.natCast_ediv, wrapInt_natCast, BitVec.toNat_ushiftRight, Nat.shiftRight_eq_div_pow,
    Nat.mod_eq_of_lt (Nat.lt_of_le_of_lt (Nat.div_le_self _ _) a.isLt)]

theorem laneShr_signed (hw : 0 < w) (y : Nat) : laneShr n (.int w true) a.toNat y = ((a.sshiftRight (y % w)).toNat, 0) := by
  show (wrapInt w (readInt w true a.toNat / (2 ^ (y % w) : Nat)), (0 : Flags)) = _
  rw [readInt_signed hw, wrapInt_eq, ← Int.shiftRight_eq_div_pow]
  rfl

/-! ### The smaller and the larger (R173) -/

theorem laneMin_signed (hw : 0 < w) :
    laneMin n (.int w true) a.toNat b.toNat = ((if a.toInt < b.toInt then a else b).toNat, 0) := by
  show (wrapInt w (min (readInt w true a.toNat) (readInt w true b.toNat)), (0 : Flags)) = _
  rw [readInt_signed hw, readInt_signed hw, wrapInt_eq]
  split
  · rw [Int.min_eq_left (by omega), BitVec.ofInt_toInt]
  · rw [Int.min_eq_right (by omega), BitVec.ofInt_toInt]

theorem laneMax_signed (hw : 0 < w) :
    laneMax n (.int w true) a.toNat b.toNat = ((if a.toInt < b.toInt then b else a).toNat, 0) := by
  show (wrapInt w (max (readInt w true a.toNat) (readInt w true b.toNat)), (0 : Flags)) = _
  rw [readInt_signed hw, readInt_signed hw, wrapInt_eq]
  split
  · rw [Int.max_eq_right (by omega), BitVec.ofInt_toInt]
  · rw [Int.max_eq_left (by omega), BitVec.ofInt_toInt]

theorem laneMin_unsigned : laneMin n (.int w false) a.toNat b.toNat = ((if a.toNat < b.toNat then a else b).toNat, 0) := by
  show (wrapInt w (min (readInt w false a.toNat) (readInt w false b.toNat)), (0 : Flags)) = _
  rw [readInt_unsigned, readInt_unsigned]
  split
  · rw [Int.min_eq_left (by omega), wrapInt_natCast, Nat.mod_eq_of_lt a.isLt]
  · rw [Int.min_eq_right (by omega), wrapInt_natCast, Nat.mod_eq_of_lt b.isLt]

theorem laneMax_unsigned : laneMax n (.int w false) a.toNat b.toNat = ((if a.toNat < b.toNat then b else a).toNat, 0) := by
  show (wrapInt w (max (readInt w false a.toNat) (readInt w false b.toNat)), (0 : Flags)) = _
  rw [readInt_unsigned, readInt_unsigned]
  split
  · rw [Int.max_eq_right (by omega), wrapInt_natCast, Nat.mod_eq_of_lt b.isLt]
  · rw [Int.max_eq_left (by omega), wrapInt_natCast, Nat.mod_eq_of_lt a.isLt]

/-! ### Quotients (R182) -/

theorem readInt_eq_zero (hw : 0 < w) : readInt w sg b.toNat = 0 ↔ b.toNat = 0 := by
  cases sg with
  | false => rw [readInt_unsigned, Int.natCast_eq_zero]
  | true =>
    rw [readInt_signed hw, ← BitVec.toInt_zero (w := w), BitVec.toInt_inj]
    exact BitVec.toNat_inj.symm.trans (by rw [BitVec.toNat_zero])

theorem laneDiv_zero (hw : 0 < w) (hb : b.toNat = 0) : laneDiv n (.int w sg) a.toNat b.toNat = (2 ^ w - 1, 0) :=
  if_pos ((readInt_eq_zero b sg hw).2 hb)

theorem laneDiv_nonzero (hw : 0 < w) (hb : b.toNat ≠ 0) : laneDiv n (.int w sg) a.toNat b.toNat
    = (wrapInt w ((readInt w sg a.toNat).tdiv (readInt w sg b.toNat)), 0) :=
  if_neg (mt (readInt_eq_zero b sg hw).1 hb)

theorem laneDiv_unsigned (hw : 0 < w) (hb : b.toNat ≠ 0) :
    laneDiv n (.int w false) a.toNat b.toNat = (a.toNat / b.toNat, 0) := by
  rw [laneDiv_nonzero n a b false hw hb, readInt_unsigned, readInt_unsigned, ← Int.ofNat_tdiv, wrapInt_natCast,
    Nat.mod_eq_of_lt (Nat.lt_of_le_of_lt (Nat.div_le_self _ _) a.isLt)]

theorem laneDiv_signed (hw : 0 < w) (hb : b.toNat ≠ 0) :
    laneDiv n (.int w true) a.toNat b.toNat = ((BitVec.ofInt w (a.toInt.tdiv b.toInt)).toNat, 0) := by
  rw [laneDiv_nonzero n a b true hw hb, readInt_signed hw, readInt_signed hw, wrapInt_eq]

/-! ### Saturation (R174) -/

/-- An exact result that leaves the signed lanes takes the nearer end, with OF. -/
theorem laneSat_signed (hw : 0 < w) (op : Int → Int → Int) : laneSat op n (.int w true) a.toNat b.toNat
    = (let r := op a.toInt b.toInt
       if r < -(2 ^ (w - 1) : Int) then (2 ^ (w - 1), fOF)
       else if (2 ^ (w - 1) : Int) ≤ r then (2 ^ (w - 1) - 1, fOF)
       else ((BitVec.ofInt w r).toNat, 0)) := by
  have hp := two_pow_width hw
  have h1 : 0 < 2 ^ (w - 1) := Nat.two_pow_pos _
  show (wrapInt w (clampInt w true (op (readInt w true a.toNat) (readInt w true b.toNat))).1,
    flagIf (clampInt w true (op (readInt w true a.toNat) (readInt w true b.toNat))).2 fOF) = _
  rw [readInt_signed hw, readInt_signed hw]
  generalize op a.toInt b.toInt = r
  have hc : (2 ^ (w - 1) : Int) = (2 ^ (w - 1) : Nat) := (Nat.cast_pow 2 (w - 1)).symm
  dsimp only
  rw [hc]
  unfold clampInt intMax intMin
  rw [if_pos rfl, if_pos rfl]
  by_cases hlow : r < -((2 ^ (w - 1) : Nat) : Int)
  · rw [if_neg (by omega), if_pos hlow, if_pos hlow]
    refine congrArg (·, fOF) ?_
    exact (wrapInt_of_neg (by omega) (by omega)).trans (by omega)
  · by_cases hhigh : ((2 ^ (w - 1) : Nat) : Int) ≤ r
    · rw [if_pos (by omega), if_neg hlow, if_pos hhigh]
      refine congrArg (·, fOF) ?_
      exact (wrapInt_of_nonneg (by omega) (by omega)).trans (by omega)
    · rw [if_neg (by omega), if_neg hlow, if_neg hlow, if_neg hhigh, ← wrapInt_eq]
      rfl

/-- An exact result that leaves the unsigned lanes takes the nearer end, with OF. -/
theorem laneSat_unsigned (op : Int → Int → Int) : laneSat op n (.int w false) a.toNat b.toNat
    = (let r := op a.toNat b.toNat
       if ((2 ^ w : Nat) : Int) ≤ r then (2 ^ w - 1, fOF) else if r < 0 then (0, fOF) else (r.toNat, 0)) := by
  have h1 : 0 < 2 ^ w := Nat.two_pow_pos _
  show (wrapInt w (clampInt w false (op (readInt w false a.toNat) (readInt w false b.toNat))).1,
    flagIf (clampInt w false (op (readInt w false a.toNat) (readInt w false b.toNat))).2 fOF) = _
  rw [readInt_unsigned, readInt_unsigned]
  generalize op a.toNat b.toNat = r
  dsimp only
  unfold clampInt intMax intMin
  rw [if_neg Bool.false_ne_true, if_neg Bool.false_ne_true]
  by_cases hhigh : ((2 ^ w : Nat) : Int) ≤ r
  · rw [if_pos (by omega), if_pos hhigh]
    refine congrArg (·, fOF) ?_
    exact (wrapInt_of_nonneg (by omega) (by omega)).trans (by omega)
  · by_cases hlow : r < 0
    · rw [if_neg (by omega), if_pos hlow, if_neg hhigh, if_pos hlow]
      refine congrArg (·, fOF) ?_
      exact wrapInt_of_nonneg (Int.le_refl 0) (by omega)
    · rw [if_neg (by omega), if_neg hlow, if_neg hhigh, if_neg hlow]
      refine congrArg (·, (0 : Flags)) ?_
      exact wrapInt_of_nonneg (by omega) (by omega)

theorem laneSat_add_unsigned : laneSat (· + ·) n (.int w false) a.toNat b.toNat
    = if a.toNat + b.toNat < 2 ^ w then (a.toNat + b.toNat, 0) else (2 ^ w - 1, fOF) := by
  rw [laneSat_unsigned]
  dsimp only
  by_cases h : a.toNat + b.toNat < 2 ^ w
  · rw [if_neg (by omega), if_neg (by omega), if_pos h]
    exact congrArg (·, (0 : Flags)) (by omega)
  · rw [if_pos (by omega), if_neg h]

theorem laneSat_sub_unsigned : laneSat (· - ·) n (.int w false) a.toNat b.toNat
    = if b.toNat ≤ a.toNat then (a.toNat - b.toNat, 0) else (0, fOF) := by
  have := a.isLt
  rw [laneSat_unsigned]
  dsimp only
  rw [if_neg (by omega)]
  by_cases h : b.toNat ≤ a.toNat
  · rw [if_neg (by omega), if_pos h]
    exact congrArg (·, (0 : Flags)) (by omega)
  · rw [if_pos (by omega), if_neg h]

end

/-- Settles O37, each operation as one on words of the lane's width. -/
theorem veIntegerLanes : Obligations.VeIntegerLanes := by
  intro n w a b hw
  have hpos : 0 < w := by omega
  refine ⟨fun sg => ⟨laneAdd_int n a b sg hpos, laneSub_int n a b sg hpos, laneMul_int n a b sg hpos, laneShl_int n a sg _,
      laneDiv_zero n a b sg hpos⟩,
    laneShr_unsigned n a _, laneShr_signed n a hpos _, laneMin_signed n a b hpos, laneMax_signed n a b hpos, laneMin_unsigned n a b,
    laneMax_unsigned n a b, fun hy => ⟨laneDiv_unsigned n a b hpos hy, laneDiv_signed n a b hpos hy⟩, laneSat_add_unsigned n a b,
    laneSat_sub_unsigned n a b, laneSat_signed n a b hpos _, laneSat_signed n a b hpos _⟩

end Sys2Proof.Machine

/-!
Words of a VE group (O30, O31, O33): what a trap of VE leaves (R395), how a word joins its group or makes it trap (R162, R167), and the
words whose results are lanes, predicates and a-registers.
-/
namespace Sys2Proof.Machine
open Sys2Proof

/-! ### A trap of VE (R395, R403) -/

/-- VE stands as it did: its stream, its registers, and the halt of its context. -/
structure VeStands (ck : Nat) (s t : State) : Prop where
  stream : (t.ctx ck).stream .ve = (s.ctx ck).stream .ve
  ve : (t.ctx ck).r.ve = (s.ctx ck).r.ve
  halt : (t.ctx ck).halt = (s.ctx ck).halt

section
variable {s t u : State} {ck : Nat}

theorem VeStands.refl (ck : Nat) (s : State) : VeStands ck s s := ⟨rfl, rfl, rfl⟩

theorem VeStands.trans (h : VeStands ck s t) (h' : VeStands ck t u) : VeStands ck s u :=
  ⟨h'.stream.trans h.stream, h'.ve.trans h.ve, h'.halt.trans h.halt⟩

theorem VeStands.of_ctx (h : t.ctx ck = s.ctx ck) : VeStands ck s t := ⟨by rw [h], by rw [h], by rw [h]⟩

theorem modRegs_veStands (s : State) {f : Regs → Regs} (hs : ∀ r, (f r).streams = r.streams) (hv : ∀ r, (f r).ve = r.ve) :
    VeStands ck s (s.modRegs ck f) := by
  have hc := ctx_modRegs s ck f
  refine ⟨?_, by rw [hc]; exact hv _, by rw [hc]⟩
  rw [hc]
  unfold Ctx.stream
  simp only [hs]

theorem modStream_veStands (s : State) {v : StreamId} (h : StreamId.ve ≠ v) (f : Stream → Stream) : VeStands ck s (s.modStream ck v f) := by
  have hc := ctx_modStream s ck v f
  refine ⟨?_, by rw [hc]; rfl, by rw [hc]⟩
  rw [hc]
  exact regs_stream_modStream_other _ h f

theorem noteCause_veStands (s : State) {v : StreamId} (h : StreamId.ve ≠ v) (c : Cause) (a : Option Nat) :
    VeStands ck s (noteCause ck v c a s) := modStream_veStands s h _

/-- The effects of an issued instruction of SQ leave VE as it stands. -/
theorem collectPend_veStands (ck : Nat) (s : State) : VeStands ck s (collectPend ck s) := by
  have hfree : VeStands ck s (s.modRegs ck fun r => { r with pend := none }) := modRegs_veStands s (fun _ => rfl) fun _ => rfl
  unfold collectPend
  split
  · next wr sd v line m scope hp =>
    have hget : VeStands ck s (collected ck wr sd v s) := modRegs_veStands s (fun _ => rfl) fun _ => rfl
    exact hget.trans (.of_ctx ((respCaches_keeps ck line m scope _).ctx ck))
  · exact (hfree.trans (modStream_veStands _ (by decide) _)).trans (noteCause_veStands _ (by decide) _ _)
  · exact hfree

/-- The steps of ME that run to their end leave VE as it stands. -/
theorem flushDrains_veStands (ck : Nat) (s : State) : VeStands ck s (flushDrains ck s) := by
  have hfold : ∀ (l : List MeDrain) (t : State), VeStands ck t (l.foldl (fun s d => applyDrain ck d s) t) := by
    intro l
    induction l with
    | nil => exact fun t => .refl ck t
    | cons d l ih =>
      intro t
      have hbytes : VeStands ck t (t.bufBytes d.cells) := .of_ctx rfl
      have hflags : VeStands ck (t.bufBytes d.cells) (applyDrain ck d t) := modRegs_veStands _ (fun _ => rfl) fun _ => rfl
      exact (hbytes.trans hflags).trans (ih (applyDrain ck d t))
  exact (hfold _ s).trans (modRegs_veStands _ (f := fun r => { r with me := { r.me with drains := [] } }) (fun _ => rfl) fun _ => rfl)

/-- A hard stop halts VE's stream, forgets its group and leaves its registers (R403). -/
theorem hardStop_ve (ck : Nat) (s : State) : ((hardStop ck s).ctx ck).stream .ve = haltStream ((s.ctx ck).stream .ve)
    ∧ ((hardStop ck s).ctx ck).r.ve = { (s.ctx ck).r.ve with group := {} }
    ∧ ((hardStop ck s).ctx ck).halt = (s.ctx ck).halt := by
  have hbefore := (collectPend_veStands ck s).trans (flushDrains_veStands ck (collectPend ck s))
  unfold hardStop
  extract_lets inv a b c e
  have hb := ctx_modRegs a ck fun r => { r with streams := r.streams.map haltStream, ve := { r.ve with group := {} } }
  have hst : (b.ctx ck).stream .ve = haltStream ((s.ctx ck).stream .ve) := by
    refine (congrArg (fun c : Ctx => c.stream .ve) hb :).trans ?_
    rw [← hbefore.stream]
    exact Vector.getElem_map _ _
  have hve : (b.ctx ck).r.ve = { (s.ctx ck).r.ve with group := {} } :=
    (congrArg (fun c : Ctx => c.r.ve) hb :).trans (congrArg (fun v : VeRegs => { v with group := {} }) hbefore.ve)
  have hhalt : (b.ctx ck).halt = (s.ctx ck).halt := (congrArg Ctx.halt hb :).trans hbefore.halt
  have hafter : VeStands ck b c := by
    dsimp only [c]
    clear_value inv
    cases inv with
    | none => exact .refl ck b
    | some d => exact noteCause_veStands b (by decide) _ _
  exact ⟨hafter.stream.trans hst, hafter.ve.trans hve, hafter.halt.trans hhalt⟩

/-- What a trap of VE leaves of it: its cause is the stream's first, and the context halts with it (R395, R397). -/
theorem takeTrap_ve (hh : (s.ctx ck).halt = none) (h0 : ((s.ctx ck).stream .ve).cause = 0) (c : Cause) (code faddr auxf elog : Nat)
    (restart : Bool) : let x := (takeTrap ck .ve c code faddr auxf elog restart s).ctx ck
    x.st = .halting ∧ x.halt = some ⟨2, c.code, restart, code, faddr, auxf, elog⟩
      ∧ x.stream .ve = haltStream { (s.ctx ck).stream .ve with cause := c.code, recorded := none }
      ∧ x.r.ve = { (s.ctx ck).r.ve with group := {} } := by
  have hn := ctx_modStream s ck .ve fun st => if st.cause = 0 then { st with cause := c.code, recorded := none } else st
  obtain ⟨hst, hve, hhalt⟩ := hardStop_ve ck (noteCause ck .ve c none s)
  have hnst : ((noteCause ck .ve c none s).ctx ck).stream .ve
      = { (s.ctx ck).stream .ve with cause := c.code, recorded := none } := by
    refine (congrArg (fun c : Ctx => c.stream .ve) hn :).trans ?_
    rw [regs_stream_modStream, if_pos h0]
  have hnhalt : ((noteCause ck .ve c none s).ctx ck).halt = none := (congrArg Ctx.halt hn :).trans hh
  have hnve : ((noteCause ck .ve c none s).ctx ck).r.ve = (s.ctx ck).r.ve := (congrArg (fun c : Ctx => c.r.ve) hn :)
  dsimp only
  unfold takeTrap stopContext
  dsimp only
  rw [ctx_modCtx]
  refine ⟨rfl, ?_, hst.trans (congrArg haltStream hnst), hve.trans (by rw [hnve])⟩
  show (match ((hardStop ck (noteCause ck .ve c none s)).ctx ck).halt with | some y => _ | none => _) = _
  rw [hhalt, hnhalt]

end

/-! ### A word in its group (R162, R167) -/

/-- The state with `g` as the running group of VE. -/
def State.withGroup (ck : Nat) (g : VeGroup) (s : State) : State := s.modRegs ck fun r => { r with ve := { r.ve with group := g } }

theorem ctx_withGroup (ck : Nat) (g : VeGroup) (s : State) : (s.withGroup ck g).ctx ck
    = { s.ctx ck with r := { (s.ctx ck).r with ve := { (s.ctx ck).r.ve with group := g } } } := ctx_modRegs _ _ _

theorem group_withGroup (ck : Nat) (g : VeGroup) (s : State) : ((s.withGroup ck g).ctx ck).r.ve.group = g := by
  rw [ctx_withGroup]

/-- A group with the same hold waits for the same. -/
theorem veBlocked_withGroup {ck : Nat} {g : VeGroup} {s : State} (h : g.held = (s.ctx ck).r.ve.group.held) (c : VeCtl) :
    veBlocked ck (s.withGroup ck g) c = veBlocked ck s c := by
  unfold veBlocked State.semFree State.semAhead State.semCount State.timeline
  rw [ctx_withGroup, h]
  rfl

/-- The count that a group gives back stands in no register of VE. -/
theorem veUntake_veStands (ck : Nat) (s : State) : VeStands ck s (veUntake ck s) := by
  unfold veUntake
  split
  · next n _ =>
    by_cases h : vget 0 (s.ctx ck).r.sem n = 0xFFFF#16
    · rw [semSignal_lost h]
      exact .refl ck s
    · rw [semSignal_counts h]
      exact modRegs_veStands s (f := fun r => { r with sem := vset r.sem n (vget 0 (s.ctx ck).r.sem n + 1) }) (fun _ => rfl) fun _ => rfl
  · exact .refl ck s

theorem veUntake_stuck (ck : Nat) (s : State) : (veUntake ck s).stuck = s.stuck := by
  unfold veUntake semSignal
  split
  · dsimp only
    split <;> rfl
  · rfl

theorem veCommit_trap {ck : Nat} {s : State} {n : Nat} {c : Cause} (hw : veBlocked ck s (s.ctx ck).r.ve.group.ctl = none)
    (ht : (s.ctx ck).r.ve.group.trap = some (n, c)) (hc : c ≠ .memUe) : veCommit ck s = takeTrap ck .ve c 0 0 0 0 true (veUntake ck s) := by
  unfold veCommit
  simp only [hw, ht, if_neg hc]

section
variable {s : State} {stop : Nat} {slot : VeSlot} {ok : ETy → Bool} {o : Op VeOut} {i : Instr} {f : State → State}

/-- A last word after which the group has a trap. -/
theorem veTraps_of_trap (hs : s.veReady) (hstop : stop ≠ 0) (hi : exec i s = run f s) (hf : f s = veWord stop slot ok o s) {g : VeGroup}
    {n : Nat} {c : Cause} (hg : s.c.r.veGroup.add slot (!ok s.veTy) (runOp o s).1 = g) (hctl : g.ctl = s.c.r.ve.group.ctl)
    (hheld : g.held = s.c.r.ve.group.held) (htrap : g.trap = some (n, c)) (hc : c ≠ .memUe) : s.veTraps c i := by
  intro hh h0 hw
  obtain ⟨⟨-, -, hstuck⟩, -, -⟩ := hs
  have hctx := ctx_withGroup s.ck g s
  have hcommit : f s = takeTrap s.ck .ve c 0 0 0 0 true (veUntake s.ck (s.withGroup s.ck g)) := by
    rw [hf]
    unfold veWord
    rw [hg, if_neg hstop]
    refine veCommit_trap (s := s.withGroup s.ck g) ?_ (by rw [group_withGroup]; exact htrap) hc
    rw [group_withGroup, veBlocked_withGroup hheld, hctl]
    exact hw
  have hv := veUntake_veStands s.ck (s.withGroup s.ck g)
  have hvs : ((veUntake s.ck (s.withGroup s.ck g)).ctx s.ck).stream .ve = s.c.stream .ve := by rw [hv.stream, hctx]; rfl
  obtain ⟨hst, hhalt, hstream, hve⟩ := takeTrap_ve (s := veUntake s.ck (s.withGroup s.ck g)) (ck := s.ck)
    (by rw [hv.halt, hctx]; exact hh) (by rw [hvs]; exact h0) c 0 0 0 0 true
  refine ⟨settle s (f s), hi.trans (run_next (by rw [hcommit, takeTrap_stuck, veUntake_stuck]; exact hstuck)), ?_⟩
  rw [settle_ctx, hcommit, hstream, hvs]
  refine ⟨hst, hhalt, rfl, rfl, hve.trans ?_⟩
  rw [hv.ve, hctx]
  rfl

theorem veGroup_trap (hs : s.veReady) : s.c.r.veGroup.trap = none := by
  obtain ⟨-, ht, -⟩ := hs
  unfold Regs.veGroup
  split <;> exact ht

theorem veGroup_ctl (r : Regs) : r.veGroup.ctl = r.ve.group.ctl := by
  unfold Regs.veGroup
  split <;> rfl

theorem veGroup_held (r : Regs) : r.veGroup.held = r.ve.group.held := by
  unfold Regs.veGroup
  split <;> rfl

/-- A word that does not take the lanes' type traps VE_TYPE at the end of its group, whatever its part does (R199). -/
theorem veTraps_type (hs : s.veReady) (hstop : stop ≠ 0) (hok : ok s.veTy = false) (hi : exec i s = run f s)
    (hf : f s = veWord stop slot ok o s) : s.veTraps .veType i := by
  refine veTraps_of_trap (n := s.c.r.veGroup.slotNo slot) hs hstop hi hf rfl ?_ ?_ ?_ (by decide)
  all_goals simp only [VeGroup.add, hok, Bool.not_false, if_true]
  · exact veGroup_ctl _
  · exact veGroup_held _
  · rw [veGroup_trap hs]
    rfl

/-- A word whose part traps makes its group trap (R167). -/
theorem veTraps_operand (hs : s.veReady) (hstop : stop ≠ 0) (hok : ok s.veTy = true) {c : Cause} {code faddr auxf elog : Nat} {t : State}
    (hc : c ≠ .memUe) (ho : runOp o s = (.error (.trap c code faddr auxf elog), t)) (hi : exec i s = run f s)
    (hf : f s = veWord stop slot ok o s) : s.veTraps c i := by
  refine veTraps_of_trap (n := 8 + s.c.r.veGroup.slotNo slot) hs hstop hi hf rfl ?_ ?_ ?_ hc
  all_goals simp only [VeGroup.add, hok, ho, Bool.not_true, if_neg Bool.false_ne_true, if_neg hc]
  · exact veGroup_ctl _
  · exact veGroup_held _
  · rw [veGroup_trap hs]
    rfl

/-- A word whose part succeeds in every state joins its group. -/
theorem veWord_pure (hs : s.veReady) (v : VeOut) (hf : f s = veWord stop slot anyTy (pure v) s) : run f s = s.veJoins stop slot v :=
  veWord_joins hs rfl hf (runOp_pure v s)

end

/-! ### Words of rows (R171 to R182) -/

section
variable {s : State} {stop vd va vb ar pg x y z : Nat} {slot : VeSlot} {ok : ETy → Bool}

theorem run_veVV (hs : s.veReady) (hok : ok s.veTy = true) (hx : s.rowHas va x) (hy : s.rowHas vb y) (f : Lane2) :
    run (veVV stop slot ok f vd va vb pg) s
      = (let r := laneMap (s.active pg) (fun p => f s.veNum s.veTy p.1 p.2) 0 ((s.lanes x).zip (s.lanes y))
         s.veJoins stop slot { effs := [rowOut s vd (s.active pg) r.1], flags := r.2 }) :=
  veWord_joins hs hok rfl ((runOp_bind_ok (lanesRead_ok hs.2.2 hx slot 1)).trans (runOp_bind_ok (lanesRead_ok hs.2.2 hy slot 2)))

theorem run_veVVV (hs : s.veReady) (hx : s.rowHas va x) (hy : s.rowHas vb y) (hz : s.rowHas vd z) (f : Lane3) :
    run (veVVV stop f vd va vb pg) s
      = (let r := laneMap (s.active pg) (fun p => f s.veNum s.veTy p.1 p.2.1 p.2.2) 0 ((s.lanes x).zip ((s.lanes y).zip (s.lanes z)))
         s.veJoins stop .a { effs := [rowOut s vd (s.active pg) r.1], flags := r.2 }) :=
  veWord_joins hs rfl rfl ((runOp_bind_ok (lanesRead_ok hs.2.2 hz .a 0)).trans
    ((runOp_bind_ok (lanesRead_ok hs.2.2 hx .a 1)).trans (runOp_bind_ok (lanesRead_ok hs.2.2 hy .a 2))))

theorem run_veVS (hs : s.veReady) (hx : s.rowHas va x) (f : Lane2) :
    run (veVS stop f vd va ar pg) s
      = (let r := laneMap (s.active pg) (fun a => f s.veNum s.veTy a ((s.aReg ar).toNat % 2 ^ s.veTy.width)) 0 (s.lanes x)
         s.veJoins stop .a { effs := [rowOut s vd (s.active pg) r.1], flags := r.2 }) :=
  veWord_joins hs rfl rfl (runOp_bind_ok (lanesRead_ok hs.2.2 hx .a 1))

theorem run_veVU (hs : s.veReady) (hok : ok s.veTy = true) (hx : s.rowHas va x) (f : Lane1) :
    run (veVU stop slot ok f vd va pg) s
      = (let r := laneMap (s.active pg) (f s.veNum s.veTy) 0 (s.lanes x)
         s.veJoins stop slot { effs := [rowOut s vd (s.active pg) r.1], flags := r.2 }) :=
  veWord_joins hs hok rfl (runOp_bind_ok (lanesRead_ok hs.2.2 hx slot 1))

theorem isFlt_eq (t : ETy) : t.isFlt = !t.isInt := (Bool.not_not _).symm

/-- Settles O30: each word is `run_veVV` at its lane operation; on a float type the integer words trap (`veTraps_type`). -/
theorem veTwoRowWords : Obligations.VeTwoRowWords := by
  intro s stop vd va vb pg x y hs hx hy
  refine ⟨run_veVV hs rfl hx hy _, run_veVV hs rfl hx hy _, run_veVV hs rfl hx hy _, run_veVV hs rfl hx hy _, run_veVV hs rfl hx hy _,
    run_veVV hs rfl hx hy _, run_veVV hs rfl hx hy _, run_veVV hs rfl hx hy _, run_veVV hs rfl hx hy _, fun hflt hstop => ?_,
    fun hint => ⟨run_veVV hs hint hx hy _, run_veVV hs hint hx hy _, run_veVV hs hint hx hy _, run_veVV hs hint hx hy _⟩⟩
  simp only [List.forall_mem_cons, List.not_mem_nil, false_implies, implies_true, and_true]
  exact ⟨veTraps_type hs hstop hflt rfl rfl, veTraps_type hs hstop hflt rfl rfl, veTraps_type hs hstop hflt rfl rfl,
    veTraps_type hs hstop hflt rfl rfl⟩

theorem rowIn_ok (h : s.rowsIn) : runOp (rowIn s) s = (.ok (), s) := runOp_failIf_ok (by rw [h]; rfl) _ _

theorem run_vfmaVs (hs : s.veReady) (hx : s.rowHas va x) (hz : s.rowHas vd z) : exec (.vfmaVs stop vd va ar pg) s
      = (let r := laneMap (s.active pg) (fun p => laneFma false s.veNum s.veTy p.1 ((s.aReg ar).toNat % 2 ^ s.veTy.width) p.2) 0
           ((s.lanes x).zip (s.lanes z))
         s.veJoins stop .a { effs := [rowOut s vd (s.active pg) r.1], flags := r.2 }) := by
  dsimp only [exec, execVfmaVs]
  exact veWord_joins hs rfl rfl ((runOp_bind_ok (lanesRead_ok hs.2.2 hz .a 0)).trans (runOp_bind_ok (lanesRead_ok hs.2.2 hx .a 1)))

theorem run_vbcast (hs : s.veReady) (h : s.rowsIn) : exec (.vbcast stop vd ar pg) s = s.veJoins stop .a
    { effs := [rowOut s vd (s.active pg) (List.replicate s.veTy.lanes ((s.aReg ar).toNat % 2 ^ s.veTy.width))] } := by
  dsimp only [exec, execVbcast]
  exact veWord_joins hs rfl rfl (runOp_bind_ok (rowIn_ok h))

/-- The reversed difference is the difference of the operands in the other order. -/
theorem laneRsub_eq : laneRsub = fun n t a b => laneSub n t b a := by
  funext n t a b
  cases t <;> rfl

theorem run_vrsub (hs : s.veReady) (hx : s.rowHas va x) : exec (.vrsub stop vd va ar pg) s
      = (let r := laneMap (s.active pg) (fun a => laneSub s.veNum s.veTy ((s.aReg ar).toNat % 2 ^ s.veTy.width) a) 0 (s.lanes x)
         s.veJoins stop .a { effs := [rowOut s vd (s.active pg) r.1], flags := r.2 }) := by
  dsimp only [exec, execVrsub]
  refine (run_veVS hs hx laneRsub).trans ?_
  rw [laneRsub_eq]

/-- Settles O31, each word by its form (`run_veVVV`, `run_veVS`, `run_veVU`) at its lane operation. -/
theorem veLaneWords : Obligations.VeLaneWords := by
  intro s stop vd va vb ar pg x y z hs hx hy hz
  refine ⟨run_veVVV hs hx hy hz _, run_veVVV hs hx hy hz _, run_veVVV hs hx hy hz _, run_veVVV hs hx hy hz _,
    run_veVS hs hx _, run_veVS hs hx _, run_veVS hs hx _, run_veVS hs hx _, run_veVS hs hx _, run_vrsub hs hx, run_vfmaVs hs hx hz,
    run_vbcast hs hx.1, run_veVU hs rfl hx _, run_veVU hs rfl hx _, run_veVU hs rfl hx _, run_veVU hs rfl hx _,
    fun hint => ⟨run_veVU hs hint hx _, run_veVU hs hint hx _⟩, fun hflt => ?_, fun hstop => ⟨fun hflt => ?_, fun hint => ?_⟩⟩
  · have hok : s.veTy.isFlt = true := by rw [isFlt_eq, hflt]; rfl
    exact ⟨run_veVU hs hok hx _, run_veVU hs hok hx _, run_veVU hs hok hx _, run_veVU hs hok hx _, run_veVU hs hok hx _,
      run_veVU hs hok hx _, run_veVU hs hok hx _, run_veVU hs hok hx _, run_veVU hs hok hx _⟩
  · simp only [List.forall_mem_cons, List.not_mem_nil, false_implies, implies_true, and_true]
    exact ⟨veTraps_type hs hstop hflt rfl rfl, veTraps_type hs hstop hflt rfl rfl⟩
  · have hok : s.veTy.isFlt = false := by rw [isFlt_eq, hint]; rfl
    simp only [List.forall_mem_cons, List.not_mem_nil, false_implies, implies_true, and_true]
    exact ⟨veTraps_type hs hstop hok rfl rfl, veTraps_type hs hstop hok rfl rfl, veTraps_type hs hstop hok rfl rfl,
      veTraps_type hs hstop hok rfl rfl, veTraps_type hs hstop hok rfl rfl, veTraps_type hs hstop hok rfl rfl,
      veTraps_type hs hstop hok rfl rfl, veTraps_type hs hstop hok rfl rfl, veTraps_type hs hstop hok rfl rfl⟩

end

/-! ### Words of predicates and a-registers (R190, R191, R198) -/

section
variable {s : State} {stop pd ad aa ab : Nat}

theorem run_vePred (hs : s.veReady) {f : State → Nat} {v : Nat} (hv : f s = v) :
    run (vePred stop pd f) s = s.veJoins stop .a { effs := predOut s pd v } :=
  veWord_pure hs _ (by rw [← hv]; rfl)

theorem run_veAlu (hs : s.veReady) {f : BitVec 32 → BitVec 32 → BitVec 32} {v : BitVec 32} (hv : f (s.aReg aa) (s.aReg ab) = v) :
    run (veAlu stop ad aa ab f) s = s.veJoins stop .m { effs := [.areg ad v] } :=
  veWord_pure hs _ (by rw [← hv]; rfl)

/-- The count of trailing zero bits is the place of the lowest one. -/
theorem ctzNat_eq {n v i : Nat} (hi : i < n) (hone : v.testBit i = true) (hlow : ∀ j, j < i → v.testBit j = false) : ctzNat n v = i := by
  obtain ⟨-, hzero, hbit⟩ := ctzNat_spec n v
  rcases Nat.lt_trichotomy (ctzNat n v) i with h | h | h
  · have h1 := hbit (by omega)
    rw [hlow _ h] at h1
    cases h1
  · exact h
  · have h0 := hzero i h
    rw [hone] at h0
    cases h0

theorem run_pcount (hs : s.veReady) (pa : Nat) : exec (.pcount stop ad pa) s
    = s.veJoins stop .a { effs := [.areg ad (BitVec.ofNat 32 ((List.range s.veTy.lanes).filter fun i => s.active pa i).length)] } := by
  dsimp only [exec, execPcount]
  refine veWord_pure hs _ ?_
  unfold State.active
  rw [← popNat_eq]
  rfl

theorem run_pfirst (hs : s.veReady) {pa : Nat} {v : BitVec 32}
    (hv : (if s.pred pa = 0 then BitVec.allOnes 32 else BitVec.ofNat 32 (ctzNat s.veTy.lanes (s.pred pa))) = v) :
    exec (.pfirst stop ad pa) s = s.veJoins stop .a { effs := [.areg ad v] } := by
  dsimp only [exec, execPfirst]
  exact veWord_pure hs _ (by rw [← hv]; rfl)

theorem run_pfirst_lane (hs : s.veReady) {pa i : Nat} (hi : i < s.veTy.lanes) (hone : s.active pa i = true)
    (hlow : ∀ j, j < i → s.active pa j = false) :
    exec (.pfirst stop ad pa) s = s.veJoins stop .a { effs := [.areg ad (BitVec.ofNat 32 i)] } := by
  refine run_pfirst hs ?_
  rw [if_neg, ctzNat_eq hi hone hlow]
  intro h
  unfold State.active at hone
  rw [h, Nat.zero_testBit] at hone
  cases hone

/-- Two's complement of `n` bits is the value of a word of `n` bits. -/
theorem signedOf_eq {n : Nat} (hn : 0 < n) (v : Nat) : signedOf n v = (BitVec.ofNat n v).toInt := by
  rw [← readInt_signed hn, BitVec.toNat_ofNat]
  unfold signedOf readInt
  simp only [Nat.mod_mod, true_and]

theorem run_aAddi (hs : s.veReady) (imm : Nat) :
    exec (.aAddi stop ad aa imm) s = s.veJoins stop .m { effs := [.areg ad (s.aReg aa + (BitVec.ofNat 16 imm).signExtend 32)] } := by
  dsimp only [exec, execAAddi]
  refine veWord_pure hs _ ?_
  rw [BitVec.signExtend, ← signedOf_eq (by decide)]
  rfl

theorem hasLevel_iff {r : Regs} {lev : Nat} : r.hasLevel lev = true ↔ lev < r.levels.length := decide_eq_true_iff

/-- A word of a level joins its group where the level is defined. -/
theorem run_levelWord (hs : s.veReady) {slot : VeSlot} {lev : Nat} {v : VeOut} {f : State → State}
    (hf : f s = veWord stop slot anyTy (do failIf (!s.c.r.hasLevel lev) .loopLev; pure v) s) (h : lev < s.c.r.levels.length) :
    run f s = s.veJoins stop slot v :=
  veWord_joins hs rfl hf (runOp_bind_ok (runOp_failIf_ok (by rw [hasLevel_iff.2 h]; rfl) _ _))

/-- And makes it trap where the level is not. -/
theorem veTraps_level (hs : s.veReady) (hstop : stop ≠ 0) {slot : VeSlot} {lev : Nat} {v : VeOut} {i : Instr} {f : State → State}
    (hi : exec i s = run f s) (hf : f s = veWord stop slot anyTy (do failIf (!s.c.r.hasLevel lev) .loopLev; pure v) s)
    (h : s.c.r.levels.length ≤ lev) : s.veTraps .loopLev i := by
  have hlev : s.c.r.hasLevel lev = false := decide_eq_false (Nat.not_lt.2 h)
  exact veTraps_operand hs hstop rfl (by decide) (runOp_failIf_bad (by rw [hlev]; rfl) _ _ _) hi hf

theorem run_aLui (hs : s.veReady) (imm : Nat) :
    exec (.aLui stop ad imm) s = s.veJoins stop .m { effs := [.areg ad (BitVec.ofNat 32 (imm * 65536))] } := by
  dsimp only [exec, execALui]
  exact veWord_pure hs _ rfl

theorem run_levelReads (hs : s.veReady) {lev : Nat} (h : lev < s.c.r.levels.length) :
    exec (.aLc stop ad lev) s = s.veJoins stop .m { effs := [.areg ad (vget 0 s.c.r.lc lev)] }
    ∧ exec (.aIt stop ad lev) s = s.veJoins stop .m { effs := [.areg ad (vget 0 (s.c.stream .ve).iter lev)] } := by
  dsimp only [exec, execALc, execAIt]
  exact ⟨run_levelWord hs rfl h, run_levelWord hs rfl h⟩

theorem levelReads_trap (hs : s.veReady) (hstop : stop ≠ 0) {lev : Nat} (h : s.c.r.levels.length ≤ lev) :
    s.veTraps .loopLev (.aLc stop ad lev) ∧ s.veTraps .loopLev (.aIt stop ad lev) := by
  have hlc : exec (.aLc stop ad lev) s = execALc stop ad lev s := rfl
  have hit : exec (.aIt stop ad lev) s = execAIt stop ad lev s := rfl
  exact ⟨veTraps_level hs hstop hlc rfl h, veTraps_level hs hstop hit rfl h⟩

/-- Settles O33, each word by the value that it gives. -/
theorem vePredicateAndRegisterWords : Obligations.VePredicateAndRegisterWords := by
  intro s stop pd pa pb ad aa ab imm lev hs
  refine ⟨run_vePred hs rfl, run_vePred hs rfl, run_vePred hs rfl, run_vePred hs rfl, run_vePred hs rfl, run_vePred hs rfl,
    run_vePred hs rfl, run_vePred hs rfl, run_vePred hs ?_, run_pcount hs pa, fun h => run_pfirst hs (if_pos h),
    fun i => run_pfirst_lane hs, run_veAlu hs rfl, run_veAlu hs rfl, run_veAlu hs rfl, run_veAlu hs rfl, run_veAlu hs rfl,
    run_veAlu hs rfl, run_veAlu hs rfl, run_veAlu hs rfl, run_veAlu hs rfl, run_veAlu hs ?_, run_veAlu hs ?_, run_veAlu hs ?_,
    run_veAlu hs ?_, run_veAlu hs ?_, run_veAlu hs ?_, run_aAddi hs imm, run_aLui hs imm, run_levelReads hs, fun h hstop => ?_⟩
  case refine_1 =>
    split
    · next h => rw [Nat.min_eq_left (Nat.le_of_lt h)]
    · next h => rw [Nat.min_eq_right (Nat.not_lt.1 h)]
  case refine_8 =>
    simp only [List.forall_mem_cons, List.not_mem_nil, false_implies, implies_true, and_true]
    exact levelReads_trap hs hstop h
  all_goals simp [bvMin, bvMax, bvMinu, bvMaxu, bit, BitVec.slt, BitVec.ult]

end

end Sys2Proof.Machine

/-!
Words of VE that select, compare, convert, reduce and move lanes (O32): a row as its lanes by number, and each word by them.
-/
namespace Sys2Proof.Machine
open Sys2Proof

/-! ### Lanes by number (R158, R159) -/

theorem splitBits_eq (w : Nat) : ∀ n v, splitBits w n v = (List.range n).map fun i => v / 2 ^ (w * i) % 2 ^ w
  | 0, _ => rfl
  | n + 1, v => by
    have htail : ∀ i, v / 2 ^ w / 2 ^ (w * i) % 2 ^ w = v / 2 ^ (w * (i + 1)) % 2 ^ w := fun i => by
      rw [Nat.div_div_eq_div_mul, ← pow_add, Nat.mul_succ, Nat.add_comm w]
    rw [splitBits, splitBits_eq w n, List.range_succ_eq_map, List.map_cons, List.map_map, Nat.mul_zero, pow_zero, Nat.div_one]
    exact congrArg _ (List.map_congr_left fun i _ => htail i)

@[simp] theorem length_lanes (s : State) (x : Nat) : (s.lanes x).length = s.veTy.lanes := by
  rw [State.lanes, splitBits_eq, List.length_map, List.length_range]

/-- A list is its lanes by number. -/
theorem map_laneAt (l : List Nat) : (List.range l.length).map (laneAt l) = l := by
  refine List.ext_getElem (by simp) fun i h _ => ?_
  simp [laneAt, (by simpa using h : i < l.length)]

theorem lanes_by_number (s : State) (x : Nat) : (List.range s.veTy.lanes).map (laneAt (s.lanes x)) = s.lanes x := by
  rw [← length_lanes s x, map_laneAt]

theorem map_lanes {β : Type} (s : State) (x : Nat) (f : Nat → β) :
    (s.lanes x).map f = (List.range s.veTy.lanes).map fun i => f (laneAt (s.lanes x) i) := by
  conv_lhs => rw [← lanes_by_number s x, List.map_map]
  rfl

theorem enum_eq (l : List Nat) : enum l = (List.range l.length).map fun i => (i, laneAt l i) := by
  refine List.ext_getElem (by simp [enum]) fun i h _ => ?_
  simp [enum, laneAt, (by simpa [enum] using h : i < l.length)]

theorem enum_lanes (s : State) (x : Nat) : enum (s.lanes x) = (List.range s.veTy.lanes).map fun i => (i, laneAt (s.lanes x) i) := by
  rw [enum_eq, length_lanes]

theorem enum_zip_lanes (s : State) (x y : Nat) : enum ((s.lanes x).zip (s.lanes y))
    = (List.range s.veTy.lanes).map fun i => (i, laneAt (s.lanes x) i, laneAt (s.lanes y) i) := by
  refine List.ext_getElem (by simp [enum]) fun i h _ => ?_
  have hi : i < s.veTy.lanes := by simpa [enum] using h
  simp [enum, laneAt, hi]

/-! ### Lanes in order (R185) -/

/-- The lanes that a mask selects, by number. -/
theorem packed_lanes (s : State) (pg x : Nat) :
    packed s pg (s.lanes x) = ((List.range s.veTy.lanes).filter (s.active pg)).map (laneAt (s.lanes x)) := by
  rw [packed, enum_lanes, List.filter_map, List.map_map]
  rfl

/-- The active lanes below lane `i`. -/
def rank (act : Nat → Bool) (i : Nat) : Nat := ((List.range i).filter act).length

theorem rank_succ (act : Nat → Bool) (i : Nat) : rank act (i + 1) = rank act i + if act i then 1 else 0 := by
  unfold rank
  rw [List.range_succ, List.filter_append, List.length_append]
  cases h : act i <;> simp [h]

/-- Expansion gives an active lane the lane of its rank. -/
theorem expandLanes_drop (act : Nat → Bool) (l : List Nat) : ∀ n i, expandLanes act n i (l.drop (rank act i))
    = (List.range' i n).map fun k => if act k then laneAt l (rank act k) else 0
  | 0, _ => rfl
  | n + 1, i => by
    have ih := expandLanes_drop act l n (i + 1)
    rw [rank_succ] at ih
    rw [List.range'_succ, List.map_cons, ← ih, expandLanes]
    cases act i with
    | false => rfl
    | true => simp only [if_true, List.tail_drop, List.headD_eq_head?_getD, List.head?_drop, laneAt]

theorem expandLanes_eq (act : Nat → Bool) (l : List Nat) (n : Nat) : expandLanes act n 0 l
    = (List.range n).map fun i => if act i then laneAt l (rank act i) else 0 := by
  rw [List.range_eq_range', ← expandLanes_drop]
  rfl

/-! ### Every lane active (R179) -/

theorem laneMap_all_fst {α : Type} (f : α → Nat × Flags) : ∀ (i : Nat) (l : List α),
    (laneMap (fun _ => true) f i l).1 = l.map fun a => (f a).1
  | _, [] => rfl
  | i, a :: l => congrArg (List.cons (f a).1) (laneMap_all_fst f (i + 1) l)

theorem laneMap_all_flag {α : Type} (f : α → Nat × Flags) (k : Nat) : ∀ (i : Nat) (l : List α),
    (laneMap (fun _ => true) f i l).2.getLsbD k = true ↔ ∃ a ∈ l, (f a).2.getLsbD k = true
  | _, [] => by simp [laneMap]
  | i, a :: l => by
    have ih := laneMap_all_flag f k (i + 1) l
    simp only [laneMap, if_true, BitVec.getLsbD_or, Bool.or_eq_true, ih, List.exists_mem_cons_iff]

/-! ### The words -/

section
variable {s : State} {stop vd va vb pd ad ar av pg x y : Nat}

theorem rowRead_ok {k : Nat} (he : s.early = []) (h : s.rowHas k x) (slot : VeSlot) (o : Nat) :
    runOp (rowRead s slot o k) s = (.ok x, s) := by
  obtain ⟨hin, hread⟩ := h
  unfold rowRead
  rw [runOp_bind_ok (rowIn_ok hin)]
  simp only [atRead_self he, hread]
  exact runOp_bind_ok (runOp_failIf_ok rfl _ _)

theorem run_vsel (hs : s.veReady) (hx : s.rowHas va x) (hy : s.rowHas vb y) : exec (.vsel stop vd va vb pg) s
    = s.veJoins stop .a { effs := [rowOut s vd (fun _ => true) ((List.range s.veTy.lanes).map fun i =>
        if s.active pg i then laneAt (s.lanes x) i else laneAt (s.lanes y) i)] } := by
  dsimp only [exec, execVsel]
  refine veWord_joins (t := s) hs rfl rfl ((runOp_bind_ok (lanesRead_ok hs.2.2 hx .a 1)).trans
    ((runOp_bind_ok (lanesRead_ok hs.2.2 hy .a 2)).trans ?_))
  rw [enum_zip_lanes, List.map_map]
  rfl

theorem run_veCmp (hs : s.veReady) (hx : s.rowHas va x) (hy : s.rowHas vb y) (c : Cond) : run (veCmp stop c pd va vb pg) s
    = (let r := laneMap (s.active pg)
         (fun p => let q := laneCmp c s.veNum s.veTy p.1 p.2; (if q.1 then 1 else 0, q.2)) 0 ((s.lanes x).zip (s.lanes y))
       s.veJoins stop .a { effs := predOut s pd ((s.pred pd &&& (2 ^ s.veTy.lanes - 1 - s.pred pg)) ||| joinBits 1 r.1), flags := r.2 }) :=
  veWord_joins hs rfl rfl ((runOp_bind_ok (lanesRead_ok hs.2.2 hx .a 1)).trans (runOp_bind_ok (lanesRead_ok hs.2.2 hy .a 2)))

theorem run_veRed (hs : s.veReady) (hx : s.rowHas va x) (c : Red) : run (veRed stop c ad va pg) s
    = (let r := reduceLanes (s.c.stream .ve).nbl (c.op s.veNum s.veTy) (c.ident s.veTy)
         ((List.range s.veTy.lanes).map fun i => if s.active pg i then some (laneAt (s.lanes x) i) else none)
       s.veJoins stop .s { effs := [.areg ad (BitVec.ofNat 32 (r.1.getD (c.ident s.veTy)))], flags := r.2 }) := by
  refine veWord_joins (t := s) hs rfl rfl ((runOp_bind_ok (lanesRead_ok hs.2.2 hx .s 1)).trans ?_)
  rw [enum_lanes, List.map_map]
  rfl

theorem run_veMove (hs : s.veReady) (hx : s.rowHas va x) (f : State → List Nat → Nat → Nat) : run (veMove stop vd va pg f) s
    = s.veJoins stop .s { effs := [rowOut s vd (s.active pg) ((List.range s.veTy.lanes).map (f s (s.lanes x)))] } :=
  veWord_joins hs rfl rfl (runOp_bind_ok (lanesRead_ok hs.2.2 hx .s 1))

theorem run_vperm (hs : s.veReady) (hx : s.rowHas va x) (hy : s.rowHas vb y) : exec (.vperm stop vd va vb pg) s
    = s.veJoins stop .s { effs := [rowOut s vd (s.active pg) ((List.range s.veTy.lanes).map fun i =>
        laneAt (s.lanes x) (laneAt (s.lanes y) i % s.veTy.lanes))] } := by
  dsimp only [exec, execVperm]
  refine veWord_joins (t := s) hs rfl rfl ((runOp_bind_ok (lanesRead_ok hs.2.2 hx .s 1)).trans
    ((runOp_bind_ok (lanesRead_ok hs.2.2 hy .s 2)).trans ?_))
  rw [map_lanes]
  rfl

theorem run_vext (hs : s.veReady) (hx : s.rowHas va x) : exec (.vext stop ad va ar) s
    = s.veJoins stop .s { effs := [.areg ad (BitVec.ofNat 32 (laneAt (s.lanes x) ((s.aReg ar).toNat % s.veTy.lanes)))] } := by
  dsimp only [exec, execVext]
  exact veWord_joins hs rfl rfl (runOp_bind_ok (lanesRead_ok hs.2.2 hx .s 1))

theorem run_vins (hs : s.veReady) (h : s.rowsIn) : exec (.vins stop vd av ar) s
    = s.veJoins stop .s { effs := [rowOut s vd (fun i => i = (s.aReg ar).toNat % s.veTy.lanes)
        (List.replicate s.veTy.lanes ((s.aReg av).toNat % 2 ^ s.veTy.width))] } := by
  dsimp only [exec, execVins]
  exact veWord_joins hs rfl rfl (runOp_bind_ok (rowIn_ok h))

theorem run_vcompress (hs : s.veReady) (hx : s.rowHas va x) : exec (.vcompress stop vd va ad pg) s
    = (let sel := ((List.range s.veTy.lanes).filter (s.active pg)).map (laneAt (s.lanes x))
       s.veJoins stop .s { effs := [rowOut s vd (fun _ => true) sel, .areg ad (BitVec.ofNat 32 sel.length)] }) := by
  dsimp only [exec, execVcompress]
  refine veWord_joins (t := s) hs rfl rfl ((runOp_bind_ok (lanesRead_ok hs.2.2 hx .s 1)).trans ?_)
  rw [packed_lanes]
  rfl

theorem run_vexpand (hs : s.veReady) (hx : s.rowHas va x) : exec (.vexpand stop vd va pg) s
    = s.veJoins stop .s { effs := [rowOut s vd (fun _ => true) ((List.range s.veTy.lanes).map fun i =>
        if s.active pg i then laneAt (s.lanes x) (rank (s.active pg) i) else 0)] } := by
  dsimp only [exec, execVexpand]
  refine veWord_joins (t := s) hs rfl rfl ((runOp_bind_ok (lanesRead_ok hs.2.2 hx .s 1)).trans ?_)
  rw [expandLanes_eq]
  rfl

/-- The fields of a row that a conversion reads: those of its part on the wider side (R179). -/
theorem splitBits_part (w n part : Nat) (narrow : Bool) : splitBits w n (if narrow then x else x / 2 ^ (w * (part * n)))
    = (List.range n).map fun i => x / 2 ^ (w * ((if narrow then 0 else part * n) + i)) % 2 ^ w := by
  rw [splitBits_eq]
  cases narrow with
  | true => simp only [if_true, Nat.zero_add]
  | false =>
    refine List.map_congr_left fun i _ => ?_
    simp only [if_neg Bool.false_ne_true]
    rw [Nat.div_div_eq_div_mul, ← pow_add, Nat.mul_add]

theorem run_vcvt (hs : s.veReady) (hx : s.rowHas va x) (sty dty part : Nat) :
    let st := etyOf sty
    let dt := etyOf dty
    let m := 256 / max st.bytes dt.bytes
    let lo := if dt.bytes < st.bytes then dt.bytes * (part * m) else 0
    let cv (i : Nat) := laneCvt st dt s.veNum (x / 2 ^ (st.width * ((if dt.bytes < st.bytes then 0 else part * m) + i)) % 2 ^ st.width)
    ∃ g, exec (.vcvt stop vd va sty dty part) s = s.veJoins stop .a { flags := g, effs := [.row (s.row vd)
        (BitVec.ofNat 2048 (joinBits dt.width ((List.range m).map fun i => (cv i).1) * 2 ^ (8 * lo)))
        (BitVec.ofNat 256 ((2 ^ (dt.bytes * m) - 1) * 2 ^ lo))] }
      ∧ ∀ k, g.getLsbD k = true ↔ ∃ i, i < m ∧ (cv i).2.getLsbD k = true := by
  intro st dt m lo cv
  have hlanes := splitBits_part (x := x) st.width m part (decide (dt.bytes < st.bytes))
  simp only [decide_eq_true_eq] at hlanes
  have hfst : (laneMap (fun _ => true) (laneCvt st dt s.veNum) 0 (splitBits st.width m
      (if dt.bytes < st.bytes then x else x / 2 ^ (st.width * (part * m))))).1 = (List.range m).map fun i => (cv i).1 := by
    rw [laneMap_all_fst, hlanes, List.map_map]
    rfl
  refine ⟨(laneMap (fun _ => true) (laneCvt st dt s.veNum) 0 (splitBits st.width m
      (if dt.bytes < st.bytes then x else x / 2 ^ (st.width * (part * m))))).2, ?_, fun k => ?_⟩
  · dsimp only [exec, execVcvt]
    refine veWord_joins (t := s) hs rfl rfl ((runOp_bind_ok (rowRead_ok hs.2.2 hx .a 1)).trans ?_)
    rw [← hfst]
    simp only [decide_eq_true_eq]
    rfl
  · rw [laneMap_all_flag, hlanes]
    simp only [List.mem_map, List.mem_range, exists_exists_and_eq_and]
    rfl

end

/-- Settles O32, each word by the lanes that it reads. -/
theorem veSelectReduceAndMoveWords : Obligations.VeSelectReduceAndMoveWords := by
  intro s stop vd va vb pd ad ar av pg x y hs hx hy
  exact ⟨run_vsel hs hx hy, run_veCmp hs hx hy _, run_veCmp hs hx hy _, run_veCmp hs hx hy _, run_veCmp hs hx hy _,
    run_veCmp hs hx hy _, run_veCmp hs hx hy _, run_veCmp hs hx hy _, run_veRed hs hx _, run_veRed hs hx _, run_veRed hs hx _,
    run_veRed hs hx _, run_veRed hs hx _, run_veRed hs hx _, run_vperm hs hx hy, run_veMove hs hx _, run_veMove hs hx _,
    run_veMove hs hx _, run_vext hs hx, run_vins hs hx.1, run_vcompress hs hx, run_vexpand hs hx,
    fun sty dty part _ _ => run_vcvt hs hx sty dty part⟩

end Sys2Proof.Machine

/-!
Words of VE that move rows and lanes between CB and AB (O35).
-/
namespace Sys2Proof.Machine
open Sys2Proof

/-! ### The parts of the words (R187, R188) -/

theorem enum_map_range (f : Nat → Nat) (n : Nat) : enum ((List.range n).map f) = (List.range n).map fun i => (i, f i) := by
  refine List.ext_getElem (by simp [enum]) fun i _ _ => ?_
  simp [enum]

/-- An operation over a list each of whose steps answers and changes nothing. -/
theorem opMap_ok {α β : Type} {s : State} {f : α → Op β} {g : α → β} : ∀ l : List α,
    (∀ a ∈ l, runOp (f a) s = (.ok (g a), s)) → runOp (opMap f l) s = (.ok (l.map g), s)
  | [], _ => rfl
  | a :: l, h => (runOp_bind_ok (h a List.mem_cons_self)).trans (runOp_bind_ok (opMap_ok l fun b hb => h b (List.mem_cons_of_mem a hb)))

/-- What a lane finds among the loaded ones: its own value, or 0. -/
theorem find_loaded (off val : Nat → Nat) (i : Nat) : ∀ act : List Nat,
    ((((act.map fun j => (j, off j)).zip (act.map val)).find? fun p => p.1.1 = i).map (·.2)).getD 0 = if i ∈ act then val i else 0
  | [] => rfl
  | a :: act => by
    have ih := find_loaded off val i act
    by_cases h : a = i
    · subst h
      simp
    · have h' : i ≠ a := fun e => h e.symm
      simpa [h, h'] using ih

section
variable {s : State} {stop vr ab vb off pg x y : Nat}

theorem rowEa_eq (s : State) (ab off : Nat) : rowEa s ab off = (s.aReg ab + 4 * (BitVec.ofNat 14 off).signExtend 32).toNat := by
  unfold rowEa
  rw [BitVec.ofInt_mul, signedOf_eq (by decide)]
  rfl

theorem abRead_ok {a n w : Nat} (h : winRead s.ck 0 a n s = (w, false)) : runOp (abRead s a n) s = (.ok w, s) := by
  unfold abRead
  rw [h]
  exact runOp_bind_ok (runOp_failIf_ok rfl _ _)

/-- The active lanes (R159). -/
def State.activeLanes (s : State) (pg : Nat) : List Nat := (List.range s.veTy.lanes).filter (s.active pg)

/-- The AB offset of a lane that `f` gives an index. -/
def State.laneOff (s : State) (ab : Nat) (f : Nat → Nat) (i : Nat) : Nat := (s.aReg ab).toNat + s.veTy.bytes * f i

/-- The offsets that a word forms for its active lanes, before it checks them. -/
theorem laneOffs_lanes (s : State) (ab pg : Nat) (f : Nat → Nat) :
    ((enum ((List.range s.veTy.lanes).map f)).filter fun p => s.active pg p.1).map (fun p => (p.1, (s.aReg ab).toNat + s.veTy.bytes * p.2))
      = (s.activeLanes pg).map fun i => (i, s.laneOff ab f i) := by
  rw [enum_map_range, List.filter_map, List.map_map]
  rfl

section
variable {idx : Op (List Nat)} {f : Nat → Nat}

theorem laneOffs_ok (hb : (s.aReg ab).toNat % s.veTy.bytes = 0) (hi : runOp idx s = (.ok ((List.range s.veTy.lanes).map f), s))
    (hw : ∀ i ∈ s.activeLanes pg, inWindow s.c 0 (s.laneOff ab f i) s.veTy.bytes = true) :
    runOp (laneOffs s ab pg idx) s = (.ok ((s.activeLanes pg).map fun i => (i, s.laneOff ab f i)), s) := by
  refine (runOp_bind_ok (runOp_failIf_ok (decide_eq_false (not_not.2 hb)) _ _)).trans ((runOp_bind_ok hi).trans ?_)
  rw [laneOffs_lanes]
  refine runOp_bind_ok (runOp_failIf_ok ?_ _ _)
  simpa using hw

theorem laneOffs_misaligned (hb : (s.aReg ab).toNat % s.veTy.bytes ≠ 0) :
    runOp (laneOffs s ab pg idx) s = (.error (.trap .misalign 0 0 0 0), s) := runOp_failIf_bad (decide_eq_true hb) _ _ _

theorem laneOffs_outside (hb : (s.aReg ab).toNat % s.veTy.bytes = 0) (hi : runOp idx s = (.ok ((List.range s.veTy.lanes).map f), s))
    (hw : ∃ i ∈ s.activeLanes pg, inWindow s.c 0 (s.laneOff ab f i) s.veTy.bytes = false) :
    runOp (laneOffs s ab pg idx) s = (.error (.trap .bufRange 0 0 0 0), s) := by
  refine (runOp_bind_ok (runOp_failIf_ok (decide_eq_false (not_not.2 hb)) _ _)).trans ((runOp_bind_ok hi).trans ?_)
  rw [laneOffs_lanes]
  refine runOp_failIf_bad ?_ _ _ _
  simpa using hw

theorem run_veScatter {g : State → State} (hg : g s = veScatter stop vr ab pg idx s) (hs : s.veReady)
    (hx : s.rowHas vr x) (hb : (s.aReg ab).toNat % s.veTy.bytes = 0) (hi : runOp idx s = (.ok ((List.range s.veTy.lanes).map f), s))
    (hw : ∀ i ∈ s.activeLanes pg, inWindow s.c 0 (s.laneOff ab f i) s.veTy.bytes = true) :
    run g s = s.veJoins stop .m
      { effs := [.ab ((s.activeLanes pg).flatMap fun i => bytesAt (s.laneOff ab f i) s.veTy.bytes (laneAt (s.lanes x) i))] } := by
  refine veWord_joins (t := s) hs rfl hg ((runOp_bind_ok (laneOffs_ok hb hi hw)).trans ((runOp_bind_ok (lanesRead_ok hs.2.2 hx .m 1)).trans ?_))
  rw [List.flatMap_map]
  rfl

end

/-- The lanes of vb, as the indices of an access. -/
theorem lanesRead_indices (hs : s.veReady) (hy : s.rowHas vb y) :
    runOp (lanesRead s .m 2 vb) s = (.ok ((List.range s.veTy.lanes).map (laneAt (s.lanes y))), s) := by
  rw [lanesRead_ok hs.2.2 hy, lanes_by_number]

/-- The lanes of a row that stand in order of their numbers. -/
theorem lanes_inOrder (s : State) : runOp (pure (List.range s.veTy.lanes)) s = (.ok ((List.range s.veTy.lanes).map id), s) := by
  rw [List.map_id]
  rfl

theorem run_vldx (hs : s.veReady) (hy : s.rowHas vb y) (hb : (s.aReg ab).toNat % s.veTy.bytes = 0)
    (hw : ∀ i ∈ s.activeLanes pg, inWindow s.c 0 (s.laneOff ab (laneAt (s.lanes y)) i) s.veTy.bytes = true) {val : Nat → Nat}
    (hval : ∀ i ∈ s.activeLanes pg, winRead s.ck 0 (s.laneOff ab (laneAt (s.lanes y)) i) s.veTy.bytes s = (val i, false)) :
    exec (.vldx stop vr ab vb pg) s = s.veJoins stop .m { effs := [rowOut s vr (s.active pg)
      ((List.range s.veTy.lanes).map fun i => if s.active pg i then val i else 0)] } := by
  have hread : ∀ p ∈ (s.activeLanes pg).map (fun i => (i, s.laneOff ab (laneAt (s.lanes y)) i)),
      runOp (abRead s p.2 s.veTy.bytes) s = (.ok (val p.1), s) := by
    intro p hp
    obtain ⟨i, hi, rfl⟩ := List.mem_map.1 hp
    exact abRead_ok (hval i hi)
  dsimp only [exec, execVldx]
  refine veWord_joins (t := s) hs rfl rfl ((runOp_bind_ok (laneOffs_ok hb (lanesRead_indices hs hy) hw)).trans
    ((runOp_bind_ok (opMap_ok _ hread)).trans ?_))
  have hlane : ∀ i ∈ List.range s.veTy.lanes, (if i ∈ s.activeLanes pg then val i else 0) = if s.active pg i then val i else 0 :=
    fun i hi => if_congr (by simp [State.activeLanes, List.mem_range.1 hi]) rfl rfl
  rw [← List.map_congr_left hlane]
  simp only [← find_loaded (s.laneOff ab (laneAt (s.lanes y))) val, List.map_map]
  rfl

/-! ### Rows (R187) -/

section
variable {ea : Nat} (hea : rowEa s ab off = ea)
include hea

theorem run_vst (hs : s.veReady) (hx : s.rowHas vr x) (hal : ea % 4 = 0) (hwin : inWindow s.c 0 ea 256 = true) :
    exec (.vst stop vr ab off) s = s.veJoins stop .m { effs := [.ab (bytesAt ea 256 x)] } := by
  subst hea
  dsimp only [exec, execVst]
  exact veWord_joins hs rfl rfl ((runOp_bind_ok (runOp_failIf_ok (decide_eq_false (not_not.2 hal)) _ _)).trans
    ((runOp_bind_ok (runOp_failIf_ok (by rw [hwin]; rfl) _ _)).trans (runOp_bind_ok (rowRead_ok hs.2.2 hx .m 1))))

theorem run_vld (hs : s.veReady) (hin : s.rowsIn) (hal : ea % 4 = 0) (hwin : inWindow s.c 0 ea 256 = true) {w : Nat}
    (hw : winRead s.ck 0 ea 256 s = (w, false)) : exec (.vld stop vr ab off) s
      = s.veJoins stop .m { effs := [.row (s.row vr) (BitVec.ofNat 2048 w) (BitVec.allOnes 256)] } := by
  subst hea
  dsimp only [exec, execVld]
  exact veWord_joins hs rfl rfl ((runOp_bind_ok (runOp_failIf_ok (decide_eq_false (not_not.2 hal)) _ _)).trans
    ((runOp_bind_ok (runOp_failIf_ok (by rw [hwin]; rfl) _ _)).trans ((runOp_bind_ok (rowIn_ok hin)).trans (runOp_bind_ok (abRead_ok hw)))))

theorem veTraps_row_misaligned (hs : s.veReady) (hstop : stop ≠ 0) (hal : ea % 4 ≠ 0) :
    s.veTraps .misalign (.vst stop vr ab off) ∧ s.veTraps .misalign (.vld stop vr ab off) := by
  subst hea
  have hst : exec (.vst stop vr ab off) s = execVst stop vr ab off s := rfl
  have hld : exec (.vld stop vr ab off) s = execVld stop vr ab off s := rfl
  exact ⟨veTraps_operand hs hstop rfl (by decide) (runOp_failIf_bad (decide_eq_true hal) _ _ _) hst rfl,
    veTraps_operand hs hstop rfl (by decide) (runOp_failIf_bad (decide_eq_true hal) _ _ _) hld rfl⟩

theorem veTraps_row_outside (hs : s.veReady) (hstop : stop ≠ 0) (hal : ea % 4 = 0) (hwin : inWindow s.c 0 ea 256 = false) :
    s.veTraps .bufRange (.vst stop vr ab off) ∧ s.veTraps .bufRange (.vld stop vr ab off) := by
  subst hea
  have hst : exec (.vst stop vr ab off) s = execVst stop vr ab off s := rfl
  have hld : exec (.vld stop vr ab off) s = execVld stop vr ab off s := rfl
  have hal' : decide (rowEa s ab off % 4 ≠ 0) = false := decide_eq_false (not_not.2 hal)
  exact ⟨veTraps_operand hs hstop rfl (by decide)
      ((runOp_bind_ok (runOp_failIf_ok hal' _ _)).trans (runOp_failIf_bad (by rw [hwin]; rfl) _ _ _)) hst rfl,
    veTraps_operand hs hstop rfl (by decide)
      ((runOp_bind_ok (runOp_failIf_ok hal' _ _)).trans (runOp_failIf_bad (by rw [hwin]; rfl) _ _ _)) hld rfl⟩

end

/-- A word of lanes whose offsets trap makes its group trap. -/
theorem veTraps_lanes (hs : s.veReady) (hstop : stop ≠ 0) {c : Cause} (hc : c ≠ .memUe) {idx : Op (List Nat)} {k : List (Nat × Nat) → Op VeOut}
    (h : runOp (laneOffs s ab pg idx) s = (.error (.trap c 0 0 0 0), s)) {i : Instr} {f : State → State} (hi : exec i s = run f s)
    (hf : f s = veWord stop .m anyTy (laneOffs s ab pg idx >>= k) s) : s.veTraps c i :=
  veTraps_operand hs hstop rfl hc (runOp_bind_error h) hi hf

end

/-- Settles O35: rows by their address, lanes by the offsets of the active ones (`laneOffs_ok`). -/
theorem veMemoryWords : Obligations.VeMemoryWords := by
  intro s stop vr ab vb off pg x y w hs hx hy
  have hea := rowEa_eq s ab off
  have hidx := lanesRead_indices hs hy
  have hstp : exec (.vstp stop vr ab pg) s = execVstp stop vr ab pg s := rfl
  have hstx : exec (.vstx stop vr ab vb pg) s = execVstx stop vr ab vb pg s := rfl
  have hldx : exec (.vldx stop vr ab vb pg) s = execVldx stop vr ab vb pg s := rfl
  refine ⟨fun hal hwin => ⟨run_vst hea hs hx hal hwin, run_vld hea hs hx.1 hal hwin⟩, fun hstop => ⟨veTraps_row_misaligned hea hs hstop,
    veTraps_row_outside hea hs hstop, fun hb => ?_, fun hb hw => ?_, fun hb hw => ?_⟩, fun hb hw => hstp.trans ?_,
    fun hb hw => ⟨hstx.trans ?_, fun val => run_vldx hs hy hb hw⟩⟩
  · exact ⟨veTraps_lanes hs hstop (by decide) (laneOffs_misaligned hb) hstp rfl,
      veTraps_lanes hs hstop (by decide) (laneOffs_misaligned hb) hstx rfl,
      veTraps_lanes hs hstop (by decide) (laneOffs_misaligned hb) hldx rfl⟩
  · exact veTraps_lanes hs hstop (by decide) (laneOffs_outside hb (lanes_inOrder s) hw) hstp rfl
  · exact ⟨veTraps_lanes hs hstop (by decide) (laneOffs_outside hb hidx hw) hstx rfl,
      veTraps_lanes hs hstop (by decide) (laneOffs_outside hb hidx hw) hldx rfl⟩
  · exact run_veScatter rfl hs hx hb (lanes_inOrder s) hw
  · exact run_veScatter rfl hs hx hb hidx hw

end Sys2Proof.Machine

/-!
Control words of VE (O34): what each gives its group, and what a group of the one word makes of the machine. Every state on the way is the
one before the word under one change of the context's registers, so that two of them are equal when these changes are.
-/
namespace Sys2Proof.Machine
open Sys2Proof

/-! ### Registers under one change -/

/-- A change of the registers counts by what it makes of those that are there. -/
theorem modRegs_congr {s : State} {k : Nat} {f g : Regs → Regs} (h : f (s.ctx k).r = g (s.ctx k).r) : s.modRegs k f = s.modRegs k g :=
  congrArg (fun r => s.setCtx k { s.ctx k with r := r }) h

/-- A write of a stream after a change that changes nothing. -/
theorem modStream_modRegs_self {s : State} {k : Nat} {f : Regs → Regs} (h : f (s.ctx k).r = (s.ctx k).r) (u : StreamId) (e : Stream → Stream) :
    (s.modRegs k f).modStream k u e = s.modStream k u e :=
  (modRegs_modRegs s k f _).trans (modRegs_congr (congrArg (Regs.modStream u e) h))

/-- What the end of a unit makes of VE's stream. -/
def Stream.goneTo (pc : Nat) (st : Stream) : Stream := { st.noPfx with pc := pc, wait := none }

theorem endUnit_ve (ck pc : Nat) (s : State) :
    endUnit ck .ve pc s = { s.modStream ck .ve (Stream.goneTo pc) with lock := none } := by
  unfold endUnit
  rw [if_neg fun h => nomatch h.1]
  rfl

/-! ### A group of one word (R162) -/

/-- The registers with no group of VE running. -/
def Regs.ungrouped (r : Regs) : Regs := { r with ve := { r.ve with group := {} } }

/-- The registers with `g` running, once its flags, none, have joined FLAGS. -/
def Regs.running (g : VeGroup) (r : Regs) : Regs := { r with flags := r.flags ||| 0, ve := { r.ve with group := g } }

theorem flags_or_zero (f : Flags) : f ||| 0 = f := BitVec.or_zero

/-- A group with no flags has not raised INV. -/
theorem inv_of_no_flags (b : Bool) : (b && (0 : Flags).getLsbD 0) = false := Bool.and_false b

theorem ungrouped_of_none {r : Regs} (h : r.ve.group = {}) : r.ungrouped = r := by
  unfold Regs.ungrouped
  rw [← h]

theorem ungrouped_running {r : Regs} (h : r.ve.group = {}) (g : VeGroup) : (r.running g).ungrouped = r := by
  refine Eq.trans ?_ (ungrouped_of_none h)
  unfold Regs.running Regs.ungrouped
  rw [flags_or_zero]

/-- The end of a group that has changed the registers. -/
theorem veEndAt_modRegs {s : State} {ck : Nat} {f g : Regs → Regs} (h : (f (s.ctx ck).r).ungrouped = g (s.ctx ck).r) (pc : Nat) :
    veEndAt ck pc (s.modRegs ck f) = endUnit ck .ve pc (s.modRegs ck g) := by
  have hr : (s.modRegs ck f).modRegs ck Regs.ungrouped = s.modRegs ck g := (modRegs_modRegs _ _ _ _).trans (modRegs_congr h)
  exact congrArg (endUnit ck .ve pc) hr

/-- The end of a group that has changed nothing. -/
theorem veEndAt_self {s : State} {ck : Nat} {f : Regs → Regs} (h : (f (s.ctx ck).r).ungrouped = (s.ctx ck).r) (pc : Nat) :
    veEndAt ck pc (s.modRegs ck f) = endUnit ck .ve pc s := by
  have hr : veEndAt ck pc (s.modRegs ck f) = endUnit ck .ve pc (s.modRegs ck fun r => (f r).ungrouped) :=
    congrArg (endUnit ck .ve pc) (modRegs_modRegs _ _ _ _)
  rw [hr, endUnit_ve, endUnit_ve, modStream_modRegs_self h]

/-- The group of one word in slot S. -/
def State.soleGroup (s : State) (o : VeOut) : VeGroup :=
  { count := 1, effs := o.effs.map fun e => (2, e), ctl := o.ctl, inve := s.c.r.invTrap .ve }

section
variable {s : State} {stop : Nat}

/-- A control word that ends its group and is its first word. -/
theorem veJoins_sole (hstop : stop ≠ 0) (hg : s.c.r.ve.group = {}) {o : VeOut} (hf : o.flags = 0) :
    s.veJoins stop .s o = .next (settle s (veCommit s.ck (s.withGroup s.ck (s.soleGroup o)))) := by
  have hgroup : s.c.r.veGroup = { inve := s.c.r.invTrap .ve } := by
    unfold Regs.veGroup
    rw [hg]
    rfl
  have hctl : (if o.ctl = .none then VeCtl.none else o.ctl) = o.ctl := by
    split
    · next h => exact h.symm
    · rfl
  unfold State.veJoins
  dsimp only
  rw [hgroup, if_neg hstop, hf]
  dsimp only
  rw [hctl]
  rfl

theorem veBlocked_sole (hg : s.c.r.ve.group = {}) (o : VeOut) (c : VeCtl) :
    veBlocked s.ck (s.withGroup s.ck (s.soleGroup o)) c = veBlocked s.ck s c :=
  veBlocked_withGroup (g := s.soleGroup o) (congrArg VeGroup.held hg).symm c

/-- A group of a control word that is met, and writes no register, does that word's part. -/
theorem veCommit_control (hg : s.c.r.ve.group = {}) {c : VeCtl} (hw : veBlocked s.ck s c = none) (hc : ∀ k v, c ≠ .crWr k v) :
    veCommit s.ck (s.withGroup s.ck (s.soleGroup { ctl := c }))
      = veControl s.ck c (s.c.stream .ve).next s.veTy.lanes false (s.modRegs s.ck (Regs.running (s.soleGroup { ctl := c }))) := by
  have hb := (veBlocked_sole hg { ctl := c } c).trans hw
  have hrun : addFlags s.ck 0 (s.withGroup s.ck (s.soleGroup { ctl := c })) = s.modRegs s.ck (Regs.running (s.soleGroup { ctl := c })) :=
    modRegs_modRegs _ _ _ _
  unfold veCommit
  rw [← hrun, ctx_withGroup]
  dsimp only [State.soleGroup] at hb ⊢
  rw [hb]
  cases c with
  | crWr k v => exact absurd rfl (hc k v)
  | _ => simp only [inv_of_no_flags]; rfl

theorem sole_control (hstop : stop ≠ 0) (hg : s.c.r.ve.group = {}) {c : VeCtl} {t : State} (hw : veBlocked s.ck s c = none)
    (hc : ∀ k v, c ≠ .crWr k v) (h : veControl s.ck c (s.c.stream .ve).next s.veTy.lanes false
      (s.modRegs s.ck (Regs.running (s.soleGroup { ctl := c }))) = t) : s.veJoins stop .s { ctl := c } = .next (settle s t) := by
  rw [veJoins_sole hstop hg rfl, veCommit_control hg hw hc, h]

theorem sole_none (hstop : stop ≠ 0) (hg : s.c.r.ve.group = {}) : s.veJoins stop .s {} = s.onward .ve s :=
  sole_control hstop hg (c := .none) rfl nofun (veEndAt_self (ungrouped_running hg _) _)

theorem sole_branch (hstop : stop ≠ 0) (hg : s.c.r.ve.group = {}) (target : Nat) :
    s.veJoins stop .s { ctl := .branch target } = s.goesTo .ve target s :=
  sole_control hstop hg rfl nofun (veEndAt_self (ungrouped_running hg _) _)

theorem sole_trap (hstop : stop ≠ 0) (hg : s.c.r.ve.group = {}) (code : Nat) : s.veJoins stop .s { ctl := .trap code }
    = s.traps .ve .swTrap code 0 (endUnit s.ck .ve (s.c.stream .ve).next s) :=
  sole_control hstop hg rfl nofun (congrArg (trapAfter s.ck .ve .swTrap code) (veEndAt_self (ungrouped_running hg _) _))

theorem sole_yield (hstop : stop ≠ 0) (hg : s.c.r.ve.group = {}) : s.veJoins stop .s { ctl := .yield }
    = s.onward .ve (s.modStream s.ck .ve fun st => { st with yielded := true }) := by
  refine sole_control hstop hg rfl nofun ((congrArg (State.modStream s.ck .ve fun st => { st with yielded := true })
    (veEndAt_self (ungrouped_running hg _) _)).trans ?_)
  have hboth : (s.modStream s.ck .ve (Stream.goneTo (s.c.stream .ve).next)).modStream s.ck .ve (fun st => { st with yielded := true })
      = (s.modStream s.ck .ve fun st => { st with yielded := true }).modStream s.ck .ve (Stream.goneTo (s.c.stream .ve).next) := by
    refine (modRegs_modRegs _ _ _ _).trans (Eq.trans (modRegs_congr ?_) (modRegs_modRegs _ _ _ _).symm)
    rw [regs_modStream_modStream, regs_modStream_modStream]
    rfl
  rw [endUnit_ve, endUnit_ve, ← hboth]
  rfl

theorem sole_finish (hstop : stop ≠ 0) (hg : s.c.r.ve.group = {}) : s.veJoins stop .s { ctl := .finish }
    = .next (settle s (retire s.ck .ve (endUnit s.ck .ve (s.c.stream .ve).next s))) :=
  sole_control hstop hg rfl nofun (congrArg (retire s.ck .ve) (veEndAt_self (ungrouped_running hg _) _))

/-! ### Semaphores and waits (R196) -/

/-- The registers with another count of semaphore `n`. -/
def Regs.withSem (n : Nat) (v : BitVec 16) (r : Regs) : Regs := { r with sem := vset r.sem n v }

theorem sem_running (s : State) (g : VeGroup) : ((s.modRegs s.ck (Regs.running g)).ctx s.ck).r.sem = s.c.r.sem := by
  rw [ctx_modRegs]
  rfl

theorem sole_semSig (hstop : stop ≠ 0) (hg : s.c.r.ve.group = {}) {n : Nat} (h : vget 0 s.c.r.sem n ≠ 0xFFFF#16) :
    s.veJoins stop .s { ctl := .semSig n } = s.onward .ve (s.modRegs s.ck (Regs.withSem n (vget 0 s.c.r.sem n + 1))) := by
  refine sole_control hstop hg rfl nofun ?_
  unfold veControl
  dsimp only
  rw [semSignal_counts (by rw [sem_running]; exact h), sem_running]
  refine (congrArg (veEndAt s.ck _) (modRegs_modRegs _ _ _ _)).trans (veEndAt_modRegs ?_ _)
  exact congrArg (Regs.withSem n (vget 0 s.c.r.sem n + 1)) (ungrouped_running hg _)

theorem sole_semSig_lost (hstop : stop ≠ 0) (hg : s.c.r.ve.group = {}) {n : Nat} (h : vget 0 s.c.r.sem n = 0xFFFF#16) :
    s.veJoins stop .s { ctl := .semSig n } = s.traps .ve .semOverflow 0 0 (endUnit s.ck .ve (s.c.stream .ve).next s) := by
  refine sole_control hstop hg rfl nofun ?_
  unfold veControl
  dsimp only
  rw [semSignal_lost (by rw [sem_running]; exact h)]
  exact congrArg (trapAfter s.ck .ve .semOverflow 0) (veEndAt_self (ungrouped_running hg _) _)

theorem sole_semWait (hstop : stop ≠ 0) (hg : s.c.r.ve.group = {}) {n : Nat} (h : s.semFree s.ck .ve n = true) :
    s.veJoins stop .s { ctl := .semWait n } = s.onward .ve (s.modRegs s.ck (Regs.withSem n (vget 0 s.c.r.sem n - 1))) := by
  refine sole_control hstop hg (if_pos (.inr h)) nofun ?_
  have hheld : ((s.modRegs s.ck (Regs.running (s.soleGroup { ctl := .semWait n }))).ctx s.ck).r.ve.group.held ≠ some n := by
    rw [ctx_modRegs]
    exact nofun
  unfold veControl
  dsimp only
  rw [if_neg hheld]
  refine (congrArg (veEndAt s.ck _) (modRegs_modRegs _ _ _ _)).trans (veEndAt_modRegs ?_ _)
  exact congrArg (Regs.withSem n (vget 0 s.c.r.sem n - 1)) (ungrouped_running hg _)

/-- A group of one word that waits has done nothing. -/
theorem sole_waits (hs : s.calm) (hstop : stop ≠ 0) (hg : s.c.r.ve.group = {}) {c : VeCtl} {w : Wait} (h : veBlocked s.ck s c = some w) :
    s.veJoins stop .s { ctl := c } = s.waits .ve w := by
  have hcommit : veCommit s.ck (s.withGroup s.ck (s.soleGroup { ctl := c })) = blockOn s.ck .ve w s := by
    have hb := (veBlocked_sole hg { ctl := c } c).trans h
    have hself : (s.withGroup s.ck (s.soleGroup { ctl := c })).modRegs s.ck Regs.ungrouped
        = s.modRegs s.ck Regs.ungrouped := modRegs_modRegs _ _ _ _
    have hblock : blockOn s.ck .ve w (s.modRegs s.ck Regs.ungrouped) = blockOn s.ck .ve w s :=
      congrArg (fun t : State => { t with lock := none }) (modStream_modRegs_self (ungrouped_of_none hg) .ve _)
    unfold veCommit
    rw [ctx_withGroup]
    dsimp only [State.soleGroup] at hb ⊢
    rw [hb]
    exact (congrArg (blockOn s.ck .ve w) hself).trans hblock
  rw [veJoins_sole hstop hg rfl, hcommit, settle_calm (t := blockOn s.ck .ve w s) hs rfl rfl rfl rfl]
  rfl

theorem sole_semWait_waits (hs : s.calm) (hstop : stop ≠ 0) (hg : s.c.r.ve.group = {}) {n : Nat} (h : s.semFree s.ck .ve n = false) :
    s.veJoins stop .s { ctl := .semWait n } = s.waits .ve (.sem n) := by
  have hheld : s.c.r.ve.group.held ≠ some n := by
    rw [hg]
    exact nofun
  refine sole_waits hs hstop hg (if_neg fun hw => ?_)
  rcases hw with hw | hw
  · exact hheld hw
  · rw [h] at hw
    cases hw

/-! ### Registers that a group writes (R192) -/

/-- A group of one word that writes an a-register. -/
theorem sole_areg (hstop : stop ≠ 0) (hg : s.c.r.ve.group = {}) (k : Nat) (v : BitVec 32) : s.veJoins stop .s { effs := [.areg k v] }
    = s.onward .ve (s.modRegs s.ck fun r => { r with ve := { r.ve with a := vset r.ve.a k v } }) := by
  have hcommit : veCommit s.ck (s.withGroup s.ck (s.soleGroup { effs := [.areg k v] })) = endUnit s.ck .ve (s.c.stream .ve).next
      (s.modRegs s.ck fun r => { r with ve := { r.ve with a := vset r.ve.a k v } }) := by
    have hwrite : addFlags s.ck 0 (applyEff s.ck s.c.r.ve.vwin.toNat (s.withGroup s.ck (s.soleGroup { effs := [.areg k v] })) (.areg k v))
        = s.modRegs s.ck fun r => { r with
            flags := r.flags ||| 0, ve := { r.ve with group := s.soleGroup { effs := [.areg k v] }, a := vset r.ve.a k v } } :=
      (congrArg (addFlags s.ck 0) (modRegs_modRegs _ _ _ _)).trans (modRegs_modRegs _ _ _ _)
    unfold veCommit
    rw [ctx_withGroup]
    dsimp only [State.soleGroup, veBlocked]
    simp only [inv_of_no_flags]
    refine (congrArg (veEndAt s.ck _) hwrite).trans (veEndAt_modRegs ?_ _)
    unfold Regs.ungrouped
    dsimp only
    rw [flags_or_zero, ← hg]
    rfl
  rw [veJoins_sole hstop hg rfl, hcommit]
  rfl

/-- What a write of a control register of every stream makes of the registers (R151). -/
def crRegs (u : StreamId) (csel v : Nat) (r : Regs) : Regs :=
  match csel with
  | 1 => r.modStream u fun st => { st with cls := BitVec.ofNat 4 v }
  | 2 => r.modStream u fun st => { st with rmode := BitVec.ofNat 5 v }
  | 3 => r.modStream u fun st => { st with flush := BitVec.ofNat 6 v }
  | 4 => r.modStream u fun st => { st with nbl := BitVec.ofNat 2 v }
  | 5 => { r with flags := BitVec.ofNat 6 v, inve := BitVec.ofNat 5 (v / 2 ^ 11) }
  | _ => { r with budget := BitVec.ofNat 11 v }

theorem crWrite_eq (ck : Nat) (u : StreamId) (csel v : Nat) (s : State) : crWrite ck u csel v s = s.modRegs ck (crRegs u csel v) := by
  match csel with
  | 0 | 1 | 2 | 3 | 4 | 5 | _ + 6 => rfl

/-- What a write of a control register of VE makes of the registers (R192). -/
def veCrRegs (csel : Nat) (v : BitVec 32) (r : Regs) : Regs :=
  match csel with
  | 0x10 => { r with ve := { r.ve with vshape := v.setWidth 4 } }
  | 0x11 => { r with ve := { r.ve with vwin := v.setWidth 5 } }
  | 0x12 => { r with ve := { r.ve with rrb := v.setWidth 7 } }
  | n => crRegs .ve n v.toNat r

theorem veCrWrite_eq (ck csel : Nat) (v : BitVec 32) (s : State) : veCrWrite ck csel v s = s.modRegs ck (veCrRegs csel v) := by
  unfold veCrWrite
  split
  · rfl
  · rfl
  · rfl
  · next h0 h1 h2 =>
    rw [crWrite_eq]
    refine congrArg (fun f => s.modRegs ck f) (funext fun r => ?_)
    unfold veCrRegs
    split
    · exact absurd rfl h0
    · exact absurd rfl h1
    · exact absurd rfl h2
    · rfl

/-- No control register names the group. -/
theorem veCrRegs_running {r : Regs} (h : r.ve.group = {}) (csel : Nat) (v : BitVec 32) (g : VeGroup) :
    ({ veCrRegs csel v { r with ve := { r.ve with group := g } } with
      flags := (veCrRegs csel v { r with ve := { r.ve with group := g } }).flags ||| 0 } : Regs).ungrouped = veCrRegs csel v r := by
  rw [flags_or_zero]
  refine Eq.trans ?_ (congrArg (veCrRegs csel v) (ungrouped_of_none h))
  unfold veCrRegs crRegs
  split
  · rfl
  · rfl
  · rfl
  · split <;> rfl

/-- A group of one word that writes a control register. -/
theorem sole_crWr (hstop : stop ≠ 0) (hg : s.c.r.ve.group = {}) (csel : Nat) (v : BitVec 32) :
    s.veJoins stop .s { ctl := .crWr csel v } = s.onward .ve (veCrWrite s.ck csel v s) := by
  have hcommit : veCommit s.ck (s.withGroup s.ck (s.soleGroup { ctl := .crWr csel v }))
      = endUnit s.ck .ve (s.c.stream .ve).next (veCrWrite s.ck csel v s) := by
    have hwrite : addFlags s.ck 0 (veCrWrite s.ck csel v (s.withGroup s.ck (s.soleGroup { ctl := .crWr csel v })))
        = s.modRegs s.ck fun r =>
            { veCrRegs csel v { r with ve := { r.ve with group := s.soleGroup { ctl := .crWr csel v } } } with
              flags := (veCrRegs csel v { r with ve := { r.ve with group := s.soleGroup { ctl := .crWr csel v } } }).flags ||| 0 } := by
      rw [veCrWrite_eq]
      exact (congrArg (addFlags s.ck 0) (modRegs_modRegs _ _ _ _)).trans (modRegs_modRegs _ _ _ _)
    rw [veCrWrite_eq s.ck csel v s]
    unfold veCommit
    rw [ctx_withGroup]
    dsimp only [State.soleGroup, veBlocked]
    simp only [inv_of_no_flags]
    exact (congrArg (veEndAt s.ck _) hwrite).trans (veEndAt_modRegs (veCrRegs_running hg csel v _) _)
  rw [veJoins_sole hstop hg rfl, hcommit]
  rfl

end

/-! ### The loop close (R193) -/

/-- The registers after a rotation that leaves BASE at `base` and the mask `m` in p8 under it. -/
def Regs.rotated (base : Nat) (m : BitVec 256) (r : Regs) : Regs :=
  { r with ve := { r.ve with rrb := BitVec.ofNat 7 base, p := vset r.ve.p (predPhys base 8) m } }

/-- The iteration that an `lbr` of VE closes. -/
def State.lbrCount (s : State) (lev : Nat) : Nat := (vget 0 (s.c.stream .ve).iter lev).toNat + 1

/-- BASE after it. -/
def State.lbrBase (s : State) : Nat := (s.c.r.ve.rrb.toNat + 95) % 96

/-- The mask that it gives p8: all lanes where another iteration runs. -/
def State.lbrMask (s : State) (lev : Nat) : BitVec 256 :=
  if s.lbrCount lev < (vget 0 s.c.r.lc lev).toNat then BitVec.ofNat 256 (2 ^ s.veTy.lanes - 1) else 0

/-- Whether it is taken. -/
abbrev State.lbrTaken (s : State) (lev : Nat) : Prop := s.lbrCount lev < (vget 0 s.c.r.lc lev).toNat + s.c.r.epi lev 1

/-- The registers after it, with `f` made of VE's stream. -/
def State.lbrRegs (s : State) (lev : Nat) (f : Stream → Stream) (r : Regs) : Regs :=
  (r.rotated s.lbrBase (s.lbrMask lev)).modStream .ve f

/-- A stream whose next iteration of level `lev` is `n`, from the loop head `target`. -/
def Stream.loops (lev n target : Nat) (st : Stream) : Stream :=
  { st with iter := vset st.iter lev (BitVec.ofNat 32 n), head := vset st.head lev target }

/-- A stream that has ended the iterations of level `lev`. -/
def Stream.endsLoop (lev : Nat) (st : Stream) : Stream := { st with iter := vset st.iter lev 0 }

theorem ungrouped_lbrRegs {s : State} {r : Regs} (h : r.ve.group = {}) (g : VeGroup) (lev : Nat) (f : Stream → Stream) :
    (s.lbrRegs lev f (r.running g)).ungrouped = s.lbrRegs lev f r :=
  congrArg (s.lbrRegs lev f) (ungrouped_running h g)

section
variable {s : State} {stop lev : Nat}

/-- The rotation of a group that is the `lbr` alone. -/
theorem veRotate_running (s : State) (g : VeGroup) (lev : Nat) : veRotate s.ck lev s.veTy.lanes (s.modRegs s.ck (Regs.running g))
    = s.modRegs s.ck fun r => (r.running g).rotated s.lbrBase (s.lbrMask lev) :=
  (modRegs_modRegs _ _ _ _).trans (modRegs_congr rfl)

theorem ctx_rotated (s : State) (g : VeGroup) (lev : Nat) :
    (s.modRegs s.ck fun r => (r.running g).rotated s.lbrBase (s.lbrMask lev)).ctx s.ck
      = { s.c with r := (s.c.r.running g).rotated s.lbrBase (s.lbrMask lev) } := ctx_modRegs _ _ _

theorem loopClose_running (g : VeGroup) (target : Nat) (h : s.lbrTaken lev) :
    loopClose s.ck .ve lev target (s.modRegs s.ck fun r => (r.running g).rotated s.lbrBase (s.lbrMask lev))
      = (true, s.modRegs s.ck fun r => s.lbrRegs lev (Stream.loops lev (s.lbrCount lev) target) (r.running g)) := by
  unfold loopClose
  rw [ctx_rotated]
  refine (if_pos h).trans (congrArg (Prod.mk true) ?_)
  exact modRegs_modRegs _ _ _ _

theorem loopClose_running_left (g : VeGroup) (target : Nat) (h : ¬ s.lbrTaken lev) :
    loopClose s.ck .ve lev target (s.modRegs s.ck fun r => (r.running g).rotated s.lbrBase (s.lbrMask lev))
      = (false, s.modRegs s.ck fun r => s.lbrRegs lev (Stream.endsLoop lev) (r.running g)) := by
  unfold loopClose
  rw [ctx_rotated]
  refine (if_neg h).trans (congrArg (Prod.mk false) ?_)
  exact modRegs_modRegs _ _ _ _

/-- A taken `lbr` goes to the loop head. -/
theorem sole_lbr_taken (hstop : stop ≠ 0) (hg : s.c.r.ve.group = {}) (target : Nat) (h : s.lbrTaken lev) :
    s.veJoins stop .s { ctl := .lbr lev target }
      = s.goesTo .ve target (s.modRegs s.ck (s.lbrRegs lev (Stream.loops lev (s.lbrCount lev) target))) := by
  refine sole_control hstop hg rfl nofun ?_
  unfold veControl
  dsimp only
  rw [veRotate_running, loopClose_running _ _ h]
  exact veEndAt_modRegs (ungrouped_lbrRegs hg _ lev _) target

/-- One that is not taken leaves the level. -/
theorem sole_lbr_left (hstop : stop ≠ 0) (hg : s.c.r.ve.group = {}) (target : Nat) (h : ¬ s.lbrTaken lev) :
    s.veJoins stop .s { ctl := .lbr lev target } = .next (settle s (leaveLevel s.ck .ve lev
      (endUnit s.ck .ve (s.c.stream .ve).next (s.modRegs s.ck (s.lbrRegs lev (Stream.endsLoop lev)))))) := by
  refine sole_control hstop hg rfl nofun ?_
  unfold veControl
  dsimp only
  rw [veRotate_running, loopClose_running_left _ _ h]
  exact congrArg (leaveLevel s.ck .ve lev) (veEndAt_modRegs (ungrouped_lbrRegs hg _ lev _) _)

theorem ctx_endUnit_ve (ck pc : Nat) (s : State) :
    (endUnit ck .ve pc s).ctx ck = { s.ctx ck with r := (s.ctx ck).r.modStream .ve (Stream.goneTo pc) } := by
  rw [endUnit_ve]
  exact ctx_modStream _ _ _ _

theorem leaveLevel_ctx_other {ck k : Nat} (h : k ≠ ck) (u : StreamId) (lev : Nat) (s : State) : (leaveLevel ck u lev s).ctx k = s.ctx k := by
  unfold leaveLevel
  dsimp only
  repeat' split
  all_goals simp only [ctx_modStream_other _ h, ctx_modRegs_other _ h]

/-- What a loop close makes of VE. -/
theorem lbrRegs_leaves {c : Ctx} {f : Stream → Stream} (h : c = { s.c with r := s.lbrRegs lev f s.c.r }) :
    c.stream .ve = f (s.c.stream .ve) ∧ c.r.ve.rrb = BitVec.ofNat 7 s.lbrBase
      ∧ c.r.ve.p = vset s.c.r.ve.p (predPhys s.lbrBase 8) (s.lbrMask lev)
      ∧ { c.r.ve with rrb := s.c.r.ve.rrb, p := s.c.r.ve.p } = s.c.r.ve ∧ c.r.flags = s.c.r.flags := by
  subst h
  exact ⟨regs_stream_modStream { s.c with r := s.c.r.rotated s.lbrBase (s.lbrMask lev) } .ve f, rfl, rfl, rfl, rfl⟩

theorem lbrRegs_modStream (s : State) (lev : Nat) (f g : Stream → Stream) (r : Regs) :
    (s.lbrRegs lev f r).modStream .ve g = s.lbrRegs lev (g ∘ f) r := regs_modStream_modStream _ _ _ _

/-- The end of a taken `lbr`. -/
theorem ctx_lbr_taken (s : State) (lev target : Nat) :
    (endUnit s.ck .ve target (s.modRegs s.ck (s.lbrRegs lev (Stream.loops lev (s.lbrCount lev) target)))).ctx s.ck
      = { s.c with r := s.lbrRegs lev (Stream.goneTo target ∘ Stream.loops lev (s.lbrCount lev) target) s.c.r } := by
  rw [ctx_endUnit_ve, ctx_modRegs, lbrRegs_modStream]
  rfl

/-- The end of one that is not taken. -/
theorem ctx_lbr_left (hcut : s.c.cutAt .ve lev = true → s.c.st ≠ .run) : (leaveLevel s.ck .ve lev
      (endUnit s.ck .ve (s.c.stream .ve).next (s.modRegs s.ck (s.lbrRegs lev (Stream.endsLoop lev))))).ctx s.ck
    = { s.c with r := s.lbrRegs lev (fun st => { (Stream.goneTo (s.c.stream .ve).next (st.endsLoop lev)).outside lev with
        drained := st.drained || s.c.cutAt .ve lev }) s.c.r } := by
  have hc := ctx_endUnit_ve s.ck (s.c.stream .ve).next (s.modRegs s.ck (s.lbrRegs lev (Stream.endsLoop lev)))
  rw [ctx_modRegs, lbrRegs_modStream] at hc
  rw [leaveLevel_ctx (by rw [hc]; exact hcut), hc]
  dsimp only
  rw [lbrRegs_modStream]
  rfl

end

/-! ### What each control word gives its group (R192 to R197) -/

section
variable {s : State} {stop ar csel : Nat}

theorem veCrRead_of_lt (s : State) (h : csel < 0x10) : veCrRead s csel = crRead s .ve csel := by
  unfold veCrRead
  split
  · exact absurd h (by decide)
  · exact absurd h (by decide)
  · exact absurd h (by decide)
  · rfl

/-- A register of VE has no high half. -/
theorem high_half {n : Nat} (hn : n ≤ 32) (v : BitVec n) : (v.setWidth 64 >>> 32).setWidth 32 = (0 : BitVec 32) := by
  have hv : v.toNat < 2 ^ 32 := Nat.lt_of_lt_of_le v.isLt (Nat.pow_le_pow_right (by decide) hn)
  apply BitVec.eq_of_toNat_eq
  rw [BitVec.toNat_setWidth, BitVec.toNat_ushiftRight, BitVec.toNat_setWidth, Nat.shiftRight_eq_div_pow,
    Nat.mod_eq_of_lt (Nat.lt_trans hv (by decide)), Nat.div_eq_of_lt hv]
  rfl

theorem run_veCrRd (hs : s.veReady) {w : BitVec 64} (h : veCrRead s csel = w) :
    exec (.veCrRd stop ar csel) s = s.veJoins stop .s { effs := [.areg ar (w.setWidth 32)] } := by
  subst h
  dsimp only [exec, execVeCrRd]
  exact veWord_pure hs _ rfl

theorem run_veCrRdHi (hs : s.veReady) {w : BitVec 32} (h : (veCrRead s csel >>> 32).setWidth 32 = w) :
    exec (.veCrRdHi stop ar csel) s = s.veJoins stop .s { effs := [.areg ar w] } := by
  subst h
  dsimp only [exec, execVeCrRdHi]
  exact veWord_pure hs _ rfl

theorem veCrBad_of_lt (h : csel < 0x10) (v : Nat) : veCrBad csel v = crBad csel v := by
  unfold veCrBad
  split
  · exact absurd h (by decide)
  · exact absurd h (by decide)
  · exact absurd h (by decide)
  · rfl

theorem run_veCrWr (hs : s.veReady) (hbad : veCrBad csel (s.aReg ar).toNat = false)
    (hwin : csel = 0x11 → (s.aReg ar).toNat < ctCount s.c.ctxbuf) :
    exec (.veCrWr stop ar csel) s = s.veJoins stop .s { ctl := .crWr csel (s.aReg ar) } := by
  have hrange : (decide (csel = 0x11) && decide (ctCount s.c.ctxbuf ≤ (s.aReg ar).toNat)) = false := by
    simpa using hwin
  dsimp only [exec, execVeCrWr]
  exact veWord_joins hs rfl rfl ((runOp_bind_ok (runOp_failIf_ok hbad _ _)).trans (runOp_bind_ok (runOp_failIf_ok hrange _ _)))

theorem veTraps_crValue (hs : s.veReady) (hstop : stop ≠ 0) (hbad : veCrBad csel (s.aReg ar).toNat = true) :
    s.veTraps .crValue (.veCrWr stop ar csel) := by
  have hi : exec (.veCrWr stop ar csel) s = execVeCrWr stop ar csel s := rfl
  exact veTraps_operand hs hstop rfl (by decide) (runOp_failIf_bad hbad _ _ _) hi rfl

/-- VWIN beyond the context's CB window. -/
theorem veTraps_vwin (hs : s.veReady) (hstop : stop ≠ 0) (hv : (s.aReg ar).toNat < 32) (hwin : ctCount s.c.ctxbuf ≤ (s.aReg ar).toNat) :
    s.veTraps .bufRange (.veCrWr stop ar 0x11) := by
  have hi : exec (.veCrWr stop ar 0x11) s = execVeCrWr stop ar 0x11 s := rfl
  have hgood : veCrBad 0x11 (s.aReg ar).toNat = false := decide_eq_false (Nat.not_le.2 hv)
  exact veTraps_operand hs hstop rfl (by decide)
    ((runOp_bind_ok (runOp_failIf_ok hgood _ _)).trans (runOp_failIf_bad (decide_eq_true hwin) _ _ _)) hi rfl

theorem run_veLbr (hs : s.veReady) {lev : Nat} (off : Nat) (h : lev < s.c.r.levels.length) :
    exec (.veLbr stop lev off) s = s.veJoins stop .s { ctl := .lbr lev (wordTarget (s.c.stream .ve).at 16 off) } := by
  dsimp only [exec, execVeLbr]
  exact run_levelWord hs rfl h

theorem veTraps_lbr (hs : s.veReady) (hstop : stop ≠ 0) {lev : Nat} (off : Nat) (h : s.c.r.levels.length ≤ lev) :
    s.veTraps .loopLev (.veLbr stop lev off) := by
  have hi : exec (.veLbr stop lev off) s = execVeLbr stop lev off s := rfl
  exact veTraps_level hs hstop hi rfl h

theorem run_veBranch (hs : s.veReady) (off : Nat) (take : BitVec 32 → Bool) : run (veBranch stop ar off take) s = s.veJoins stop .s
    (if take (s.aReg ar) then { ctl := .branch (wordTarget (s.c.stream .ve).at 16 off) } else {}) := veWord_pure hs _ rfl

theorem run_bz (hs : s.veReady) (off : Nat) : exec (.bz stop ar off) s = s.veJoins stop .s
    (if s.aReg ar = 0 then { ctl := .branch (wordTarget (s.c.stream .ve).at 16 off) } else {}) := by
  dsimp only [exec, execBz]
  rw [run_veBranch hs]
  simp only [decide_eq_true_eq]

theorem run_bnz (hs : s.veReady) (off : Nat) : exec (.bnz stop ar off) s = s.veJoins stop .s
    (if s.aReg ar = 0 then {} else { ctl := .branch (wordTarget (s.c.stream .ve).at 16 off) }) := by
  dsimp only [exec, execBnz]
  rw [run_veBranch hs]
  simp only [decide_eq_true_eq, ite_not]

theorem run_veTlWait (hs : s.veReady) (tl : Nat) :
    exec (.veTlWait stop tl ar) s = s.veJoins stop .s { ctl := .tlWait tl (s.aReg ar).toNat } := by
  dsimp only [exec, execVeTlWait]
  exact veWord_pure hs _ rfl

theorem run_veCtl {i : Instr} {c : VeCtl} (hs : s.veReady) (h : exec i s = run (veWord stop .s anyTy (pure { ctl := c })) s) :
    exec i s = s.veJoins stop .s { ctl := c } := h.trans (veWord_pure hs _ rfl)

/-- The registers that only VE has, as `cr.rd` and `cr.rdhi` of VE read them. -/
theorem run_veCrRd_own (hs : s.veReady) {k : Nat} {w : BitVec 64} (h : (k, w) ∈ ([(0x10, s.c.r.ve.vshape.setWidth 64),
      (0x11, s.c.r.ve.vwin.setWidth 64), (0x12, s.c.r.ve.rrb.setWidth 64)] : List (Nat × BitVec 64))) :
    exec (.veCrRd stop ar k) s = s.veJoins stop .s { effs := [.areg ar (w.setWidth 32)] }
    ∧ exec (.veCrRdHi stop ar k) s = s.veJoins stop .s { effs := [.areg ar 0] } := by
  simp only [List.mem_cons, List.not_mem_nil, or_false, Prod.mk.injEq] at h
  obtain ⟨rfl, rfl⟩ | ⟨rfl, rfl⟩ | ⟨rfl, rfl⟩ := h
  · exact ⟨run_veCrRd hs rfl, run_veCrRdHi hs (high_half (by decide) _)⟩
  · exact ⟨run_veCrRd hs rfl, run_veCrRdHi hs (high_half (by decide) _)⟩
  · exact ⟨run_veCrRd hs rfl, run_veCrRdHi hs (high_half (by decide) _)⟩

/-- The registers that every stream has. -/
theorem run_veCrRd_shared (hs : s.veReady) (h : csel < 0x10) :
    exec (.veCrRd stop ar csel) s = s.veJoins stop .s { effs := [.areg ar ((crRead s .ve csel).setWidth 32)] }
    ∧ exec (.veCrRdHi stop ar csel) s = s.veJoins stop .s { effs := [.areg ar ((crRead s .ve csel >>> 32).setWidth 32)] } :=
  ⟨run_veCrRd hs (veCrRead_of_lt s h), run_veCrRdHi hs (by rw [veCrRead_of_lt s h])⟩

theorem run_veCrWr_vshape (hs : s.veReady) (h : (s.aReg ar).toNat ≤ 0xA) :
    exec (.veCrWr stop ar 0x10) s = s.veJoins stop .s { ctl := .crWr 0x10 (s.aReg ar) } :=
  run_veCrWr hs (decide_eq_false (Nat.not_lt.2 h)) nofun

theorem run_veCrWr_vwin (hs : s.veReady) (h : (s.aReg ar).toNat < 32) (hwin : (s.aReg ar).toNat < ctCount s.c.ctxbuf) :
    exec (.veCrWr stop ar 0x11) s = s.veJoins stop .s { ctl := .crWr 0x11 (s.aReg ar) } :=
  run_veCrWr hs (decide_eq_false (Nat.not_le.2 h)) fun _ => hwin

theorem run_veCrWr_rrb (hs : s.veReady) (h : (s.aReg ar).toNat ≤ 95) :
    exec (.veCrWr stop ar 0x12) s = s.veJoins stop .s { ctl := .crWr 0x12 (s.aReg ar) } :=
  run_veCrWr hs (decide_eq_false (Nat.not_lt.2 h)) nofun

theorem run_veCrWr_shared (hs : s.veReady) (h : csel < 0x10) (hbad : crBad csel (s.aReg ar).toNat = false) :
    exec (.veCrWr stop ar csel) s = s.veJoins stop .s { ctl := .crWr csel (s.aReg ar) } :=
  run_veCrWr hs ((veCrBad_of_lt h _).trans hbad) fun h' => absurd h (by omega)

end

/-! ### The words as groups of their own -/

section
variable {s : State} {stop : Nat}

/-- An `lbr` as a group of its own: its place in the code, its level, the rotation, and what it leaves. -/
theorem veLbr_leaves (hs : s.calm) (hstop : stop ≠ 0) (hg : s.c.r.ve.group = {}) {lev target : Nat} (hlev : lev < 6)
    (hcut : s.c.cutAt .ve lev = true → s.c.st ≠ .run) :
    ∃ t, s.veJoins stop .s { ctl := .lbr lev target } = .next t
      ∧ (t.c.stream .ve).pc = (if s.lbrTaken lev then target else (s.c.stream .ve).next)
      ∧ vget 1 (t.c.stream .ve).iter lev = (if s.lbrTaken lev then BitVec.ofNat 32 (s.lbrCount lev) else 0)
      ∧ (s.lbrTaken lev → vget 0 (t.c.stream .ve).head lev = target)
      ∧ (¬ s.lbrTaken lev → vget true (t.c.stream .ve).inside lev = false)
      ∧ (t.c.stream .ve).drained = ((s.c.stream .ve).drained || (decide (¬ s.lbrTaken lev) && s.c.cutAt .ve lev))
      ∧ t.c.r.ve.rrb = BitVec.ofNat 7 s.lbrBase ∧ t.c.r.ve.p = vset s.c.r.ve.p (predPhys s.lbrBase 8) (s.lbrMask lev)
      ∧ { t.c.r.ve with rrb := s.c.r.ve.rrb, p := s.c.r.ve.p } = s.c.r.ve
      ∧ t.c.r.flags = s.c.r.flags ∧ t.mem = s.mem ∧ t.buf = s.buf ∧ ∀ k, k ≠ s.ck → t.ctx k = s.ctx k := by
  by_cases h : s.lbrTaken lev
  · have hc := ctx_lbr_taken s lev target
    obtain ⟨hst, hrrb, hp, hve, hfl⟩ := lbrRegs_leaves hc
    have hgo : s.goesTo .ve target (s.modRegs s.ck (s.lbrRegs lev (Stream.loops lev (s.lbrCount lev) target))) = .next _ :=
      congrArg Host.Outcome.next (settle_calm hs rfl rfl rfl rfl)
    refine ⟨_, (sole_lbr_taken hstop hg target h).trans hgo, ?_⟩
    have hend : (endUnit s.ck .ve target (s.modRegs s.ck (s.lbrRegs lev (Stream.loops lev (s.lbrCount lev) target)))).c = _ :=
      c_of_who (s := s) rfl
    rw [if_pos h, if_pos h, hend, hst]
    refine ⟨rfl, vget_vset_same _ _ hlev _, fun _ => vget_vset_same _ _ hlev _, fun hn => absurd h hn, ?_, hrrb, hp, hve, hfl, rfl, rfl,
      fun k hk => (ctx_modStream_other _ hk _ _).trans (ctx_modRegs_other _ hk _)⟩
    simp only [h, not_true, decide_false, Bool.false_and, Bool.or_false]
    rfl
  · have hc := ctx_lbr_left (lev := lev) hcut
    obtain ⟨hst, hrrb, hp, hve, hfl⟩ := lbrRegs_leaves hc
    obtain ⟨hwho, hmem, hbuf, hwb, hbb⟩ := leaveLevel_fields s.ck .ve lev
      (endUnit s.ck .ve (s.c.stream .ve).next (s.modRegs s.ck (s.lbrRegs lev (Stream.endsLoop lev))))
    refine ⟨_, (sole_lbr_left hstop hg target h).trans (congrArg _ (settle_calm hs hmem hbuf hwb hbb)), ?_⟩
    have hend := c_of_who (s := s) hwho
    rw [if_neg h, if_neg h, hend, hst]
    refine ⟨rfl, vget_vset_same _ _ hlev _, fun hy => absurd hy h, fun _ => vget_vset_same _ _ hlev _, ?_, hrrb, hp, hve, hfl, hmem, hbuf,
      fun k hk => (leaveLevel_ctx_other hk _ _ _).trans ((ctx_modStream_other _ hk _ _).trans (ctx_modRegs_other _ hk _))⟩
    simp only [h, not_false_eq_true, decide_true, Bool.true_and]

/-- An `end` as a group of its own. -/
theorem veEnd_leaves (hs : s.calm) (hstop : stop ≠ 0) (hg : s.c.r.ve.group = {}) : ∃ t, s.veJoins stop .s { ctl := .finish } = .next t
    ∧ (t.c.stream .ve).retired = true ∧ (t.c.stream .ve).pc = (s.c.stream .ve).next ∧ { t.c.r with streams := s.c.r.streams } = s.c.r
    ∧ (∀ u, u ≠ .ve → t.c.stream u = s.c.stream u) ∧ t.mem = s.mem ∧ t.buf = s.buf := by
  have hc := ctx_endUnit_ve s.ck (s.c.stream .ve).next s
  obtain ⟨hret, hpc, hother, hregs⟩ := retire_frame (endUnit s.ck .ve (s.c.stream .ve).next s) .ve
  refine ⟨_, (sole_finish hstop hg).trans (congrArg _ (settle_calm hs rfl rfl rfl rfl)), hret, hpc.trans ?_, ?_,
    fun u hu => (hother u hu).trans ?_, rfl, rfl⟩
  · show (((endUnit s.ck .ve (s.c.stream .ve).next s).ctx s.ck).stream .ve).pc = _
    rw [hc, regs_stream_modStream]
    rfl
  · have hrest := congrArg (fun r : Regs => { r with streams := s.c.r.streams }) hregs
    refine hrest.trans ?_
    show { ((endUnit s.ck .ve (s.c.stream .ve).next s).ctx s.ck).r with streams := s.c.r.streams } = s.c.r
    rw [hc]
    rfl
  · show ((endUnit s.ck .ve (s.c.stream .ve).next s).ctx s.ck).stream u = _
    rw [hc]
    exact regs_stream_modStream_other _ hu _

theorem sole_crWr_shared (hstop : stop ≠ 0) (hg : s.c.r.ve.group = {}) {csel : Nat} (h : csel < 0x10) (v : BitVec 32) :
    s.veJoins stop .s { ctl := .crWr csel v } = s.onward .ve (crWrite s.ck .ve csel v.toNat s) := by
  rw [sole_crWr hstop hg]
  unfold veCrWrite
  split
  · exact absurd h (by decide)
  · exact absurd h (by decide)
  · exact absurd h (by decide)
  · rfl

theorem sole_tlWait (hs : s.calm) (hstop : stop ≠ 0) (hg : s.c.r.ve.group = {}) (k v : Nat) :
    (v ≤ (s.timeline s.ck k).done.toNat → s.veJoins stop .s { ctl := .tlWait k v } = s.onward .ve s)
    ∧ ((s.timeline s.ck k).done.toNat < v → s.veJoins stop .s { ctl := .tlWait k v } = s.waits .ve (.tl k v)) :=
  ⟨fun h => sole_control hstop hg (if_neg (Nat.not_lt.2 h)) nofun (veEndAt_self (ungrouped_running hg _) _),
    fun h => sole_waits hs hstop hg (if_pos h)⟩

end

/-- Settles O34: what each word gives its group, and then what a group of that word alone does (the lemmas `sole_`). -/
theorem veControlWords : Obligations.VeControlWords := by
  intro s stop ar csel lev off sem tl code hs
  have hcalm := hs.1
  have hsig : exec (.veSemSig stop sem) s = _ := run_veCtl hs rfl
  have hwait : exec (.veSemWait stop sem) s = _ := run_veCtl hs rfl
  have hend : exec (.veEnd stop) s = _ := run_veCtl hs rfl
  have htrap : exec (.veTrap stop code) s = _ := run_veCtl hs rfl
  have hyield : exec (.veYield stop) s = _ := run_veCtl hs rfl
  refine ⟨fun k w => run_veCrRd_own hs, run_veCrRd_shared hs, run_veCrWr_vshape hs, run_veCrWr_vwin hs, run_veCrWr_rrb hs,
    run_veCrWr_shared hs, run_veLbr hs off, fun h => ⟨(run_bz hs off).trans ?_, (run_bnz hs off).trans ?_⟩,
    fun h => ⟨(run_bnz hs off).trans ?_, (run_bz hs off).trans ?_⟩, hsig, hwait, run_veTlWait hs tl, hend, htrap, hyield,
    fun hstop => ⟨fun h => veTraps_crValue hs hstop (decide_eq_true h), fun h => veTraps_crValue hs hstop (decide_eq_true h),
      veTraps_vwin hs hstop, fun h => veTraps_crValue hs hstop (decide_eq_true h),
      fun h hbad => veTraps_crValue hs hstop ((veCrBad_of_lt h _).trans hbad), veTraps_lbr hs hstop off⟩,
    fun hstop hg => ⟨fun k w hk => ?_, fun h => ?_, fun h => (run_veCrWr_vshape hs h).trans (sole_crWr hstop hg _ _),
      fun h hw => (run_veCrWr_vwin hs h hw).trans (sole_crWr hstop hg _ _), fun h => (run_veCrWr_rrb hs h).trans (sole_crWr hstop hg _ _),
      fun h hbad => (run_veCrWr_shared hs h hbad).trans (sole_crWr_shared hstop hg h _), (run_bz hs off).trans ?_, (run_bnz hs off).trans ?_,
      fun hlev hl hcut => ?_, fun h => hsig.trans (sole_semSig hstop hg h), fun h => hsig.trans (sole_semSig_lost hstop hg h),
      fun h => hwait.trans (sole_semWait hstop hg h), fun h => hwait.trans (sole_semWait_waits hcalm hstop hg h),
      fun h => (run_veTlWait hs tl).trans ((sole_tlWait hcalm hstop hg tl _).1 h),
      fun h => (run_veTlWait hs tl).trans ((sole_tlWait hcalm hstop hg tl _).2 h), ?_, htrap.trans (sole_trap hstop hg code),
      hyield.trans (sole_yield hstop hg)⟩⟩
  · rw [if_pos h]
    rfl
  · rw [if_pos h]
  · rw [if_neg h]
    rfl
  · rw [if_neg h]
  · obtain ⟨hlo, hhi⟩ := run_veCrRd_own (stop := stop) (ar := ar) hs hk
    exact ⟨hlo.trans (sole_areg hstop hg _ _), hhi.trans (sole_areg hstop hg _ _)⟩
  · obtain ⟨hlo, hhi⟩ := run_veCrRd_shared (stop := stop) (ar := ar) hs h
    exact ⟨hlo.trans (sole_areg hstop hg _ _), hhi.trans (sole_areg hstop hg _ _)⟩
  · split
    · exact sole_branch hstop hg _
    · exact sole_none hstop hg
  · split
    · exact sole_none hstop hg
    · exact sole_branch hstop hg _
  · rw [run_veLbr hs off hl]
    exact veLbr_leaves hcalm hstop hg hlev hcut
  · rw [hend]
    exact veEnd_leaves hcalm hstop hg

end Sys2Proof.Machine

/-!
The end of a group (O36): the mark of a `yield` does not outlive the ARITH_INV of its group.
-/
namespace Sys2Proof.Machine
open Sys2Proof

/-- A trap of VE takes back the mark of a stream that has given up its next slot (R403). -/
theorem takeTrap_yielded (ck : Nat) (c : Cause) (code faddr auxf elog : Nat) (restart : Bool) (s : State) :
    (((takeTrap ck .ve c code faddr auxf elog restart s).ctx ck).stream .ve).yielded = false := by
  obtain ⟨hst, -, -⟩ := hardStop_ve ck (noteCause ck .ve c none s)
  unfold takeTrap stopContext
  dsimp only
  rw [ctx_modCtx]
  exact congrArg Stream.yielded hst

/-- A group of one `yield` whose words have raised INV while INVE_VE was set. -/
def invYield : State := State.reset.withGroup 0 { count := 1, flags := fINV, ctl := .yield, inve := true }

/-- Its ARITH_INV comes after its control word (R60), and stops the stream that `yield` has marked. -/
theorem invYield_yielded : (((veCommit 0 invYield).ctx 0).stream .ve).yielded = false := takeTrap_yielded 0 .arithInv 0 0 0 0 true _

/-- Refutes O36: the statement has every group of a `yield` leave its mark, that of `invYield` too, whose ARITH_INV halts the context. -/
theorem not_veGroupCommits : ¬ Obligations.VeGroupCommits := by
  intro h
  obtain ⟨-, -, -, -, hruns⟩ := h invYield 0 rfl
  obtain ⟨-, -, hends⟩ := hruns rfl
  obtain ⟨-, -, -, -, -, -, -, -, -, -, hyield, -, -⟩ := hends rfl rfl nofun
  exact Bool.false_ne_true (invYield_yielded.symm.trans (hyield rfl))

end Sys2Proof.Machine

/-!
Steps of ME that find it quiet (O38, O39): bytes of the buffers, what a step that is made at once leaves, its rows and its set of platens.
-/
namespace Sys2Proof.Machine
open Sys2Proof

/-! ### Bytes of the buffers (R16) -/

section
variable {s : State} {k n : Nat}

/-- With no write pending, a read of a buffer is its bytes. -/
theorem bufRead_eq (hb : s.bbuf = []) (hw : s.buf.wf = true) (k n : Nat) :
    (s.bufRead k n).1 = ofBytes (fun j => (s.buf.read (k + j)).toNat) n := by
  unfold State.bufRead
  rw [hb]
  exact readRange_eq k n s.buf hw

theorem bufRead_lt (hb : s.bbuf = []) (hw : s.buf.wf = true) (k n : Nat) : (s.bufRead k n).1 < 2 ^ (8 * n) := by
  rw [bufRead_eq hb hw]
  exact ofBytes_lt (fun j => (s.buf.read (k + j)).isLt) n

/-- A field of whole bytes of a read is the read of those bytes. -/
theorem bufRead_part (hb : s.bbuf = []) (hw : s.buf.wf = true) {p m : Nat} (h : p + m ≤ n) :
    (s.bufRead k n).1 / 2 ^ (8 * p) % 2 ^ (8 * m) = (s.bufRead (k + p) m).1 := by
  rw [bufRead_eq hb hw, bufRead_eq hb hw, ← ofBytes_byteAt]
  refine Finset.sum_congr rfl fun j hj => ?_
  have := Finset.mem_range.1 hj
  dsimp only
  rw [byteAt_div, byteAt_ofBytes (fun j => (s.buf.read (k + j)).isLt) (by omega), Nat.add_assoc]

/-- A read of bytes that are those of a number. -/
theorem bufRead_of_bytes (hb : s.bbuf = []) (hw : s.buf.wf = true) {v : Nat}
    (h : ∀ j, j < n → s.buf.read (k + j) = BitVec.ofNat 8 (v / 2 ^ (8 * j))) : (s.bufRead k n).1 = v % 2 ^ (8 * n) := by
  rw [bufRead_eq hb hw, ← ofBytes_byteAt]
  refine Finset.sum_congr rfl fun j hj => ?_
  dsimp only
  rw [h j (Finset.mem_range.1 hj)]
  rfl

end

/-! ### The cells that a step writes -/

/-- The cells of `n` bytes of a number. -/
theorem mem_cellsOf_iff {a v : Nat} {c : Host.Cell} : ∀ {n : Nat},
    c ∈ cellsOf a n v ↔ ∃ j, j < n ∧ c = (a + j, BitVec.ofNat 8 (v / 2 ^ (8 * j)))
  | 0 => by simp [cellsOf]
  | n + 1 => by
    rw [cellsOf, List.mem_cons, mem_cellsOf_iff]
    simp only [Nat.lt_succ_iff_lt_or_eq, or_and_right, exists_or, exists_eq_left]
    exact or_comm

theorem read_commit_of_mem {m : Memory} {w : List Host.Cell} {c : Host.Cell} (hm : m.wf = true) (hc : c ∈ w)
    (hone : ∀ d ∈ w, d.1 = c.1 → d.2 = c.2) : (commit m w).read c.1 = c.2 := by
  rw [read_commit m w c.1 hm]
  cases hf : w.find? fun d => decide (d.1 = c.1) with
  | none => exact absurd rfl (of_decide_eq_false (Bool.eq_false_iff.2 (List.find?_eq_none.1 hf c hc)))
  | some d => exact hone d (List.mem_of_find?_eq_some hf) (of_decide_eq_true (List.find?_some (p := fun d : Host.Cell => decide (d.1 = c.1)) hf))

theorem read_commit_of_not_mem {m : Memory} {w : List Host.Cell} {k : Nat} (hm : m.wf = true) (h : ∀ c ∈ w, c.1 ≠ k) :
    (commit m w).read k = m.read k := by
  rw [read_commit m w k hm, List.find?_eq_none.2 fun c hc => by simpa using h c hc]
  rfl

/-- The cells write the 4-byte elements `l` (buffer key, value), each at a place of its own, and nothing else. -/
structure WritesElems (cells : List (Nat × BitVec 8)) (l : List (Nat × Nat)) : Prop where
  mem : ∀ c, c ∈ cells ↔ ∃ p ∈ l, ∃ j, j < 4 ∧ c = (p.1 + j, BitVec.ofNat 8 (p.2 / 2 ^ (8 * j)))
  aligned : ∀ p ∈ l, p.1 % 4 = 0
  one : ∀ p ∈ l, ∀ q ∈ l, p.1 = q.1 → p.2 = q.2

section
variable {cells : List (Nat × BitVec 8)} {l : List (Nat × Nat)} {m : Memory}

theorem mem_cell4 {key v : Nat} {c : Nat × BitVec 8} :
    c ∈ cell4 key v ↔ ∃ j, j < 4 ∧ c = (key + j, BitVec.ofNat 8 (v / 2 ^ (8 * j))) :=
  List.mem_reverse.trans mem_cellsOf_iff

/-- The cells of elements, one after another. -/
theorem mem_flatMap_cell4 {c : Nat × BitVec 8} : (c ∈ l.flatMap fun p => cell4 p.1 p.2)
    ↔ ∃ p ∈ l, ∃ j, j < 4 ∧ c = (p.1 + j, BitVec.ofNat 8 (p.2 / 2 ^ (8 * j))) := by
  simp only [List.mem_flatMap, mem_cell4]

/-- A byte of an element that was written. -/
theorem WritesElems.read_in (h : WritesElems cells l) (hm : m.wf = true) {p : Nat × Nat} (hp : p ∈ l) {j : Nat} (hj : j < 4) :
    (commit m cells.reverse).read (p.1 + j) = BitVec.ofNat 8 (p.2 / 2 ^ (8 * j)) := by
  refine read_commit_of_mem (c := (p.1 + j, BitVec.ofNat 8 (p.2 / 2 ^ (8 * j)))) hm
    (List.mem_reverse.2 ((h.mem _).2 ⟨p, hp, j, hj, rfl⟩)) fun d hd hk => ?_
  obtain ⟨q, hq, i, hi, rfl⟩ := (h.mem d).1 (List.mem_reverse.1 hd)
  have h1 := h.aligned p hp
  have h2 := h.aligned q hq
  have hk : q.1 + i = p.1 + j := hk
  obtain ⟨hkey, rfl⟩ : q.1 = p.1 ∧ i = j := by omega
  rw [h.one q hq p hp hkey]

/-- A byte outside every element stays. -/
theorem WritesElems.read_out (h : WritesElems cells l) (hm : m.wf = true) {k : Nat} (hk : ∀ p ∈ l, k < p.1 ∨ p.1 + 4 ≤ k) :
    (commit m cells.reverse).read k = m.read k := by
  refine read_commit_of_not_mem hm fun c hc => ?_
  obtain ⟨p, hp, j, hj, rfl⟩ := (h.mem c).1 (List.mem_reverse.1 hc)
  have := hk p hp
  show p.1 + j ≠ k
  omega

end

/-! ### A quiet ME -/

section
variable {s t : State}

theorem calm_of_wf (h : s.Wf = true) : s.calm := by
  simp only [State.Wf, Bool.and_eq_true, List.isEmpty_iff, Option.isNone_iff_eq_none] at h
  obtain ⟨⟨⟨-, hw⟩, hb⟩, hn⟩ := h
  exact ⟨hw, hb, hn⟩

theorem buf_wf_of_wf (h : s.Wf = true) : s.buf.wf = true := by
  simp only [State.Wf, Bool.and_eq_true] at h
  obtain ⟨⟨⟨⟨-, hb⟩, -⟩, -⟩, -⟩ := h
  exact hb

theorem State.meQuiet.calm (h : s.meQuiet) : s.calm := calm_of_wf h.1

theorem State.meQuiet.buf_wf (h : s.meQuiet) : s.buf.wf = true := buf_wf_of_wf h.1

theorem State.meQuiet.drains (h : s.meQuiet) : s.c.me.drains = [] := by
  obtain ⟨-, -, -, -, -, -, -, -, hd, -, -, -, -⟩ := h
  exact hd

theorem State.meQuiet.popped (h : s.meQuiet) : s.c.me.popped = none := by
  obtain ⟨-, -, -, -, -, -, -, -, -, -, -, hp, -⟩ := h
  exact hp

theorem State.meQuiet.early (h : s.meQuiet) : s.early = [] := by
  obtain ⟨-, -, -, -, -, -, -, -, -, -, -, -, he⟩ := h
  exact he

/-- No racing act shows a read what stood there before. -/
theorem atNumber_self (h : s.early = []) (i : Nat) : s.atNumber i = s := by
  have hnone : (s.early.filter fun e => e.1 = i).map (·.2) = [] := by rw [h]; rfl
  unfold State.atNumber
  rw [hnone]
  rfl

/-- A read of a quiet ME answers the bytes. -/
theorem runOp_meRead (hq : s.meQuiet) (ck i key n : Nat) : runOp (meRead ck i key n) s = (.ok (s.bufRead key n).1, s) := by
  obtain ⟨-, -, -, -, -, hp, -, -, -, -, -, -, he⟩ := hq
  have hclean : (s.bufRead key n).2 = false := by
    unfold State.bufRead
    rw [hp]
    rfl
  unfold meRead
  rw [runOp_bind_ok (runOp_getS s), atNumber_self he]
  dsimp only
  rw [hclean]
  rfl

/-- No step drains that a step could wait for. -/
theorem runOp_meOrder (hq : s.meQuiet) (ranges : List (Nat × Nat × Nat × Bool)) (acc : Option (Nat × Nat × Bool)) :
    runOp (meOrder s.ck ranges acc) s = (.ok (), s) := by
  have hd : (s.ctx s.ck).me.drains = [] := hq.drains
  unfold meOrder
  rw [runOp_bind_ok (runOp_getS s), hd]
  rfl

/-- The cells and the flags of a step of ME have been delivered, and the feed FIFOs are `ff`. -/
def State.delivered (s : State) (cells : List (Nat × BitVec 8)) (f : Flags) (ff : Vector (List (BitVec 2048)) 2) : State :=
  (s.bufBytes cells).modRegs s.ck fun r => { r with flags := r.flags ||| f, ff := ff }

theorem ctx_delivered (s : State) (cells : List (Nat × BitVec 8)) (f : Flags) (ff : Vector (List (BitVec 2048)) 2) :
    (s.delivered cells f ff).ctx s.ck = { s.c with r := { s.c.r with flags := s.c.r.flags ||| f, ff := ff } } :=
  ctx_modRegs (s.bufBytes cells) s.ck _

/-- A delivery that nothing holds back. -/
theorem runOp_meDeliver_now {ck : Nat} (hslow : s.slow = false) (hinv : meInve ck s = false) (hd : (s.ctx ck).me.drains = [])
    (ranges : List (Nat × Nat × Nat × Bool)) (acc : Option (Nat × Nat × Bool)) (cells : List (Nat × BitVec 8)) (f : Flags) :
    runOp (meDeliver ck ranges acc cells f) s
      = (.ok (), (s.bufBytes cells).modRegs ck fun r => { r with flags := r.flags ||| f, me := { r.me with inve := none } }) := by
  unfold meDeliver
  rw [runOp_bind_ok (runOp_getS _), runOp_upd, hinv, hd, hslow]
  exact congrArg (Prod.mk _) (modRegs_modRegs (s.bufBytes cells) ck (fun r => { r with flags := r.flags ||| f })
    fun r => { r with me := { r.me with inve := none } })

theorem State.meQuiet.meInve (h : s.meQuiet) : meInve s.ck s = false := by
  obtain ⟨-, -, -, -, hinve, -, -, hinv, -, -, -, -, -⟩ := h
  unfold Machine.meInve
  exact (congrArg (·.getD (s.c.r.invTrap .me)) hinve).trans hinv

/-- The registers that a delivery leaves, but for FLAGS and the FIFOs. -/
theorem State.meQuiet.regs_delivered (h : s.meQuiet) (f : Flags) (ff : Vector (List (BitVec 2048)) 2) :
    ({ s.c.r with ff := ff, flags := s.c.r.flags ||| f, me := { s.c.r.me with inve := none } } : Regs)
      = { s.c.r with flags := s.c.r.flags ||| f, ff := ff } := by
  obtain ⟨-, -, -, -, hinve, -, -, -, -, -, -, -, -⟩ := h
  rw [← hinve]
  rfl

theorem runOp_meDeliver (hq : s.meQuiet) (ranges : List (Nat × Nat × Nat × Bool)) (acc : Option (Nat × Nat × Bool))
    (cells : List (Nat × BitVec 8)) (f : Flags) :
    runOp (meDeliver s.ck ranges acc cells f) s = (.ok (), s.delivered cells f s.c.r.ff) := by
  rw [runOp_meDeliver_now (hq.2.1) hq.meInve hq.drains]
  exact congrArg (Prod.mk _) (modRegs_congr (hq.regs_delivered f s.c.r.ff))

/-- A delivery by a step that has also changed the FIFOs and its own progress. -/
theorem runOp_meDeliver_modRegs (hq : s.meQuiet) {g : Regs → Regs} {ff : Vector (List (BitVec 2048)) 2}
    (hg : g s.c.r = { s.c.r with ff := ff }) (ranges : List (Nat × Nat × Nat × Bool)) (acc : Option (Nat × Nat × Bool))
    (cells : List (Nat × BitVec 8)) (f : Flags) :
    runOp (meDeliver s.ck ranges acc cells f) (s.modRegs s.ck g) = (.ok (), s.delivered cells f ff) := by
  have hc : (s.modRegs s.ck g).ctx s.ck = { s.c with r := { s.c.r with ff := ff } } := (ctx_modRegs s s.ck g).trans (by
    rw [show (s.ctx s.ck).r = s.c.r from rfl, hg]
    rfl)
  have hi : meInve s.ck (s.modRegs s.ck g) = false := by
    refine Eq.trans ?_ hq.meInve
    unfold meInve
    rw [hc]
    rfl
  rw [runOp_meDeliver_now (s := s.modRegs s.ck g) (hq.2.1) hi (by rw [hc]; exact hq.drains)]
  refine congrArg (Prod.mk _) ((modRegs_modRegs (s.bufBytes cells) s.ck g _).trans (modRegs_congr ?_))
  dsimp only
  rw [show ((s.bufBytes cells).ctx s.ck).r = s.c.r from rfl, hg]
  exact hq.regs_delivered f ff

end

/-! ### The end of a step (R228, R231) -/

section
variable {s t : State} {f : State → State}

/-- A word of ME that answers an address, with no step in flight, ends as any unit does. -/
theorem meWord_quiet {o : Op Nat} {pc : Nat} (ho : runOp o s = (.ok pc, t)) (hd : (t.ctx s.ck).r.me.drains = []) :
    meWord o s = endUnit s.ck .me pc t := by
  have hd' : ((endUnit s.ck .me pc t).ctx s.ck).me.drains = [] := by
    rw [endUnit_ctx]
    exact hd
  unfold meWord
  rw [ho]
  dsimp only
  rw [hd']
  rfl

theorem run_meWord {o : Op Nat} {pc : Nat} (hf : f s = meWord o s) (ho : runOp o s = (.ok pc, t)) (hd : (t.ctx s.ck).r.me.drains = [])
    (hn : t.stuck = none) : run f s = s.goesTo .me pc t :=
  run_of_eq (hf.trans (meWord_quiet ho hd)) hn

theorem run_meNext {o : Op Unit} (hf : f s = meNext o s) (ho : runOp o s = (.ok (), t)) (hd : (t.ctx s.ck).r.me.drains = [])
    (hn : t.stuck = none) : run f s = s.onward .me t :=
  run_of_eq (hf.trans (meNext_quiet ho hd)) hn

/-- A word of ME that waits, having done nothing. -/
theorem run_meNext_waits {o : Op Unit} {w : Wait} (hq : s.meQuiet) (hf : f s = meNext o s) (ho : runOp o s = (.error (.wait w), s))
    (hw : w ≠ .row) : run f s = s.waits .me w := by
  refine run_blockOn hq.calm (hf.trans ?_)
  unfold meNext meWord
  rw [runOp_bind_error ho]
  dsimp only
  split
  · next h => cases h
  · next h => cases h; exact absurd rfl hw
  · next h => cases h; rfl

/-- The parts of the machine after a step that has delivered. -/
theorem settle_delivered (hq : s.meQuiet) (cells : List (Nat × BitVec 8)) (fl : Flags) (ff : Vector (List (BitVec 2048)) 2) :
    let e := endUnit s.ck .me (s.c.stream .me).next (s.delivered cells fl ff)
    (settle s e).buf = commit s.buf cells.reverse ∧ (settle s e).mem = s.mem ∧ (settle s e).c = e.ctx s.ck := by
  obtain ⟨hwb, hbb, -⟩ := hq.calm
  refine ⟨?_, ?_, c_of_who (s := s) rfl⟩
  · show commit s.buf (cells.reverse ++ s.bbuf) = _
    rw [hbb, List.append_nil]
  · show commit s.mem s.wbuf = _
    rw [hwb]
    rfl

/-- What a step that has delivered leaves. -/
theorem meDoes_delivered (hq : s.meQuiet) {cells : List (Nat × BitVec 8)} {l : List (Nat × Nat)} (hw : WritesElems cells l) {fl : Flags}
    {raised : Nat → Prop} (hfl : ∀ b, fl.getLsbD b = true ↔ raised b) (ff : Vector (List (BitVec 2048)) 2) :
    ∃ t, s.onward .me (s.delivered cells fl ff) = .next t ∧ s.meDoes t l raised ∧ t.c.r.ff = ff := by
  have hm := hq.buf_wf
  obtain ⟨hbuf, hmem, hctx⟩ := settle_delivered hq cells fl ff
  rw [endUnit_ctx, ctx_delivered] at hctx
  refine ⟨_, rfl, ⟨?_, fun b _ => ?_, ?_, fun u hu => ?_, rfl, fun k hk => ?_, hmem, fun p hp => ?_, fun k hk => ?_⟩, ?_⟩
  · rw [hctx, regs_stream_modStream]
  · rw [hctx, ← hfl b]
    show (s.c.r.flags ||| fl).getLsbD b = true ↔ _
    rw [BitVec.getLsbD_or, Bool.or_eq_true]
  · rw [hctx]
    rfl
  · rw [hctx]
    exact regs_stream_modStream_other _ hu _
  · exact (ctx_modStream_other _ hk _ _).trans (ctx_modRegs_other (s.bufBytes cells) hk _)
  · refine bufRead_of_bytes rfl (commit_wf _ _ hm) fun j hj => ?_
    rw [hbuf]
    exact hw.read_in hm hp hj
  · rw [hbuf]
    exact hw.read_out hm hk
  · rw [hctx]
    rfl

/-- A word of ME that is a step which is made at once. -/
theorem meDoes_of_step (hq : s.meQuiet) {i : Instr} {o : Op Unit} (hi : exec i s = run f s) (hf : f s = meNext o s)
    {cells : List (Nat × BitVec 8)} {l : List (Nat × Nat)} {fl : Flags} {ff : Vector (List (BitVec 2048)) 2}
    (ho : runOp o s = (.ok (), s.delivered cells fl ff)) (hw : WritesElems cells l) {raised : Nat → Prop}
    (hfl : ∀ b, fl.getLsbD b = true ↔ raised b) : ∃ t, exec i s = .next t ∧ s.meDoes t l raised ∧ t.c.r.ff = ff := by
  have hd : ((s.delivered cells fl ff).ctx s.ck).r.me.drains = [] := by
    rw [ctx_delivered]
    exact hq.drains
  rw [hi, run_meNext hf ho hd hq.calm.2.2]
  exact meDoes_delivered hq hw hfl ff

end

/-! ### Stages (R204) -/

section
variable {s : State} {stg : Nat}

theorem runOp_meStage_active (h : runOp (meActive s stg) s = (.ok true, s)) (o : Op Unit) : runOp (meStage s {} stg o) s = runOp o s := by
  unfold meStage
  exact runOp_bind_ok h

theorem runOp_meStage_inactive (h : runOp (meActive s stg) s = (.ok false, s)) (o : Op Unit) :
    runOp (meStage s {} stg o) s = (.ok (), s) := by
  unfold meStage
  exact runOp_bind_ok h

end

/-! ### Flags of the parts of a step (R59) -/

section
variable {α : Type}

/-- The flags of the parts of a step. -/
def flagsOf (l : List (α × Flags)) (f : Flags) : Flags := l.foldl (fun f x => f ||| x.2) f

theorem getLsbD_flagsOf (b : Nat) : ∀ (l : List (α × Flags)) (f : Flags),
    (flagsOf l f).getLsbD b = true ↔ f.getLsbD b = true ∨ ∃ x ∈ l, x.2.getLsbD b = true
  | [], f => by simp [flagsOf]
  | x :: l, f => by
    refine (getLsbD_flagsOf b l (f ||| x.2)).trans ?_
    rw [BitVec.getLsbD_or, Bool.or_eq_true, List.exists_mem_cons_iff, or_assoc]

theorem getLsbD_flagsOf_zero (b : Nat) (l : List (α × Flags)) : (flagsOf l 0).getLsbD b = true ↔ ∃ x ∈ l, x.2.getLsbD b = true := by
  exact (getLsbD_flagsOf b l 0).trans (or_iff_right (by simp))

end

/-! ### Steps that write elements (R228) -/

/-- What elements (buffer key, value, flags) make of the buffers and of FLAGS. -/
def elemsOut (l : List (Nat × Nat × Flags)) : List (Nat × BitVec 8) × Flags :=
  (l.flatMap fun x => cell4 x.1 x.2.1, flagsOf (l.map Prod.snd) 0)

/-- The elements as the model gathers them. -/
theorem elemsOut_eq (l : List (Nat × Nat × Flags)) : elemsOut l
    = ((l.map fun x => (cell4 x.1 x.2.1, x.2.2)).flatMap (·.1), (l.map fun x => (cell4 x.1 x.2.1, x.2.2)).foldl (fun f y => f ||| y.2) 0) := by
  unfold elemsOut flagsOf
  rw [List.flatMap_map, List.foldl_map, List.foldl_map]

theorem getLsbD_elemsOut (l : List (Nat × Nat × Flags)) (b : Nat) :
    (elemsOut l).2.getLsbD b = true ↔ ∃ x ∈ l, x.2.2.getLsbD b = true := by
  unfold elemsOut
  rw [getLsbD_flagsOf_zero]
  simp only [List.mem_map, exists_exists_and_eq_and]

/-- Rows of elements are one list of them. -/
theorem elemsOut_flatMap (L : Nat → List (Nat × Nat × Flags)) (rows : List Nat) :
    ((rows.map fun i => elemsOut (L i)).flatMap (·.1), flagsOf (rows.map fun i => elemsOut (L i)) 0) = elemsOut (rows.flatMap L) := by
  refine Prod.ext ?_ (BitVec.eq_of_getLsbD_eq fun b _ => Bool.eq_iff_iff.2 ?_)
  · simp only [elemsOut, List.flatMap_map, List.flatMap_assoc]
  · rw [getLsbD_flagsOf_zero, getLsbD_elemsOut]
    simp only [List.mem_map, List.mem_flatMap, exists_exists_and_eq_and, getLsbD_elemsOut]
    exact ⟨fun ⟨i, hi, x, hx, h⟩ => ⟨x, ⟨i, hi, hx⟩, h⟩, fun ⟨x, ⟨i, hi, hx⟩, h⟩ => ⟨i, hi, x, hx, h⟩⟩

/-- A step of ME has been made: it has written the elements `l`, and the feed FIFOs are `ff`. -/
def State.stepped (s : State) (l : List (Nat × Nat × Flags)) (ff : Vector (List (BitVec 2048)) 2) : State :=
  s.delivered (elemsOut l).1 (elemsOut l).2 ff

/-- A word of ME that is a step which writes one element for each index in `P`, at a place of its own. -/
theorem meDoes_of_elems {s : State} {f : State → State} (hq : s.meQuiet) {i : Instr} {o : Op Unit} (hi : exec i s = run f s) (hf : f s = meNext o s)
    {L : List (Nat × Nat × Flags)} {ff : Vector (List (BitVec 2048)) 2} (ho : runOp o s = (.ok (), s.stepped L ff))
    {ι : Type} {P : ι → Prop} {key : ι → Nat} {val : ι → Nat × Flags} (hL : ∀ x, x ∈ L ↔ ∃ a, P a ∧ x = (key a, val a))
    (hal : ∀ a, P a → key a % 4 = 0) (hinj : ∀ a b, P a → P b → key a = key b → a = b)
    {l : List (Nat × Nat)} (hl : ∀ p, p ∈ l ↔ ∃ a, P a ∧ p = (key a, (val a).1))
    {raised : Nat → Prop} (hraised : ∀ b, raised b ↔ ∃ a, P a ∧ (val a).2.getLsbD b = true) :
    ∃ t, exec i s = .next t ∧ s.meDoes t l raised ∧ t.c.r.ff = ff := by
  refine meDoes_of_step hq hi hf ho (l := l) ⟨fun c => ?_, fun p hp => ?_, fun p hp q hq he => ?_⟩ fun b => ?_
  · simp only [elemsOut, List.mem_flatMap, mem_cell4]
    constructor
    · rintro ⟨x, hx, j, hj, rfl⟩
      obtain ⟨a, ha, rfl⟩ := (hL x).1 hx
      exact ⟨_, (hl _).2 ⟨a, ha, rfl⟩, j, hj, rfl⟩
    · rintro ⟨p, hp, j, hj, rfl⟩
      obtain ⟨a, ha, rfl⟩ := (hl p).1 hp
      exact ⟨_, (hL _).2 ⟨a, ha, rfl⟩, j, hj, rfl⟩
  · obtain ⟨a, ha, rfl⟩ := (hl p).1 hp
    exact hal a ha
  · obtain ⟨a, ha, rfl⟩ := (hl p).1 hp
    obtain ⟨b, hb, rfl⟩ := (hl q).1 hq
    rw [hinj a b ha hb he]
  · rw [getLsbD_elemsOut, hraised]
    constructor
    · rintro ⟨x, hx, h⟩
      obtain ⟨a, ha, rfl⟩ := (hL x).1 hx
      exact ⟨a, ha, h⟩
    · rintro ⟨a, ha, h⟩
      exact ⟨_, (hL _).2 ⟨a, ha, rfl⟩, h⟩

/-! ### Rows (R230, R232) -/

/-- The feed FIFOs once a step has taken `n` entries of the one that it names. -/
def ffTaken (ff : Vector (List (BitVec 2048)) 2) (n : Nat) : Option Nat → Vector (List (BitVec 2048)) 2
  | none => ff
  | some k => vset ff k ((vget [] ff k).drop n)

/-- Every row of a step of a quiet ME can run now: its rows' cells and flags are delivered, and their FIFO entries are gone. -/
theorem runOp_meRows {s : State} (hq : s.meQuiet) {rows : Nat} {phys : List Nat} {need : Nat} {ff : Option Nat}
    {ranges : List (Nat × Nat × Nat × Bool)} {acc : Option (Nat × Nat × Bool)} {row : Nat → Op (List (Nat × BitVec 8) × Flags)}
    {out : Nat → List (Nat × BitVec 8) × Flags} (hrow : ∀ i, i < rows → runOp (row i) s = (.ok (out i), s)) :
    runOp (meRows s.ck rows rows phys s.par need ff ranges acc row) s
      = (.ok (), s.delivered (((List.range rows).map out).flatMap (·.1)) (flagsOf ((List.range rows).map out) 0)
          (ffTaken s.c.r.ff (rows * need) ff)) := by
  obtain ⟨-, -, hpar, hrows, -, -, hpp, -, -, hdone, hsf, -, -⟩ := id hq
  have hdone' : (s.ctx s.ck).me.rowdone = 0 := hdone
  have hsf' : (s.ctx s.ck).me.stepFlags = 0 := hsf
  have hnone : phys.find? (fun p => s.platenPar.contains (coreOf s.ck * 8 + p)) = none := by
    rw [hpp]
    exact List.find?_eq_none.2 fun _ _ => Bool.false_ne_true
  have hall : (List.range rows).filter (fun i => decide (0 ≤ i ∧ i < rows)) = List.range rows :=
    List.filter_eq_self.2 fun i hi => decide_eq_true ⟨Nat.zero_le i, List.mem_range.1 hi⟩
  have hout : runOp (opMap row (List.range rows)) s = (.ok ((List.range rows).map out), s) :=
    opMap_ok _ fun i hi => hrow i (List.mem_range.1 hi)
  have hme : ({ s.c.r.me with rowdone := 0, stepFlags := 0 } : MeRegs) = s.c.r.me := by
    rw [← hdone, ← hsf]
    rfl
  have hend {u : State} {g : Regs → Regs} (hu : modMe s.ck (fun m => { m with rowdone := 0, stepFlags := 0 }) u = s.modRegs s.ck g)
      (hg : g s.c.r = { s.c.r with ff := ffTaken s.c.r.ff (rows * need) ff }) :
      runOp (do
        upd (modMe s.ck fun m => { m with rowdone := 0, stepFlags := 0 })
        meDeliver s.ck ranges acc (((List.range rows).map out).flatMap (·.1)) (flagsOf ((List.range rows).map out) 0)) u
      = (.ok (), s.delivered (((List.range rows).map out).flatMap (·.1)) (flagsOf ((List.range rows).map out) 0)
          (ffTaken s.c.r.ff (rows * need) ff)) := by
    rw [runOp_bind_ok (runOp_upd _ _), hu]
    exact runOp_meDeliver_modRegs hq hg _ _ _ _
  unfold meRows
  rw [runOp_bind_ok (runOp_getS s)]
  dsimp only
  rw [hdone', hsf', hnone, hpar, hrows]
  dsimp only
  rw [hall, runOp_bind_ok hout, Nat.sub_zero, if_pos (Nat.le_refl rows)]
  cases ff with
  | none => exact hend rfl (congrArg (fun m => ({ s.c.r with me := m } : Regs)) hme)
  | some k => exact (runOp_bind_ok (runOp_upd _ _)).trans (hend (modRegs_modRegs _ _ _ _)
      (congrArg (fun m => ({ s.c.r with me := m, ff := ffTaken s.c.r.ff (rows * need) (some k) } : Regs)) hme))

/-- The same, of rows of elements. -/
theorem runOp_meRows_elems {s : State} (hq : s.meQuiet) {rows : Nat} {phys : List Nat} {need : Nat} {ff : Option Nat}
    {ranges : List (Nat × Nat × Nat × Bool)} {acc : Option (Nat × Nat × Bool)} {row : Nat → Op (List (Nat × BitVec 8) × Flags)}
    {L : Nat → List (Nat × Nat × Flags)} (hrow : ∀ i, i < rows → runOp (row i) s = (.ok (elemsOut (L i)), s)) :
    runOp (meRows s.ck rows rows phys s.par need ff ranges acc row) s
      = (.ok (), s.stepped ((List.range rows).flatMap L) (ffTaken s.c.r.ff (rows * need) ff)) := by
  rw [runOp_meRows hq hrow, State.stepped, ← elemsOut_flatMap]

/-! ### Keys of the windows (R17) -/

theorem winKey_add (ck : Nat) (c : Ctx) (space a b : Nat) : winKey ck c space (a + b) = winKey ck c space a + b := by
  unfold winKey bufKey
  split <;> omega

theorem winKey_mod_four (ck : Nat) (c : Ctx) (space a : Nat) : winKey ck c space a % 4 = a % 4 := by
  unfold winKey bufKey
  split <;> omega

/-- Of two places in rows of `n` elements, each has its own number. -/
theorem row_place_inj {n i j i' j' : Nat} (hj : j < n) (hj' : j' < n) (h : i * n + j = i' * n + j') : i = i' ∧ j = j' := by
  have hn : 0 < n := by omega
  have hd := congrArg (· / n) h
  have hm := congrArg (· % n) h
  simp only [Nat.mul_add_mod', Nat.mod_eq_of_lt hj, Nat.mod_eq_of_lt hj'] at hm
  simp only [Nat.mul_comm _ n, Nat.mul_add_div hn, Nat.div_eq_of_lt hj, Nat.div_eq_of_lt hj', Nat.add_zero] at hd
  exact ⟨hd, hm⟩

/-! ### The set of a pass (R209 to R211) -/

theorem mfmtOf_width_pos (c : Nat) : 0 < (mfmtOf c).width := by
  unfold mfmtOf
  split <;> decide

theorem mfmtOf_depth_pos (c : Nat) : 0 < (mfmtOf c).depth := by
  unfold mfmtOf
  split <;> decide

/-- What a set that passes its checks is. -/
structure MeSet.Checked (g : MeSet) : Prop where
  phys : g.phys ≠ []
  ta : ∃ c, g.ta = mfmtOf c
  tb : ∃ c, g.tb = mfmtOf c
  kt : g.kt = if g.gangK then g.phys.length * g.tb.depth else g.tb.depth
  nout : g.nout = if g.gangK then 64 else 64 * g.phys.length

/-- A number that is not 0 has a bit among those that it can have. -/
theorem setBits_ne_nil {m n : Nat} (h0 : m ≠ 0) (h : m < 2 ^ n) : setBits m n ≠ [] := by
  obtain ⟨i, hi⟩ := Nat.exists_testBit_of_ne_zero h0
  have hn : i < n := (Nat.pow_lt_pow_iff_right (by decide : 1 < 2)).1 ((Nat.ge_two_pow_of_testBit hi).trans_lt h)
  exact List.ne_nil_of_mem (List.mem_filter.2 ⟨List.mem_range.2 hn, hi⟩)

theorem failIf_eq_ok {b : Bool} {c : Cause} {s t : State} {u : Unit} (h : runOp (failIf b c) s = (.ok u, t)) : b = false ∧ s = t := by
  rw [runOp_failIf] at h
  cases b with
  | false => exact ⟨rfl, congrArg Prod.snd h⟩
  | true => cases h

theorem meSet_checked {s : State} {afmt : Nat} {int : Bool} {g : MeSet} (h : runOp (meSet s {} afmt int) s = (.ok g, s)) : g.Checked := by
  unfold meSet at h
  obtain ⟨_, _, -, h⟩ := runOp_bind_eq_ok h
  obtain ⟨_, _, hcfg, h⟩ := runOp_bind_eq_ok h
  obtain ⟨_, _, -, h⟩ := runOp_bind_eq_ok h
  cases h
  refine ⟨?_, ⟨_, rfl⟩, ⟨_, rfl⟩, rfl, rfl⟩
  obtain ⟨h0, -⟩ := failIf_eq_ok hcfg
  exact fun hnil => setBits_ne_nil (of_decide_eq_false h0) (Nat.mod_lt _ (Nat.two_pow_pos 8)) (List.map_eq_nil_iff.1 hnil)

section
variable {g : MeSet}

theorem MeSet.Checked.kt_pos (h : g.Checked) : 0 < g.kt := by
  obtain ⟨c, hc⟩ := h.tb
  have hd : 0 < g.tb.depth := hc ▸ mfmtOf_depth_pos c
  rw [h.kt]
  split
  · exact Nat.mul_pos (List.length_pos_iff.2 h.phys) hd
  · exact hd

theorem MeSet.Checked.rowBytes_pos (h : g.Checked) : 0 < rowBytes g.ta g.kt := by
  obtain ⟨c, hc⟩ := h.ta
  have := Nat.mul_pos h.kt_pos (hc ▸ mfmtOf_width_pos c : 0 < g.ta.width)
  unfold rowBytes
  omega

theorem length_platenCols (s : State) (t : MFmt) (p : Nat) : (platenCols s t p).length = 64 := by
  unfold platenCols
  rw [List.length_map, List.length_range]

theorem length_stackCols {n : Nat} : ∀ {l : List (List Elems)}, l ≠ [] → (∀ x ∈ l, x.length = n) → (stackCols l).length = n
  | [x], _, h => h x List.mem_cons_self
  | x :: y :: l, _, h => by
    have ih := length_stackCols (List.cons_ne_nil y l) fun z hz => h z (List.mem_cons_of_mem x hz)
    rw [stackCols, List.length_map, List.length_zip, ih, h x List.mem_cons_self, Nat.min_self]
    nofun

/-- A set has as many columns as a row of CB has elements. -/
theorem MeSet.Checked.length_cols (h : g.Checked) (s : State) : (g.cols s).length = g.nout := by
  have h64 : ∀ x ∈ g.phys.map (platenCols s g.tb), x.length = 64 := by
    intro x hx
    obtain ⟨p, -, rfl⟩ := List.mem_map.1 hx
    exact length_platenCols s g.tb p
  unfold MeSet.cols
  rw [h.nout]
  dsimp only
  split
  · exact length_stackCols (by simpa using h.phys) h64
  · rw [List.length_flatten, List.map_congr_left h64, List.map_const', List.sum_replicate, List.length_map, smul_eq_mul, Nat.mul_comm]

end

/-! ### Rows of A (R212) -/

/-- A check that holds changes nothing. -/
theorem runOp_check {β : Type} {b : Bool} {c : Cause} {k : Unit → Op β} {s : State} (h : b = false) :
    runOp (failIf b c >>= k) s = runOp (k ()) s :=
  runOp_bind_ok (runOp_failIf_ok h c s)

theorem offAlign_ok {a n : Nat} (h : a % n = 0) : offAlign (some (a : Int)) n = false := by
  simp [offAlign, h]

theorem offWindow_ok {a : Nat} {inside : Nat → Bool} (h : inside a = true) : offWindow (some (a : Int)) inside = false := by
  simp [offWindow, h]

/-- Row `i` of A: `rb` bytes of AB, or the oldest entries of the feed FIFO that ASRC names. -/
def State.aRow (s : State) (asrc a astr rb i : Nat) : Nat :=
  if asrc = 0 then (s.bufRead (winKey s.ck s.c 0 (a + i * astr)) rb).1
  else fifoRow (vget [] s.c.r.ff (asrc - 1)) i ((rb + 255) / 256)

/-- The rows of A stand where a step takes them from. -/
structure State.HasRows (s : State) (asrc aga stg rows astr rb a : Nat) : Prop where
  addr : (if asrc = 0 then meAddr s none aga stg else some 0) = some (a : Int)
  aligned : a % 4 = 0
  inside : asrc = 0 → inWindow s.c 0 a ((rows - 1) * astr + rb) = true
  held : asrc ≠ 0 → rows * ((rb + 255) / 256) ≤ (vget [] s.c.r.ff (asrc - 1)).length

section
variable {s : State} {asrc aga stg rows astr rb a : Nat}

theorem hasRows_ab (ha : meGen s aga stg = some (a : Int)) (hal : a % 4 = 0)
    (hin : inWindow s.c 0 a ((rows - 1) * astr + rb) = true) : s.HasRows 0 aga stg rows astr rb a :=
  ⟨ha, hal, fun _ => hin, fun h => absurd rfl h⟩

theorem hasRows_fifo {k : Nat} (h : rows * ((rb + 255) / 256) ≤ (vget [] s.c.r.ff k).length) : s.HasRows (k + 1) aga stg rows astr rb 0 :=
  ⟨rfl, rfl, nofun, fun _ => h⟩

theorem State.HasRows.window (h : s.HasRows asrc aga stg rows astr rb a) :
    (decide (asrc = 0) && offWindow (some (a : Int)) fun a => inWindow s.c 0 a ((rows - 1) * astr + rb)) = false := by
  by_cases h0 : asrc = 0
  · rw [offWindow_ok (inside := fun a => inWindow s.c 0 a ((rows - 1) * astr + rb)) (h.inside h0), Bool.and_false]
  · rw [decide_eq_false h0, Bool.false_and]

/-- Every row can run now. -/
theorem State.HasRows.avail (h : s.HasRows asrc aga stg rows astr rb a) (hrb : 0 < rb) :
    (if asrc = 0 then rows else min rows (0 + (vget [] s.c.r.ff (asrc - 1)).length / ((rb + 255) / 256))) = rows := by
  split
  · rfl
  · next h0 =>
    have hneed : 0 < (rb + 255) / 256 := by omega
    have := (Nat.le_div_iff_mul_le hneed).2 (h.held h0)
    omega

/-- A step goes on with its row of A. -/
theorem runOp_aRow_bind {β : Type} (hq : s.meQuiet) (i : Nat) (k : Nat → Op β) : runOp (if asrc = 0 then do
        let v ← meRead s.ck i (winKey s.ck s.c 0 (a + i * astr)) rb
        k v
      else do
        let v ← pure (fifoRow (vget [] s.c.r.ff (asrc - 1)) (i - 0) ((rb + 255) / 256))
        k v) s = runOp (k (s.aRow asrc a astr rb i)) s := by
  unfold State.aRow
  split
  · exact runOp_bind_ok (runOp_meRead hq _ _ _ _)
  · exact runOp_bind_ok (runOp_pure _ _)

end

end Sys2Proof.Machine

/-!
Dense passes and convolutions (O38): a row accumulated into CB, and each step by the rows of A that it reads.
-/
namespace Sys2Proof.Machine
open Sys2Proof

/-! ### A row accumulated into CB (R213) -/

theorem enum_eq_map {α : Type} (d : α) (l : List α) : enum l = (List.range l.length).map fun i => (i, l[i]?.getD d) := by
  refine List.ext_getElem (by simp [enum]) fun i h _ => ?_
  simp [enum, (by simpa [enum] using h : i < l.length)]

/-- The buffer key of element `j` of row `i` of a pass, in rows of `n` elements at an offset of CB. -/
def State.elemKey (s : State) (c n i j : Nat) : Nat := winKey s.ck s.c 1 (c + i * (4 * n) + 4 * j)

/-- The sum that a pass leaves in an element of CB, and its flags. -/
def State.passSum (s : State) (int : Bool) (g : MeSet) (z c : Nat) (a : Elems) (i j : Nat) : Nat × Flags :=
  accumulate (s.c.stream .me).num int g.ta g.tb a ((g.cols s)[j]?.getD ⟨[], []⟩) (if z = 1 then 0 else (s.bufRead (s.elemKey c g.nout i j) 4).1)

/-- The elements of row `i` of a pass. -/
def State.passElems (s : State) (int : Bool) (g : MeSet) (z c : Nat) (a : Elems) (i : Nat) : List (Nat × Nat × Flags) :=
  (List.range g.nout).map fun j => (s.elemKey c g.nout i j, s.passSum int g z c a i j)

section
variable {s : State} {int : Bool} {g : MeSet} {z c : Nat}

theorem colsAt_self (hq : s.meQuiet) (cols : List Elems) (i : Nat) : g.colsAt s cols i = cols := by
  unfold MeSet.colsAt
  rw [hq.early]
  rfl

theorem runOp_passRow (hq : s.meQuiet) (hg : g.Checked) (a : Elems) (i : Nat) :
    runOp (passRow s i (s.c.stream .me).num int g (g.cols s) (z = 1) (c + i * (4 * g.nout)) a) s
      = (.ok (elemsOut (s.passElems int g z c a i)), s) := by
  have hd : s.c.me.drains = [] := hq.drains
  have hacc (k : Nat → Op (List (Nat × BitVec 8) × Flags)) : runOp (if decide (z = 1) = true then do
        let accs ← pure 0
        k accs
      else do
        let v ← meRead s.ck i (winKey s.ck s.c 1 (c + i * (4 * g.nout))) (4 * g.nout)
        let accs ← pure (drainOver s.c.me.drains (winKey s.ck s.c 1 (c + i * (4 * g.nout))) (4 * g.nout) v)
        k accs) s
      = runOp (k (if z = 1 then 0 else (s.bufRead (winKey s.ck s.c 1 (c + i * (4 * g.nout))) (4 * g.nout)).1)) s := by
    by_cases hz : z = 1
    · rw [if_pos (decide_eq_true hz), if_pos hz, runOp_bind_ok (runOp_pure _ _)]
    · rw [if_neg (by simpa using hz), if_neg hz, runOp_bind_ok (runOp_meRead hq _ _ _ _), hd]
      rfl
  unfold passRow
  refine (hacc _).trans ?_
  rw [colsAt_self hq, enum_eq_map ⟨[], []⟩, hg.length_cols, List.map_map, elemsOut_eq]
  unfold State.passElems
  rw [List.map_map]
  have hcell : ∀ j ∈ List.range g.nout, ((fun x : Nat × Nat × Flags => (cell4 x.1 x.2.1, x.2.2)) ∘ fun j =>
        (s.elemKey c g.nout i j, s.passSum int g z c a i j)) j
      = (cell4 (winKey s.ck s.c 1 (c + i * (4 * g.nout)) + 4 * j) (accumulate (s.c.stream .me).num int g.ta g.tb a
            ((g.cols s)[j]?.getD ⟨[], []⟩) ((if z = 1 then 0 else
              (s.bufRead (winKey s.ck s.c 1 (c + i * (4 * g.nout))) (4 * g.nout)).1) / 2 ^ (32 * j) % 2 ^ 32)).1,
          (accumulate (s.c.stream .me).num int g.ta g.tb a
            ((g.cols s)[j]?.getD ⟨[], []⟩) ((if z = 1 then 0 else
              (s.bufRead (winKey s.ck s.c 1 (c + i * (4 * g.nout))) (4 * g.nout)).1) / 2 ^ (32 * j) % 2 ^ 32)).2) := by
    intro j hj
    have hj := List.mem_range.1 hj
    have hpart : (if z = 1 then 0 else (s.bufRead (winKey s.ck s.c 1 (c + i * (4 * g.nout))) (4 * g.nout)).1) / 2 ^ (32 * j) % 2 ^ 32
        = if z = 1 then 0 else (s.bufRead (s.elemKey c g.nout i j) 4).1 := by
      unfold State.elemKey
      split
      · rw [Nat.zero_div, Nat.zero_mod]
      · rw [winKey_add _ _ _ _ (4 * j), show 32 * j = 8 * (4 * j) by omega]
        exact bufRead_part hq.calm.2.1 hq.buf_wf (p := 4 * j) (m := 4) (by omega)
    rw [hpart, ← winKey_add]
    rfl
  rw [List.map_congr_left hcell]
  rfl

/-- The elements of a pass stand apart, at multiples of four. -/
theorem elemKey_inj {n i j i' j' : Nat} (hj : j < n) (hj' : j' < n) (h : s.elemKey c n i j = s.elemKey c n i' j') : i = i' ∧ j = j' := by
  unfold State.elemKey at h
  simp only [Nat.add_assoc, winKey_add] at h
  refine row_place_inj hj hj' ?_
  have h1 : ∀ i j, i * (4 * n) + 4 * j = 4 * (i * n + j) := fun i j => by ring
  rw [h1, h1] at h
  omega

theorem elemKey_aligned (hc : c % 4 = 0) (n i j : Nat) : s.elemKey c n i j % 4 = 0 := by
  unfold State.elemKey
  rw [winKey_mod_four, show c + i * (4 * n) + 4 * j = c + 4 * (i * n + j) by ring]
  omega

/-- A step that accumulates rows `el` into CB leaves what the statement says of its elements. -/
theorem meDoes_of_passRows (hq : s.meQuiet) {w : Instr} {f : State → State} {o : Op Unit} (hi : exec w s = run f s)
    (hf : f s = meNext o s) {rows : Nat} {el : Nat → Elems} {ff : Vector (List (BitVec 2048)) 2} (hc : c % 256 = 0)
    (ho : runOp o s = (.ok (), s.stepped ((List.range rows).flatMap fun i => s.passElems int g z c (el i) i) ff)) :
    ∃ t, exec w s = .next t
      ∧ s.meDoes t ((List.range rows).flatMap fun i => (List.range g.nout).map fun j =>
          (s.elemKey c g.nout i j, (s.passSum int g z c (el i) i j).1))
        (fun b => ∃ i j, i < rows ∧ j < g.nout ∧ (s.passSum int g z c (el i) i j).2.getLsbD b = true)
      ∧ t.c.r.ff = ff := by
  refine meDoes_of_elems hq hi hf ho (P := fun a : Nat × Nat => a.1 < rows ∧ a.2 < g.nout) (key := fun a => s.elemKey c g.nout a.1 a.2)
    (val := fun a => s.passSum int g z c (el a.1) a.1 a.2) (fun x => ?_) (fun a _ => elemKey_aligned (by omega) _ _ _)
    (fun a b ha hb he => ?_) (fun p => ?_) fun b => ?_
  · simp only [State.passElems, List.mem_flatMap, List.mem_map, List.mem_range, Prod.exists, ← exists_and_left, and_assoc, eq_comm]
  · obtain ⟨h1, h2⟩ := elemKey_inj ha.2 hb.2 he
    exact Prod.ext h1 h2
  · simp only [List.mem_flatMap, List.mem_map, List.mem_range, Prod.exists, ← exists_and_left, and_assoc, eq_comm]
  · simp only [Prod.exists, and_assoc]

end

/-! ### Passes (R213 to R217) -/

/-- The stride of the rows of A in AB (R201, R212). -/
def MeRegs.rowStride (m : MeRegs) (rb : Nat) : Nat := if bitsAt m.pcfg 32 16 = 0 then (rb + 3) / 4 * 4 else bitsAt m.pcfg 32 16

section
variable {s : State} {afmt aga agc rowsM1 z stg c : Nat} {g : MeSet}

theorem runOp_mePass {int : Bool} {asrc a : Nat} (hq : s.meQuiet) (hact : runOp (meActive s stg) s = (.ok true, s))
    (hset : runOp (meSet s {} afmt int) s = (.ok g, s)) (hc : meGen s agc stg = some (c : Int)) (hcal : c % 256 = 0)
    (hcin : inWindow s.c 1 c ((rowsM1 + 1) * (4 * g.nout)) = true) (hst : bitsAt s.c.me.pcfg 32 16 % 4 = 0)
    (ha : s.HasRows asrc aga stg (rowsM1 + 1) (s.c.me.rowStride (rowBytes g.ta g.kt)) (rowBytes g.ta g.kt) a) :
    let rb := rowBytes g.ta g.kt
    runOp (mePass int afmt asrc aga agc rowsM1 z stg {}) s = (.ok (), s.stepped
      ((List.range (rowsM1 + 1)).flatMap fun i => s.passElems int g z c (rowElems g.ta g.kt (s.aRow asrc a (s.c.me.rowStride rb) rb i)) i)
      (ffTaken s.c.r.ff ((rowsM1 + 1) * ((rb + 255) / 256)) (if asrc = 0 then none else some (asrc - 1)))) := by
  have hg := meSet_checked hset
  have hdone : s.c.me.rowdone = 0 := by
    obtain ⟨-, -, -, -, -, -, -, -, -, h, -⟩ := hq
    exact h
  have hca : meAddr s none agc stg = some (c : Int) := hc
  have hstr : (if bitsAt s.c.me.pcfg 32 16 = 0 then (rowBytes g.ta g.kt + 3) / 4 * 4 else bitsAt s.c.me.pcfg 32 16)
      = s.c.me.rowStride (rowBytes g.ta g.kt) := rfl
  unfold mePass
  rw [runOp_bind_ok (runOp_getS s), runOp_meStage_active hact, runOp_bind_ok hset]
  dsimp only [Option.getD_none]
  rw [ha.addr, hca, hstr, runOp_check ?misalign, ha.window, runOp_check ?bufRange]
  case misalign =>
    rw [offAlign_ok ha.aligned, offAlign_ok hcal, decide_eq_false (not_not.2 hst)]
    rfl
  case bufRange => exact offWindow_ok hcin
  dsimp only [Int.toNat_natCast]
  rw [runOp_bind_ok (runOp_meOrder hq _ _), hdone, ha.avail hg.rowBytes_pos]
  exact runOp_meRows_elems hq fun i _ => (runOp_aRow_bind hq i _).trans (runOp_passRow hq hg _ i)

/-- The shape of a context's convolutions. -/
def State.convShape (s : State) : Shape := shapeOf (shapeBits s.c.me)

/-- The elements of row `i` of a convolution: the pixel under the tap, or padding, and zeros up to the depth of the set. -/
def State.convElems (s : State) (g : MeSet) (tap p i : Nat) : Elems :=
  ⟨(match convPixel s.convShape g.ta.width tap (p + i) with
    | some o => splitBits g.ta.width s.convShape.c (s.bufRead (winKey s.ck s.c 0 o) (s.convShape.c * g.ta.width / 8)).1
    | none => List.replicate s.convShape.c (s.convShape.padv % 2 ^ g.ta.width)) ++ List.replicate (g.kt - s.convShape.c) 0, []⟩

theorem convElems_pixel {tap p i o : Nat} (h : convPixel s.convShape g.ta.width tap (p + i) = some o) : s.convElems g tap p i
    = ⟨splitBits g.ta.width s.convShape.c (s.bufRead (winKey s.ck s.c 0 o) (s.convShape.c * g.ta.width / 8)).1
        ++ List.replicate (g.kt - s.convShape.c) 0, []⟩ := by
  unfold State.convElems
  rw [h]

theorem convElems_padding {tap p i : Nat} (h : convPixel s.convShape g.ta.width tap (p + i) = none) : s.convElems g tap p i
    = ⟨List.replicate s.convShape.c (s.convShape.padv % 2 ^ g.ta.width) ++ List.replicate (g.kt - s.convShape.c) 0, []⟩ := by
  unfold State.convElems
  rw [h]

theorem runOp_meConv {p tap : Nat} (hq : s.meQuiet) (hact : runOp (meActive s stg) s = (.ok true, s))
    (hset : runOp (meSet s {} afmt false) s = (.ok g, s)) (hc : meGen s agc stg = some (c : Int)) (hcal : c % 256 = 0)
    (hcin : inWindow s.c 1 c ((rowsM1 + 1) * (4 * g.nout)) = true) (hst : bitsAt s.c.me.pcfg 32 16 % 4 = 0) (hmx : g.ta.isMx = false)
    (hp : meGen s aga stg = some (p : Int)) (htap : tap < s.convShape.kh * s.convShape.kw) (hkt : s.convShape.c ≤ g.kt)
    (hpix : ((p + (rowsM1 + 1) : Nat) : Int) ≤ s.convShape.n * s.convShape.oh * s.convShape.ow)
    (hlen : s.convShape.c * g.ta.width / 8 % 4 = 0)
    (hin : ∀ i, i < rowsM1 + 1 → ∀ o, convPixel s.convShape g.ta.width tap (p + i) = some o →
      inWindow s.c 0 o (s.convShape.c * g.ta.width / 8) = true) :
    runOp (meConv afmt aga agc rowsM1 z stg tap {}) s = (.ok (), s.stepped
      ((List.range (rowsM1 + 1)).flatMap fun i => s.passElems false g z c (s.convElems g tap p i) i) s.c.r.ff) := by
  have hg := meSet_checked hset
  have hca : meAddr s none agc stg = some (c : Int) := hc
  have hpa : meAddr s none aga stg = some (p : Int) := hp
  have hsh : shapeOf (shapeBits s.c.me) = s.convShape := rfl
  unfold meConv
  rw [runOp_bind_ok (runOp_getS s), runOp_meStage_active hact, runOp_bind_ok hset]
  dsimp only [Option.getD_none]
  rw [hpa, hca, hsh, runOp_check ?misalign, runOp_check ?bufRange, runOp_check ?defined, runOp_check hmx, runOp_check ?shape,
    runOp_check ?pixels, runOp_check (decide_eq_false (not_not.2 hlen)), runOp_check ?inside, runOp_bind_ok (runOp_meOrder hq _ _)]
  case misalign =>
    rw [decide_eq_false (not_not.2 hst), offAlign_ok hcal]
    rfl
  case bufRange =>
    rw [offWindow_ok (inside := fun _ => true) rfl]
    exact offWindow_ok hcin
  case defined => rfl
  case shape =>
    rw [decide_eq_false (Nat.not_le.2 htap), decide_eq_false (Nat.not_lt.2 hkt)]
    rfl
  case pixels => exact decide_eq_false (Int.not_lt.2 hpix)
  case inside =>
    refine List.any_eq_false.2 fun o ho => ?_
    obtain ⟨i, hi, rfl⟩ := List.mem_map.1 ho
    have := hin i (List.mem_range.1 hi)
    dsimp only [Option.getD_some, Int.toNat_natCast]
    cases h : convPixel s.convShape g.ta.width tap (p + i) with
    | none => exact Bool.false_ne_true
    | some o => simp [this o h]
  refine runOp_meRows_elems (ff := none) hq fun i hi => ?_
  dsimp only [Option.getD_some, Int.toNat_natCast]
  rw [List.getElem?_map, List.getElem?_range hi]
  dsimp only [Option.map_some, Option.getD_some]
  cases h : convPixel s.convShape g.ta.width tap (p + i) with
  | none =>
    rw [convElems_padding h]
    exact (runOp_bind_ok (runOp_pure _ _)).trans (runOp_passRow hq hg _ i)
  | some o =>
    rw [convElems_pixel h]
    exact (runOp_bind_ok (runOp_meRead hq _ _ _ _)).trans ((runOp_bind_ok (runOp_pure _ _)).trans (runOp_passRow hq hg _ i))

end

/-- Settles O38: each row of a pass or a convolution is `runOp_passRow` at the A row that it reads. -/
theorem meDensePasses : Obligations.MeDensePasses := by
  intro s afmt aga agc rowsM1 z stg a c int g hq hact hset hc hcal hcin
  refine ⟨fun hst => ⟨fun ha hal hin => ?ab, fun k _ hk => ?fifo⟩, fun tap hst hint hmx ha htap hkt hpix hlen hin => ?conv⟩
  case ab =>
    have ho := runOp_mePass (z := z) hq hact hset hc hcal hcin hst (hasRows_ab ha hal hin)
    cases int with
    | false => exact meDoes_of_passRows hq rfl rfl hcal ho
    | true => exact meDoes_of_passRows hq rfl rfl hcal ho
  case fifo =>
    have ho := runOp_mePass (z := z) hq hact hset hc hcal hcin hst (hasRows_fifo (aga := 0) hk)
    cases int with
    | false => exact meDoes_of_passRows hq rfl rfl hcal ho
    | true => exact meDoes_of_passRows hq rfl rfl hcal ho
  case conv =>
    subst hint
    exact meDoes_of_passRows hq rfl rfl hcal (runOp_meConv hq hact hset hc hcal hcin hst hmx ha htap hkt hpix hlen hin)

end Sys2Proof.Machine

/-!
Gather passes, `g.sum` and `m.clr` (O39): each step by the elements that it writes, and the steps whose stage is not active.
-/
namespace Sys2Proof.Machine
open Sys2Proof

/-! ### Steps whose stage is not active (R204) -/

section
variable {s : State} {stg : Nat}

theorem run_inactive (hq : s.meQuiet) {i : Instr} {f : State → State} {o : Op Unit} (hi : exec i s = run f s) (hf : f s = meNext o s)
    (ho : runOp o s = (.ok (), s)) : exec i s = s.onward .me s :=
  hi.trans (run_meNext hf ho hq.drains hq.calm.2.2)

theorem runOp_staged_inactive (h : runOp (meActive s stg) s = (.ok false, s)) {o : State → Op Unit} :
    runOp (do let s ← getS; meStage s {} stg (o s)) s = (.ok (), s) :=
  (runOp_bind_ok (runOp_getS s)).trans (runOp_meStage_inactive h _)

/-! ### `m.clr` (R220) -/

theorem runOp_meGenTrap {n k : Nat} (h : meGen s n stg = some (k : Int)) : runOp (meGenTrap s n stg) s = (.ok k, s) := by
  unfold meGenTrap
  rw [h]
  dsimp only
  rw [if_neg (by omega)]
  rfl

/-- The bytes of a cleared range as elements of 0. -/
theorem writesElems_zero {ck c : Nat} (x : Ctx) (hc : c % 4 = 0) {m n : Nat} (hm : m = 4 * n) :
    WritesElems ((List.range m).map fun i => (winKey ck x 1 c + i, 0#8)) ((List.range n).map fun i => (winKey ck x 1 (c + 4 * i), 0)) where
  mem a := by
    simp only [List.mem_map, List.mem_range, exists_exists_and_eq_and, Nat.zero_div, winKey_add]
    constructor
    · rintro ⟨i, hi, rfl⟩
      exact ⟨i / 4, by omega, i % 4, Nat.mod_lt _ (by decide), congrArg (·, 0#8) (by omega)⟩
    · rintro ⟨i, hi, j, hj, rfl⟩
      exact ⟨4 * i + j, by omega, congrArg (·, 0#8) (by omega)⟩
  aligned p hp := by
    obtain ⟨i, -, rfl⟩ := List.mem_map.1 hp
    dsimp only
    rw [winKey_mod_four]
    omega
  one p hp q hq _ := by
    obtain ⟨i, -, rfl⟩ := List.mem_map.1 hp
    obtain ⟨j, -, rfl⟩ := List.mem_map.1 hq
    rfl

/-- The step of `m.clr`. -/
def meClr (s : State) (agc rowsM1 stg : Nat) : Op Unit := meStage s {} stg (do
  let c0 ← meGenTrap s agc stg
  let n := 256 * (rowsM1 + 1)
  failIf (decide (c0 % 256 ≠ 0)) .misalign
  failIf (!inWindow s.c 1 c0 n) .bufRange
  meOrder s.ck [(1, c0, c0 + n, true)] none
  meDeliver s.ck [(1, c0, c0 + n, true)] none ((List.range n).map fun i => (winKey s.ck s.c 1 c0 + i, 0#8)) 0)

theorem exec_mClr (agc rowsM1 stg : Nat) : exec (.mClr agc rowsM1 stg) s = run (fun s => meNext (meClr s agc rowsM1 stg) s) s := rfl

theorem runOp_meClr {agc rowsM1 c : Nat} (hq : s.meQuiet) (hact : runOp (meActive s stg) s = (.ok true, s)) (hc : meGen s agc stg = some (c : Int))
    (hal : c % 256 = 0) (hin : inWindow s.c 1 c (256 * (rowsM1 + 1)) = true) : runOp (meClr s agc rowsM1 stg) s
      = (.ok (), s.delivered ((List.range (256 * (rowsM1 + 1))).map fun i => (winKey s.ck s.c 1 c + i, 0#8)) 0 s.c.r.ff) := by
  unfold meClr
  rw [runOp_meStage_active hact, runOp_bind_ok (runOp_meGenTrap hc), runOp_check (decide_eq_false (not_not.2 hal)), runOp_check ?inside,
    runOp_bind_ok (runOp_meOrder hq _ _), runOp_meDeliver hq]
  case inside =>
    rw [hin]
    rfl

theorem mClr_clears {agc rowsM1 c : Nat} (hq : s.meQuiet) (hact : runOp (meActive s stg) s = (.ok true, s)) (hc : meGen s agc stg = some (c : Int))
    (hal : c % 256 = 0) (hin : inWindow s.c 1 c (256 * (rowsM1 + 1)) = true) : ∃ t, exec (.mClr agc rowsM1 stg) s = .next t
      ∧ s.meDoes t ((List.range (64 * (rowsM1 + 1))).map fun i => (winKey s.ck s.c 1 (c + 4 * i), 0)) (fun _ => False)
      ∧ t.c.r.ff = s.c.r.ff := by
  have hw := writesElems_zero (ck := s.ck) (c := c) s.c (by omega) (show 256 * (rowsM1 + 1) = 4 * (64 * (rowsM1 + 1)) by omega)
  exact meDoes_of_step hq (exec_mClr agc rowsM1 stg) rfl (runOp_meClr hq hact hc hal hin) hw fun b => by simp

end

/-! ### `g.sum` (R219) -/

theorem getLsbD_flagIf_fINV (b : Bool) (k : Nat) : (flagIf b fINV).getLsbD k = true ↔ k = 0 ∧ b = true := by
  unfold flagIf fINV
  cases b <;> simp

/-- The bytes of a row of indices. -/
def gRowBytes (m : MeRegs) : Nat := 4 * ((gJ m * gIxw m + 31) / 32)

section
variable (s : State) (i0 g0 c z : Nat)

/-- Index `k` of row `i` of a `g.sum`. -/
def State.gIndex (i k : Nat) : Nat :=
  (s.bufRead (winKey s.ck s.c 0 (i0 + i * gRowBytes s.c.me)) (gRowBytes s.c.me)).1 / 2 ^ (gIxw s.c.me * k) % 2 ^ gIxw s.c.me

/-- The galley entry that it names. -/
def State.gTerm (i k : Nat) : FVal :=
  FFmt.f32.read (s.c.stream .me).num.flush (s.bufRead (galleyKey s.ck s.c
    (g0 + k * gNcw s.c.me + if gNcw s.c.me ≤ s.gIndex i0 i k then gSpec s.c.me else s.gIndex i0 i k)) 4).1

/-- The block sum of the entries of a row. -/
def State.gBlock (i : Nat) : FVal × Flags :=
  blockSum (sumWindow (s.c.stream .me).num.nbl) ((List.range (gJ s.c.me)).map (s.gTerm i0 g0 i))

/-- The element that the sum is added to. -/
def State.gOut (i : Nat) : Nat × Flags :=
  accumF32 (s.c.stream .me).num (if z = 1 then 0 else (s.bufRead (winKey s.ck s.c 1 (c + 4 * i)) 4).1) (s.gBlock i0 g0 i).1

/-- The element of row `i`, with every flag that the row raises. -/
def State.gElem (i : Nat) : Nat × Flags :=
  ((s.gOut i0 g0 c z i).1, (s.gBlock i0 g0 i).2 ||| (s.gOut i0 g0 c z i).2
    ||| flagIf (((List.range (gJ s.c.me)).map (s.gIndex i0 i)).any fun q => decide (gNcw s.c.me ≤ q)) fINV
    ||| flagIf (((List.range (gJ s.c.me)).map (s.gTerm i0 g0 i)).any FVal.isSig) fINV)

theorem getLsbD_gElem (i b : Nat) : (s.gElem i0 g0 c z i).2.getLsbD b = true
    ↔ (s.gOut i0 g0 c z i).2.getLsbD b = true ∨ (s.gBlock i0 g0 i).2.getLsbD b = true
      ∨ b = 0 ∧ ∃ k, k < gJ s.c.me ∧ (gNcw s.c.me ≤ s.gIndex i0 i k ∨ (s.gTerm i0 g0 i k).isSig = true) := by
  unfold State.gElem
  simp only [BitVec.getLsbD_or, Bool.or_eq_true, getLsbD_flagIf_fINV, List.any_map, List.any_eq_true, List.mem_range, Function.comp_apply,
    decide_eq_true_eq, and_or_left, exists_or, or_assoc]
  exact or_left_comm

end

section
variable {s : State} {stg agg agi agc z rowsM1 i0 g0 c : Nat}

theorem runOp_gRow (hq : s.meQuiet) (i : Nat) : runOp (do
      let v ← meRead s.ck i (winKey s.ck s.c 0 (i0 + i * gRowBytes s.c.me)) (gRowBytes s.c.me)
      let qs := splitBits (gIxw s.c.me) (gJ s.c.me) v
      let ts ← opMap (fun (p : Nat × Nat) =>
        meRead s.ck i (galleyKey s.ck s.c (g0 + p.1 * gNcw s.c.me + if gNcw s.c.me ≤ p.2 then gSpec s.c.me else p.2)) 4) (enum qs)
      let vals := ts.map (FFmt.f32.read (s.c.stream .me).num.flush)
      let (b, f) := blockSum (sumWindow (s.c.stream .me).num.nbl) vals
      let key := winKey s.ck s.c 1 (c + 4 * i)
      let acc ← if z = 1 then pure 0 else meRead s.ck i key 4
      let (r, f') := accumF32 (s.c.stream .me).num acc b
      pure (cell4 key r, f ||| f' ||| flagIf (qs.any fun q => decide (gNcw s.c.me ≤ q)) fINV
        ||| flagIf (vals.any FVal.isSig) fINV)) s
    = (.ok (cell4 (winKey s.ck s.c 1 (c + 4 * i)) (s.gElem i0 g0 c z i).1, (s.gElem i0 g0 c z i).2), s) := by
  have hacc (k : Nat → Op (List (Nat × BitVec 8) × Flags)) : runOp (if z = 1 then do
        let acc ← pure 0
        k acc
      else do
        let acc ← meRead s.ck i (winKey s.ck s.c 1 (c + 4 * i)) 4
        k acc) s = runOp (k (if z = 1 then 0 else (s.bufRead (winKey s.ck s.c 1 (c + 4 * i)) 4).1)) s := by
    split
    · exact runOp_bind_ok (runOp_pure _ _)
    · exact runOp_bind_ok (runOp_meRead hq _ _ _ _)
  have hterms := opMap_ok (s := s) (f := fun p : Nat × Nat => meRead s.ck i (galleyKey s.ck s.c
      (g0 + p.1 * gNcw s.c.me + if gNcw s.c.me ≤ p.2 then gSpec s.c.me else p.2)) 4)
    (enum ((List.range (gJ s.c.me)).map (s.gIndex i0 i))) fun p _ => runOp_meRead hq _ _ _ _
  rw [runOp_bind_ok (runOp_meRead hq _ _ _ _), splitBits_eq]
  refine (runOp_bind_ok hterms).trans ((hacc _).trans ?_)
  rw [enum_map_range, List.map_map, List.map_map]
  rfl

theorem gSum_adds (hq : s.meQuiet) (hact : runOp (meActive s stg) s = (.ok true, s)) (hg : meGen s agg stg = some (g0 : Int))
    (hi : meGen s agi stg = some (i0 : Int)) (hc : meGen s agc stg = some (c : Int)) (hial : i0 % 4 = 0) (hcal : c % 4 = 0)
    (hiin : inWindow s.c 0 i0 ((rowsM1 + 1) * gRowBytes s.c.me) = true) (hcin : inWindow s.c 1 c (4 * (rowsM1 + 1)) = true)
    (hgin : g0 + gJ s.c.me * gNcw s.c.me ≤ s.c.galleyEntries) : ∃ t, exec (.gSum agg agi agc z rowsM1 stg) s = .next t
      ∧ s.meDoes t ((List.range (rowsM1 + 1)).map fun i => (winKey s.ck s.c 1 (c + 4 * i), (s.gOut i0 g0 c z i).1))
        (fun b => ∃ i, i < rowsM1 + 1 ∧ ((s.gOut i0 g0 c z i).2.getLsbD b = true ∨ (s.gBlock i0 g0 i).2.getLsbD b = true
          ∨ b = 0 ∧ ∃ k, k < gJ s.c.me ∧ (gNcw s.c.me ≤ s.gIndex i0 i k ∨ (s.gTerm i0 g0 i k).isSig = true)))
      ∧ t.c.r.ff = s.c.r.ff := by
  have ho : runOp (meGsum agg agi agc z rowsM1 stg {}) s
      = (.ok (), s.stepped ((List.range (rowsM1 + 1)).map fun i => (winKey s.ck s.c 1 (c + 4 * i), s.gElem i0 g0 c z i)) s.c.r.ff) := by
    have hrow : gRowBytes s.c.me = 4 * ((gJ s.c.me * gIxw s.c.me + 31) / 32) := rfl
    unfold meGsum
    rw [runOp_bind_ok (runOp_getS s), runOp_meStage_active hact, runOp_bind_ok (runOp_meGenTrap hg)]
    dsimp only [Option.getD_none]
    rw [runOp_bind_ok (runOp_meGenTrap hi), runOp_bind_ok (runOp_meGenTrap hc), ← hrow, runOp_check ?misalign, runOp_check ?bufRange,
      runOp_bind_ok (runOp_meOrder hq _ _), runOp_bind_ok (opMap_ok _ fun i _ => runOp_gRow hq i), runOp_meDeliver hq, State.stepped,
      elemsOut_eq, List.map_map]
    case misalign =>
      rw [decide_eq_false (not_not.2 hial), decide_eq_false (not_not.2 hcal)]
      rfl
    case bufRange =>
      rw [hiin, hcin, decide_eq_false (Nat.not_lt.2 hgin)]
      rfl
    rfl
  refine meDoes_of_elems hq rfl rfl ho (P := fun i => i < rowsM1 + 1) (key := fun i => winKey s.ck s.c 1 (c + 4 * i))
    (val := s.gElem i0 g0 c z) (fun x => ?_) (fun i _ => ?_) (fun i j _ _ he => ?_) (fun p => ?_) fun b => ?_
  · simp only [List.mem_map, List.mem_range, eq_comm]
  · rw [winKey_mod_four]
    omega
  · simp only [winKey_add] at he
    omega
  · simp only [List.mem_map, List.mem_range, eq_comm]
    rfl
  · simp only [getLsbD_gElem]

end

/-! ### The galley (R17) -/

theorem galleyKey_aligned (ck : Nat) (c : Ctx) (e : Nat) : galleyKey ck c e % 4 = 0 := by
  unfold galleyKey bufKey
  omega

/-- The entries of a context's quarters have places of their own. -/
theorem galleyKey_inj {ck : Nat} {c : Ctx} {e f : Nat} (he : e < c.galleyEntries) (hf : f < c.galleyEntries)
    (h : galleyKey ck c e = galleyKey ck c f) : e = f := by
  have hnodup : c.quarters.Nodup := List.nodup_range.filter _
  unfold Ctx.galleyEntries at he hf
  have hlt : ∀ {e}, e < 4096 * c.quarters.length → e / 4096 < c.quarters.length := fun h => by omega
  unfold galleyKey bufKey at h
  rw [List.getElem?_eq_getElem (hlt he), List.getElem?_eq_getElem (hlt hf), Option.getD_some, Option.getD_some] at h
  have hq : c.quarters[e / 4096]'(hlt he) = c.quarters[f / 4096]'(hlt hf) := by omega
  have hi := (hnodup.getElem_inj_iff).1 hq
  omega

/-! ### Rows of a gather pass (R218) -/

/-- A part of a list, `d` elements long. -/
def piece (d : Nat) (l : List Nat) (q : Nat) : List Nat := (l.drop (q * d)).take d

theorem pieces_eq (d : Nat) : ∀ (n : Nat) (l : List Nat), pieces d n l = (List.range n).map (piece d l)
  | 0, _ => rfl
  | n + 1, l => by
    rw [pieces, pieces_eq d n, List.range_succ_eq_map, List.map_cons, List.map_map]
    refine congrArg₂ List.cons (by simp [piece]) (List.map_congr_left fun q _ => ?_)
    simp only [piece, List.drop_drop, Function.comp_apply, Nat.succ_mul, Nat.add_comm d]

theorem enum_of_range {α : Type} (f : Nat → α) (n : Nat) : enum ((List.range n).map f) = (List.range n).map fun i => (i, f i) := by
  refine List.ext_getElem (by simp [enum]) fun i _ _ => ?_
  simp [enum]

/-- The elements of column `p` of a set. -/
def State.colBits (s : State) (g : MeSet) (p : Nat) : List Nat := ((g.cols s)[p]?.map (·.bits)).getD []

/-- The first columns of a set, in pieces. -/
theorem cols_pieces {s : State} {g : MeSet} {n : Nat} (h : n ≤ (g.cols s).length) (d jp : Nat) :
    ((g.cols s).take n).map (fun c => pieces d jp c.bits) = (List.range n).map fun p => (List.range jp).map (piece d (s.colBits g p)) := by
  refine List.ext_getElem (by simpa using h) fun p hp _ => ?_
  have hp' : p < (g.cols s).length := by
    rw [List.length_map, List.length_take] at hp
    omega
  rw [List.getElem_map, List.getElem_take, List.getElem_map, List.getElem_range, pieces_eq, State.colBits,
    List.getElem?_eq_getElem hp']
  rfl

/-- Segments per column of a set (R218). -/
def MeSet.segments (g : MeSet) (m : MeRegs) : Nat := g.tb.depth / gDlen m

section
variable (s : State) (fa fb : FFmt) (g : MeSet) (e : Nat) (row : Nat → Nat)

/-- The key of the entry of segment `q` of row `i` and codeword `p`. -/
def State.entryKey (i q p : Nat) : Nat :=
  galleyKey s.ck s.c (e + i * gNcw s.c.me * g.segments s.c.me + q * gNcw s.c.me + p)

/-- That entry, with its flags. -/
def State.entry (i q p : Nat) : Nat × Flags :=
  gEntry (s.c.stream .me).num fa fb (piece (gDlen s.c.me) (rowElems g.ta g.kt (row i)).bits q) (piece (gDlen s.c.me) (s.colBits g p) q)

/-- The entries of row `i`, in the order of the model. -/
def State.entries (i : Nat) : List (Nat × Nat × Flags) :=
  (List.range (gNcw s.c.me)).flatMap fun p => (List.range (g.segments s.c.me)).map fun q => (s.entryKey g e i q p, s.entry fa fb g row i q p)

variable {s fa fb g e row}

/-- The model forms the entries of a row column by column. -/
theorem entries_eq (hn : gNcw s.c.me ≤ (g.cols s).length) (i : Nat) :
    ((enum (((g.cols s).take (gNcw s.c.me)).map fun c => pieces (gDlen s.c.me) (g.segments s.c.me) c.bits)).flatMap fun p =>
      (enum ((pieces (gDlen s.c.me) (g.segments s.c.me) (rowElems g.ta g.kt (row i)).bits).zip p.2)).map fun q =>
        (cell4 (galleyKey s.ck s.c (e + i * gNcw s.c.me * g.segments s.c.me + q.1 * gNcw s.c.me + p.1))
          (gEntry (s.c.stream .me).num fa fb q.2.1 q.2.2).1, (gEntry (s.c.stream .me).num fa fb q.2.1 q.2.2).2))
      = (s.entries fa fb g e row i).map fun x => (cell4 x.1 x.2.1, x.2.2) := by
  rw [cols_pieces hn, enum_of_range, List.flatMap_map, State.entries, List.map_flatMap]
  refine congrArg (List.flatMap · _) (funext fun p => ?_)
  dsimp only
  rw [pieces_eq, List.zip_map', enum_of_range, List.map_map, List.map_map]
  rfl

/-- An index of an entry. -/
theorem entry_lt {rows i q p : Nat} (hi : i < rows) (hq : q < g.segments s.c.me) (hp : p < gNcw s.c.me) :
    i * gNcw s.c.me * g.segments s.c.me + q * gNcw s.c.me + p < rows * gNcw s.c.me * g.segments s.c.me := by
  have h := mul_add_lt_mul (mul_add_lt_mul hi hq) hp
  calc i * gNcw s.c.me * g.segments s.c.me + q * gNcw s.c.me + p
      = (i * g.segments s.c.me + q) * gNcw s.c.me + p := by ring
    _ < rows * g.segments s.c.me * gNcw s.c.me := h
    _ = rows * gNcw s.c.me * g.segments s.c.me := by ring

theorem entryKey_inj {rows i q p i' q' p' : Nat} (hin : e + rows * gNcw s.c.me * g.segments s.c.me ≤ s.c.galleyEntries)
    (hi : i < rows) (hq : q < g.segments s.c.me) (hp : p < gNcw s.c.me) (hi' : i' < rows) (hq' : q' < g.segments s.c.me)
    (hp' : p' < gNcw s.c.me) (h : s.entryKey g e i q p = s.entryKey g e i' q' p') : i = i' ∧ q = q' ∧ p = p' := by
  have h1 := entry_lt hi hq hp
  have h2 := entry_lt hi' hq' hp'
  have he := galleyKey_inj (by omega) (by omega) h
  have hsum : ∀ i q p, e + i * gNcw s.c.me * g.segments s.c.me + q * gNcw s.c.me + p
      = e + ((i * g.segments s.c.me + q) * gNcw s.c.me + p) := fun i q p => by ring
  rw [hsum, hsum] at he
  obtain ⟨h3, rfl⟩ := row_place_inj hp hp' (Nat.add_left_cancel he)
  obtain ⟨rfl, rfl⟩ := row_place_inj hq hq' h3
  exact ⟨rfl, rfl, rfl⟩

end

/-! ### `m.gpass` (R218) -/

section
variable {s : State} {afmt asrc aga agg rowsM1 stg a e : Nat} {g : MeSet} {fa fb : FFmt}

theorem runOp_meGpass (hq : s.meQuiet) (hact : runOp (meActive s stg) s = (.ok true, s)) (hset : runOp (meSet s {} afmt false) s = (.ok g, s))
    (hta : g.ta = .flt fa) (htb : g.tb = .flt fb) (hgang : g.gangK = false) (hncw : gNcw s.c.me ≤ 64 * g.phys.length)
    (he : meGen s agg stg = some (e : Int)) (hin : e + (rowsM1 + 1) * gNcw s.c.me * g.segments s.c.me ≤ s.c.galleyEntries)
    (hst : bitsAt s.c.me.pcfg 32 16 % 4 = 0)
    (ha : s.HasRows asrc aga stg (rowsM1 + 1) (s.c.me.rowStride (rowBytes g.ta g.kt)) (rowBytes g.ta g.kt) a) :
    let rb := rowBytes g.ta g.kt
    runOp (meGpass afmt asrc aga agg rowsM1 stg {}) s = (.ok (), s.stepped
      ((List.range (rowsM1 + 1)).flatMap (s.entries fa fb g e (s.aRow asrc a (s.c.me.rowStride rb) rb)))
      (ffTaken s.c.r.ff ((rowsM1 + 1) * ((rb + 255) / 256)) (if asrc = 0 then none else some (asrc - 1)))) := by
  have hg := meSet_checked hset
  have hcols : gNcw s.c.me ≤ (g.cols s).length := by
    rw [hg.length_cols, hg.nout, hgang]
    exact hncw
  have hdone : s.c.me.rowdone = 0 := by
    obtain ⟨-, -, -, -, -, -, -, -, -, h, -⟩ := hq
    exact h
  have hea : meAddr s none agg stg = some (e : Int) := he
  have hrow := fun i => entries_eq (fa := fa) (fb := fb) (e := e)
    (row := s.aRow asrc a (s.c.me.rowStride (rowBytes g.ta g.kt)) (rowBytes g.ta g.kt)) hcols i
  have hstr : (if bitsAt s.c.me.pcfg 32 16 = 0 then (rowBytes g.ta g.kt + 3) / 4 * 4 else bitsAt s.c.me.pcfg 32 16)
      = s.c.me.rowStride (rowBytes g.ta g.kt) := rfl
  have havail := ha.avail hg.rowBytes_pos
  unfold meGpass
  rw [runOp_bind_ok (runOp_getS s), runOp_meStage_active hact, runOp_bind_ok hset]
  dsimp only [Option.getD_none]
  rw [ha.addr, hea, hstr, runOp_check ?misalign, runOp_check ha.window, runOp_check ?defined]
  case misalign =>
    rw [offAlign_ok ha.aligned, decide_eq_false (not_not.2 hst)]
    rfl
  case defined => rfl
  split
  next fa' fb' hta' htb' =>
    cases hta.symm.trans hta'
    cases htb.symm.trans htb'
    dsimp only [Option.getD_some, Int.toNat_natCast]
    rw [hgang, decide_eq_false (Nat.not_lt.2 hncw), runOp_check ?config, runOp_check ?bufRange, runOp_bind_ok (runOp_meOrder hq _ _),
      hdone, havail]
    case config => rfl
    case bufRange =>
      rw [decide_eq_false (by omega)]
      exact decide_eq_false (Nat.not_lt.2 hin)
    refine runOp_meRows_elems hq fun i _ => (runOp_aRow_bind hq i _).trans ?_
    rw [colsAt_self hq, elemsOut_eq, ← hrow]
    rfl
  next h => exact (h fa fb hta htb).elim

/-- A gather pass leaves the entries of its rows. -/
theorem meDoes_of_entries (hq : s.meQuiet) {w : Instr} {f : State → State} {o : Op Unit} (hi : exec w s = run f s)
    (hf : f s = meNext o s) {rows : Nat} {row : Nat → Nat} {ff : Vector (List (BitVec 2048)) 2}
    (hin : e + rows * gNcw s.c.me * g.segments s.c.me ≤ s.c.galleyEntries)
    (ho : runOp o s = (.ok (), s.stepped ((List.range rows).flatMap (s.entries fa fb g e row)) ff)) :
    ∃ t, exec w s = .next t
      ∧ s.meDoes t ((List.range rows).flatMap fun i => (List.range (g.segments s.c.me)).flatMap fun q =>
          (List.range (gNcw s.c.me)).map fun p => (s.entryKey g e i q p, (s.entry fa fb g row i q p).1))
        (fun b => ∃ i q p, i < rows ∧ q < g.segments s.c.me ∧ p < gNcw s.c.me ∧ (s.entry fa fb g row i q p).2.getLsbD b = true)
      ∧ t.c.r.ff = ff := by
  refine meDoes_of_elems hq hi hf ho
    (P := fun x : Nat × Nat × Nat => x.1 < rows ∧ x.2.1 < g.segments s.c.me ∧ x.2.2 < gNcw s.c.me)
    (key := fun x => s.entryKey g e x.1 x.2.1 x.2.2) (val := fun x => s.entry fa fb g row x.1 x.2.1 x.2.2)
    (fun x => ?_) (fun x _ => galleyKey_aligned _ _ _) (fun x y hx hy he => ?_) (fun x => ?_) fun b => ?_
  · simp only [State.entries, List.mem_flatMap, List.mem_map, List.mem_range, Prod.exists]
    constructor
    · rintro ⟨i, hi, p, hp, q, hq, rfl⟩
      exact ⟨i, q, p, ⟨hi, hq, hp⟩, rfl⟩
    · rintro ⟨i, q, p, ⟨hi, hq, hp⟩, rfl⟩
      exact ⟨i, hi, p, hp, q, hq, rfl⟩
  · obtain ⟨hi, hq, hp⟩ := hx
    obtain ⟨hi', hq', hp'⟩ := hy
    obtain ⟨h1, h2, h3⟩ := entryKey_inj hin hi hq hp hi' hq' hp' he
    exact Prod.ext h1 (Prod.ext h2 h3)
  · simp only [List.mem_flatMap, List.mem_map, List.mem_range, Prod.exists, ← exists_and_left, and_assoc, eq_comm]
  · simp only [Prod.exists, and_assoc]

end

/-- Settles O39: a step whose stage is not active does nothing; `m.clr`, `g.sum` and the gather passes each by their elements. -/
theorem meGatherPassesAndClears : Obligations.MeGatherPassesAndClears := by
  intro s afmt agi aga agc agg rowsM1 z stg i0 c g0 g fa fb hq
  refine ⟨fun hidle i hi => ?idle, fun hact => ⟨mClr_clears hq hact, gSum_adds hq hact, ?gather⟩⟩
  case idle =>
    simp only [List.mem_cons, List.not_mem_nil, or_false] at hi
    obtain rfl | rfl | rfl | rfl | rfl | rfl := hi
    · exact run_inactive hq rfl rfl (runOp_staged_inactive hidle)
    · exact run_inactive hq rfl rfl (runOp_staged_inactive hidle)
    · exact run_inactive hq rfl rfl (runOp_staged_inactive hidle)
    · exact run_inactive hq rfl rfl (runOp_staged_inactive hidle)
    · exact run_inactive hq rfl rfl (runOp_staged_inactive hidle)
    · exact run_inactive hq (exec_mClr agc rowsM1 stg) rfl (runOp_meStage_inactive hidle _)
  case gather =>
    intro d jp ncw rb astride astr need part cell done hset hta htb hgang hncw hg0 hin hst
    refine ⟨fun ha hal hwin => ?_, fun k _ hk => ?_⟩
    · have ho := runOp_meGpass hq hact hset hta htb hgang hncw hg0 hin hst (hasRows_ab ha hal hwin)
      exact (meDoes_of_entries (w := .mGpass afmt 0 aga agg rowsM1 stg) hq rfl rfl hin ho :)
    · have ho := runOp_meGpass hq hact hset hta htb hgang hncw hg0 hin hst (hasRows_fifo (aga := 0) hk)
      exact (meDoes_of_entries (w := .mGpass afmt (k + 1) 0 agg rowsM1 stg) hq rfl rfl hin ho :)

end Sys2Proof.Machine

/-!
ME's register, shape, queue, synchronisation, loop and branch words (O40): what a trap of ME leaves, a register that reads back, and each word by its step.
-/
namespace Sys2Proof.Machine
open Sys2Proof

/-! ### A trap of ME (R203, R215, R395) -/

section
variable {s : State} {ck : Nat}

/-- A hard stop of a context with no instruction of SQ issued and no step of ME draining. -/
theorem hardStop_quiet (hp : (s.ctx ck).r.pend = none) (hd : (s.ctx ck).r.me.drains = []) :
    ((hardStop ck s).ctx ck).stream .me = haltStream ((s.ctx ck).stream .me) ∧ ((hardStop ck s).ctx ck).r.me = (s.ctx ck).r.me
      ∧ ((hardStop ck s).ctx ck).halt = (s.ctx ck).halt ∧ (hardStop ck s).mem = s.mem ∧ (hardStop ck s).buf = s.buf
      ∧ (hardStop ck s).wbuf = s.wbuf ∧ (hardStop ck s).bbuf = s.bbuf := by
  have hcoll : collectPend ck s = s.modRegs ck fun r => { r with pend := none } := by
    unfold collectPend
    rw [hp]
  have hcc : (collectPend ck s).ctx ck = { s.ctx ck with r := { (s.ctx ck).r with pend := none } } := by
    rw [hcoll, ctx_modRegs]
  have hflush : flushDrains ck (collectPend ck s) = (collectPend ck s).modRegs ck fun r => { r with me := { r.me with drains := [] } } := by
    unfold flushDrains
    rw [hcc]
    dsimp only
    rw [hd]
    rfl
  have hfc : (flushDrains ck (collectPend ck s)).ctx ck = { s.ctx ck with r := { (s.ctx ck).r with pend := none } } := by
    rw [hflush, ctx_modRegs, hcc]
    dsimp only
    rw [← hd]
  have hb := ctx_modRegs (flushDrains ck (collectPend ck s)) ck fun r => { r with streams := r.streams.map haltStream, ve := { r.ve with group := {} } }
  rw [hfc] at hb
  unfold hardStop
  rw [hd]
  dsimp only [List.find?_nil]
  refine ⟨(congrArg (fun c : Ctx => c.stream .me) hb :).trans (Vector.getElem_map _ _), (congrArg (fun c : Ctx => c.r.me) hb :),
    (congrArg Ctx.halt hb :), ?_, ?_, ?_, ?_⟩
  all_goals
    rw [hflush, hcoll]
    rfl

/-- What a trap of ME leaves of it: its cause is the stream's first, and the context halts with it (R395, R397). -/
theorem takeTrap_me (hp : (s.ctx ck).r.pend = none) (hd : (s.ctx ck).r.me.drains = []) (hh : (s.ctx ck).halt = none)
    (h0 : ((s.ctx ck).stream .me).cause = 0) (c : Cause) (code faddr auxf elog : Nat) (restart : Bool) :
    let t := takeTrap ck .me c code faddr auxf elog restart s
    (t.ctx ck).st = .halting ∧ (t.ctx ck).halt = some ⟨2, c.code, restart, code, faddr, auxf, elog⟩
      ∧ (t.ctx ck).stream .me = haltStream { (s.ctx ck).stream .me with cause := c.code, recorded := none }
      ∧ (t.ctx ck).r.me = (s.ctx ck).r.me ∧ t.mem = s.mem ∧ t.buf = s.buf ∧ t.wbuf = s.wbuf ∧ t.bbuf = s.bbuf := by
  have hn := ctx_modStream s ck .me fun st => if st.cause = 0 then { st with cause := c.code, recorded := none } else st
  have hnme : ((noteCause ck .me c none s).ctx ck).r.me = (s.ctx ck).r.me := (congrArg (fun c : Ctx => c.r.me) hn :)
  have hnst : ((noteCause ck .me c none s).ctx ck).stream .me
      = { (s.ctx ck).stream .me with cause := c.code, recorded := none } := by
    refine (congrArg (fun c : Ctx => c.stream .me) hn :).trans ?_
    rw [regs_stream_modStream, if_pos h0]
  have hnhalt : ((noteCause ck .me c none s).ctx ck).halt = none := (congrArg Ctx.halt hn :).trans hh
  obtain ⟨hst, hme, hhalt, hmem, hbuf, hwb, hbb⟩ := hardStop_quiet (s := noteCause ck .me c none s)
    ((congrArg (fun c : Ctx => c.r.pend) hn :).trans hp) (by rw [hnme]; exact hd)
  dsimp only
  unfold takeTrap stopContext
  dsimp only
  rw [ctx_modCtx]
  refine ⟨rfl, ?_, hst.trans (congrArg haltStream hnst), hme.trans hnme, hmem, hbuf, hwb, hbb⟩
  show (match ((hardStop ck (noteCause ck .me c none s)).ctx ck).halt with | some y => _ | none => _) = _
  rw [hhalt, hnhalt]

end

section
variable {s : State} {f : State → State} {i : Instr}

/-- The registers of ME after a trap: the progress of the word is forgotten (R203, R215, R222). -/
def MeRegs.trapped (c : Cause) (m : MeRegs) : MeRegs :=
  { m with badEntry := if c = .meTq then m.popped else m.badEntry, popped := none, rowdone := 0, stepFlags := 0, inve := none }

/-- A quiet ME has no progress to forget. -/
theorem State.meQuiet.trapped (hq : s.meQuiet) {c : Cause} (hc : c ≠ .meTq) : s.c.me.trapped c = s.c.me := by
  obtain ⟨-, -, -, -, hinve, -, -, -, -, hrow, hfl, hpop, -⟩ := hq
  unfold MeRegs.trapped
  rw [if_neg hc, ← hinve, ← hrow, ← hfl, ← hpop]

/-- A word of ME that traps stops its context and leaves ME's registers and the bytes. -/
theorem meTraps_of_trap (hq : s.meQuiet) {o : Op Unit} {c : Cause} (hi : exec i s = run f s) (hf : f s = meNext o s)
    (hpar : c ≠ .platenPar) (htq : c ≠ .meTq) (ho : runOp o s = (.error (.trap c 0 0 0 0), s)) : s.meTraps c i := by
  intro hh hp h0
  obtain ⟨hwb, hbb, hstuck⟩ := hq.calm
  have hword : f s = takeTrap s.ck .me c 0 0 0 0 true (modMe s.ck (MeRegs.trapped c) s) := by
    rw [hf]
    unfold meNext meWord
    rw [runOp_bind_error ho]
    dsimp only
    rw [if_neg hpar]
    rfl
  have hctx : (modMe s.ck (MeRegs.trapped c) s).ctx s.ck = { s.c with r := { s.c.r with me := s.c.me.trapped c } } := ctx_modRegs _ _ _
  have hst : ((modMe s.ck (MeRegs.trapped c) s).ctx s.ck).stream .me = s.c.stream .me := (congrArg (fun c : Ctx => c.stream .me) hctx :)
  have hme : ((modMe s.ck (MeRegs.trapped c) s).ctx s.ck).r.me = s.c.me := (congrArg (fun c : Ctx => c.r.me) hctx :).trans (hq.trapped htq)
  obtain ⟨hhalting, hhalt, hstream, hregs, hmem, hbuf, hwb', hbb'⟩ := takeTrap_me (ck := s.ck) (s := modMe s.ck (MeRegs.trapped c) s)
    ((congrArg (fun c : Ctx => c.r.pend) hctx :).trans hp) (by rw [hme]; exact hq.drains)
    ((congrArg Ctx.halt hctx :).trans hh) (by rw [hst]; exact h0) c 0 0 0 0 true
  rw [← hword] at hhalting hhalt hstream hregs hmem hbuf hwb' hbb'
  refine ⟨settle s (f s), hi.trans (run_next (by rw [hword, takeTrap_stuck]; exact hstuck)), hhalting, hhalt, ?_, ?_, hregs.trans hme, ?_, ?_⟩
  · rw [settle_ctx, hstream, hst]
    rfl
  · rw [settle_ctx, hstream]
    rfl
  · rw [settle_calm hq.calm hmem hbuf hwb' hbb']
    exact hmem
  · rw [settle_calm hq.calm hmem hbuf hwb' hbb']
    exact hbuf

end

/-! ### Control registers (R201, R202) -/

section
variable {s : State} {csel off imm : Nat}

/-- What a write of a register of ME makes of the registers. -/
def meCrRegs (csel : Nat) (v : BitVec 64) (r : Regs) : Regs :=
  if csel = 0x20 then { r with me := { r.me with pcfg := v } }
  else if csel = 0x21 then { r with me := { r.me with prio := v } }
  else if csel = 0x22 then { r with me := { r.me with gcfg := v } }
  else if csel = 0x23 then { r with me := { r.me with mectl := v } }
  else if 0x28 ≤ csel ∧ csel < 0x30 then { r with me := { r.me with tlx := vset r.me.tlx (csel - 0x28) v } }
  else if 0x30 ≤ csel ∧ csel < 0x38 then { r with me := { r.me with ag := vset r.me.ag (csel - 0x30) v } }
  else crRegs .me csel v.toNat r

theorem meCrWrite_eq (ck csel : Nat) (v : BitVec 64) (s : State) : meCrWrite ck csel v s = s.modRegs ck (meCrRegs csel v) := by
  unfold meCrWrite meCrRegs
  split_ifs
  case neg => exact crWrite_eq ck .me csel v.toNat s
  all_goals rfl

theorem crRegs_me (u : StreamId) (csel v : Nat) (r : Regs) : (crRegs u csel v r).me = r.me := by
  unfold crRegs
  split <;> rfl

theorem meCrRegs_drains (csel : Nat) (v : BitVec 64) (r : Regs) : (meCrRegs csel v r).me.drains = r.me.drains := by
  unfold meCrRegs
  split_ifs
  case neg => rw [crRegs_me]
  all_goals rfl

/-- The registers of ME that no other stream has. -/
def MeOwn (csel : Nat) : Prop := 0x20 ≤ csel ∧ csel < 0x38 ∧ (csel < 0x24 ∨ 0x28 ≤ csel)

/-- A register of ME's own reads back as it was written, in any state with these registers of ME. -/
theorem meCrRead_of_written {t : State} {v : BitVec 64} {r : Regs} (hown : MeOwn csel) (ht : t.c.me = (meCrRegs csel v r).me) :
    meCrRead t csel = v := by
  have hcases : csel = 0x20 ∨ csel = 0x21 ∨ csel = 0x22 ∨ csel = 0x23 ∨ (0x28 ≤ csel ∧ csel < 0x30) ∨ (0x30 ≤ csel ∧ csel < 0x38) := by
    unfold MeOwn at hown
    omega
  unfold meCrRead
  rw [ht]
  unfold meCrRegs
  obtain rfl | rfl | rfl | rfl | htlx | hag := hcases
  · rfl
  · rfl
  · rfl
  · rfl
  · have hpcfg : csel ≠ 0x20 := by omega
    have hprio : csel ≠ 0x21 := by omega
    have hgcfg : csel ≠ 0x22 := by omega
    have hectl : csel ≠ 0x23 := by omega
    simp only [if_neg hpcfg, if_neg hprio, if_neg hgcfg, if_neg hectl, if_pos htlx]
    exact vget_vset_same _ _ (by omega) _
  · have hpcfg : csel ≠ 0x20 := by omega
    have hprio : csel ≠ 0x21 := by omega
    have hgcfg : csel ≠ 0x22 := by omega
    have hectl : csel ≠ 0x23 := by omega
    have htlx : ¬ (0x28 ≤ csel ∧ csel < 0x30) := by omega
    simp only [if_neg hpcfg, if_neg hprio, if_neg hgcfg, if_neg hectl, if_neg htlx, if_pos hag]
    exact vget_vset_same _ _ (by omega) _

/-- A step of ME that writes a register of R201 and goes on. -/
theorem run_meCrWrite (hq : s.meQuiet) {i : Instr} {f : State → State} {o : Op Unit} {v : BitVec 64} (hi : exec i s = run f s)
    (hf : f s = meNext o s) (ho : runOp o s = (.ok (), meCrWrite s.ck csel v s)) : exec i s = s.onward .me (meCrWrite s.ck csel v s)
      ∧ (MeOwn csel → ∀ t, exec i s = .next t → meCrRead t csel = v) := by
  rw [hi]
  have hw := meCrWrite_eq s.ck csel v s
  have hctx : (meCrWrite s.ck csel v s).ctx s.ck = { s.c with r := meCrRegs csel v s.c.r } := by
    rw [hw, ctx_modRegs]
    rfl
  have hrun : run f s = s.onward .me (meCrWrite s.ck csel v s) := by
    refine run_meNext hf ho ?_ ?_
    · rw [hctx]
      exact (meCrRegs_drains csel v s.c.r).trans hq.drains
    · rw [hw]
      exact hq.calm.2.2
  refine ⟨hrun, fun hown t ht => meCrRead_of_written (r := s.c.r) hown ?_⟩
  cases hrun.symm.trans ht
  have hwho : (settle s (endUnit s.ck .me (s.c.stream .me).next (meCrWrite s.ck csel v s))).who = s.who := by
    rw [hw]
    rfl
  rw [c_of_who hwho, settle_ctx, endUnit_ctx, hctx]
  rfl

/-- The check of the window and the read of `n` bytes with which a word of ME that reads AB begins. -/
theorem runOp_meAbRead (hq : s.meQuiet) {a n : Nat} (hin : inWindow s.c 0 a n = true) (ranges : List (Nat × Nat × Nat × Bool))
    (k : Nat → Op Unit) : runOp (do
      failIf (!inWindow s.c 0 a n) .bufRange
      meOrder s.ck ranges none
      let v ← meRead s.ck 0 (winKey s.ck s.c 0 a) n
      k v) s = runOp (k (winRead s.ck 0 a n s).1) s := by
  rw [runOp_check ?inside, runOp_bind_ok (runOp_meOrder hq _ _)]
  case inside =>
    rw [hin]
    rfl
  exact runOp_bind_ok (runOp_meRead hq _ _ _ _)

/-- The step of `m.cr.ld`. -/
def meCrLd (s : State) (csel off : Nat) : Op Unit := do
  failIf (!inWindow s.c 0 (8 * off) 8) .bufRange
  meOrder s.ck [(0, 8 * off, 8 * off + 8, false)] none
  let v ← meRead s.ck 0 (winKey s.ck s.c 0 (8 * off)) 8
  failIf (meCrBad csel (BitVec.ofNat 64 v)) .crValue
  upd (meCrWrite s.ck csel (BitVec.ofNat 64 v))

theorem exec_mCrLd (s : State) (csel off : Nat) : exec (.mCrLd csel off) s = run (fun s => meNext (meCrLd s csel off) s) s := rfl

theorem runOp_meCrLd (hq : s.meQuiet) (hin : inWindow s.c 0 (8 * off) 8 = true) : runOp (meCrLd s csel off) s
    = runOp (do
        failIf (meCrBad csel (BitVec.ofNat 64 (winRead s.ck 0 (8 * off) 8 s).1)) .crValue
        upd (meCrWrite s.ck csel (BitVec.ofNat 64 (winRead s.ck 0 (8 * off) 8 s).1))) s :=
  runOp_meAbRead hq hin _ fun v => do
    failIf (meCrBad csel (BitVec.ofNat 64 v)) .crValue
    upd (meCrWrite s.ck csel (BitVec.ofNat 64 v))

/-- `m.cr.ld` writes the register with the value that AB holds. -/
theorem mCrLd_writes (hq : s.meQuiet) (hin : inWindow s.c 0 (8 * off) 8 = true) {v : BitVec 64}
    (hv : BitVec.ofNat 64 (winRead s.ck 0 (8 * off) 8 s).1 = v) (hgood : meCrBad csel v = false) :
    exec (.mCrLd csel off) s = s.onward .me (meCrWrite s.ck csel v s)
      ∧ (MeOwn csel → ∀ t, exec (.mCrLd csel off) s = .next t → meCrRead t csel = v) := by
  refine run_meCrWrite hq (exec_mCrLd s csel off) rfl ?_
  rw [runOp_meCrLd hq hin, hv]
  exact runOp_failIf_upd_ok hgood _ _ _

/-- A value that the register does not take traps CR_VALUE. -/
theorem mCrLd_traps (hq : s.meQuiet) (hin : inWindow s.c 0 (8 * off) 8 = true)
    (hbad : meCrBad csel (BitVec.ofNat 64 (winRead s.ck 0 (8 * off) 8 s).1) = true) : s.meTraps .crValue (.mCrLd csel off) := by
  refine meTraps_of_trap hq (exec_mCrLd s csel off) rfl (by decide) (by decide) ?_
  rw [runOp_meCrLd hq hin]
  exact runOp_failIf_bad hbad _ _ _

theorem exec_mCrImm (s : State) (csel imm : Nat) : exec (.mCrImm csel imm) s = run (fun s => meNext (do
    failIf (meCrBad csel (BitVec.ofNat 64 imm)) .crValue
    upd (meCrWrite s.ck csel (BitVec.ofNat 64 imm))) s) s := rfl

/-- `m.cr.imm` writes the register with its immediate. -/
theorem mCrImm_writes (hq : s.meQuiet) (hgood : meCrBad csel (BitVec.ofNat 64 imm) = false) :
    exec (.mCrImm csel imm) s = s.onward .me (meCrWrite s.ck csel (BitVec.ofNat 64 imm) s)
      ∧ (MeOwn csel → ∀ t, exec (.mCrImm csel imm) s = .next t → meCrRead t csel = BitVec.ofNat 64 imm) :=
  run_meCrWrite hq (exec_mCrImm s csel imm) rfl (runOp_failIf_upd_ok hgood _ _ _)

/-- With no step draining a read of FLAGS goes on. -/
theorem runOp_meDrained (hq : s.meQuiet) : runOp (meDrained s.ck) s = (.ok (), s) := by
  have hd : (s.ctx s.ck).me.drains = [] := hq.drains
  unfold meDrained
  rw [runOp_bind_ok (runOp_getS s), hd]
  rfl

/-- The step of `m.cr.st`. -/
def meCrSt (s : State) (csel off : Nat) : Op Unit := do
  failIf (!inWindow s.c 0 (8 * off) 8) .bufRange
  if csel = 5 then meDrained s.ck
  meOrder s.ck [(0, 8 * off, 8 * off + 8, true)] none
  meDeliver s.ck [(0, 8 * off, 8 * off + 8, true)] none (cellsOf (winKey s.ck s.c 0 (8 * off)) 8 (meCrRead s csel).toNat).reverse 0

theorem exec_mCrSt (s : State) (csel off : Nat) : exec (.mCrSt csel off) s = run (fun s => meNext (meCrSt s csel off) s) s := rfl

theorem runOp_meCrSt (hq : s.meQuiet) (hin : inWindow s.c 0 (8 * off) 8 = true) : runOp (meCrSt s csel off) s
    = (.ok (), s.delivered (cellsOf (winKey s.ck s.c 0 (8 * off)) 8 (meCrRead s csel).toNat).reverse 0 s.c.r.ff) := by
  unfold meCrSt
  rw [runOp_check ?inside]
  case inside =>
    rw [hin]
    rfl
  dsimp only
  split
  · rw [runOp_bind_ok (runOp_meDrained hq), runOp_bind_ok (runOp_meOrder hq _ _), runOp_meDeliver hq]
  · rw [runOp_bind_ok (runOp_meOrder hq _ _), runOp_meDeliver hq]

/-- `m.cr.st` leaves the register's value in AB, and changes nothing else. -/
theorem mCrSt_writes (hq : s.meQuiet) (hin : inWindow s.c 0 (8 * off) 8 = true) :
    let key := winKey s.ck s.c 0 (8 * off)
    ∃ t, exec (.mCrSt csel off) s = .next t ∧ (t.bufRead key 8).1 = (meCrRead s csel).toNat
      ∧ (∀ k, k < key ∨ key + 8 ≤ k → t.buf.read k = s.buf.read k)
      ∧ (t.c.stream .me).pc = (s.c.stream .me).next ∧ { t.c.r with streams := s.c.r.streams } = s.c.r ∧ t.mem = s.mem := by
  intro key
  have hm := hq.buf_wf
  obtain ⟨hbuf, hmem, hctx⟩ := settle_delivered hq (cellsOf key 8 (meCrRead s csel).toNat).reverse 0 s.c.r.ff
  rw [List.reverse_reverse] at hbuf
  rw [endUnit_ctx, ctx_delivered, flags_or_zero] at hctx
  have hd : ((s.delivered (cellsOf key 8 (meCrRead s csel).toNat).reverse 0 s.c.r.ff).ctx s.ck).r.me.drains = [] := by
    rw [ctx_delivered]
    exact hq.drains
  refine ⟨_, (exec_mCrSt s csel off).trans (run_meNext rfl (runOp_meCrSt hq hin) hd hq.calm.2.2), ?_, fun k hk => ?_, ?_, ?_, hmem⟩
  · refine (bufRead_of_bytes rfl (by rw [hbuf]; exact commit_wf _ _ hm) (v := (meCrRead s csel).toNat) fun j hj => ?_).trans
      (Nat.mod_eq_of_lt (meCrRead s csel).isLt)
    rw [hbuf]
    refine read_commit_of_mem (c := (key + j, BitVec.ofNat 8 ((meCrRead s csel).toNat / 2 ^ (8 * j)))) hm (mem_cellsOf_iff.2 ⟨j, hj, rfl⟩) fun d hd hdj => ?_
    obtain ⟨j', -, rfl⟩ := mem_cellsOf_iff.1 hd
    rw [show j' = j from Nat.add_left_cancel hdj]
  · rw [hbuf]
    refine read_commit_of_not_mem hm fun c hc hck => ?_
    obtain ⟨j, hj, rfl⟩ := mem_cellsOf_iff.1 hc
    dsimp only at hck
    omega
  · rw [hctx, regs_stream_modStream]
  · rw [hctx]
    rfl

end

/-! ### The shape register (R216) -/

section
variable {s : State} {off : Nat}

/-- The registers with a record of 256 bits as their shape. -/
def MeRegs.withShape (v : Nat) (m : MeRegs) : MeRegs :=
  { m with shape := Vector.ofFn fun i : Fin 4 => BitVec.ofNat 64 (v / 2 ^ (64 * i.val)) }

/-- Four words of 64 bits hold a number of 256. -/
theorem shapeBits_withShape {v : Nat} (hv : v < 2 ^ 256) (m : MeRegs) : shapeBits (m.withShape v) = v := by
  have hwords : (m.withShape v).shape.toList.map (·.toNat) = [v % 2 ^ 64, v / 2 ^ 64 % 2 ^ 64, v / 2 ^ 128 % 2 ^ 64, v / 2 ^ 192 % 2 ^ 64] := by
    simp [MeRegs.withShape, Vector.toList_ofFn, List.ofFn_succ]
  unfold shapeBits
  rw [hwords]
  simp only [joinBits]
  omega

/-- The step of `m.shape`. -/
def meShape (s : State) (off : Nat) : Op Unit := do
  failIf (!inWindow s.c 0 (32 * off) 32) .bufRange
  meOrder s.ck [(0, 32 * off, 32 * off + 32, false)] none
  let v ← meRead s.ck 0 (winKey s.ck s.c 0 (32 * off)) 32
  failIf (shapeBad v) .meShape
  upd (modMe s.ck (MeRegs.withShape v))

theorem exec_mShape (s : State) (off : Nat) : exec (.mShape off) s = run (fun s => meNext (meShape s off) s) s := rfl

theorem runOp_meShape (hq : s.meQuiet) (hin : inWindow s.c 0 (32 * off) 32 = true) {v : Nat} (hv : (winRead s.ck 0 (32 * off) 32 s).1 = v)
    (hgood : shapeBad v = false) : runOp (meShape s off) s
      = (.ok (), modMe s.ck (MeRegs.withShape v) s) := by
  have hread := runOp_meAbRead hq hin [(0, 32 * off, 32 * off + 32, false)] fun v => do
    failIf (shapeBad v) .meShape
    upd (modMe s.ck (MeRegs.withShape v))
  rw [hv] at hread
  exact hread.trans (runOp_failIf_upd_ok hgood _ _ _)

/-- `m.shape` holds the record that AB has, and changes nothing else. -/
theorem mShape_writes (hq : s.meQuiet) (hin : inWindow s.c 0 (32 * off) 32 = true)
    (hgood : shapeBad (winRead s.ck 0 (32 * off) 32 s).1 = false) : ∃ t, exec (.mShape off) s = .next t
      ∧ shapeBits t.c.me = (winRead s.ck 0 (32 * off) 32 s).1 ∧ { t.c.me with shape := s.c.me.shape } = s.c.me
      ∧ (t.c.stream .me).pc = (s.c.stream .me).next ∧ t.mem = s.mem ∧ t.buf = s.buf := by
  obtain ⟨v, hv⟩ : ∃ v, (winRead s.ck 0 (32 * off) 32 s).1 = v := ⟨_, rfl⟩
  have hlt : v < 2 ^ 256 := hv ▸ bufRead_lt hq.calm.2.1 hq.buf_wf _ _
  rw [hv] at hgood ⊢
  let y := modMe s.ck (MeRegs.withShape v) s
  have hy : y.ctx s.ck = { s.c with r := { s.c.r with me := s.c.me.withShape v } } := ctx_modRegs _ _ _
  have hd : (y.ctx s.ck).r.me.drains = [] := by
    rw [hy]
    exact hq.drains
  have hc : (settle s (endUnit s.ck .me (s.c.stream .me).next y)).c = (endUnit s.ck .me (s.c.stream .me).next y).ctx s.ck :=
    c_of_who (s := s) rfl
  rw [endUnit_ctx, hy] at hc
  have hsettle := settle_calm (t := endUnit s.ck .me (s.c.stream .me).next y) hq.calm rfl rfl rfl rfl
  refine ⟨_, (exec_mShape s off).trans (run_meNext rfl (runOp_meShape hq hin hv hgood) hd hq.calm.2.2), ?_, ?_, ?_, ?_, ?_⟩
  · rw [hc]
    exact shapeBits_withShape hlt s.c.me
  · rw [hc]
    rfl
  · rw [hc, regs_stream_modStream]
  · rw [hsettle]
    rfl
  · rw [hsettle]
    rfl

end

/-! ### Synchronisation (R224, R225) -/

section
variable {s : State} {sem tl inc : Nat}

theorem exec_meSemSig (hq : s.meQuiet) (sem : Nat) : exec (.meSemSig sem) s = run (signalWord .me sem) s := by
  have hdrained : (if s.c.me.drains ≠ [] then blockOn s.ck .me .drained s else signalWord .me sem s) = signalWord .me sem s :=
    if_neg (not_not.2 hq.drains)
  exact run_congr (f := fun s => if s.c.me.drains ≠ [] then blockOn s.ck .me .drained s else signalWord .me sem s) hdrained

/-- `m.sem.sig` adds 1 to a semaphore that has room. -/
theorem meSemSig_counts (hq : s.meQuiet) (hc : vget 0 s.c.r.sem sem ≠ 0xFFFF#16) : exec (.meSemSig sem) s
    = s.onward .me (s.modRegs s.ck fun r => { r with sem := vset r.sem sem (vget 0 s.c.r.sem sem + 1) }) :=
  (exec_meSemSig hq sem).trans (run_of_eq (signalWord_counts hc) hq.calm.2.2)

/-- A count that would overflow traps after the word. -/
theorem meSemSig_overflows (hq : s.meQuiet) (hc : vget 0 s.c.r.sem sem = 0xFFFF#16) : exec (.meSemSig sem) s
    = s.traps .me .semOverflow 0 0 (endUnit s.ck .me (s.c.stream .me).next s) :=
  (exec_meSemSig hq sem).trans (run_of_eq (signalWord_lost hc) ((takeTrap_stuck _ _ _ _ _ _ _ _ _).trans hq.calm.2.2))

/-- The step of `m.sem.wait`. -/
def meSemTake (s : State) (sem : Nat) : Op Unit := do
  if !s.semFree s.ck .me sem then waitFor (.sem sem)
  upd (semTake s.ck sem)

theorem exec_meSemWait (s : State) (sem : Nat) : exec (.meSemWait sem) s = run (fun s => meNext (meSemTake s sem) s) s := rfl

theorem meSemWait_takes (hq : s.meQuiet) (hfree : s.semFree s.ck .me sem = true) : exec (.meSemWait sem) s
    = s.onward .me (s.modRegs s.ck fun r => { r with sem := vset r.sem sem (vget 0 s.c.r.sem sem - 1) }) := by
  have ho : runOp (meSemTake s sem) s = (.ok (), semTake s.ck sem s) := by
    unfold meSemTake
    rw [hfree]
    rfl
  have hd : ((semTake s.ck sem s).ctx s.ck).r.me.drains = [] := by
    unfold semTake
    rw [ctx_modRegs]
    exact hq.drains
  refine (exec_meSemWait s sem).trans ((run_meNext rfl ho hd hq.calm.2.2).trans ?_)
  exact congrArg (s.onward .me) (modRegs_congr rfl)

theorem meSemWait_waits (hq : s.meQuiet) (hfree : s.semFree s.ck .me sem = false) : exec (.meSemWait sem) s = s.waits .me (.sem sem) := by
  have ho : runOp (meSemTake s sem) s = (.error (.wait (.sem sem)), s) := by
    unfold meSemTake
    rw [hfree]
    rfl
  exact (exec_meSemWait s sem).trans (run_meNext_waits hq rfl ho nofun)

theorem semFree_of_zero {u : StreamId} (h : vget 0 s.c.r.sem sem = 0) : s.semFree s.ck u sem = false := by
  have hcount : s.semCount s.ck sem = 0 := congrArg BitVec.toNat h
  unfold State.semFree
  rw [hcount]
  exact decide_eq_false (Nat.not_lt_zero _)

/-- The step of `m.tl.wait`. -/
def meTlStep (s : State) (tl inc : Nat) : Op Unit := do
  if (s.timeline s.ck tl).done.toNat < (vget 0 s.c.me.tlx tl + BitVec.ofNat 64 inc).toNat then
    waitFor (.tl tl (vget 0 s.c.me.tlx tl + BitVec.ofNat 64 inc).toNat)
  upd (modMe s.ck fun m => { m with tlx := vset m.tlx tl (vget 0 s.c.me.tlx tl + BitVec.ofNat 64 inc) })

theorem exec_meTlWait (s : State) (tl inc : Nat) : exec (.meTlWait tl inc) s = run (fun s => meNext (meTlStep s tl inc) s) s := rfl

theorem meTlWait_met (hq : s.meQuiet) {v : BitVec 64} (hv : vget 0 s.c.me.tlx tl + BitVec.ofNat 64 inc = v)
    (h : v.toNat ≤ (s.timeline s.ck tl).done.toNat) : exec (.meTlWait tl inc) s
      = s.onward .me (s.modRegs s.ck fun r => { r with me := { r.me with tlx := vset r.me.tlx tl v } }) := by
  have ho : runOp (meTlStep s tl inc) s = (.ok (), modMe s.ck (fun m => { m with tlx := vset m.tlx tl v }) s) := by
    unfold meTlStep
    rw [hv, if_neg (Nat.not_lt.2 h)]
    rfl
  have hd : ((modMe s.ck (fun m => { m with tlx := vset m.tlx tl v }) s).ctx s.ck).r.me.drains = [] := by
    unfold modMe
    rw [ctx_modRegs]
    exact hq.drains
  exact (exec_meTlWait s tl inc).trans (run_meNext rfl ho hd hq.calm.2.2)

theorem meTlWait_waits (hq : s.meQuiet) {v : BitVec 64} (hv : vget 0 s.c.me.tlx tl + BitVec.ofNat 64 inc = v)
    (h : (s.timeline s.ck tl).done.toNat < v.toNat) : exec (.meTlWait tl inc) s = s.waits .me (.tl tl v.toNat) := by
  have ho : runOp (meTlStep s tl inc) s = (.error (.wait (.tl tl v.toNat)), s) := by
    unfold meTlStep
    rw [hv, if_pos h]
    rfl
  exact (exec_meTlWait s tl inc).trans (run_meNext_waits hq rfl ho nofun)

end

/-! ### Branches and loops (R226) -/

section
variable {s : State} {lev off : Nat}

theorem exec_mB (hq : s.meQuiet) (off : Nat) : exec (.mB off) s = s.goesTo .me (wordTarget (s.c.stream .me).at 16 off) s :=
  (rfl : exec (.mB off) s = run (fun s => meWord (pure (wordTarget (s.c.stream .me).at 16 off)) s) s).trans
    (run_meWord rfl (runOp_pure _ s) hq.drains hq.calm.2.2)

/-- An `lbr` at a level that the loop table defines leaves the running unit as it is. -/
theorem lbrWord_who {u : StreamId} (hf : s.fits u false 0) (hl : lev < s.c.r.levels.length) : (lbrWord u lev off s).who = s.who := by
  have hfit : (s.c.stream u).unfit false 0 = false := hf
  have hlev : s.c.r.hasLevel lev = true := decide_eq_true hl
  have hclose (p : Nat) : (loopClose s.ck u lev p s).2.who = s.who := by
    unfold loopClose
    dsimp only
    split <;> rfl
  unfold lbrWord
  rw [hfit, hlev, if_neg Bool.false_ne_true, if_neg (by decide)]
  dsimp only
  split
  · exact hclose _
  · exact (leaveLevel_fields s.ck u lev _).1.trans (hclose _)

/-- The state that an `lbr` makes, from the one in which its step ends. -/
theorem lbrWord_of_run {u : StreamId} (hf : s.fits u false 0) (hl : lev < s.c.r.levels.length) {t : State}
    (h : run (lbrWord u lev off) s = .next t) : (lbrWord u lev off s).stuck = none ∧ (lbrWord u lev off s).ctx s.ck = t.c := by
  obtain ⟨hstuck, rfl⟩ := run_eq_next.1 h
  exact ⟨hstuck, (c_of_who (s := s) (t := settle s _) (lbrWord_who hf hl)).symm⟩

/-- `lbr` of ME: where ITER has become 0, so does ENTRY. -/
def meLbrWord (lev off : Nat) (s : State) : State :=
  let t := lbrWord .me lev off s
  if (vget 0 ((t.ctx s.ck).stream .me).iter lev).toNat = 0 ∧ (t.ctx s.ck).st = s.c.st then
    t.modStream s.ck .me fun st => { st with entry := vset st.entry lev 0 }
  else t

theorem exec_meLbr (s : State) (lev off : Nat) : exec (.meLbr lev off) s = run (meLbrWord lev off) s := rfl

theorem meLbr_taken (hq : s.meQuiet) (hlev : lev < 6) (hf : s.fits .me false 0) (hl : lev < s.c.r.levels.length) {n : Nat}
    (hn : (vget 0 (s.c.stream .me).iter lev).toNat + 1 = n) (h : n < (vget 0 s.c.r.lc lev).toNat + s.c.r.epi lev 2) (hmax : n < 2 ^ 32) :
    ∃ t, exec (.meLbr lev off) s = .next t ∧ (t.c.stream .me).pc = wordTarget (s.c.stream .me).at 16 off
      ∧ vget 0 (t.c.stream .me).iter lev = BitVec.ofNat 32 n ∧ vget 0 (t.c.stream .me).entry lev = vget 0 (s.c.stream .me).entry lev := by
  subst hn
  have hrun := run_lbrWord_taken (off := off) hq.calm hf hl h
  obtain ⟨hstuck, hy⟩ := lbrWord_of_run hf hl hrun
  have hwho := lbrWord_who (off := off) hf hl
  replace hy := hy.trans (c_of_who (s := s) (t := settle s _) rfl)
  rw [settle_ctx, endUnit_ctx, ctx_modStream, regs_modStream_modStream] at hy
  obtain ⟨y, hword⟩ : ∃ y, lbrWord .me lev off s = y := ⟨_, rfl⟩
  rw [hword] at hstuck hy hwho
  have hiter : vget 0 ((y.ctx s.ck).stream .me).iter lev = BitVec.ofNat 32 ((vget 0 (s.c.stream .me).iter lev).toNat + 1) := by
    rw [hy, regs_stream_modStream]
    exact vget_vset_same _ _ hlev _
  have hstay : meLbrWord lev off s = y := by
    unfold meLbrWord
    rw [hword]
    refine if_neg fun hzero => ?_
    rw [hiter, BitVec.toNat_ofNat, Nat.mod_eq_of_lt hmax] at hzero
    exact Nat.succ_ne_zero _ hzero.1
  have hc : (settle s y).c = y.ctx s.ck := c_of_who (s := s) (t := settle s y) hwho
  refine ⟨_, (exec_meLbr s lev off).trans (run_of_eq hstay hstuck), ?_, ?_, ?_⟩
  · rw [hc, hy, regs_stream_modStream]
    rfl
  · rw [hc, hiter]
  · rw [hc, hy, regs_stream_modStream]
    rfl

theorem meLbr_left (hq : s.meQuiet) (hlev : lev < 6) (hf : s.fits .me false 0) (hl : lev < s.c.r.levels.length)
    (hcut : s.c.cutAt .me lev = true → s.c.st ≠ .run)
    (h : (vget 0 s.c.r.lc lev).toNat + s.c.r.epi lev 2 ≤ (vget 0 (s.c.stream .me).iter lev).toNat + 1) :
    ∃ t, exec (.meLbr lev off) s = .next t ∧ (t.c.stream .me).pc = (s.c.stream .me).next
      ∧ (t.c.stream .me).drained = ((s.c.stream .me).drained || s.c.cutAt .me lev)
      ∧ vget 1 (t.c.stream .me).iter lev = 0 ∧ vget 1 (t.c.stream .me).entry lev = 0 := by
  obtain ⟨t, w, hrun, -, -, ht⟩ := run_lbrWord_left (off := off) hq.calm hf hl h hcut
  obtain ⟨hstuck, hy⟩ := lbrWord_of_run hf hl hrun
  have hwho := lbrWord_who (off := off) hf hl
  rw [ht] at hy
  obtain ⟨y, hword⟩ : ∃ y, lbrWord .me lev off s = y := ⟨_, rfl⟩
  rw [hword] at hstuck hy hwho
  let z := y.modStream s.ck .me fun st => { st with entry := vset st.entry lev 0 }
  have hclear : meLbrWord lev off s = z := by
    unfold meLbrWord
    rw [hword]
    refine if_pos ⟨?_, ?_⟩
    · rw [hy, regs_stream_modStream]
      exact congrArg BitVec.toNat (vget_vset_same 0 (s.c.stream .me).iter hlev 0)
    · rw [hy]
  have hc : (settle s z).c = z.ctx s.ck := c_of_who (s := s) (t := settle s z) hwho
  rw [ctx_modStream, hy, regs_modStream_modStream] at hc
  refine ⟨_, (exec_meLbr s lev off).trans (run_of_eq hclear hstuck), ?_, ?_, ?_, ?_⟩
  · rw [hc, regs_stream_modStream]
    rfl
  · rw [hc, regs_stream_modStream]
    rfl
  · rw [hc, regs_stream_modStream]
    exact vget_vset_same _ _ hlev _
  · rw [hc, regs_stream_modStream]
    exact vget_vset_same _ _ hlev _

end

/-! ### The tile queues (R222) -/

section
variable {s : State} {k off : Nat} {e : BitVec 160} {rest : List (BitVec 160)}

/-- The oldest entry of queue `k` has been taken, with `rest` behind it. -/
def State.tqTook (s : State) (k : Nat) (e : BitVec 160) (rest : List (BitVec 160)) : State :=
  s.modRegs s.ck fun r => { r with tq := vset r.tq k rest, me := { r.me with popped := some e } }

theorem runOp_tqPop (hq : s.meQuiet) (hk : k < 2) (hl : vget [] s.c.r.tq k = e :: rest) :
    runOp (tqPop s.ck k) s = (.ok e, s.tqTook k e rest) := by
  have hpop : (s.ctx s.ck).r.me.popped = none := hq.popped
  have hlist : vget [] (s.ctx s.ck).r.tq k = e :: rest := hl
  have hone : k ≠ 2 := by omega
  unfold tqPop
  rw [runOp_bind_ok (runOp_getS s)]
  dsimp only
  simp only [hpop, if_neg hone, hlist]
  refine congrArg (Prod.mk (Except.ok e)) (modRegs_congr ?_)
  rfl

/-- The word of an entry stands in its lowest 32 bits. -/
theorem tqField_word (e : BitVec 160) : tqField e 0 32 = e.toNat % 2 ^ 32 := by
  rw [tqField, pow_zero, Nat.div_one]

/-- The address at which `m.tq` goes on: its target, or the next word where the entry is the last of a list. -/
def tqTarget (s : State) (off : Nat) (e : BitVec 160) : Nat :=
  if tqField e 112 1 = 0 then wordTarget (s.c.stream .me).at 16 off else (s.c.stream .me).next

/-- The step of `m.tq`. -/
def meTq (s : State) (k off : Nat) : Op Nat := do
  let e ← tqPop s.ck k
  if tqField e 0 32 ≠ 0 then tqRun e
  upd (modMe s.ck fun m => { m with popped := none })
  pure (tqTarget s off e)

theorem exec_mTq (s : State) (k off : Nat) : exec (.mTq k off) s = run (fun s => meWord (meTq s k off) s) s := rfl

/-- `m.tq` after the command of its entry, which leaves the machine as `t`. -/
theorem mTq_ends {t : State} (ho : runOp (meTq s k off) s = (.ok (tqTarget s off e), modMe s.ck (fun m => { m with popped := none }) t))
    (hn : t.stuck = none) (hd : (t.ctx s.ck).r.me.drains = []) :
    exec (.mTq k off) s = s.goesTo .me (tqTarget s off e) (modMe s.ck (fun m => { m with popped := none }) t) := by
  have hd' : ((modMe s.ck (fun m => { m with popped := none }) t).ctx s.ck).r.me.drains = [] := by
    unfold modMe
    rw [ctx_modRegs]
    exact hd
  exact (exec_mTq s k off).trans (run_meWord rfl ho hd' hn)

/-- An entry without a command. -/
theorem mTq_skips (hq : s.meQuiet) (hk : k < 2) (hl : vget [] s.c.r.tq k = e :: rest) (hcmd : tqField e 0 32 = 0) :
    exec (.mTq k off) s = s.goesTo .me (tqTarget s off e) (modMe s.ck (fun m => { m with popped := none }) (s.tqTook k e rest)) := by
  refine mTq_ends ?_ hq.calm.2.2 ?_
  · unfold meTq
    rw [runOp_bind_ok (runOp_tqPop hq hk hl)]
    dsimp only
    rw [if_neg (not_not.2 hcmd)]
    rfl
  · unfold State.tqTook
    rw [ctx_modRegs]
    exact hq.drains

/-- An entry with a command, which runs. -/
theorem mTq_runs (hq : s.meQuiet) (hk : k < 2) (hl : vget [] s.c.r.tq k = e :: rest) (hcmd : tqField e 0 32 ≠ 0) {t : State}
    (ho : runOp (tqRun e) (s.tqTook k e rest) = (.ok (), t)) (hn : t.stuck = none) (hd : (t.ctx s.ck).r.me.drains = []) :
    exec (.mTq k off) s = s.goesTo .me (tqTarget s off e) (modMe s.ck (fun m => { m with popped := none }) t) := by
  refine mTq_ends ?_ hn hd
  unfold meTq
  rw [runOp_bind_ok (runOp_tqPop hq hk hl)]
  dsimp only
  rw [if_pos hcmd, runOp_bind_ok ho]
  rfl

end

/-- Settles O40: each word by its own lemma above; a register of ME's own reads back as it was written, a trap is taken in a context in
which nothing of ME is in flight. -/
theorem meControlWords : Obligations.MeControlWords := by
  intro s csel off imm sem tl inc lev hq hcsel _ hlev st a v rcd target cnt tv n holds
  have hholds : ∀ {x : BitVec 64} {i : Instr}, (exec i s = s.onward .me (meCrWrite s.ck csel x s)
      ∧ (MeOwn csel → ∀ t, exec i s = .next t → meCrRead t csel = x)) → holds x i :=
    fun h => ⟨h.1, fun hlo hgap => h.2 ⟨hlo, hcsel, hgap⟩⟩
  refine ⟨fun hin => ⟨fun hgood => hholds (mCrLd_writes hq hin rfl hgood), fun hbad => mCrLd_traps hq hin hbad, mCrSt_writes hq hin⟩,
    fun hgood => hholds (mCrImm_writes hq hgood), fun hin hgood => mShape_writes hq hin hgood, fun hc => meSemSig_counts hq hc,
    fun hfree => meSemWait_takes hq hfree, fun hfree => meSemWait_waits hq hfree, fun hc => semFree_of_zero hc,
    fun hc => meSemSig_overflows hq hc, fun h => meTlWait_met hq rfl h, fun h => meTlWait_waits hq rfl h, exec_mB hq off,
    fun hfit hl hcut => ⟨fun h hmax => ?taken, fun h => ?left⟩, fun k e rest hk hl => ⟨fun hcmd => ?skips, fun t hcmd ho hn hd => ?runs⟩⟩
  case taken => exact meLbr_taken hq hlev hfit hl rfl h hmax
  case left => exact meLbr_left hq hlev hfit hl hcut h
  case skips => exact mTq_skips hq hk hl ((tqField_word e).trans hcmd)
  case runs => exact mTq_runs hq hk hl (by rwa [tqField_word]) ho hn hd

end Sys2Proof.Machine

/-!
Control words of XL and XS (O41): how a word that writes a c-register ends, the results of the integer words at 32 bits, the branches, and the
words that synchronise.
-/
namespace Sys2Proof.Machine
open Sys2Proof

/-! ### Words that write a register (R267) -/

theorem hSet_stuck (n : Nat) (v : BitVec 32) (s : State) : (hSet n v s).stuck = s.stuck := by
  unfold hSet
  split <;> rfl

section
variable {s : State} {d ca cb : Nat}

/-- A word that writes c[cd] goes on at the next word. -/
theorem run_cWrite {imm : Bool} {f : State → BitVec 32} (hs : s.calm) (hf : s.fits s.xu imm 0) :
    run (cWrite imm d f) s = s.onward s.xu (cSet d (f s) s) :=
  run_onward rfl hf (runOp_upd _ s) ((cSet_stuck _ _ s).trans hs.2.2)

/-- A word of two operands, with its result in another form. -/
theorem run_cAlu {f : BitVec 32 → BitVec 32 → BitVec 32} {v : BitVec 32} (hs : s.calm) (hf : s.fits s.xu false 0)
    (hv : f (cGet s ca) (cGet s cb) = v) : run (cAlu f d ca cb) s = s.onward s.xu (cSet d v s) :=
  hv ▸ run_cWrite hs hf

/-- A word that writes h[hd]. -/
theorem run_hWrite {f : State → BitVec 32} (hs : s.calm) (hf : s.fits s.xu false 0) :
    run (xWord false (upd fun t => hSet d (f t) t)) s = s.onward s.xu (hSet d (f s) s) :=
  run_onward rfl hf (runOp_upd _ s) ((hSet_stuck _ _ s).trans hs.2.2)

/-! ### Results of 32 bits -/

theorem bit_slt_32 (a b : BitVec 32) : (bit (a.slt b) : BitVec 32) = if a.toInt < b.toInt then 1 else 0 := by
  simp [bit, BitVec.slt]

theorem bit_ult_32 (a b : BitVec 32) : (bit (a.ult b) : BitVec 32) = if a.toNat < b.toNat then 1 else 0 := by
  simp [bit, BitVec.ult]

theorem bvMin_32 (a b : BitVec 32) : bvMin a b = if a.toInt < b.toInt then a else b := by simp [bvMin, BitVec.slt]
theorem bvMax_32 (a b : BitVec 32) : bvMax a b = if a.toInt < b.toInt then b else a := by simp [bvMax, BitVec.slt]
theorem bvMinu_32 (a b : BitVec 32) : bvMinu a b = if a.toNat < b.toNat then a else b := by simp [bvMinu, BitVec.ult]
theorem bvMaxu_32 (a b : BitVec 32) : bvMaxu a b = if a.toNat < b.toNat then b else a := by simp [bvMaxu, BitVec.ult]

/-- A word whose prefixes fit one without an immediate has no extension of it (R101, R105). -/
theorem pfxImm_of_fits {u : StreamId} (hf : s.fits u false 0) : (s.c.stream u).pfxImm = none ∧ s.fits u true 0 := by
  unfold State.fits Stream.unfit at hf ⊢
  simp only [Bool.or_eq_false_iff] at hf ⊢
  obtain ⟨himm, hord⟩ := hf
  exact ⟨by simpa using himm, by simp, hord⟩

/-- A field of 16 bits, extended by its sign. -/
theorem ofInt_signedOf_16 (imm : Nat) : BitVec.ofInt 32 (signedOf 16 imm) = (BitVec.ofNat 16 imm).signExtend 32 := by
  unfold BitVec.signExtend signedOf
  rw [BitVec.toInt_eq_toNat_cond, BitVec.toNat_ofNat]
  refine congrArg (BitVec.ofInt 32) ?_
  by_cases h : imm % 2 ^ 16 < 2 ^ 15
  · rw [if_neg (by omega), if_pos (by omega)]
  · rw [if_pos (by omega), if_neg (by omega)]

theorem exec_cAddi (d ca imm : Nat) (s : State) : exec (.cAddi d ca imm) s
    = run (cWrite true d fun t => cGet t ca + BitVec.ofInt 32 ((s.c.stream s.xu).imm 16 imm true)) s := by
  dsimp only [exec, execCAddi]
  exact run_congr (f := fun s => cWrite true d (fun t => cGet t ca + BitVec.ofInt 32 ((s.c.stream s.xu).imm 16 imm true)) s) rfl

/-- `c.addi`: the immediate is the extended one (R101). -/
theorem run_cAddi {imm : Nat} (hs : s.calm) (hf : s.fits s.xu true 0) : exec (.cAddi d ca imm) s
    = s.onward s.xu (cSet d (cGet s ca + BitVec.ofInt 32 ((s.c.stream s.xu).imm 16 imm true)) s) := by
  rw [exec_cAddi, run_cWrite hs hf]

/-- Where nothing extends it, it is the signed field. -/
theorem run_cAddi_short {imm : Nat} (hs : s.calm) (hf : s.fits s.xu false 0) : exec (.cAddi d ca imm) s
    = s.onward s.xu (cSet d (cGet s ca + (BitVec.ofNat 16 imm).signExtend 32) s) := by
  obtain ⟨hnone, hfit⟩ := pfxImm_of_fits hf
  have himm : (s.c.stream s.xu).imm 16 imm true = signedOf 16 imm := by
    unfold Stream.imm
    rw [hnone]
    rfl
  rw [run_cAddi hs hfit, himm, ofInt_signedOf_16]

/-! ### Branches (R268) -/

/-- A conditional branch goes where its condition says. -/
theorem run_cBranch {cond : BitVec 32 → BitVec 32 → Bool} {p : Prop} [Decidable p] {off : Nat} (hs : s.calm)
    (hf : s.fits s.xu false 0) (h : cond (cGet s ca) (cGet s cb) = true ↔ p) : run (cBranch cond ca cb off) s
      = s.goesTo s.xu (if p then wordTarget (s.c.stream s.xu).at 16 off else (s.c.stream s.xu).next) s := by
  rw [run_goesTo (f := cBranch cond ca cb off) rfl hf (runOp_pure _ s) hs.2.2, if_congr h rfl rfl]

/-! ### Control registers (R266) -/

theorem run_xlsCrWr {csel : Nat} (hs : s.calm) (hf : s.fits s.xu false 0) (hgood : crBad csel (cGet s ca).toNat = false) :
    exec (.xlsCrWr ca csel) s = s.onward s.xu (crWrite s.ck s.xu csel (cGet s ca).toNat s) := by
  dsimp only [exec, execXlsCrWr]
  exact run_onward rfl hf (runOp_failIf_upd_ok hgood _ _ s) ((crWrite_stuck _ _ _ _ s).trans hs.2.2)

theorem run_xlsCrWr_bad {csel : Nat} (hs : s.calm) (hf : s.fits s.xu false 0) (hbad : crBad csel (cGet s ca).toNat = true) :
    exec (.xlsCrWr ca csel) s = s.traps s.xu .crValue 0 0 s := by
  dsimp only [exec, execXlsCrWr]
  exact run_traps rfl hf (runOp_failIf_bad hbad _ _ s) hs.2.2

/-! ### Semaphores and timelines (R269) -/

/-- `sem.sig`, once its prefixes fit: it signals when every command of its stream has completed. -/
theorem exec_xlsSemSig (hf : s.fits s.xu false 0) (sem : Nat) : exec (.xlsSemSig sem) s
    = run (fun s => if s.c.r.workDone s.xu then signalWord s.xu sem s else blockOn s.ck s.xu .cmds s) s := by
  have hfit : (s.c.stream s.xu).unfit false 0 = false := hf
  dsimp only [exec, execXlsSemSig]
  exact run_congr (if_neg (by rw [hfit]; decide))

theorem run_xlsSemSig_counts {sem : Nat} (hs : s.calm) (hf : s.fits s.xu false 0) (hd : s.c.r.workDone s.xu = true)
    (hc : vget 0 s.c.r.sem sem ≠ 0xFFFF#16) : exec (.xlsSemSig sem) s
      = s.onward s.xu (s.modRegs s.ck fun r => { r with sem := vset r.sem sem (vget 0 s.c.r.sem sem + 1) }) :=
  (exec_xlsSemSig hf sem).trans (run_of_eq ((if_pos hd).trans (signalWord_counts hc)) hs.2.2)

theorem run_xlsSemSig_lost {sem : Nat} (hs : s.calm) (hf : s.fits s.xu false 0) (hd : s.c.r.workDone s.xu = true)
    (hc : vget 0 s.c.r.sem sem = 0xFFFF#16) : exec (.xlsSemSig sem) s
      = s.traps s.xu .semOverflow 0 0 (endUnit s.ck s.xu (s.c.stream s.xu).next s) :=
  (exec_xlsSemSig hf sem).trans
    (run_of_eq ((if_pos hd).trans (signalWord_lost hc)) ((takeTrap_stuck _ _ _ _ _ _ _ _ _).trans hs.2.2))

theorem run_xlsSemSig_waits {sem : Nat} (hs : s.calm) (hf : s.fits s.xu false 0) (hd : ¬ s.c.r.workDone s.xu = true) :
    exec (.xlsSemSig sem) s = s.waits s.xu .cmds :=
  (exec_xlsSemSig hf sem).trans (run_blockOn hs (if_neg hd))

theorem run_xlsSemWait_takes {sem : Nat} (hs : s.calm) (hf : s.fits s.xu false 0) (hfree : s.semFree s.ck s.xu sem = true) :
    exec (.xlsSemWait sem) s
      = s.onward s.xu (s.modRegs s.ck fun r => { r with sem := vset r.sem sem (vget 0 s.c.r.sem sem - 1) }) := by
  dsimp only [exec, execXlsSemWait]
  refine run_onward rfl hf ((runOp_bind_ok (runOp_getS s)).trans ?_) hs.2.2
  rw [hfree]
  exact (runOp_upd _ s).trans (congrArg (Prod.mk _) (modRegs_congr rfl))

theorem run_xlsSemWait_waits {sem : Nat} (hs : s.calm) (hf : s.fits s.xu false 0) (hfree : s.semFree s.ck s.xu sem = false) :
    exec (.xlsSemWait sem) s = s.waits s.xu (.sem sem) := by
  dsimp only [exec, execXlsSemWait]
  refine run_waits hs rfl hf ((runOp_bind_ok (runOp_getS s)).trans ?_)
  rw [hfree]
  exact runOp_bind_error rfl

theorem run_xlsTlWait_met {tl : Nat} (hs : s.calm) (hf : s.fits s.xu false 0)
    (h : (cGet s ca).toNat ≤ (s.timeline s.ck tl).done.toNat) : exec (.xlsTlWait tl ca) s = s.onward s.xu s := by
  dsimp only [exec, execXlsTlWait]
  refine run_onward rfl hf ((runOp_bind_ok (runOp_getS s)).trans ?_) hs.2.2
  rw [if_neg (Nat.not_lt.2 h)]
  rfl

theorem run_xlsTlWait_waits {tl : Nat} (hs : s.calm) (hf : s.fits s.xu false 0)
    (h : (s.timeline s.ck tl).done.toNat < (cGet s ca).toNat) : exec (.xlsTlWait tl ca) s = s.waits s.xu (.tl tl (cGet s ca).toNat) := by
  dsimp only [exec, execXlsTlWait]
  refine run_waits hs rfl hf ((runOp_bind_ok (runOp_getS s)).trans ?_)
  rw [if_pos h]
  rfl

/-! ### Barrier objects (R262) -/

section
variable (hs : s.calm) (hf : s.fits s.xu false 0)
include hs hf

theorem run_xlsBarInit (ha : (cGet s ca).toNat % 16 = 0) (hi : inWindow s.c 0 (cGet s ca).toNat 16 = true)
    (hp : (winRead s.ck 0 (cGet s ca).toNat 16 s).2 = false) : exec (.xlsBarInit ca cb) s = s.onward s.xu (winWrite s.ck 0 (cGet s ca).toNat 12
      ((cGet s cb).toNat + ((winRead s.ck 0 (cGet s ca).toNat 16 s).1 / 2 ^ 64 + 1) % 2 ^ 32 * 2 ^ 64) s) := by
  dsimp only [exec, execXlsBarInit]
  refine run_onward rfl hf ?_ hs.2.2
  rw [runOp_barInit_ok ha hi hp, Nat.mod_eq_of_lt (cGet s cb).isLt]

theorem run_xlsBarWait_met (ha : (cGet s ca).toNat % 16 = 0) (hi : inWindow s.c 0 (cGet s ca).toNat 16 = true) {obj : Nat}
    (hobj : winRead s.ck 0 (cGet s ca).toNat 16 s = (obj, false)) (h : obj % 2 ^ 32 ≤ obj / 2 ^ 32 % 2 ^ 32) :
    exec (.xlsBarWait d ca) s = s.onward s.xu (cSet d (BitVec.ofNat 32 (obj / 2 ^ 64)) s) := by
  have hphase : BitVec.ofNat 32 (obj / 2 ^ 64 % 2 ^ 32) = BitVec.ofNat 32 (obj / 2 ^ 64) := BitVec.eq_of_toNat_eq (by simp)
  have ho := runOp_barWait_ok (unit := s.xUnit) ha hi (by rw [hobj])
  rw [hobj, if_neg (Nat.not_lt.2 h)] at ho
  dsimp only [exec, execXlsBarWait]
  refine run_onward rfl hf ?_ ((cSet_stuck _ _ s).trans hs.2.2)
  rw [runOp_bind_ok ho, hphase]
  rfl

theorem run_xlsBarWait_waits (ha : (cGet s ca).toNat % 16 = 0) (hi : inWindow s.c 0 (cGet s ca).toNat 16 = true) {obj : Nat}
    (hobj : winRead s.ck 0 (cGet s ca).toNat 16 s = (obj, false)) (h : obj / 2 ^ 32 % 2 ^ 32 < obj % 2 ^ 32) :
    exec (.xlsBarWait d ca) s = s.waits s.xu (.bar (cGet s ca).toNat) := by
  have ho := runOp_barWait_ok (unit := s.xUnit) ha hi (by rw [hobj])
  rw [hobj, if_pos h] at ho
  dsimp only [exec, execXlsBarWait]
  exact run_waits hs rfl hf (runOp_bind_error ho)

theorem run_xlsBar_misaligned (ha : (cGet s ca).toNat % 16 ≠ 0) : exec (.xlsBarInit ca cb) s = s.traps s.xu .barAlign 0 0 s
    ∧ exec (.xlsBarWait d ca) s = s.traps s.xu .barAlign 0 0 s := by
  dsimp only [exec, execXlsBarInit, execXlsBarWait]
  have hbar := fun n => runOp_bar_error (unit := s.xUnit) (n := n) (runOp_barCheck_misaligned (s := s) (ck := s.ck) ha)
  exact ⟨run_traps rfl hf (hbar (cGet s cb).toNat).1 hs.2.2, run_traps rfl hf (runOp_bind_error (hbar 0).2) hs.2.2⟩

end

end

/-- Settles O41, each word by its own lemma above. -/
theorem transferControlWords : Obligations.TransferControlWords := by
  intro s d ca cb imm off sem tl csel hs _ _ _ u st a b out target go cnt idle o obj
  dsimp only [exec]
  refine ⟨fun hf => run_cAddi hs hf, fun hf => ?_⟩
  have hidle : s.c.r.workDone s.xu = true ↔ idle := workDone_xu
  refine ⟨run_cAlu hs hf rfl, run_cAlu hs hf rfl, run_cAlu hs hf rfl, run_cAlu hs hf rfl, run_cAlu hs hf rfl, run_cAlu hs hf rfl,
    run_cAlu hs hf rfl, run_cAlu hs hf rfl, run_cAlu hs hf rfl, run_cAlu hs hf (bvMin_32 a b), run_cAlu hs hf (bvMax_32 a b),
    run_cAlu hs hf (bvMinu_32 a b), run_cAlu hs hf (bvMaxu_32 a b), run_cAlu hs hf (bit_slt_32 a b), run_cAlu hs hf (bit_ult_32 a b),
    run_cAddi_short hs hf, run_cWrite hs hf, run_cWrite hs hf, run_hWrite hs hf, run_hWrite hs hf,
    run_cBranch hs hf decide_eq_true_iff, run_cBranch hs hf decide_eq_true_iff, run_cBranch hs hf BitVec.ult_iff_lt,
    run_cBranch hs hf (by simp [BitVec.ult, a, b]), run_cWrite hs hf, run_cWrite hs hf, run_xlsCrWr hs hf, run_xlsCrWr_bad hs hf,
    fun hi => run_xlsSemSig_counts hs hf (hidle.2 hi), fun hi => run_xlsSemSig_lost hs hf (hidle.2 hi),
    fun hi => run_xlsSemSig_waits hs hf (mt hidle.1 hi), run_xlsSemWait_takes hs hf, run_xlsSemWait_waits hs hf, semFree_of_zero,
    run_xlsTlWait_met hs hf, run_xlsTlWait_waits hs hf, fun ha hi hp => ?aligned, run_xlsBar_misaligned hs hf⟩
  case aligned =>
    have hobj : winRead s.ck 0 o 16 s = (obj, false) := Prod.ext rfl hp
    exact ⟨run_xlsBarInit hs hf ha hi hp, run_xlsBarWait_met hs hf ha hi hobj, run_xlsBarWait_waits hs hf ha hi hobj⟩

end Sys2Proof.Machine

/-!
The issue of commands (O42): the checks of an issue leave the contexts, and a command that passes them takes its number and joins its queue.
-/
namespace Sys2Proof.Machine
open Sys2Proof

/-! ### The checks of an issue leave the contexts (R235, R241) -/

section
variable {α β : Type}

/-- Parts of a list, in order. -/
theorem keepsAt_opMap {f : α → Op β} (hf : ∀ a s, KeepsAt (f a) s) : ∀ (l : List α) (s : State), KeepsAt (opMap f l) s
  | [], s => keepsAt_pure _ s
  | a :: l, s => keepsAt_bind (hf a s) fun _ t _ => keepsAt_bind (keepsAt_opMap hf l t) fun _ u _ => keepsAt_pure _ u

theorem keepsAt_opEach {f : α → Op Unit} (hf : ∀ a s, KeepsAt (f a) s) : ∀ (l : List α) (s : State), KeepsAt (opEach f l) s
  | [], s => keepsAt_pure _ s
  | a :: l, s => keepsAt_bind (hf a s) fun _ t _ => keepsAt_opEach hf l t

/-- An attempt leaves what its part leaves, or everything. -/
theorem keepsAt_attempt {o : Op α} {s : State} (h : KeepsAt o s) : KeepsAt (attempt o) s := by
  unfold attempt
  refine keepsAt_getS ?_
  rcases ho : runOp o s with ⟨x | a, t⟩
  · exact keepsAt_pure _ s
  · exact keepsAt_upd_bind (h.of_ok ho) (keepsAt_pure _ t)

end

section
variable (s : State)

theorem keepsAt_xEnter (u : StreamId) : KeepsAt (xEnter u) s :=
  keepsAt_getS (keepsAt_ite (fun _ => keepsAt_throw _ s) fun _ => keepsAt_pure _ s)

theorem keepsAt_trapLogged {α : Type} (ck : Nat) (c : Cause) (kind unit line auxf : Nat) :
    KeepsAt (trapLogged ck c kind unit line auxf : Op α) s := errorLog_keeps s _ _ _ _ _ _

theorem keepsAt_xAbRead (ck : Nat) (u : StreamId) (off n : Nat) : KeepsAt (xAbRead ck u off n) s := by
  unfold xAbRead
  refine keepsAt_getS (keepsAt_bind (keepsAt_failIf _ _ s) fun _ t _ => ?_)
  dsimp only
  exact keepsAt_ite (fun _ => keepsAt_bind (keepsAt_trapLogged t _ _ _ _ _ _) fun _ u _ => keepsAt_pure _ u) fun _ => keepsAt_pure _ t

theorem keepsAt_xRecord (u : StreamId) (rec n : Nat) : KeepsAt (xRecord u rec n) s := keepsAt_getS (keepsAt_xAbRead s _ _ _ _)

theorem keepsAt_lookupDesc (q : Requester) (n acc : Nat) : KeepsAt (lookupDesc q n acc) s := (par_lookupDesc (Alike.refl s) q n acc).keeps

theorem keepsAt_readDesc (q : Requester) (i acc : Nat) : KeepsAt (readDesc q i acc) s := (par_readDesc (Alike.refl s) q i acc).keeps

theorem keepsAt_xDesc (u : StreamId) (h acc : Nat) : KeepsAt (xDesc u h acc) s := by
  unfold xDesc
  refine keepsAt_getS (keepsAt_bind (keepsAt_lookupDesc s _ _ _) fun _ t _ => ?_)
  exact keepsAt_bind (keepsAt_readDesc t _ _ _) fun _ v _ => keepsAt_pure _ v

theorem keepsAt_bindHead (q : Requester) (b : Nat) : KeepsAt (bindHead q b) s := by
  unfold bindHead
  refine keepsAt_ite (fun _ => keepsAt_pure _ s) fun _ => keepsAt_bind (keepsAt_cbLookup s _ _ _ _) fun x t _ => ?_
  cases x with
  | error c => exact keepsAt_throw _ t
  | ok y => exact keepsAt_pure _ t

theorem keepsAt_xHead (u : StreamId) (x : XT) : KeepsAt (xHead u x) s :=
  keepsAt_getS (keepsAt_bind (keepsAt_attempt (keepsAt_bindHead s _ _)) fun _ t _ => keepsAt_pure _ t)

theorem keepsAt_xTensor (u : StreamId) (h cc : Nat) (e : List Nat) (acc : Nat) (learned : Bool) :
    KeepsAt (xTensor u h cc e acc learned) s := by
  unfold xTensor
  refine keepsAt_bind (keepsAt_xDesc s _ _ _) fun x t _ => keepsAt_bind (keepsAt_failIf _ _ t) fun _ v _ => ?_
  exact keepsAt_ite (fun _ => keepsAt_xHead v _ _) fun _ => keepsAt_pure _ v

theorem keepsAt_xRank (cc : Nat) (e : List Nat) (x : XT) : KeepsAt (xRank cc e x) s := keepsAt_failIf _ _ s

theorem keepsAt_xBound (d : Desc) (base e free : List Nat) : KeepsAt (xBound d base e free) s := keepsAt_failIf _ _ s

theorem keepsAt_xBuffer (v : VFmt) (r : XRec) (space : Option (Nat × Nat)) (rl : Nat) (fo bar : Bool) (lists : List (Nat × Nat)) :
    KeepsAt (xBuffer v r space rl fo bar lists) s :=
  keepsAt_getS (keepsAt_bind (keepsAt_failIf _ _ s) fun _ t _ => keepsAt_failIf _ _ t)

/-! ### Sampling (R70) -/

/-- The record of a learned codebook that a binding samples. -/
def sampleLearned (q : Requester) (b : Nat) : Op Pin := do
  match ← cbLookup q.ck q.unit q.part (bindCb b) with
  | .error c => trapWith c
  | .ok (key, d) =>
    match (if bindFollow b then cbNewest d else cbFind d (bindVer b)) with
    | none => trapWith .cbStale
    | some i =>
      failIf (decide (cbPins d i = 2 ^ 24 - 1)) .cbPin
      pure (samplePin b key d i)

theorem keepsAt_sampleLearned (q : Requester) (b : Nat) : KeepsAt (sampleLearned q b) s := by
  unfold sampleLearned
  refine keepsAt_bind (keepsAt_cbLookup s _ _ _ _) fun x t _ => ?_
  cases x with
  | error c => exact keepsAt_throw _ t
  | ok x =>
    obtain ⟨key, d⟩ := x
    dsimp only
    cases (if bindFollow b = true then cbNewest d else cbFind d (bindVer b)) with
    | none => exact keepsAt_throw _ t
    | some i => exact keepsAt_bind (keepsAt_failIf _ _ t) fun _ v _ => keepsAt_pure _ v

theorem keepsAt_sampleCheck (q : Requester) (b : Nat) : KeepsAt (sampleCheck q b) s := by
  have hrest (t : State) : KeepsAt (if bindCb b < 16 then pure ⟨bindCb b, 0, 0, true, 0⟩ else sampleLearned q b) t :=
    keepsAt_ite (fun _ => keepsAt_pure _ t) fun _ => keepsAt_sampleLearned t q b
  exact keepsAt_ite (fun _ => keepsAt_bind (keepsAt_throw _ s) fun _ t _ => hrest t) fun _ => hrest s

theorem pinTake_keeps (part : Nat) (p : Pin) : Keeps s (pinTake part p s) := by
  unfold pinTake
  split
  · exact Keeps.refl s
  · dsimp only
    split
    · exact (awaitKey_keeps s _).trans (cbStore_keeps _ _ _)
    · exact awaitKey_keeps s _

/-- A change made for each of a list. -/
theorem foldl_keeps {α : Type} {f : State → α → State} (hf : ∀ t a, Keeps t (f t a)) :
    ∀ (l : List α) (s : State), Keeps s (l.foldl f s)
  | [], s => Keeps.refl s
  | a :: l, s => (hf s a).trans (foldl_keeps hf l _)

theorem keepsAt_sampleAll (q : Requester) (bs : List Nat) : KeepsAt (sampleAll q bs) s := by
  unfold sampleAll
  refine keepsAt_bind (keepsAt_opMap (fun b t => keepsAt_sampleCheck t q b) bs s) fun ps t _ => keepsAt_getS ?_
  refine keepsAt_bind (keepsAt_failIf _ _ t) fun _ v _ => ?_
  exact keepsAt_upd_bind (foldl_keeps (fun t p => pinTake_keeps t q.part p) ps v) (keepsAt_pure _ _)

theorem keepsAt_xSample (u : StreamId) (l : List XT) : KeepsAt (xSample u l) s := keepsAt_getS (keepsAt_sampleAll s _ _)

theorem keepsAt_searchSample (r : XRec) (x : XT) : KeepsAt (searchSample r x) s :=
  keepsAt_ite (fun _ => keepsAt_bind (keepsAt_failIf _ _ s) fun _ t _ => keepsAt_pure _ t) fun _ => keepsAt_xSample s _ _

theorem keepsAt_issueList (u : StreamId) (off n : Nat) : KeepsAt (issueList u off n) s :=
  keepsAt_getS (keepsAt_bind (keepsAt_xAbRead s _ _ _ _) fun _ t _ => keepsAt_pure _ t)

end

/-! ### A command joins its queue (R25, R235) -/

/-- The timeline of a transfer stream's commands. -/
def cmdTl (u : StreamId) : Nat := if u = .xs then 1 else 0

/-- The registers in which timeline `k` has issued a number more. -/
def Regs.tookNumber (k : Nat) (r : Regs) : Regs :=
  { r with tl := vset r.tl k { vget {} r.tl k with issued := (vget {} r.tl k).issued + 1 } }

/-- The registers in which a command of stream `u` has taken its number and joined its queue. -/
def Regs.joined (u : StreamId) (q : Cmd) (r : Regs) : Regs :=
  if u = .xs then { r.tookNumber (cmdTl u) with xsQ := r.xsQ ++ [q] } else { r.tookNumber (cmdTl u) with xlQ := r.xlQ ++ [q] }

/-- What a command samples at its issue (R235): operation, class, modes and coordinates; last its progress. -/
abbrev Sample := CmdOp × Nat × BitVec 5 × BitVec 6 × BitVec 2 × List Nat × Nat

def Cmd.sample (q : Cmd) : Sample :=
  (q.op, q.cls, q.rmode, q.flush, q.nbl, q.coord, q.prog)

/-- What a word of stream `u` samples in `s` for a command `op` whose coordinates stand from c[CC] on (R235). -/
def State.sample (s : State) (u : StreamId) (op : CmdOp) (cc : Nat) : Sample :=
  (op, (s.c.stream u).accCls, (s.c.stream u).rmode, (s.c.stream u).flush, (s.c.stream u).nbl, xCoords s cc, 0)

/-- The part `o` of a word, run from `s`, ends with `R` where it answers: what it did before left the contexts. -/
def EndsWith (R : State → State → Prop) (o : Op Unit) (s : State) : Prop :=
  ∀ t, runOp o s = (.ok (), t) → ∃ v, Keeps s v ∧ R v t

section
variable {α : Type} {R : State → State → Prop} {s : State}

theorem EndsWith.bind {o : Op α} {f : α → Op Unit} (ho : KeepsAt o s) (hf : ∀ a t, EndsWith R (f a) t) : EndsWith R (o >>= f) s := by
  intro t h
  obtain ⟨a, v, hv, ht⟩ := runOp_bind_eq_ok h
  obtain ⟨w, hw, hR⟩ := hf a v t ht
  exact ⟨w, (ho.of_ok hv).trans hw, hR⟩

theorem EndsWith.failIf {f : Unit → Op Unit} {b : Bool} {c : Cause} (hf : ∀ a t, EndsWith R (f a) t) :
    EndsWith R (Machine.failIf b c >>= f) s := EndsWith.bind (keepsAt_failIf b c s) hf

theorem EndsWith.ite {c : Prop} [Decidable c] {o p : Op Unit} (ho : EndsWith R o s) (hp : EndsWith R p s) :
    EndsWith R (if c then o else p) s := by
  split
  · exact ho
  · exact hp

end

/-- A command with the sample `x` has joined the queue of stream `u`. -/
def Joins (u : StreamId) (x : Sample) (v t : State) : Prop :=
  ∃ q : Cmd, q.sample = x ∧ q.num = (v.timeline v.ck (cmdTl u)).issued.toNat + 1 ∧ t = v.modRegs v.ck (Regs.joined u q)

theorem runOp_xIssue (v : State) (u : StreamId) (q : Cmd) : runOp (xIssue u q) v = (.ok (), v.modRegs v.ck (Regs.joined u
    { q with num := (v.timeline v.ck (cmdTl u)).issued.toNat + 1, dests := q.destRanges v.ck v })) := by
  have h : runOp (xIssue u q) v = (.ok (), modXq v.ck u (fun l => l ++ [{ q with
      num := (v.timeline v.ck (cmdTl u)).issued.toNat + 1, dests := q.destRanges v.ck v }])
        (v.modRegs v.ck (Regs.tookNumber (cmdTl u)))) := rfl
  rw [h]
  unfold modXq
  rw [modRegs_modRegs]
  rfl

/-- The end of an issue. -/
theorem endsWith_xIssue {s : State} {u : StreamId} {q : Cmd} {x : Sample}
    (hq : q.sample = x) : EndsWith (Joins u x) (xIssue u q) s := by
  intro t ht
  rw [runOp_xIssue] at ht
  exact ⟨s, Keeps.refl s, { q with num := _, dests := q.destRanges s.ck s }, hq, rfl, (Prod.mk.inj ht).2.symm⟩

/-! ### The issue of each command (R243 to R261) -/

/-- The issue `o` of a command of `s`: it waits for room before anything else, and where it answers, the command has joined its queue with
the sample of `s`. -/
structure IssuesCmd (s : State) (u : StreamId) (op : CmdOp) (cc : Nat) (o : Op Unit) : Prop where
  enters : ∃ f, o = xEnter u >>= f
  issues : ∀ t, EndsWith (Joins u (s.sample u op cc)) o t

section
variable (s : State)

theorem issues_enter {u : StreamId} {op : CmdOp} {cc : Nat} {f : Unit → Op Unit}
    (hf : ∀ t, EndsWith (Joins u (s.sample u op cc)) (f ()) t) : IssuesCmd s u op cc (xEnter u >>= f) :=
  ⟨⟨f, rfl⟩, fun t => .bind (keepsAt_xEnter t u) fun _ t => hf t⟩

/-- A step that names a record reads it and checks it. -/
theorem issues_record {u : StreamId} {op : CmdOp} {cc rec n : Nat} {bad : Nat → Bool} {f : Nat → Op Unit}
    (hf : ∀ v t, EndsWith (Joins u (s.sample u op cc)) (f v) t) : IssuesCmd s u op cc (do
      xEnter u
      let v ← xRecord u rec n
      failIf (bad v) .xfRec
      f v) :=
  issues_enter s fun t => .bind (keepsAt_xRecord t u rec n) fun v _ => .failIf fun _ t => hf v t

theorem loadIssue_issues (op : CmdOp) (opt h cc rec : Nat) (fo bar : Bool) (bad : XRec → Bool) (rankBad : Desc → Bool) (free : List Nat)
    (space : Option (Nat × Nat)) (stride : XRec → XRec) (lists : XRec → List (Nat × Nat)) (align : XRec → Bool) :
    IssuesCmd s .xl op cc (loadIssue op opt h cc rec fo bar bad rankBad free space stride lists align s) := by
  unfold loadIssue
  refine issues_record s fun v t => .bind (keepsAt_xTensor t _ _ _ _ _ _) fun x t => ?_
  refine .failIf fun _ t => .failIf fun _ t => .failIf fun _ t => .bind (keepsAt_xBuffer t _ _ _ _ _ _ _) fun _ t => ?_
  dsimp only
  refine .ite (.bind (keepsAt_bind (keepsAt_failIf _ _ t) fun _ t _ => keepsAt_pure _ t) fun _ t => ?_)
    (.bind (keepsAt_xSample t _ _) fun _ t => ?_)
  · exact endsWith_xIssue rfl
  · exact endsWith_xIssue rfl

theorem xlGather8_issues (h cc cbf rec cb bar : Nat) : IssuesCmd s .xl .gather8 cc (xlGather8Issue h cc cbf rec cb bar s) :=
  loadIssue_issues s _ _ _ _ _ _ _ _ _ _ _ _ _ _

theorem xlPlatenDense_issues (h cc cbf rec : Nat) : IssuesCmd s .xl .dense cc (xlPlatenDenseIssue h cc cbf rec s) := by
  unfold xlPlatenDenseIssue
  refine issues_record s fun v t => .bind (keepsAt_xTensor t _ _ _ _ _ _) fun x t => ?_
  refine .failIf fun _ t => .failIf fun _ t => .failIf fun _ t => .failIf fun _ t => ?_
  dsimp only
  refine .ite (.bind (keepsAt_bind (keepsAt_failIf _ _ t) fun _ t _ => keepsAt_pure _ t) fun _ t => ?_)
    (.bind (keepsAt_xSample t _ _) fun _ t => ?_)
  · exact endsWith_xIssue rfl
  · exact endsWith_xIssue rfl

theorem xlPlatenCw_issues (h cc cbf rec : Nat) : IssuesCmd s .xl .cw cc (xlPlatenCwIssue h cc cbf rec s) := by
  unfold xlPlatenCwIssue
  refine issues_record s fun v t => .bind (keepsAt_xTensor t _ _ _ _ _ _) fun x t => ?_
  refine .failIf fun _ t => .failIf fun _ t => .failIf fun _ t => ?_
  exact .bind (keepsAt_xSample t _ _) fun _ _ => endsWith_xIssue rfl

theorem xlPlatenImage_issues (cc cbf rec : Nat) : IssuesCmd s .xl .image cc (xlPlatenImageIssue cc cbf rec s) := by
  unfold xlPlatenImageIssue
  exact issues_record s fun _ _ => .failIf fun _ _ => endsWith_xIssue rfl

theorem caseIssue_issues (auto : Bool) (h cc slot : Nat) : IssuesCmd s .xl .case cc (caseIssue auto h cc slot s) := by
  unfold caseIssue
  refine issues_enter s fun t => .bind (keepsAt_xTensor t _ _ _ _ _ _) fun x t => ?_
  refine .failIf fun _ t => .failIf fun _ t => .bind (keepsAt_xSample t _ _) fun _ _ => endsWith_xIssue rfl

theorem expandIssue_issues (auto : Bool) (h cc cbf rec cb fo bar : Nat) :
    IssuesCmd s .xl .expand cc (expandIssue auto h cc cbf rec cb fo bar s) := by
  unfold expandIssue
  refine issues_record s fun v t => .bind (keepsAt_xTensor t _ _ _ _ _ _) fun x t => .failIf fun _ t => .failIf fun _ t => ?_
  refine .bind (keepsAt_xBuffer t _ _ _ _ _ _ _) fun _ t => .failIf fun _ t => .failIf fun _ t => ?_
  exact .ite (.bind (keepsAt_bindHead t _ _) fun _ _ => endsWith_xIssue rfl) (endsWith_xIssue rfl)

theorem xlAcflush_issues (cc rec last : Nat) : IssuesCmd s .xl .acflush cc (xlAcflushIssue cc rec last s) :=
  issues_enter s fun _ => .failIf fun _ _ => endsWith_xIssue rfl

theorem xsSt_issues (h cc cbf rec cb : Nat) : IssuesCmd s .xs .st cc (xsStIssue h cc cbf rec cb s) := by
  unfold xsStIssue
  refine issues_record s fun v t => .bind (keepsAt_xTensor t _ _ _ _ _ _) fun x t => .failIf fun _ t => ?_
  refine .bind (keepsAt_xBuffer t _ _ _ _ _ _ _) fun _ t => .failIf fun _ t => ?_
  exact .bind (keepsAt_searchSample t _ _) fun _ _ => endsWith_xIssue rfl

theorem xsStash_issues (h cc cbf rec cb : Nat) : IssuesCmd s .xs .stash cc (xsStashIssue h cc cbf rec cb s) := by
  unfold xsStashIssue
  refine issues_record s fun v t => .bind (keepsAt_xDesc t _ _ _) fun x t => .bind (keepsAt_xDesc t _ _ _) fun y t => ?_
  refine .failIf fun _ t => .failIf fun _ t => .bind (keepsAt_xHead t _ _) fun x t => .bind (keepsAt_xHead t _ _) fun y t => ?_
  refine .failIf fun _ t => .failIf fun _ t => .bind (keepsAt_xBuffer t _ _ _ _ _ _ _) fun _ t => .failIf fun _ t => ?_
  exact .failIf fun _ t => .bind (keepsAt_searchSample t _ _) fun _ _ => endsWith_xIssue rfl

theorem xsTopk_issues (cc cbf rec merge : Nat) : IssuesCmd s .xs .topk cc (xsTopkIssue cc cbf rec merge s) := by
  unfold xsTopkIssue
  refine issues_record s fun v t => .failIf fun _ t => ?_
  exact .bind (keepsAt_xBuffer t _ _ _ _ _ _ _) fun _ _ => endsWith_xIssue rfl

theorem xsUpd_issues (h cc cbf rec cbg : Nat) : IssuesCmd s .xs .upd cc (xsUpdIssue h cc cbf rec cbg s) := by
  unfold xsUpdIssue
  refine issues_record s fun v t => ?_
  dsimp only
  refine .bind (keepsAt_xDesc t _ _ _) fun w t => .bind (keepsAt_xDesc t _ _ _) fun m t => ?_
  refine .bind (keepsAt_xDesc t _ _ _) fun x t => .bind ?ranks fun _ t => ?_
  case ranks => exact keepsAt_opEach (fun x t => keepsAt_xRank t _ _ x) _ t
  refine .bind (keepsAt_xHead t _ _) fun w t => .bind (keepsAt_xHead t _ _) fun m t => .bind (keepsAt_xHead t _ _) fun x t => ?_
  refine .failIf fun _ t => .bind ?bounds fun _ t => .failIf fun _ t => ?_
  case bounds => exact keepsAt_opEach (fun _ t => keepsAt_xBound t _ _ _ _) _ t
  refine .bind (keepsAt_xBuffer t _ _ _ _ _ _ _) fun _ t => .failIf fun _ t => ?_
  exact .bind (keepsAt_xSample t _ _) fun _ _ => endsWith_xIssue rfl

theorem xsScatter_issues (h cc cbf rec cb acc : Nat) : IssuesCmd s .xs .scatter cc (xsScatterIssue h cc cbf rec cb acc s) := by
  unfold xsScatterIssue
  refine issues_record s fun v t => .bind (keepsAt_xTensor t _ _ _ _ _ _) fun x t => .failIf fun _ t => .failIf fun _ t => ?_
  refine .bind (keepsAt_xBuffer t _ _ _ _ _ _ _) fun _ t => .ite (.bind (keepsAt_issueList t _ _ _) fun l t => .failIf fun _ t => ?_) ?_
  · exact .bind (keepsAt_searchSample t _ _) fun _ _ => endsWith_xIssue rfl
  · exact .bind (keepsAt_searchSample t _ _) fun _ _ => endsWith_xIssue rfl

theorem xsReidx_issues (h cc cbf rec : Nat) : IssuesCmd s .xs .reidx cc (xsReidxIssue h cc cbf rec s) := by
  unfold xsReidxIssue
  refine issues_record s fun v t => .bind (keepsAt_xDesc t _ _ _) fun x t => .bind (keepsAt_xDesc t _ _ _) fun y t => ?_
  refine .failIf fun _ t => .bind (keepsAt_opEach (fun x t => keepsAt_xRank t _ _ x) _ t) fun _ t => ?_
  refine .bind (keepsAt_xHead t _ _) fun x t => .bind (keepsAt_xHead t _ _) fun y t => ?_
  refine .failIf fun _ t => .failIf fun _ t => .failIf fun _ t => .failIf fun _ t => ?_
  dsimp only
  refine .ite (.bind (keepsAt_pure _ t) fun _ _ => endsWith_xIssue rfl) (.bind (keepsAt_sampleAll t _ _) fun _ _ => endsWith_xIssue rfl)

theorem xsRinv_issues (h cc rec : Nat) : IssuesCmd s .xs .rinv cc (xsRinvIssue h cc rec s) := by
  unfold xsRinvIssue
  refine issues_record s fun v t => .bind (keepsAt_xTensor t _ _ _ _ _ _) fun x t => .failIf fun _ t => .failIf fun _ t => ?_
  exact endsWith_xIssue rfl

/-! ### A collective (R263) -/

theorem keepsAt_readGroup (ck g : Nat) : KeepsAt (readGroup ck g) s := by
  unfold readGroup
  refine keepsAt_getS ?_
  dsimp only
  split
  · exact keepsAt_pure _ s
  · have hk := physRead_keeps s ((s.mcSet (dieOf ck) (s.ctx ck).bind.part).cleBase.toNat * 4096 + 4096 * g) 4096
    generalize physRead _ 4096 s = x at hk ⊢
    refine keepsAt_upd_bind hk (keepsAt_bind (keepsAt_memUeIf _ _ _ _ _) fun _ t _ => ?_)
    split
    · exact keepsAt_pure _ t
    · exact keepsAt_pure _ t

end

/-- The registers in which a collective has taken its number and stands in the context's list. -/
def Regs.posted (q : Coll) (r : Regs) : Regs := { r.tookNumber 7 with coll := r.coll ++ [q] }

/-- A collective of class `cls` has been issued in context `ck`. -/
def Posts (ck cls : Nat) (v t : State) : Prop :=
  ∃ q : Coll, q.cls = cls ∧ q.num = (v.timeline ck 7).issued.toNat + 1 ∧ t = v.modRegs ck (Regs.posted q)

theorem xsColl_posts (s : State) (h rec : Nat) (t : State) : EndsWith (Posts s.ck (s.c.stream .xs).accCls) (xsCollIssue h rec s) t := by
  unfold xsCollIssue
  refine .bind (keepsAt_xEnter t _) fun _ t => .bind (keepsAt_xRecord t _ _ _) fun v t => .failIf fun _ t => ?_
  refine .bind (keepsAt_lookupDesc t _ _ _) fun d t => .bind (keepsAt_readDesc t _ _ _) fun raw t => ?_
  refine .bind (keepsAt_lookupDesc t _ _ _) fun e t => .bind (keepsAt_readDesc t _ _ _) fun raw1 t => ?_
  refine .failIf fun _ t => .failIf fun _ t => .failIf fun _ t => ?_
  dsimp only
  refine .ite (.bind (keepsAt_pure _ t) fun g t => ?_) (.bind (keepsAt_readGroup t _ _) fun g t => ?_)
  all_goals
    intro t' ht
    exact ⟨t, Keeps.refl t, _, rfl, rfl, (Prod.mk.inj ht).2.symm.trans (modRegs_modRegs _ _ (Regs.tookNumber 7) _)⟩

/-! ### The words (R235, R272) -/

/-- The register from which a word takes its command's coordinates: `xl.gather8` and `xl.platen.image` have no such field. -/
def coordReg (op : CmdOp) (cc : Nat) : Nat := if op = .gather8 ∨ op = .image then 0 else cc

/-- A word of `s`, with its command, its issue and the prefixes that it takes. -/
structure CmdWord (s : State) (u : StreamId) (cc : Nat) (x : Instr × CmdOp × Op Unit × Nat) : Prop where
  word : exec x.1 s = run (unitNext u false x.2.2.2 x.2.2.1) s
  issue : IssuesCmd s u x.2.1 (coordReg x.2.1 cc) x.2.2.1

theorem CmdWord.of {s : State} {u : StreamId} {cc c ord : Nat} {i : Instr} {op : CmdOp} {o : Op Unit}
    (hi : exec i s = run (unitNext u false ord o) s) (ho : IssuesCmd s u op c o) (hc : c = coordReg op cc) : CmdWord s u cc (i, op, o, ord) :=
  ⟨hi, hc ▸ ho⟩

section
variable {s t v : State} {u : StreamId} {cc : Nat} {q : Cmd} {x : Instr × CmdOp × Op Unit × Nat}

theorem runOp_xEnter_full (h : 16 ≤ (s.c.r.xq u).length) : runOp (xEnter u) s = (.error (.wait .cmdRoom), s) := by
  unfold xEnter
  rw [runOp_bind_ok (runOp_getS s), if_pos h]
  rfl

/-- With a full queue the word waits (R235). -/
theorem CmdWord.waits (hw : CmdWord s u cc x) (hs : s.calm) (hf : s.fits u false x.2.2.2) (h : 16 ≤ (s.c.r.xq u).length) :
    exec x.1 s = s.waits u .cmdRoom := by
  obtain ⟨f, hx⟩ := hw.issue.enters
  rw [hw.word]
  refine run_waits hs rfl hf ?_
  rw [hx]
  exact runOp_bind_error (runOp_xEnter_full h)

/-- A word whose part succeeds goes on with what the part leaves. -/
theorem CmdWord.onward (hw : CmdWord s u cc x) (hf : s.fits u false x.2.2.2) (ho : runOp x.2.2.1 s = (.ok (), t)) (hn : t.stuck = none) :
    exec x.1 s = s.onward u t := hw.word.trans (run_onward rfl hf ho hn)

/-! ### What an issue leaves -/

theorem joined_rest (u : StreamId) (q : Cmd) (r : Regs) : ({ r.joined u q with tl := r.tl, xlQ := r.xlQ, xsQ := r.xsQ } : Regs) = r := by
  unfold Regs.joined
  split <;> rfl

theorem joined_xq (u : StreamId) (q : Cmd) (r : Regs) : (r.joined u q).xq u = r.xq u ++ [q] := by
  unfold Regs.joined Regs.xq
  split <;> rfl

theorem joined_tl (u : StreamId) (q : Cmd) (r : Regs) : (r.joined u q).tl = (r.tookNumber (cmdTl u)).tl := by
  unfold Regs.joined
  split <;> rfl

theorem tookNumber_issued {k : Nat} (hk : k < 8) (r : Regs) :
    (vget {} (r.tookNumber k).tl k).issued = (vget {} r.tl k).issued + 1 :=
  congrArg Timeline.issued (vget_vset_same _ _ hk _)

theorem cmdTl_lt (u : StreamId) : cmdTl u < 8 := by
  unfold cmdTl
  split <;> decide

/-- The context after a word of stream `u` that leaves the registers `r`. -/
theorem c_onward (hw : t.who = s.who) (pc : Nat) : (settle s (endUnit s.ck u pc t)).c = { t.ctx s.ck with
    r := (t.ctx s.ck).r.modStream u fun st => { st.noPfx with
      pc := pc, wait := if u = .sq ∧ (t.ctx s.ck).r.pend.isSome then some .resp else none } } :=
  (c_of_who (s := s) (t := settle s (endUnit s.ck u pc t)) hw).trans (endUnit_ctx _ _ _ _)

/-- A command word that issues: what its command samples, and what it leaves of the context. -/
theorem CmdWord.issued (hw : CmdWord s u cc x) (hf : s.fits u false x.2.2.2) (ho : runOp x.2.2.1 s = (.ok (), t)) (hn : t.stuck = none) :
    ∃ t' q, exec x.1 s = .next t' ∧ t'.c.r.xq u = s.c.r.xq u ++ [q] ∧ q.op = x.2.1
      ∧ q.num = (s.timeline s.ck (cmdTl u)).issued.toNat + 1 ∧ q.cls = (s.c.stream u).accCls ∧ q.rmode = (s.c.stream u).rmode
      ∧ q.flush = (s.c.stream u).flush ∧ q.nbl = (s.c.stream u).nbl ∧ q.coord = xCoords s (coordReg x.2.1 cc) ∧ q.prog = 0
      ∧ (t'.timeline s.ck (cmdTl u)).issued = (s.timeline s.ck (cmdTl u)).issued + 1 ∧ (t'.c.stream u).pc = (s.c.stream u).next
      ∧ t'.c.r.xlC = s.c.r.xlC ∧ t'.c.r.xsC = s.c.r.xsC ∧ t'.c.r.xlH = s.c.r.xlH ∧ t'.c.r.xsH = s.c.r.xsH ∧ t'.c.r.sem = s.c.r.sem := by
  obtain ⟨v, hk, q, hq, hnum, rfl⟩ := hw.issue.issues s t ho
  obtain ⟨hop, hcls, hrm, hfl, hnb, hco, hpr⟩ : q.op = _ ∧ q.cls = _ ∧ q.rmode = _ ∧ q.flush = _ ∧ q.nbl = _ ∧ q.coord = _ ∧ q.prog = _ := by
    simpa only [Cmd.sample, State.sample, Prod.mk.injEq] using hq
  have hi := hw.onward hf ho hn
  have hc := c_onward (s := s) (u := u) (t := v.modRegs v.ck (Regs.joined u q)) hk.who (s.c.stream u).next
  rw [hk.ck, ctx_modRegs, hk.ctx] at hc
  rw [hk.ck] at hi hnum
  have hrest := joined_rest u q s.c.r
  refine ⟨_, q, hi, ?_, hop, ?_, hcls, hrm, hfl, hnb, hco, hpr, ?_, ?_, ?_, ?_, ?_, ?_, ?_⟩
  · rw [hc]
    exact joined_xq u q s.c.r
  · rw [hnum, State.timeline, hk.ctx]
    rfl
  · have hcc := c_of_who (s := s) (t := settle s (endUnit s.ck u (s.c.stream u).next (v.modRegs s.ck (Regs.joined u q)))) hk.who
    rw [State.timeline, ← hcc, hc]
    exact (congrArg (fun l => (vget {} l (cmdTl u)).issued) (joined_tl u q s.c.r)).trans (tookNumber_issued (cmdTl_lt u) _)
  · rw [hc, regs_stream_modStream]
  · rw [hc]
    exact (congrArg Regs.xlC hrest :)
  · rw [hc]
    exact (congrArg Regs.xsC hrest :)
  · rw [hc]
    exact (congrArg Regs.xlH hrest :)
  · rw [hc]
    exact (congrArg Regs.xsH hrest :)
  · rw [hc]
    exact (congrArg Regs.sem hrest :)

end

/-! ### The words of XL and XS -/

section
variable (s : State) (h cc cbf rec b fo bar : Nat)

theorem xlLd_cmdWord : CmdWord s .xl cc (.xlLd h cc cbf rec b fo bar, .ld, loadIssue .ld 0 h cc rec (fo = 1) (bar = 1) (fun _ => false)
    (fun _ => false) [] (some (b, (cGet s cbf).toNat)) id (fun _ => []) (fun _ => false) s, 1) := by
  refine .of ?_ (loadIssue_issues s ..) rfl
  dsimp only [exec, execXlLd]
  exact run_congr rfl

theorem xlGather_cmdWord : CmdWord s .xl cc (.xlGather h cc cbf rec b fo bar, .gather, loadIssue .gather 0 h cc rec (fo = 1) (bar = 1)
    (fun r => !r.flat) (fun d => decide (d.rank < 2)) [1] (some (b, (cGet s cbf).toNat)) id (fun r => [(r.aux, 4 * r.ext 1)])
    (fun _ => false) s, 1) := by
  refine .of ?_ (loadIssue_issues s ..) rfl
  dsimp only [exec, execXlGather]
  exact run_congr rfl

theorem xlGather8_cmdWord : CmdWord s .xl cc (.xlGather8 h 0 cbf rec b bar, .gather8, xlGather8Issue h 0 cbf rec b bar s, 1) := by
  refine .of ?_ (xlGather8_issues s ..) rfl
  dsimp only [exec, execXlGather8]
  exact run_congr rfl

theorem xlFeed_cmdWord : CmdWord s .xl cc (.xlFeed h cc rec b fo, .feed, loadIssue .feed b h cc rec (fo = 1) false (fun _ => false)
    (fun _ => false) [] none (fun r => { r with rstr := 0 }) (fun _ => []) (fun _ => false) s, 1) := by
  refine .of ?_ (loadIssue_issues s ..) rfl
  dsimp only [exec, execXlFeed]
  exact run_congr rfl

theorem xlRoute_cmdWord : CmdWord s .xl cc (.xlRoute h cc rec, .route, loadIssue .route 0 h cc rec false false (fun r => decide (r.sb ≠ 0))
    (fun d => decide (d.rank < 2)) [1] none (fun r => { r with rstr := 0 }) (fun r => [(r.aux, 16 * r.ext 1), (r.aux2, 256)])
    (fun r => decide (r.aux2 % 32 ≠ 0)) s, 1) := by
  refine .of ?_ (loadIssue_issues s ..) rfl
  dsimp only [exec, execXlRoute]
  exact run_congr rfl

theorem xlPlatenDense_cmdWord : CmdWord s .xl cc (.xlPlatenDense h cc cbf rec, .dense, xlPlatenDenseIssue h cc cbf rec s, 1) := by
  refine .of ?_ (xlPlatenDense_issues s ..) rfl
  dsimp only [exec, execXlPlatenDense]
  exact run_congr rfl

theorem xlPlatenCw_cmdWord : CmdWord s .xl cc (.xlPlatenCw h cc cbf rec, .cw, xlPlatenCwIssue h cc cbf rec s, 1) := by
  refine .of ?_ (xlPlatenCw_issues s ..) rfl
  dsimp only [exec, execXlPlatenCw]
  exact run_congr rfl

theorem xlPlatenImage_cmdWord : CmdWord s .xl cc (.xlPlatenImage 0 0 cbf rec, .image, xlPlatenImageIssue 0 cbf rec s, 1) := by
  refine .of ?_ (xlPlatenImage_issues s ..) rfl
  dsimp only [exec, execXlPlatenImage]
  exact run_congr rfl

theorem xlCase_cmdWord : CmdWord s .xl cc (.xlCase h cc cbf, .case, caseIssue false h cc (cGet s cbf).toNat s, 1) := by
  refine .of ?_ (caseIssue_issues s ..) rfl
  dsimp only [exec, execXlCase]
  exact run_congr rfl

theorem xlCaseAuto_cmdWord : CmdWord s .xl cc (.xlCaseAuto h cc, .case, caseIssue true h cc 0 s, 1) := by
  refine .of ?_ (caseIssue_issues s ..) rfl
  dsimp only [exec, execXlCaseAuto]
  exact run_congr rfl

theorem xlExpand_cmdWord : CmdWord s .xl cc (.xlExpand h cc cbf rec b fo bar, .expand, expandIssue false h cc cbf rec b fo bar s, 1) := by
  refine .of ?_ (expandIssue_issues s ..) rfl
  dsimp only [exec, execXlExpand]
  exact run_congr rfl

theorem xlExpandAuto_cmdWord :
    CmdWord s .xl cc (.xlExpandAuto h cc cbf rec b fo bar, .expand, expandIssue true h cc cbf rec b fo bar s, 1) := by
  refine .of ?_ (expandIssue_issues s ..) rfl
  dsimp only [exec, execXlExpandAuto]
  exact run_congr rfl

theorem xlAcflush_cmdWord : CmdWord s .xl cc (.xlAcflush cc rec b, .acflush, xlAcflushIssue cc rec b s, 0) := by
  refine .of ?_ (xlAcflush_issues s ..) rfl
  dsimp only [exec, execXlAcflush]
  exact run_congr rfl

theorem xsSt_cmdWord : CmdWord s .xs cc (.xsSt h cc cbf rec b, .st, xsStIssue h cc cbf rec b s, 1) := by
  refine .of ?_ (xsSt_issues s ..) rfl
  dsimp only [exec, execXsSt]
  exact run_congr rfl

theorem xsStash_cmdWord : CmdWord s .xs cc (.xsStash h cc cbf rec b, .stash, xsStashIssue h cc cbf rec b s, 1) := by
  refine .of ?_ (xsStash_issues s ..) rfl
  dsimp only [exec, execXsStash]
  exact run_congr rfl

theorem xsTopk_cmdWord : CmdWord s .xs cc (.xsTopk cc cbf rec b, .topk, xsTopkIssue cc cbf rec b s, 0) := by
  refine .of ?_ (xsTopk_issues s ..) rfl
  dsimp only [exec, execXsTopk]
  exact run_congr rfl

theorem xsUpd_cmdWord : CmdWord s .xs cc (.xsUpd h cc cbf rec b, .upd, xsUpdIssue h cc cbf rec b s, 1) := by
  refine .of ?_ (xsUpd_issues s ..) rfl
  dsimp only [exec, execXsUpd]
  exact run_congr rfl

theorem xsScatter_cmdWord : CmdWord s .xs cc (.xsScatter h cc cbf rec b fo, .scatter, xsScatterIssue h cc cbf rec b fo s, 1) := by
  refine .of ?_ (xsScatter_issues s ..) rfl
  dsimp only [exec, execXsScatter]
  exact run_congr rfl

theorem xsReidx_cmdWord : CmdWord s .xs cc (.xsReidx h cc cbf rec, .reidx, xsReidxIssue h cc cbf rec s, 1) := by
  refine .of ?_ (xsReidx_issues s ..) rfl
  dsimp only [exec, execXsReidx]
  exact run_congr rfl

theorem xsRinv_cmdWord : CmdWord s .xs cc (.xsRinv h cc rec, .rinv, xsRinvIssue h cc rec s, 1) := by
  refine .of ?_ (xsRinv_issues s ..) rfl
  dsimp only [exec, execXsRinv]
  exact run_congr rfl

theorem exec_xsColl : exec (.xsColl h rec) s = run (unitNext .xs false 1 (xsCollIssue h rec s)) s := by
  dsimp only [exec, execXsColl]
  exact run_congr rfl

variable {s}

/-- `xs.coll`: the collective stands last in the context's list, and no queue took it (R263). -/
theorem xsColl_issued {t : State} (hf : s.fits .xs false 1) (ho : runOp (xsCollIssue h rec s) s = (.ok (), t)) (hn : t.stuck = none) :
    ∃ t' q, exec (.xsColl h rec) s = .next t' ∧ t'.c.r.coll = s.c.r.coll ++ [q] ∧ q.num = (s.timeline s.ck 7).issued.toNat + 1
      ∧ q.cls = (s.c.stream .xs).accCls ∧ (t'.timeline s.ck 7).issued = (s.timeline s.ck 7).issued + 1
      ∧ t'.c.r.xsQ = s.c.r.xsQ ∧ (t'.c.stream .xs).pc = (s.c.stream .xs).next := by
  obtain ⟨v, hk, q, hcls, hnum, rfl⟩ := xsColl_posts s h rec s t ho
  have hi := (exec_xsColl s h rec).trans (run_onward rfl hf ho hn)
  have hc := c_onward (s := s) (u := .xs) (t := v.modRegs s.ck (Regs.posted q)) hk.who (s.c.stream .xs).next
  have hcc := c_of_who (s := s) (t := settle s (endUnit s.ck .xs (s.c.stream .xs).next (v.modRegs s.ck (Regs.posted q)))) hk.who
  rw [ctx_modRegs, hk.ctx] at hc
  refine ⟨_, q, hi, ?_, ?_, hcls, ?_, ?_, ?_⟩
  · rw [hc]
    rfl
  · rw [hnum, State.timeline, hk.ctx]
    rfl
  · rw [State.timeline, ← hcc, hc]
    exact tookNumber_issued (by decide) _
  · rw [hc]
    rfl
  · rw [hc, regs_stream_modStream]

end

/-- Settles O42: each word is a `CmdWord`, whose issue waits for room before anything else (`CmdWord.waits`), whose checks leave the
contexts, and whose command takes its number and joins its queue last (`CmdWord.issued`). -/
theorem transferCommandsIssue : Obligations.TransferCommandsIssue := by
  intro s t h cc cbf rec b fo bar hs cmds checked xs issues
  have hxl : ∀ x ∈ cmds ++ checked, CmdWord s .xl cc x := by
    simp only [cmds, checked, List.cons_append, List.nil_append, List.forall_mem_cons]
    exact ⟨xlLd_cmdWord s .., xlGather_cmdWord s .., xlFeed_cmdWord s .., xlRoute_cmdWord s .., xlPlatenDense_cmdWord s ..,
      xlPlatenCw_cmdWord s .., xlCase_cmdWord s .., xlCaseAuto_cmdWord s .., xlExpand_cmdWord s .., xlExpandAuto_cmdWord s ..,
      xlAcflush_cmdWord s .., xlGather8_cmdWord s .., xlPlatenImage_cmdWord s .., List.forall_mem_nil _⟩
  have hxs : ∀ x ∈ xs, CmdWord s .xs cc x := by
    simp only [xs, List.forall_mem_cons]
    exact ⟨xsSt_cmdWord s .., xsStash_cmdWord s .., xsTopk_cmdWord s .., xsUpd_cmdWord s .., xsScatter_cmdWord s ..,
      xsReidx_cmdWord s .., xsRinv_cmdWord s .., List.forall_mem_nil _⟩
  refine ⟨fun _ x hx hf ho hn => (hxl x hx).issued hf ho hn, fun _ x hx hf ho hn => (hxs x hx).issued hf ho hn,
    fun _ hl x hx hf => (hxl x hx).waits hs hf hl, fun hcc => ?_, fun hz => ?_,
    fun _ hl x hx hf => (hxs x hx).waits hs hf hl, fun _ hf ho hn => xsColl_issued h rec hf ho hn⟩
  · dsimp only [exec, execXlGather8]
    exact run_takeTrap hs (if_pos (decide_eq_true hcc))
  · dsimp only [exec, execXlPlatenImage]
    exact run_takeTrap hs (if_pos (decide_eq_true hz))

end Sys2Proof.Machine

/-!
How commands complete (O44): a timeline takes a completion, a command of XL or XS and a copy leave their queues.
-/
namespace Sys2Proof.Machine
open Sys2Proof

/-! ### Completions on a timeline (R25) -/

/-- A timeline on which the number `n` has completed, with its error. -/
def Timeline.completed (n : Nat) (err : Bool) (a : Timeline) : Timeline :=
  tlAdvance (a.ahead.length + 1) { a with ahead := n :: a.ahead, err := a.err || err }

/-- The registers in which the number `n` has completed on timeline `k`. -/
def Regs.completed (k n : Nat) (err : Bool) (r : Regs) : Regs := { r with tl := vset r.tl k ((vget {} r.tl k).completed n err) }

theorem r_modRegs (s : State) (k : Nat) (f : Regs → Regs) : ((s.modRegs k f).ctx k).r = f (s.ctx k).r := congrArg Ctx.r (ctx_modRegs s k f)

theorem r_tlComplete (ck k n : Nat) (err : Bool) (s : State) :
    ((tlComplete ck k n err s).ctx ck).r = (s.ctx ck).r.completed k n err := r_modRegs s ck _

/-- The timeline of a context after a completion. -/
theorem timeline_of_completed {s t : State} {ck k n : Nat} {err : Bool} {r : Regs} (hk : k < 8) (h : (t.ctx ck).r = r.completed k n err)
    (hr : r.tl = (s.ctx ck).r.tl) : t.timeline ck k = (s.timeline ck k).completed n err := by
  rw [State.timeline, State.timeline, h, ← hr]
  exact vget_vset_same _ _ hk _

/-! ### A step that writes no cell -/

/-- No cell is written, and the machine goes on. -/
structure NoWrites (s t : State) : Prop where
  mem : t.mem = s.mem
  buf : t.buf = s.buf
  wbuf : t.wbuf = s.wbuf
  bbuf : t.bbuf = s.bbuf
  stuck : t.stuck = s.stuck

theorem NoWrites.refl (s : State) : NoWrites s s := ⟨rfl, rfl, rfl, rfl, rfl⟩

theorem NoWrites.trans {s t u : State} (h : NoWrites s t) (h' : NoWrites t u) : NoWrites s u :=
  ⟨h'.mem.trans h.mem, h'.buf.trans h.buf, h'.wbuf.trans h.wbuf, h'.bbuf.trans h.bbuf, h'.stuck.trans h.stuck⟩

theorem noWrites_modRegs (s : State) (k : Nat) (f : Regs → Regs) : NoWrites s (s.modRegs k f) := ⟨rfl, rfl, rfl, rfl, rfl⟩

theorem noWrites_modDie (s : State) (k : Nat) (f : Die → Die) : NoWrites s (s.modDie k f) := ⟨rfl, rfl, rfl, rfl, rfl⟩

theorem noWrites_foldl {α : Type} {f : State → α → State} (hf : ∀ t a, NoWrites t (f t a)) :
    ∀ (l : List α) (s : State), NoWrites s (l.foldl f s)
  | [], s => .refl s
  | a :: l, s => (hf s a).trans (noWrites_foldl hf l _)

/-- Such a step leaves its state as it is. -/
theorem run_noWrites {f : State → State} {s t : State} (hs : s.calm) (hf : f s = t) (h : NoWrites s t) : run f s = .next t := by
  rw [run_of_eq hf (h.stuck.trans hs.2.2), settle_calm hs h.mem h.buf h.wbuf h.bbuf]

/-! ### A command of XL or XS completes (R242) -/

theorem pinRelease_keeps (s : State) (part : Nat) (p : Pin) : Keeps s (pinRelease part p s) := by
  unfold pinRelease
  split
  · exact Keeps.refl s
  · dsimp only
    split
    · split
      · exact awaitKey_keeps s _
      · exact (awaitKey_keeps s _).trans (cbStore_keeps _ _ _)
    · exact awaitKey_keeps s _

theorem releasePins_keeps (s : State) (part : Nat) (ps : List Pin) : Keeps s (releasePins part ps s) :=
  foldl_keeps (fun t p => pinRelease_keeps t part p) ps s

/-- The registers in which the commands of stream `u` other than `num` are left. -/
def Regs.dropCmd (u : StreamId) (num : Nat) (r : Regs) : Regs :=
  if u = .xs then { r with xsQ := r.xsQ.filter fun x => x.num ≠ num } else { r with xlQ := r.xlQ.filter fun x => x.num ≠ num }

/-- The registers in which the command `q` of stream `u` has completed. -/
def Regs.ended (u : StreamId) (q : Cmd) (num : Nat) (r : Regs) : Regs :=
  (Regs.dropCmd u num { r with flags := r.flags ||| q.flags }).completed (if u = StreamId.xs then 1 else 0) num q.err

section
variable {s t : State} {ck num : Nat} {u : StreamId} {q : Cmd}

/-- A command that completes without a trap. -/
theorem r_cmdComplete (hq : findCmd ck u num t = some q) (hi : q.inve = false ∨ q.flags &&& fINV = 0) :
    ((cmdComplete ck u num t).ctx ck).r = (t.ctx ck).r.ended u q num := by
  unfold cmdComplete
  rw [hq]
  dsimp only
  rw [if_neg (by rcases hi with h | h <;> simp [h]), r_tlComplete]
  unfold modXq
  rw [r_modRegs, (releasePins_keeps _ _ _).ctx]
  unfold addFlags
  rw [r_modRegs]
  rfl

theorem ended_xq (u : StreamId) (q : Cmd) (num : Nat) (r : Regs) : (r.ended u q num).xq u = (r.xq u).filter fun x => x.num ≠ num := by
  unfold Regs.ended Regs.dropCmd Regs.xq
  split <;> rfl

theorem ended_flags (u : StreamId) (q : Cmd) (num : Nat) (r : Regs) : (r.ended u q num).flags = r.flags ||| q.flags := by
  unfold Regs.ended Regs.dropCmd
  split <;> rfl

theorem ended_timeline (u : StreamId) (q : Cmd) (num : Nat) (r : Regs) :
    vget {} (r.ended u q num).tl (if u = .xs then 1 else 0)
      = (vget {} r.tl (if u = .xs then 1 else 0)).completed num q.err := by
  have hk : (if u = .xs then 1 else 0) < 8 := by split <;> decide
  refine (vget_vset_same _ _ hk _).trans ?_
  unfold Regs.dropCmd
  split <;> rfl

theorem findCmd_num (hq : findCmd ck u num s = some q) : q.num = num := of_decide_eq_true (List.find?_some hq :)

/-- A command whose body succeeds completes. -/
theorem exec_xlXsCommandComplete {core slot unit : Nat} (hu : u = if unit = 4 then .xs else .xl)
    (hq : findCmd (core * 4 + slot) u num s = some q) (hop : q.op ≠ .case) (hr : cmdMayRun (core * 4 + slot) u q s = true)
    (hb : runOp (if u = .xs then xsBody (core * 4 + slot) q else xlBody (core * 4 + slot) q)
      (modCmd (core * 4 + slot) u num (fun q => { q with wait := none }) s) = (.ok (), t))
    (hn : (cmdComplete (core * 4 + slot) u num t).stuck = none) :
    exec (.xlXsCommandComplete core slot unit num) s = .next (settle s (cmdComplete (core * 4 + slot) u num t)) := by
  dsimp only [exec, execXlXsCommandComplete]
  refine run_of_eq ?_ hn
  rw [← hu, hq]
  dsimp only
  rw [if_neg hop, hr]
  by_cases hx : u = .xs
  · rw [if_pos hx] at hb
    rw [if_neg (by decide), if_pos hx, hb, ← findCmd_num hq, hx]
    rfl
  · rw [if_neg hx] at hb
    rw [if_neg (by decide), if_neg hx, hb]
    rfl

end

/-- A command that may run and whose work succeeds. -/
theorem command_completes {s t : State} {core slot unit num : Nat} {u : StreamId} {q q' : Cmd} (hu : u = if unit = 4 then .xs else .xl)
    (hq : findCmd (core * 4 + slot) u num s = some q) (hop : q.op ≠ .case) (hr : cmdMayRun (core * 4 + slot) u q s = true)
    (hb : runOp (if u = .xs then xsBody (core * 4 + slot) q else xlBody (core * 4 + slot) q)
      (modCmd (core * 4 + slot) u num (fun q => { q with wait := none }) s) = (.ok (), t))
    (hq' : findCmd (core * 4 + slot) u num t = some q') (hi : q'.inve = false ∨ q'.flags &&& fINV = 0)
    (hn : (cmdComplete (core * 4 + slot) u num t).stuck = none) :
    ∃ t', exec (.xlXsCommandComplete core slot unit num) s = .next t'
      ∧ (t'.ctx (core * 4 + slot)).r.xq u = ((t.ctx (core * 4 + slot)).r.xq u).filter (fun x => x.num ≠ num)
      ∧ (t'.ctx (core * 4 + slot)).r.flags = (t.ctx (core * 4 + slot)).r.flags ||| q'.flags
      ∧ t'.timeline (core * 4 + slot) (if u = .xs then 1 else 0)
        = (t.timeline (core * 4 + slot) (if u = .xs then 1 else 0)).completed num q'.err := by
  have hc := r_cmdComplete hq' hi
  refine ⟨_, exec_xlXsCommandComplete hu hq hop hr hb hn, ?_, ?_, ?_⟩
  · rw [settle_ctx, hc, ended_xq]
  · rw [settle_ctx, hc, ended_flags]
  · rw [State.timeline, settle_ctx, hc, ended_timeline]
    rfl

/-! ### A copy completes (R147) -/

/-- The registers in which the copy `num` of copy context `cx` has left its queue. -/
def Regs.copied (cx num : Nat) (r : Regs) : Regs :=
  { r with cxQ := vset r.cxQ cx ((vget [] r.cxQ cx).filter fun x => x.num ≠ num) }

theorem copy_completes {s t : State} {core slot cx num : Nat} {q : CxCmd} (ha : (s.ctx (core * 4 + slot)).active = true)
    (hq : ((vget [] (s.ctx (core * 4 + slot)).r.cxQ cx).take 4).find? (fun x => x.num = num) = some q) (hh : q.halted = none) (hcx : cx < 4)
    (hrows : s.rows = none)
    (hfree : ((vget [] (s.ctx (core * 4 + slot)).r.cxQ cx).takeWhile fun y => y.num ≠ num).any (fun y => conflict y.ranges q.ranges) = false)
    (ho : runOp (cxMove (core * 4 + slot) cx num (s.requester (core * 4 + slot) 3 (5 + cx)) (q.len + 1)) s = (.ok (), t))
    (hn : t.stuck = none) :
    ∃ t', exec (.cxCopyComplete core slot cx num) s = .next t'
      ∧ vget [] (t'.ctx (core * 4 + slot)).r.cxQ cx
        = (vget [] (t.ctx (core * 4 + slot)).r.cxQ cx).filter (fun x => x.num ≠ num)
      ∧ t'.timeline (core * 4 + slot) (2 + cx) = (t.timeline (core * 4 + slot) (2 + cx)).completed num false := by
  have hx : exec (.cxCopyComplete core slot cx num) s
      = .next (settle s (tlComplete (core * 4 + slot) (2 + cx) num false (t.modRegs (core * 4 + slot) (Regs.copied cx num)))) := by
    dsimp only [exec, execCxCopyComplete]
    refine run_of_eq ?_ hn
    rw [hq]
    dsimp only
    rw [if_neg ?free, hrows, Option.getD_none, ho]
    case free =>
      rintro (h | h | h)
      · exact h ha
      · exact Bool.false_ne_true ((congrArg Option.isSome hh).symm.trans h)
      · exact Bool.false_ne_true (hfree.symm.trans h)
    rfl
  have hc := r_tlComplete (core * 4 + slot) (2 + cx) num false (t.modRegs (core * 4 + slot) (Regs.copied cx num))
  rw [r_modRegs] at hc
  refine ⟨_, hx, ?_, timeline_of_completed (by omega) hc rfl⟩
  rw [settle_ctx, hc]
  exact vget_vset_same _ _ hcx _

end Sys2Proof.Machine

/-!
The commands of ASG (O44): the context that ASG serves, the beginning and the rounds of a run, Finish, and the price commands.
-/
namespace Sys2Proof.Machine
open Sys2Proof

/-! ### The context that ASG serves (R359, R376) -/

theorem best_mem {better : Nat → Nat → Bool} {k : Nat} : ∀ {l : List Nat}, best better l = some k → k ∈ l
  | j :: l, h => by
    unfold best at h
    split at h
    next => exact Option.some.inj h ▸ List.mem_cons_self
    next i hi =>
      split at h
      · exact List.mem_cons_of_mem _ (best_mem (hi.trans h))
      · exact Option.some.inj h ▸ List.mem_cons_self

theorem grantSlotOf_mem {wait pri : Nat → Nat} {ks : List Nat} {k : Nat} (h : grantSlotOf wait pri ks = some k) : k ∈ ks := by
  unfold grantSlotOf at h
  dsimp only at h
  split at h
  · exact best_mem h
  · exact List.mem_of_mem_filter (best_mem h)

/-- The waits of ASG once it serves slot `k`. -/
def asgCounts (core k : Nat) (s : State) (j : Nat) : State :=
  s.modRegs (core * 4 + j) fun r => { r with asg := { r.asg with skid := if j = k then 0 else r.asg.skid + 1 } }

/-- A context whose wait for ASG is over. -/
def Ctx.served (c : Ctx) : Ctx := { c with r := { c.r with asg := { c.r.asg with skid := 0 } } }

theorem asgCounts_fold_ctxs (core k : Nat) : ∀ (l : List Nat) (s : State), ∃ x, l.foldl (asgCounts core k) s = { s with ctxs := x }
  | [], s => ⟨s.ctxs, rfl⟩
  | j :: l, s => (asgCounts_fold_ctxs core k l (asgCounts core k s j)).imp fun _ h => h

theorem asgCounts_fold_ctx (core k : Nat) : ∀ (l : List Nat) (s : State),
    (l.foldl (asgCounts core k) s).ctx (core * 4 + k) = if k ∈ l then (s.ctx (core * 4 + k)).served else s.ctx (core * 4 + k)
  | [], s => rfl
  | j :: l, s => by
    rw [List.foldl_cons, asgCounts_fold_ctx core k l, asgCounts]
    by_cases hj : j = k
    · rw [hj, ctx_modRegs, if_pos rfl, if_pos List.mem_cons_self]
      split <;> rfl
    · have hm : k ∈ j :: l ↔ k ∈ l := ⟨fun h => (List.mem_cons.1 h).resolve_left fun e => hj e.symm, List.mem_cons_of_mem _⟩
      rw [ctx_modRegs_other s (by omega : core * 4 + k ≠ core * 4 + j)]
      simp only [hm]

/-- The machine `g` in which ASG serves a context of `s`. -/
structure Serves (core slot : Nat) (s g : State) : Prop where
  rest : ∃ x, g = { s with ctxs := x }
  ctx : g.ctx (core * 4 + slot) = (s.ctx (core * 4 + slot)).served

section
variable {s g t : State} {core slot : Nat}

theorem asgGrant_serves (h : asgGrant core s = some (slot, g)) : Serves core slot s g := by
  unfold asgGrant at h
  obtain ⟨k, hk, hg⟩ := Option.map_eq_some_iff.1 h
  obtain ⟨rfl, rfl⟩ := Prod.mk.inj hg
  exact ⟨asgCounts_fold_ctxs core k _ s, (asgCounts_fold_ctx core k _ s).trans (if_pos (grantSlotOf_mem hk))⟩

theorem run_asgServe {f : State → State} (h : asgGrant core s = some (slot, g)) (hf : f g = t) (hn : t.stuck = none) :
    run (asgServe core slot f) s = .next (settle s t) := by
  refine run_of_eq ?_ hn
  unfold asgServe
  rw [h]
  exact (if_pos rfl).trans hf

namespace Serves
variable (hg : Serves core slot s g)
include hg

theorem noWrites : NoWrites s g := by
  obtain ⟨x, rfl⟩ := hg.rest
  exact ⟨rfl, rfl, rfl, rfl, rfl⟩

theorem stuck (hs : s.calm) : g.stuck = none := hg.noWrites.stuck.trans hs.2.2

theorem queue : (g.ctx (core * 4 + slot)).r.asg.queue = (s.ctx (core * 4 + slot)).r.asg.queue := (congrArg (fun c : Ctx => c.r.asg.queue) hg.ctx :)

theorem run : (g.ctx (core * 4 + slot)).r.asg.run = (s.ctx (core * 4 + slot)).r.asg.run := (congrArg (fun c : Ctx => c.r.asg.run) hg.ctx :)

theorem price : (g.ctx (core * 4 + slot)).r.asg.price = (s.ctx (core * 4 + slot)).r.asg.price :=
  (congrArg (fun c : Ctx => c.r.asg.price) hg.ctx :)

theorem asg : (g.ctx (core * 4 + slot)).r.asg = { (s.ctx (core * 4 + slot)).r.asg with skid := 0 } :=
  congrArg (fun c : Ctx => c.r.asg) hg.ctx

theorem winKey (space off : Nat) : Machine.winKey (core * 4 + slot) (g.ctx (core * 4 + slot)) space off
    = Machine.winKey (core * 4 + slot) (s.ctx (core * 4 + slot)) space off := by
  rw [hg.ctx]
  rfl

theorem winRead (space off n : Nat) : Machine.winRead (core * 4 + slot) space off n g = Machine.winRead (core * 4 + slot) space off n s := by
  unfold Machine.winRead
  rw [hg.winKey]
  obtain ⟨x, rfl⟩ := hg.rest
  rfl

theorem abList_bbuf (w off : Nat) (l : List Nat) : (abList (core * 4 + slot) w off l g).bbuf = (abList (core * 4 + slot) w off l s).bbuf := by
  unfold abList
  simp only [hg.winKey]
  obtain ⟨x, rfl⟩ := hg.rest
  rfl

theorem timeline (k : Nat) : g.timeline (core * 4 + slot) k = s.timeline (core * 4 + slot) k :=
  (congrArg (fun c : Ctx => vget ({} : Timeline) c.r.tl k) hg.ctx :)

end Serves

/-! ### Runs (R351, R352, R354) -/

/-- The run that the command `q` begins in `s`. -/
def AsgCmd.firstRun (ck : Nat) (q : AsgCmd) (s : State) : AsgRun :=
  let r := q.rcd.toNat
  let rows := fieldOf r 0 2
  let cols := fieldOf r 2 2
  let tab := (List.range rows).map fun i => (List.range cols).map fun j => asgScore ck (fieldOf r 4 1 % 32) i j s
  let caps := (List.range cols).map fun j => winRead ck 0 (fieldOf r 8 4 + 2 * j) 2 s
  { scores := tab.map fun l => l.map (·.1), cap := caps.map (·.1), a := List.replicate rows none, hb := List.replicate rows none,
    p := (s.ctx ck).r.asg.price.toList.take cols, rounds := 0, flags := tab.foldl (fun f l => l.foldl (fun f x => f ||| x.2.2) f) 0,
    status := none, bad := tab.any (fun l => l.any fun x => x.2.1) || caps.any (·.2) }

theorem firstRun_rows (ck : Nat) (q : AsgCmd) (s : State) : (q.firstRun ck s).scores.length = fieldOf q.rcd.toNat 0 2 := by
  simp [AsgCmd.firstRun]

theorem firstRun_cols (ck : Nat) (q : AsgCmd) (s : State) : (q.firstRun ck s).cap.length = fieldOf q.rcd.toNat 2 2 := by
  simp [AsgCmd.firstRun]

/-- A run begins with the sampled scores and capacities, every row free, and the prices in place. -/
theorem asgRunStart_leaves (hs : s.calm) {q : AsgCmd} {rest : List AsgCmd} (hq : (s.ctx (core * 4 + slot)).r.asg.queue = q :: rest)
    (hk : q.kind = 0) (hr : (s.ctx (core * 4 + slot)).r.asg.run = none) (h : asgGrant core s = some (slot, g)) :
    ∃ t' r, exec (.asgRunStart core slot) s = .next t'
      ∧ (t'.ctx (core * 4 + slot)).r.asg = { (s.ctx (core * 4 + slot)).r.asg with run := some r, skid := 0 }
      ∧ r.a = List.replicate (fieldOf q.rcd.toNat 0 2) none
      ∧ r.p = (s.ctx (core * 4 + slot)).r.asg.price.toList.take (fieldOf q.rcd.toNat 2 2)
      ∧ r.rounds = 0 ∧ r.status = none ∧ r.scores.length = fieldOf q.rcd.toNat 0 2 ∧ r.cap.length = fieldOf q.rcd.toNat 2 2 := by
  have hg := asgGrant_serves h
  have hx : exec (.asgRunStart core slot) s
      = .next (settle s (modAsg (core * 4 + slot) (fun a => { a with run := some (q.firstRun (core * 4 + slot) g) }) g)) := by
    dsimp only [exec, execAsgRunStart]
    refine run_asgServe h ?_ (hg.stuck hs)
    rw [hg.queue.trans hq, hg.run.trans hr]
    exact if_neg (not_not.2 hk)
  refine ⟨_, q.firstRun (core * 4 + slot) g, hx, ?_, rfl, ?_, rfl, rfl, firstRun_rows _ q g, firstRun_cols _ q g⟩
  · rw [settle_ctx, modAsg, r_modRegs, hg.asg]
  · rw [← hg.price]
    rfl

/-- A round takes the run one step on. -/
theorem asgRound_steps (hs : s.calm) {q : AsgCmd} {rest : List AsgCmd} {r : AsgRun}
    (hq : (s.ctx (core * 4 + slot)).r.asg.queue = q :: rest) (hr : (s.ctx (core * 4 + slot)).r.asg.run = some r)
    (h : asgGrant core s = some (slot, g)) : exec (.asgRound core slot) s = .next (modAsg (core * 4 + slot)
      (fun a => { a with run := some (asgStep (a.env q) a.limit.toNat r) }) g) := by
  have hg := asgGrant_serves h
  have hw := hg.noWrites.trans (noWrites_modRegs g (core * 4 + slot) fun x =>
    { x with asg := { x.asg with run := some (asgStep (x.asg.env q) x.asg.limit.toNat r) } })
  dsimp only [exec, execAsgRound]
  refine run_noWrites hs ?_ hw
  unfold asgServe
  rw [h]
  dsimp only
  rw [if_pos rfl, hg.queue.trans hq, hg.run.trans hr]

/-- The registers in which Finish has written the results of the run `r` with status `st` (R354). -/
def AsgRegs.finished (r : AsgRun) (st : Nat) (rest : List AsgCmd) (a : AsgRegs) : AsgRegs :=
  { a with price := a.price.mapFinIdx fun j v _ => r.p[j]?.getD v, rstat := BitVec.ofNat 32 st, rcount := BitVec.ofNat 32 r.rounds,
           queue := rest, run := none }

/-- The outputs that Finish writes. -/
def asgOutputs (ck : Nat) (q : AsgCmd) (r : AsgRun) (st : Nat) (s : State) : State :=
  let rc := q.rcd.toNat
  let s := abList ck 2 (fieldOf rc 12 4) (r.a.map fun x => x.getD 0xFFFF) s
  let s := if fieldOf rc 16 4 = 0xFFFFFFFF then s else abList ck 4 (fieldOf rc 16 4) (r.p.map (·.toNat)) s
  abList ck 4 (fieldOf rc 20 4) [st, r.rounds] s

theorem asgOutputs_stuck (ck : Nat) (q : AsgCmd) (r : AsgRun) (st : Nat) (s : State) : (asgOutputs ck q r st s).stuck = s.stuck := by
  unfold asgOutputs
  dsimp only
  split <;> rfl

theorem asgOutputs_ctx (ck : Nat) (q : AsgCmd) (r : AsgRun) (st : Nat) (s : State) (k : Nat) :
    (asgOutputs ck q r st s).ctx k = s.ctx k := by
  unfold asgOutputs
  dsimp only
  split <;> rfl

theorem vget_mapFinIdx {α β : Type} {n : Nat} (d : α) (e : β) (v : Vector α n) (f : (i : Nat) → α → i < n → β) {j : Nat} (hj : j < n) :
    vget e (v.mapFinIdx f) j = f j (vget d v j) hj := by
  simp [vget, hj]

/-- Finish. -/
theorem asgFinish_completes (hs : s.calm) {q : AsgCmd} {rest : List AsgCmd} {r : AsgRun} {st : Nat}
    (ha : (s.ctx (core * 4 + slot)).active = true)
    (hq : (s.ctx (core * 4 + slot)).r.asg.queue = q :: rest) (hr : (s.ctx (core * 4 + slot)).r.asg.run = some r) (hb : r.bad = false)
    (hst : r.status = some st) : ∃ t', exec (.asgFinish core slot) s = .next t'
      ∧ (t'.ctx (core * 4 + slot)).r.asg.queue = rest ∧ (t'.ctx (core * 4 + slot)).r.asg.run = none
      ∧ (t'.ctx (core * 4 + slot)).r.asg.rstat = BitVec.ofNat 32 st
      ∧ (t'.ctx (core * 4 + slot)).r.asg.rcount = BitVec.ofNat 32 r.rounds
      ∧ (t'.ctx (core * 4 + slot)).r.flags = (s.ctx (core * 4 + slot)).r.flags ||| r.flags
      ∧ t'.timeline (core * 4 + slot) 6 = (s.timeline (core * 4 + slot) 6).completed q.num false
      ∧ ∀ j, j < 256 → vget 0 (t'.ctx (core * 4 + slot)).r.asg.price j
          = (r.p[j]?).getD (vget 0 (s.ctx (core * 4 + slot)).r.asg.price j) := by
  have hx : exec (.asgFinish core slot) s = .next (settle s (tlComplete (core * 4 + slot) 6 q.num false (addFlags (core * 4 + slot) r.flags
      (modAsg (core * 4 + slot) (AsgRegs.finished r st rest) (asgOutputs (core * 4 + slot) q r st s))))) := by
    dsimp only [exec, execAsgFinish]
    refine run_of_eq ?_ ((asgOutputs_stuck _ q r st s).trans hs.2.2)
    rw [hq, hr]
    dsimp only
    rw [if_neg (not_not.2 ha), hb, if_neg Bool.false_ne_true, hst]
    rfl
  have hc := r_tlComplete (core * 4 + slot) 6 q.num false (addFlags (core * 4 + slot) r.flags
      (modAsg (core * 4 + slot) (AsgRegs.finished r st rest) (asgOutputs (core * 4 + slot) q r st s)))
  rw [addFlags, r_modRegs, modAsg, r_modRegs, asgOutputs_ctx] at hc
  refine ⟨_, hx, congrArg (fun x : Regs => x.asg.queue) hc, congrArg (fun x : Regs => x.asg.run) hc,
    congrArg (fun x : Regs => x.asg.rstat) hc, congrArg (fun x : Regs => x.asg.rcount) hc, congrArg Regs.flags hc,
    timeline_of_completed (by decide) hc rfl, fun j hj => ?_⟩
  exact (congrArg (fun x : Regs => vget 0 x.asg.price j) hc).trans (vget_mapFinIdx _ _ _ _ hj)

/-! ### Price commands (R357) -/

/-- `asg.pst` writes the prices. -/
theorem asgStore_completes (hs : s.calm) {q : AsgCmd} {rest : List AsgCmd} (hq : (s.ctx (core * 4 + slot)).r.asg.queue = q :: rest)
    (hk : q.kind = 2) (h : asgGrant core s = some (slot, g)) : ∃ t', exec (.asgPriceCommandComplete core slot) s = .next t'
      ∧ (t'.ctx (core * 4 + slot)).r.asg = { (s.ctx (core * 4 + slot)).r.asg with queue := rest, skid := 0 }
      ∧ t'.buf = commit s.buf (abList (core * 4 + slot) 4 q.off
          (((s.ctx (core * 4 + slot)).r.asg.price.toList.take q.n).map (·.toNat)) s).bbuf
      ∧ t'.timeline (core * 4 + slot) 6 = (s.timeline (core * 4 + slot) 6).completed q.num false := by
  have hg := asgGrant_serves h
  let l := ((s.ctx (core * 4 + slot)).r.asg.price.toList.take q.n).map (·.toNat)
  have hx : exec (.asgPriceCommandComplete core slot) s = .next (settle s (tlComplete (core * 4 + slot) 6 q.num false
      (modAsg (core * 4 + slot) (fun a => { a with queue := rest }) (abList (core * 4 + slot) 4 q.off l g)))) := by
    dsimp only [exec, execAsgPriceCommandComplete]
    refine run_asgServe h ?_ (hg.stuck hs)
    rw [hg.queue.trans hq, hg.price]
    dsimp only
    rw [if_neg (by omega), if_neg (by omega)]
  have hc := r_tlComplete (core * 4 + slot) 6 q.num false
    (modAsg (core * 4 + slot) (fun a => { a with queue := rest }) (abList (core * 4 + slot) 4 q.off l g))
  rw [modAsg, r_modRegs] at hc
  refine ⟨_, hx, ?_, congrArg (commit s.buf) (hg.abList_bbuf 4 q.off l), ?_⟩
  · refine (congrArg Regs.asg hc).trans ?_
    exact congrArg (fun a : AsgRegs => { a with queue := rest }) hg.asg
  · rw [← hg.timeline]
    exact timeline_of_completed (by decide) hc rfl

/-- The registers in which `asg.pld` has read `l`. -/
def AsgRegs.loaded (l : List (Nat × Bool)) (rest : List AsgCmd) (a : AsgRegs) : AsgRegs :=
  { a with price := a.price.mapFinIdx fun j v _ => match l[j]? with | some x => BitVec.ofNat 32 x.1 | none => v
           queue := rest }

/-- `asg.pld` reads prices none of which is NaN or infinite. -/
theorem asgLoad_completes (hs : s.calm) {q : AsgCmd} {rest : List AsgCmd} (hq : (s.ctx (core * 4 + slot)).r.asg.queue = q :: rest)
    (hk : q.kind = 1) (h : asgGrant core s = some (slot, g))
    (hread : ∀ j, j < q.n → ∃ x, winRead (core * 4 + slot) 0 (q.off + 4 * j) 4 s = (x, false) ∧ f32Special (BitVec.ofNat 32 x) = false) :
    ∃ t', exec (.asgPriceCommandComplete core slot) s = .next t' ∧ (t'.ctx (core * 4 + slot)).r.asg.queue = rest
      ∧ t'.timeline (core * 4 + slot) 6 = (s.timeline (core * 4 + slot) 6).completed q.num false
      ∧ ∀ j, j < 256 → vget 0 (t'.ctx (core * 4 + slot)).r.asg.price j = if j < q.n
          then BitVec.ofNat 32 (winRead (core * 4 + slot) 0 (q.off + 4 * j) 4 s).1 else vget 0 (s.ctx (core * 4 + slot)).r.asg.price j := by
  have hg := asgGrant_serves h
  let l := (List.range q.n).map fun j => winRead (core * 4 + slot) 0 (q.off + 4 * j) 4 s
  have hclean : l.any (·.2) = false := by
    simp only [l, List.any_map, List.any_eq_false, List.mem_range]
    intro j hj
    obtain ⟨x, hx, -⟩ := hread j hj
    simp [hx]
  have hfinite : (l.any fun x => f32Special (BitVec.ofNat 32 x.1)) = false := by
    simp only [l, List.any_map, List.any_eq_false, List.mem_range]
    intro j hj
    obtain ⟨x, hx, hf⟩ := hread j hj
    simp [hx, hf]
  have hx : exec (.asgPriceCommandComplete core slot) s = .next (settle s (tlComplete (core * 4 + slot) 6 q.num false
      (modAsg (core * 4 + slot) (AsgRegs.loaded l rest) g))) := by
    dsimp only [exec, execAsgPriceCommandComplete]
    refine run_asgServe h ?_ (hg.stuck hs)
    simp only [hg.winRead]
    rw [hg.queue.trans hq]
    dsimp only
    rw [if_neg (by omega), if_pos hk, if_neg (Bool.eq_false_iff.1 hclean), if_neg (Bool.eq_false_iff.1 hfinite)]
    rfl
  have hc := r_tlComplete (core * 4 + slot) 6 q.num false (modAsg (core * 4 + slot) (AsgRegs.loaded l rest) g)
  rw [modAsg, r_modRegs] at hc
  refine ⟨_, hx, congrArg (fun x : Regs => x.asg.queue) hc, ?_, fun j hj => ?_⟩
  · rw [← hg.timeline]
    exact timeline_of_completed (by decide) hc rfl
  · refine (congrArg (fun x : Regs => vget 0 x.asg.price j) hc).trans ((vget_mapFinIdx 0 _ _ _ hj).trans ?_)
    rw [hg.price]
    by_cases hn : j < q.n
    · simp [l, hn]
    · simp [l, hn]

end

end Sys2Proof.Machine

/-!
Case fills, the scrub of a case slot, and collectives (O44).
-/
namespace Sys2Proof.Machine
open Sys2Proof

/-! ### Case fills (R301 to R303, R307) -/

section
variable {s t : State} {core slot num : Nat} {q : Cmd}

theorem fillOf_eq_some (h : fillOf (core * 4 + slot) num s = some q) : findCmd (core * 4 + slot) .xl num s = some q ∧ q.op = .case := by
  unfold fillOf at h
  split at h
  next x hx =>
    split at h
    next hc => exact ⟨hx.trans h, Option.some.inj h ▸ hc.1⟩
    next => cases h
  next => cases h

/-- A fill reads its block's table. -/
theorem fill_reads (hq : fillOf (core * 4 + slot) num s = some q) (hd : q.data = none) {v : Nat}
    (hv : runOp (cwRead (xReq (core * 4 + slot) .xl s) q.cls (q.bnd 0 0).pin ((q.bnd 0 0).head.stride * (q.coord[0]?.getD 0))
      (q.bnd 0 0).head.stride) s = (.ok v, t)) (hn : t.stuck = none) : exec (.xlXsCommandComplete core slot 3 num) s
        = .next (settle s (modCmd (core * 4 + slot) .xl num (fun q => { q with data := some (BitVec.ofNat 16384 v) }) t)) := by
  obtain ⟨hf, hop⟩ := fillOf_eq_some hq
  dsimp only [exec, execXlXsCommandComplete]
  refine run_of_eq ?_ hn
  rw [if_neg (by decide), hf]
  dsimp only
  rw [if_pos hop]
  unfold fillRead
  rw [hq]
  dsimp only
  rw [if_neg (by rw [hd]; exact Bool.false_ne_true), hv]

theorem grantSlot_noWrites (s : State) (ck k : Nat) (q : Cmd) : NoWrites s (grantSlot ck k q s) := ⟨rfl, rfl, rfl, rfl, rfl⟩

section
variable (hs : s.calm) (hq : fillCmd (core * 4 + slot) num s = some q)
include hs hq

/-- A fill of a named slot is granted it. -/
theorem fill_grant_named (h0 : q.step = 0) (ho : q.opt = 0) :
    exec (.caseFillGrant core slot num) s = .next (grantSlot (core * 4 + slot) q.buf q s) := by
  dsimp only [exec, execCaseFillGrant]
  refine run_noWrites hs ?_ (grantSlot_noWrites s _ _ q)
  rw [hq]
  dsimp only
  rw [if_neg (not_not.2 h0), if_pos ho]

/-- A fill under `.auto` is granted the slot that is chosen. -/
theorem fill_grant_chosen {k : Nat} (h0 : q.step = 0) (ho : q.opt = 1)
    (hk : chooseSlot (core * 4 + slot) q.pin0.cbid (q.coord[0]?.getD 0) q.pin0.version none s = some (k, false)) :
    exec (.caseFillGrant core slot num) s = .next (grantSlot (core * 4 + slot) k q s) := by
  dsimp only [exec, execCaseFillGrant]
  refine run_noWrites hs ?_ (grantSlot_noWrites s _ _ q)
  rw [hq]
  dsimp only
  rw [if_neg (not_not.2 h0), if_neg (by omega), hk]

/-- A fill whose slot a scrub took is granted the slot that is chosen now. -/
theorem fill_rechoose {k : Nat} (h2 : q.step = 2)
    (hk : chooseSlot (core * 4 + slot) q.pin0.cbid (q.coord[0]?.getD 0) q.pin0.version q.excl s = some (k, false)) :
    exec (.caseFillRechoose core slot num) s = .next (grantSlot (core * 4 + slot) k q s) := by
  dsimp only [exec, execCaseFillRechoose]
  refine run_noWrites hs ?_ (grantSlot_noWrites s _ _ q)
  rw [hq]
  dsimp only
  rw [if_neg (not_not.2 h2), hk]

omit hs in
/-- A hit completes the fill. -/
theorem fill_hit {k : Nat} (h0 : q.step = 0) (ho : q.opt = 1)
    (hk : chooseSlot (core * 4 + slot) q.pin0.cbid (q.coord[0]?.getD 0) q.pin0.version none s = some (k, true))
    (hn : (cmdComplete (core * 4 + slot) .xl num s).stuck = none) :
    exec (.caseFillGrant core slot num) s = .next (settle s (cmdComplete (core * 4 + slot) .xl num s)) := by
  dsimp only [exec, execCaseFillGrant]
  refine run_of_eq ?_ hn
  rw [hq]
  dsimp only
  rw [if_neg (not_not.2 h0), if_neg (by omega), hk]

omit hs in
/-- A table lands: its bytes and zeroes above them stand in the slot, and the fill completes. -/
theorem fill_lands {v : BitVec 16384} (h1 : q.step = 1) (hd : q.data = some v) :
    let key := caseKey core ((s.ctx (core * 4 + slot)).caseSlots[q.slot]?.getD 0)
    let e := cmdComplete (core * 4 + slot) .xl num (caseTouch (core * 4 + slot) q.slot (modCase (core * 4 + slot) q.slot
      (fun x => { x with state := 2, bad := [], landed := s.cycle.toNat })
      ((zeroBuf key 2048 s).bufWrite key (q.bnd 0 0).head.stride v.toNat)))
    e.stuck = none → exec (.caseFillLanded core slot num) s = .next (settle s e) := by
  intro key e hn
  dsimp only [exec, execCaseFillLanded]
  refine run_of_eq ?_ hn
  rw [hq]
  dsimp only
  rw [hd]
  exact if_neg (not_not.2 h1)

end

/-- Where the error log has no base, an entry is counted as lost. -/
theorem errorLog_none {d : Nat} (h : (s.die d).elBase = 0) (kind unit who linst line : Nat) :
    errorLog d kind unit who linst line s = (0, countDie d 3 1 s) := by
  unfold errorLog
  dsimp only
  rw [if_pos (Or.inl (by rw [h]; rfl))]

theorem evictCase_cases {p : Nat} (hp : p < 16) (s : State) : vget {} ((evictCase core p s).core core).cases p
    = { vget {} (s.core core).cases p with state := 0, cbid := 0, block := 0, bad := [] } := by
  unfold evictCase
  rw [core_modCore]
  exact vget_vset_same _ _ hp _

/-- A scrub of a slot under AUTO with a parity error empties it. -/
theorem scrub_empties (hs : s.calm) {k w : Nat} (hk : k < 16) (h2 : (vget {} (s.core core).cases k).state = 2#2)
    (ha : (vget {} (s.core core).cases k).auto = true) (hel : (s.die (core / 48)).elBase = 0) :
    ∃ t', exec (.caseScrub core k (some w)) s = .next t'
      ∧ vget {} (t'.core core).cases k = { vget {} (s.core core).cases k with state := 0, cbid := 0, block := 0, bad := [] } := by
  suffices h : ∃ t, exec (.caseScrub core k (some w)) s = run (fun _ => t) s ∧ t.stuck = none
      ∧ t.core core = (evictCase core k (countDie (core / 48) 3 1 s)).core core by
    obtain ⟨t, ht, hn, hc⟩ := h
    refine ⟨_, ht.trans (run_of_eq rfl hn), ?_⟩
    rw [settle_core, hc]
    exact evictCase_cases hk _
  dsimp only [exec, execCaseScrub]
  refine ⟨_, run_congr rfl, ?_⟩
  dsimp only [Option.or]
  have hstate : ¬ (2#2 = 0#2 ∨ 2#2 = 1#2 ∧ (vget {} (s.core core).cases k).auto = false) :=
    not_or.2 ⟨by decide, fun h => absurd h.1 (by decide)⟩
  rw [h2, if_neg hstate]
  generalize List.find? _ (List.range 4) = owner
  simp only [errorLog_none hel, ha, Bool.true_eq_false, if_false]
  cases owner with
  | none => exact ⟨hs.2.2, rfl⟩
  | some j =>
    dsimp only
    split
    · exact ⟨hs.2.2, rfl⟩
    · exact ⟨hs.2.2, rfl⟩

end

/-! ### Collectives (R446) -/

section
variable {s t : State} {core slot num : Nat} {q : Coll}

theorem noWrites_modColl (s : State) (ck num : Nat) (f : Coll → Coll) : NoWrites s (modColl ck num f s) := by
  unfold modColl
  dsimp only
  split
  · exact ⟨rfl, rfl, rfl, rfl, rfl⟩
  · exact noWrites_modRegs s ck _

theorem noWrites_countColl (s : State) (c : Coll) : NoWrites s (countColl c s) := by
  unfold countColl
  split
  · exact noWrites_modDie s _ _
  · exact .refl s

theorem noWrites_countHeld (s : State) : NoWrites s (countHeld s) :=
  (noWrites_foldl noWrites_countColl _ s).trans ⟨rfl, rfl, rfl, rfl, rfl⟩

theorem noWrites_collGiveUp (s : State) (ck num status : Nat) : NoWrites s (collGiveUp ck num status s) :=
  (noWrites_modColl s ck num _).trans (noWrites_countHeld _)

/-- The result of a chunk arrives from its reducer. -/
theorem chunkMessage_result (hs : s.calm) {chunk rank : Nat} {bytes : List (BitVec 8)} {poison : List Nat} {y : Chunk}
    (hq : findColl (core * 4 + slot) num s = some q) (hst : q.status = 0) (hy : q.chunks[chunk]? = some y) (hy0 : y.state = 0)
    (hr : rank = q.reducer chunk) (hne : rank ≠ q.rank) (hb : bytes.length = q.resultBytes chunk) :
    exec (.cleChunkMessage core slot num chunk rank true bytes poison) s = .next (modChunk (core * 4 + slot) num chunk
      (fun y => { y with state := 3, result := bytes, rpoison := poison }) s) := by
  dsimp only [exec, execCleChunkMessage]
  refine run_noWrites hs ?_ (noWrites_modColl s _ num _)
  rw [hq]
  dsimp only
  rw [hy]
  dsimp only
  rw [if_neg (by omega), if_pos rfl, if_neg hne, if_pos ⟨hy0, hr, hb⟩]

/-- The members of a collective do not answer in time. -/
theorem memberTimeout_gives_up (hs : s.calm) :
    exec (.cleMemberTimeout core slot num) s = .next (collGiveUp (core * 4 + slot) num 1 s) := by
  dsimp only [exec, execCleMemberTimeout]
  exact run_noWrites hs rfl (noWrites_collGiveUp s _ num 1)

/-- The contexts and the machine's going on, as a collective's status area is written and it is counted. -/
structure Stands (s t : State) : Prop where
  ctxs : t.ctxs = s.ctxs
  stuck : t.stuck = s.stuck

theorem Stands.refl (s : State) : Stands s s := ⟨rfl, rfl⟩

theorem Stands.ctx (h : Stands s t) (k : Nat) : t.ctx k = s.ctx k := congrArg (getAt ({} : Ctx) k) h.ctxs

theorem Stands.trans {u : State} (h : Stands s t) (h' : Stands t u) : Stands s u := ⟨h'.ctxs.trans h.ctxs, h'.stuck.trans h.stuck⟩

theorem stands_foldl {α : Type} {f : State → α → State} (hf : ∀ t a, Stands t (f t a)) :
    ∀ (l : List α) (s : State), Stands s (l.foldl f s)
  | [], s => .refl s
  | a :: l, s => (hf s a).trans (stands_foldl hf l _)

theorem countColl_stands (c : Coll) (s : State) : Stands s (countColl c s) := by
  unfold countColl
  split
  · exact ⟨rfl, rfl⟩
  · exact .refl s

/-- What the end of a collective writes to memory and counts. -/
def collOutputs (ck : Nat) (c : Coll) (s : State) : State :=
  let s := winWrite ck 0 c.stat 4 c.status s
  let s := if c.status = 3 ∨ c.status = 4 then s
    else (enum c.chunks).foldl (fun s y => winWrite ck 0 (c.stat + 4 + y.1) 1 (if y.2.state = 2 then 1 else 0) s) s
  countColl c s

theorem collOutputs_stands (ck : Nat) (c : Coll) (s : State) : Stands s (collOutputs ck c s) := by
  have hw : Stands s (winWrite ck 0 c.stat 4 c.status s) := ⟨rfl, rfl⟩
  refine (hw.trans ?_).trans (countColl_stands c _)
  split
  · exact .refl _
  · refine stands_foldl (fun t y => ?_) _ _
    exact ⟨rfl, rfl⟩

/-- A collective with nothing left to do ends. -/
theorem collective_completes (hs : s.calm) (ha : (s.ctx (core * 4 + slot)).active = true)
    (hq : ((s.ctx (core * 4 + slot)).r.coll.find? fun x => x.num = num) = some q) (hd : q.done = true)
    (hh : (s.ctx (core * 4 + slot)).r.collHeld q = false) : ∃ t', exec (.cleCollectiveComplete core slot num) s = .next t'
      ∧ (t'.ctx (core * 4 + slot)).r.coll = (s.ctx (core * 4 + slot)).r.coll.filter (fun x => x.num ≠ num)
      ∧ (t'.ctx (core * 4 + slot)).r.flags = (s.ctx (core * 4 + slot)).r.flags ||| q.flags
      ∧ t'.timeline (core * 4 + slot) 7 = (s.timeline (core * 4 + slot) 7).completed num (decide (q.status ≠ 0)) := by
  obtain rfl : q.num = num := of_decide_eq_true (List.find?_some hq :)
  have ho := collOutputs_stands (core * 4 + slot) q s
  have hx : exec (.cleCollectiveComplete core slot q.num) s = .next (settle s (collEnd (core * 4 + slot) q s)) := by
    dsimp only [exec, execCleCollectiveComplete]
    refine run_of_eq ?_ (ho.stuck.trans hs.2.2)
    rw [hq]
    exact if_pos ⟨ha, hd, by rw [hh]; exact Bool.false_ne_true⟩
  have hc : ((collEnd (core * 4 + slot) q s).ctx (core * 4 + slot)).r = _ := r_tlComplete _ 7 q.num _
    ((addFlags (core * 4 + slot) q.flags (collOutputs (core * 4 + slot) q s)).modRegs (core * 4 + slot) fun r =>
      { r with coll := r.coll.filter fun x => x.num ≠ q.num })
  rw [r_modRegs, addFlags, r_modRegs, ho.ctx] at hc
  exact ⟨_, hx, congrArg Regs.coll hc, congrArg Regs.flags hc, timeline_of_completed (by decide) hc rfl⟩

end

/-- Settles O44: the number of a command that ends is taken by its timeline (`timeline_of_completed`); a command of XL or XS
(`command_completes`), a copy, a run of ASG and a collective leave their queues, the rounds, fills and messages before them advance. -/
theorem commandsComplete : Obligations.CommandsComplete := by
  intro s t core slot unit num cx chunk rank bytes poison hs hslot ck c u tl ends a served ha
  have htl : tl = if u = .xs then 1 else 0 := by
    by_cases h4 : unit = 4
    · simp only [tl, u, if_pos h4, if_true]
    · simp only [tl, u, if_neg h4, reduceCtorEq, if_false]
  refine ⟨fun q q' hq hop hr hb hq' hi hn => ?_, fun q hq hh hcx hrows hfree ho hn => copy_completes ha hq hh hcx hrows hfree ho hn,
    fun q rest hq => ⟨fun hk hr ⟨g, h⟩ => asgRunStart_leaves hs hq hk hr h, fun r g hr _ _ h => asgRound_steps hs hq hr h,
      fun r st hr hb hst => asgFinish_completes hs ha hq hr hb hst, fun hk ⟨g, h⟩ => asgStore_completes hs hq hk h,
      fun hk ⟨g, h⟩ hread => asgLoad_completes hs hq hk h hread⟩,
    fun q v hq hd hv hn => fill_reads hq hd hv hn,
    fun q hq => ⟨fun h0 ho => fill_grant_named hs hq h0 ho, fun k h0 ho hk => fill_grant_chosen hs hq h0 ho hk,
      fun k h2 hk => fill_rechoose hs hq h2 hk, fun k h0 ho hk hn => fill_hit hq h0 ho hk hn, fun v h1 hd => fill_lands hq h1 hd⟩,
    fun k w x hx hk h2 hauto hel => ?_,
    fun q y hq hst hy hh => ⟨fun h0 hr hne hb => chunkMessage_result hs hq hst hy h0 hr hne hb, memberTimeout_gives_up hs⟩,
    fun q hq hd hh => collective_completes hs ha hq hd hh⟩
  · rw [htl]
    exact command_completes rfl hq hop hr hb hq' hi hn
  · subst hx
    exact scrub_empties hs hk h2 hauto hel

end Sys2Proof.Machine
